-- ==== Sys2Proof/Word.lean ====
section
/-! DEFINITION. The words of the head and the plain table type: bytes, 32-bit and 64-bit words (R7), and the sparse
table by which the model holds memories, register files and indexed contexts. -/

namespace Sys2Proof

/-- A byte. -/
abbrev Byte := BitVec 8

/-- A 16-bit word. -/
abbrev Half := BitVec 16

/-- A 32-bit word, the width of every register (R9). -/
abbrev Word := BitVec 32

/-- A 64-bit word. -/
abbrev Long := BitVec 64

/-- A sparse table by a natural-number key: keys strictly rising, no entry equal to what an unlisted key reads as.
The operations that keep this form stand in Machine/Ops.lean. -/
abbrev Table (α : Type) := List (Nat × α)

end Sys2Proof
end

