-- ==== Sys2Proof/Syntax.lean ====
section
/-! DEFINITION. The commands and events of the head: one constructor per row of spec/opcode_table.json, with the operands
that the row's rule gives it, and the plain types of those operands. -/

namespace Sys2Proof

/-- The masters that reach registers (R286): the host over PCIe, the command protocol as firmware carries it out,
a firmware core, the safety island and the debug port. -/
inductive Port where
  | pcie
  | proto
  | fw (core : Fin 8)
  | island
  | debug
  deriving DecidableEq, Repr

/-- The endpoints that own flows (R517). -/
inductive Endpoint where
  | ring (r : Fin 8)
  | udp (ip : Word) (port : Half) (eth : Fin 2)
  | legacy (q : Fin 8)
  deriving DecidableEq, Repr

/-- A command-protocol request as it stands after its header (R514), with the completion fields of a ring entry (R534), which
stay 0 on the other transports. -/
structure Req where
  ep : Endpoint
  flow : Half
  seq : Word
  payload : List Byte
  tag : Half := 0
  sqIndex : Half := 0
  rspAddr : Long := 0
  rspCap : Word := 8208
  deriving DecidableEq, Repr

/-- Who asked for a service-lane exchange (R80). -/
inductive SvcOrigin where
  | none
  | host (id : Nat)
  | fetch (position : Nat)
  | phase (axis : Nat)
  | firmware
  /-- An exchange of an activation or trial (R502-R504): ACTIVATE, FW_STATUS, CONFIRM or FALL_BACK. -/
  | update
  deriving DecidableEq, Repr

/-- What the field-I/O die meets at its inputs in one tick of 1 µs (R436, R438): bit i of level, the level by the thresholds of its type,
or a closed current; of broken, a current below 0.30 mA; of gap, a current between two bands. -/
structure DieSample where
  level : Word := 0
  broken : Word := 0
  gap : Word := 0
  deriving DecidableEq, Repr

/-- The arrival of a downlink frame at the field-I/O die (R431): whether its CRC checks, and what the die met at its inputs in the ticks
since the arrival before. -/
structure DownArrival where
  crcOk : Bool
  samples : List DieSample := []
  deriving DecidableEq, Repr

/-- What an uplink frame carries of the die's own measurements (R431): the output readback, VFIELD in mV and the temperature. -/
structure DieReport where
  readback : Half := 0
  vfield : Half := 0
  temp : Half := 0
  deriving DecidableEq, Repr

/-- A direct write of a coefficient window that lands while a lane samples the axis (R200, R225): before which of the sample's four
bursts it lands, 4 after all of them, by which port, the axis, the word and the value. -/
structure CoefWrite where
  before : Fin 5
  port : Port
  axis : Byte
  word : Fin 128
  value : Word
  deriving DecidableEq, Repr

/-- The run of a lane for the next axis of its queue (R206), with the direct writes that land during the sample, in the order in which
they land (R200, R225). -/
structure LaneSample where
  lane : Fin 16
  writes : List CoefWrite := []
  deriving DecidableEq, Repr

/-- An open request over the debug port (R509): the level, the session in minutes, the password of level 1, the keys and
signatures of level 2. -/
structure DebugReq where
  level : Fin 3
  minutes : Half
  password : List Byte := []
  keyA : Byte := 0
  sigA : List Byte := []
  keyB : Byte := 0
  sigB : List Byte := []
  deriving DecidableEq, Repr

/-- A memory TLP of the PCIe endpoint (R533): BAR0, BAR2 or BAR4, the offset, a write's bytes with their byte enables, or the
number of bytes of a read. -/
structure BarTlp where
  bar : Fin 3
  offset : Long
  write : Bool
  bytes : List Byte := []
  enables : List Bool := []
  len : Nat := 4
  deriving DecidableEq, Repr

/-- A change of a host link (R539): the PCIe link trained at a speed and width, or an Ethernet port's link. -/
inductive LinkState where
  | pcie (speed : Fin 5) (width : Fin 5)
  | eth (port : Fin 2) (up : Bool)
  deriving DecidableEq, Repr

/-- A command or event of the head. (DESIGN CHOICE, log entry 11) -/
inductive Instr where
  /-- REGISTER_WRITE (R10). -/
  | registerWrite (port : Port) (addr : Word) (v : Word)
  /-- READ_CLEAR (R10). -/
  | readClear (port : Port) (addr : Word)
  /-- LATCH_INSTANT (R20). -/
  | latchInstant
  /-- SYS_COMMIT (R45). -/
  | sysCommit (port : Port) (v : Word)
  /-- LANE_WAKE (R34). -/
  | laneWake
  /-- PROFILE_LANE_WAKE (R34). -/
  | profileLaneWake
  /-- REGION_WAKE_DONE (R37). -/
  | regionWakeDone
  /-- SHUTTLE_LAUNCH (R22). -/
  | shuttleLaunch
  /-- SHUTTLE_RETURN (R89). -/
  | shuttleReturn (bytes : List Byte) (fcsOk : Bool)
  /-- RETURN_MISSING (R123). -/
  | returnMissing
  /-- SHUTTLE_TURNAROUND (R75). -/
  | shuttleTurnaround (bytes : List Byte) (fcsOk : Bool)
  /-- FRAME_FORWARD (R72). -/
  | frameForward (bytes : List Byte) (fcsOk : Bool)
  /-- XT_OUT (R82). -/
  | xtOut (port : Port) (v : Word)
  /-- RING_COMMIT (R91). -/
  | ringCommit (port : Port) (v : Word)
  /-- SERVICE_REQUEST_START (R80). -/
  | serviceRequestStart (target : Byte) (code : Byte) (index : Half) (data : List Byte)
  /-- SERVICE_TIMEOUT (R80). -/
  | serviceTimeout (slot : Fin 16)
  /-- LINK_LOCK_GAINED (R93). -/
  | linkLockGained (portB : Bool)
  /-- LINK_LOST (R120). -/
  | linkLost (portB : Bool)
  /-- LISTEN_TIMEOUT (R101). -/
  | listenTimeout
  /-- CLAIM_SEND (R102). -/
  | claimSend
  /-- CLAIM_HOLD_EXPIRY (R102). -/
  | claimHoldExpiry
  /-- CLAIM (R101). -/
  | claim (bytes : List Byte)
  /-- FOREIGN_SHUTTLE (R103). -/
  | foreignShuttle (bytes : List Byte)
  /-- YIELD (R97). -/
  | yield_ (bytes : List Byte)
  /-- RING_STOP (R97). -/
  | ringStop (bytes : List Byte)
  /-- DEFERRED_WITHDRAW (R103). -/
  | deferredWithdraw
  /-- FOLLOW_SILENCE_TIMEOUT (R93). -/
  | followSilenceTimeout
  /-- ENUMERATE (R98). -/
  | enumerate (bytes : List Byte)
  /-- DELAY (R110). -/
  | delay (bytes : List Byte) (q0 : Word)
  /-- INTEGRATION_TIMEOUT (R107). -/
  | integrationTimeout
  /-- TOPOLOGY_RECHECK (R105). -/
  | topologyRecheck
  /-- HEAL (R124). -/
  | heal (port : Port)
  /-- AUTO_HEAL (R124). -/
  | autoHeal
  /-- DELAY_RECAL (R113). -/
  | delayRecal (port : Port)
  /-- RECAL_TIMEOUT (R113). -/
  | recalTimeout
  /-- RESTART (R126). -/
  | restart (port : Port)
  /-- TIME_RATE_WRITE (R132). -/
  | timeRateWrite (port : Port) (v : Word)
  /-- RATE_SLEW_STEP (R132). -/
  | rateSlewStep
  /-- TIME_COMMIT (R133). -/
  | timeCommit (port : Port) (v : Word)
  /-- TIME_STEP_APPLY_UNLED (R133). -/
  | timeStepApplyUnled
  /-- SNAP (R130). -/
  | snap (port : Port)
  /-- FORCE_HOLDOVER (R135). -/
  | forceHoldover (port : Port)
  /-- HOLDOVER_TIMEOUT (R135). -/
  | holdoverTimeout
  /-- CALCULATOR_COMPARE (R139). -/
  | calculatorCompare
  /-- DOMAIN_STEP (R138). -/
  | domainStep (port : Port) (k : Fin 4) (v : Word)
  /-- PTP_EVENT_RX (R143). -/
  | ptpEventRx (eth : Fin 2) (frame : List Byte)
  /-- TRANSPARENT_CLOCK_FORWARD (R144). -/
  | transparentClockForward (eth : Fin 2) (frame : List Byte) (residence : Long)
  /-- SYNC_SEND (R147). -/
  | syncSend (eth : Fin 2) (frame : List Byte)
  /-- LAUNCH_AT_TIME (R148). -/
  | launchAtTime (eth : Fin 2) (queue : Fin 2) (err : Word)
  /-- SYNC_OUT_EDGE (R151). -/
  | syncOutEdge
  /-- SYNC_IN_EDGE (R152). -/
  | syncInEdge
  /-- SYNC_IN_MISSING (R152). -/
  | syncInMissing
  /-- MOVE_ABS (R166). -/
  | moveAbs (port : Port) (axis : Byte) (target : Long)
  /-- MOVE_REL (R166). -/
  | moveRel (port : Port) (axis : Byte) (distance : Long)
  /-- JOG (R170). -/
  | jog (port : Port) (axis : Byte) (velocity : Word)
  /-- STOP (R180). -/
  | stop (port : Port) (axis : Byte)
  /-- QUICK_STOP (R180). -/
  | quickStop (port : Port) (axis : Byte)
  /-- FOLLOW (R171). -/
  | follow (port : Port) (axis : Byte)
  /-- ENABLE (R158). -/
  | enable (port : Port) (axis : Byte)
  /-- DISABLE (R158). -/
  | disable (port : Port) (axis : Byte)
  /-- SET_REF (R157). -/
  | setRef (port : Port) (axis : Byte) (position : Long)
  /-- CLEAR_GUARD (R189). -/
  | clearGuard (port : Port) (pair : Byte)
  /-- STREAM_START (R178). -/
  | streamStart (port : Port) (group : Byte)
  /-- GROUP_STOP (R178). -/
  | groupStop (port : Port) (group : Byte)
  /-- GROUP_QSTOP (R181). -/
  | groupQstop (port : Port) (group : Byte)
  /-- FLUSH (R178). -/
  | flush (port : Port) (group : Byte)
  /-- PARAM_COMMIT (R164). -/
  | paramCommit (port : Port) (axis : Byte) (now : Bool)
  /-- PARAM_LOAD (R164). -/
  | paramLoad (port : Port) (axis : Byte)
  /-- PHASE_RESTORE_RESPONSE (R193). -/
  | phaseRestoreResponse (axis : Byte) (result : Byte) (data : List Byte)
  /-- LOOP_SAMPLE (R206). -/
  | loopSample (sample : LaneSample)
  /-- LOOP_OUTPUT_STAGE (R211). -/
  | loopOutputStage (axis : Byte)
  /-- COEF_COMMIT (R226). -/
  | coefCommit (port : Port) (axis : Byte) (clear : Bool)
  /-- COEF_LOAD (R226). -/
  | coefLoad (port : Port) (axis : Byte)
  /-- COEF_COMMIT_APPLY (R226). -/
  | coefCommitApply (lane : Fin 16)
  /-- BANK_SWAP (R224). -/
  | bankSwap (port : Port) (axis : Byte) (copyBack : Bool)
  /-- BANK_SWAP_APPLY (R224). -/
  | bankSwapApply (lane : Fin 16)
  /-- COPY_BACK_DONE (R224). -/
  | copyBackDone (lane : Fin 16)
  /-- INJECTOR_START (R230). -/
  | injectorStart (port : Port) (inj : Fin 4)
  /-- INJECTOR_STOP (R233). -/
  | injectorStop (port : Port) (inj : Fin 4)
  /-- INJECTOR_END (R231). -/
  | injectorEnd (inj : Fin 4)
  /-- NOP (R254). -/
  | nop (core : Fin 16)
  /-- LDI (R254). -/
  | ldi (core : Fin 16) (dd : BitVec 3) (imm : BitVec 16)
  /-- MOV (R254). -/
  | mov (core : Fin 16) (dd : BitVec 3) (ds : BitVec 3)
  /-- LD (R249). -/
  | ld (core : Fin 16) (dd : BitVec 3) (p : BitVec 2) (am : BitVec 2) (off : BitVec 12)
  /-- ST (R254). -/
  | st (core : Fin 16) (ds : BitVec 3) (p : BitVec 2) (am : BitVec 2) (off : BitVec 12)
  /-- LDA (R249). -/
  | lda (core : Fin 16) (a : BitVec 1) (p : BitVec 2) (am : BitVec 2) (off : BitVec 12)
  /-- STA_H (R245). -/
  | staH (core : Fin 16) (a : BitVec 1) (p : BitVec 2) (am : BitVec 2) (off : BitVec 12)
  /-- STA_W (R245). -/
  | staW (core : Fin 16) (a : BitVec 1) (p : BitVec 2) (am : BitVec 2) (off : BitVec 12)
  /-- MVH (R245). -/
  | mvh (core : Fin 16) (dd : BitVec 3) (a : BitVec 1)
  /-- MVA (R254). -/
  | mva (core : Fin 16) (a : BitVec 1) (ds : BitVec 3)
  /-- CLR (R254). -/
  | clr (core : Fin 16) (a : BitVec 1)
  /-- LDP (R254). -/
  | ldp (core : Fin 16) (pa : BitVec 2) (imm : BitVec 20)
  /-- SETB (R254). -/
  | setb (core : Fin 16) (pa : BitVec 2) (imm : BitVec 20)
  /-- SETL (R247). -/
  | setl (core : Fin 16) (pa : BitVec 2) (imm : BitVec 16)
  /-- ADDP (R247). -/
  | addp (core : Fin 16) (pa : BitVec 2) (imm : BitVec 16)
  /-- MPY (R243). -/
  | mpy (core : Fin 16) (a : BitVec 1) (ds : BitVec 3) (dt : BitVec 3) (mm : BitVec 2) (fr : BitVec 1)
  /-- MAC (R244). -/
  | mac (core : Fin 16) (a : BitVec 1) (ds : BitVec 3) (dt : BitVec 3) (mm : BitVec 2) (fr : BitVec 1)
  /-- MSU (R244). -/
  | msu (core : Fin 16) (a : BitVec 1) (ds : BitVec 3) (dt : BitVec 3) (mm : BitVec 2) (fr : BitVec 1)
  /-- MACL (R254). -/
  | macl (core : Fin 16) (a : BitVec 1) (dd : BitVec 3) (ds : BitVec 3) (dt : BitVec 3) (p : BitVec 2) (am : BitVec 2) (mm : BitVec 2) (fr : BitVec 1)
  /-- MPYL (R254). -/
  | mpyl (core : Fin 16) (a : BitVec 1) (dd : BitVec 3) (ds : BitVec 3) (dt : BitVec 3) (p : BitVec 2) (am : BitVec 2) (mm : BitVec 2) (fr : BitVec 1)
  /-- ADDA (R244). -/
  | adda (core : Fin 16) (a : BitVec 1)
  /-- ASL (R244). -/
  | asl (core : Fin 16) (a : BitVec 1) (sh : BitVec 6)
  /-- SATA (R245). -/
  | sata (core : Fin 16) (a : BitVec 1)
  /-- ADD (R246). -/
  | add (core : Fin 16) (dd : BitVec 3) (ds : BitVec 3) (dt : BitVec 3)
  /-- SUB (R246). -/
  | sub (core : Fin 16) (dd : BitVec 3) (ds : BitVec 3) (dt : BitVec 3)
  /-- ADDI (R246). -/
  | addi (core : Fin 16) (dd : BitVec 3) (imm : BitVec 16)
  /-- AND (R246). -/
  | and (core : Fin 16) (dd : BitVec 3) (ds : BitVec 3) (dt : BitVec 3)
  /-- OR (R246). -/
  | or (core : Fin 16) (dd : BitVec 3) (ds : BitVec 3) (dt : BitVec 3)
  /-- SHL (R246). -/
  | shl (core : Fin 16) (dd : BitVec 3) (ds : BitVec 3) (sh : BitVec 5)
  /-- CMP (R246). -/
  | cmp (core : Fin 16) (ds : BitVec 3) (dt : BitVec 3)
  /-- B (R255). -/
  | b (core : Fin 16) (cond : BitVec 4) (addr : BitVec 12)
  /-- CALL (R254). -/
  | call (core : Fin 16) (addr : BitVec 12)
  /-- RET (R254). -/
  | ret (core : Fin 16)
  /-- REP (R256). -/
  | rep (core : Fin 16) (n : BitVec 8)
  /-- RDO_D (R254). -/
  | rdoD (core : Fin 16) (dd : BitVec 3) (k : BitVec 2)
  /-- RDO_A (R254). -/
  | rdoA (core : Fin 16) (a : BitVec 1) (k : BitVec 2)
  /-- POST_D (R254). -/
  | postD (core : Fin 16) (ds : BitVec 3) (j : BitVec 2)
  /-- POST_A (R254). -/
  | postA (core : Fin 16) (a : BitVec 1) (j : BitVec 2)
  /-- END (R260). -/
  | end_ (core : Fin 16)
  /-- MFS (R254). -/
  | mfs (core : Fin 16) (dd : BitVec 3)
  /-- TASK_BUDGET_EXPIRY (R262). -/
  | taskBudgetExpiry (core : Fin 16)
  /-- POST_BUFFER_DRAIN (R254). -/
  | postBufferDrain (core : Fin 16)
  /-- HEM_LOAD (R267). -/
  | hemLoad (port : Port)
  /-- HEM_PATCH (R268). -/
  | hemPatch (port : Port)
  /-- PATCH_APPLY (R268). -/
  | patchApply
  /-- CORE_CTRL (R267). -/
  | coreCtrl (port : Port) (core : Fin 16) (v : Word)
  /-- CORE_OFFLINE_DONE (R267). -/
  | coreOfflineDone (core : Fin 16)
  /-- TOKEN_ARRIVAL (R278). -/
  | tokenArrival (inPort : Fin 7)
  /-- TASK_DISPATCH (R281), with the firmware cores whose task has ended before it: none where none is named. -/
  | taskDispatch (ended : List (Fin 8) := [])
  /-- AFFINITY_HOLD_EXPIRY (R282). -/
  | affinityHoldExpiry (task : BitVec 10)
  /-- DESCRIPTOR_WRITE (R275). -/
  | descriptorWrite (port : Port) (task : BitVec 10) (w : BitVec 3) (v : Word)
  /-- CANCEL (R280). -/
  | cancel (port : Port) (task : BitVec 10) (del : Bool)
  /-- POST_TOKEN (R272). -/
  | postToken (port : Port) (v : Word)
  /-- DELAY_INSERT (R285). -/
  | delayInsert (port : Port)
  /-- DELAY_REMOVE (R285). -/
  | delayRemove (port : Port)
  /-- DELAY_ENTRY_FIRE (R285). -/
  | delayEntryFire
  /-- MAILBOX_WRITE (R288). -/
  | mailboxWrite (port : Port) (m : BitVec 6) (v : Word)
  /-- MAILBOX_READ (R289). -/
  | mailboxRead (port : Port) (m : BitVec 6)
  /-- MAILBOX_STALL (R292). -/
  | mailboxStall (m : BitVec 6)
  /-- LOCK_READ (R295). -/
  | lockRead (port : Port) (k : BitVec 6)
  /-- LOCK_RELEASE (R295). -/
  | lockRelease (port : Port) (k : BitVec 6) (v : Word)
  /-- QUEUE_PUSH (R294). -/
  | queuePush (port : Port) (q : BitVec 3) (v : Word)
  /-- QUEUE_POP (R294). -/
  | queuePop (port : Port) (q : BitVec 3)
  /-- ENCODER_TRANSITION (R304). -/
  | encoderTransition (c : Fin 8) (a : Bool) (b : Bool)
  /-- STEP_EDGE (R306). -/
  | stepEdge (c : Fin 8) (dir : Bool)
  /-- INDEX_EDGE (R308). -/
  | indexEdge (c : Fin 8)
  /-- SSI_TRANSFER_END (R310). -/
  | ssiTransferEnd (c : Fin 8) (data : Long) (parity : Bool)
  /-- ENC_FAULT_CLEAR (R311). -/
  | encFaultClear (port : Port) (c : Fin 8)
  /-- FBC_COMMIT (R332). -/
  | fbcCommit (port : Port) (v : Word)
  /-- COMPARE_FIRE (R320). -/
  | compareFire (k : Fin 32)
  /-- PULSE_END (R320). -/
  | pulseEnd (k : Fin 32)
  /-- COMPARE_ARM (R327). -/
  | compareArm (port : Port) (k : Fin 32)
  /-- COMPARE_DISARM (R327). -/
  | compareDisarm (port : Port) (k : Fin 32)
  /-- SPOOL_SAMPLE (R335). -/
  | spoolSample
  /-- AUTO_TRIGGER_TIMEOUT (R342). -/
  | autoTriggerTimeout (spool : Fin 4)
  /-- ACQ_COMMIT (R349). -/
  | acqCommit (port : Port) (v : Word)
  /-- SPOOL_ARM (R343). -/
  | spoolArm (port : Port) (spool : Fin 4)
  /-- SPOOL_STOP (R343). -/
  | spoolStop (port : Port) (spool : Fin 4)
  /-- SPOOL_FORCE (R341). -/
  | spoolForce (port : Port) (spool : Fin 4)
  /-- SPOOL_RELEASE (R342). -/
  | spoolRelease (port : Port) (spool : Fin 4)
  /-- SPOOL_DUMP (R339). -/
  | spoolDump (port : Port) (spool : Fin 4)
  /-- ARCHIVE_BURST (R339). -/
  | archiveBurst (spool : Fin 4)
  /-- HELLO_SEND (R353). -/
  | helloSend
  /-- HELLO (R356). -/
  | hello (bytes : List Byte) (fcsOk : Bool)
  /-- TWIN_CYCLE_SEND (R353). -/
  | twinCycleSend
  /-- CYCLE_A (R366). -/
  | cycleA (bytes : List Byte) (fcsOk : Bool)
  /-- CYCLE_S (R370). -/
  | cycleS (bytes : List Byte) (fcsOk : Bool)
  /-- RETURN (R360). -/
  | return_ (bytes : List Byte)
  /-- JOURNAL (R366). -/
  | journal (bytes : List Byte) (fcsOk : Bool)
  /-- JOURNAL_STAMP (R364). -/
  | journalStamp (kind : Byte) (source : Byte) (target : Word) (data : List Byte)
  /-- JOURNAL_STAMP_CONTINUE (R367). -/
  | journalStampContinue
  /-- SYNC (R381). -/
  | sync (bytes : List Byte) (fcsOk : Bool)
  /-- TAKEOVER_DECISION (R372). -/
  | takeoverDecision (arrived : Bool)
  /-- TWIN_LINK_LOST (R356). -/
  | twinLinkLost (lock : Bool)
  /-- TWIN_COMMIT (R390). -/
  | twinCommit (port : Port) (v : Word)
  /-- RESYNC (R380). -/
  | resync (port : Port)
  /-- SWAP (R386). -/
  | swap (port : Port)
  /-- REJOIN (R379). -/
  | rejoin (port : Port)
  /-- RELEASE (R384). -/
  | release (port : Port)
  /-- AUTO_RESYNC (R380). -/
  | autoResync
  /-- AUTO_REJOIN (R379). -/
  | autoRejoin
  /-- RESYNC_PHASE_DONE (R381). -/
  | resyncPhaseDone
  /-- RESYNC_TIMEOUT (R381). -/
  | resyncTimeout
  /-- ACTION_ACK_TIMEOUT (R386). -/
  | actionAckTimeout
  /-- FIELD_INPUT_DISCREPANCY (R388). -/
  | fieldInputDiscrepancy (input : Fin 32)
  /-- SAFETY_CYCLE_START (R396). -/
  | safetyCycleStart
  /-- SAFETY_OUTPUT_INSTANT (R396). -/
  | safetyOutputInstant
  /-- PDU_ISSUE (R396). -/
  | pduIssue
  /-- SELVEDGE_DATAGRAM (R408). -/
  | selvedgeDatagram (ip : Word) (port : Half) (bytes : List Byte)
  /-- SELVEDGE_WATCHDOG (R403). -/
  | selvedgeWatchdog (c : Byte)
  /-- DISCREPANCY_TIMEOUT (R411). -/
  | discrepancyTimeout (term : Byte)
  /-- SS1_TIME_EXPIRY (R414). -/
  | ss1TimeExpiry (axis : Byte)
  /-- STO_AFTER_BRAKE (R415). -/
  | stoAfterBrake (axis : Byte)
  /-- SLO_FEEDBACK_TIMEOUT (R416). -/
  | sloFeedbackTimeout (g : Fin 8)
  /-- EDM_TIMEOUT (R417). -/
  | edmTimeout (k : Fin 16)
  /-- TEST_PULSE_START (R418). -/
  | testPulseStart (k : Fin 16)
  /-- TEST_PULSE_END (R418). -/
  | testPulseEnd (k : Fin 16) (sawOff : Bool) (backOn : Bool)
  /-- ISLAND_START_DONE (R394). -/
  | islandStartDone (passed : Bool)
  /-- ISLAND_FAULT (R424). -/
  | islandFault (cause : Byte)
  /-- ISLAND_SAFE_STATE_ENTRY (R424). -/
  | islandSafeStateEntry
  /-- FIO_DOWNLINK_FRAME (R431). -/
  | fioDownlinkFrame
  /-- FIO_DOWNLINK_RECEIVE (R431). -/
  | fioDownlinkReceive (arrival : DownArrival)
  /-- FIO_UPLINK_FRAME (R432). -/
  | fioUplinkFrame (report : DieReport) (crcOk : Bool)
  /-- FIO_LINK_TIMEOUT (R433). -/
  | fioLinkTimeout
  /-- OUTPUT_OVERLOAD (R443). -/
  | outputOverload (k : Fin 16)
  /-- OVERLOAD_RETRY (R443). -/
  | overloadRetry (k : Fin 16)
  /-- READBACK_MISMATCH (R444). -/
  | readbackMismatch (k : Fin 16)
  /-- FIO_COMMIT (R451). -/
  | fioCommit (port : Port) (v : Word)
  /-- FIO_OUT_WRITE (R441). -/
  | fioOutWrite (port : Port) (v : Word)
  /-- GRACE_EXPIRY (R460). -/
  | graceExpiry (blk : Fin 16) (ev : Fin 32)
  /-- FAULT_ACK (R460). -/
  | faultAck (port : Port) (blk : Fin 16) (v : Word)
  /-- HIST_CLEAR (R456). -/
  | histClear (port : Port) (blk : Fin 16) (v : Word)
  /-- BLOCK_RESET_DONE (R462). -/
  | blockResetDone (blk : Fin 16) (us : Half)
  /-- DEFERRED_BLOCK_RESET (R461). -/
  | deferredBlockReset (blk : Fin 16)
  /-- QUIESCE_END (R463). -/
  | quiesceEnd (blk : Fin 16)
  /-- REGION_STOP_STO_REQUEST (R464). -/
  | regionStopStoRequest
  /-- CLEAR_STOP (R464). -/
  | clearStop (port : Port)
  /-- SAFE_STATE (R465). -/
  | safeState (port : Port)
  /-- INJECT (R466). -/
  | inject (port : Port)
  /-- ALIVE_TOGGLE (R468). -/
  | aliveToggle
  /-- TEMPERATURE_REFRESH (R564). -/
  | temperatureRefresh (readings : List Half)
  /-- LEAVE_REQUEST (R470). -/
  | leaveRequest (requester : Byte) (cls : BitVec 4) (rail : Fin 5) (current : Half) (duration : Half)
  /-- LEAVE_GRANT (R472). -/
  | leaveGrant (rail : Fin 5)
  /-- LEAVE_END (R472). -/
  | leaveEnd (requester : Byte) (running : Bool)
  /-- MAINT_REQUEST (R475). -/
  | maintRequest (port : Port) (act : BitVec 4)
  /-- MAINT_RELEASE (R475). -/
  | maintRelease (port : Port) (act : BitVec 4)
  /-- SUPPLY_OUT_OF_RANGE (R551). -/
  | supplyOutOfRange (supply : Fin 13)
  /-- SUPPLY_FALL (R552). -/
  | supplyFall (supply : Fin 13)
  /-- CLOCK_LOSS (R556). -/
  | clockLoss (clk : Fin 3)
  /-- RESET_ASSERT (R480). -/
  | resetAssert
  /-- RESET_RELEASE (R481). -/
  | resetRelease (powerOn : Bool) (duration : Word) (aonS : Word) (bootSel : Fin 4) (rankPins : Fin 8)
  /-- LONG_RESET (R481). -/
  | longReset
  /-- BOOT_LOAD_DONE (R484). -/
  | bootLoadDone
  /-- CONFIGURATION_APPLY (R492). -/
  | configurationApply
  /-- UPD_MANIFEST (R500). -/
  | updManifest (r : Req)
  /-- UPD_BLOCK (R500). -/
  | updBlock (r : Req)
  /-- UPD_STATUS (R526). -/
  | updStatus (r : Req)
  /-- UPD_ACTIVATE (R530). -/
  | updActivate (r : Req)
  /-- ACTIVATION_REQUEST (R502). -/
  | activationRequest
  /-- ACTIVATION_CHECK (R502). -/
  | activationCheck
  /-- ACTIVATION_RESET (R502). -/
  | activationReset
  /-- HEALTH_CONFIRM (R503). -/
  | healthConfirm
  /-- HEALTH_TIMEOUT (R504). -/
  | healthTimeout
  /-- CONFIRM (R503). -/
  | confirm (port : Port)
  /-- REVERT (R505). -/
  | revert (port : Port)
  /-- ABORT_STAGING (R500). -/
  | abortStaging (port : Port)
  /-- NEW_NONCE (R507). -/
  | newNonce (port : Port)
  /-- SOFTWARE_RESET (R512). -/
  | softwareReset (port : Port)
  /-- PROT_REQUEST (R507). -/
  | protRequest (r : Req)
  /-- PROT_CONFIRM (R507). -/
  | protConfirm (r : Req)
  /-- PROT_OBJECT (R508). -/
  | protObject (r : Req)
  /-- LOCAL_CONFIRMATION (R507). -/
  | localConfirmation
  /-- PROTECTION_EXPIRY (R507). -/
  | protectionExpiry
  /-- DEBUG_OPEN (R509). -/
  | debugOpen (q : DebugReq)
  /-- DEBUG_SESSION_END (R509). -/
  | debugSessionEnd
  /-- FLOW_OPEN (R518). -/
  | flowOpen (r : Req)
  /-- FLOW_CLOSE (R518). -/
  | flowClose (r : Req)
  /-- ECHO (R526). -/
  | echo (r : Req)
  /-- REG_READ (R527). -/
  | regRead (r : Req)
  /-- REG_WRITE (R527). -/
  | regWrite (r : Req)
  /-- BOLT_READ (R526). -/
  | boltRead (r : Req)
  /-- BOLT_WRITE (R527). -/
  | boltWrite (r : Req)
  /-- ARCH_READ (R526). -/
  | archRead (r : Req)
  /-- AXIS_PARAM_SET (R526). -/
  | axisParamSet (r : Req)
  /-- AXIS_PARAM_GET (R526). -/
  | axisParamGet (r : Req)
  /-- AXIS_COEF_SET (R526). -/
  | axisCoefSet (r : Req)
  /-- AXIS_COEF_GET (R526). -/
  | axisCoefGet (r : Req)
  /-- GROUP_QUEUE_SET (R526). -/
  | groupQueueSet (r : Req)
  /-- GUARD_SET (R526). -/
  | guardSet (r : Req)
  /-- AXIS_CMD (R526). -/
  | axisCmd (r : Req)
  /-- SEG_APPEND (R528). -/
  | segAppend (r : Req)
  /-- GROUP_RATE (R526). -/
  | groupRate (r : Req)
  /-- SEG_STATUS (R526). -/
  | segStatus (r : Req)
  /-- CMP_APPEND (R528). -/
  | cmpAppend (r : Req)
  /-- CMP_ARM (R526). -/
  | cmpArm (r : Req)
  /-- CMP_STATUS (R526). -/
  | cmpStatus (r : Req)
  /-- WPARAM_READ (R529). -/
  | wparamRead (r : Req)
  /-- WPARAM_WRITE (R529). -/
  | wparamWrite (r : Req)
  /-- WMBX_SEND (R529). -/
  | wmbxSend (r : Req)
  /-- WMBX_FETCH (R529). -/
  | wmbxFetch (r : Req)
  /-- WIDENTIFY (R529). -/
  | widentify (r : Req)
  /-- SPOOL_CTRL (R526). -/
  | spoolCtrl (r : Req)
  /-- SPOOL_STATE (R526). -/
  | spoolState (r : Req)
  /-- SPOOL_READ (R526). -/
  | spoolRead (r : Req)
  /-- MAINT_REQ (R526). -/
  | maintReq (r : Req)
  /-- NONCE_GET (R526). -/
  | nonceGet (r : Req)
  /-- STATUS_GET (R526). -/
  | statusGet (r : Req)
  /-- AXIS_STATUS (R526). -/
  | axisStatus (r : Req)
  /-- EVT_SUBSCRIBE (R531). -/
  | evtSubscribe (r : Req)
  /-- HIST_READ (R526). -/
  | histRead (r : Req)
  /-- TIMED_FRAME (R148). -/
  | timedFrame (r : Req)
  /-- REQUEST_COMPLETE (R521). -/
  | requestComplete (id : Nat)
  /-- SQ_DOORBELL (R534). -/
  | sqDoorbell (r : Fin 8) (v : Word)
  /-- SQ_ENTRY_FETCH (R534). -/
  | sqEntryFetch (r : Fin 8) (entry : List Byte) (request : List Byte) (ok : Bool)
  /-- CQ_DOORBELL (R536). -/
  | cqDoorbell (r : Fin 8) (v : Word)
  /-- EVQ_DOORBELL (R536). -/
  | evqDoorbell (v : Word)
  /-- RING_PAIR_CTRL (R544). -/
  | ringPairCtrl (r : Fin 8) (v : Word)
  /-- MSIX_COALESCE_TIMEOUT (R537). -/
  | msixCoalesceTimeout (vec : Fin 10)
  /-- PCIE_LINK_RESET (R538). -/
  | pcieLinkReset
  /-- UDP_COMMAND (R541). -/
  | udpCommand (ip : Word) (port : Half) (eth : Fin 2) (bytes : List Byte)
  /-- FLOW_TIMEOUT (R518). -/
  | flowTimeout (flow : Half)
  /-- SWITCH_FRAME_FORWARD (R539). -/
  | switchFrameForward (ingress : Fin 3) (frame : List Byte)
  /-- ADDRESS_AGEOUT (R539). -/
  | addressAgeout (addr : BitVec 48)
  /-- ARP_REQUEST (R540). -/
  | arpRequest (eth : Fin 2) (frame : List Byte)
  /-- ICMP_ECHO (R540). -/
  | icmpEcho (eth : Fin 2) (frame : List Byte)
  /-- ILLEGAL_INSTRUCTION (R253). -/
  | illegalInstruction (core : Fin 16)
  /-- CLOCK_RESTORED (R556). -/
  | clockRestored (clk : Fin 3)
  /-- TWIN_LINK_LOCK_GAINED (R356). -/
  | twinLinkLockGained
  /-- FOREIGN_MANAGEMENT_FRAME (R103). -/
  | foreignManagementFrame (bytes : List Byte) (turnaround : Word)
  /-- HOMING_STEP_TIMEOUT (R495). -/
  | homingStepTimeout (axis : Byte)
  /-- HEM_IDLE_SCRUB (R242). -/
  | hemIdleScrub (core : Fin 16) (prog : Bool) (addr : BitVec 13) (err : Fin 3)
  /-- PCIE_BAR_ACCESS (R533). -/
  | pcieBarAccess (tlp : BarTlp)
  /-- HOST_LINK_CHANGE (R539). -/
  | hostLinkChange (link : LinkState)
  /-- PTP_GENERAL_MESSAGE (R141). -/
  | ptpGeneralMessage (eth : Fin 2) (frame : List Byte)
  deriving DecidableEq, Repr

end Sys2Proof
end

