-- ==== Sys2Proof/Config.lean ====
section
/-! DEFINITION. What the spec leaves open or to mathematics outside it: opaque constants without a body, so that no proof
can see a value of them. The assumption log names each (notes/assumptions/). -/

namespace Sys2Proof.Config

/-- A fresh free value: the n-th value that the spec leaves open, of the asked width (DESIGN CHOICE, log entry 5). -/
opaque free (w : Nat) : Nat → BitVec w

/-- The payload and sign of a binary32 NaN that an operation makes from its operands (DESIGN CHOICE, log entry 6). -/
opaque nan32 : Word → Word → Word

/-- The payload and sign of a binary64 NaN that an operation makes from its operands (DESIGN CHOICE, log entry 6). -/
opaque nan64 : Long → Long → Long

/-- SHA-256 of a byte string, as its big-endian 256-bit value (DESIGN CHOICE, log entry 7). -/
opaque sha256 : List Byte → BitVec 256

/-- Whether an ECDSA P-256 signature (r and s, 64 bytes) over a SHA-256 value verifies under a public key (DESIGN CHOICE, log entry 7). -/
opaque ecdsaOk : (key : BitVec 512) → (hash : BitVec 256) → (sig : List Byte) → Bool

/-- The AES-256-GCM decryption of a byte string: key, nonce, cipher text, tag; nothing when the tag fails (DESIGN CHOICE, log entry 7). -/
opaque gcmOpen : (key : BitVec 256) → (nonce : List Byte) → (cipher : List Byte) → (tag : List Byte) → Option (List Byte)

/-- The sine of a binary64 angle in radians, in binary64 (DESIGN CHOICE, log entry 8). -/
opaque sin64 : Long → Long

/-- The natural exponential in binary64 (DESIGN CHOICE, log entry 8). -/
opaque exp64 : Long → Long

/-- The natural logarithm in binary64 (DESIGN CHOICE, log entry 8). -/
opaque ln64 : Long → Long

/-- What a key area holds (R506): its write count, the owner root key, the digest and signature that validate it, the public keys
with role (0 manifest signer, 1 party A, 2 party B) and revoked flag, and the debug policy. -/
structure KeyArea where
  seq : Nat
  root : BitVec 512
  digest : BitVec 256
  sig : List Byte
  keys : List (Nat × Bool × BitVec 512)
  l1 : Bool
  l2 : Bool
  maxMinutes : Nat
  passHash : BitVec 256
  deriving DecidableEq, Repr

/-- The reading of a 16 KB key area, whose layout the spec does not give (DESIGN CHOICE, log entry 53). -/
opaque keyArea : List Byte → Option KeyArea

/-- A key area with its debug policy replaced by an object (DESIGN CHOICE, log entry 53). -/
opaque withPolicy : List Byte → List Byte → List Byte

/-- A key area as it is written, with its write count (DESIGN CHOICE, log entry 53). -/
opaque withSeq : List Byte → Nat → List Byte

/-- The axes that a configuration set marks as having absolute feedback (R157), for which no record lays out a field (DESIGN CHOICE, log
entry 56). -/
opaque absolute (set : List Byte) (axis : Nat) : Bool

/-- The motion groups that a configuration set assigns axes to (R156), by group number, members in order, for which no record lays out
a field (DESIGN CHOICE, log entry 61). -/
opaque motionGroups (set : List Byte) : List (List Nat)

/-- Whether a configuration set allows the motion region to be powered down (R37), with no field laid out (DESIGN CHOICE, log entry 56). -/
opaque mayPowerDown (set : List Byte) : Bool

/-- Whether a configuration set turns the legacy queue mailboxes on (R294), and whether it makes no use of the PCIe path, so that
PD_HOST may be off where both host ports are off too, with no field laid out for either (DESIGN CHOICE, log entry 56). -/
opaque legacyMode (set : List Byte) : Bool
opaque pcieUnused (set : List Byte) : Bool

/-- The standing reservation of the real-time pipeline on a rail, and the steady current of the domains on, in 10 mA units, for a
configuration set (R471, DESIGN CHOICE, log entry 57). -/
opaque reservation (set : List Byte) (rail : Nat) : Nat
opaque steadyCurrent (set : List Byte) (rail : Nat) : Nat

/-- A configuration set with every older record converted to the current version (R497, DESIGN CHOICE, log entry 58). -/
opaque migrate (set : List Byte) : List Byte

/-- The identity of the section table of a topology record, as seen from either end (R108, DESIGN CHOICE, log entry 59). -/
opaque layoutId (record : List Byte) (reverse : Bool) : BitVec 16

/-- The time in ns after which the head takes it that no better clock is announced (R141), the interval in ns of its own Delay_Req and
Pdelay_Req, and the lead in ns with which it queues them (R145, R146): none of them is stated (DESIGN CHOICE, log entry 96). -/
opaque announceTimeout : Nat
opaque ptpInterval : Nat
opaque ptpLead : Nat

/-- The Osurya factory key (R511, DESIGN CHOICE, log entry 7). -/
opaque factoryKey : BitVec 512

/-- The firmware task and operand to which the shuttle processor's tokens of returned service-lane slots go (R18), which the spec does
not name (DESIGN CHOICE, log entry 5). -/
opaque serviceTask : Nat
opaque serviceOperand : Nat

/-- What a binary32 value without a 48.16 number (not finite, or beyond 64 bits) adds where an injector adds it to a position or to the
feedback (R232), in 1/65,536 counts: no rule says (DESIGN CHOICE, log entry 8). -/
opaque fixedOf (v : Word) : Int

/-- The current of the wake of a motion domain (0 PD_MOT, 1 PD_HEM) that the head asks leave for, in 10 mA units (R37, R470), which no
rule gives (DESIGN CHOICE, log entry 57). -/
opaque wakeCurrent (domain : Nat) : Nat

/-- The current of an archive burst and of a spool dump that the head asks leave for, in 10 mA units (R339, R470), which no rule gives
(DESIGN CHOICE, log entry 99). -/
opaque burstCurrent : Nat

end Sys2Proof.Config
end

