-- ==== Sys2Proof/Machine/Bytes.lean ====
section
/-! DEFINITION. Byte strings: little-endian fields (R7) and the cyclic redundancy checks of the wire formats
(R68 and the rules that give their own polynomial). -/

namespace Sys2Proof.Machine

/-- The bits hi:lo of a number. -/
def bits (x hi lo : Nat) : Nat := x / 2 ^ lo % 2 ^ (hi + 1 - lo)

/-- Bit i of a number. -/
def bit (x i : Nat) : Bool := x / 2 ^ i % 2 == 1

/-- A number as a flag. -/
def flag (b : Bool) : Nat := if b then 1 else 0

/-- The two's-complement value of the low n bits of a number. -/
def sgn (n x : Nat) : Int :=
  let y := x % 2 ^ n
  if y < 2 ^ (n - 1) then (y : Int) else (y : Int) - 2 ^ n

/-- The low n bits of a signed number. -/
def unsg (n : Nat) (x : Int) : Nat := (x % (2 ^ n : Int)).toNat

/-- Limit a signed number to a signed n-bit range. -/
def satS (n : Nat) (x : Int) : Int :=
  if x < -(2 ^ (n - 1) : Int) then -(2 ^ (n - 1) : Int)
  else if (2 ^ (n - 1) : Int) - 1 < x then (2 ^ (n - 1) : Int) - 1 else x

/-- Limit a signed number to lo … hi. -/
def clampI (lo hi x : Int) : Int := if x < lo then lo else if hi < x then hi else x

/-- Round up of a quotient. -/
def ceilDiv (a b : Nat) : Nat := (a + b - 1) / b

/-- The little-endian value of a byte string (R7). -/
def leVal : List Byte → Nat
  | [] => 0
  | b :: bs => b.toNat + 256 * leVal bs

/-- The n-byte little-endian string of a number (R7). -/
def leBytes : Nat → Nat → List Byte
  | 0, _ => []
  | n + 1, x => BitVec.ofNat 8 x :: leBytes n (x / 256)

/-- The big-endian value of a byte string (the IEEE 802.3, IPv4 and PTP fields). -/
def beVal (bs : List Byte) : Nat := bs.foldl (fun x b => x * 256 + b.toNat) 0

/-- The n-byte big-endian string of a number. -/
def beBytes (n x : Nat) : List Byte := (leBytes n x).reverse

/-- The n bytes of a string from offset o. -/
def slice (bs : List Byte) (o n : Nat) : List Byte := (bs.drop o).take n

/-- The little-endian n-byte field at offset o. -/
def field (bs : List Byte) (o n : Nat) : Nat := leVal (slice bs o n)

/-- The big-endian n-byte field at offset o. -/
def beField (bs : List Byte) (o n : Nat) : Nat := beVal (slice bs o n)

/-- The byte at offset o, 0 past the end. -/
def byteAt (bs : List Byte) (o : Nat) : Nat := (bs.getD o 0).toNat

/-- n zero bytes. -/
def zeros (n : Nat) : List Byte := List.replicate n 0

/-- A string padded with zeros at its end to a length. -/
def padTo (n : Nat) (bs : List Byte) : List Byte := bs ++ zeros (n - bs.length)

/-- A string padded with zeros to a multiple of n. -/
def padMul (n : Nat) (bs : List Byte) : List Byte := padTo (ceilDiv bs.length n * n) bs

/-- Overwrite the bytes from offset o. -/
def patch (bs : List Byte) (o : Nat) (x : List Byte) : List Byte :=
  bs.take o ++ x ++ bs.drop (o + x.length)

/-- One bit step of a CRC of n bits, most significant bit first. -/
def crcStep (n poly : Nat) : Nat → Nat → Nat
  | 0, c => c
  | k + 1, c =>
    let c2 := c * 2 % 2 ^ n
    crcStep n poly k (if bit c (n - 1) then Nat.xor c2 poly else c2)

/-- A CRC of n bits over a byte string, most significant bit of each byte first, without the final exclusive or. -/
def crcMsb (n poly : Nat) (init : Nat) (bs : List Byte) : Nat :=
  bs.foldl (fun c b => crcStep n poly 8 (Nat.xor c (b.toNat * 2 ^ (n - 8)))) init

/-- The number with its low n bits in the opposite order. -/
def revBits : Nat → Nat → Nat
  | 0, _ => 0
  | n + 1, x => (x % 2) * 2 ^ n + revBits n (x / 2)

/-- CRC-32C: polynomial 0x1EDC6F41, reflected, initial value and final exclusive or all ones (R68). -/
def crc32c (bs : List Byte) : Nat :=
  let r := crcMsb 32 0x1EDC6F41 0xFFFFFFFF (bs.map fun b => BitVec.ofNat 8 (revBits 8 b.toNat))
  Nat.xor (revBits 32 r) 0xFFFFFFFF

/-- CRC-16 of the ring protocol (R68). -/
def crc16 (bs : List Byte) : Nat := crcMsb 16 0x8BB7 0 bs

/-- The IEEE 802.3 frame check sequence (R54, R55), as its 4 bytes in transmission order. -/
def fcsBytes (bs : List Byte) : List Byte :=
  let r := crcMsb 32 0x04C11DB7 0xFFFFFFFF (bs.map fun b => BitVec.ofNat 8 (revBits 8 b.toNat))
  leBytes 4 (Nat.xor (revBits 32 r) 0xFFFFFFFF)

/-- CRC-64 of the digest (R369). -/
def crc64 (bs : List Byte) : Nat :=
  Nat.xor (crcMsb 64 0x42F0E1EBA9EA3693 0xFFFFFFFFFFFFFFFF bs) 0xFFFFFFFFFFFFFFFF

end Sys2Proof.Machine
end

