-- ==== Sys2Proof/Machine/RegMap.lean ====
section
/-! DEFINITION. The register map: the address of every register (chip addresses, R48) and, per block, one row per
register with its access type (R10), reset value and the bits a write reaches, from the register summaries of spec/. -/

namespace Sys2Proof.Machine

/-- The access types of R10. -/
inductive Acc where
  | ro | rw | wo | w1c | w1p | rc
  deriving DecidableEq, Repr

/-- One row of a register summary: offset in its block, up to two strides with their counts, access, reset value,
the step of the reset value per first index (ACQ_SPs_BASE) and the bits that a write reaches. -/
structure RegRow where
  off : Nat
  s1 : Nat
  n1 : Nat
  s2 : Nat
  n2 : Nat
  acc : Acc
  reset : Word
  step : Nat
  mask : Word
  deriving DecidableEq, Repr

namespace Reg

abbrev SYS_DEVICE_ID : Nat := 0x20000000
abbrev SYS_STEPPING : Nat := 0x20000004
abbrev SYS_ORDER_CODE : Nat := 0x20000008
abbrev SYS_CYCLE_PERIOD : Nat := 0x20000010
abbrev SYS_BASTE_COMMIT : Nat := 0x20000014
abbrev SYS_BASTE_STATUS : Nat := 0x20000018
abbrev SYS_CYCLE_ACTIVE : Nat := 0x20000020
abbrev SYS_TMIN : Nat := 0x20000024
abbrev SYS_TTAIL : Nat := 0x20000028
abbrev SYS_AXIS_CFG : Nat := 0x2000002C
abbrev SYS_CYCLE_MARGIN : Nat := 0x20000030
abbrev SYS_OVERRUN_CNT : Nat := 0x20000034
abbrev SYS_WAKE_LATE_CNT : Nat := 0x20000038
abbrev RING_LINK_CFG : Nat := 0x20100000
abbrev RING_LINK_STATUS : Nat := 0x20100004
abbrev RING_AGE_CFG : Nat := 0x20100008
abbrev RING_SVC_CFG : Nat := 0x2010000C
abbrev RING_BASTE_COMMIT : Nat := 0x20100010
abbrev RING_BASTE_STATUS : Nat := 0x20100014
abbrev RING_XT_OUT : Nat := 0x20100018
abbrev RING_XT_IN : Nat := 0x2010001C
abbrev RING_XT_STAMP0 : Nat := 0x20100020
abbrev RING_XT_STAMP1 : Nat := 0x20100024
abbrev RING_HDR_CRC_ERR_CNT : Nat := 0x20100028
abbrev RING_SEC_CRC_ERR_CNT : Nat := 0x2010002C
abbrev RING_UNWRITTEN_CNT : Nat := 0x20100030
abbrev RING_FCS_SEEN_CNT : Nat := 0x20100034
abbrev RING_ERR_SEEN_LAST : Nat := 0x20100038
abbrev RING_VISIT_ERR_CNT : Nat := 0x2010003C
abbrev RING_SVC_TIMEOUT_CNT : Nat := 0x20100040
abbrev RING_START_CFG : Nat := 0x20100080
abbrev RING_CTRL : Nat := 0x20100084
abbrev RING_CTRL_STATUS : Nat := 0x20100088
abbrev RING_STATE : Nat := 0x2010008C
abbrev RING_RT : Nat := 0x20100090
abbrev RING_BREAK : Nat := 0x20100094
abbrev RING_BREAK_TIME : Nat := 0x20100098
abbrev RING_NODE_SEL : Nat := 0x2010009C
abbrev RING_NODE_FWD : Nat := 0x201000A0
abbrev RING_NODE_REV : Nat := 0x201000A4
abbrev RING_NODE_Q : Nat := 0x201000A8
abbrev RING_CLAIM_LOST_CNT : Nat := 0x201000AC
abbrev RING_INTEG_FAIL_CNT : Nat := 0x201000B0
abbrev RING_WV_CNT : Nat := 0x201000B4
abbrev RING_WV_LAST : Nat := 0x201000B8
abbrev RING_RETURN_MISS_CNT : Nat := 0x201000BC
abbrev RING_INTEG_LEN : Nat := 0x201000C0
abbrev TIME_SRC_CFG : Nat := 0x20200000
abbrev TIME_STEP_LO : Nat := 0x20200004
abbrev TIME_STEP_HI : Nat := 0x20200008
abbrev TIME_SYNC_CFG : Nat := 0x2020000C
abbrev TIME_SYNC_OFFSET : Nat := 0x20200010
abbrev TIME_PTP_CFG : Nat := 0x20200014
abbrev TIME_BASTE_COMMIT : Nat := 0x20200018
abbrev TIME_BASTE_STATUS : Nat := 0x2020001C
abbrev TIME_RATE : Nat := 0x20200020
abbrev TIME_RATE_ACTIVE : Nat := 0x20200024
abbrev TIME_STATE : Nat := 0x20200028
abbrev TIME_CTRL : Nat := 0x2020002C
abbrev TIME_SNAP_S_LO : Nat := 0x20200030
abbrev TIME_SNAP_S_HI : Nat := 0x20200034
abbrev TIME_SNAP_NS : Nat := 0x20200038
abbrev TIME_SNAP_FRAC : Nat := 0x2020003C
abbrev TIME_LATCH_S_LO : Nat := 0x20200040
abbrev TIME_LATCH_S_HI : Nat := 0x20200044
abbrev TIME_LATCH_NS : Nat := 0x20200048
abbrev TIME_TC_RES_MAX : Nat := 0x20200050
abbrev TIME_LAUNCH_LATE_CNT : Nat := 0x20200054
abbrev TIME_SYNCIN_TS_NS : Nat := 0x20200058
abbrev TIME_SYNCIN_MISS_CNT : Nat := 0x2020005C
abbrev TIME_DOMSW_CNT : Nat := 0x20200060
abbrev TIME_DOM_CFG (i : Nat) : Nat := 0x20200100 + 0x20 * i
abbrev TIME_DOM_RATE (i : Nat) : Nat := 0x20200104 + 0x20 * i
abbrev TIME_DOM_STEP_LO (i : Nat) : Nat := 0x20200108 + 0x20 * i
abbrev TIME_DOM_STEP_HI (i : Nat) : Nat := 0x2020010C + 0x20 * i
abbrev TIME_DOM_SNAP_S_LO (i : Nat) : Nat := 0x20200110 + 0x20 * i
abbrev TIME_DOM_SNAP_S_HI (i : Nat) : Nat := 0x20200114 + 0x20 * i
abbrev TIME_DOM_SNAP_NS (i : Nat) : Nat := 0x20200118 + 0x20 * i
abbrev PROF_STATUS : Nat := 0x20300000
abbrev PROF_RET_STATUS : Nat := 0x20300004
abbrev PROF_BASTE_COMMIT : Nat := 0x20300010
abbrev PROF_BASTE_STATUS : Nat := 0x20300014
abbrev PROF_CMD_ARG (i : Nat) : Nat := 0x20300040 + 0x4 * i
abbrev PROF_CMD : Nat := 0x20300050
abbrev PROF_CMD_STATUS : Nat := 0x20300054
abbrev PROF_BASTE_VMAX : Nat := 0x20300100
abbrev PROF_BASTE_ACC : Nat := 0x20300104
abbrev PROF_BASTE_DEC : Nat := 0x20300108
abbrev PROF_BASTE_JERK : Nat := 0x2030010C
abbrev PROF_BASTE_QSDEC : Nat := 0x20300110
abbrev PROF_BASTE_QSJERK : Nat := 0x20300114
abbrev PROF_BASTE_SMIN_LO : Nat := 0x20300118
abbrev PROF_BASTE_SMIN_HI : Nat := 0x2030011C
abbrev PROF_BASTE_SMAX_LO : Nat := 0x20300120
abbrev PROF_BASTE_SMAX_HI : Nat := 0x20300124
abbrev PROF_BASTE_LIMCFG : Nat := 0x20300128
abbrev PROF_BASTE_STEPCFG : Nat := 0x2030012C
abbrev PROF_BASTE_STILL : Nat := 0x20300130
abbrev PROF_BASTE_GEARNUM : Nat := 0x20300134
abbrev PROF_BASTE_GEARDEN : Nat := 0x20300138
abbrev PROF_BASTE_FOLCFG : Nat := 0x2030013C
abbrev PROF_AX_PARAM (i : Nat) (j : Nat) : Nat := 0x20310000 + 0x40 * i + 0x4 * j
abbrev PROF_AX_STATE (i : Nat) : Nat := 0x20320000 + 0x20 * i
abbrev PROF_AX_SP_LO (i : Nat) : Nat := 0x20320004 + 0x20 * i
abbrev PROF_AX_SP_HI (i : Nat) : Nat := 0x20320008 + 0x20 * i
abbrev PROF_AX_VEL_LO (i : Nat) : Nat := 0x2032000C + 0x20 * i
abbrev PROF_AX_VEL_HI (i : Nat) : Nat := 0x20320010 + 0x20 * i
abbrev PROF_AX_TGT_LO (i : Nat) : Nat := 0x20320014 + 0x20 * i
abbrev PROF_AX_TGT_HI (i : Nat) : Nat := 0x20320018 + 0x20 * i
abbrev PROF_AX_PHASE (i : Nat) : Nat := 0x2032001C + 0x20 * i
abbrev PROF_GRP_CFG (i : Nat) : Nat := 0x20330000 + 0x40 * i
abbrev PROF_GRP_AXES (i : Nat) (j : Nat) : Nat := 0x20330004 + 0x40 * i + 0x4 * j
abbrev PROF_GRP_QBASE (i : Nat) : Nat := 0x20330014 + 0x40 * i
abbrev PROF_GRP_QLEN (i : Nat) : Nat := 0x20330018 + 0x40 * i
abbrev PROF_GRP_WR_PTR (i : Nat) : Nat := 0x2033001C + 0x40 * i
abbrev PROF_GRP_RD_PTR (i : Nat) : Nat := 0x20330020 + 0x40 * i
abbrev PROF_GRP_RATE (i : Nat) : Nat := 0x20330024 + 0x40 * i
abbrev PROF_GRP_STATE (i : Nat) : Nat := 0x20330028 + 0x40 * i
abbrev PROF_GRP_SEG_ID (i : Nat) : Nat := 0x2033002C + 0x40 * i
abbrev PROF_GRD_CFG (i : Nat) : Nat := 0x20340000 + 0x10 * i
abbrev PROF_GRD_OFS_LO (i : Nat) : Nat := 0x20340004 + 0x10 * i
abbrev PROF_GRD_OFS_HI (i : Nat) : Nat := 0x20340008 + 0x10 * i
abbrev PROF_GRD_CLEAR (i : Nat) : Nat := 0x2034000C + 0x10 * i
abbrev LOOP_STATUS : Nat := 0x20400000
abbrev LOOP_BASTE_COMMIT : Nat := 0x20400004
abbrev LOOP_BASTE_STATUS : Nat := 0x20400008
abbrev LOOP_BANK_SWAP : Nat := 0x2040000C
abbrev LOOP_BANK_STATUS : Nat := 0x20400010
abbrev LOOP_FE_CNT : Nat := 0x20400014
abbrev LOOP_VE_CNT : Nat := 0x20400018
abbrev LOOP_STALL_CNT : Nat := 0x2040001C
abbrev LOOP_EXPIRED_CNT : Nat := 0x20400020
abbrev LOOP_CLAMP_CNT : Nat := 0x20400024
abbrev LOOP_HEM_LATE_CNT : Nat := 0x20400028
abbrev LOOP_INJ_CFG (i : Nat) : Nat := 0x20400100 + 0x40 * i
abbrev LOOP_INJ_AMP (i : Nat) : Nat := 0x20400104 + 0x40 * i
abbrev LOOP_INJ_F0 (i : Nat) : Nat := 0x20400108 + 0x40 * i
abbrev LOOP_INJ_F1 (i : Nat) : Nat := 0x2040010C + 0x40 * i
abbrev LOOP_INJ_LEN (i : Nat) : Nat := 0x20400110 + 0x40 * i
abbrev LOOP_INJ_TBL (i : Nat) : Nat := 0x20400114 + 0x40 * i
abbrev LOOP_INJ_START (i : Nat) : Nat := 0x20400118 + 0x40 * i
abbrev LOOP_INJ_CTRL (i : Nat) : Nat := 0x2040011C + 0x40 * i
abbrev LOOP_INJ_STATUS (i : Nat) : Nat := 0x20400120 + 0x40 * i
abbrev LOOP_AX_COEF (i : Nat) (j : Nat) : Nat := 0x20410000 + 0x200 * i + 0x4 * j
abbrev LOOP_AX_COEF_ACT (i : Nat) (j : Nat) : Nat := 0x20430000 + 0x200 * i + 0x4 * j
abbrev LOOP_LANE_BASTE (i : Nat) (j : Nat) : Nat := 0x20450000 + 0x200 * i + 0x4 * j
abbrev LOOP_AX_E (i : Nat) : Nat := 0x20460000 + 0x40 * i
abbrev LOOP_AX_VREF (i : Nat) : Nat := 0x20460004 + 0x40 * i
abbrev LOOP_AX_VMEAS (i : Nat) : Nat := 0x20460008 + 0x40 * i
abbrev LOOP_AX_TCMD (i : Nat) : Nat := 0x2046000C + 0x40 * i
abbrev LOOP_AX_IPOS (i : Nat) : Nat := 0x20460010 + 0x40 * i
abbrev LOOP_AX_IVEL (i : Nat) : Nat := 0x20460014 + 0x40 * i
abbrev LOOP_AX_CUR (i : Nat) : Nat := 0x20460018 + 0x40 * i
abbrev LOOP_AX_FLAGS (i : Nat) : Nat := 0x2046001C + 0x40 * i
abbrev HEM_STATUS : Nat := 0x20500000
abbrev HEM_OP : Nat := 0x20500004
abbrev HEM_OP_SRC : Nat := 0x20500008
abbrev HEM_OP_DST : Nat := 0x2050000C
abbrev HEM_OP_LEN : Nat := 0x20500010
abbrev HEM_OP_MASK : Nat := 0x20500014
abbrev HEM_BASTE_COMMIT : Nat := 0x20500018
abbrev HEM_BASTE_STATUS : Nat := 0x2050001C
abbrev HEM_ABORT_CNT : Nat := 0x20500020
abbrev HEM_ABORT_LAST : Nat := 0x20500024
abbrev HEM_ECC_CORR_CNT : Nat := 0x20500028
abbrev HEM_CORE_CTRL (i : Nat) : Nat := 0x20500100 + 0x20 * i
abbrev HEM_CORE_BUDGET (i : Nat) : Nat := 0x20500104 + 0x20 * i
abbrev HEM_CORE_STATUS (i : Nat) : Nat := 0x20500108 + 0x20 * i
abbrev HEM_CORE_TASK (i : Nat) : Nat := 0x2050010C + 0x20 * i
abbrev HEM_CORE_LAT_MAX (i : Nat) : Nat := 0x20500110 + 0x20 * i
abbrev HEM_CORE_RUN_MAX (i : Nat) : Nat := 0x20500114 + 0x20 * i
abbrev HEM_CORE_DONE_CNT (i : Nat) : Nat := 0x20500118 + 0x20 * i
abbrev HEM_CORE_PMEM (i : Nat) (j : Nat) : Nat := 0x20540000 + 0x4000 * i + 0x4 * j
abbrev HEM_CORE_DMEM (i : Nat) (j : Nat) : Nat := 0x20580000 + 0x8000 * i + 0x4 * j
abbrev SCHED_STATUS : Nat := 0x20600000
abbrev SCHED_CANCEL : Nat := 0x20600004
abbrev SCHED_POST_LO : Nat := 0x20600008
abbrev SCHED_POST_HI : Nat := 0x2060000C
abbrev SCHED_AFF_HOLD : Nat := 0x20600010
abbrev SCHED_DLY_VALUE : Nat := 0x20600014
abbrev SCHED_DLY_TARGET : Nat := 0x20600018
abbrev SCHED_DLY_WAKE : Nat := 0x2060001C
abbrev SCHED_DLY_PERIOD : Nat := 0x20600020
abbrev SCHED_BASTE_COMMIT : Nat := 0x20600024
abbrev SCHED_BASTE_STATUS : Nat := 0x20600028
abbrev SCHED_TICK : Nat := 0x2060002C
abbrev SCHED_LAT_MAX : Nat := 0x20600030
abbrev SCHED_OVERWRITE_CNT : Nat := 0x20600034
abbrev SCHED_CANCEL_RACE_CNT : Nat := 0x20600038
abbrev SCHED_DISCARD_CNT : Nat := 0x2060003C
abbrev SCHED_DESC_STATUS : Nat := 0x20600040
abbrev SCHED_TASK_DESC (i : Nat) (j : Nat) : Nat := 0x20610000 + 0x20 * i + 0x4 * j
abbrev SCHED_TASK_STATE (i : Nat) : Nat := 0x20620000 + 0x4 * i
abbrev SCHED_AX_HOOK (i : Nat) : Nat := 0x20630000 + 0x8 * i
abbrev SCHED_AX_SUB (i : Nat) : Nat := 0x20630004 + 0x8 * i
abbrev MBX_DATA (i : Nat) : Nat := 0x20700000 + 0x10 * i
abbrev MBX_PEEK (i : Nat) : Nat := 0x20700004 + 0x10 * i
abbrev MBX_CFG (i : Nat) : Nat := 0x20700008 + 0x10 * i
abbrev MBX_TGT (i : Nat) : Nat := 0x2070000C + 0x10 * i
abbrev MBX_FULL_LO : Nat := 0x20700800
abbrev MBX_FULL_HI : Nat := 0x20700804
abbrev MBX_STALL_LO : Nat := 0x20700808
abbrev MBX_STALL_HI : Nat := 0x2070080C
abbrev MBX_REFUSE_CNT : Nat := 0x20700810
abbrev MBX_EMPTY_READ : Nat := 0x20700814
abbrev MBXQ_H2D (i : Nat) : Nat := 0x20701000 + 0x20 * i
abbrev MBXQ_D2H (i : Nat) : Nat := 0x20701004 + 0x20 * i
abbrev MBXQ_LEVEL (i : Nat) : Nat := 0x20701008 + 0x20 * i
abbrev MBXQ_STAT (i : Nat) : Nat := 0x2070100C + 0x20 * i
abbrev MBXQ_CFG (i : Nat) : Nat := 0x20701010 + 0x20 * i
abbrev MBX_LOCK (i : Nat) : Nat := 0x20702000 + 0x4 * i
abbrev FBC_STATUS : Nat := 0x20800000
abbrev FBC_BASTE_COMMIT : Nat := 0x20800004
abbrev FBC_BASTE_STATUS : Nat := 0x20800008
abbrev FBC_PIN_CFG : Nat := 0x2080000C
abbrev FBC_CMP_ARMED : Nat := 0x20800010
abbrev FBC_DT_CNT : Nat := 0x20800014
abbrev FBC_CMP_LATE_CNT : Nat := 0x20800018
abbrev FBC_CMP_DEFER_CNT : Nat := 0x2080001C
abbrev FBC_ENC_CFG (i : Nat) : Nat := 0x20800100 + 0x40 * i
abbrev FBC_ENC_SSI (i : Nat) : Nat := 0x20800104 + 0x40 * i
abbrev FBC_ENC_INDEX (i : Nat) : Nat := 0x20800108 + 0x40 * i
abbrev FBC_ENC_TOL (i : Nat) : Nat := 0x2080010C + 0x40 * i
abbrev FBC_ENC_AXIS (i : Nat) : Nat := 0x20800110 + 0x40 * i
abbrev FBC_ENC_POS_LO (i : Nat) : Nat := 0x20800114 + 0x40 * i
abbrev FBC_ENC_POS_HI (i : Nat) : Nat := 0x20800118 + 0x40 * i
abbrev FBC_ENC_IDX_LO (i : Nat) : Nat := 0x2080011C + 0x40 * i
abbrev FBC_ENC_IDX_HI (i : Nat) : Nat := 0x20800120 + 0x40 * i
abbrev FBC_ENC_IDX_TS (i : Nat) : Nat := 0x20800124 + 0x40 * i
abbrev FBC_ENC_STATUS (i : Nat) : Nat := 0x20800128 + 0x40 * i
abbrev FBC_ENC_DT_CNT (i : Nat) : Nat := 0x2080012C + 0x40 * i
abbrev FBC_ENC_TWIN_OFS_LO (i : Nat) : Nat := 0x20800130 + 0x40 * i
abbrev FBC_ENC_TWIN_OFS_HI (i : Nat) : Nat := 0x20800134 + 0x40 * i
abbrev FBC_EMU_CFG (i : Nat) : Nat := 0x20800400 + 0x20 * i
abbrev FBC_EMU_NUM (i : Nat) : Nat := 0x20800404 + 0x20 * i
abbrev FBC_EMU_DEN (i : Nat) : Nat := 0x20800408 + 0x20 * i
abbrev FBC_EMU_ZPER (i : Nat) : Nat := 0x2080040C + 0x20 * i
abbrev FBC_EMU_ZPH (i : Nat) : Nat := 0x20800410 + 0x20 * i
abbrev FBC_EMU_STATUS (i : Nat) : Nat := 0x20800414 + 0x20 * i
abbrev FBC_CMP_CFG (i : Nat) : Nat := 0x20801000 + 0x40 * i
abbrev FBC_CMP_OFS (i : Nat) : Nat := 0x20801004 + 0x40 * i
abbrev FBC_CMP_HYST (i : Nat) : Nat := 0x20801008 + 0x40 * i
abbrev FBC_CMP_VAL_LO (i : Nat) : Nat := 0x2080100C + 0x40 * i
abbrev FBC_CMP_VAL_HI (i : Nat) : Nat := 0x20801010 + 0x40 * i
abbrev FBC_CMP_ACT (i : Nat) : Nat := 0x20801014 + 0x40 * i
abbrev FBC_CMP_QBASE (i : Nat) : Nat := 0x20801018 + 0x40 * i
abbrev FBC_CMP_QLEN (i : Nat) : Nat := 0x2080101C + 0x40 * i
abbrev FBC_CMP_WR_PTR (i : Nat) : Nat := 0x20801020 + 0x40 * i
abbrev FBC_CMP_RD_PTR (i : Nat) : Nat := 0x20801024 + 0x40 * i
abbrev FBC_CMP_CTRL (i : Nat) : Nat := 0x20801028 + 0x40 * i
abbrev FBC_CMP_STATUS (i : Nat) : Nat := 0x2080102C + 0x40 * i
abbrev FBC_CMP_LAST_TS (i : Nat) : Nat := 0x20801030 + 0x40 * i
abbrev FBC_CMP_LAST_ID (i : Nat) : Nat := 0x20801034 + 0x40 * i
abbrev ACQ_STATUS : Nat := 0x20900000
abbrev ACQ_BASTE_COMMIT : Nat := 0x20900004
abbrev ACQ_BASTE_STATUS : Nat := 0x20900008
abbrev ACQ_GROUP : Nat := 0x2090000C
abbrev ACQ_SP_CFG (i : Nat) : Nat := 0x20900100 + 0x100 * i
abbrev ACQ_SP_BASE (i : Nat) : Nat := 0x20900104 + 0x100 * i
abbrev ACQ_SP_LEN (i : Nat) : Nat := 0x20900108 + 0x100 * i
abbrev ACQ_SP_DEPTH (i : Nat) : Nat := 0x2090010C + 0x100 * i
abbrev ACQ_SP_HOLDOFF (i : Nat) : Nat := 0x20900110 + 0x100 * i
abbrev ACQ_SP_TIMEOUT (i : Nat) : Nat := 0x20900114 + 0x100 * i
abbrev ACQ_SP_ARCH_BASE (i : Nat) : Nat := 0x20900118 + 0x100 * i
abbrev ACQ_SP_ARCH_LEN (i : Nat) : Nat := 0x2090011C + 0x100 * i
abbrev ACQ_SP_TRIG (i : Nat) : Nat := 0x20900120 + 0x100 * i
abbrev ACQ_SP_COND_CFG (i : Nat) (j : Nat) : Nat := 0x20900124 + 0x100 * i + 0xC * j
abbrev ACQ_SP_COND_LO (i : Nat) (j : Nat) : Nat := 0x20900128 + 0x100 * i + 0xC * j
abbrev ACQ_SP_COND_HI (i : Nat) (j : Nat) : Nat := 0x2090012C + 0x100 * i + 0xC * j
abbrev ACQ_SP_MASK_EN_LO (i : Nat) : Nat := 0x20900154 + 0x100 * i
abbrev ACQ_SP_MASK_EN_HI (i : Nat) : Nat := 0x20900158 + 0x100 * i
abbrev ACQ_SP_MASK_CFG (i : Nat) : Nat := 0x2090015C + 0x100 * i
abbrev ACQ_SP_MASK_X0_LO (i : Nat) : Nat := 0x20900160 + 0x100 * i
abbrev ACQ_SP_MASK_X0_HI (i : Nat) : Nat := 0x20900164 + 0x100 * i
abbrev ACQ_SP_MASK_X1_LO (i : Nat) : Nat := 0x20900168 + 0x100 * i
abbrev ACQ_SP_MASK_X1_HI (i : Nat) : Nat := 0x2090016C + 0x100 * i
abbrev ACQ_SP_MASK_TBL (i : Nat) : Nat := 0x20900170 + 0x100 * i
abbrev ACQ_SP_CTRL (i : Nat) : Nat := 0x20900180 + 0x100 * i
abbrev ACQ_SP_STATE (i : Nat) : Nat := 0x20900184 + 0x100 * i
abbrev ACQ_SP_WR_PTR (i : Nat) : Nat := 0x20900188 + 0x100 * i
abbrev ACQ_SP_TRIG_TS_LO (i : Nat) : Nat := 0x20900190 + 0x100 * i
abbrev ACQ_SP_TRIG_TS_HI (i : Nat) : Nat := 0x20900194 + 0x100 * i
abbrev ACQ_SP_LOST_CNT (i : Nat) : Nat := 0x20900198 + 0x100 * i
abbrev ACQ_SP_EVT_DROP_CNT (i : Nat) : Nat := 0x2090019C + 0x100 * i
abbrev ACQ_SP_HOLDOFF_CNT (i : Nat) : Nat := 0x209001A0 + 0x100 * i
abbrev ACQ_SP_CH (i : Nat) (j : Nat) : Nat := 0x20901000 + 0x100 * i + 0x4 * j
abbrev TWIN_CFG : Nat := 0x20A00000
abbrev TWIN_BASTE_COMMIT : Nat := 0x20A00004
abbrev TWIN_BASTE_STATUS : Nat := 0x20A00008
abbrev TWIN_CTRL : Nat := 0x20A0000C
abbrev TWIN_CTRL_STATUS : Nat := 0x20A00010
abbrev TWIN_STATE : Nat := 0x20A00014
abbrev TWIN_PEER_SERIAL_LO : Nat := 0x20A00018
abbrev TWIN_PEER_SERIAL_HI : Nat := 0x20A0001C
abbrev TWIN_ARRIVAL : Nat := 0x20A00020
abbrev TWIN_DIGEST_LO : Nat := 0x20A00024
abbrev TWIN_DIGEST_HI : Nat := 0x20A00028
abbrev TWIN_PEER_DIGEST_LO : Nat := 0x20A0002C
abbrev TWIN_PEER_DIGEST_HI : Nat := 0x20A00030
abbrev TWIN_DIVERGE_CYCLE : Nat := 0x20A00034
abbrev TWIN_DIGEST_MISS_CNT : Nat := 0x20A00038
abbrev TWIN_JSEQ : Nat := 0x20A0003C
abbrev TWIN_JOURNAL_LEVEL : Nat := 0x20A00040
abbrev TWIN_REPAIR_CNT : Nat := 0x20A00044
abbrev TWIN_TAKEOVER_CNT : Nat := 0x20A00048
abbrev TWIN_TAKEOVER_CYCLE : Nat := 0x20A0004C
abbrev TWIN_SPLIT_CNT : Nat := 0x20A00050
abbrev TWIN_SPLIT_BOUND : Nat := 0x20A00054
abbrev TWIN_RESYNC_STATUS : Nat := 0x20A00058
abbrev TWIN_RESYNC_TIME : Nat := 0x20A0005C
abbrev TWIN_ACTIVE_AGE : Nat := 0x20A00060
abbrev TWIN_LINK_ERR_CNT : Nat := 0x20A00064
abbrev SAFE_STATUS : Nat := 0x20B00000
abbrev SAFE_CYCLE : Nat := 0x20B00004
abbrev SAFE_PARAM_SIG : Nat := 0x20B00008
abbrev SAFE_PARAM_VER : Nat := 0x20B0000C
abbrev SAFE_FAULT_CAUSE : Nat := 0x20B00010
abbrev SAFE_CYCLE_MAX : Nat := 0x20B00014
abbrev SAFE_IN_STATE : Nat := 0x20B00018
abbrev SAFE_OUT_STATE : Nat := 0x20B0001C
abbrev SAFE_CONN_STATE (i : Nat) : Nat := 0x20B00100 + 0x10 * i
abbrev SAFE_CONN_TXSEQ (i : Nat) : Nat := 0x20B00104 + 0x10 * i
abbrev SAFE_CONN_CRC_CNT (i : Nat) : Nat := 0x20B00108 + 0x10 * i
abbrev SAFE_CONN_ERR_CNT (i : Nat) : Nat := 0x20B0010C + 0x10 * i
abbrev SAFE_HC_RX (i : Nat) (j : Nat) : Nat := 0x20B00A00 + 0x10 * i + 0x4 * j
abbrev SAFE_AX_STATE (i : Nat) : Nat := 0x20B01000 + 0x8 * i
abbrev SAFE_AX_POS (i : Nat) : Nat := 0x20B01004 + 0x8 * i
abbrev SAFE_SLO_STATE (i : Nat) : Nat := 0x20B02000 + 0x4 * i
abbrev FIO_STATUS : Nat := 0x20C00000
abbrev FIO_BASTE_COMMIT : Nat := 0x20C00004
abbrev FIO_BASTE_STATUS : Nat := 0x20C00008
abbrev FIO_LINK_CFG : Nat := 0x20C0000C
abbrev FIO_IN_STATE : Nat := 0x20C00010
abbrev FIO_IN_RAW : Nat := 0x20C00014
abbrev FIO_IN_WB : Nat := 0x20C00018
abbrev FIO_IN_FLT : Nat := 0x20C0001C
abbrev FIO_OUT : Nat := 0x20C00020
abbrev FIO_OUT_STATE : Nat := 0x20C00024
abbrev FIO_OUT_FLT : Nat := 0x20C00028
abbrev FIO_VFIELD : Nat := 0x20C0002C
abbrev FIO_TEMP : Nat := 0x20C00030
abbrev FIO_LINK_ERR_CNT : Nat := 0x20C00034
abbrev FIO_IN_CFG (i : Nat) : Nat := 0x20C00100 + 0x4 * i
abbrev FIO_OUT_CFG (i : Nat) : Nat := 0x20C00200 + 0x4 * i
abbrev FPM_STATUS : Nat := 0x20D00000
abbrev FPM_CFG : Nat := 0x20D00004
abbrev FPM_CTRL : Nat := 0x20D00008
abbrev FPM_CTRL_STATUS : Nat := 0x20D0000C
abbrev FPM_CAUSE : Nat := 0x20D00010
abbrev FPM_RESET_TIME : Nat := 0x20D00014
abbrev FPM_SUPPRESS_CNT : Nat := 0x20D00018
abbrev FPM_ALIVE : Nat := 0x20D0001C
abbrev FPM_RAIL_LIMIT (i : Nat) : Nat := 0x20D00100 + 0x10 * i
abbrev FPM_RAIL_RESV (i : Nat) : Nat := 0x20D00104 + 0x10 * i
abbrev FPM_RAIL_GRANT (i : Nat) : Nat := 0x20D00108 + 0x10 * i
abbrev FPM_RAIL_SLEW (i : Nat) : Nat := 0x20D0010C + 0x10 * i
abbrev FPM_LEAVE_QLEN : Nat := 0x20D00180
abbrev FPM_LEAVE_WAIT_MAX : Nat := 0x20D00184
abbrev FPM_WAKE_WAIT_MAX : Nat := 0x20D00188
abbrev FPM_MAINT_REQ : Nat := 0x20D00200
abbrev FPM_MAINT_STATUS : Nat := 0x20D00204
abbrev FPM_INJ_TARGET : Nat := 0x20D00300
abbrev FPM_INJ_CONTEXT : Nat := 0x20D00304
abbrev FPM_INJ_CTRL : Nat := 0x20D00308
abbrev FPM_SAFE_FLT_STATUS : Nat := 0x20D00400
abbrev FPM_SAFE_FLT_ACK : Nat := 0x20D00404
abbrev SEC_STATUS : Nat := 0x20E00000
abbrev SEC_BOOT_TIME : Nat := 0x20E00004
abbrev SEC_RESET_INFO : Nat := 0x20E00008
abbrev SEC_RESET_DUR : Nat := 0x20E0000C
abbrev SEC_MANIFEST_VER : Nat := 0x20E00010
abbrev SEC_STAGE_STATUS : Nat := 0x20E00014
abbrev SEC_CFG_SET_HASH : Nat := 0x20E00018
abbrev SEC_CFG_REFUSED : Nat := 0x20E0001C
abbrev SEC_STAGED_HASH (i : Nat) : Nat := 0x20E00020 + 0x4 * i
abbrev SEC_ACT_HASH (i : Nat) : Nat := 0x20E00040 + 0x4 * i
abbrev SEC_ACT_CFG : Nat := 0x20E00060
abbrev SEC_BASTE_COMMIT : Nat := 0x20E00064
abbrev SEC_BASTE_STATUS : Nat := 0x20E00068
abbrev SEC_TRIAL_LEFT : Nat := 0x20E0006C
abbrev SEC_CTRL : Nat := 0x20E00070
abbrev SEC_CTRL_STATUS : Nat := 0x20E00074
abbrev SEC_EPOCH (i : Nat) : Nat := 0x20E00080 + 0x4 * i
abbrev SEC_NONCE (i : Nat) : Nat := 0x20E000A0 + 0x4 * i
abbrev SEC_PROT_STATUS : Nat := 0x20E000C0
abbrev SEC_DEBUG_STATUS : Nat := 0x20E000C4
abbrev SEC_FUSE : Nat := 0x20E000C8
abbrev SEC_SERIAL_LO : Nat := 0x20E000D0
abbrev SEC_SERIAL_HI : Nat := 0x20E000D4
abbrev HOST_STATUS : Nat := 0x20F00000
abbrev HOST_CFG : Nat := 0x20F00004
abbrev HOST_MAC_LO : Nat := 0x20F00008
abbrev HOST_MAC_HI : Nat := 0x20F0000C
abbrev HOST_IP0 : Nat := 0x20F00010
abbrev HOST_IP1 : Nat := 0x20F00014
abbrev HOST_UDP_PORTS : Nat := 0x20F00018
abbrev HOST_MSG_CNT : Nat := 0x20F00020
abbrev HOST_MSG_ERR_CNT : Nat := 0x20F00024
abbrev HOST_UDP_DISCARD_CNT : Nat := 0x20F00028
abbrev HOST_EVT_LOST_CNT : Nat := 0x20F0002C
abbrev HOST_RING_ERR_CNT : Nat := 0x20F00030
abbrev HOST_SQ_BASE_LO (i : Nat) : Nat := 0x20F01000 + 0x40 * i
abbrev HOST_SQ_BASE_HI (i : Nat) : Nat := 0x20F01004 + 0x40 * i
abbrev HOST_SQ_SIZE (i : Nat) : Nat := 0x20F01008 + 0x40 * i
abbrev HOST_SQ_TAIL (i : Nat) : Nat := 0x20F0100C + 0x40 * i
abbrev HOST_SQ_HEAD (i : Nat) : Nat := 0x20F01010 + 0x40 * i
abbrev HOST_CQ_BASE_LO (i : Nat) : Nat := 0x20F01014 + 0x40 * i
abbrev HOST_CQ_BASE_HI (i : Nat) : Nat := 0x20F01018 + 0x40 * i
abbrev HOST_CQ_SIZE (i : Nat) : Nat := 0x20F0101C + 0x40 * i
abbrev HOST_CQ_HEAD (i : Nat) : Nat := 0x20F01020 + 0x40 * i
abbrev HOST_CQ_TAIL (i : Nat) : Nat := 0x20F01024 + 0x40 * i
abbrev HOST_RING_CTRL (i : Nat) : Nat := 0x20F01028 + 0x40 * i
abbrev HOST_RING_STATUS (i : Nat) : Nat := 0x20F0102C + 0x40 * i
abbrev HOST_EVQ_BASE_LO : Nat := 0x20F01200
abbrev HOST_EVQ_BASE_HI : Nat := 0x20F01204
abbrev HOST_EVQ_SIZE : Nat := 0x20F01208
abbrev HOST_EVQ_HEAD : Nat := 0x20F0120C
abbrev HOST_EVQ_TAIL : Nat := 0x20F01210
abbrev HOST_EVQ_CTRL : Nat := 0x20F01214
abbrev SYS_CLK_STATUS : Nat := 0x20000040
abbrev SYS_SUPPLY_STATUS : Nat := 0x20000044
abbrev SYS_TJ : Nat := 0x20000048

/-- The fault group of block b (bits 27:20 of its chip address), R477. -/
abbrev FLT_STATUS (b : Nat) : Nat := 0x2000F000 + 0x100000 * b
abbrev FLT_INT_EN (b : Nat) : Nat := 0x2000F004 + 0x100000 * b
abbrev FLT_SEV_LO (b : Nat) : Nat := 0x2000F008 + 0x100000 * b
abbrev FLT_SEV_HI (b : Nat) : Nat := 0x2000F00C + 0x100000 * b
abbrev FLT_CFG (b : Nat) : Nat := 0x2000F010 + 0x100000 * b
abbrev FLT_ACK (b : Nat) : Nat := 0x2000F014 + 0x100000 * b
abbrev FLT_RUNG (b : Nat) : Nat := 0x2000F018 + 0x100000 * b
abbrev FLT_HIST_CNT (b : Nat) : Nat := 0x2000F01C + 0x100000 * b
abbrev FLT_HIST_CLR (b : Nat) : Nat := 0x2000F020 + 0x100000 * b
abbrev FLT_HIST (b i w : Nat) : Nat := 0x2000F040 + 0x100000 * b + 0x10 * i + 4 * w

end Reg

/-- The register rows of the SYS block. -/
def rowsSys : List RegRow := [
  ⟨0x0, 0x0, 1, 0x0, 1, .ro, 0x00002560, 0x0, 0x00000000⟩,  -- SYS_DEVICE_ID R44
  ⟨0x4, 0x0, 1, 0x0, 1, .ro, 0x00000001, 0x0, 0x00000000⟩,  -- SYS_STEPPING R44
  ⟨0x8, 0x0, 1, 0x0, 1, .ro, 0x00000000, 0x0, 0x00000000⟩,  -- SYS_ORDER_CODE R44
  ⟨0x10, 0x0, 1, 0x0, 1, .rw, 0x00001F40, 0x0, 0x00001FFF⟩,  -- SYS_CYCLE_PERIOD R44
  ⟨0x14, 0x0, 1, 0x0, 1, .w1p, 0x00000000, 0x0, 0x00000001⟩,  -- SYS_BASTE_COMMIT R44
  ⟨0x18, 0x0, 1, 0x0, 1, .ro, 0x00000000, 0x0, 0x00000000⟩,  -- SYS_BASTE_STATUS R44
  ⟨0x20, 0x0, 1, 0x0, 1, .ro, 0x00001F40, 0x0, 0x00000000⟩,  -- SYS_CYCLE_ACTIVE R44
  ⟨0x24, 0x0, 1, 0x0, 1, .ro, 0x00000000, 0x0, 0x00000000⟩,  -- SYS_TMIN R44
  ⟨0x28, 0x0, 1, 0x0, 1, .ro, 0x00000000, 0x0, 0x00000000⟩,  -- SYS_TTAIL R44
  ⟨0x2C, 0x0, 1, 0x0, 1, .ro, 0x00000000, 0x0, 0x00000000⟩,  -- SYS_AXIS_CFG R44
  ⟨0x30, 0x0, 1, 0x0, 1, .ro, 0x7FFFFFFF, 0x0, 0x00000000⟩,  -- SYS_CYCLE_MARGIN R44
  ⟨0x34, 0x0, 1, 0x0, 1, .rc, 0x00000000, 0x0, 0x00000000⟩,  -- SYS_OVERRUN_CNT R44
  ⟨0x38, 0x0, 1, 0x0, 1, .rc, 0x00000000, 0x0, 0x00000000⟩,  -- SYS_WAKE_LATE_CNT R44
  ⟨0x40, 0x0, 1, 0x0, 1, .ro, 0x00000000, 0x0, 0x00000000⟩,  -- SYS_CLK_STATUS R567
  ⟨0x44, 0x0, 1, 0x0, 1, .ro, 0x00000000, 0x0, 0x00000000⟩,  -- SYS_SUPPLY_STATUS R567
  ⟨0x48, 0x0, 1, 0x0, 1, .ro, 0x00000000, 0x0, 0x00000000⟩  -- SYS_TJ R567
  ]

/-- The register rows of the RING block. -/
def rowsRing : List RegRow := [
  ⟨0x0, 0x0, 1, 0x0, 1, .rw, 0x00000008, 0x0, 0x0000000F⟩,  -- RING_LINK_CFG R91
  ⟨0x4, 0x0, 1, 0x0, 1, .ro, 0x00000000, 0x0, 0x00000000⟩,  -- RING_LINK_STATUS R91
  ⟨0x8, 0x0, 1, 0x0, 1, .rw, 0x00000003, 0x0, 0x00000007⟩,  -- RING_AGE_CFG R91
  ⟨0xC, 0x0, 1, 0x0, 1, .rw, 0x000003E8, 0x0, 0x0000FFFF⟩,  -- RING_SVC_CFG R91
  ⟨0x10, 0x0, 1, 0x0, 1, .w1p, 0x00000000, 0x0, 0x00000001⟩,  -- RING_BASTE_COMMIT R91
  ⟨0x14, 0x0, 1, 0x0, 1, .ro, 0x00000000, 0x0, 0x00000000⟩,  -- RING_BASTE_STATUS R91
  ⟨0x18, 0x0, 1, 0x0, 1, .w1p, 0x00000000, 0x0, 0x0000FFFF⟩,  -- RING_XT_OUT R91
  ⟨0x1C, 0x0, 1, 0x0, 1, .rc, 0x00000000, 0x0, 0x00000000⟩,  -- RING_XT_IN R91
  ⟨0x20, 0x0, 1, 0x0, 1, .ro, 0x000000FF, 0x0, 0x00000000⟩,  -- RING_XT_STAMP0 R91
  ⟨0x24, 0x0, 1, 0x0, 1, .ro, 0x00000000, 0x0, 0x00000000⟩,  -- RING_XT_STAMP1 R91
  ⟨0x28, 0x0, 1, 0x0, 1, .rc, 0x00000000, 0x0, 0x00000000⟩,  -- RING_HDR_CRC_ERR_CNT R91
  ⟨0x2C, 0x0, 1, 0x0, 1, .rc, 0x00000000, 0x0, 0x00000000⟩,  -- RING_SEC_CRC_ERR_CNT R91
  ⟨0x30, 0x0, 1, 0x0, 1, .rc, 0x00000000, 0x0, 0x00000000⟩,  -- RING_UNWRITTEN_CNT R91
  ⟨0x34, 0x0, 1, 0x0, 1, .rc, 0x00000000, 0x0, 0x00000000⟩,  -- RING_FCS_SEEN_CNT R91
  ⟨0x38, 0x0, 1, 0x0, 1, .ro, 0x00000000, 0x0, 0x00000000⟩,  -- RING_ERR_SEEN_LAST R91
  ⟨0x3C, 0x0, 1, 0x0, 1, .rc, 0x00000000, 0x0, 0x00000000⟩,  -- RING_VISIT_ERR_CNT R91
  ⟨0x40, 0x0, 1, 0x0, 1, .rc, 0x00000000, 0x0, 0x00000000⟩,  -- RING_SVC_TIMEOUT_CNT R91
  ⟨0x80, 0x0, 1, 0x0, 1, .rw, 0x00FA0000, 0x0, 0x03FF001F⟩,  -- RING_START_CFG R126
  ⟨0x84, 0x0, 1, 0x0, 1, .w1p, 0x00000000, 0x0, 0x00000007⟩,  -- RING_CTRL R126
  ⟨0x88, 0x0, 1, 0x0, 1, .ro, 0x00000000, 0x0, 0x00000000⟩,  -- RING_CTRL_STATUS R126
  ⟨0x8C, 0x0, 1, 0x0, 1, .ro, 0x00000000, 0x0, 0x00000000⟩,  -- RING_STATE R126
  ⟨0x90, 0x0, 1, 0x0, 1, .ro, 0x00000000, 0x0, 0x00000000⟩,  -- RING_RT R126
  ⟨0x94, 0x0, 1, 0x0, 1, .ro, 0x00000000, 0x0, 0x00000000⟩,  -- RING_BREAK R126
  ⟨0x98, 0x0, 1, 0x0, 1, .ro, 0x00000000, 0x0, 0x00000000⟩,  -- RING_BREAK_TIME R126
  ⟨0x9C, 0x0, 1, 0x0, 1, .rw, 0x00000000, 0x0, 0x0000007F⟩,  -- RING_NODE_SEL R126
  ⟨0xA0, 0x0, 1, 0x0, 1, .ro, 0x00000000, 0x0, 0x00000000⟩,  -- RING_NODE_FWD R126
  ⟨0xA4, 0x0, 1, 0x0, 1, .ro, 0x00000000, 0x0, 0x00000000⟩,  -- RING_NODE_REV R126
  ⟨0xA8, 0x0, 1, 0x0, 1, .ro, 0x00000000, 0x0, 0x00000000⟩,  -- RING_NODE_Q R126
  ⟨0xAC, 0x0, 1, 0x0, 1, .rc, 0x00000000, 0x0, 0x00000000⟩,  -- RING_CLAIM_LOST_CNT R126
  ⟨0xB0, 0x0, 1, 0x0, 1, .rc, 0x00000000, 0x0, 0x00000000⟩,  -- RING_INTEG_FAIL_CNT R126
  ⟨0xB4, 0x0, 1, 0x0, 1, .rc, 0x00000000, 0x0, 0x00000000⟩,  -- RING_WV_CNT R126
  ⟨0xB8, 0x0, 1, 0x0, 1, .ro, 0x00000000, 0x0, 0x00000000⟩,  -- RING_WV_LAST R126
  ⟨0xBC, 0x0, 1, 0x0, 1, .rc, 0x00000000, 0x0, 0x00000000⟩,  -- RING_RETURN_MISS_CNT R126
  ⟨0xC0, 0x0, 1, 0x0, 1, .ro, 0x00000000, 0x0, 0x00000000⟩  -- RING_INTEG_LEN R126
  ]

/-- The register rows of the TIME block. -/
def rowsTime : List RegRow := [
  ⟨0x0, 0x0, 1, 0x0, 1, .rw, 0x000001E0, 0x0, 0x00000FF3⟩,  -- TIME_SRC_CFG R153
  ⟨0x4, 0x0, 1, 0x0, 1, .rw, 0x00000000, 0x0, 0xFFFFFFFF⟩,  -- TIME_STEP_LO R153
  ⟨0x8, 0x0, 1, 0x0, 1, .rw, 0x00000000, 0x0, 0xFFFFFFFF⟩,  -- TIME_STEP_HI R153
  ⟨0xC, 0x0, 1, 0x0, 1, .rw, 0x00017D01, 0x0, 0xFFFFFF0F⟩,  -- TIME_SYNC_CFG R153
  ⟨0x10, 0x0, 1, 0x0, 1, .rw, 0x00000000, 0x0, 0xFFFFFFFF⟩,  -- TIME_SYNC_OFFSET R153
  ⟨0x14, 0x0, 1, 0x0, 1, .rw, 0x00FA0011, 0x0, 0x00FFFF1F⟩,  -- TIME_PTP_CFG R153
  ⟨0x18, 0x0, 1, 0x0, 1, .w1p, 0x00000000, 0x0, 0x00000001⟩,  -- TIME_BASTE_COMMIT R153
  ⟨0x1C, 0x0, 1, 0x0, 1, .ro, 0x00000000, 0x0, 0x00000000⟩,  -- TIME_BASTE_STATUS R153
  ⟨0x20, 0x0, 1, 0x0, 1, .rw, 0x00000000, 0x0, 0xFFFFFFFF⟩,  -- TIME_RATE R153
  ⟨0x24, 0x0, 1, 0x0, 1, .ro, 0x00000000, 0x0, 0x00000000⟩,  -- TIME_RATE_ACTIVE R153
  ⟨0x28, 0x0, 1, 0x0, 1, .ro, 0x00000004, 0x0, 0x00000000⟩,  -- TIME_STATE R153
  ⟨0x2C, 0x0, 1, 0x0, 1, .w1p, 0x00000000, 0x0, 0x00000003⟩,  -- TIME_CTRL R153
  ⟨0x30, 0x0, 1, 0x0, 1, .ro, 0x00000000, 0x0, 0x00000000⟩,  -- TIME_SNAP_S_LO R153
  ⟨0x34, 0x0, 1, 0x0, 1, .ro, 0x00000000, 0x0, 0x00000000⟩,  -- TIME_SNAP_S_HI R153
  ⟨0x38, 0x0, 1, 0x0, 1, .ro, 0x00000000, 0x0, 0x00000000⟩,  -- TIME_SNAP_NS R153
  ⟨0x3C, 0x0, 1, 0x0, 1, .ro, 0x00000000, 0x0, 0x00000000⟩,  -- TIME_SNAP_FRAC R153
  ⟨0x40, 0x0, 1, 0x0, 1, .ro, 0x00000000, 0x0, 0x00000000⟩,  -- TIME_LATCH_S_LO R153
  ⟨0x44, 0x0, 1, 0x0, 1, .ro, 0x00000000, 0x0, 0x00000000⟩,  -- TIME_LATCH_S_HI R153
  ⟨0x48, 0x0, 1, 0x0, 1, .ro, 0x00000000, 0x0, 0x00000000⟩,  -- TIME_LATCH_NS R153
  ⟨0x50, 0x0, 1, 0x0, 1, .rc, 0x00000000, 0x0, 0x00000000⟩,  -- TIME_TC_RES_MAX R153
  ⟨0x54, 0x0, 1, 0x0, 1, .rc, 0x00000000, 0x0, 0x00000000⟩,  -- TIME_LAUNCH_LATE_CNT R153
  ⟨0x58, 0x0, 1, 0x0, 1, .ro, 0x00000000, 0x0, 0x00000000⟩,  -- TIME_SYNCIN_TS_NS R153
  ⟨0x5C, 0x0, 1, 0x0, 1, .rc, 0x00000000, 0x0, 0x00000000⟩,  -- TIME_SYNCIN_MISS_CNT R153
  ⟨0x60, 0x0, 1, 0x0, 1, .rc, 0x00000000, 0x0, 0x00000000⟩,  -- TIME_DOMSW_CNT R153
  ⟨0x100, 0x20, 4, 0x0, 1, .rw, 0x00000000, 0x0, 0x0000FF01⟩,  -- TIME_DOM_CFG R153
  ⟨0x104, 0x20, 4, 0x0, 1, .rw, 0x00000000, 0x0, 0xFFFFFFFF⟩,  -- TIME_DOM_RATE R153
  ⟨0x108, 0x20, 4, 0x0, 1, .rw, 0x00000000, 0x0, 0xFFFFFFFF⟩,  -- TIME_DOM_STEP_LO R153
  ⟨0x10C, 0x20, 4, 0x0, 1, .wo, 0x00000000, 0x0, 0xFFFFFFFF⟩,  -- TIME_DOM_STEP_HI R153
  ⟨0x110, 0x20, 4, 0x0, 1, .ro, 0x00000000, 0x0, 0x00000000⟩,  -- TIME_DOM_SNAP_S_LO R153
  ⟨0x114, 0x20, 4, 0x0, 1, .ro, 0x00000000, 0x0, 0x00000000⟩,  -- TIME_DOM_SNAP_S_HI R153
  ⟨0x118, 0x20, 4, 0x0, 1, .ro, 0x00000000, 0x0, 0x00000000⟩  -- TIME_DOM_SNAP_NS R153
  ]

/-- The register rows of the PROF block. -/
def rowsProf : List RegRow := [
  ⟨0x0, 0x0, 1, 0x0, 1, .ro, 0x00000000, 0x0, 0x00000000⟩,  -- PROF_STATUS R196
  ⟨0x4, 0x0, 1, 0x0, 1, .ro, 0x00000000, 0x0, 0x00000000⟩,  -- PROF_RET_STATUS R196
  ⟨0x10, 0x0, 1, 0x0, 1, .wo, 0x00000000, 0x0, 0x000003FF⟩,  -- PROF_BASTE_COMMIT R196
  ⟨0x14, 0x0, 1, 0x0, 1, .ro, 0x00000000, 0x0, 0x00000000⟩,  -- PROF_BASTE_STATUS R196
  ⟨0x40, 0x4, 4, 0x0, 1, .rw, 0x00000000, 0x0, 0xFFFFFFFF⟩,  -- PROF_CMD_ARG R196
  ⟨0x50, 0x0, 1, 0x0, 1, .wo, 0x00000000, 0x0, 0x0000FFFF⟩,  -- PROF_CMD R196
  ⟨0x54, 0x0, 1, 0x0, 1, .ro, 0x00000000, 0x0, 0x00000000⟩,  -- PROF_CMD_STATUS R196
  ⟨0x100, 0x0, 1, 0x0, 1, .rw, 0x49742400, 0x0, 0xFFFFFFFF⟩,  -- PROF_BASTE_VMAX R196
  ⟨0x104, 0x0, 1, 0x0, 1, .rw, 0x4B189680, 0x0, 0xFFFFFFFF⟩,  -- PROF_BASTE_ACC R196
  ⟨0x108, 0x0, 1, 0x0, 1, .rw, 0x4B189680, 0x0, 0xFFFFFFFF⟩,  -- PROF_BASTE_DEC R196
  ⟨0x10C, 0x0, 1, 0x0, 1, .rw, 0x4E6E6B28, 0x0, 0xFFFFFFFF⟩,  -- PROF_BASTE_JERK R196
  ⟨0x110, 0x0, 1, 0x0, 1, .rw, 0x4C189680, 0x0, 0xFFFFFFFF⟩,  -- PROF_BASTE_QSDEC R196
  ⟨0x114, 0x0, 1, 0x0, 1, .rw, 0x00000000, 0x0, 0xFFFFFFFF⟩,  -- PROF_BASTE_QSJERK R196
  ⟨0x118, 0x0, 1, 0x0, 1, .rw, 0x00000000, 0x0, 0xFFFFFFFF⟩,  -- PROF_BASTE_SMIN_LO R196
  ⟨0x11C, 0x0, 1, 0x0, 1, .rw, 0x80000000, 0x0, 0xFFFFFFFF⟩,  -- PROF_BASTE_SMIN_HI R196
  ⟨0x120, 0x0, 1, 0x0, 1, .rw, 0xFFFFFFFF, 0x0, 0xFFFFFFFF⟩,  -- PROF_BASTE_SMAX_LO R196
  ⟨0x124, 0x0, 1, 0x0, 1, .rw, 0x7FFFFFFF, 0x0, 0xFFFFFFFF⟩,  -- PROF_BASTE_SMAX_HI R196
  ⟨0x128, 0x0, 1, 0x0, 1, .rw, 0x00000000, 0x0, 0x0003FFFF⟩,  -- PROF_BASTE_LIMCFG R196
  ⟨0x12C, 0x0, 1, 0x0, 1, .rw, 0x00000080, 0x0, 0x0003FFF1⟩,  -- PROF_BASTE_STEPCFG R196
  ⟨0x130, 0x0, 1, 0x0, 1, .rw, 0x41200000, 0x0, 0xFFFFFFFF⟩,  -- PROF_BASTE_STILL R196
  ⟨0x134, 0x0, 1, 0x0, 1, .rw, 0x00000001, 0x0, 0xFFFFFFFF⟩,  -- PROF_BASTE_GEARNUM R196
  ⟨0x138, 0x0, 1, 0x0, 1, .rw, 0x00000001, 0x0, 0xFFFFFFFF⟩,  -- PROF_BASTE_GEARDEN R196
  ⟨0x13C, 0x0, 1, 0x0, 1, .rw, 0x00000000, 0x0, 0x000003FF⟩,  -- PROF_BASTE_FOLCFG R196
  ⟨0x10000, 0x40, 256, 0x4, 16, .ro, 0x00000000, 0x0, 0x00000000⟩,  -- PROF_AX_PARAM R196
  ⟨0x20000, 0x20, 256, 0x0, 1, .ro, 0x00000000, 0x0, 0x00000000⟩,  -- PROF_AX_STATE R196
  ⟨0x20004, 0x20, 256, 0x0, 1, .ro, 0x00000000, 0x0, 0x00000000⟩,  -- PROF_AX_SP_LO R196
  ⟨0x20008, 0x20, 256, 0x0, 1, .ro, 0x00000000, 0x0, 0x00000000⟩,  -- PROF_AX_SP_HI R196
  ⟨0x2000C, 0x20, 256, 0x0, 1, .ro, 0x00000000, 0x0, 0x00000000⟩,  -- PROF_AX_VEL_LO R196
  ⟨0x20010, 0x20, 256, 0x0, 1, .ro, 0x00000000, 0x0, 0x00000000⟩,  -- PROF_AX_VEL_HI R196
  ⟨0x20014, 0x20, 256, 0x0, 1, .ro, 0x00000000, 0x0, 0x00000000⟩,  -- PROF_AX_TGT_LO R196
  ⟨0x20018, 0x20, 256, 0x0, 1, .ro, 0x00000000, 0x0, 0x00000000⟩,  -- PROF_AX_TGT_HI R196
  ⟨0x2001C, 0x20, 256, 0x0, 1, .ro, 0x00000000, 0x0, 0x00000000⟩,  -- PROF_AX_PHASE R196
  ⟨0x30000, 0x40, 64, 0x0, 1, .ro, 0x00000000, 0x0, 0x00000000⟩,  -- PROF_GRP_CFG R196
  ⟨0x30004, 0x40, 64, 0x4, 4, .ro, 0x00000000, 0x0, 0x00000000⟩,  -- PROF_GRP_AXES R196
  ⟨0x30014, 0x40, 64, 0x0, 1, .rw, 0x00000000, 0x0, 0xFFFFFFFF⟩,  -- PROF_GRP_QBASE R196
  ⟨0x30018, 0x40, 64, 0x0, 1, .rw, 0x00000000, 0x0, 0xFFFFFFFF⟩,  -- PROF_GRP_QLEN R196
  ⟨0x3001C, 0x40, 64, 0x0, 1, .rw, 0x00000000, 0x0, 0xFFFFFFFF⟩,  -- PROF_GRP_WR_PTR R196
  ⟨0x30020, 0x40, 64, 0x0, 1, .ro, 0x00000000, 0x0, 0x00000000⟩,  -- PROF_GRP_RD_PTR R196
  ⟨0x30024, 0x40, 64, 0x0, 1, .rw, 0x00A44000, 0x0, 0xFFFFFFFF⟩,  -- PROF_GRP_RATE R196
  ⟨0x30028, 0x40, 64, 0x0, 1, .ro, 0x00000000, 0x0, 0x00000000⟩,  -- PROF_GRP_STATE R196
  ⟨0x3002C, 0x40, 64, 0x0, 1, .ro, 0x00000000, 0x0, 0x00000000⟩,  -- PROF_GRP_SEG_ID R196
  ⟨0x40000, 0x10, 32, 0x0, 1, .rw, 0x00000000, 0x0, 0x0007FFFF⟩,  -- PROF_GRD_CFG R196
  ⟨0x40004, 0x10, 32, 0x0, 1, .rw, 0x00000000, 0x0, 0xFFFFFFFF⟩,  -- PROF_GRD_OFS_LO R196
  ⟨0x40008, 0x10, 32, 0x0, 1, .rw, 0x00000000, 0x0, 0xFFFFFFFF⟩,  -- PROF_GRD_OFS_HI R196
  ⟨0x4000C, 0x10, 32, 0x0, 1, .rw, 0x00000000, 0x0, 0xFFFFFFFF⟩  -- PROF_GRD_CLEAR R196
  ]

/-- The register rows of the LOOP block. -/
def rowsLoop : List RegRow := [
  ⟨0x0, 0x0, 1, 0x0, 1, .ro, 0x00000000, 0x0, 0x00000000⟩,  -- LOOP_STATUS R235
  ⟨0x4, 0x0, 1, 0x0, 1, .wo, 0x00000000, 0x0, 0x000003FF⟩,  -- LOOP_BASTE_COMMIT R235
  ⟨0x8, 0x0, 1, 0x0, 1, .ro, 0x00000000, 0x0, 0x00000000⟩,  -- LOOP_BASTE_STATUS R235
  ⟨0xC, 0x0, 1, 0x0, 1, .wo, 0x00000000, 0x0, 0x000003FF⟩,  -- LOOP_BANK_SWAP R235
  ⟨0x10, 0x0, 1, 0x0, 1, .ro, 0x00000000, 0x0, 0x00000000⟩,  -- LOOP_BANK_STATUS R235
  ⟨0x14, 0x0, 1, 0x0, 1, .rc, 0x00000000, 0x0, 0x00000000⟩,  -- LOOP_FE_CNT R235
  ⟨0x18, 0x0, 1, 0x0, 1, .rc, 0x00000000, 0x0, 0x00000000⟩,  -- LOOP_VE_CNT R235
  ⟨0x1C, 0x0, 1, 0x0, 1, .rc, 0x00000000, 0x0, 0x00000000⟩,  -- LOOP_STALL_CNT R235
  ⟨0x20, 0x0, 1, 0x0, 1, .rc, 0x00000000, 0x0, 0x00000000⟩,  -- LOOP_EXPIRED_CNT R235
  ⟨0x24, 0x0, 1, 0x0, 1, .rc, 0x00000000, 0x0, 0x00000000⟩,  -- LOOP_CLAMP_CNT R235
  ⟨0x28, 0x0, 1, 0x0, 1, .rc, 0x00000000, 0x0, 0x00000000⟩,  -- LOOP_HEM_LATE_CNT R235
  ⟨0x100, 0x40, 4, 0x0, 1, .rw, 0x0000E000, 0x0, 0x07FFFFFF⟩,  -- LOOP_INJ_CFG R235
  ⟨0x104, 0x40, 4, 0x0, 1, .rw, 0x00000000, 0x0, 0xFFFFFFFF⟩,  -- LOOP_INJ_AMP R235
  ⟨0x108, 0x40, 4, 0x0, 1, .rw, 0x3F800000, 0x0, 0xFFFFFFFF⟩,  -- LOOP_INJ_F0 R235
  ⟨0x10C, 0x40, 4, 0x0, 1, .rw, 0x447A0000, 0x0, 0xFFFFFFFF⟩,  -- LOOP_INJ_F1 R235
  ⟨0x110, 0x40, 4, 0x0, 1, .rw, 0x00000000, 0x0, 0xFFFFFFFF⟩,  -- LOOP_INJ_LEN R235
  ⟨0x114, 0x40, 4, 0x0, 1, .rw, 0x05800000, 0x0, 0xFFFFFFFF⟩,  -- LOOP_INJ_TBL R235
  ⟨0x118, 0x40, 4, 0x0, 1, .rw, 0x00000000, 0x0, 0xFFFFFFFF⟩,  -- LOOP_INJ_START R235
  ⟨0x11C, 0x40, 4, 0x0, 1, .w1p, 0x00000000, 0x0, 0x00000003⟩,  -- LOOP_INJ_CTRL R235
  ⟨0x120, 0x40, 4, 0x0, 1, .ro, 0x00000000, 0x0, 0x00000000⟩,  -- LOOP_INJ_STATUS R235
  ⟨0x10000, 0x200, 256, 0x4, 128, .rw, 0x00000000, 0x0, 0xFFFFFFFF⟩,  -- LOOP_AX_COEF R235
  ⟨0x30000, 0x200, 256, 0x4, 128, .ro, 0x00000000, 0x0, 0x00000000⟩,  -- LOOP_AX_COEF_ACT R235
  ⟨0x50000, 0x200, 16, 0x4, 128, .rw, 0x00000000, 0x0, 0xFFFFFFFF⟩,  -- LOOP_LANE_BASTE R235
  ⟨0x60000, 0x40, 256, 0x0, 1, .ro, 0x00000000, 0x0, 0x00000000⟩,  -- LOOP_AX_E R235
  ⟨0x60004, 0x40, 256, 0x0, 1, .ro, 0x00000000, 0x0, 0x00000000⟩,  -- LOOP_AX_VREF R235
  ⟨0x60008, 0x40, 256, 0x0, 1, .ro, 0x00000000, 0x0, 0x00000000⟩,  -- LOOP_AX_VMEAS R235
  ⟨0x6000C, 0x40, 256, 0x0, 1, .ro, 0x00000000, 0x0, 0x00000000⟩,  -- LOOP_AX_TCMD R235
  ⟨0x60010, 0x40, 256, 0x0, 1, .ro, 0x00000000, 0x0, 0x00000000⟩,  -- LOOP_AX_IPOS R235
  ⟨0x60014, 0x40, 256, 0x0, 1, .ro, 0x00000000, 0x0, 0x00000000⟩,  -- LOOP_AX_IVEL R235
  ⟨0x60018, 0x40, 256, 0x0, 1, .ro, 0x00000000, 0x0, 0x00000000⟩,  -- LOOP_AX_CUR R235
  ⟨0x6001C, 0x40, 256, 0x0, 1, .ro, 0x00000000, 0x0, 0x00000000⟩  -- LOOP_AX_FLAGS R235
  ]

/-- The register rows of the HEM block. -/
def rowsHem : List RegRow := [
  ⟨0x0, 0x0, 1, 0x0, 1, .ro, 0x00000000, 0x0, 0x00000000⟩,  -- HEM_STATUS R270
  ⟨0x4, 0x0, 1, 0x0, 1, .rw, 0x00000000, 0x0, 0x00000003⟩,  -- HEM_OP R270
  ⟨0x8, 0x0, 1, 0x0, 1, .rw, 0x05800000, 0x0, 0xFFFFFFFF⟩,  -- HEM_OP_SRC R270
  ⟨0xC, 0x0, 1, 0x0, 1, .rw, 0x00000000, 0x0, 0xFFFFFFFF⟩,  -- HEM_OP_DST R270
  ⟨0x10, 0x0, 1, 0x0, 1, .rw, 0x00000000, 0x0, 0xFFFFFFFF⟩,  -- HEM_OP_LEN R270
  ⟨0x14, 0x0, 1, 0x0, 1, .rw, 0x00000000, 0x0, 0x0000FFFF⟩,  -- HEM_OP_MASK R270
  ⟨0x18, 0x0, 1, 0x0, 1, .w1p, 0x00000000, 0x0, 0x00000001⟩,  -- HEM_BASTE_COMMIT R270
  ⟨0x1C, 0x0, 1, 0x0, 1, .ro, 0x00000000, 0x0, 0x00000000⟩,  -- HEM_BASTE_STATUS R270
  ⟨0x20, 0x0, 1, 0x0, 1, .rc, 0x00000000, 0x0, 0x00000000⟩,  -- HEM_ABORT_CNT R270
  ⟨0x24, 0x0, 1, 0x0, 1, .ro, 0x00000000, 0x0, 0x00000000⟩,  -- HEM_ABORT_LAST R270
  ⟨0x28, 0x0, 1, 0x0, 1, .rc, 0x00000000, 0x0, 0x00000000⟩,  -- HEM_ECC_CORR_CNT R270
  ⟨0x100, 0x20, 16, 0x0, 1, .rw, 0x00000000, 0x0, 0x00000001⟩,  -- HEM_CORE_CTRL R270
  ⟨0x104, 0x20, 16, 0x0, 1, .rw, 0x00000400, 0x0, 0x0000FFFF⟩,  -- HEM_CORE_BUDGET R270
  ⟨0x108, 0x20, 16, 0x0, 1, .ro, 0x00000000, 0x0, 0x00000000⟩,  -- HEM_CORE_STATUS R270
  ⟨0x10C, 0x20, 16, 0x0, 1, .ro, 0x00000000, 0x0, 0x00000000⟩,  -- HEM_CORE_TASK R270
  ⟨0x110, 0x20, 16, 0x0, 1, .rc, 0x00000000, 0x0, 0x00000000⟩,  -- HEM_CORE_LAT_MAX R270
  ⟨0x114, 0x20, 16, 0x0, 1, .rc, 0x00000000, 0x0, 0x00000000⟩,  -- HEM_CORE_RUN_MAX R270
  ⟨0x118, 0x20, 16, 0x0, 1, .rc, 0x00000000, 0x0, 0x00000000⟩,  -- HEM_CORE_DONE_CNT R270
  ⟨0x40000, 0x4000, 16, 0x4, 4096, .ro, 0x00000000, 0x0, 0x00000000⟩,  -- HEM_CORE_PMEM R270
  ⟨0x80000, 0x8000, 16, 0x4, 8192, .ro, 0x00000000, 0x0, 0x00000000⟩  -- HEM_CORE_DMEM R270
  ]

/-- The register rows of the SCHED block. -/
def rowsSched : List RegRow := [
  ⟨0x0, 0x0, 1, 0x0, 1, .ro, 0x00000000, 0x0, 0x00000000⟩,  -- SCHED_STATUS R299
  ⟨0x4, 0x0, 1, 0x0, 1, .wo, 0x00000000, 0x0, 0x000007FF⟩,  -- SCHED_CANCEL R299
  ⟨0x8, 0x0, 1, 0x0, 1, .rw, 0x00000000, 0x0, 0xFFFFFFFF⟩,  -- SCHED_POST_LO R299
  ⟨0xC, 0x0, 1, 0x0, 1, .wo, 0x00000000, 0x0, 0xFFFFFFFF⟩,  -- SCHED_POST_HI R299
  ⟨0x10, 0x0, 1, 0x0, 1, .rw, 0xC8641900, 0x0, 0xFFFFFFFF⟩,  -- SCHED_AFF_HOLD R299
  ⟨0x14, 0x0, 1, 0x0, 1, .rw, 0x00000000, 0x0, 0xFFFFFFFF⟩,  -- SCHED_DLY_VALUE R299
  ⟨0x18, 0x0, 1, 0x0, 1, .rw, 0x00000000, 0x0, 0x00000FFF⟩,  -- SCHED_DLY_TARGET R299
  ⟨0x1C, 0x0, 1, 0x0, 1, .rw, 0x00000000, 0x0, 0xFFFFFFFF⟩,  -- SCHED_DLY_WAKE R299
  ⟨0x20, 0x0, 1, 0x0, 1, .rw, 0x00000000, 0x0, 0xFFFFFFFF⟩,  -- SCHED_DLY_PERIOD R299
  ⟨0x24, 0x0, 1, 0x0, 1, .w1p, 0x00000000, 0x0, 0x00000003⟩,  -- SCHED_BASTE_COMMIT R299
  ⟨0x28, 0x0, 1, 0x0, 1, .ro, 0x00000000, 0x0, 0x00000000⟩,  -- SCHED_BASTE_STATUS R299
  ⟨0x2C, 0x0, 1, 0x0, 1, .ro, 0x00000000, 0x0, 0x00000000⟩,  -- SCHED_TICK R299
  ⟨0x30, 0x0, 1, 0x0, 1, .rc, 0x00000000, 0x0, 0x00000000⟩,  -- SCHED_LAT_MAX R299
  ⟨0x34, 0x0, 1, 0x0, 1, .rc, 0x00000000, 0x0, 0x00000000⟩,  -- SCHED_OVERWRITE_CNT R299
  ⟨0x38, 0x0, 1, 0x0, 1, .rc, 0x00000000, 0x0, 0x00000000⟩,  -- SCHED_CANCEL_RACE_CNT R299
  ⟨0x3C, 0x0, 1, 0x0, 1, .rc, 0x00000000, 0x0, 0x00000000⟩,  -- SCHED_DISCARD_CNT R299
  ⟨0x40, 0x0, 1, 0x0, 1, .ro, 0x00000000, 0x0, 0x00000000⟩,  -- SCHED_DESC_STATUS R299
  ⟨0x10000, 0x20, 1024, 0x4, 8, .rw, 0x00000000, 0x0, 0xFFFFFFFF⟩,  -- SCHED_TASK_DESC R299
  ⟨0x20000, 0x4, 1024, 0x0, 1, .ro, 0x00000000, 0x0, 0x00000000⟩,  -- SCHED_TASK_STATE R299
  ⟨0x30000, 0x8, 256, 0x0, 1, .rw, 0x00000000, 0x0, 0x80000FFF⟩,  -- SCHED_AX_HOOK R299
  ⟨0x30004, 0x8, 256, 0x0, 1, .rw, 0x00000000, 0x0, 0x80003FFF⟩  -- SCHED_AX_SUB R299
  ]

/-- The register rows of the MBX block. -/
def rowsMbx : List RegRow := [
  ⟨0x0, 0x10, 64, 0x0, 1, .rw, 0x00000000, 0x0, 0xFFFFFFFF⟩,  -- MBX_DATA R300
  ⟨0x4, 0x10, 64, 0x0, 1, .ro, 0x00000000, 0x0, 0x00000000⟩,  -- MBX_PEEK R300
  ⟨0x8, 0x10, 64, 0x0, 1, .rw, 0x03E80000, 0x0, 0x3FFFFFFF⟩,  -- MBX_CFG R300
  ⟨0xC, 0x10, 64, 0x0, 1, .rw, 0x00000000, 0x0, 0x00000FFF⟩,  -- MBX_TGT R300
  ⟨0x800, 0x0, 1, 0x0, 1, .ro, 0x00000000, 0x0, 0x00000000⟩,  -- MBX_FULL_LO R300
  ⟨0x804, 0x0, 1, 0x0, 1, .ro, 0x00000000, 0x0, 0x00000000⟩,  -- MBX_FULL_HI R300
  ⟨0x808, 0x0, 1, 0x0, 1, .w1c, 0x00000000, 0x0, 0xFFFFFFFF⟩,  -- MBX_STALL_LO R300
  ⟨0x80C, 0x0, 1, 0x0, 1, .w1c, 0x00000000, 0x0, 0xFFFFFFFF⟩,  -- MBX_STALL_HI R300
  ⟨0x810, 0x0, 1, 0x0, 1, .rc, 0x00000000, 0x0, 0x00000000⟩,  -- MBX_REFUSE_CNT R300
  ⟨0x814, 0x0, 1, 0x0, 1, .w1c, 0x00000000, 0x0, 0x00000001⟩,  -- MBX_EMPTY_READ R300
  ⟨0x1000, 0x20, 8, 0x0, 1, .wo, 0x00000000, 0x0, 0xFFFFFFFF⟩,  -- MBXQ_H2D R300
  ⟨0x1004, 0x20, 8, 0x0, 1, .rc, 0x00000000, 0x0, 0x00000000⟩,  -- MBXQ_D2H R300
  ⟨0x1008, 0x20, 8, 0x0, 1, .ro, 0x00000000, 0x0, 0x00000000⟩,  -- MBXQ_LEVEL R300
  ⟨0x100C, 0x20, 8, 0x0, 1, .w1c, 0x00000000, 0x0, 0x00000003⟩,  -- MBXQ_STAT R300
  ⟨0x1010, 0x20, 8, 0x0, 1, .rw, 0x00000001, 0x0, 0x0000011F⟩,  -- MBXQ_CFG R300
  ⟨0x2000, 0x4, 64, 0x0, 1, .rw, 0x00000000, 0x0, 0xFFFFFFFF⟩  -- MBX_LOCK R300
  ]

/-- The register rows of the FBC block. -/
def rowsFbc : List RegRow := [
  ⟨0x0, 0x0, 1, 0x0, 1, .ro, 0x00000000, 0x0, 0x00000000⟩,  -- FBC_STATUS R332
  ⟨0x4, 0x0, 1, 0x0, 1, .w1p, 0x00000000, 0x0, 0x00000001⟩,  -- FBC_BASTE_COMMIT R332
  ⟨0x8, 0x0, 1, 0x0, 1, .ro, 0x00000000, 0x0, 0x00000000⟩,  -- FBC_BASTE_STATUS R332
  ⟨0xC, 0x0, 1, 0x0, 1, .rw, 0x0000FFFF, 0x0, 0x0000FFFF⟩,  -- FBC_PIN_CFG R332
  ⟨0x10, 0x0, 1, 0x0, 1, .ro, 0x00000000, 0x0, 0x00000000⟩,  -- FBC_CMP_ARMED R332
  ⟨0x14, 0x0, 1, 0x0, 1, .rc, 0x00000000, 0x0, 0x00000000⟩,  -- FBC_DT_CNT R332
  ⟨0x18, 0x0, 1, 0x0, 1, .rc, 0x00000000, 0x0, 0x00000000⟩,  -- FBC_CMP_LATE_CNT R332
  ⟨0x1C, 0x0, 1, 0x0, 1, .rc, 0x00000000, 0x0, 0x00000000⟩,  -- FBC_CMP_DEFER_CNT R332
  ⟨0x100, 0x40, 8, 0x0, 1, .rw, 0x00000400, 0x0, 0xFF01FF03⟩,  -- FBC_ENC_CFG R332
  ⟨0x104, 0x40, 8, 0x0, 1, .rw, 0x00000000, 0x0, 0xFFFFFFFF⟩,  -- FBC_ENC_SSI R332
  ⟨0x108, 0x40, 8, 0x0, 1, .rw, 0x00000000, 0x0, 0x00FFFFFF⟩,  -- FBC_ENC_INDEX R332
  ⟨0x10C, 0x40, 8, 0x0, 1, .rw, 0x00040004, 0x0, 0xFFFFFFFF⟩,  -- FBC_ENC_TOL R332
  ⟨0x110, 0x40, 8, 0x0, 1, .rw, 0x00000000, 0x0, 0x800000FF⟩,  -- FBC_ENC_AXIS R332
  ⟨0x114, 0x40, 8, 0x0, 1, .ro, 0x00000000, 0x0, 0x00000000⟩,  -- FBC_ENC_POS_LO R332
  ⟨0x118, 0x40, 8, 0x0, 1, .ro, 0x00000000, 0x0, 0x00000000⟩,  -- FBC_ENC_POS_HI R332
  ⟨0x11C, 0x40, 8, 0x0, 1, .ro, 0x00000000, 0x0, 0x00000000⟩,  -- FBC_ENC_IDX_LO R332
  ⟨0x120, 0x40, 8, 0x0, 1, .ro, 0x00000000, 0x0, 0x00000000⟩,  -- FBC_ENC_IDX_HI R332
  ⟨0x124, 0x40, 8, 0x0, 1, .ro, 0x00000000, 0x0, 0x00000000⟩,  -- FBC_ENC_IDX_TS R332
  ⟨0x128, 0x40, 8, 0x0, 1, .w1c, 0x00000000, 0x0, 0x0000003F⟩,  -- FBC_ENC_STATUS R332
  ⟨0x12C, 0x40, 8, 0x0, 1, .rc, 0x00000000, 0x0, 0x00000000⟩,  -- FBC_ENC_DT_CNT R332
  ⟨0x130, 0x40, 8, 0x0, 1, .ro, 0x00000000, 0x0, 0x00000000⟩,  -- FBC_ENC_TWIN_OFS_LO R332
  ⟨0x134, 0x40, 8, 0x0, 1, .ro, 0x00000000, 0x0, 0x00000000⟩,  -- FBC_ENC_TWIN_OFS_HI R332
  ⟨0x400, 0x20, 8, 0x0, 1, .rw, 0x00000000, 0x0, 0x000007FF⟩,  -- FBC_EMU_CFG R332
  ⟨0x404, 0x20, 8, 0x0, 1, .rw, 0x00000001, 0x0, 0x00FFFFFF⟩,  -- FBC_EMU_NUM R332
  ⟨0x408, 0x20, 8, 0x0, 1, .rw, 0x00000001, 0x0, 0x00FFFFFF⟩,  -- FBC_EMU_DEN R332
  ⟨0x40C, 0x20, 8, 0x0, 1, .rw, 0x00000000, 0x0, 0x00FFFFFF⟩,  -- FBC_EMU_ZPER R332
  ⟨0x410, 0x20, 8, 0x0, 1, .rw, 0x00000000, 0x0, 0x00FFFFFF⟩,  -- FBC_EMU_ZPH R332
  ⟨0x414, 0x20, 8, 0x0, 1, .w1c, 0x00000000, 0x0, 0x00000001⟩,  -- FBC_EMU_STATUS R332
  ⟨0x1000, 0x40, 32, 0x0, 1, .rw, 0x00000000, 0x0, 0x007F0FFF⟩,  -- FBC_CMP_CFG R332
  ⟨0x1004, 0x40, 32, 0x0, 1, .rw, 0x00000000, 0x0, 0xFFFFFFFF⟩,  -- FBC_CMP_OFS R332
  ⟨0x1008, 0x40, 32, 0x0, 1, .rw, 0x00000000, 0x0, 0xFFFFFFFF⟩,  -- FBC_CMP_HYST R332
  ⟨0x100C, 0x40, 32, 0x0, 1, .rw, 0x00000000, 0x0, 0xFFFFFFFF⟩,  -- FBC_CMP_VAL_LO R332
  ⟨0x1010, 0x40, 32, 0x0, 1, .rw, 0x00000000, 0x0, 0xFFFFFFFF⟩,  -- FBC_CMP_VAL_HI R332
  ⟨0x1014, 0x40, 32, 0x0, 1, .rw, 0x00000000, 0x0, 0xFFFF0F7F⟩,  -- FBC_CMP_ACT R332
  ⟨0x1018, 0x40, 32, 0x0, 1, .rw, 0x04800000, 0x0, 0xFFFFFFFF⟩,  -- FBC_CMP_QBASE R332
  ⟨0x101C, 0x40, 32, 0x0, 1, .rw, 0x00000000, 0x0, 0xFFFFFFFF⟩,  -- FBC_CMP_QLEN R332
  ⟨0x1020, 0x40, 32, 0x0, 1, .rw, 0x00000000, 0x0, 0xFFFFFFFF⟩,  -- FBC_CMP_WR_PTR R332
  ⟨0x1024, 0x40, 32, 0x0, 1, .ro, 0x00000000, 0x0, 0x00000000⟩,  -- FBC_CMP_RD_PTR R332
  ⟨0x1028, 0x40, 32, 0x0, 1, .w1p, 0x00000000, 0x0, 0x00000003⟩,  -- FBC_CMP_CTRL R332
  ⟨0x102C, 0x40, 32, 0x0, 1, .ro, 0x00000000, 0x0, 0x00000000⟩,  -- FBC_CMP_STATUS R332
  ⟨0x1030, 0x40, 32, 0x0, 1, .ro, 0x00000000, 0x0, 0x00000000⟩,  -- FBC_CMP_LAST_TS R332
  ⟨0x1034, 0x40, 32, 0x0, 1, .ro, 0x00000000, 0x0, 0x00000000⟩  -- FBC_CMP_LAST_ID R332
  ]

/-- The register rows of the ACQ block. -/
def rowsAcq : List RegRow := [
  ⟨0x0, 0x0, 1, 0x0, 1, .ro, 0x00000000, 0x0, 0x00000000⟩,  -- ACQ_STATUS R349
  ⟨0x4, 0x0, 1, 0x0, 1, .w1p, 0x00000000, 0x0, 0x00000001⟩,  -- ACQ_BASTE_COMMIT R349
  ⟨0x8, 0x0, 1, 0x0, 1, .ro, 0x00000000, 0x0, 0x00000000⟩,  -- ACQ_BASTE_STATUS R349
  ⟨0xC, 0x0, 1, 0x0, 1, .rw, 0x00000000, 0x0, 0x0000F33F⟩,  -- ACQ_GROUP R349
  ⟨0x100, 0x100, 4, 0x0, 1, .rw, 0x00010100, 0x0, 0xFFFF7F0F⟩,  -- ACQ_SP_CFG R349
  ⟨0x104, 0x100, 4, 0x0, 1, .rw, 0x03000000, 0x600000, 0xFFFFFFFF⟩,  -- ACQ_SP_BASE R349
  ⟨0x108, 0x100, 4, 0x0, 1, .rw, 0x00600000, 0x0, 0xFFFFFFFF⟩,  -- ACQ_SP_LEN R349
  ⟨0x10C, 0x100, 4, 0x0, 1, .rw, 0x00001000, 0x0, 0x7FFFFFFF⟩,  -- ACQ_SP_DEPTH R349
  ⟨0x110, 0x100, 4, 0x0, 1, .rw, 0x00000000, 0x0, 0xFFFFFFFF⟩,  -- ACQ_SP_HOLDOFF R349
  ⟨0x114, 0x100, 4, 0x0, 1, .rw, 0x000003E8, 0x0, 0xFFFFFFFF⟩,  -- ACQ_SP_TIMEOUT R349
  ⟨0x118, 0x100, 4, 0x0, 1, .rw, 0x80000000, 0x0, 0xFFFFFFFF⟩,  -- ACQ_SP_ARCH_BASE R349
  ⟨0x11C, 0x100, 4, 0x0, 1, .rw, 0x00000000, 0x0, 0xFFFFFFFF⟩,  -- ACQ_SP_ARCH_LEN R349
  ⟨0x120, 0x100, 4, 0x0, 1, .rw, 0x00000000, 0x0, 0x0000001F⟩,  -- ACQ_SP_TRIG R349
  ⟨0x124, 0x100, 4, 0xC, 4, .rw, 0x00000000, 0x0, 0x1F0F373F⟩,  -- ACQ_SP_COND_CFG R349
  ⟨0x128, 0x100, 4, 0xC, 4, .rw, 0x00000000, 0x0, 0xFFFFFFFF⟩,  -- ACQ_SP_COND_LO R349
  ⟨0x12C, 0x100, 4, 0xC, 4, .rw, 0x00000000, 0x0, 0xFFFFFFFF⟩,  -- ACQ_SP_COND_HI R349
  ⟨0x154, 0x100, 4, 0x0, 1, .rw, 0x00000000, 0x0, 0xFFFFFFFF⟩,  -- ACQ_SP_MASK_EN_LO R349
  ⟨0x158, 0x100, 4, 0x0, 1, .rw, 0x00000000, 0x0, 0xFFFFFFFF⟩,  -- ACQ_SP_MASK_EN_HI R349
  ⟨0x15C, 0x100, 4, 0x0, 1, .rw, 0x00000000, 0x0, 0x0003FF01⟩,  -- ACQ_SP_MASK_CFG R349
  ⟨0x160, 0x100, 4, 0x0, 1, .rw, 0x00000000, 0x0, 0xFFFFFFFF⟩,  -- ACQ_SP_MASK_X0_LO R349
  ⟨0x164, 0x100, 4, 0x0, 1, .rw, 0x00000000, 0x0, 0xFFFFFFFF⟩,  -- ACQ_SP_MASK_X0_HI R349
  ⟨0x168, 0x100, 4, 0x0, 1, .rw, 0x00000000, 0x0, 0xFFFFFFFF⟩,  -- ACQ_SP_MASK_X1_LO R349
  ⟨0x16C, 0x100, 4, 0x0, 1, .rw, 0x00000000, 0x0, 0xFFFFFFFF⟩,  -- ACQ_SP_MASK_X1_HI R349
  ⟨0x170, 0x100, 4, 0x0, 1, .rw, 0x03000000, 0x0, 0xFFFFFFFF⟩,  -- ACQ_SP_MASK_TBL R349
  ⟨0x180, 0x100, 4, 0x0, 1, .w1p, 0x00000000, 0x0, 0x0000001F⟩,  -- ACQ_SP_CTRL R349
  ⟨0x184, 0x100, 4, 0x0, 1, .ro, 0x00000000, 0x0, 0x00000000⟩,  -- ACQ_SP_STATE R349
  ⟨0x188, 0x100, 4, 0x0, 1, .ro, 0x00000000, 0x0, 0x00000000⟩,  -- ACQ_SP_WR_PTR R349
  ⟨0x190, 0x100, 4, 0x0, 1, .ro, 0x00000000, 0x0, 0x00000000⟩,  -- ACQ_SP_TRIG_TS_LO R349
  ⟨0x194, 0x100, 4, 0x0, 1, .ro, 0x00000000, 0x0, 0x00000000⟩,  -- ACQ_SP_TRIG_TS_HI R349
  ⟨0x198, 0x100, 4, 0x0, 1, .rc, 0x00000000, 0x0, 0x00000000⟩,  -- ACQ_SP_LOST_CNT R349
  ⟨0x19C, 0x100, 4, 0x0, 1, .rc, 0x00000000, 0x0, 0x00000000⟩,  -- ACQ_SP_EVT_DROP_CNT R349
  ⟨0x1A0, 0x100, 4, 0x0, 1, .rc, 0x00000000, 0x0, 0x00000000⟩,  -- ACQ_SP_HOLDOFF_CNT R349
  ⟨0x1000, 0x100, 4, 0x4, 64, .rw, 0x00000000, 0x0, 0xFFFFC000⟩  -- ACQ_SP_CH R349
  ]

/-- The register rows of the TWIN block. -/
def rowsTwin : List RegRow := [
  ⟨0x0, 0x0, 1, 0x0, 1, .rw, 0x00004022, 0x0, 0x0000FF7F⟩,  -- TWIN_CFG R390
  ⟨0x4, 0x0, 1, 0x0, 1, .w1p, 0x00000000, 0x0, 0x00000001⟩,  -- TWIN_BASTE_COMMIT R390
  ⟨0x8, 0x0, 1, 0x0, 1, .ro, 0x00000000, 0x0, 0x00000000⟩,  -- TWIN_BASTE_STATUS R390
  ⟨0xC, 0x0, 1, 0x0, 1, .w1p, 0x00000000, 0x0, 0x0000000F⟩,  -- TWIN_CTRL R390
  ⟨0x10, 0x0, 1, 0x0, 1, .ro, 0x00000000, 0x0, 0x00000000⟩,  -- TWIN_CTRL_STATUS R390
  ⟨0x14, 0x0, 1, 0x0, 1, .ro, 0x00000000, 0x0, 0x00000000⟩,  -- TWIN_STATE R390
  ⟨0x18, 0x0, 1, 0x0, 1, .ro, 0x00000000, 0x0, 0x00000000⟩,  -- TWIN_PEER_SERIAL_LO R390
  ⟨0x1C, 0x0, 1, 0x0, 1, .ro, 0x00000000, 0x0, 0x00000000⟩,  -- TWIN_PEER_SERIAL_HI R390
  ⟨0x20, 0x0, 1, 0x0, 1, .ro, 0x00000000, 0x0, 0x00000000⟩,  -- TWIN_ARRIVAL R390
  ⟨0x24, 0x0, 1, 0x0, 1, .ro, 0x00000000, 0x0, 0x00000000⟩,  -- TWIN_DIGEST_LO R390
  ⟨0x28, 0x0, 1, 0x0, 1, .ro, 0x00000000, 0x0, 0x00000000⟩,  -- TWIN_DIGEST_HI R390
  ⟨0x2C, 0x0, 1, 0x0, 1, .ro, 0x00000000, 0x0, 0x00000000⟩,  -- TWIN_PEER_DIGEST_LO R390
  ⟨0x30, 0x0, 1, 0x0, 1, .ro, 0x00000000, 0x0, 0x00000000⟩,  -- TWIN_PEER_DIGEST_HI R390
  ⟨0x34, 0x0, 1, 0x0, 1, .ro, 0x00000000, 0x0, 0x00000000⟩,  -- TWIN_DIVERGE_CYCLE R390
  ⟨0x38, 0x0, 1, 0x0, 1, .rc, 0x00000000, 0x0, 0x00000000⟩,  -- TWIN_DIGEST_MISS_CNT R390
  ⟨0x3C, 0x0, 1, 0x0, 1, .ro, 0x00000000, 0x0, 0x00000000⟩,  -- TWIN_JSEQ R390
  ⟨0x40, 0x0, 1, 0x0, 1, .ro, 0x00000000, 0x0, 0x00000000⟩,  -- TWIN_JOURNAL_LEVEL R390
  ⟨0x44, 0x0, 1, 0x0, 1, .rc, 0x00000000, 0x0, 0x00000000⟩,  -- TWIN_REPAIR_CNT R390
  ⟨0x48, 0x0, 1, 0x0, 1, .rc, 0x00000000, 0x0, 0x00000000⟩,  -- TWIN_TAKEOVER_CNT R390
  ⟨0x4C, 0x0, 1, 0x0, 1, .ro, 0x00000000, 0x0, 0x00000000⟩,  -- TWIN_TAKEOVER_CYCLE R390
  ⟨0x50, 0x0, 1, 0x0, 1, .rc, 0x00000000, 0x0, 0x00000000⟩,  -- TWIN_SPLIT_CNT R390
  ⟨0x54, 0x0, 1, 0x0, 1, .ro, 0x00000000, 0x0, 0x00000000⟩,  -- TWIN_SPLIT_BOUND R390
  ⟨0x58, 0x0, 1, 0x0, 1, .ro, 0x00000000, 0x0, 0x00000000⟩,  -- TWIN_RESYNC_STATUS R390
  ⟨0x5C, 0x0, 1, 0x0, 1, .ro, 0x00000000, 0x0, 0x00000000⟩,  -- TWIN_RESYNC_TIME R390
  ⟨0x60, 0x0, 1, 0x0, 1, .ro, 0xFFFFFFFF, 0x0, 0x00000000⟩,  -- TWIN_ACTIVE_AGE R390
  ⟨0x64, 0x0, 1, 0x0, 1, .rc, 0x00000000, 0x0, 0x00000000⟩  -- TWIN_LINK_ERR_CNT R390
  ]

/-- The register rows of the SAFE block. -/
def rowsSafe : List RegRow := [
  ⟨0x0, 0x0, 1, 0x0, 1, .ro, 0x00000000, 0x0, 0x00000000⟩,  -- SAFE_STATUS R428
  ⟨0x4, 0x0, 1, 0x0, 1, .ro, 0x00000004, 0x0, 0x00000000⟩,  -- SAFE_CYCLE R428
  ⟨0x8, 0x0, 1, 0x0, 1, .ro, 0x00000000, 0x0, 0x00000000⟩,  -- SAFE_PARAM_SIG R428
  ⟨0xC, 0x0, 1, 0x0, 1, .ro, 0x00000000, 0x0, 0x00000000⟩,  -- SAFE_PARAM_VER R428
  ⟨0x10, 0x0, 1, 0x0, 1, .ro, 0x00000000, 0x0, 0x00000000⟩,  -- SAFE_FAULT_CAUSE R428
  ⟨0x14, 0x0, 1, 0x0, 1, .ro, 0x00000000, 0x0, 0x00000000⟩,  -- SAFE_CYCLE_MAX R428
  ⟨0x18, 0x0, 1, 0x0, 1, .ro, 0x00000000, 0x0, 0x00000000⟩,  -- SAFE_IN_STATE R428
  ⟨0x1C, 0x0, 1, 0x0, 1, .ro, 0x00000000, 0x0, 0x00000000⟩,  -- SAFE_OUT_STATE R428
  ⟨0x100, 0x10, 134, 0x0, 1, .ro, 0x00000000, 0x0, 0x00000000⟩,  -- SAFE_CONN_STATE R428
  ⟨0x104, 0x10, 134, 0x0, 1, .ro, 0x00000000, 0x0, 0x00000000⟩,  -- SAFE_CONN_TXSEQ R428
  ⟨0x108, 0x10, 134, 0x0, 1, .ro, 0x00000000, 0x0, 0x00000000⟩,  -- SAFE_CONN_CRC_CNT R428
  ⟨0x10C, 0x10, 134, 0x0, 1, .ro, 0x00000000, 0x0, 0x00000000⟩,  -- SAFE_CONN_ERR_CNT R428
  ⟨0xA00, 0x10, 8, 0x4, 4, .ro, 0x00000000, 0x0, 0x00000000⟩,  -- SAFE_HC_RX R428
  ⟨0x1000, 0x8, 256, 0x0, 1, .ro, 0x00000000, 0x0, 0x00000000⟩,  -- SAFE_AX_STATE R428
  ⟨0x1004, 0x8, 256, 0x0, 1, .ro, 0x00000000, 0x0, 0x00000000⟩,  -- SAFE_AX_POS R428
  ⟨0x2000, 0x4, 8, 0x0, 1, .ro, 0x00000000, 0x0, 0x00000000⟩  -- SAFE_SLO_STATE R428
  ]

/-- The register rows of the FIO block. -/
def rowsFio : List RegRow := [
  ⟨0x0, 0x0, 1, 0x0, 1, .ro, 0x00000000, 0x0, 0x00000000⟩,  -- FIO_STATUS R451
  ⟨0x4, 0x0, 1, 0x0, 1, .w1p, 0x00000000, 0x0, 0x00000001⟩,  -- FIO_BASTE_COMMIT R451
  ⟨0x8, 0x0, 1, 0x0, 1, .ro, 0x00000000, 0x0, 0x00000000⟩,  -- FIO_BASTE_STATUS R451
  ⟨0xC, 0x0, 1, 0x0, 1, .rw, 0x00000064, 0x0, 0x00001FFF⟩,  -- FIO_LINK_CFG R451
  ⟨0x10, 0x0, 1, 0x0, 1, .ro, 0x00000000, 0x0, 0x00000000⟩,  -- FIO_IN_STATE R451
  ⟨0x14, 0x0, 1, 0x0, 1, .ro, 0x00000000, 0x0, 0x00000000⟩,  -- FIO_IN_RAW R451
  ⟨0x18, 0x0, 1, 0x0, 1, .ro, 0x00000000, 0x0, 0x00000000⟩,  -- FIO_IN_WB R451
  ⟨0x1C, 0x0, 1, 0x0, 1, .w1c, 0x00000000, 0x0, 0xFFFFFFFF⟩,  -- FIO_IN_FLT R451
  ⟨0x20, 0x0, 1, 0x0, 1, .rw, 0x00000000, 0x0, 0x0000FFFF⟩,  -- FIO_OUT R451
  ⟨0x24, 0x0, 1, 0x0, 1, .ro, 0x00000000, 0x0, 0x00000000⟩,  -- FIO_OUT_STATE R451
  ⟨0x28, 0x0, 1, 0x0, 1, .w1c, 0x00000000, 0x0, 0xFFFFFFFF⟩,  -- FIO_OUT_FLT R451
  ⟨0x2C, 0x0, 1, 0x0, 1, .ro, 0x00000000, 0x0, 0x00000000⟩,  -- FIO_VFIELD R451
  ⟨0x30, 0x0, 1, 0x0, 1, .ro, 0x00000000, 0x0, 0x00000000⟩,  -- FIO_TEMP R451
  ⟨0x34, 0x0, 1, 0x0, 1, .rc, 0x00000000, 0x0, 0x00000000⟩,  -- FIO_LINK_ERR_CNT R451
  ⟨0x100, 0x4, 32, 0x0, 1, .rw, 0x003403E8, 0x0, 0x1FFFFFFF⟩,  -- FIO_IN_CFG R451
  ⟨0x200, 0x4, 16, 0x0, 1, .rw, 0x00000000, 0x0, 0x0001FF0F⟩  -- FIO_OUT_CFG R451
  ]

/-- The register rows of the FPM block. -/
def rowsFpm : List RegRow := [
  ⟨0x0, 0x0, 1, 0x0, 1, .ro, 0x00000000, 0x0, 0x00000000⟩,  -- FPM_STATUS R478
  ⟨0x4, 0x0, 1, 0x0, 1, .ro, 0x000001F4, 0x0, 0x00000000⟩,  -- FPM_CFG R478
  ⟨0x8, 0x0, 1, 0x0, 1, .w1p, 0x00000000, 0x0, 0x00000003⟩,  -- FPM_CTRL R478
  ⟨0xC, 0x0, 1, 0x0, 1, .ro, 0x00000000, 0x0, 0x00000000⟩,  -- FPM_CTRL_STATUS R478
  ⟨0x10, 0x0, 1, 0x0, 1, .ro, 0x00000000, 0x0, 0x00000000⟩,  -- FPM_CAUSE R478
  ⟨0x14, 0x0, 1, 0x0, 1, .ro, 0x00000000, 0x0, 0x00000000⟩,  -- FPM_RESET_TIME R478
  ⟨0x18, 0x0, 1, 0x0, 1, .rc, 0x00000000, 0x0, 0x00000000⟩,  -- FPM_SUPPRESS_CNT R478
  ⟨0x1C, 0x0, 1, 0x0, 1, .ro, 0x00000000, 0x0, 0x00000000⟩,  -- FPM_ALIVE R478
  ⟨0x100, 0x10, 5, 0x0, 1, .ro, 0x00000000, 0x0, 0x00000000⟩,  -- FPM_RAIL_LIMIT R478
  ⟨0x104, 0x10, 5, 0x0, 1, .ro, 0x00000000, 0x0, 0x00000000⟩,  -- FPM_RAIL_RESV R478
  ⟨0x108, 0x10, 5, 0x0, 1, .ro, 0x00000000, 0x0, 0x00000000⟩,  -- FPM_RAIL_GRANT R478
  ⟨0x10C, 0x10, 5, 0x0, 1, .ro, 0x00000320, 0x0, 0x00000000⟩,  -- FPM_RAIL_SLEW R478
  ⟨0x180, 0x0, 1, 0x0, 1, .ro, 0x00000000, 0x0, 0x00000000⟩,  -- FPM_LEAVE_QLEN R478
  ⟨0x184, 0x0, 1, 0x0, 1, .rc, 0x00000000, 0x0, 0x00000000⟩,  -- FPM_LEAVE_WAIT_MAX R478
  ⟨0x188, 0x0, 1, 0x0, 1, .rc, 0x00000000, 0x0, 0x00000000⟩,  -- FPM_WAKE_WAIT_MAX R478
  ⟨0x200, 0x0, 1, 0x0, 1, .wo, 0x00000000, 0x0, 0xFFFFFFFF⟩,  -- FPM_MAINT_REQ R478
  ⟨0x204, 0x0, 1, 0x0, 1, .ro, 0x00000000, 0x0, 0x00000000⟩,  -- FPM_MAINT_STATUS R478
  ⟨0x300, 0x0, 1, 0x0, 1, .rw, 0x00000000, 0x0, 0x0000FF1F⟩,  -- FPM_INJ_TARGET R478
  ⟨0x304, 0x0, 1, 0x0, 1, .rw, 0x00000000, 0x0, 0xFFFFFFFF⟩,  -- FPM_INJ_CONTEXT R478
  ⟨0x308, 0x0, 1, 0x0, 1, .w1p, 0x00000000, 0x0, 0x00000001⟩,  -- FPM_INJ_CTRL R478
  ⟨0x400, 0x0, 1, 0x0, 1, .w1c, 0x00000000, 0x0, 0xFFFFFFFF⟩,  -- FPM_SAFE_FLT_STATUS R478
  ⟨0x404, 0x0, 1, 0x0, 1, .wo, 0x00000000, 0x0, 0xFFFFFFFF⟩  -- FPM_SAFE_FLT_ACK R478
  ]

/-- The register rows of the SEC block. -/
def rowsSec : List RegRow := [
  ⟨0x0, 0x0, 1, 0x0, 1, .ro, 0x00000000, 0x0, 0x00000000⟩,  -- SEC_STATUS R512
  ⟨0x4, 0x0, 1, 0x0, 1, .ro, 0x00000000, 0x0, 0x00000000⟩,  -- SEC_BOOT_TIME R512
  ⟨0x8, 0x0, 1, 0x0, 1, .ro, 0x00000000, 0x0, 0x00000000⟩,  -- SEC_RESET_INFO R512
  ⟨0xC, 0x0, 1, 0x0, 1, .ro, 0x00000000, 0x0, 0x00000000⟩,  -- SEC_RESET_DUR R512
  ⟨0x10, 0x0, 1, 0x0, 1, .ro, 0x00000000, 0x0, 0x00000000⟩,  -- SEC_MANIFEST_VER R512
  ⟨0x14, 0x0, 1, 0x0, 1, .ro, 0x00000000, 0x0, 0x00000000⟩,  -- SEC_STAGE_STATUS R512
  ⟨0x18, 0x0, 1, 0x0, 1, .ro, 0x00000000, 0x0, 0x00000000⟩,  -- SEC_CFG_SET_HASH R512
  ⟨0x1C, 0x0, 1, 0x0, 1, .ro, 0x00000000, 0x0, 0x00000000⟩,  -- SEC_CFG_REFUSED R512
  ⟨0x20, 0x4, 8, 0x0, 1, .ro, 0x00000000, 0x0, 0x00000000⟩,  -- SEC_STAGED_HASH R512
  ⟨0x40, 0x4, 8, 0x0, 1, .rw, 0x00000000, 0x0, 0xFFFFFFFF⟩,  -- SEC_ACT_HASH R512
  ⟨0x60, 0x0, 1, 0x0, 1, .rw, 0x00000078, 0x0, 0x000103FF⟩,  -- SEC_ACT_CFG R512
  ⟨0x64, 0x0, 1, 0x0, 1, .w1p, 0x00000000, 0x0, 0x00000001⟩,  -- SEC_BASTE_COMMIT R512
  ⟨0x68, 0x0, 1, 0x0, 1, .ro, 0x00000000, 0x0, 0x00000000⟩,  -- SEC_BASTE_STATUS R512
  ⟨0x6C, 0x0, 1, 0x0, 1, .ro, 0x00000000, 0x0, 0x00000000⟩,  -- SEC_TRIAL_LEFT R512
  ⟨0x70, 0x0, 1, 0x0, 1, .w1p, 0x00000000, 0x0, 0x0000001F⟩,  -- SEC_CTRL R512
  ⟨0x74, 0x0, 1, 0x0, 1, .ro, 0x00000000, 0x0, 0x00000000⟩,  -- SEC_CTRL_STATUS R512
  ⟨0x80, 0x4, 6, 0x0, 1, .ro, 0x00000000, 0x0, 0x00000000⟩,  -- SEC_EPOCH R512
  ⟨0xA0, 0x4, 8, 0x0, 1, .ro, 0x00000000, 0x0, 0x00000000⟩,  -- SEC_NONCE R512
  ⟨0xC0, 0x0, 1, 0x0, 1, .ro, 0x00000000, 0x0, 0x00000000⟩,  -- SEC_PROT_STATUS R512
  ⟨0xC4, 0x0, 1, 0x0, 1, .ro, 0x00000000, 0x0, 0x00000000⟩,  -- SEC_DEBUG_STATUS R512
  ⟨0xC8, 0x0, 1, 0x0, 1, .ro, 0x00000000, 0x0, 0x00000000⟩,  -- SEC_FUSE R512
  ⟨0xD0, 0x0, 1, 0x0, 1, .ro, 0x00000000, 0x0, 0x00000000⟩,  -- SEC_SERIAL_LO R512
  ⟨0xD4, 0x0, 1, 0x0, 1, .ro, 0x00000000, 0x0, 0x00000000⟩  -- SEC_SERIAL_HI R512
  ]

/-- The register rows of the HOST block. -/
def rowsHost : List RegRow := [
  ⟨0x0, 0x0, 1, 0x0, 1, .ro, 0x00000000, 0x0, 0x00000000⟩,  -- HOST_STATUS R544
  ⟨0x4, 0x0, 1, 0x0, 1, .rw, 0x0000000A, 0x0, 0x000003FF⟩,  -- HOST_CFG R544
  ⟨0x8, 0x0, 1, 0x0, 1, .ro, 0x00000000, 0x0, 0x00000000⟩,  -- HOST_MAC_LO R544
  ⟨0xC, 0x0, 1, 0x0, 1, .ro, 0x00000000, 0x0, 0x00000000⟩,  -- HOST_MAC_HI R544
  ⟨0x10, 0x0, 1, 0x0, 1, .ro, 0x00000000, 0x0, 0x00000000⟩,  -- HOST_IP0 R544
  ⟨0x14, 0x0, 1, 0x0, 1, .ro, 0x00000000, 0x0, 0x00000000⟩,  -- HOST_IP1 R544
  ⟨0x18, 0x0, 1, 0x0, 1, .ro, 0xC738C739, 0x0, 0x00000000⟩,  -- HOST_UDP_PORTS R544
  ⟨0x20, 0x0, 1, 0x0, 1, .rc, 0x00000000, 0x0, 0x00000000⟩,  -- HOST_MSG_CNT R544
  ⟨0x24, 0x0, 1, 0x0, 1, .rc, 0x00000000, 0x0, 0x00000000⟩,  -- HOST_MSG_ERR_CNT R544
  ⟨0x28, 0x0, 1, 0x0, 1, .rc, 0x00000000, 0x0, 0x00000000⟩,  -- HOST_UDP_DISCARD_CNT R544
  ⟨0x2C, 0x0, 1, 0x0, 1, .rc, 0x00000000, 0x0, 0x00000000⟩,  -- HOST_EVT_LOST_CNT R544
  ⟨0x30, 0x0, 1, 0x0, 1, .rc, 0x00000000, 0x0, 0x00000000⟩,  -- HOST_RING_ERR_CNT R544
  ⟨0x1000, 0x40, 8, 0x0, 1, .rw, 0x00000000, 0x0, 0xFFFFFFFF⟩,  -- HOST_SQ_BASE_LO R544
  ⟨0x1004, 0x40, 8, 0x0, 1, .rw, 0x00000000, 0x0, 0xFFFFFFFF⟩,  -- HOST_SQ_BASE_HI R544
  ⟨0x1008, 0x40, 8, 0x0, 1, .rw, 0x00000004, 0x0, 0x0000000F⟩,  -- HOST_SQ_SIZE R544
  ⟨0x100C, 0x40, 8, 0x0, 1, .rw, 0x00000000, 0x0, 0x00000FFF⟩,  -- HOST_SQ_TAIL R544
  ⟨0x1010, 0x40, 8, 0x0, 1, .ro, 0x00000000, 0x0, 0x00000000⟩,  -- HOST_SQ_HEAD R544
  ⟨0x1014, 0x40, 8, 0x0, 1, .rw, 0x00000000, 0x0, 0xFFFFFFFF⟩,  -- HOST_CQ_BASE_LO R544
  ⟨0x1018, 0x40, 8, 0x0, 1, .rw, 0x00000000, 0x0, 0xFFFFFFFF⟩,  -- HOST_CQ_BASE_HI R544
  ⟨0x101C, 0x40, 8, 0x0, 1, .rw, 0x00000004, 0x0, 0x0000000F⟩,  -- HOST_CQ_SIZE R544
  ⟨0x1020, 0x40, 8, 0x0, 1, .rw, 0x00000000, 0x0, 0x00000FFF⟩,  -- HOST_CQ_HEAD R544
  ⟨0x1024, 0x40, 8, 0x0, 1, .ro, 0x00000000, 0x0, 0x00000000⟩,  -- HOST_CQ_TAIL R544
  ⟨0x1028, 0x40, 8, 0x0, 1, .rw, 0x00000000, 0x0, 0xFFFFFF03⟩,  -- HOST_RING_CTRL R544
  ⟨0x102C, 0x40, 8, 0x0, 1, .ro, 0x00000000, 0x0, 0x00000000⟩,  -- HOST_RING_STATUS R544
  ⟨0x1200, 0x0, 1, 0x0, 1, .rw, 0x00000000, 0x0, 0xFFFFFFFF⟩,  -- HOST_EVQ_BASE_LO R544
  ⟨0x1204, 0x0, 1, 0x0, 1, .rw, 0x00000000, 0x0, 0xFFFFFFFF⟩,  -- HOST_EVQ_BASE_HI R544
  ⟨0x1208, 0x0, 1, 0x0, 1, .rw, 0x00000004, 0x0, 0x0000000F⟩,  -- HOST_EVQ_SIZE R544
  ⟨0x120C, 0x0, 1, 0x0, 1, .rw, 0x00000000, 0x0, 0x00000FFF⟩,  -- HOST_EVQ_HEAD R544
  ⟨0x1210, 0x0, 1, 0x0, 1, .ro, 0x00000000, 0x0, 0x00000000⟩,  -- HOST_EVQ_TAIL R544
  ⟨0x1214, 0x0, 1, 0x0, 1, .rw, 0x00000000, 0x0, 0xFFFFFF03⟩  -- HOST_EVQ_CTRL R544
  ]

/-- The fault group that every block holds at offset 0xF000 (R477). -/
def rowsFlt : List RegRow := [
  ⟨0xF000, 0, 1, 0, 1, .w1c, 0x00000000, 0, 0xFFFFFFFF⟩,
  ⟨0xF004, 0, 1, 0, 1, .rw, 0x00000000, 0, 0xFFFFFFFF⟩,
  ⟨0xF008, 0, 1, 0, 1, .ro, 0x55555555, 0, 0x00000000⟩,
  ⟨0xF00C, 0, 1, 0, 1, .ro, 0x55555555, 0, 0x00000000⟩,
  ⟨0xF010, 0, 1, 0, 1, .ro, 0x00000064, 0, 0x00000000⟩,
  ⟨0xF014, 0, 1, 0, 1, .wo, 0x00000000, 0, 0x0000001F⟩,
  ⟨0xF018, 0, 1, 0, 1, .ro, 0x00000000, 0, 0x00000000⟩,
  ⟨0xF01C, 0, 1, 0, 1, .ro, 0x00000000, 0, 0x00000000⟩,
  ⟨0xF020, 0, 1, 0, 1, .w1p, 0x00000000, 0, 0x00000001⟩,
  ⟨0xF040, 0x10, 8, 4, 4, .ro, 0x00000000, 0, 0x00000000⟩
  ]

/-- The rows of the block whose chip address has bits 27:20 equal to b (R48). -/
def rowsOf (b : Nat) : List RegRow :=
  match b with
  | 0 => rowsSys
  | 1 => rowsRing
  | 2 => rowsTime
  | 3 => rowsProf
  | 4 => rowsLoop
  | 5 => rowsHem
  | 6 => rowsSched
  | 7 => rowsMbx
  | 8 => rowsFbc
  | 9 => rowsAcq
  | 10 => rowsTwin
  | 11 => rowsSafe
  | 12 => rowsFio
  | 13 => rowsFpm
  | 14 => rowsSec
  | 15 => rowsHost
  | _ => []

/-- The indices under which a row covers an offset, if it does. -/
def RegRow.index? (r : RegRow) (o : Nat) : Option (Nat × Nat) :=
  if o < r.off then none
  else
    let d := o - r.off
    let i := if r.s1 == 0 then 0 else d / r.s1
    let e := d - r.s1 * i
    let j := if r.s2 == 0 then 0 else e / r.s2
    if i < r.n1 && j < r.n2 && e == r.s2 * j then some (i, j) else none

/-- The first row of a list that covers an offset, with its indices. -/
def findRow : List RegRow → Nat → Option (RegRow × Nat × Nat)
  | [], _ => none
  | r :: rs, o =>
    match r.index? o with
    | some (i, j) => some (r, i, j)
    | none => findRow rs o

/-- The register at a chip address: 32-bit aligned, in the register space, in a row of its block (R12, R48, R477). -/
def regAt (a : Nat) : Option (RegRow × Nat × Nat) :=
  if a < 0x20000000 || 0x21000000 ≤ a || a % 4 != 0 then none
  else
    let b := (a - 0x20000000) / 0x100000
    let o := a % 0x100000
    if 0xF000 ≤ o && o < 0xF0C0 then findRow rowsFlt o else findRow (rowsOf b) o

/-- What a register reads as until something changes it: its reset value, 0 where no register stands (R12). The words of an axis's
active parameter set have the reset values of the staging record (R196), which stand in the rows from VMAX on.
(DESIGN CHOICE, log entry 90) -/
def resetOf (a : Nat) : Word :=
  match regAt a with
  | none => 0
  | some (r, i, j) =>
    let q := if r.off == 0x10000 && a / 0x100000 == 0x203 then rowsProf.getD (7 + j) r else r
    q.reset + BitVec.ofNat 32 (q.step * i)

end Sys2Proof.Machine
end

