-- ==== Sys2Proof/Machine/State.lean ====
section
/-! DEFINITION. The state of the head: every register (one register file by chip address and the active copies of the baste
fields), the memories, and per block what the spec gives it beyond its registers. Plain data; the default of each field is
its value after reset (State.reset). -/

namespace Sys2Proof.Machine

/-- Why a run stops with a fault: no command of this hardware does, so the type has the one constructor for an
ill-formed operand that no host interface can form. -/
inductive Fault where
  /-- A command whose operands are not well-formed (WellFormed.lean): raised by no meaning; safe. -/
  | illFormed
  deriving DecidableEq, Repr

/-- Why a command is refused by the model. -/
inductive Refusal where
  /-- A row whose meaning is not written; raised by its arm of exec; safe. -/
  | notModelled (mnemonic : String)
  deriving DecidableEq, Repr

/-- The response of the last register or memory access: SLVERR stands for Completer Abort on PCIe too (R41). (DEDUCED, log entry 16) -/
structure Bus where
  err : Bool := false
  data : Word := 0
  /-- The access waits for its response: a token port has no room for it (R273). -/
  waits : Bool := false
  deriving DecidableEq, Repr

/-- What the head gives out: frames, messages, interrupts and pins, oldest first (DESIGN CHOICE, log entry 3). -/
inductive Out where
  /-- A whole MAC frame with its FCS that the head originates or turns around on its line port. -/
  | ring (bytes : List Byte)
  /-- A whole MAC frame with its FCS on the twin link. -/
  | twin (bytes : List Byte)
  /-- A Selvedge datagram to a peer (R408): address, port, payload. -/
  | selvedge (ip port : Nat) (bytes : List Byte)
  /-- A frame on a host Ethernet port. -/
  | eth (port : Fin 2) (bytes : List Byte)
  /-- A launch time and frame of a launch-at-time entry with its launch error. -/
  | timed (port : Fin 2) (bytes : List Byte) (err : Word)
  /-- Bytes written into host memory (response, completion or event-ring entry). -/
  | hostMem (addr : Nat) (bytes : List Byte)
  /-- An MSI-X vector. -/
  | msix (v : Nat)
  /-- A response to an endpoint that is not a ring. -/
  | response (ep : Endpoint) (bytes : List Byte)
  /-- The fault interrupt of a block to the firmware cores. -/
  | faultIrq (blk : Nat)
  /-- The mailbox or space interrupt of a master. -/
  | mbxIrq (master : Nat) (mbox : Nat) (space : Bool)
  /-- The queue interrupt of a legacy queue. -/
  | queueIrq (q : Nat)
  /-- A PTP event message delivered to firmware with its ingress timestamp. -/
  | ptp (port : Fin 2) (ts : Nat) (bytes : List Byte)
  /-- A pulse or an edge on a named pin. -/
  | pin (name : String) (level : Bool) (time : Nat)
  /-- A pin becomes high impedance. -/
  | highZ (name : String) (time : Nat)
  /-- A message from a worker's mailbox dropped, or other report to firmware. -/
  | toFirmware (what : String) (data : List Byte)
  deriving DecidableEq, Repr

/-- An offset and rate calculator (R129): base time in units of 2^-16 ns. -/
structure Calc where
  base : Nat := 0
  baseRaw : Nat := 0
  rate : Int := 0
  deriving DecidableEq, Repr

/-- A launch-at-time entry (R148): time in units of 2^-16 ns. -/
structure TimedEntry where
  time : Nat := 0
  frame : List Byte := []
  drop : Bool := false
  /-- PTP frame whose launch error is folded: 0 none, 1 Delay_Req, 2 Pdelay_Req (R145, R146). -/
  ptp : Nat := 0
  /-- The waiting request of a TIMED_FRAME that this entry answers. -/
  req : Option Nat := none
  deriving DecidableEq, Repr

/-- Timekeeping beyond the registers of the TIME block. -/
structure Timekeeping where
  /-- The main calculator. -/
  main : Calc := {}
  /-- Domain counters 0-3. -/
  dom : Table Calc := []
  /-- A step register was written since the previous TIME commit (R133). -/
  stepWritten : Bool := false
  /-- The step carried by the pending commit. -/
  carried : Option Int := none
  /-- Raw time at which the pending commit landed (R133). -/
  commitRaw : Nat := 0
  /-- Raw time of the last TIME_RATE landing or of src becoming PTP (R135). -/
  rateRaw : Nat := 0
  /-- Raw time of entry into HOLDOVER. -/
  holdRaw : Nat := 0
  /-- A TIME_RATE write held during FOLLOW (R137). -/
  heldRate : Option Word := none
  /-- Consecutive missing cascade edges (R152). -/
  misses : Nat := 0
  /-- Launch-at-time queues, key 2 * port + queue. -/
  tq : Table (List TimedEntry) := []
  /-- Launch errors of Pdelay_Req by sequenceId (R146). -/
  pdelay : Table Int := []
  /-- Untimed frames that wait behind a launch time, by host port (R148). -/
  heldTx : Table (List (List Byte)) := []
  /-- Raw time at which an Announce of a better clock was last heard (R141), and the host port on which the last Sync came. -/
  announceRaw : Nat := 0
  syncPort : Nat := 0
  /-- Raw time and sequenceId of the head's last Delay_Req or Pdelay_Req (R145, R146). -/
  reqRaw : Nat := 0
  reqSeq : Nat := 0
  /-- A rate slew in progress: the place of the last step, in units of 1/2,147 ns (0: none). -/
  slewRaw : Nat := 0
  /-- Readers use domain counter 0 until the next latch instant (R139). -/
  switched : Bool := false
  /-- The machine time that the last edge of SYNC_OUT marked (R151). -/
  syncEdge : Option Nat := none
  deriving DecidableEq, Repr

/-- The servo cycle. -/
structure Cycle where
  /-- The cycle count n of the last latch instant. -/
  count : Word := 0
  /-- Machine time of the last latch instant, units of 2^-16 ns. -/
  latch : Nat := 0
  /-- Length of the cycle in force, in 125 ns steps. -/
  steps : Nat := 8000
  /-- Length of the cycle before. -/
  past : Nat := 8000
  /-- Length announced for the next cycle, with its idle flag. -/
  next : Nat := 8000
  nextIdle : Bool := true
  /-- The cycle in force is an operating cycle, and the next one is (R44, R119). -/
  oper : Bool := false
  nextOper : Bool := false
  /-- The cycle before was an operating cycle. -/
  pastOper : Bool := false
  /-- Raw time of the last latch instant. -/
  instant : Nat := 0
  /-- The operating length (active copy of period_steps). -/
  operating : Nat := 8000
  /-- Clock gating of the lanes and Hem cores (R34). -/
  lanesAwake : Bool := false
  profAwake : Bool := false
  /-- A first enable waits for the region wake, whose requests the governor has taken (R37). -/
  wakePending : Bool := false
  deriving DecidableEq, Repr

/-- One history entry (R477). -/
structure HistEntry where
  w0 : Word := 0
  w1 : Word := 0
  w2 : Word := 0
  w3 : Word := 0
  deriving DecidableEq, Repr

/-- A climbing instance of the escalation ladder (R460). -/
structure Climb where
  blk : Nat
  ev : Nat
  /-- The rung that the next expiry applies. -/
  rung : Nat
  /-- The cell that the context names. -/
  cell : Option Nat
  /-- Started in this instant of the raw counter. -/
  since : Nat
  /-- Raw time at which the grace timer expires. -/
  due : Nat
  deriving DecidableEq, Repr

/-- An event raised since the last latch instant (R467). -/
structure EvMark where
  blk : Nat
  ev : Nat
  injected : Bool
  deriving DecidableEq, Repr

/-- Faults beyond the fault groups: history queues, climbs, resets, region stop. -/
structure Faults where
  /-- History queues by block, newest first. -/
  hist : Table (List HistEntry) := []
  climbs : List Climb := []
  /-- Blocks whose quiesce is asserted (R463). -/
  quiesce : List Nat := []
  /-- Blocks under reset; raw time at which a block's last reset completed. -/
  resetting : List Nat := []
  resetRaw : Table Nat := []
  /-- Resets in which secondaries-suppressed was raised. -/
  suppressed : List Nat := []
  /-- Block resets held back by enabled axes (R461). -/
  deferred : List Nat := []
  /-- Cells out of service, by block (R459). -/
  cellsOff : List (Nat × Nat) := []
  /-- Events of the current cycle (R467). -/
  marks : List EvMark := []
  /-- Raw time of the start of the region stop in force. -/
  stopRaw : Option Nat := none
  /-- The STO request of the region stop was sent. -/
  stoSent : Bool := false
  /-- DISABLE of every axis follows the STO request (R461). -/
  disableAfter : Bool := false
  deriving DecidableEq, Repr

/-- A leave request (R470). -/
structure Leave where
  requester : Nat
  cls : Nat
  rail : Nat
  current : Nat
  duration : Nat
  raw : Nat
  deriving DecidableEq, Repr

/-- Power domains that may be off. -/
inductive Domain where
  | host | mot | hem | mem | fio
  deriving DecidableEq, Repr

/-- The power governor, the maintenance arbiter and the supervisors. -/
structure Power where
  /-- The power domains that are off or, for PD_MEM, in self-refresh (R47). -/
  off : List Domain := [.mem]
  queue : List Leave := []
  granted : List Leave := []
  /-- Raw time of the last wake on each rail. -/
  lastWake : Table Nat := []
  /-- Steady current of the domains on, by rail, 10 mA units. -/
  steady : Table Nat := []
  /-- Power-down of PD_MOT and PD_HEM is allowed (R37). -/
  mayOff : Bool := false
  /-- The junction has been above the derating limit since it last fell below +100 °C. -/
  derated : Bool := false
  /-- A temperature was read since reset, and the raw time of the last reading. -/
  tempSeen : Bool := false
  tempRaw : Nat := 0
  /-- Clocks missing (0 CK_AON, 1 CK_REF, 2 SerDes reference) and supplies out of range, by row of R551. -/
  lost : List Nat := []
  bad : List Nat := []
  /-- The TXDIS pins that are high: bits 0 SFPA, 1 SFPB, 2 SFPE0, 3 SFPE1 (R549). -/
  txdis : Nat := 0
  /-- ALIVE may toggle: this head has entered IDLE, RUN or FOLLOW (R468). -/
  aliveOn : Bool := false
  /-- The next point of ALIVE's grid, in raw time. -/
  aliveAt : Nat := 0
  factory : Bool := false
  debugLevel : Nat := 0
  deriving DecidableEq, Repr

/-- One worker section of the section table (R60, R108). -/
structure Section where
  position : Nat := 0
  axes : List Nat := []
  /-- The worker's own axis channels, by record ordinal. -/
  map : List Nat := []
  /-- A Selvedge connection is configured. -/
  pdu : Bool := false
  deriving DecidableEq, Repr

/-- One worker of the ring topology record (R493). -/
structure TopoNode where
  vendor : Nat := 0
  product : Nat := 0
  axes : Nat := 0
  kappa : Int := 0
  imageClass : Nat := 0
  deriving DecidableEq, Repr

/-- An output record (R63, R64). -/
structure OutRec where
  pos : Long := 0
  slope : Word := 0
  torque : Half := 0
  control : Half := 0
  deriving DecidableEq, Repr

/-- The input state of an axis (R66, R67, R89). -/
structure InRec where
  /-- Received 48-bit position, status, actual and aux of the value in use. -/
  pos : Nat := 0
  status : Half := 0
  actual : Half := 0
  aux : Half := 0
  age : Nat := 7
  /-- Extended position and the reference of its last update. -/
  ext : Int := 0
  ref : Nat := 0
  /-- Extended position of the cycle before. -/
  prev : Int := 0
  valid : Bool := false
  got : Bool := false
  deriving DecidableEq, Repr

/-- A service-lane request waiting for a slot (R80). -/
structure SvcReq where
  target : Nat
  code : Nat
  index : Nat
  data : List Byte
  origin : SvcOrigin
  deriving DecidableEq, Repr

/-- A service-lane slot: free, a broadcast just written, or an exchange in progress. -/
structure SvcSlot where
  req : Option SvcReq := none
  tag : Nat := 0
  /-- The REQUEST has been launched. -/
  sent : Bool := false
  /-- AWAIT cycles since the REQUEST or the last RESPONSE_MORE. -/
  awaits : Nat := 0
  /-- Parts received so far. -/
  got : List Byte := []
  /-- One IDLE is to be written after a block reset. -/
  idle : Bool := false
  deriving DecidableEq, Repr

/-- A service exchange that has ended, for its originator. -/
structure SvcDone where
  origin : SvcOrigin
  target : Nat
  code : Nat
  /-- Worker result, or 0x100 for a timeout. -/
  result : Nat
  data : List Byte
  deriving DecidableEq, Repr

/-- A delay recalibration in progress (R113). -/
structure Recal where
  start : Word := 0
  sets : List (Table Nat) := []
  fails : Nat := 0
  deriving DecidableEq, Repr

/-- The ring and the shuttle processor beyond the RING registers. -/
structure RingState where
  /-- HEADRANK0-2 as sampled at reset release. -/
  rankPins : Nat := 0
  /-- Link and start configuration in force since the last cold start. -/
  linkCfg : Word := 0x8
  startCfg : Word := 0x00FA0000
  /-- Line port found or named: false A, true B; whether it is, so that the other ring port is powered down (R53). -/
  lineB : Bool := false
  lineFound : Bool := false
  /-- The line link of this head is lost (R121). -/
  lineLost : Bool := false
  /-- This head stands at position 127. -/
  farEnd : Bool := false
  /-- The payload of the ring topology record (R493), and what it gives as seen from end 0. -/
  record : List Byte := []
  sections : List Section := []
  layoutId : Nat := 0
  twinFar : Bool := false
  topo : List TopoNode := []
  kappaFar : Int := 0
  cfgHash : Word := 0
  /-- CLAIM state: claims sent, raw time of the first and of the last of them (R102). -/
  claims : Nat := 0
  claimFirst : Nat := 0
  claimRaw : Nat := 0
  /-- Raw time of entry into LISTEN (R100); of the last frame heard in FOLLOW (R93). -/
  listenRaw : Nat := 0
  heardRaw : Nat := 0
  mseq : Nat := 0
  /-- A foreign superior head was heard in RUN (R103). -/
  mustWithdraw : Bool := false
  /-- An inferior head's RING_STOP passed in RUN: integration is repeated once no axis is enabled (R103). -/
  mustRepeat : Bool := false
  /-- The serial that the last WITHDRAW YIELD heard names (R97). -/
  yielded : Long := 0
  /-- In FOLLOW: the next latch instant by the leader's last header; the step at lock has been taken (R137). -/
  ahead : Option Nat := none
  synced : Bool := false
  /-- The leader followed. -/
  leader : Long := 0
  /-- Integration index, cycles spent, agreed enumeration, delay sets and failures. -/
  integ : Nat := 0
  integCycles : Nat := 0
  retake : Bool := false
  mismatch : Bool := false
  /-- Integration cycles spent when the ENUMERATE in force began (R105). -/
  enumAt : Nat := 0
  enums : List (List Byte) := []
  agreedN : Nat := 0
  agreedTwin : Bool := false
  delaySets : List (Table Nat) := []
  setFails : Nat := 0
  /-- Fixed transits tf and tr by position, from DELAY. -/
  tf : Table Nat := []
  tr : Table Nat := []
  /-- Mean Q_p, D_k and E_k in 1/16 ns. -/
  q : Table Nat := []
  d : Table Nat := []
  e : Table Nat := []
  recal : Option Recal := none
  /-- A recalibration waits for the arbiter after a rejoin (R124). -/
  recalWanted : Bool := false
  /-- Positions that the REJOIN behind the next shuttle names (R124). -/
  rejoin : List Nat := []
  /-- Every worker has written its section since the last TABLE was due (R104). -/
  allWrite : Bool := false
  /-- Integration completes at the next latch instant (R107). -/
  complete : Bool := false
  /-- Inbound PDUs of the last return, for the island, by position. -/
  inPdus : Table (List Byte) := []
  /-- Positions whose last written section had ready set (R61, R503). -/
  nodesReady : List Nat := []
  /-- The marker of the break that stands, 0 for none. -/
  breakPos : Nat := 0
  /-- Shuttle bookkeeping. -/
  launched : Bool := false
  returned : Bool := true
  xt : Half := 0
  /-- xt_bits of the last launched shuttle. -/
  xtLaunched : Half := 0
  /-- The earliest fire that the next shuttle's trailer is stamped with: its bit and time in ns (R330). -/
  xtStamp : Option (Nat × Int) := none
  /-- Raw time at which a marker last appeared, or the head's own line link was declared lost. -/
  lastMark : Option Nat := none
  /-- A received shuttle failed its FCS: the head's own bit is due in the next (R73). -/
  errSeen : Bool := false
  lockRaw : Nat := 0
  /-- Outbound image of the next shuttle and last sent records, by axis. -/
  image : Table OutRec := []
  sent : Table OutRec := []
  everSent : List Nat := []
  /-- Records of the image complete for the next launch. -/
  fresh : List Nat := []
  /-- Torques posted for records that are not yet written (R276). -/
  replace : Table (Option Half) := []
  /-- Outbound PDUs by position. -/
  pdus : Table (List Byte) := []
  /-- Inputs by axis. -/
  inputs : Table InRec := []
  /-- Axes of the returned shuttle that wait for their lanes (R198). -/
  waiting : List Nat := []
  /-- Axes whose samples still waited when the launch that needed their records began. -/
  late : List Nat := []
  /-- Substituted sections of the last return, by position (R355). -/
  subst : List Nat := []
  /-- The forward-end copy of the current shuttle, at position 127 (R360). -/
  forward : List Byte := []
  slots : Table SvcSlot := []
  queue : List SvcReq := []
  tag : Nat := 0
  done : List SvcDone := []
  /-- Fetched worker messages by position (R529). -/
  wmbx : Table (List (List Byte)) := []
  deriving DecidableEq, Repr

/-- A token (R272). -/
structure Token where
  value : Word := 0
  task : Nat := 0
  operand : Nat := 0
  source : Nat := 0
  tag : Half := 0
  /-- The mailbox that delivered it (R290). -/
  mbx : Option Nat := none
  deriving DecidableEq, Repr

/-- A delay-list entry (R285). -/
structure DelayEntry where
  value : Word := 0
  task : Nat := 0
  operand : Nat := 0
  wake : Word := 0
  period : Word := 0
  /-- In a pair, the latch instant at which the entry is due has passed (R363). -/
  released : Bool := false
  deriving DecidableEq, Repr

/-- The run state of a task (R278, R281). -/
structure Task where
  /-- Operand values and present bits. -/
  o0 : Word := 0
  o1 : Word := 0
  o2 : Word := 0
  o3 : Word := 0
  present : Nat := 0
  ready : Bool := false
  /-- The order in which it became ready. -/
  order : Nat := 0
  /-- Raw time at which it became ready. -/
  readyRaw : Nat := 0
  holdOver : Bool := false
  running : Option Nat := none
  last : Option Nat := none
  /-- Operands that hold words of mailboxes: operand and mailbox (R290). -/
  words : List (Nat × Nat) := []
  deriving DecidableEq, Repr

/-- The scheduler beyond its registers. -/
structure Sched where
  tasks : Table Task := []
  /-- Tokens at the seven input ports (R273), key the port. -/
  ports : Table (List Token) := []
  /-- Tokens whose sources a full port stalls, key the port. -/
  stalled : Table (List Token) := []
  delays : List DelayEntry := []
  /-- The CK_FW cycle of the last dispatch or token, counted over the cycles that have one, its raw time, and whether it has had its
  token (R279, R281). -/
  order : Nat := 0
  stamp : Nat := 0
  tokenSeen : Bool := false
  /-- The tasks on the firmware cores by core, the running one first, then one that it preempted (R282). -/
  fwTasks : Table (List Nat) := []
  /-- Firmware cores held in reset under a fault reaction (R291, R297). -/
  fwReset : List Nat := []
  deriving DecidableEq, Repr

/-- A legacy queue mailbox (R294). -/
structure Legacy where
  h2d : List Word := []
  d2h : List Word := []
  /-- Words of the message being assembled, and words of answers that wait for room (R543). -/
  msg : List Word := []
  reply : List Word := []
  deriving DecidableEq, Repr

/-- Mailboxes and locks beyond their registers. -/
structure Mbx where
  /-- Full flags, by mailbox. -/
  full : List Nat := []
  /-- Mailboxes whose stall was reported for the present fill. -/
  stalled : List Nat := []
  /-- Raw time at which full was last set, by mailbox (R292). -/
  filled : Table Nat := []
  legacyMode : Bool := false
  queues : Table Legacy := []
  /-- Lock owners by lock number, 0 free. -/
  locks : Table Nat := []
  deriving DecidableEq, Repr

/-- A journal entry (R365). -/
structure JEntry where
  seq : Word := 0
  cycle : Word := 0
  kind : Nat := 1
  source : Nat := 0
  target : Word := 0
  data : List Byte := []
  deriving DecidableEq, Repr

/-- One write to be journaled: kind, token source, target, data (R365). -/
structure JWrite where
  kind : Nat := 1
  source : Nat := 0
  target : Word := 0
  data : List Byte := []
  deriving DecidableEq, Repr

/-- Writes stamped together, held in their interface for lack of journal room (R364, R367): the writes, or the entries still to be
stamped once the first has been; the request they belong to. -/
structure Held where
  writes : List JWrite := []
  rest : List JEntry := []
  req : Option Nat := none
  deriving DecidableEq, Repr

/-- Twin redundancy beyond the TWIN registers. -/
structure Twin where
  /-- The configuration names a twin (R351). -/
  pair : Bool := false
  pairId : Word := 0
  /-- This head stands at end A of the topology record. -/
  endA : Bool := true
  manifestHash : Word := 0
  formed : Bool := false
  seq : Nat := 0
  /-- Entries stamped and not yet applied, in jseq order. -/
  entries : List JEntry := []
  /-- Entries stamped in the current cycle, and in the one before it, which CYCLE_A carries; the highest number of the latter. -/
  cycleEntries : List JEntry := []
  prevEntries : List JEntry := []
  seqHi : Nat := 0
  /-- Highest number that the other head holds without a gap, by its CYCLE_S; the highest that this standby holds. -/
  ackHi : Nat := 0
  room : Nat := 0
  held : List Held := []
  /-- Digests of the last shuttles by cycle count, newest first. -/
  digests : List (Nat × Nat) := []
  matched : Nat := 0
  /-- Action announced: kind, cycle, acknowledged. -/
  action : Nat := 0
  actionCycle : Word := 0
  acked : Bool := false
  ackSend : Nat := 0
  ackCycle : Word := 0
  /-- CYCLE_A of the current cycle, as received. -/
  cycleA : Option (List Byte) := none
  gotFirst : Bool := false
  /-- Cycles since the last valid twin frame. -/
  silent : Nat := 4
  arrivals : List Nat := []
  takenOver : Bool := false
  resyncRaw : Nat := 0
  resyncs : List Nat := []
  pages : List Nat := []
  rejoinRaw : Option Nat := none
  activeRaw : Option Nat := none
  missed : List Nat := []
  kind3Lost : List Nat := []
  diffSince : Table Nat := []
  twinSerial : Long := 0
  formerStandby : Bool := false
  cfgSetHash : Word := 0
  /-- Field inputs for motion that CYCLE_A delivered, on a standby (R361). -/
  fieldIn : Word := 0
  /-- The own returned shuttle and the twin's RETURN of the current cycle, decided together in SPLIT (R377). -/
  ownRet : Option (List Byte × List Nat) := none
  twinRet : Option (List Byte) := none
  /-- Entries of the next latch instant are not applied (R366). -/
  skip : Bool := false
  /-- On a standby the motion part of the latch instant is due (R363). -/
  motionDue : Bool := false
  /-- The snapshot of a resynchronization: as received on the standby, still to be sent on the active; what the standby keeps of the
  cycles since it; the pages of L(c) still to be sent; Hem dispatch is held for the capture (R381). -/
  snapshot : List Byte := []
  kept : List (List Byte) := []
  frozen : List (Nat × List Byte) := []
  holding : Bool := false
  /-- Raw time of the last HELLO (R353), and of an automatic resynchronization that the arbiter refused (R380). -/
  helloRaw : Option Nat := none
  retryRaw : Option Nat := none
  /-- Frames that would still be in transmission when the returning shuttle is due: type and body (R353). -/
  delayed : List (Nat × List Byte) := []
  deriving DecidableEq, Repr

/-- One phase of a plan (R160): lasts dur seconds from velocity v0 and acceleration a0 at constant jerk j, all binary64
per second, from the 48.16 start position p0. -/
structure Phase where
  dur : Long := 0
  v0 : Long := 0
  a0 : Long := 0
  j : Long := 0
  p0 : Int := 0
  /-- Kind: 0 ramp, 1 cruise, 2 braking stop. -/
  kind : Nat := 0
  deriving DecidableEq, Repr

/-- A set-point entry (R159). -/
structure SetPoint where
  pos : Int := 0
  /-- 32.32 counts per cycle. -/
  vel : Int := 0
  /-- binary32 counts per cycle squared. -/
  acc : Word := 0
  deriving DecidableEq, Repr

/-- An axis context of the profile engine (R155). Modes are coded as in PROF_AXa_STATE. -/
structure Axis where
  mode : Nat := 0
  referenced : Bool := false
  limPos : Bool := false
  limNeg : Bool := false
  limitHeld : Bool := false
  stopBeyond : Bool := false
  limitStop : Bool := false
  phaseOk : Bool := false
  phaseLost : Bool := false
  inPosition : Bool := false
  /-- The set-points for L(n), L(n + 1) and L(n + 2), n the current cycle. -/
  sp0 : SetPoint := {}
  sp1 : SetPoint := {}
  sp2 : SetPoint := {}
  /-- The plan, the cycles from its origin to sp1 and the position on which it ends. -/
  plan : List Phase := []
  k : Nat := 0
  planEnd : Int := 0
  /-- Target of the move in force, and the commanded jog velocity. -/
  target : Int := 0
  jog : Word := 0
  /-- A commit waits for the end of the ramp in force, at this time of the plan, before the rest is planned anew (R168). -/
  replan : Option Long := none
  /-- FOLLOW: master reference and offset. -/
  mref : Int := 0
  offset : Int := 0
  /-- The axis's last three measured positions, as a follower takes them (R171). -/
  m1 : Int := 0
  m2 : Int := 0
  m3 : Int := 0
  /-- Shift of the set-point and of the measured position by SET_REF, 48.16 (R191, R196). -/
  shift : Int := 0
  pwrOn : Bool := false
  /-- A PHASE_RESTORE was sent and phase_ok has not come: the axis holds its set-point (R193). -/
  restoring : Bool := false
  /-- The axis is checked against its retained entry at its first valid input (R194). -/
  retainCheck : Bool := false
  /-- limit-overrun was raised in the stop in force. -/
  overrun : Bool := false
  deriving DecidableEq, Repr

/-- A segment in force (R174). -/
structure Seg where
  last : Bool := false
  id : Word := 0
  /-- Duration in cycles, 16.16. -/
  dur : Nat := 0
  /-- Coefficients by member, 48.16. -/
  coef : List (List Int) := []
  deriving DecidableEq, Repr

/-- A motion group (R156, R175). States are coded as in PROF_GRPg_STATE. -/
structure Group where
  members : List Nat := []
  defined : Bool := false
  state : Nat := 0
  flags : Nat := 0
  /-- Segment clock, 32.32 cycles. -/
  sigma : Nat := 0
  /-- Path rate, 32.32. -/
  rho : Nat := 0
  seg : Option Seg := none
  /-- Group quick stop: ρ at its start and its length in cycles as a binary64, cycles elapsed. -/
  rho0 : Nat := 0
  tqs : Long := 0
  kqs : Nat := 0
  /-- No further record is taken: the path goes on along the tangent (R177). -/
  tangent : Bool := false
  underrun : Bool := false
  /-- Members that hold a frozen or disabled position. -/
  frozen : List Nat := []
  deriving DecidableEq, Repr

/-- What another block asks of the profile engine at the next latch instant (R182, R195). -/
inductive StopReq where
  | quick (axis : Nat)
  | disable (axis : Nat)
  | region
  | group (g : Nat)
  deriving DecidableEq, Repr

/-- The profile engine beyond its registers. -/
structure Prof where
  axes : Table Axis := []
  groups : Table Group := []
  requests : List StopReq := []
  /-- The pending command: opcode, index and arguments. -/
  cmd : Option (Nat × Nat × Word × Word × Word × Word) := none
  /-- The pending parameter commit: axis, apply_now. -/
  commit : Option (Nat × Bool) := none
  /-- Tripped guard pairs. -/
  tripped : List Nat := []
  deriving DecidableEq, Repr

/-- A flow (R517-R519). -/
structure Flow where
  owner : Option Endpoint := none
  expected : Word := 0
  limit : Nat := 8192
  /-- The last 8 responses, newest first: seq and whole message. -/
  stored : List (Word × List Byte) := []
  /-- Raw time of the last request. -/
  last : Nat := 0
  deriving DecidableEq, Repr

/-- An event subscription (R531). -/
structure Subscription where
  on : Bool := false
  flow : Nat := 0
  mask : Word := 0
  minSev : Nat := 0
  seq : Word := 0
  lost : Nat := 0
  deriving DecidableEq, Repr

/-- What a request waits for before its response (R521). -/
inductive WaitFor where
  /-- Nothing more: the response payload and status are known. -/
  | ready (status : Nat) (payload : List Byte)
  /-- Its journal entries stamped; then G with detail (R516). -/
  | stamped (detail : Nat)
  /-- The commit point that sets a result: the status register address, bits hi:lo of the result, the value that is OK. -/
  | result (reg hi lo okVal : Nat) (extra : Nat)
  /-- A service exchange (R529). -/
  | service (opcode : Nat)
  /-- A launch-at-time frame. -/
  | timed
  deriving DecidableEq, Repr

/-- A request taken into a flow that has no response yet. -/
structure Waiting where
  id : Nat
  ep : Endpoint
  flow : Nat
  seq : Word
  opcode : Nat
  wait : WaitFor
  /-- The baste group, commit register or queue that it names (R520), 0 where it names none. -/
  res : Nat
  /-- The cycle during which its writes landed (R516). -/
  land : Word
  /-- Over a ring: tag, SQ index, response address and capacity. -/
  tag : Nat
  sqIndex : Nat
  rspAddr : Nat
  rspCap : Nat
  deriving DecidableEq, Repr

/-- One completion ring or the event ring as the head writes it (R536, R537): key r, 8 for the event ring. -/
structure Ring where
  phase : Bool := true
  /-- Entries since the last head doorbell or vector, for coalescing, and the raw time of the first of them. -/
  count : Nat := 0
  firstRaw : Nat := 0
  stalled : Bool := false
  /-- Completions that wait for room: address, bytes, CQ entry. -/
  backlog : List (Nat × List Byte × List Byte) := []
  deriving DecidableEq, Repr

/-- The host interfaces beyond the HOST registers. -/
structure HostIf where
  flows : Table Flow := []
  subs : Table Subscription := []
  waiting : List Waiting := []
  /-- Requests taken that wait behind another of their flow or resource (R520): opcode and request, oldest first. -/
  queued : List (Nat × Req) := []
  nextId : Nat := 0
  rings : Table Ring := []
  /-- MSI-X table and pending bits, by byte offset in the block. -/
  msix : Table Word := []
  /-- Learned source addresses: 48-bit address, port (0, 1 external, 2 internal), raw time at which it was last seen. -/
  stations : List (Nat × Nat × Nat) := []
  /-- Address mask and gateway by port, from the host network record. -/
  net : List (Nat × Nat) := []
  deriving DecidableEq, Repr

/-- A register bank of a Hem core (R238), with what its pipeline still owes it. -/
structure HemBank where
  d : Table Half := []
  a0 : BitVec 40 := 0
  a1 : BitVec 40 := 0
  p : Table (BitVec 20) := []
  b : Table (BitVec 20) := []
  l : Table Half := []
  o : Table Word := []
  pc : BitVec 12 := 0
  /-- Bit 0 n, bit 1 z, bit 2 sat, bit 3 ovf. -/
  st : BitVec 4 := 0
  stack : List (BitVec 12) := []
  /-- A load in its delay slot (R249): register 0-7 for d, 8 and 9 for a0 and a1, and the value loaded. -/
  load : Option (Nat × BitVec 40) := none
  /-- The next instruction stands in the delay slot of a B, CALL or RET (R250), and where control passes after it. -/
  slot : Bool := false
  target : Option (BitVec 12) := none
  /-- Issues still due of the instruction that a REP repeats (R256). -/
  rep : Option Nat := none
  /-- A POST stalls on the full post buffer (R254, R261). -/
  stalled : Bool := false
  /-- The task that runs in the bank, its destinations, the cycles counted (R262), whether it has issued yet and the raw time of
  its dispatch decision. -/
  task : Nat := 0
  dests : List Word := []
  cycles : Nat := 0
  issued : Bool := false
  decided : Nat := 0
  deriving DecidableEq, Repr

/-- A token in a core's post buffer: the task that posted it, the destination word and the value. -/
structure Post where
  task : Nat
  dest : Word
  value : Word
  deriving DecidableEq, Repr

/-- A Hem core (R237). -/
structure HemCore where
  bank0 : HemBank := {}
  bank1 : HemBank := {}
  /-- The active bank. -/
  active : Bool := false
  running : Bool := false
  /-- The other bank holds a preempted task (R261). -/
  held : Bool := false
  /-- The other bank holds a dispatched task that waits for its instruction boundary. -/
  prepared : Bool := false
  posts : List Post := []
  /-- Tasks that have ended and whose posts have not all left (R259). -/
  ended : List Nat := []
  loaded : Bool := false
  /-- The core reads offline (R267). -/
  offline : Bool := true
  prog : Table Word := []
  data : Table Byte := []
  /-- Word addresses with a double-bit error, in program and data memory (R242). -/
  badProg : List Nat := []
  badData : List Nat := []
  /-- Word addresses with a single-bit error. -/
  softProg : List Nat := []
  softData : List Nat := []
  /-- Clock-gated between bursts (R34). -/
  gated : Bool := false
  deriving DecidableEq, Repr

/-- A patch between its commit and its write (R268). -/
structure Patch where
  mask : Nat
  dst : Nat
  bytes : List Byte
  /-- The latch instant after the commit has come: dispatch is held. -/
  latched : Bool
  deriving DecidableEq, Repr

/-- The Hem cluster beyond its registers. -/
structure Hem where
  cores : Table HemCore := []
  patch : Option Patch := none
  deriving DecidableEq, Repr

/-- What a lane keeps of an axis (R198). -/
structure LoopAxis where
  ipos : Word := 0
  ivel : Word := 0
  /-- Biquad states s1 and s2 of vf0, vf1, tb0-tb3, key 2 * biquad + state. -/
  bq : Table Word := []
  satPrev : Int := 0
  vsatPrev : Int := 0
  /-- The entries for the last two latch instants, newest first: set-point and enable. -/
  hist : List SetPoint := []
  /-- fb_x of the previous sample, the last fresh position and velocity difference (48.16 and counts). -/
  fbPrev : Option Int := none
  fbFresh : Int := 0
  vFresh : Word := 0
  vLast : Word := 0
  /-- An expiry stands: the next fresh input restarts the difference. -/
  restart : Bool := true
  expired : Nat := 0
  veCount : Nat := 0
  stallCount : Nat := 0
  feTrip : Bool := false
  veTrip : Bool := false
  stallTrip : Bool := false
  busV : Option Word := none
  load : Option Word := none
  /-- The axis had enable 1 in its previous sample. -/
  wasOn : Bool := false
  e : Word := 0
  vref : Word := 0
  vmeas : Word := 0
  tcmd : Word := 0
  cur : Word := 0
  flags : Nat := 0
  /-- A sample waits for its Hem result: its record, c_bus and limits. -/
  hem : Option (OutRec × Word × Word × Word) := none
  deriving DecidableEq, Repr

/-- The pending operation of a lane (R227): 0 commit, 1 load, 2 swap, 3 the copy after a swap. -/
structure LaneOp where
  kind : Nat
  axis : Nat
  clear : Bool
  copyBack : Bool
  deriving DecidableEq, Repr

/-- A running injector (R231): cycles run and the PRBS register. -/
structure Injector where
  k : Nat := 0
  start : Word := 0
  s : Nat := 0
  value : Word := 0
  deriving DecidableEq, Repr

/-- The loop engine beyond its registers. -/
structure Loop where
  axes : Table LoopAxis := []
  /-- Coefficient words of bank 0 and bank 1, key 128 * axis + word. -/
  bank0 : Table Word := []
  bank1 : Table Word := []
  /-- Axes whose active bank is bank 1. -/
  active1 : List Nat := []
  ops : Table (Option LaneOp) := []
  /-- Axes whose bank swap the journal holds, stamped and not yet landed (R227, R229). -/
  swapHeld : List Nat := []
  inj : Table Injector := []
  /-- Hem results that have arrived for axes (R211, R276). -/
  results : Table (Option Half) := []
  /-- Axes sampled with enable 1 in this cycle and in the last. -/
  count : Nat := 0
  countLast : Nat := 0
  deriving DecidableEq, Repr

/-- An encoder channel (R302). -/
structure Encoder where
  /-- Live count; its latest changes, each as machine time in ns and the count before it (R336); filtered levels. -/
  count : Int := 0
  trace : List (Int × Int) := []
  a : Bool := false
  b : Bool := false
  /-- The value for feedback: the count captured at the last latch instant, or the last SSI position; its age. -/
  latched : Int := 0
  age : Nat := 7
  /-- Double transitions since the last latch instant. -/
  dts : Nat := 0
  /-- Count at the last index pulse, once a pair has begun; direction of the counts since, and whether they reversed. -/
  index : Option Int := none
  dir : Int := 0
  reversed : Bool := false
  /-- SSI: a transfer runs, latch instants since its start, raw time at which its monoflop time ends. -/
  busy : Bool := false
  since : Nat := 0
  mono : Nat := 0
  /-- The last SSI transfer failed: the cause of the fault stands. -/
  failing : Bool := false
  /-- The active's count, fault and the age of its value, on a standby (R361); the distance to it (R314). -/
  act : Option (Int × Bool × Nat) := none
  ofs : Int := 0
  ofsKnown : Bool := false
  /-- The last three positions for feedback of completed cycles, as a follower takes them (R171). -/
  h1 : Int := 0
  h2 : Int := 0
  h3 : Int := 0
  deriving DecidableEq, Repr

/-- An emulation output (R316): the count given out. -/
structure Emu where
  out : Int := 0
  target : Int := 0
  /-- emu_en has risen: the next latch instant gives the start (R318). -/
  start : Bool := false
  deriving DecidableEq, Repr

/-- A fire or trailing edge scheduled on a pin (R322, R324). -/
structure Fire where
  chan : Nat
  /-- Position in the channel's order. -/
  ord : Nat
  action : Nat
  width : Nat
  time : Int
  id : Word
  xt : Option Nat
  pin : Nat
  deriving DecidableEq, Repr

/-- A compare entry (R328): value, action, direction, fire_if_passed, last, cross-trigger bit, width and identity. -/
structure CmpEntry where
  value : Int
  action : Nat
  dir : Nat
  passed : Bool
  last : Bool
  xt : Option Nat
  width : Nat
  id : Word
  deriving DecidableEq, Repr

/-- A compare channel (R319). -/
structure Compare where
  /-- The entry armed. -/
  entry : Option CmpEntry := none
  armed : Bool := false
  /-- Behind at arm: waits for a crossing in its direction. -/
  behind : Bool := false
  /-- REPEAT: fired, waiting to move back past c - d * hyst; the direction of the fire. -/
  back : Option Int := none
  /-- Not armed before the start of the next interval (R325): the position at which it is armed. -/
  later : Option Int := none
  /-- Last position seen by src 2. -/
  seen : Int := 0
  order : Nat := 0
  deriving DecidableEq, Repr

/-- Feedback and compare beyond the FBC registers. -/
structure Fbc where
  enc : Table Encoder := []
  emu : Table Emu := []
  cmp : Table Compare := []
  fires : List Fire := []
  /-- Trailing edges due. -/
  pulses : List Fire := []
  /-- Pins that the channels command active, and the time of the last edge. -/
  pins : List Nat := []
  lastEdge : Table Int := []
  /-- The level that each CMP_OUT pin drives, none where it is high impedance (R550). -/
  drives : Table (Option Bool) := []
  /-- Actions scheduled in the current cycle and in the one before it (R369): channel, action, time. -/
  scheduled : List (Nat × Nat × Int) := []
  scheduledPrev : List (Nat × Nat × Int) := []
  deriving DecidableEq, Repr

/-- An event for the spools (R340): class, index, signed ns from the latch instant of the cycle in which it became known. -/
structure AcqEvent where
  cls : Nat
  index : Nat
  ns : Int
  /-- The cycle that contains its instant, the ns into that cycle, and the instant in ns of machine time (R336, R341). -/
  n : Word := 0
  ofs : Int := 0
  time : Int := 0
  /-- The counts of the encoder channels at its instant (R336). -/
  counts : List Int := []
  /-- It is dated by the latch instant for want of an exact time (R347). -/
  approx : Bool := false
  /-- A cross-trigger bit that the head set itself in this shuttle (R347). -/
  own : Bool := false
  deriving DecidableEq, Repr

/-- A trigger that has become known and waits for the next sample (R341). -/
structure Trigger where
  /-- The trigger instant in ns of machine time. -/
  time : Int
  forced : Bool := false
  approx : Bool := false
  deriving DecidableEq, Repr

/-- A spool (R334-R346). -/
structure Spool where
  /-- A pending arm or stop (R343). -/
  arm : Bool := false
  stop : Bool := false
  /-- The slot of the record in progress, the samples written into it and those since the arm. -/
  slot : Nat := 0
  written : Nat := 0
  total : Nat := 0
  /-- Unreleased record slots, oldest first. -/
  full : List Nat := []
  /-- The trigger sample's ring index and instant, and the samples still to come. -/
  trig : Option (Nat × Int) := none
  left : Nat := 0
  forced : Bool := false
  approx : Bool := false
  maskFail : Bool := false
  lostRec : Bool := false
  pendingTrig : Option Trigger := none
  /-- The next sample written carries gap (R339). -/
  gap : Bool := false
  /-- Channel values of the previous per-cycle sample since the arm (R340), and the latest per-cycle values (R336). -/
  prev : List Word := []
  latest : List Word := []
  /-- Machine time of the arm in ns; named events since the previous sample (R340); event samples by cycle (R336). -/
  armNs : Int := 0
  unseen : List AcqEvent := []
  taken : Table Nat := []
  /-- Raw time at which the record started (R342). -/
  startRaw : Nat := 0
  /-- Samples in the staging FIFO: archive address and bytes (R339); headers that found it full. -/
  fifo : List (Nat × List Byte) := []
  owed : List (Nat × List Byte) := []
  /-- A dump that waits for its leave: Bolt address, archive address and bytes still to copy (R339, R470). -/
  dump : Option (Nat × Nat × Nat) := none
  /-- The most recent finished record in the Bolt buffer: address and length. -/
  last : Option (Nat × Nat) := none
  deriving DecidableEq, Repr

/-- The acquisition spools. -/
structure Acq where
  spools : Table Spool := []
  /-- Events of the cycle that the samples have taken, and events of cycles gone by that they have not. -/
  seen : Nat := 0
  left : List AcqEvent := []
  /-- What belongs to L(n) (R335): field outputs, compare outputs as commanded and at the pins, encoder counts. -/
  outs : Word := 0
  cmpOuts : Word := 0
  cmpPins : Word := 0
  counts : List Int := []
  deriving DecidableEq, Repr

/-- The island's end of a Selvedge connection (R400-R408), beyond SAFE_CONNc_STATE. -/
structure SafeConn where
  /-- The parameter set names the connection. -/
  named : Bool := false
  ident : Nat := 0
  /-- Watchdog time in ms. -/
  watchdog : Nat := 6
  window : Nat := 1
  crcMax : Nat := 3
  ackMode : Nat := 0
  source : Nat := 0
  peerIp : Nat := 0
  peerPort : Nat := 51000
  /-- Safe channels m of the worker (R410): the most that the set and the PDUs taken have shown. -/
  channels : Nat := 1
  /-- The last accepted PDU, its 16 bytes. -/
  pdu : List Byte := []
  /-- A sequence base stands, consecutive in-order PDUs accepted, and whether one of them had restart clear. -/
  based : Bool := false
  lastSeq : Nat := 0
  streak : Nat := 0
  restartClear : Bool := false
  /-- Raw time at which the watchdog last restarted, once it runs. -/
  wdRaw : Option Nat := none
  /-- Raw times of discarded CRC failures. -/
  crcRaws : List Nat := []
  /-- A PDU accepted since the last safety cycle. -/
  newPdu : Bool := false
  /-- Data and flags that the last safety cycle took (R396). -/
  data : Nat := 0
  flags : Nat := 0
  /-- The PDU sent now. -/
  tx : List Byte := []
  /-- Datagrams discarded as old or duplicate (R402). -/
  old : Nat := 0
  /-- Journaled PDUs that wait for the first safety cycle at or after their cycle (R422). -/
  journaled : List (List Byte) := []
  /-- Out of service by a cell disable (R459). -/
  off : Bool := false
  deriving DecidableEq, Repr

/-- A safe axis (R411-R415, R419): parameters of R496 tags 3 and 4, then its run state. -/
structure SafeAxis where
  conn : Nat := 0
  chan : Nat := 0
  /-- 0 STO, 1 SS1. -/
  react : Nat := 0
  ack : Nat := 0
  xTol : Nat := 0
  xNum : Nat := 1
  xDen : Nat := 1
  xN : Nat := 3
  sbc : Bool := false
  /-- The brake: 0 the worker's channel, else a field output plus 1. -/
  brakeOut : Nat := 0
  stoAfter : Nat := 0
  ramp : Bool := true
  ss1Time : Nat := 1000
  ss1Dec : Word := 0
  ss1Tol : Word := 0
  sosWin : Nat := 100
  sosVel : Word := 0
  sls : List Word := []
  /-- SDI permits motion to the negative side only. -/
  sdiNeg : Bool := false
  sdiTol : Nat := 100
  slpMin : Int := 0
  slpMax : Int := 0
  /-- Last two positions, safety cycles between them, cycles since the last. -/
  pos : Int := 0
  prev : Int := 0
  got : Nat := 0
  gap : Nat := 1
  age : Nat := 0
  faulted : Bool := false
  /-- Functions demanded: bits in the order of R412. -/
  demands : Nat := 0
  /-- Latched reaction, with the number of the function violated. -/
  latched : Bool := false
  violated : Nat := 0
  /-- SS1 or SS2 in progress: raw time and speed at entry; a ramp violation or the end has come. -/
  ss1 : Option (Nat × Long) := none
  ssDone : Bool := false
  sosRef : Option Int := none
  sdiRef : Option Int := none
  brake : Bool := true
  /-- Raw time at which the brake was applied while en[k] has not fallen. -/
  brakeRaw : Option Nat := none
  sto : Bool := true
  /-- Offset captured by the cross-check, and mismatching cycles. -/
  xOfs : Option Int := none
  xBad : Nat := 0
  /-- An STO request of the head (R464) or a failed brake stands. -/
  forced : Bool := false
  deriving DecidableEq, Repr

/-- A demand term (R411): its source, the discrepancy time in ms, the functions it demands. -/
structure DemandTerm where
  source : Nat := 0
  disc : Nat := 100
  funcs : List Nat := []
  present : Bool := true
  /-- Raw time since which the two channels disagree. -/
  differ : Option Nat := none
  held : Bool := false
  deriving DecidableEq, Repr

/-- A laser-off group (R416). -/
structure SloGroup where
  outs : List Nat := []
  fbs : List Nat := []
  fbTime : Nat := 50
  demand : Nat := 0
  ack : Nat := 0
  axes : List Nat := []
  /-- The outputs are off; raw time at which they went off; acknowledged since. -/
  isOff : Bool := true
  offRaw : Nat := 0
  acked : Bool := true
  latched : Bool := false
  /-- Every feedback term has shown the safe state since the outputs went off. -/
  shown : Bool := false
  deriving DecidableEq, Repr

/-- A safe field output (R417, R418). -/
structure SafeOut where
  edm : Option Nat := none
  edmTime : Nat := 300
  pulseW : Nat := 300
  pulsePeriod : Nat := 1000
  on : Bool := false
  latched : Bool := false
  /-- Raw time of the last switching whose feedback has not been checked. -/
  switched : Option Nat := none
  pulsing : Bool := false
  /-- Raw time at which the output went on or its last test pulse began. -/
  pulseRaw : Nat := 0
  deriving DecidableEq, Repr

/-- The safety island beyond the SAFE registers. -/
structure Safe where
  conns : Table SafeConn := []
  axes : Table SafeAxis := []
  terms : List DemandTerm := []
  groups : Table SloGroup := []
  outs : Table SafeOut := []
  /-- Safe inputs with their FIO fields (R440), as words in the layout of FIO_INi_CFG. -/
  ins : Table Word := []
  /-- Levels of acknowledgement sources at the last safety cycle. -/
  ackPrev : List Nat := []
  /-- Safety cycle S in µs. -/
  period : Nat := 1000
  /-- Raw time and cycle count of start(j); the output instant and O(j) are still due. -/
  startRaw : Nat := 0
  startCount : Word := 0
  /-- Nanoseconds from start(j) to the last latch instant (R395); the self-test has ended (R394); a safety cycle has started. -/
  since : Nat := 0
  tested : Bool := false
  cycled : Bool := false
  outDue : Bool := false
  pduDue : Bool := false
  /-- PDUs are replaced by zeros (R424); shuttles launched since. -/
  zeroed : Bool := false
  zeroShuttles : Nat := 0
  deriving DecidableEq, Repr

/-- A downlink frame (R431): output states, safe command, test pulses, resume. -/
structure Downlink where
  outs : Nat := 0
  safe : Bool := true
  pulses : Nat := 0
  resume : Bool := false
  deriving DecidableEq, Repr

/-- An uplink frame of the field-I/O die (R431, R432): filtered and raw input states, the edges since the frame before with their
offsets in µs before the sample instant, wire-break flags, inputs that failed and that passed a test pulse, and
the sample instant in machine time. -/
structure Uplink where
  inputs : Word := 0
  raw : Word := 0
  edges : List (Nat × Bool × Nat) := []
  broken : Word := 0
  failed : Word := 0
  passed : Word := 0
  sampled : Nat := 0
  deriving DecidableEq, Repr

/-- An input of the die (R436, R438, R439). Classes: 0 open, 1 closed, 2 broken. -/
structure DieInput where
  /-- The filtered class, that of the latest sample, and how many samples in a row have given a class other than the filtered one. -/
  cls : Nat := 0
  latest : Nat := 0
  run : Nat := 0
  /-- The raw level has been 1 in the checked part of the running test pulse. -/
  bad : Bool := false
  deriving DecidableEq, Repr

/-- The inputs of the field-I/O die: ticks of 1 µs since it started, its inputs, the test pulses by output (tick of the start and of the
end), the edges not yet reported (input, rising, tick) and the results of test pulses not yet reported. -/
structure Die where
  tick : Nat := 0
  pins : Table DieInput := []
  pulses : Table (Nat × Option Nat) := []
  edges : List (Nat × Bool × Nat) := []
  failed : Word := 0
  passed : Word := 0
  deriving DecidableEq, Repr

/-- The field-I/O die and its link beyond the FIO registers. -/
structure Fio where
  /-- The filtered states of the latest valid uplink, and its sample instant in machine time. -/
  inputs : Word := 0
  sampled : Nat := 0
  /-- Raw time since which the link is valid. -/
  validRaw : Option Nat := none
  /-- Inputs that a failed test pulse holds at 0 (R439). -/
  blocked : Word := 0
  /-- The resume flag of the next downlink frames. -/
  resume : Bool := false
  /-- The FIO_OUT in force for the next latch instant (R441) and the standard states commanded at the last one. -/
  outForce : Nat := 0
  standard : Nat := 0
  /-- Safe outputs that the island commands on, and outputs under test pulse. -/
  safeOn : Nat := 0
  pulses : Nat := 0
  /-- The frame launched, until the die takes it; the answer is awaited. -/
  down : Option Downlink := none
  await : Bool := false
  /-- The die: last frame taken, watchdog tripped (as out of reset) and to be reported, raw time of the last valid frame,
  outputs latched off, states held at entry of the safe state, states applied. -/
  die : Downlink := {}
  tripped : Bool := true
  report : Bool := false
  downRaw : Nat := 0
  latched : Nat := 0
  hold : Nat := 0
  applied : Nat := 0
  /-- The trip is known to the control die. -/
  known : Bool := true
  /-- VDD_FIO has fallen: every output is off until resume (R552). -/
  dead : Bool := false
  /-- The inputs of the die, and the uplink frame on its way. -/
  ins : Die := {}
  up : Option Uplink := none
  /-- Raw time of the last downlink frame (R431), of each overload (R443), of the last change of each commanded state, and since which the
  readback of an output has differed (R444). -/
  sentRaw : Option Nat := none
  latchRaw : Table Nat := []
  changedRaw : Table Nat := []
  differs : Table Nat := []
  deriving DecidableEq, Repr

/-- A running homing sequence (R495): the step at hand, whether its command has been given, the raw time since, and the level of
its field input at the last latch instant. -/
structure Homing where
  step : Nat := 0
  issued : Bool := false
  since : Nat := 0
  prev : Bool := false
  deriving DecidableEq, Repr

/-- A pending protection request (R507). -/
structure ProtReq where
  kind : Nat
  object : BitVec 256
  digest : BitVec 256
  raw : Nat
  expiry : Nat
  deriving DecidableEq, Repr

/-- Start-up, update and protection beyond the SEC registers. The fuses come first (R511). -/
structure Sec where
  fuseSerial : Long := 0
  ownerRoot : BitVec 256 := 0
  imageKey : BitVec 256 := 0
  epochs : List Nat := [0, 0, 0, 0, 0, 0]
  fuseFactory : Bool := false
  fuseLock : Bool := false
  fuseSecure : Bool := false
  /-- Capacity of the configuration store in bytes (R487). -/
  capacity : Nat := 0x4000000
  /-- BOOTSEL0-1 as sampled at reset release. -/
  bootSel : Nat := 0
  /-- FPM_CAUSE and whether chip safe state was in force at the assertion; a supply fell, so that the reset is a power-on reset. -/
  assertCause : Word := 0
  assertSafe : Bool := false
  powerFell : Bool := false
  /-- VDD_AON was lost, and the retention store with it (R194). -/
  retLost : Bool := false
  /-- Axes whose newer copy in the retention store is the second (R192). -/
  retCopy : List Nat := []
  /-- Seconds of CK_AON at the release. -/
  aonS : Nat := 0
  /-- The head has entered IDLE, or FOLLOW, since its boot. -/
  idled : Bool := false
  /-- nRESET is held: the head stands in reset. -/
  inReset : Bool := false
  /-- The assertion has lasted more than 30 s. -/
  longReset : Bool := false
  /-- Staging: the manifest under way and the blocks received (part, block). -/
  manifest : List Byte := []
  blocks : List (Nat × Nat) := []
  /-- Activation announced for a cycle; positions that answered ACTIVATE; classes refused. -/
  actCycle : Option Word := none
  answered : List Nat := []
  asked : List Nat := []
  /-- The activation is announced by the twin. -/
  follow : Bool := false
  /-- Descriptors are written: the reset follows at L(a). -/
  ready : Bool := false
  /-- Health window: raw time of its start and its length in s. -/
  healthRaw : Option Nat := none
  healthS : Nat := 120
  hostConfirmed : Bool := false
  readBack : Bool := true
  /-- Worker positions whose FW_STATUS shows the trial's image. -/
  workersOk : List Nat := []
  /-- CONFIRM still to be answered by these positions. -/
  confirming : List Nat := []
  prot : Option ProtReq := none
  /-- The key area in force, read at boot (R506, R508). -/
  keys : List Byte := []
  /-- The object hash that a confirmed request names, with its type, until the object arrives or the activation ends. -/
  agreed : Option (Nat × BitVec 256) := none
  nonceValid : Bool := false
  /-- SHA-256 of the safety parameter set in force. -/
  paramHash : BitVec 256 := 0
  /-- Local confirmation: field input, hold time in s; raw time since which it is high. -/
  localInput : Option (Nat × Nat) := none
  localSince : Option Nat := none
  /-- Debug: raw time at which the session ends, level 1 locked. -/
  debugEnd : Nat := 0
  lockout : Bool := false
  /-- Homing sequences by axis, and those that run. -/
  homing : Table (List Byte) := []
  running : List (Nat × Homing) := []
  /-- The set is accepted and applied. -/
  applied : Bool := false
  deriving DecidableEq, Repr

/-- The memories, sparse by byte address: Bolt and archive memory by their chip address, the retention store and the
configuration store by offset. -/
structure Mem where
  bolt : Table Byte := []
  arch : Table Byte := []
  ret : Table Byte := []
  nvm : Table Byte := []
  deriving DecidableEq, Repr

/-- The engine state that a snapshot of a resynchronization carries (R381, R382): registers and their active copies, the engines' state,
the full mailboxes with receiver 0x40, compare channels and spools. -/
structure Engine where
  regs : Table Word := []
  act : Table Word := []
  prof : Prof := {}
  loop : Loop := {}
  hem : Hem := {}
  sched : Sched := {}
  full : List Nat := []
  cmp : Table Compare := []
  fires : List Fire := []
  pulses : List Fire := []
  pins : List Nat := []
  acq : Acq := {}
  deriving DecidableEq, Repr

end Sys2Proof.Machine

namespace Sys2Proof.Config

/-- The bytes of a snapshot, whose layout the spec does not give; and the engine state that a standby has once it has loaded a snapshot
and replayed what it kept of the cycles since (R381; DESIGN CHOICE, log entry 51). -/
opaque snapshotBytes : Machine.Engine → List Byte
opaque snapshotEngine (snapshot : List Byte) (kept : List (List Byte)) : Option Machine.Engine

end Sys2Proof.Config

namespace Sys2Proof.Machine

/-- The state of the head. -/
structure State where
  /-- The commands that wait, first in, first out. -/
  pending : List Instr := []
  /-- The raw counter: nanoseconds of CK_TIME since reset release (R129). -/
  raw : Nat := 0
  mem : Mem := {}
  /-- Every register by chip address; staged copies of baste fields. -/
  regs : Table Word := []
  /-- Active copies of baste fields by the address of their staged register (R39). -/
  act : Table Word := []
  bus : Bus := {}
  out : List Out := []
  cyc : Cycle := {}
  time : Timekeeping := {}
  flt : Faults := {}
  pwr : Power := {}
  ring : RingState := {}
  prof : Prof := {}
  sched : Sched := {}
  mbx : Mbx := {}
  twin : Twin := {}
  host : HostIf := {}
  hem : Hem := {}
  loop : Loop := {}
  fbc : Fbc := {}
  acq : Acq := {}
  safe : Safe := {}
  fio : Fio := {}
  sec : Sec := {}
  /-- The partition of each Bolt bank (R19, R495): 0 segment queues, 1 spools, 2 compare tables, 3 firmware data and host
  buffers, 4 Hem staging and injection tables, 5 journal and resynchronization, 255 unused. -/
  part : List Nat := List.replicate 48 0 ++ List.replicate 24 1 ++ List.replicate 8 2 ++ List.replicate 8 3 ++
    List.replicate 4 4 ++ List.replicate 4 5
  /-- Events of the current cycle and of the one before it (R336, R355). -/
  evts : List AcqEvent := []
  evtsPrev : List AcqEvent := []
  /-- The model's own counter of free values drawn (DESIGN CHOICE, log entry 5). -/
  free : Nat := 0
  deriving DecidableEq, Repr

/-- The machine right after reset release, before the boot has loaded anything: every field at its default above. Where the spec
gives no reset value the default is the model's (DESIGN CHOICE, log entry 9). -/
def State.reset : State := {}

end Sys2Proof.Machine
end

