-- ==== Sys2Proof/Machine/Ops.lean ====
section
/-! DEFINITION. The named operations that every block uses: tables, the register file, baste groups, memories, free values,
machine time, events with the escalation ladder, and the maintenance token. -/

namespace Sys2Proof.Machine

/-! ### Tables -/

/-- What a table holds under a key; d says what an unlisted key reads as. -/
def tget {α : Type} (d : Nat → α) : Table α → Nat → α
  | [], k => d k
  | (a, x) :: r, k => if a == k then x else tget d r k

/-- A table without a key. -/
def tdel {α : Type} (t : Table α) (k : Nat) : Table α := t.filter fun e => e.1 != k

/-- A table with an entry put before the first larger key. -/
def tins {α : Type} : Table α → Nat → α → Table α
  | [], k, v => [(k, v)]
  | (a, x) :: r, k, v => if a < k then (a, x) :: tins r k v else (k, v) :: (a, x) :: r

/-- Put a value under a key, keeping the keys rising and listing nothing that an unlisted key reads as. -/
def tput {α : Type} [DecidableEq α] (d : Nat → α) (t : Table α) (k : Nat) (v : α) : Table α :=
  if v = d k then tdel t k else tins (tdel t k) k v

/-- The canonical form of a table: keys strictly rising from a bound, no entry equal to its default. -/
def twf {α : Type} [DecidableEq α] (d : Nat → α) : Nat → Table α → Bool
  | _, [] => true
  | lo, (a, x) :: r => decide (lo ≤ a) && decide (x ≠ d a) && twf d (a + 1) r

/-- Change the value under a key. -/
def tmod {α : Type} [DecidableEq α] (d : Nat → α) (t : Table α) (k : Nat) (f : α → α) : Table α :=
  tput d t k (f (tget d t k))

/-! ### Registers -/

/-- The bits hi:lo of a word. -/
def wbits (w : Word) (hi lo : Nat) : Nat := bits w.toNat hi lo

/-- Bit i of a word. -/
def wbit (w : Word) (i : Nat) : Bool := bit w.toNat i

/-- A word with its bits hi:lo replaced. -/
def wset (w : Word) (hi lo v : Nat) : Word :=
  BitVec.ofNat 32 (w.toNat - wbits w hi lo * 2 ^ lo + v % 2 ^ (hi + 1 - lo) * 2 ^ lo)

/-- A number as a word. -/
def word (n : Nat) : Word := BitVec.ofNat 32 n

/-- The stored value of the register at a chip address. (DESIGN CHOICE, log entry 10) -/
def rd (s : State) (a : Nat) : Word := tget resetOf s.regs a

/-- Store a register's value. (DESIGN CHOICE, log entry 10) -/
def wr (s : State) (a : Nat) (v : Word) : State := { s with regs := tput resetOf s.regs a v }

/-- The field hi:lo of a register. -/
def fld (s : State) (a hi lo : Nat) : Nat := wbits (rd s a) hi lo

/-- A one-bit field of a register. -/
def fbit (s : State) (a i : Nat) : Bool := wbit (rd s a) i

/-- Set the field hi:lo of a register. -/
def setF (s : State) (a hi lo v : Nat) : State := wr s a (wset (rd s a) hi lo v)

/-- Set a one-bit field of a register. -/
def setBit (s : State) (a i : Nat) (b : Bool) : State := setF s a i i (flag b)

/-- Count up a counter field, saturating at all ones (R568). -/
def bumpF (s : State) (a hi lo : Nat) (n : Nat := 1) : State :=
  setF s a hi lo (min (fld s a hi lo + n) (2 ^ (hi + 1 - lo) - 1))

/-- Count up a counter register, saturating at all ones (R568). -/
def bump (s : State) (a : Nat) (n : Nat := 1) : State := bumpF s a 31 0 n

/-- The active copy of a baste field's register (R39). (DESIGN CHOICE, log entry 10) -/
def actv (s : State) (a : Nat) : Word := tget resetOf s.act a

/-- The field hi:lo of an active copy. -/
def actF (s : State) (a hi lo : Nat) : Nat := wbits (actv s a) hi lo

/-- Set an active copy. -/
def setAct (s : State) (a : Nat) (v : Word) : State := { s with act := tput resetOf s.act a v }

/-- Apply the staged copies of a list of registers at once (R40). -/
def applyBaste (s : State) (as : List Nat) : State := as.foldl (fun s a => setAct s a (rd s a)) s

/-- A 64-bit value in two registers, low word first. -/
def rd64 (s : State) (a : Nat) : Nat := (rd s a).toNat + (rd s (a + 4)).toNat * 2 ^ 32

/-- Store a 64-bit value in two registers, low word first. -/
def wr64 (s : State) (a : Nat) (v : Nat) : State := wr (wr s a (word v)) (a + 4) (word (v / 2 ^ 32))

/-! ### Responses, outputs and free values -/

/-- The access is answered without error. -/
def okBus (s : State) (data : Word := 0) : State := { s with bus := { err := false, data := data } }

/-- The access is answered with SLVERR, or Completer Abort on PCIe. (DEDUCED, log entry 16) -/
def slverr (s : State) : State := { s with bus := { err := true, data := 0 } }

/-- Give something out. (DESIGN CHOICE, log entry 3) -/
def emit (s : State) (o : Out) : State := { s with out := s.out ++ [o] }

/-- A fresh free value of w bits: whatever Config.free gives for the next number. (DESIGN CHOICE, log entry 5) -/
def freeVal (w : Nat) (s : State) : BitVec w := Config.free w s.free

/-- Count a free value as drawn. (DESIGN CHOICE, log entry 5) -/
def drawn (s : State) : State := { s with free := s.free + 1 }

/-! ### Memories -/

/-- What an unlisted byte of a memory reads as (DESIGN CHOICE, log entry 2). -/
def memDefault (_ : Nat) : Byte := 0

/-- The bytes of Bolt, archive memory (chip addresses), and of the stores (offsets). -/
inductive Region where
  | bolt | arch | ret | nvm
  deriving DecidableEq, Repr

/-- What an unlisted byte of a region reads as (DESIGN CHOICE, log entry 2): an erased byte of the configuration store reads 0xFF (R488). -/
def regionDefault : Region → Nat → Byte
  | .nvm => fun _ => 0xFF
  | _ => memDefault

/-- The table of a region. -/
def Mem.table (m : Mem) : Region → Table Byte
  | .bolt => m.bolt
  | .arch => m.arch
  | .ret => m.ret
  | .nvm => m.nvm

/-- A memory with the table of one region replaced. -/
def Mem.setTable (m : Mem) (r : Region) (t : Table Byte) : Mem :=
  match r with
  | .bolt => { m with bolt := t }
  | .arch => { m with arch := t }
  | .ret => { m with ret := t }
  | .nvm => { m with nvm := t }

/-- Read one byte. -/
def Mem.read (m : Mem) (r : Region) (a : Nat) : Byte := tget (regionDefault r) (m.table r) a

/-- Write one byte. -/
def Mem.write (m : Mem) (r : Region) (a : Nat) (b : Byte) : Mem := m.setTable r (tput (regionDefault r) (m.table r) a b)

/-- Write bytes at rising addresses. -/
def Mem.writes (m : Mem) (r : Region) : Nat → List Byte → Mem
  | _, [] => m
  | a, b :: bs => Mem.writes (m.write r a b) r (a + 1) bs

/-- Erase n bytes from an address: none of them is listed any more. -/
def Mem.erase (m : Mem) (r : Region) (a n : Nat) : Mem := m.setTable r ((m.table r).filter fun e => !(a ≤ e.1 && e.1 < a + n))

/-- Read n bytes at rising addresses. -/
def Mem.reads (m : Mem) (r : Region) (a : Nat) : Nat → List Byte
  | 0 => []
  | n + 1 => m.read r a :: Mem.reads m r (a + 1) n

/-- The canonical form of every memory. -/
def Mem.wf (m : Mem) : Bool :=
  twf memDefault 0 m.bolt && twf memDefault 0 m.arch && twf memDefault 0 m.ret && twf (regionDefault .nvm) 0 m.nvm

/-- Bytes of a memory of the state. -/
def readMem (s : State) (r : Region) (a n : Nat) : List Byte := s.mem.reads r a n

/-- Store bytes into a memory of the state. -/
def writeMem (s : State) (r : Region) (a : Nat) (bs : List Byte) : State :=
  { s with mem := s.mem.writes r a bs }

/-- The first address past Bolt (R48). -/
def boltEnd : Nat := 0x06000000

/-! ### Machine time -/

/-- Units of machine time per nanosecond. -/
def nsU : Nat := 65536

/-- Units of machine time per second. -/
def secU : Nat := 1000000000 * 65536

/-- The reading of a calculator at a raw value (R129). -/
def Calc.read (c : Calc) (x : Nat) : Nat :=
  let d : Int := (x : Int) - c.baseRaw
  (c.base + d * 65536 + Int.fdiv (d * c.rate) 65536).toNat

/-- A domain counter (R138). -/
def domc (s : State) (k : Nat) : Calc := tget (fun _ => {}) s.time.dom k

/-- Store a domain counter. -/
def setDom (s : State) (k : Nat) (c : Calc) : State :=
  { s with time := { s.time with dom := tput (fun _ => {}) s.time.dom k c } }

/-- Machine time as every reader sees it (R130, R139), in units of 2^-16 ns. -/
def mtime (s : State) : Nat :=
  if s.time.switched then (domc s 0).read s.raw else s.time.main.read s.raw

/-- Seconds, nanoseconds and fraction of a machine time. -/
def secOf (t : Nat) : Nat := t / secU
def nsOf (t : Nat) : Nat := t / nsU % 1000000000
def fracOf (t : Nat) : Nat := t % nsU

/-- The length of the cycle in force, in ns. -/
def cycleNs (s : State) : Nat := s.cyc.steps * 125

/-- A cycle lies after another (R21). -/
def after (a b : Word) : Bool :=
  let d := (a - b).toNat
  1 ≤ d && d < 2 ^ 31

/-- The twin state: the field of TWIN_STATE. -/
def twinSt (s : State) : Nat := fld s Reg.TWIN_STATE 2 0

/-- Readers of head-local inputs take them from the active (R361): a standby, an unfit head, and a former standby in SPLIT. -/
def mirrors (s : State) : Bool := (2 ≤ twinSt s && twinSt s ≤ 4) || (twinSt s == 5 && s.twin.formerStandby)

/-- The field inputs that the motion pipeline reads (R361, R432): field_in of CYCLE_A on a standby. -/
def motionInputs (s : State) : Word := if mirrors s then s.twin.fieldIn else rd s Reg.FIO_IN_STATE

/-- L(n) in whole ns. -/
def latchNs (s : State) : Int := (s.cyc.latch / nsU : Nat)

/-- No time has passed since the last latch instant. -/
def onInstant (s : State) : Bool := s.raw == s.cyc.instant

/-- The count of a channel at an instant: the count before its first change after it, at the distance that a standby or former standby
keeps (R314, R336). -/
def Encoder.countAt (x : Encoder) (t : Int) : Int :=
  x.ofs + match x.trace.find? fun e => t < e.1 with | some e => e.2 | none => x.count

/-- An event of the spools known at some ns from L(n) = L. Earlier cycles are taken as long as the one gone by (R336). -/
def mkEvent (s : State) (cls index : Nat) (n : Word) (L ns : Int) (approx : Bool) : AcqEvent :=
  let p : Int := s.cyc.past * 125
  let k : Int := if 0 ≤ ns || p ≤ 0 then 0 else -(Int.fdiv ns p)
  { cls := cls
    index := index
    ns := ns
    n := n - word k.toNat
    ofs := ns + k * p
    time := L + ns
    counts := (List.range 8).map fun c => (tget (fun _ => {}) s.fbc.enc c : Encoder).countAt (L + ns)
    approx := approx
    own := cls == 2 && bit s.ring.xtLaunched.toNat index }

/-- An event known at some ns from the last latch instant. -/
def noteFrom (s : State) (cls index : Nat) (ns : Int) (approx : Bool := false) : State :=
  { s with evts := s.evts ++ [mkEvent s cls index s.cyc.count (latchNs s) ns approx] }

/-- Note an event for the spools (R336, R340) at some ns from the last latch instant; a standby takes local events from
CYCLE_A instead (R361). -/
def noteAt (s : State) (cls index : Nat) (ns : Int) (approx : Bool := false) : State :=
  if mirrors s && [1, 3, 4, 5].contains cls then s else noteFrom s cls index ns approx

/-- Note an event that happens now. -/
def note (s : State) (cls index : Nat) : State := noteAt s cls index (((mtime s : Int) - s.cyc.latch) / 65536)

/-! ### Axes -/

/-- The context of an axis. -/
def axis (s : State) (a : Nat) : Axis := tget (fun _ => {}) s.prof.axes a

/-- Store the context of an axis. -/
def setAxis (s : State) (a : Nat) (x : Axis) : State :=
  { s with prof := { s.prof with axes := tput (fun _ => {}) s.prof.axes a x } }

/-- Whether an axis is enabled: any mode but DISABLED (R155, R158). -/
def enabled (s : State) (a : Nat) : Bool := (axis s a).mode != 0

/-- The enabled axes, ascending. -/
def enabledAxes (s : State) : List Nat := (s.prof.axes.filter fun e => e.2.mode != 0).map (·.1)

/-- Whether any axis is enabled. -/
def anyEnabled (s : State) : Bool := s.prof.axes.any fun e => e.2.mode != 0

/-- The loop lanes and Hem cores are clocked: they are gated between bursts only while an axis is enabled (R34). A lane is ready from its
wake on (DESIGN CHOICE, log entry 98). -/
def lanesReady (s : State) : Bool := s.cyc.lanesAwake || !anyEnabled s

/-- Ask the profile engine for a stop or a disable at the next latch instant. -/
def request (s : State) (r : StopReq) : State :=
  { s with prof := { s.prof with requests := s.prof.requests ++ [r] } }

/-- The ring state of this head (R93): the field of RING_STATE. -/
def ringSt (s : State) : Nat := fld s Reg.RING_STATE 2 0

/-- This head leads the ring: INTEGRATE, IDLE or RUN. -/
def leads (s : State) : Bool := 4 ≤ ringSt s && ringSt s ≤ 6

/-- The chip is in chip safe state (R465). -/
def chipSafe (s : State) : Bool := fbit s Reg.FPM_STATUS 1

/-! ### Blocks and events -/

/-- Block numbers: bits 27:20 of the chip address. -/
def SYS := 0
def RING := 1
def TIME := 2
def PROF := 3
def LOOP := 4
def HEM := 5
def SCHED := 6
def MBX := 7
def FBC := 8
def ACQ := 9
def TWIN := 10
def SAFE := 11
def FIO := 12
def FPM := 13
def SEC := 14
def HOST := 15

/-- The detectors that a block under reset masks in the blocks it feeds (R463): block and event numbers. -/
def maskedBy : Nat → List (Nat × Nat)
  | 1 => [(4, 1), (4, 0), (10, 2), (10, 1), (9, 1)]
  | 2 => [(1, 7), (8, 5), (9, 0)]
  | 3 => [(4, 4), (4, 5), (4, 7)]
  | 4 => [(5, 0), (4, 2), (6, 1), (9, 2)]
  | 5 => [(4, 2), (4, 0), (6, 0)]
  | 8 => [(4, 1), (3, 2), (3, 10)]
  | 6 => [(5, 0), (7, 1)]
  | _ => []

/-- The block whose quiesce masks an event, if one does. -/
def masker (s : State) (blk ev : Nat) : Option Nat :=
  s.flt.quiesce.find? fun q => (maskedBy q).contains (blk, ev)

/-- The severity of an event (R457). -/
def severity (s : State) (blk ev : Nat) : Nat :=
  if ev < 16 then fld s (Reg.FLT_SEV_LO blk) (2 * ev + 1) (2 * ev)
  else fld s (Reg.FLT_SEV_HI blk) (2 * (ev - 16) + 1) (2 * (ev - 16))

/-- The grace time of a block in ns (R460). -/
def graceNs (s : State) (blk : Nat) : Nat := fld s (Reg.FLT_CFG blk) 9 0 * 10000

/-- The history queue of a block, newest first. -/
def history (s : State) (blk : Nat) : List HistEntry := tget (fun _ => []) s.flt.hist blk

/-- The header of a command-protocol message (R514). -/
def msgHeader (kind opcode flow len : Nat) (seq : Word) (status res : Nat) : List Byte :=
  [0x10, BitVec.ofNat 8 kind] ++ leBytes 2 opcode ++ leBytes 2 flow ++ leBytes 2 len ++ leBytes 4 seq.toNat ++
    leBytes 2 status ++ leBytes 2 res

/-- The bytes of a history entry in the layout of R477. -/
def HistEntry.bytes (h : HistEntry) : List Byte :=
  leBytes 4 h.w0.toNat ++ leBytes 4 h.w1.toNat ++ leBytes 4 h.w2.toNat ++ leBytes 4 h.w3.toNat

/-- The ring record of a completion ring, or of the event ring under key 8. -/
def ringOf (s : State) (r : Nat) : Ring := tget (fun _ => {}) s.host.rings r

/-- Store a ring record. -/
def setRing (s : State) (r : Nat) (x : Ring) : State :=
  { s with host := { s.host with rings := tput (fun _ => {}) s.host.rings r x } }

/-- Signal an entry on the vector of a ring, with coalescing (R537): ctrl is the ring's control register. -/
def signalRing (s : State) (r : Nat) (ctrl : Nat) : State :=
  let x := ringOf s r
  let n := x.count + 1
  let cnt := fld s ctrl 15 8
  let us := fld s ctrl 31 16
  let t := setRing s r { x with count := n, firstRaw := if x.count == 0 then s.raw else x.firstRaw }
  if !fbit s ctrl 1 then t
  else if (cnt == 0 && us == 0) || (cnt != 0 && cnt ≤ n) then setRing (emit t (.msix r)) r { x with count := 0 }
  else t

/-- Put an event message into the event ring (R536), whose log2 of entries is taken as in 4-12 (DESIGN CHOICE, log entry 65); false when
the ring cannot take it. -/
def eventRing (s : State) (msg : List Byte) : Bool × State :=
  let size := 2 ^ min 12 (max 4 (fld s Reg.HOST_EVQ_SIZE 3 0))
  let tail := fld s Reg.HOST_EVQ_TAIL 11 0
  let next := (tail + 1) % size
  if !fbit s Reg.HOST_EVQ_CTRL 0 || next == fld s Reg.HOST_EVQ_HEAD 11 0 then (false, s)
  else
    let x := ringOf s 8
    let m := padTo 64 (patch msg 14 [BitVec.ofNat 8 (flag x.phase)])
    let s := emit s (.hostMem (rd64 s Reg.HOST_EVQ_BASE_LO + 64 * tail) m)
    let s := setF s Reg.HOST_EVQ_TAIL 11 0 next
    let s := setRing s 8 { x with phase := if next == 0 then !x.phase else x.phase }
    (true, signalRing s 8 Reg.HOST_EVQ_CTRL)

/-- Carry an EVENT message to the endpoint that owns a flow; false when nothing can take it (R531, R536). -/
def carryEvent (s : State) (owner : Option Endpoint) (msg : List Byte) : Bool × State :=
  match owner with
  | some (.ring _) => eventRing s msg
  | some (.udp ip p e) => (true, emit s (.response (.udp ip p e) msg))
  | _ => (false, s)

/-- Store a subscription. -/
def setSub (s : State) (slot : Nat) (x : Subscription) : State :=
  { s with host := { s.host with subs := tput (fun _ => {}) s.host.subs slot x } }

/-- The EVENT message of a history entry for a subscription (R531). -/
def eventMsg (sub : Subscription) (blk : Nat) (h : HistEntry) : List Byte :=
  msgHeader 2 0x0804 sub.flow 20 sub.seq 0 0 ++ ([BitVec.ofNat 8 blk, 0] ++ leBytes 2 (min sub.lost 65535) ++ h.bytes)

/-- Send one subscription its EVENT of a history entry (R531); true when a run of losses begins. -/
def sendEvent (s : State) (slot : Nat) (blk : Nat) (h : HistEntry) : Bool × State :=
  let sub := tget (fun _ => {}) s.host.subs slot
  if !(sub.on && wbit sub.mask blk && sub.minSev ≤ wbits h.w0 6 5) then (false, s)
  else
    let fl : Flow := tget (fun _ => {}) s.host.flows sub.flow
    let took := carryEvent s fl.owner (eventMsg sub blk h)
    if took.1 then (false, setSub took.2 slot { sub with seq := sub.seq + 1, lost := 0 })
    else (sub.lost == 0, bump (setSub s slot { sub with lost := sub.lost + 1 }) Reg.HOST_EVT_LOST_CNT)

/-- What is raised: block, event, context word, the cell it names, and whether it is injected. -/
structure Event where
  blk : Nat
  ev : Nat
  ctx : Word := 0
  cell : Option Nat := none
  injected : Bool := false
  deriving DecidableEq, Repr

/-- The history entry of an event (R477). -/
def histEntry (s : State) (e : Event) (sev : Nat) (suppressed coincident : Bool) (rung : Nat) : HistEntry :=
  { w0 := word (e.ev + sev * 2 ^ 5 + flag e.injected * 2 ^ 7 + flag suppressed * 2 ^ 8 + flag coincident * 2 ^ 9 +
      rung * 2 ^ 12 + s.cyc.count.toNat % 65536 * 2 ^ 16)
    w1 := e.ctx
    w2 := word (nsOf (mtime s))
    w3 := word (secOf (mtime s)) }

/-- Write an entry into a block's history queue of 8 (R456). -/
def pushHist (s : State) (blk : Nat) (h : HistEntry) : State :=
  let q := history s blk
  let s := { s with flt := { s.flt with hist := tput (fun _ => []) s.flt.hist blk ((h :: q).take 8) } }
  let s := setF s (Reg.FLT_HIST_CNT blk) 3 0 (min (q.length + 1) 8)
  if 8 ≤ q.length then bumpF s (Reg.FLT_HIST_CNT blk) 31 16 else s

/-- A write of a history entry with its EVENT messages; true when a run of losses begins in some slot. -/
def logEntry (s : State) (blk : Nat) (h : HistEntry) : Bool × State :=
  [0, 1, 2, 3].foldl (fun r slot =>
    let x := sendEvent r.2 slot blk h
    (r.1 || x.1, x.2)) (false, pushHist s blk h)

/-- A region stop is put in force (R464): its stops take effect at the next latch instant. -/
def regionStop (s : State) : State :=
  if fbit s Reg.FPM_STATUS 0 then request s .region
  else
    let s := setBit s Reg.FPM_STATUS 0 true
    let s := { s with flt := { s.flt with stopRaw := some s.raw, stoSent := false } }
    request s .region

/-- The first climbing instance of a block, in order of start, then event number (R477). -/
def firstClimb (s : State) (blk : Nat) : Option Climb :=
  (s.flt.climbs.filter fun c => c.blk == blk).foldl (fun (b : Option Climb) c =>
    match b with
    | none => some c
    | some d => if c.since < d.since || (c.since == d.since && c.ev < d.ev) then some c else some d) none

/-- FLT_RUNG shows the highest rung applied and the first climbing instance (R477). -/
def showRung (s : State) (blk rung : Nat) : State :=
  let t := setF s (Reg.FLT_RUNG blk) 2 0 (max rung (fld s (Reg.FLT_RUNG blk) 2 0))
  match firstClimb s blk with
  | none => setF (setBit t (Reg.FLT_RUNG blk) 15 false) (Reg.FLT_RUNG blk) 12 8 0
  | some c => setF (setBit t (Reg.FLT_RUNG blk) 15 true) (Reg.FLT_RUNG blk) 12 8 c.ev

/-- The event escalation of FPM for a rung applied (R460). -/
def escalation (rung blk ev : Nat) : Event :=
  { blk := FPM, ev := 2, ctx := word (rung * 2 ^ 16 + blk * 2 ^ 8 + ev) }

/-- A history entry is written; where a run of losses begins, that is an event of HOST (R531). -/
def logAgain (again : State → Event → State) (s : State) (blk : Nat) (h : HistEntry) : State :=
  let l := logEntry s blk h
  if l.1 then again l.2 { blk := HOST, ev := 3 } else l.2

/-- An event that the reset of block q masks (R463): logged as suppressed and counted, and the first of that reset is told. -/
def maskedEvent (again : State → Event → State) (s : State) (e : Event) (q : Nat) : State :=
  let t := bump (logAgain again s e.blk (histEntry s e (severity s e.blk e.ev) true false 0)) Reg.FPM_SUPPRESS_CNT
  if t.flt.suppressed.contains q then t
  else again { t with flt := { t.flt with suppressed := q :: t.flt.suppressed } }
    { blk := FPM, ev := 3, ctx := word (q + e.blk * 2 ^ 8 + e.ev * 2 ^ 16) }

/-- An event of severity 1 and up shows in the fault status and on the interrupt (R455, R457). -/
def showEvent (s : State) (e : Event) : State :=
  let t := setBit s (Reg.FLT_STATUS e.blk) e.ev true
  if fbit t (Reg.FLT_INT_EN e.blk) e.ev then emit t (.faultIrq e.blk) else t

/-- An event of severity 2 or 3 starts to climb unless its instance climbs already; severity 3 puts the region stop in force at
once (R458, R460). A real event after an injected one starts afresh (R467). -/
def startClimb (again : State → Event → State) (s : State) (e : Event) (sev : Nat) (fresh : Bool) : State :=
  let climbs := if fresh then s.flt.climbs.filter (fun c => !(c.blk == e.blk && c.ev == e.ev)) else s.flt.climbs
  if sev < 2 || climbs.any (fun c => c.blk == e.blk && c.ev == e.ev) then s
  else
    let rung := if sev == 3 then 4 else if e.cell.isSome then 1 else 2
    let t := { s with flt := { s.flt with climbs := climbs ++ [⟨e.blk, e.ev, rung, e.cell, s.raw, s.raw + graceNs s e.blk⟩] } }
    let u := showRung t e.blk (if sev == 3 then 3 else 0)
    if sev == 3 then again (regionStop u) (escalation 3 e.blk e.ev) else u

/-- The same event was raised earlier in the cycle of its block, really or by injection (R467). -/
def marked (s : State) (e : Event) (injected : Bool) : Bool :=
  s.flt.marks.any fun m => m.blk == e.blk && m.ev == e.ev && m.injected == injected

/-- An event that nothing masks (R455-R460, R467): an injected one that coincides with a real one, and one of severity 0, is
logged and goes no further. -/
def plainEvent (again : State → Event → State) (s : State) (e : Event) : State :=
  let sev := severity s e.blk e.ev
  let coin := e.injected && marked s e false
  let t := logAgain again s e.blk (histEntry s e sev false coin (if sev == 3 && !coin then 3 else 0))
  let t := { t with flt := { t.flt with marks := ⟨e.blk, e.ev, e.injected⟩ :: t.flt.marks } }
  if coin || sev == 0 then t else startClimb again (showEvent t e) e sev (!e.injected && marked s e true)

/-- An event occurs (R455-R460, R463, R467): history, EVENT messages, status, interrupt and the start of the ladder. The
number bounds how deep an event can bring about another. -/
def raiseN : Nat → State → Event → State
  | 0, s, _ => s
  | n + 1, s, e =>
    match masker s e.blk e.ev with
    | some q => maskedEvent (raiseN n) s e q
    | none => plainEvent (raiseN n) s e

/-- Raise an event of a block. -/
def raise (s : State) (e : Event) : State := raiseN 4 s e

/-- The cell of its block that an event names by its object (R13, R458, DEDUCED, log entry 41): a loop lane by its axis, a Hem core, an
encoder channel, a compare channel (16 on), a spool, a mailbox, a lock (64 on), a field output, a connection. (DEDUCED, log entry 36) -/
def cellOf (blk ev obj : Nat) : Option Nat :=
  match blk with
  | 4 => some (obj % 16)
  | 5 => if ev < 2 then some obj else none
  | 7 => if ev < 2 then some obj else if ev == 3 then some (64 + obj) else none
  | 8 => if ev < 4 then some obj else if ev == 4 then none else some (16 + obj)
  | 9 => some obj
  | 11 => if 1 ≤ ev && ev ≤ 3 then some obj else none
  | 12 => if ev == 3 || ev == 4 then some obj else none
  | _ => none

/-- Raise event ev of a block, naming an object and a detail (R454). -/
def event (s : State) (blk ev : Nat) (obj : Nat := 0) (detail : Nat := 0) : State :=
  raise s { blk := blk, ev := ev, ctx := word (obj % 65536 + detail % 65536 * 2 ^ 16), cell := cellOf blk ev obj }

/-! ### Tokens -/

/-- A token queues at an input port of the matching store (R273): 0 shuttle processor, 1 loop engine, 2 Hem cluster,
3 delay lists, 4 firmware cores, 5 MBX block, 6 host post register. A port queues 16; when it is full its source stalls. -/
def postTok (s : State) (port : Nat) (t : Token) : State :=
  let room := (tget (fun _ => []) s.sched.ports port).length < 16 && (tget (fun _ => []) s.sched.stalled port).isEmpty
  { s with sched :=
      if room then { s.sched with ports := tmod (fun _ => []) s.sched.ports port (· ++ [t]) }
      else { s.sched with stalled := tmod (fun _ => []) s.sched.stalled port (· ++ [t]) } }

/-- A write that posts a token is answered once the token has room at its port (R273). -/
def portBus (s : State) (port : Nat) : State :=
  { s with bus := { waits := !(tget (fun _ => []) s.sched.stalled port : List Token).isEmpty } }

/-- A token made in the current cycle (R272). -/
def mkTok (s : State) (source task operand : Nat) (v : Word) : Token :=
  { value := v, task := task % 1024, operand := operand % 4, source := source, tag := BitVec.ofNat 16 s.cyc.count.toNat }

/-! ### The maintenance token -/

/-- The pairs of activities that may hold the token together (R474), by table row order from 0: US AC SW RS DR BT SC SD DB. -/
def compatible : List (Nat × Nat) :=
  [(0, 2), (0, 3), (0, 4), (0, 6), (0, 7), (2, 6), (2, 7), (3, 6), (3, 7), (4, 5), (4, 6), (4, 7), (6, 7), (6, 8), (7, 8)]

/-- Whether two activities may hold the token together. -/
def compat (a b : Nat) : Bool := compatible.contains (a, b) || compatible.contains (b, a)

/-- The activities that hold the token: bits 8:0 of FPM_MAINT_STATUS. -/
def holders (s : State) : List Nat := (List.range 9).filter fun i => fbit s Reg.FPM_MAINT_STATUS i

/-- A request for an activity (R475): granted at once, or refused busy with maintenance-busy. -/
def maintReq (s : State) (act : Nat) : Bool × State :=
  let hs := holders s
  let s := setF s Reg.FPM_MAINT_STATUS 19 16 act
  if act < 9 && hs.all (fun h => compat act h) then
    (true, setF (setBit s Reg.FPM_MAINT_STATUS act true) Reg.FPM_MAINT_STATUS 22 20 1)
  else (false, event (setF s Reg.FPM_MAINT_STATUS 22 20 3) FPM 5 act)

/-- An activity gives up the token (R475), which FPM_MAINT_STATUS shows as released (R478). (DEDUCED, log entry 45) -/
def maintRel (s : State) (act : Nat) : State :=
  if act < 9 then setF (setF (setBit s Reg.FPM_MAINT_STATUS act false) Reg.FPM_MAINT_STATUS 19 16 act) Reg.FPM_MAINT_STATUS 22 20 2
  else s

/-! ### Running a meaning -/

/-- The outcome of a command: the effect on everything but the queue of waiting commands. -/
def run (f : State → State) (s : State) : Host.Outcome State Fault Refusal :=
  .next { f s with pending := s.pending }

/-- The outcome of a command that stores to no memory and lets no time pass: everything but the queue, the memories and
the raw counter. -/
def runQuiet (f : State → State) (s : State) : Host.Outcome State Fault Refusal :=
  .next { f s with pending := s.pending, mem := s.mem, raw := s.raw }

end Sys2Proof.Machine
end

