-- ==== Sys2Proof/Machine/Time.lean ====
section
/-! DEFINITION. Machine time and PTP (04_machine_time.md): rate, step and source of the main calculator, the domain counters,
SYNC_OUT and SYNC_IN. -/

namespace Sys2Proof.Machine

/-- TIME_STATE fields (R134): state, step_armed, on_counter0, source in force, local_master. -/
def timeSt (s : State) : Nat := fld s Reg.TIME_STATE 1 0

/-- Enter a correction state with its step_armed. -/
def setTimeSt (s : State) (st : Nat) (armed : Bool) : State :=
  setBit (setF s Reg.TIME_STATE 1 0 st) Reg.TIME_STATE 2 armed

/-- A calculator with a new rate from a raw value on (R129). -/
def Calc.rerate (c : Calc) (x : Nat) (r : Int) : Calc := { base := c.read x, baseRaw := x, rate := r }

/-- A calculator stepped by nanoseconds; a step below 0 s, which the spec refuses for machine time alone, stops at 0 s (DESIGN CHOICE,
DESIGN CHOICE, log entry 95). -/
def Calc.step (c : Calc) (x : Nat) (dns : Int) : Calc :=
  { base := ((c.read x : Int) + dns * 65536).toNat, baseRaw := x, rate := c.rate }

/-- Change the effective rate in the main calculator and domain counter 0 (R129, R138). -/
def setRate (s : State) (r : Int) : State :=
  let s := { s with time := { s.time with main := s.time.main.rerate s.raw r } }
  let s := setDom s 0 ((domc s 0).rerate s.raw r)
  wr s Reg.TIME_RATE_ACTIVE (BitVec.ofInt 32 r)

/-- Step the main calculator and domain counter 0 and relabel the latch grid (R131, R133). -/
def stepTime (s : State) (dns : Int) : State :=
  let s := { s with time := { s.time with main := s.time.main.step s.raw dns } }
  let s := setDom s 0 ((domc s 0).step s.raw dns)
  { s with cyc := { s.cyc with latch := ((s.cyc.latch : Int) + dns * 65536).toNat } }

/-- The limit of TIME_RATE: ±100 ppm (R132). -/
def rateLimit : Int := 429497

/-- The effective rate follows TIME_RATE at once unless this head leads a ring in RUN, is in HOLDOVER or follows (R132,
R135, R137). -/
def syncRate (s : State) : State :=
  if ringSt s == 6 || ringSt s == 3 || timeSt s == 3 then s
  else
    let r := (rd s Reg.TIME_RATE).toInt
    if (rd s Reg.TIME_RATE_ACTIVE).toInt == r then s else setRate s r

/-- A TIME_RATE beyond the limit raises rate-clamped (R132). -/
def noteClamp (s : State) (v : Word) : State :=
  if clampI (-rateLimit) rateLimit v.toInt == v.toInt then s else event s TIME 2

/-- A TIME_RATE write ends HOLDOVER: in ACQUIRING with step_armed after 1 s of it or more, else in LOCKED (R134, R135). -/
def endHoldover (s : State) : State :=
  if timeSt s == 3 then
    if s.raw - s.time.holdRaw < 1000000000 then event (setTimeSt s 2 false) TIME 4 else event (setTimeSt s 1 true) TIME 4
  else s

/-- The servo wrote TIME_RATE now (R135). -/
def servoWrote (s : State) : State := { s with time := { s.time with rateRaw := s.raw } }

/-- A TIME_RATE value becomes the target: clamp, end of HOLDOVER and the effective rate (R132, R134, R135). -/
def takeRate (s : State) (v : Word) : State :=
  syncRate (endHoldover (servoWrote
    (wr (noteClamp s v) Reg.TIME_RATE (BitVec.ofInt 32 (clampI (-rateLimit) rateLimit v.toInt)))))

/-- A direct write of TIME_RATE as it lands: held while this head is in FOLLOW (R132, R137). -/
def landRate (s : State) (v : Word) : State :=
  if ringSt s == 3 then okBus { s with time := { s.time with heldRate := some v } } else okBus (takeRate s v)

/-- On leaving FOLLOW the held TIME_RATE write is applied (R137). -/
def releaseRate (s : State) : State :=
  match s.time.heldRate with
  | none => s
  | some v => takeRate { s with time := { s.time with heldRate := none } } v

/-- One step of the slew in RUN (R132): 1 LSB toward TIME_RATE, at most 2,147 LSB per second. (DESIGN CHOICE, log entry 20) -/
def slewStep (s : State) : State :=
  let cur := (rd s Reg.TIME_RATE_ACTIVE).toInt
  let tgt := (rd s Reg.TIME_RATE).toInt
  if ringSt s != 6 || timeSt s == 3 || cur == tgt then s
  else if s.time.slewRaw != 0 && s.raw * 2147 < s.time.slewRaw + 1000000000 then s
  else
    let s := setRate s (if cur < tgt then cur + 1 else cur - 1)
    -- the place of the step on the grid of 2,147 a second, in units of 1/2,147 ns
    let due := s.time.slewRaw + 1000000000
    { s with time := { s.time with slewRaw := if s.raw * 2147 < due + 2147 then due else s.raw * 2147 - 2146 } }

/-- The source is lost (R135): only LOCKED leads to HOLDOVER (R134). -/
def loseSource (s : State) : State :=
  if timeSt s != 2 then s
  else event { setTimeSt s 3 false with time := { s.time with holdRaw := s.raw } } TIME 3

/-- The registers of the TIME baste group (R153). -/
def timeGroup : List Nat :=
  [Reg.TIME_SRC_CFG, Reg.TIME_SYNC_CFG, Reg.TIME_SYNC_OFFSET, Reg.TIME_PTP_CFG]

/-- The step held in the staged step registers. -/
def stagedStep (s : State) : Int := sgn 64 (rd64 s Reg.TIME_STEP_LO)

/-- The result code of the tests of a TIME commit (R133), 1 when it passes. -/
def timeCommitResult (s : State) : Nat :=
  let src := fld s Reg.TIME_SRC_CFG 1 0
  let bad := src == 3 || (fld s Reg.TIME_SYNC_CFG 3 2 == 2 && src != 2) || fld s Reg.TIME_SYNC_CFG 15 8 == 0 ||
    fld s Reg.TIME_SYNC_CFG 31 16 == 0 || fld s Reg.TIME_SRC_CFG 11 4 == 0
  let armed := fbit s Reg.TIME_STATE 2 || src != actF s Reg.TIME_SRC_CFG 1 0
  let d := stagedStep s
  if bad then 5
  else if !s.time.stepWritten then 1
  else if !armed then 2
  else if d != 0 && ringSt s == 6 then 3
  else if (mtime s : Int) + d * 65536 < 0 then 4
  else 1

/-- A TIME commit as it lands (R133); step-refused is raised where a step was carried (DESIGN CHOICE, log entry 95). -/
def landTimeCommit (s : State) : State :=
  let r := timeCommitResult s
  let d := stagedStep s
  let carries := s.time.stepWritten
  let s := wr (wr s Reg.TIME_STEP_LO 0) Reg.TIME_STEP_HI 0
  let s := { s with time := { s.time with stepWritten := false } }
  if r == 1 then
    let s := { s with time := { s.time with carried := if carries then some d else none, commitRaw := s.raw } }
    okBus (setBit s Reg.TIME_BASTE_STATUS 0 true)
  else
    let s := setBit (setF s Reg.TIME_BASTE_STATUS 3 1 r) Reg.TIME_BASTE_STATUS 0 false
    okBus (if carries then event s TIME 1 else s)

/-- A change of src (R132, R134): ACQUIRING from any state, and the effective rate follows TIME_RATE where R132 says so. -/
def changeSource (s : State) (src : Nat) : State :=
  let s := if timeSt s == 3 then event s TIME 4 else s
  let s := setTimeSt s 1 true
  let s := if ringSt s == 3 then s else setF s Reg.TIME_STATE 5 4 src
  syncRate (if src == 1 then { s with time := { s.time with rateRaw := s.raw } } else s)

/-- The commit point of a pending TIME commit (R133, R134); the event's context holds the low 32 bits of the step (DESIGN CHOICE, log
entry 95). With slave_only the head is no local master (R141). -/
def applyTime (s : State) : State :=
  if !fbit s Reg.TIME_BASTE_STATUS 0 then s
  else
    let old := actF s Reg.TIME_SRC_CFG 1 0
    let s := applyBaste s timeGroup
    let src := actF s Reg.TIME_SRC_CFG 1 0
    let s := if src == old then s else changeSource s src
    let s := if actF s Reg.TIME_PTP_CFG 2 2 == 1 then setBit s Reg.TIME_STATE 6 false else s
    let s :=
      match s.time.carried with
      | none => s
      | some d =>
        let s := raise s { blk := TIME, ev := 0, ctx := BitVec.ofInt 32 d }
        setTimeSt (stepTime s d) 2 false
    let s := { s with time := { s.time with carried := none } }
    setF (setBit s Reg.TIME_BASTE_STATUS 0 false) Reg.TIME_BASTE_STATUS 3 1 1

/-- The commit point of a TIME commit is a latch instant while the head leads or follows, else 1 µs after the commit (R133). -/
def timeDue (s : State) : Bool := leads s || ringSt s == 3 || 1000 ≤ s.raw - s.time.commitRaw

/-- Snapshot of machine time and the domain counters (R130). -/
def snapshot (s : State) : State :=
  let t := mtime s
  let s := wr64 s Reg.TIME_SNAP_S_LO (secOf t)
  let s := wr s Reg.TIME_SNAP_NS (word (nsOf t))
  let s := wr s Reg.TIME_SNAP_FRAC (word (fracOf t))
  [0, 1, 2, 3].foldl (fun s k =>
    let u := (domc s k).read s.raw
    wr (wr64 s (Reg.TIME_DOM_SNAP_S_LO k) (secOf u)) (Reg.TIME_DOM_SNAP_NS k) (word (nsOf u))) s

/-- A write of TIME_CTRL as it lands: bit 0 snap, bit 1 force_holdover. -/
def landTimeCtrl (s : State) (v : Word) : State :=
  let s := if wbit v 0 then snapshot s else s
  okBus (if wbit v 1 then loseSource s else s)

/-- The silence of the PTP servo has lasted holdover_timeout (R135). (DESIGN CHOICE, log entry 12) -/
def holdoverTimeout (s : State) : State :=
  if fld s Reg.TIME_STATE 5 4 == 1 &&
      actF s Reg.TIME_SRC_CFG 11 4 * 100000000 ≤ s.raw - s.time.rateRaw then loseSource s
  else s

/-- The comparison of the main calculator with domain counter 0 (R139). -/
def compareCalc (s : State) : State :=
  let a := s.time.main.read s.raw
  let b := (domc s 0).read s.raw
  if 4 * nsU < a - b || 4 * nsU < b - a then event s TIME 5 else s

/-- A write of TIME_DOMk_STEP_HI applies the step formed with TIME_DOMk_STEP_LO (R138); ignored for k = 0. -/
def domainStep (s : State) (k : Nat) (v : Word) : State :=
  if k == 0 then okBus s
  else
    let d := sgn 64 ((rd s (Reg.TIME_DOM_STEP_LO k)).toNat + v.toNat * 2 ^ 32)
    okBus (setDom s k ((domc s k).step s.raw d))

/-- A direct write of TIME_DOMk_RATE (R138). -/
def domainRate (s : State) (k : Nat) (v : Word) : State :=
  if k == 0 then okBus s
  else okBus (wr (setDom s k ((domc s k).rerate s.raw v.toInt)) (Reg.TIME_DOM_RATE k) v)

/-! ### SYNC_OUT and SYNC_IN -/

/-- An edge of SYNC_OUT at machine time t, w long, which is given once. -/
def syncPulse (s : State) (t w : Nat) : State :=
  if s.time.syncEdge == some t then s
  else emit (emit { s with time := { s.time with syncEdge := some t } } (.pin "SYNC_OUT" true t)) (.pin "SYNC_OUT" false (t + w))

/-- A rising edge of SYNC_OUT falls due (R151), at a latch instant or at a whole second; SYNC_OUT is low in chip safe state (R548). -/
def syncOutEdge (s : State) : State :=
  let mode := actF s Reg.TIME_SYNC_CFG 1 0
  let div := actF s Reg.TIME_SYNC_CFG 31 16
  let w := actF s Reg.TIME_SYNC_CFG 15 8 * 8 * nsU
  if !(leads s || ringSt s == 3) || chipSafe s then s
  else if mode == 1 && div != 0 && s.cyc.count.toNat % div == 0 && onInstant s then
    let p := div * cycleNs s * nsU
    let w := if p ≤ w then p / 2 else w
    syncPulse s s.cyc.latch w
  else if mode == 2 then syncPulse s (secOf (mtime s) * secU) w
  else s

/-- A rising edge of SYNC_IN (R152). In cascade the head steps while armed and not in RUN, so that a latch instant falls at
the edge plus TIME_SYNC_OFFSET, and steers its rate by a law that the spec leaves open: a free value. In FOLLOW the source in force is
the ring (R137). -/
def syncInEdge (s : State) : State :=
  let mode := actF s Reg.TIME_SYNC_CFG 3 2
  if mode == 0 || mode == 3 then s
  else
    let t := mtime s
    let s := wr s Reg.TIME_SYNCIN_TS_NS (word (nsOf t))
    let s := { s with time := { s.time with misses := 0 } }
    let s := note s 3 0
    if mode != 2 || fld s Reg.TIME_STATE 5 4 != 2 then s
    else
      let T : Int := cycleNs s
      let off : Int := (actv s Reg.TIME_SYNC_OFFSET).toInt
      let want : Int := (t : Int) / 65536 + off
      let d0 := (want - (s.cyc.latch : Int) / 65536) % T
      let d := if T < 2 * d0 then d0 - T else d0
      if fbit s Reg.TIME_STATE 2 && ringSt s != 6 then
        setTimeSt (stepTime (raise s { blk := TIME, ev := 0, ctx := BitVec.ofInt 32 d }) d) 2 false
      else if timeSt s == 3 then s
      else
        let r := clampI (-rateLimit) rateLimit (freeVal 32 s).toInt
        setRate (drawn s) r

/-- An expected cascade edge did not come (R152, R135). -/
def syncInMissing (s : State) : State :=
  if actF s Reg.TIME_SYNC_CFG 3 2 != 2 || actF s Reg.TIME_SRC_CFG 1 0 != 2 then s
  else
    let s := event (bump s Reg.TIME_SYNCIN_MISS_CNT) TIME 8
    let s := { s with time := { s.time with misses := s.time.misses + 1 } }
    if 3 ≤ s.time.misses && fld s Reg.TIME_STATE 5 4 == 2 then loseSource s else s

/-- During a block reset of TIME all readers use domain counter 0 (R139). -/
def timeResetStart (s : State) : State := { s with time := { s.time with switched := true } }

/-- The block reset of TIME has completed (R139): the switch is counted, the main calculator reloads from counter 0, and the
readers switch back at the next latch instant. -/
def timeResetDone (s : State) : State :=
  let s := setBit (bump s Reg.TIME_DOMSW_CNT) Reg.TIME_STATE 3 true
  event { s with time := { s.time with main := domc s 0 } } TIME 6

/-- The readers switch back at a latch instant (R139). -/
def timeSwitchBack (s : State) : State :=
  if fbit s Reg.TIME_STATE 3 then
    setBit { s with time := { s.time with switched := false } } Reg.TIME_STATE 3 false
  else s

/-! ### The latch schedule -/

/-- The smallest raw value at which a calculator reads a machine time or more (R129, R131). -/
def rawAt (c : Calc) (t : Nat) : Nat :=
  let x : Int := (t : Int) - c.base
  let den : Int := 65536 * 65536 + c.rate
  (c.baseRaw + Int.fdiv (x * 65536 + den - 1) den).toNat

end Sys2Proof.Machine
end

