-- ==== Sys2Proof/Machine/Encoder.lean ====
section
/-! DEFINITION. What an encoder channel gives as local feedback (R302, R307, R311, R312, R314). -/

namespace Sys2Proof.Machine

/-- An encoder channel. -/
def encoder (s : State) (c : Nat) : Encoder := tget (fun _ => {}) s.fbc.enc c

/-- Store an encoder channel. -/
def setEncoder (s : State) (c : Nat) (x : Encoder) : State :=
  { s with fbc := { s.fbc with enc := tput (fun _ => {}) s.fbc.enc c x } }

/-- The mode of a channel (R302): 0 OFF, 1 QUAD, 2 SSI, 3 STEPDIR. -/
def encMode (s : State) (c : Nat) : Nat := actF s (Reg.FBC_ENC_CFG c) 1 0

/-- The channel that feeds an axis, if one does (R312). -/
def feedChan (s : State) (a : Nat) : Option Nat :=
  (List.range 8).find? fun c => wbit (actv s (Reg.FBC_ENC_AXIS c)) 31 && actF s (Reg.FBC_ENC_AXIS c) 7 0 == a

/-- The 48-bit position, the age and the fault that a channel gives (R312): the active's on a standby that has its CYCLE_A, or its
last SSI result (R361), else its own with the distance that a former standby keeps (R314). -/
def feed (s : State) (c : Nat) : Nat × Nat × Bool :=
  let x := encoder s c
  let fault := fbit s (Reg.FBC_ENC_STATUS c) 0
  let off := encMode s c == 0
  match x.act, mirrors s && (encMode s c == 2 || s.twin.cycleA.isSome) with
  | some (p, f, g), true => (unsg 48 p, if f || off then 7 else min g 7, f)
  | _, _ => (unsg 48 (x.latched + x.ofs), if fault || off then 7 else min x.age 7, fault)

end Sys2Proof.Machine
end

