-- ==== Sys2Proof/Machine/Power.lean ====
section
/-! DEFINITION. The power governor (R470-R473): requests for leave, their order and their grants, and the wake of the motion region
(R37). -/

namespace Sys2Proof.Machine

/-- TXDIS of a module (R549): high in reset, on the ring port that does not face the line, and for SFPA and SFPB in chip safe state; low
else (DEDUCED, log entry 102). -/
def txdisHigh (s : State) (p : Nat) : Bool :=
  s.sec.inReset || (p < 2 && (chipSafe s || (s.ring.lineFound && (p == 1) != s.ring.lineB)))

/-- The name of a TXDIS pin. -/
def txdisName (p : Nat) : String :=
  match p with
  | 0 => "SFPA_TXDIS"
  | 1 => "SFPB_TXDIS"
  | 2 => "SFPE0_TXDIS"
  | _ => "SFPE1_TXDIS"

/-- The TXDIS pins take their levels (R549). (DEDUCED, log entry 102) -/
def driveTxdis (s : State) : State :=
  [0, 1, 2, 3].foldl (fun s p =>
    let v := txdisHigh s p
    if bit s.pwr.txdis p == v then s
    else
      let n := s.pwr.txdis
      emit { s with pwr := { s.pwr with txdis := if v then n + 2 ^ p else n - 2 ^ p } } (.pin (txdisName p) v s.raw)) s

/-- Leave granted on a rail now. -/
def railGrant (s : State) (rail : Nat) : Nat := (s.pwr.granted.filter fun g => g.rail == rail).foldl (fun n g => n + g.current) 0

/-- Show the leave of a rail and the queue. -/
def showLeave (s : State) (rail : Nat) : State :=
  wr (wr s (Reg.FPM_RAIL_GRANT rail) (word (railGrant s rail))) Reg.FPM_LEAVE_QLEN (word s.pwr.queue.length)

/-- A request for leave (R470, R473): of one of the eight classes, for at most 1 ms, one outstanding for a requester. -/
def leaveRequest (s : State) (q : Leave) : State :=
  if q.cls == 0 || 8 < q.cls || s.pwr.queue.any fun x => x.requester == q.requester then s
  else showLeave { s with pwr := { s.pwr with queue := s.pwr.queue ++ [{ q with duration := min q.duration 1000 }] } } q.rail

/-- The request that a rail serves next (R473): class 1, then class 2, then arrival order. (DEDUCED, log entry 46) -/
def nextLeave (s : State) (rail : Nat) : Option Leave :=
  let qs := s.pwr.queue.filter fun q => q.rail == rail
  ((qs.find? fun q => q.cls == 1).or (qs.find? fun q => q.cls == 2)).or qs.head?

/-- Whether a request fits its rail's budget and staggering (R472). (DEDUCED, log entry 46) -/
def leaveFits (s : State) (q : Leave) : Bool :=
  let last := (s.pwr.lastWake.find? fun e => e.1 == q.rail).map (·.2)
  q.current + (rd s (Reg.FPM_RAIL_RESV q.rail)).toNat + tget (fun _ => 0) s.pwr.steady q.rail + railGrant s q.rail ≤
    (rd s (Reg.FPM_RAIL_LIMIT q.rail)).toNat &&
  (2 < q.cls || last.all fun t => 2000 ≤ s.raw - t)

/-- Keep the longest wait in a register. -/
def longest (s : State) (a n : Nat) : State := if (rd s a).toNat < n then wr s a (word n) else s

/-- The next request of a rail is granted where it fits (R472, R473). (DEDUCED, log entry 46) -/
def leaveGrant (s : State) (rail : Nat) : State :=
  match nextLeave s rail with
  | none => s
  | some q =>
    if !leaveFits s q then s
    else
      let s := { s with pwr := { s.pwr with
        queue := s.pwr.queue.erase q
        granted := s.pwr.granted ++ [{ q with raw := s.raw }]
        lastWake := if q.cls ≤ 2 then tput (fun _ => 0) s.pwr.lastWake rail s.raw else s.pwr.lastWake } }
      let s := showLeave s rail
      if q.cls ≤ 2 then longest s Reg.FPM_WAKE_WAIT_MAX (s.raw - q.raw)
      else longest s Reg.FPM_LEAVE_WAIT_MAX ((s.raw - q.raw) / 1000)

/-- A grant ends (R472). -/
def leaveEnd (s : State) (requester : Nat) (running : Bool) : State :=
  match s.pwr.granted.find? fun g => g.requester == requester with
  | none => s
  | some g =>
    let s := showLeave { s with pwr := { s.pwr with granted := s.pwr.granted.erase g } } g.rail
    if running then event s FPM 4 requester else s

/-- A grant at its stated duration, or an operation that is seen to draw more than stated before it (R472). -/
def leaveExpiry (s : State) (requester : Nat) (running : Bool) : State :=
  match s.pwr.granted.find? fun g => g.requester == requester with
  | none => s
  | some g =>
    if g.duration * 1000 ≤ s.raw - g.raw then leaveEnd s requester running
    else if running then event s FPM 4 requester
    else s

/-- Whether a requester holds leave. -/
def hasLeave (s : State) (requester : Nat) : Bool := s.pwr.granted.any fun g => g.requester == requester

/-- Whether a requester waits for leave. -/
def waitsLeave (s : State) (requester : Nat) : Bool := s.pwr.queue.any fun q => q.requester == requester

/-! ### The motion region -/

/-- The head's own requesters stand above the numbers that LEAVE_REQUEST names (DESIGN CHOICE, log entry 99): the wake of PD_MOT and of
PD_HEM, the archive bursts of the spools, and their dumps. -/
def wakeRequester (domain : Nat) : Nat := 256 + domain
def burstRequester (spool : Nat) : Nat := 258 + spool
def dumpRequester (spool : Nat) : Nat := 262 + spool

/-- A spool asks for leave to move data to archive memory, for 1 ms at most (R339, R470). (DESIGN CHOICE, log entry 99) -/
def burstAsk (s : State) (requester cls : Nat) : State :=
  if hasLeave s requester then s
  else leaveRequest s { requester := requester, cls := cls, rail := 0, current := Config.burstCurrent, duration := 1000, raw := s.raw }

/-- The first enable asks the governor for the wake of the domains that are off (R37, R470). (DEDUCED, log entry 24)
(DESIGN CHOICE, log entry 99) -/
def regionAsk (s : State) : State :=
  if s.cyc.wakePending then s
  else
    let ask (s : State) (d : Nat) (off : Bool) : State :=
      if off then leaveRequest s { requester := wakeRequester d, cls := 1, rail := 0, current := Config.wakeCurrent d, duration := 60, raw := s.raw }
      else s
    let t := ask (ask s 0 (s.pwr.off.contains .mot)) 1 (s.pwr.off.contains .hem)
    { t with cyc := { t.cyc with wakePending := true } }

/-- The wakes that the region needs have their leave (R37, R472). -/
def wakeGranted (s : State) : Bool :=
  (!s.pwr.off.contains .mot || hasLeave s (wakeRequester 0)) && (!s.pwr.off.contains .hem || hasLeave s (wakeRequester 1))

/-- The wake of PD_MOT and PD_HEM completes under its leave (R37): the pending enable takes effect at the next latch instant. (DEDUCED,
DEDUCED, log entry 24) -/
def regionWakeDone (s : State) : State :=
  if !s.cyc.wakePending || !wakeGranted s then s
  else
    let s := leaveEnd (leaveEnd s (wakeRequester 0) false) (wakeRequester 1) false
    { s with
      cyc := { s.cyc with wakePending := false }
      pwr := { s.pwr with off := s.pwr.off.filter fun d => d != .mot && d != .hem } }

/-- While no axis is enabled the motion region powers down where the configuration allows it and CK_AON runs (R37, R556).
(DEDUCED, log entry 24) -/
def regionSleep (s : State) : State :=
  if !s.pwr.mayOff || anyEnabled s || s.pwr.lost.contains 0 || fbit s Reg.PROF_CMD_STATUS 0 || s.cyc.wakePending || s.pwr.off.contains .mot then s
  else { s with pwr := { s.pwr with off := s.pwr.off ++ [.mot, .hem] } }

end Sys2Proof.Machine
end

