-- ==== Sys2Proof/Machine/Ring.lean ====
section
/-! DEFINITION. The shuttle and the ring (02_shuttle.md, 03_ring_start_sync_breaks.md): frames, the shuttle's parts, the
service lane, ring start, integration, delay measurement and breaks. -/

namespace Sys2Proof.Machine

/-! ### Frames -/

/-- Change the ring record. -/
def ringMod (s : State) (f : RingState → RingState) : State := { s with ring := f s.ring }

/-- The head's 64-bit serial number. -/
def serial (s : State) : Nat := rd64 s Reg.SEC_SERIAL_LO

/-- The station address: 0x02 followed by bits 39:0 of the serial, most significant byte first (R540). -/
def stationAddr (s : State) : List Byte := 2 :: beBytes 5 (serial s)

/-- The destination address and EtherType of every ring frame (R54). -/
def ringDest : List Byte := [0x03, 0x00, 0x00, 0xF1, 0x1D, 0x00]

/-- A MAC frame of the ring protocol with its FCS (R54, R55); the payload is padded to 46 bytes. -/
def macFrame (s : State) (payload : List Byte) : List Byte :=
  let f := ringDest ++ stationAddr s ++ [0x88, 0xB5] ++ padTo 46 payload
  f ++ fcsBytes f

/-- Whether the head's ring and twin transmitters are on (R371, R465, R480). -/
def transmits (s : State) : Bool := !chipSafe s

/-- Originate a frame on the line port. -/
def sendRing (s : State) (payload : List Byte) : State :=
  if transmits s then emit s (.ring (macFrame s payload)) else s

/-- This head's rank (R100). (DEDUCED, log entry 79) -/
def rank (s : State) : Nat :=
  if wbit s.ring.startCfg 3 then wbits s.ring.startCfg 2 0 else s.ring.rankPins

/-- The management header (R94). -/
def mgmtHeader (s : State) (ft sub len : Nat) : List Byte :=
  let h := [BitVec.ofNat 8 ft, 0x10, BitVec.ofNat 8 sub, BitVec.ofNat 8 (rank s)] ++ leBytes 8 (serial s) ++
    leBytes 2 s.ring.mseq ++ leBytes 2 len
  h ++ leBytes 2 0 ++ leBytes 2 (crc16 h)

/-- Send a management frame. -/
def sendMgmt (s : State) (ft sub : Nat) (body : List Byte) : State :=
  let s := sendRing s (mgmtHeader s ft sub body.length ++ body)
  ringMod s fun r => { r with mseq := (r.mseq + 1) % 65536 }

/-- A head acts on a received management frame only if its header checks, its major version is 1 and another head sent it
(R94). -/
def mgmtOk (s : State) (f : List Byte) : Bool :=
  field f 18 2 == crc16 (slice f 0 16) && 20 ≤ f.length && byteAt f 1 / 16 == 1 && field f 4 8 != serial s

/-- The body of a management frame. -/
def mgmtBody (f : List Byte) : List Byte := f.drop 20

/-- Precedence (R96): the lower pair of rank and serial is superior. (DEDUCED, log entry 79) -/
def superior (rank1 serial1 rank2 serial2 : Nat) : Bool :=
  rank1 < rank2 || (rank1 == rank2 && serial1 < serial2)

/-! ### Ring states -/

/-- The first entry into IDLE, or FOLLOW for a standby, after a boot: a trial's health window starts (R503) and, in IDLE, the homing
sequences that start by themselves (R495). -/
def firstIdle (s : State) (st : Nat) : State :=
  if s.sec.idled then s
  else
    { s with sec := { s.sec with
      idled := true
      healthRaw := if fbit s Reg.SEC_STATUS 6 then some s.raw else none
      running := if st == 5 then (s.sec.homing.filter fun h => byteAt h.2 0 == 1).map (fun h => (h.1, { since := s.raw })) else [] } }

/-- ALIVE toggles from the first entry into FOLLOW, IDLE or RUN on (R468); its grid of 500 µs starts there (DESIGN CHOICE, log entry
103). -/
def aliveFrom (s : State) (st : Nat) : State :=
  if (st == 5 || st == 6 || st == 3) && !s.pwr.aliveOn then
    { s with pwr := { s.pwr with aliveOn := true, aliveAt := s.raw + 500000 } }
  else s

/-- What the first entry into IDLE or FOLLOW starts. -/
def idleFrom (s : State) (st : Nat) : State := if st == 5 || st == 3 then firstIdle s st else s

/-- Entering FOLLOW makes it the source in force; leaving it restores the configured source and applies a held TIME_RATE (R137). -/
def sourceFrom (s : State) (old st : Nat) : State :=
  if st == 3 then setF s Reg.TIME_STATE 5 4 3
  else if old == 3 then syncRate (releaseRate (setF s Reg.TIME_STATE 5 4 (actF s Reg.TIME_SRC_CFG 1 0)))
  else syncRate s

/-- Enter a ring state (R93, R137). -/
def enterRing (s : State) (st : Nat) : State :=
  sourceFrom (idleFrom (aliveFrom (setF s Reg.RING_STATE 2 0 st) st) st) (ringSt s) st

/-! ### The service lane -/

/-- A service slot. -/
def slot (s : State) (i : Nat) : SvcSlot := tget (fun _ => {}) s.ring.slots i

/-- Store a service slot. -/
def setSlot (s : State) (i : Nat) (x : SvcSlot) : State :=
  ringMod s fun r => { r with slots := tput (fun _ => {}) r.slots i x }

/-- A 64-byte slot (R77). -/
def slotBytes (state target code tag index : Nat) (data : List Byte) : List Byte :=
  let b := [BitVec.ofNat 8 state, BitVec.ofNat 8 target, BitVec.ofNat 8 code, BitVec.ofNat 8 tag,
    BitVec.ofNat 8 data.length, 0] ++ leBytes 2 index ++ padTo 54 data
  b ++ leBytes 2 (crc16 b)

/-- A broadcast target. -/
def broadcast : Nat := 0x80

/-- The slot that runs an exchange with a worker, if one does. -/
def slotFor (s : State) (target : Nat) : Option Nat :=
  (List.range 16).find? fun i =>
    match (slot s i).req with
    | some q => q.target == target && target != broadcast
    | none => false

/-- The lowest-numbered free slot (R80). -/
def freeSlot (s : State) : Option Nat := (List.range 16).find? fun i => (slot s i).req.isNone && !(slot s i).idle

/-- Start an exchange, or leave it waiting when its worker has one or no slot is free (R80). -/
def svcTry (s : State) (q : SvcReq) : Option State :=
  if q.target != broadcast && (slotFor s q.target).isSome then none
  else
    match freeSlot s with
    | none => none
    | some i =>
      let s := setSlot s i { req := some q, tag := s.ring.tag }
      some (ringMod s fun r => { r with tag := (r.tag + 1) % 256 })

/-- The codes that the head broadcasts (R80): PARAM_WRITE, FW_BLOCK and MBX_TO_WORKER. -/
def broadcastable (code : Nat) : Bool := code == 2 || code == 3 || code == 5

/-- Ask for an exchange (R80); the head broadcasts no other code than those whose response is a result alone. (DEDUCED, log entry 84) -/
def svcStart (s : State) (q : SvcReq) : State :=
  if q.target == broadcast && !broadcastable q.code then s
  else match svcTry s q with
  | some t => t
  | none => ringMod s fun r => { r with queue := r.queue ++ [q] }

/-- Start every waiting exchange that can start, oldest first. -/
def svcPump (s : State) : State :=
  s.ring.queue.foldl (fun s q =>
    match svcTry s q with
    | some t => t
    | none => ringMod s fun r => { r with queue := r.queue ++ [q] })
    (ringMod s fun r => { r with queue := [] })

/-- An exchange ends, for its originator (R80): fetched messages queue by worker (R529). -/
def svcEnd (s : State) (i : Nat) (result : Nat) (data : List Byte) : State :=
  match (slot s i).req with
  | none => s
  | some q =>
    let s := setSlot s i {}
    match q.origin with
    | .fetch p =>
      if result != 0 || data.isEmpty then s
      else
        let ms := tget (fun _ => []) s.ring.wmbx p
        if 16 ≤ ms.length then bump s Reg.HOST_MSG_ERR_CNT
        else ringMod s fun r => { r with wmbx := tput (fun _ => []) r.wmbx p (ms ++ [data]) }
    | .none => s
    | o => ringMod s fun r => { r with done := r.done ++ [⟨o, q.target, q.code, result, data⟩] }

/-- The slot bytes of the shuttle being launched, and the slot afterwards (R77-R80). -/
def launchSlot (x : SvcSlot) : List Byte × SvcSlot :=
  match x.req with
  | none => (slotBytes 0 0 0 0 0 [], { x with idle := false })
  | some q =>
    if !x.sent then
      (slotBytes 1 q.target q.code x.tag q.index q.data, if q.target == broadcast then {} else { x with sent := true })
    else (slotBytes 2 q.target q.code x.tag q.index [], { x with awaits := x.awaits + 1 })

/-- The service lane as launched. -/
def launchLane (s : State) : List Byte × State :=
  (List.range 16).foldl (fun p i =>
    let x := launchSlot (slot p.2 i)
    (p.1 ++ x.1, setSlot p.2 i x.2)) ([], svcPump s)

/-- A timeout of the AWAIT count ends the exchange, and its slot carries IDLE in the next shuttle (R80). -/
def svcTimeout (s : State) (i : Nat) : State :=
  let x := slot s i
  if x.req.isSome && x.sent && actF s Reg.RING_SVC_CFG 15 0 ≤ x.awaits then
    setSlot (svcEnd (bump s Reg.RING_SVC_TIMEOUT_CNT) i 0x100 []) i { idle := true }
  else s

/-- A slot that comes back goes to the firmware cores as a scheduler token (R18). Its task, operand and value are stated nowhere: free
(DESIGN CHOICE, log entry 5). -/
def slotToken (s : State) : State :=
  postTok (drawn s) 0 (mkTok s 0 Config.serviceTask Config.serviceOperand (freeVal 32 s))

/-- A slot of a returned shuttle (R77, R78, R80). -/
def returnSlot (s : State) (i : Nat) (b : List Byte) : State :=
  let x := slot s i
  match x.req with
  | none => s
  | some q =>
    let st := byteAt b 0
    let mine := byteAt b 1 == q.target && byteAt b 3 == x.tag
    if b.length < 64 || !(st == 0x81 || st == 0x82) || !mine || field b 62 2 != crc16 (slice b 0 62) then s
    else
      let s := slotToken s
      let len := byteAt b 4
      if 54 < len then svcEnd s i 4 []
      else
        let data := x.got ++ slice b 8 len
        if st == 0x81 then svcEnd s i (byteAt b 5) data
        else setSlot s i { x with awaits := 0, got := data }

/-- A block reset of RING ends every exchange as a failure, without counting it (R80). -/
def svcReset (s : State) : State :=
  (List.range 16).foldl (fun s i =>
    if (slot s i).req.isSome then setSlot (svcEnd s i 0x100 []) i { idle := true } else s) s

/-- A head that stops leading: a command-protocol exchange gets no response (R523); any other ends as a failure for its
originator. -/
def svcStop (s : State) : State :=
  let host (q : SvcReq) : Bool := match q.origin with | .host _ => true | _ => false
  let s := (List.range 16).foldl (fun s i =>
    match (slot s i).req with
    | none => s
    | some q => if host q then setSlot s i {} else svcEnd s i 0x100 []) s
  let lost := (s.ring.queue.filter fun q => !host q).map fun q => ⟨q.origin, q.target, q.code, 0x100, []⟩
  ringMod s fun r => { r with slots := [], queue := [], done := r.done ++ lost }

/-- Enter LISTEN; the first time, SEC_BOOT_TIME takes the time since release (R484). -/
def enterListen (s : State) : State :=
  let s := if rd s Reg.SEC_BOOT_TIME == 0 then wr s Reg.SEC_BOOT_TIME (word (s.raw / 1000000)) else s
  let s := svcStop s
  enterRing (ringMod s fun r => { r with
    mustWithdraw := false, mustRepeat := false, launched := false, returned := true, integ := 0, listenRaw := s.raw }) 1

/-- The listen time in ns (R100). -/
def listenNs (s : State) : Nat := 20000000 + rank s * 5000000

/-- Send one CLAIM (R102). -/
def sendClaim (s : State) : State :=
  let s := sendMgmt s 0x02 0 (leBytes 4 s.ring.cfgHash.toNat ++ leBytes 4 s.ring.claims)
  ringMod s fun r => { r with claims := r.claims + 1, claimRaw := s.raw }

/-- Enter CLAIM: the first claim goes out on entry. -/
def enterClaim (s : State) : State := sendClaim (enterRing (ringMod s fun r => { r with claims := 0, claimFirst := s.raw }) 2)

/-- The listen time has passed without a superior claim or a shuttle (R101). -/
def listenTimeout (s : State) : State :=
  if ringSt s == 1 && listenNs s ≤ s.raw - s.ring.listenRaw then enterClaim s else s

/-- In CLAIM a claim goes out 250 µs after the one before (R102). -/
def claimSend (s : State) : State :=
  if ringSt s == 2 && 250000 ≤ s.raw - s.ring.claimRaw then sendClaim s else s

/-- The ring has been silent for the listen time while this head follows (R93). -/
def followSilence (s : State) : State :=
  if ringSt s == 3 && listenNs s ≤ s.raw - s.ring.heardRaw then enterListen s else s

/-- A frame is heard on the ring (R93). -/
def heard (s : State) : State := ringMod s fun r => { r with heardRaw := s.raw }

/-- The worker entries of a ring topology record (R493): each with the head axis and worker channel of every record ordinal. -/
def topoEntries : Nat → List Byte → List (TopoNode × List (Nat × Nat))
  | 0, _ => []
  | n + 1, bs =>
    let a := byteAt bs 1
    let x : TopoNode := { vendor := field bs 2 2, product := field bs 4 2, axes := a, kappa := sgn 32 (field bs 8 4), imageClass := field bs 6 2 }
    (x, (List.range a).map fun k => (byteAt bs (12 + 2 * k), byteAt bs (13 + 2 * k))) :: topoEntries n (bs.drop (12 + ceilDiv a 2 * 4))

/-- The bytes of a section of a axes (R60). -/
def sectionLen (x : Section) : Nat := 40 + 28 * x.axes.length

/-! ### The tail of a cycle -/

/-- Nanoseconds times 25 per byte at the line's data rate: 8 at 25 Gb/s, 20 at 10 Gb/s (R29). (DESIGN CHOICE, log entry 92) -/
def byteTime25 (s : State) : Nat := if wbits s.ring.linkCfg 1 0 == 1 then 20 else 8

/-- L(n) + t_lead (R22). -/
def leadTime (s : State) : Nat := s.cyc.latch + 500 * nsU

/-- The shuttle payload of the full layout in bytes (R57). -/
def payloadLen (s : State) : Nat := s.ring.sections.foldl (fun o x => o + sectionLen x) 64 + 1024 + 32

/-- The time at which each axis's input record ends, in ns times 25, with its axis, in frame order. -/
def arrivals (s : State) : List (Nat × Nat) :=
  (s.ring.sections.foldl (fun (p : List (Nat × Nat) × Nat) x =>
    let n := x.axes.length
    (p.1 ++ (List.range n).map (fun k => ((p.2 + 8 + 16 * n + 12 * (k + 1)) * byteTime25 s, x.axes.getD k 0)),
      p.2 + sectionLen x)) ([], 64)).1

/-- The time in ns times 25 at which the last queued record of any lane enters it: each axis takes 240 ns in its lane. -/
def lastStart (s : State) : Nat :=
  ((arrivals s).foldl (fun (p : Table Nat × Nat) e =>
    let l := e.2 % 16
    let start := max e.1 (tget (fun _ => 0) p.1 l)
    (tput (fun _ => 0) p.1 l (start + 240 * 25), max p.2 start)) ([], 0)).2

/-- t_tail in ns (R28). -/
def tTail (s : State) : Nat :=
  let as := arrivals s
  let lastIn := as.foldl (fun m e => max m e.1) 0
  let drain := ceilDiv (lastStart s - lastIn) 25
  max (if 128 < as.length then 1200 else 800) (drain + 540)

/-- SYS_TTAIL shows the value in use (R28). -/
def showTail (s : State) : State := wr s Reg.SYS_TTAIL (word (tTail s))

/-! ### The section table as this head sees it -/

/-- Read the ring topology record as seen from end 0 (R351, R493): in reverse, with every asymmetry negated, when end 0 is not end A. -/
def orient (s : State) : State :=
  let rec' := s.ring.record
  if rec'.isEmpty then s
  else
    let rev := if s.ring.farEnd then s.twin.endA else !s.twin.endA
    let es := topoEntries (byteAt rec' 0) (rec'.drop 16)
    let links := es.map (fun e => e.1.kappa) ++ [sgn 32 (field rec' 8 4)]
    let links := if rev then links.reverse.map (fun k => -k) else links
    let es := if rev then es.reverse else es
    let named (p : Nat) : Bool := s.safe.conns.any fun c => c.1 + 1 == p && c.2.named
    let id := Config.layoutId rec' rev
    showTail <| ringMod s fun r =>
      { r with sections := es.mapIdx fun i e => { position := i + 1, axes := e.2.map (·.1), map := e.2.map (·.2), pdu := named (i + 1) }
               topo := es.mapIdx fun i e => { e.1 with kappa := links.getD i 0 }
               kappaFar := links.getD es.length 0
               layoutId := if id == 0 then 1 else id.toNat }

/-- Enter FOLLOW under a leader, which stands at end 0. -/
def enterFollow (s : State) (leader : Nat) : State :=
  enterRing (orient (ringMod (svcStop s) fun r => { r with leader := BitVec.ofNat 64 leader, farEnd := true, ahead := none, synced := false,
                                                               heardRaw := s.raw })) 3

/-- Begin integration from discovery: i = 0 in the cycle of the next latch instant (R104). -/
def restartInteg (s : State) : State :=
  ringMod s fun r => { r with integ := 0, enums := [], delaySets := [], setFails := 0, mismatch := false, retake := true,
                              allWrite := false, complete := false, agreedN := 0, integCycles := 0, enumAt := 0,
                              rejoin := [] }

/-- The next latch instant begins a step of integration. -/
def nextStep (s : State) (i : Nat) : State := ringMod s fun r => { r with integ := i, retake := true }

/-- A failed integration attempt (R104, R105, R107). -/
def integFailed (s : State) : State := bump s Reg.RING_INTEG_FAIL_CNT

/-- Become the leader and enter INTEGRATE (R102): this head stands at end 0. -/
def enterIntegrate (s : State) : State :=
  let s := restartInteg s
  let s := orient (ringMod s fun r => { r with farEnd := false })
  let s := wr (wr s Reg.SYS_TMIN 0) Reg.SYS_CYCLE_ACTIVE 0x3E8
  enterRing { s with cyc := { s.cyc with steps := 1000, next := 1000, nextIdle := false, oper := false, nextOper := false } } 4

/-- 2 ms have passed since the first CLAIM with no superior one received (R102). -/
def claimHoldExpiry (s : State) : State :=
  if ringSt s == 2 && 2000000 ≤ s.raw - s.ring.claimFirst then enterIntegrate s else s

/-- The leader withdraws: RING_STOP with a reason, then LISTEN (R103, R126). -/
def withdraw (s : State) (reason : Nat) : State := enterListen (sendMgmt s 0x05 1 [BitVec.ofNat 8 reason])

/-! ### The shuttle -/

/-- Full layout is carried: not in integration cycles 0-20 (R104). -/
def fullLayout (s : State) : Bool := ringSt s != 4 || 21 ≤ s.ring.integ

/-- The sections that the shuttle carries. -/
def carried (s : State) : List Section := if fullLayout s then s.ring.sections else []

/-- Shuttle offset of the service lane. -/
def svcOffset (s : State) : Nat := (carried s).foldl (fun o x => o + sectionLen x) 64

/-- The bytes of an output record (R63). -/
def OutRec.bytes (r : OutRec) : List Byte :=
  leBytes 8 r.pos.toNat ++ leBytes 4 r.slope.toNat ++ leBytes 2 r.torque.toNat ++ leBytes 2 r.control.toNat

/-- The age of a control word. -/
def OutRec.age (r : OutRec) : Nat := bits r.control.toNat 2 0

/-- A record with its age replaced. -/
def OutRec.withAge (r : OutRec) (g : Nat) : OutRec :=
  { r with control := BitVec.ofNat 16 (r.control.toNat / 8 * 8 + g) }

/-- A record with enable 0 and age 7 (R84). -/
def OutRec.off (r : OutRec) : OutRec :=
  { r with control := BitVec.ofNat 16 (r.control.toNat / 16 * 16 + 7) }

/-- The record of an axis that has none: position, slope, torque 0, age 7, enable 0, the mode given (R84). -/
def voidRec (mode : Nat) : OutRec := { control := BitVec.ofNat 16 (7 + mode % 8 * 16) }

/-- What the launch sends for an axis, and whether its record was missed (R26, R84, R104). -/
def launchRec (s : State) (mode : Nat → Nat) (a : Nat) : OutRec × Bool :=
  let last : OutRec := tget (fun _ => {}) s.ring.sent a
  if ringSt s == 4 then (voidRec (mode a), false)
  else if s.ring.fresh.contains a then (tget (fun _ => {}) s.ring.image a, false)
  else if s.ring.everSent.contains a then
    (last.withAge (min (last.age + 1) 7), true)
  else (voidRec (mode a), true)

/-- The unwritten tag and prefill of a section's inbound area (R62): bytes 4-7, input records and inbound PDU. -/
def prefillCrc (n : Nat) : Nat := crc16 (List.replicate (2 + 12 * n + 16) 0xFF)

/-- A section as launched (R60-R62). -/
def sectionBytes (s : State) (recs : Nat → OutRec) (x : Section) : List Byte :=
  let h := [BitVec.ofNat 8 x.position, if ringSt s == 4 then 0 else 1]
  let out := (x.axes.map fun a => (recs a).bytes).flatten
  let pdu := if x.pdu then padTo 16 (tget (fun _ => []) s.ring.pdus x.position) else zeros 16
  h ++ leBytes 2 (crc16 (h ++ out ++ pdu)) ++ [0xFF, 0xFF] ++ leBytes 2 (prefillCrc x.axes.length) ++ out ++
    List.replicate (12 * x.axes.length) 0xFF ++ pdu ++ List.replicate 16 0xFF

/-- The shuttle header (R58). -/
def headerBytes (s : State) (split : Bool) : List Byte :=
  let integ := ringSt s == 4
  let t := s.cyc.latch + cycleNs s * nsU
  let so := svcOffset s
  let full := fullLayout s
  let a := [0x01, 0x10, BitVec.ofNat 8 (flag s.ring.farEnd),
      BitVec.ofNat 8 (flag integ + 2 * flag split + 4 * flag (!integ && s.cyc.nextIdle))] ++
    leBytes 4 s.cyc.count.toNat ++ leBytes 8 (secOf t) ++ leBytes 4 (nsOf t) ++ leBytes 2 s.cyc.next ++
    leBytes 2 (if full then s.ring.layoutId else 0) ++
    [BitVec.ofNat 8 (carried s).length, BitVec.ofNat 8 (rank s)]
  let b := leBytes 4 (serial s) ++ leBytes 2 so ++ leBytes 2 (so + 1024) ++
    [BitVec.ofNat 8 (actF s Reg.RING_AGE_CFG 2 0)] ++ zeros 25
  a ++ leBytes 2 s.ring.xt.toNat ++ b ++ leBytes 2 (crc16 (a ++ b))

/-- The trailer as launched, without the FCS (R76), with the stamp of a fire (R330). -/
def trailerBytes (s : State) : List Byte :=
  match s.ring.xtStamp with
  | none => zeros 21 ++ [0xFF] ++ zeros 6
  | some (b, t) =>
    zeros 20 ++ [BitVec.ofNat 8 b, 0] ++ leBytes 4 (unsg 32 (t - (s.cyc.latch / nsU : Nat))) ++ zeros 2

/-! ### The return of a shuttle -/

/-- The input of an axis. -/
def input (s : State) (a : Nat) : InRec := tget (fun _ => {}) s.ring.inputs a

/-- Store the input of an axis. -/
def setInput (s : State) (a : Nat) (x : InRec) : State :=
  ringMod s fun r => { r with inputs := tput (fun _ => {}) r.inputs a x }

/-- A substituted record (R89): the last input with its age raised, or position 0 with age 7. -/
def InRec.substitute (x : InRec) : InRec :=
  let x := { x with prev := x.ext }
  if x.got then { x with age := min (x.age + 1) 7 } else { x with pos := 0, age := 7 }

/-- A record used as written extends the position (R67). -/
def InRec.take (x : InRec) (b : List Byte) : InRec :=
  let pos := field b 0 6
  let st := field b 6 2
  let age := st % 8
  let x := { x with prev := x.ext, pos := pos, status := BitVec.ofNat 16 st, actual := BitVec.ofNat 16 (field b 8 2),
                    aux := BitVec.ofNat 16 (field b 10 2), age := age, got := true }
  if age == 7 then x
  else if !x.valid then { x with ext := sgn 48 pos, ref := pos, valid := true }
  else { x with ext := x.ext + sgn 48 (pos + 2 ^ 48 - x.ref), ref := pos }

/-- How a returned section is decided (R89): 0 used, 1 unwritten, 2 in_crc failed, 3 window violation, 4 not returned whole. -/
def sectionFate (n : Nat) (b : List Byte) : Nat :=
  let cov := slice b 4 2 ++ slice b (8 + 16 * n) (12 * n) ++ slice b (24 + 28 * n) 16
  if b.length < 40 + 28 * n then 4
  else if byteAt b 4 == 0xFF && field b 6 2 == prefillCrc n then 1
  else if field b 6 2 != crc16 cov then 2
  else if bit (byteAt b 4) 0 then 3
  else 0

/-- The value of a subscribed field (R277). -/
def subValue (x : InRec) (f : Nat) : Word :=
  match f with
  | 0 => BitVec.ofInt 32 x.ext
  | 1 => BitVec.ofInt 32 x.actual.toInt
  | 2 => BitVec.ofInt 32 x.aux.toInt
  | _ => word x.status.toNat

/-- A record joins the queue of its axis's lane (R22); one whose lane is not ready is held there and counted (R36). -/
def queueRecord (s : State) (a : Nat) : State :=
  let s := if lanesReady s then s else bump s Reg.SYS_WAKE_LATE_CNT
  ringMod s fun r => { r with waiting := r.waiting ++ [a] }

/-- The token of a subscribed axis, once its record has arrived in full (R277). -/
def subToken (s : State) (a : Nat) : State :=
  let w := rd s (Reg.SCHED_AX_SUB a)
  if wbit w 31 then
    postTok s 0 (mkTok s 0 (wbits w 9 0) (wbits w 11 10) (subValue (input s a) (wbits w 13 12)))
  else s

/-- The shuttle processor hands the record of an axis on that has arrived: to its lane, and as a token where one is subscribed
(R22, R277). -/
def handOn (s : State) (a : Nat) : State := subToken (queueRecord s a) a

/-- No record of an axis is used in this cycle: its substitute goes to its lane (R89). -/
def substitute (s : State) (a : Nat) : State := queueRecord (setInput s a (input s a).substitute) a

/-- The worker's record of an axis in a returned payload, when its section is used (R312). -/
def workerRecord (s : State) (bs : List Byte) (a : Nat) : Option (List Byte) :=
  ((carried s).foldl (fun (p : Option (List Byte) × Nat) x =>
    let n := x.axes.length
    let b := slice bs p.2 (sectionLen x)
    let rb := slice b (8 + 16 * n + 12 * x.axes.idxOf a) 12
    (if x.axes.contains a && sectionFate n b == 0 && field rb 6 2 != 0xFFFF then some rb else p.1,
     p.2 + sectionLen x)) (none, 64)).1

/-- The order in which the input records of a cycle arrive (R25, R89, R312): the axes fed locally, then those of the sections as they stand
in the frame. -/
def recordOrder (s : State) : List Nat :=
  let locals := (List.range 8).filterMap fun c =>
    let w := actv s (Reg.FBC_ENC_AXIS c)
    if wbit w 31 then some (wbits w 7 0) else none
  locals ++ ((s.ring.sections.map (·.axes)).flatten.filter fun a => !locals.contains a)

/-- The axes fed locally take their channels' values and join their lanes' queues at the first block (R312, R313). -/
def localInputs (s : State) (bs : List Byte) : State :=
  (List.range 8).foldl (fun s c =>
    let w := actv s (Reg.FBC_ENC_AXIS c)
    if !wbit w 31 then s
    else
      let a := wbits w 7 0
      let x := input s a
      let rest : Nat × List Byte :=
        match workerRecord s bs a with
        | some rb => (field rb 6 2, slice rb 8 4)
        | none =>
          if s.ring.sections.any (fun y => y.axes.contains a) then
            (x.status.toNat, leBytes 2 x.actual.toNat ++ leBytes 2 x.aux.toNat)
          else (0, zeros 4)
      let f := feed s c
      let st := rest.1 / 64 * 64 + flag f.2.2 * 32 + rest.1 / 8 % 4 * 8 + f.2.1 % 8
      let s := if (encoder s c).busy then setBit s (Reg.FBC_ENC_STATUS c) 5 true else s
      handOn (setInput s a (x.take (leBytes 6 f.1 ++ leBytes 2 st ++ rest.2))) a) s

/-- The records of one section as decided (R67, R89). -/
def takeSection (s : State) (x : Section) (b : List Byte) (fate : Nat) (counted : Bool) : State :=
  let n := x.axes.length
  let s :=
    match fate with
    | 1 => if counted then bump s Reg.RING_UNWRITTEN_CNT else s
    | 2 => bump s Reg.RING_SEC_CRC_ERR_CNT
    | _ => s
  let s :=
    if fate == 3 then setF (bump s Reg.RING_WV_CNT) Reg.RING_WV_LAST 6 0 x.position else s
  let s := if fate == 0 then s else ringMod s fun r => { r with subst := r.subst ++ [x.position] }
  (List.range n).foldl (fun s k =>
    let a := x.axes.getD k 0
    let rb := slice b (8 + 16 * n + 12 * k) 12
    if (feedChan s a).isSome then (if fate == 0 && field rb 6 2 == 0xFFFF then bump s Reg.RING_UNWRITTEN_CNT else s)
    else if fate != 0 then substitute s a
    else if field rb 6 2 == 0xFFFF then substitute (bump s Reg.RING_UNWRITTEN_CNT) a
    else handOn (setInput s a ((input s a).take rb)) a) s

/-- Keep whether a worker writes ready (R61). -/
def noteReady (s : State) (position : Nat) (ready : Bool) : State :=
  ringMod s fun r =>
    let others := r.nodesReady.filter (· != position)
    { r with nodesReady := if ready then position :: others else others }

/-- A returned section: its records, its PDU for the island and its service request (R80, R89). -/
def returnSection (s : State) (x : Section) (b : List Byte) (counted : Bool) : State :=
  let n := x.axes.length
  let fate := sectionFate n b
  let s := takeSection s x b fate counted
  let s :=
    if x.pdu && 40 + 28 * n ≤ b.length then
      ringMod s fun r => { r with inPdus := tput (fun _ => []) r.inPdus x.position (slice b (24 + 28 * n) 16) }
    else s
  let written := fate == 0 || fate == 3
  let s := if written then noteReady s x.position (bit (byteAt b 4) 5) else s
  let fetching := (slotFor s x.position).isSome ||
    s.ring.queue.any (fun q => q.origin == .fetch x.position)
  if written && bit (byteAt b 4) 3 && !fetching then svcStart s ⟨x.position, 0x06, 0, [], .fetch x.position⟩ else s

/-- The number of workers and the kind of far end by which the head expects visit_count (R76). -/
def expectN (s : State) : Option (Nat × Bool) :=
  if ringSt s == 4 then (if s.ring.integ < 4 then none else some (s.ring.agreedN, s.ring.agreedTwin))
  else some (s.ring.sections.length, s.ring.twinFar)

/-- The expected visit_count of a returned shuttle with a break_marker (R76, R375). -/
def expectVisits (n : Nat) (twin farEnd : Bool) (marker : Nat) : Nat :=
  let k := marker % 128
  if marker == 0 then (if twin then 2 * n + 1 else 2 * n - 1)
  else if farEnd then 2 * (n - k) + 1 else 2 * k - 1

/-- Record a break marker with its machine time and raise ring-break (R121, R123). -/
def recordBreak (s : State) (marker : Nat) : State :=
  let s := setBit (setF s Reg.RING_BREAK 7 0 marker) Reg.RING_BREAK 31 true
  let s := wr s Reg.RING_BREAK_TIME (word (nsOf (mtime s)))
  event (ringMod s fun r => { r with lastMark := some s.raw }) RING 8 (marker % 128) marker

/-- A shuttle came back with a break marker (R123): the node that it names loops back. -/
def reportBreak (s : State) (marker : Nat) : State := recordBreak (ringMod s fun r => { r with breakPos := marker }) marker

/-- This head's own line link is declared lost (R121): the marker names its own position and the side of the link. -/
def lineBreak (s : State) : State :=
  recordBreak (ringMod s fun r => { r with lineLost := true }) (if s.ring.farEnd then 0x7F else 0x80)

/-- The checks of the trailer of a returned shuttle (R73, R76, R123). -/
def returnTrailer (s : State) (t : List Byte) : State :=
  if t.length < 28 then s
  else
    let marker := byteAt t 2
    let s :=
      match expectN s with
      | none => s
      | some (n, twin) =>
        if field t 0 2 == expectVisits n twin s.ring.farEnd marker then s
        else event (bump s Reg.RING_VISIT_ERR_CNT) RING 0 (field t 0 2)
    let seen := field t 4 16
    let s :=
      if seen == 0 then s
      else
        let low := ((List.range 128).find? fun i => bit seen i).getD 0
        setF (bump s Reg.RING_FCS_SEEN_CNT) Reg.RING_ERR_SEEN_LAST 6 0 low
    if marker == 0 then s else reportBreak s marker

/-- The cross-trigger bits of a shuttle's header, and the stamp of its trailer where that came whole (R82, R83, R120). -/
def xtReport (s : State) (t : List Byte) (xtBits : Nat) : State :=
  let s := wr s Reg.RING_XT_IN ((rd s Reg.RING_XT_IN) ||| word xtBits)
  let stamped := 28 ≤ t.length && byteAt t 21 != 0xFF
  let s :=
    if stamped then
      let s := wr s Reg.RING_XT_STAMP0 (word (byteAt t 21 + byteAt t 20 % 16 * 256))
      wr s Reg.RING_XT_STAMP1 (word (field t 22 4))
    else s
  ((List.range 16).filter fun i => bit xtBits i).foldl (fun s i =>
    let exact := stamped && byteAt t 20 % 16 == i
    noteAt s 2 i (if exact then sgn 32 (field t 22 4) else 0) (!exact)) s

/-- The inputs that a payload gives: the axes fed locally, then every section in order (R22, R89, R312); where no shuttle of this
head's own came back, no unwritten section is counted (R123). -/
def takeInputs (s : State) (bs : List Byte) (counted : Bool := true) : State :=
  let s := localInputs (ringMod s fun r => { r with returned := true, subst := [], inPdus := [] }) bs
  ((carried s).foldl (fun (p : State × Nat) x =>
    (returnSection p.1 x (slice bs p.2 (sectionLen x)) counted, p.2 + sectionLen x)) (s, 64)).1

/-- The parts of a returned shuttle that came back, in order (R22, R89, R120). -/
def returnShuttle (s : State) (bs : List Byte) : State :=
  let hdr := slice bs 0 64
  let s := if field hdr 62 2 == crc16 (slice hdr 0 26 ++ slice hdr 28 34) then s else bump s Reg.RING_HDR_CRC_ERR_CNT
  let s := takeInputs s bs
  let so := svcOffset s
  let s := (List.range 16).foldl (fun s i => returnSlot s i (slice bs (so + 64 * i) 64)) s
  let t := slice bs (so + 1024) 28
  let s := returnTrailer s t
  if 28 ≤ hdr.length then xtReport s t (field hdr 26 2) else s

/-- No shuttle returned (R123): every section is substituted, counted only as a missing return. -/
def returnMissing (s : State) : State :=
  let s := ringMod s fun r => { r with returned := true, subst := [], inPdus := [], retake := true }
  let s := localInputs s []
  let s := (carried s).foldl (fun s x => takeSection s x [] 1 false) s
  event (bump s Reg.RING_RETURN_MISS_CNT) RING 7

/-! ### The minimum cycle -/

/-- T_min in ns, rounded up, with the measured round trip (R29, R30). (DEDUCED, log entry 80) -/
def tMin (s : State) : Nat :=
  500 + ceilDiv (payloadLen s * byteTime25 s * 16 + (rd s Reg.RING_RT).toNat * 25) 400 + tTail s + 300

/-- The floor of 20 µs applies: an FH2560-IE above +105 °C (R2, R31). SYS_TJ bits 15:0 hold the junction in 0.125 °C. -/
def hotFloor (s : State) : Bool :=
  fld s Reg.SYS_ORDER_CODE 0 0 == 1 && 840 < sgn 16 (fld s Reg.SYS_TJ 15 0)

/-- A cycle length in 125 ns steps is valid (R31), against T_min where it has been measured. -/
def cycleValid (s : State) (steps : Nat) : Bool :=
  80 ≤ steps && steps ≤ 8000 && !(hotFloor s && steps < 160) && (rd s Reg.SYS_TMIN).toNat ≤ steps * 125

/-! ### Integration -/

/-- The head's own ENUMERATE entry (R98, R110), as the head at position 127, which loops the frame back, or at position 0. Its transit
is the bound of R53, its image class 0 (DESIGN CHOICE, log entry 94). -/
def ownEntry (s : State) (far : Bool) : List Byte :=
  let b := leBytes 2 0x1F3C ++ leBytes 2 0x2560 ++ leBytes 2 (fld s Reg.SYS_STEPPING 15 0) ++ [if far then 0x07 else 0x05, 0] ++
    leBytes 8 (serial s) ++ leBytes 2 0 ++ [32] ++ zeros 3
  b ++ leBytes 2 (crc16 b)

/-- Send ENUMERATE (R98, R104). (DESIGN CHOICE, log entry 94) -/
def sendEnumerate (s : State) : State := sendMgmt s 0x03 0 (ownEntry s false ++ zeros (127 * 24))

/-- Send DELAY (R99, R104). -/
def sendDelay (s : State) : State := sendMgmt s 0x04 0 (zeros (128 * 16))

/-- One entry of the section table (R108). -/
def tableEntry (s : State) (x : Section) (off : Nat) (far : Bool) : List Byte :=
  let a := x.axes.length
  let win := wbits s.ring.startCfg 25 16
  let win := if 100 ≤ win && win ≤ 1000 then win else 250
  let len := 24 + ceilDiv a 4 * 4
  let h := [BitVec.ofNat 8 x.position, BitVec.ofNat 8 a] ++ leBytes 2 off ++
    leBytes 4 (tget (fun _ => 0) s.ring.d x.position) ++ leBytes 4 (tget (fun _ => 0) s.ring.e x.position) ++
    leBytes 2 win ++ [BitVec.ofNat 8 (flag far), 0] ++ leBytes 2 len ++ zeros 4
  let m := x.map.map fun c => BitVec.ofNat 8 c
  padTo len (h ++ leBytes 2 (crc16 (h ++ m)) ++ m)

/-- Send TABLE (R108): apply_cycle is 0 in integration. -/
def sendTable (s : State) (apply : Word) : State :=
  let n := s.ring.sections.length
  let es := ((s.ring.sections.foldl (fun (p : List Byte × Nat) x =>
    (p.1 ++ tableEntry s x p.2 (!s.ring.twinFar && x.position == n), p.2 + sectionLen x)) ([], 64)).1)
  let h := leBytes 2 s.ring.layoutId ++ [BitVec.ofNat 8 n, BitVec.ofNat 8 (flag s.ring.twinFar)] ++
    leBytes 8 (if s.ring.twinFar then s.twin.twinSerial.toNat else 0) ++ leBytes 4 apply.toNat ++ leBytes 2 es.length
  sendMgmt s 0x03 1 (h ++ leBytes 2 (crc16 h) ++ es)

/-- The worker entries of a returned ENUMERATE, from position 1 on while present with a good CRC. -/
def enumWorkers (body : List Byte) : List (List Byte) :=
  ((List.range 126).map fun i => slice body (24 * (i + 1)) 24).takeWhile fun e =>
    bit (byteAt e 6) 0 && field e 22 2 == crc16 (slice e 0 22)

/-- Whether entry 127 is a head. -/
def enumTwin (body : List Byte) : Bool :=
  let e := slice body (24 * 127) 24
  bit (byteAt e 6) 0 && bit (byteAt e 6) 2 && field e 22 2 == crc16 (slice e 0 22)

/-- The comparison of an enumeration with the ring topology record (R105). -/
def topoMatches (s : State) (body : List Byte) : Bool :=
  let ws := enumWorkers body
  let far := (ws.getLast?.map fun e => bit (byteAt e 6) 1).getD false
  ws.length == s.ring.topo.length && enumTwin body == s.ring.twinFar && (s.ring.twinFar || ws.isEmpty || far) &&
    (ws.zip s.ring.topo).all fun p =>
      field p.1 0 2 == p.2.vendor && field p.1 2 2 == p.2.product && p.2.axes ≤ byteAt p.1 7

/-- Take an agreed enumeration: compare it with the topology record (R105). (DEDUCED, log entry 26) -/
def takeEnum (s : State) (body : List Byte) : State :=
  let n := (enumWorkers body).length
  let s := ringMod s fun r => { r with agreedN := n, agreedTwin := enumTwin body }
  let s := setF s Reg.RING_STATE 14 8 n
  let far := ((enumWorkers body).getLast?.map fun e => flag (bit (byteAt e 6) 1)).getD 0
  let s := setF s Reg.RING_STATE 4 3 (if enumTwin body then 2 else far)
  if topoMatches s body then nextStep (ringMod s fun r => { r with mismatch := false }) 4
  else integFailed (event (ringMod s fun r => { r with mismatch := true }) RING 4)

/-- A returned ENUMERATE frame (R98, R104, R105). (DEDUCED, log entry 27) -/
def recvEnumerate (s : State) (f : List Byte) : State :=
  if ringSt s != 4 || field f 4 8 != serial s || 3 < s.ring.integ then s
  else
    let body := slice f 20 (128 * 24)
    let s := ringMod s fun r => { r with enums := r.enums ++ [body] }
    if s.ring.enums.length < 4 then s
    else
      let same := s.ring.enums.all fun e => e == body
      let s := ringMod s fun r => { r with enums := [] }
      if same then takeEnum s body else integFailed (restartInteg s)

/-- The Q_p, tf and tr that a returned DELAY frame gives (R99, R110); nothing if an entry fails its CRC. -/
def delayEntries (n : Nat) (twin : Bool) (q0 : Nat) (f : List Byte) : Option (List (Nat × Nat × Nat × Nat)) :=
  let ps := (List.range n).map (· + 1) ++ (if twin then [127] else [])
  ps.foldl (fun acc p =>
    match acc with
    | none => none
    | some l =>
      let e := slice f (20 + 16 * p) 16
      if bit (byteAt e 8) 0 && field e 14 2 == crc16 (slice e 0 14) then
        let far := p == 127 || (!twin && p == n)
        some (l ++ [(p, field e 0 4, field e 4 2, if far then 0 else field e 6 2)])
      else none) (some [(0, q0, 0, 0)])

/-- The mean of Q_p over the sets, rounded down (DESIGN CHOICE, log entry 93), and whether every spread is within 8 ns (R112). -/
def meanQ (sets : List (Table Nat)) (p : Nat) : Nat × Bool :=
  let vs := sets.map fun t => tget (fun _ => 0) t p
  let lo := vs.foldl min (vs.headD 0)
  let hi := vs.foldl max 0
  (vs.foldl (· + ·) 0 / vs.length, hi - lo ≤ 128)

/-- The positions from the head outward: 0, the workers, and 127 with a twin. -/
def positions (n : Nat) (twin : Bool) : List Nat := List.range (n + 1) ++ (if twin then [127] else [])

/-- The asymmetry of the link toward end 0 of the i-th node outward, in 1/16 ns. -/
def kappa (s : State) (i : Nat) : Int :=
  if i ≤ s.ring.topo.length then ((s.ring.topo.getD (i - 1) {}).kappa) else s.ring.kappaFar

/-- D_k and E_k of every worker, in 1/16 ns (R111), from Q, tf and tr by position; rounded down, and 0 where they come out negative
(DESIGN CHOICE, log entry 93). -/
def linkDelays (s : State) (q tf tr : Nat → Int) (n : Nat) (twin : Bool) : List (Nat × Nat × Nat) :=
  let ps := positions n twin
  let at' (i : Nat) := ps.getD i 0
  let twoL (j : Nat) : Int := q (at' (j - 1)) - q (at' j) - (if j == 1 then 0 else tf (at' (j - 1))) - tr (at' j)
  let lr2 (j : Nat) : Int := twoL j - kappa s j
  let lf2 (j : Nat) : Int := twoL j + kappa s j
  (List.range n).map fun i =>
    let k := i + 1
    let d2 := (List.range k).foldl (fun x j => x + lf2 (j + 1)) 0 + 2 * (List.range (k - 1)).foldl (fun x j => x + tf (at' (j + 1))) 0
    let e2 := if twin then
        ((List.range (n + 1 - k)).foldl (fun x j => x + lr2 (k + 1 + j)) 0) +
          2 * (List.range (n - k)).foldl (fun x j => x + tr (at' (k + 1 + j))) 0
      else 0
    (k, (Int.fdiv d2 2).toNat, (Int.fdiv e2 2).toNat)

/-- A table from pairs. -/
def tableOf (l : List (Nat × Nat)) : Table Nat := l.foldl (fun t p => tput (fun _ => 0) t p.1 p.2) []

/-- The delays of 16 consistent DELAY frames: Q, D and E by position; nothing where a spread fails. -/
def consistent (s : State) (sets : List (Table Nat)) : Option (Table Nat × Table Nat × Table Nat) :=
  let n := s.ring.agreedN
  let ps := positions n s.ring.agreedTwin
  let ms := ps.map fun p => (p, meanQ sets p)
  if ms.all fun m => m.2.2 then
    let qt := tableOf (ms.map fun m => (m.1, m.2.1))
    let g (t : Table Nat) (p : Nat) : Int := (tget (fun _ => 0) t p : Nat)
    let de := linkDelays s (g qt) (g s.ring.tf) (g s.ring.tr) n s.ring.agreedTwin
    some (qt, tableOf (de.map fun x => (x.1, x.2.1)), tableOf (de.map fun x => (x.1, x.2.2)))
  else none

/-- Show the delays of the selected position (R126). -/
def showNode (s : State) : State :=
  let p := fld s Reg.RING_NODE_SEL 6 0
  let s := wr s Reg.RING_NODE_FWD (word (tget (fun _ => 0) s.ring.d p))
  let s := wr s Reg.RING_NODE_REV (word (tget (fun _ => 0) s.ring.e p))
  wr s Reg.RING_NODE_Q (word (tget (fun _ => 0) s.ring.q p))

/-- Put measured delays in force (R111, R112). (DEDUCED, log entry 26) (DESIGN CHOICE, log entry 93) -/
def takeDelays (s : State) (x : Table Nat × Table Nat × Table Nat) : State :=
  let s := ringMod s fun r => { r with q := x.1, d := x.2.1, e := x.2.2 }
  showNode (wr s Reg.RING_RT (word (tget (fun _ => 0) x.1 0)))

/-- Evaluate t_tail and T_min (R28, R30). (DEDUCED, log entry 80) -/
def evalTmin (s : State) : State :=
  let s := showTail s
  wr s Reg.SYS_TMIN (word (tMin s))

/-- End a RING_CTRL action with a result. -/
def ctrlDone (s : State) (result : Nat) : State :=
  setBit (setF s Reg.RING_CTRL_STATUS 3 1 result) Reg.RING_CTRL_STATUS 0 false

/-- End a recalibration: the token is given up (R113, R475). -/
def recalEnd (s : State) (result : Nat) : State :=
  let s := maintRel (ringMod s fun r => { r with recal := none }) 4
  if fbit s Reg.RING_CTRL_STATUS 0 && fld s Reg.RING_CTRL_STATUS 5 4 == 2 then ctrlDone s result else s

/-- Every delay changed by 50 ns or less (R113). -/
def smallChange (s : State) (x : Table Nat × Table Nat × Table Nat) : Bool :=
  (List.range s.ring.agreedN).all fun i =>
    let near (a b : Nat) : Bool := a - b ≤ 800 && b - a ≤ 800
    near (tget (fun _ => 0) x.2.1 (i + 1)) (tget (fun _ => 0) s.ring.d (i + 1)) &&
      near (tget (fun _ => 0) x.2.2 (i + 1)) (tget (fun _ => 0) s.ring.e (i + 1))

/-- A returned DELAY frame with the measured Q_0 (R110-R113). -/
def recvDelay (s : State) (f : List Byte) (q0 : Nat) : State :=
  if field f 4 8 != serial s then s
  else
    match delayEntries s.ring.agreedN s.ring.agreedTwin q0 f with
    | none => s
    | some es =>
      let qt := tableOf (es.map fun e => (e.1, e.2.1))
      let keep (s : State) : State :=
        ringMod s fun r => { r with tf := tableOf (es.map fun e => (e.1, e.2.2.1)), tr := tableOf (es.map fun e => (e.1, e.2.2.2)) }
      if ringSt s == 4 then
        let s := keep (ringMod s fun r => { r with delaySets := r.delaySets ++ [qt] })
        if s.ring.delaySets.length < 16 then s
        else
          match consistent s s.ring.delaySets with
          | some x => takeDelays (nextStep (ringMod s fun r => { r with delaySets := [], setFails := 0 }) 20) x
          | none =>
            let s := nextStep (ringMod s fun r => { r with delaySets := [], setFails := r.setFails + 1 }) 4
            if s.ring.setFails < 3 then s else integFailed (restartInteg (event s RING 6))
      else
        match s.ring.recal with
        | none => s
        | some rc =>
          let s := keep s
          let sets := rc.sets ++ [qt]
          if sets.length < 16 then ringMod s fun r => { r with recal := some { rc with sets := sets } }
          else
            match consistent s sets with
            | none =>
              if 2 ≤ rc.fails then recalEnd s 5
              else ringMod s fun r => { r with recal := some { rc with sets := [], fails := rc.fails + 1 } }
            | some x =>
              if smallChange s x then recalEnd (sendTable (evalTmin (takeDelays s x)) (s.cyc.count + 16)) 1 else recalEnd s 5

/-- A recalibration has not collected 16 frames within 4,096 cycles (R113). (DEDUCED, log entry 79) -/
def recalTimeout (s : State) : State :=
  match s.ring.recal with
  | none => s
  | some rc => if 4096 ≤ (s.cyc.count - rc.start).toNat then recalEnd s 5 else s

/-- Start a recalibration that holds the token. (DEDUCED, log entry 79) -/
def recalStart (s : State) : State :=
  ringMod s fun r => { r with recal := some { start := s.cyc.count }, recalWanted := false }

/-- Whether a DELAY frame, with its FCS, fits behind the shuttle of this cycle (R113): times in ns times 25. -/
def delayFits (s : State) : Bool :=
  let delayBytes := 20 + 128 * 16 + 4
  (500 + 20) * 25 + (payloadLen s + delayBytes) * byteTime25 s + ceilDiv ((rd s Reg.RING_RT).toNat * 25) 16 ≤ cycleNs s * 25

/-- Send REJOIN naming positions (R98). -/
def sendRejoin (s : State) (ps : List Nat) : State :=
  sendMgmt s 0x03 2 (BitVec.ofNat 8 ps.length :: ps.map (fun p => BitVec.ofNat 8 p))

/-- A recalibration follows when the arbiter allows it (R124, R379). -/
def wantRecal (s : State) : State :=
  let m := maintReq s 4
  if m.1 then recalStart m.2 else ringMod m.2 fun r => { r with recalWanted := true }

/-- The REJOIN that heal or auto_heal asked for goes out behind a shuttle, and a recalibration follows (R124). -/
def rejoinOut (s : State) : State :=
  let s := sendRejoin (ringMod s fun r => { r with rejoin := [], breakPos := 0 }) s.ring.rejoin
  wantRecal (if fbit s Reg.RING_CTRL_STATUS 0 && fld s Reg.RING_CTRL_STATUS 5 4 == 1 then ctrlDone s 1 else s)

/-- Integration completes (R30, R31, R107): the head learns it from the return of shuttle i. (DEDUCED, log entry 26) -/
def integDone (s : State) : State :=
  let s := evalTmin (wr (ringMod s fun r => { r with complete := true, allWrite := true }) Reg.RING_INTEG_LEN (word s.ring.integCycles))
  if cycleValid s s.cyc.operating then s else event s RING 1

/-- What the leader does behind a fully returned shuttle (R104, R107, R113, R124). allGood: every section came back written, ready,
with in_crc valid and window_violation clear. -/
def behindShuttle (s : State) (allGood : Bool) : State :=
  if ringSt s == 4 then
    let i := s.ring.integ
    if i ≤ 3 then (if s.ring.mismatch then s else sendEnumerate s)
    else if i ≤ 19 then sendDelay s
    else if i == 20 then sendTable s 0
    else if allGood && 256 ≤ s.ring.integCycles then integDone s
    else if allGood then ringMod s fun r => { r with allWrite := true }
    else if (i - 20) % 16 == 0 && !s.ring.allWrite then sendTable s 0
    else s
  else if !s.ring.rejoin.isEmpty then rejoinOut s
  else if s.ring.recal.isSome && delayFits s then sendDelay s
  else s

/-- Integration has not completed after 4,096 cycles (R107). -/
def integTimeout (s : State) : State :=
  if ringSt s == 4 && 4096 ≤ s.ring.integCycles then
    restartInteg (integFailed (event s RING 5))
  else s

/-- The four ENUMERATE again while a mismatch stands, 1,024 integration cycles after the last (R105). (DEDUCED, log entry 27) -/
def topoRecheck (s : State) : State :=
  if ringSt s == 4 && s.ring.mismatch && 1024 ≤ s.ring.integCycles - s.ring.enumAt then
    ringMod s fun r => { r with mismatch := false, integ := 0, enums := [], enumAt := r.integCycles }
  else s

/-- The ring's part of a latch instant: integration advances, completes into IDLE, and the break flag ages (R104, R107,
R126). -/
def ringLatch (s : State) : State :=
  let s :=
    if ringSt s == 4 then
      let s := ringMod s fun r => { r with integCycles := r.integCycles + 1 }
      if s.ring.complete then enterRing (ringMod s fun r => { r with complete := false }) 5
      else if s.ring.retake || s.ring.mismatch || s.ring.integ == 3 || s.ring.integ == 19 then
        ringMod s fun r => { r with retake := false }
      else ringMod s fun r => { r with integ := r.integ + 1 }
    else s
  match s.ring.lastMark with
  | some m => if 100000000 < s.raw - m then setBit s Reg.RING_BREAK 31 false else s
  | none => s

/-! ### Links, claims and other heads -/

/-- The lock bit of a ring port. -/
def lockBit (port : Bool) : Nat := flag port

/-- The line port is known: the other ring port is powered down, and with it its lock (R53). -/
def otherDown (s : State) : State :=
  if s.ring.lineFound then setBit s Reg.RING_LINK_STATUS (lockBit (!s.ring.lineB)) false else s

/-- Where the configuration names no line port, the cold start takes the port that gains lock first (R53, R91; DESIGN CHOICE, log entry
92). -/
def nameLine (s : State) (port : Bool) : State :=
  if s.ring.lineFound then s else driveTxdis (otherDown (ringMod s fun r => { r with lineB := port, lineFound := true }))

/-- The line port holds lock: RING_LINK_STATUS shows its rate and which port it is. (DESIGN CHOICE, log entry 92) -/
def lineUp (s : State) (port : Bool) : State :=
  ringMod (setBit (setF s Reg.RING_LINK_STATUS 3 2 (wbits s.ring.linkCfg 1 0)) Reg.RING_LINK_STATUS 4 port) fun r =>
    { r with lineLost := false, lockRaw := s.raw }

/-- Block lock gained on a port (R93, R120): on the line port a head in DOWN whose configuration is in force begins to listen; a port
that is powered down gains none (R53). -/
def linkLock (s : State) (port : Bool) : State :=
  if !s.sec.applied then setBit s Reg.RING_LINK_STATUS (lockBit port) true
  else if s.ring.lineFound && port != s.ring.lineB then s
  else
    let t := lineUp (nameLine (setBit s Reg.RING_LINK_STATUS (lockBit port) true) port) port
    if ringSt t == 0 then enterListen t else t

/-- A link is declared lost (R93, R120, R121). A head in LISTEN or CLAIM has no position yet to name. -/
def linkLoss (s : State) (port : Bool) : State :=
  let s := setBit s Reg.RING_LINK_STATUS (lockBit port) false
  if !s.ring.lineFound || port != s.ring.lineB then s
  else
    let st := ringSt s
    if st == 3 then enterRing (lineBreak s) 0
    else if 4 ≤ st then lineBreak s
    else if st == 0 then s
    else enterRing s 0

/-- What a leading head does on a frame of another head (R103). -/
def hearHead (s : State) (sup : Bool) : State :=
  if !sup then s
  else if ringSt s == 6 then event (ringMod s fun r => { r with mustWithdraw := true }) RING 3
  else if leads s then withdraw s 1
  else s

/-- A received CLAIM (R101-R103). -/
def recvClaim (s : State) (f : List Byte) : State :=
  if !mgmtOk s f then s
  else
    let r := byteAt f 3 % 8
    let ser := field f 4 8
    let s := if field (mgmtBody f) 0 4 == s.ring.cfgHash.toNat then s else event s RING 2
    let sup := superior r ser (rank s) (serial s)
    match ringSt s with
    | 1 => if sup then enterFollow s ser else enterClaim s
    | 2 =>
      if sup then
        let s := sendMgmt s 0x05 0 (leBytes 8 ser)
        enterFollow (bump s Reg.RING_CLAIM_LOST_CNT) ser
      else s
    | _ => hearHead s sup

/-- A SHUTTLE launched by another head (R101, R103): its header gives the rank and the low half of the serial. (DEDUCED, log entry 79) -/
def recvForeign (s : State) (f : List Byte) : State :=
  let r := byteAt f 25 % 8
  let ser := field f 28 4
  match ringSt s with
  | 1 => enterFollow s ser
  | 3 => s
  | _ => if ser == serial s % 2 ^ 32 then s else hearHead s (superior r ser (rank s) (serial s % 2 ^ 32))

/-- A received RING_STOP (R97, R103). In RUN the repeat of integration waits until no axis is enabled (DEDUCED, log entry 97). -/
def recvRingStop (s : State) (f : List Byte) : State :=
  if !mgmtOk s f then s
  else
    let ser := field f 4 8
    if ringSt s == 3 then (if ser % 2 ^ 32 == s.ring.leader.toNat % 2 ^ 32 then enterListen s else s)
    else if superior (byteAt f 3 % 8) ser (rank s) (serial s) then s
    else if ringSt s == 4 || ringSt s == 5 then enterIntegrate s
    else if ringSt s == 6 then ringMod s fun r => { r with mustRepeat := true }
    else s

/-- A received WITHDRAW YIELD is noted (R97). -/
def recvYield (s : State) (f : List Byte) : State :=
  if mgmtOk s f then ringMod s fun r => { r with yielded := BitVec.ofNat 64 (field (mgmtBody f) 0 8) } else s

/-- A frame of another head with a new payload: its source address stays (R54). -/
def relay (s : State) (ser : Nat) (payload : List Byte) : State :=
  let f := ringDest ++ (2 :: beBytes 5 ser) ++ [0x88, 0xB5] ++ padTo 46 payload
  if transmits s then emit s (.ring (f ++ fcsBytes f)) else s

/-- A DISCOVER or DELAY frame of another head (R98, R99, R103): a head at position 127 fills its entry of an ENUMERATE or
DELAY frame and turns the frame around. (DEDUCED, log entry 79) -/
def recvManagement (s : State) (f : List Byte) (turnaround : Nat) : State :=
  if !mgmtOk s f then s
  else if leads s then
    (if byteAt f 0 == 0x03 then hearHead s (superior (byteAt f 3 % 8) (field f 4 8) (rank s) (serial s)) else s)
  else if byteAt f 0 == 0x03 && byteAt f 2 == 0 then relay s (field f 4 8) (patch f (20 + 24 * 127) (ownEntry s true))
  else if byteAt f 0 == 0x04 then
    let b := leBytes 4 turnaround ++ zeros 4 ++ [0x03] ++ zeros 5
    relay s (field f 4 8) (patch f (20 + 16 * 127) (b ++ leBytes 2 (crc16 b)))
  else relay s (field f 4 8) f

/-- A leader that heard a superior head withdraws once no axis is enabled (R103). -/
def deferredWithdraw (s : State) : State :=
  if s.ring.mustWithdraw && leads s && !anyEnabled s then withdraw s 1 else s

/-- A frame passes through the head (R54, R56, R72, R73); an FCS failure is marked in the next shuttle. -/
def forwardFrame (s : State) (f : List Byte) (fcsOk : Bool) : State :=
  let s := if fcsOk then s else ringMod s fun r => { r with errSeen := true }
  if slice f 0 6 == ringDest && beField f 12 2 == 0x88B5 && transmits s then emit s (.ring (f ++ fcsBytes f)) else s

/-! ### RING_CTRL -/

/-- Begin a RING_CTRL action. -/
def ctrlStart (s : State) (action : Nat) : State :=
  setBit (setF s Reg.RING_CTRL_STATUS 5 4 action) Reg.RING_CTRL_STATUS 0 true

/-- Heal (R124, R126): the action ends with the REJOIN behind the next shuttle. How the head learns that the lost port of the looping node
has held lock for 10 ms is stated nowhere: a free value (DESIGN CHOICE, log entry 5). -/
def heal (s : State) : State :=
  let s := ctrlStart s 1
  if ringSt s != 5 && ringSt s != 6 then ctrlDone s 6
  else if s.ring.breakPos == 0 || twinSt s == 5 || s.ring.lineLost || s.raw - s.ring.lockRaw < 10000000 then ctrlDone s 4
  else if freeVal 1 s == 0 then ctrlDone (drawn s) 4
  else ringMod (drawn s) fun r => { r with rejoin := [r.breakPos % 128] }

/-- Delay recalibration by command (R113, R126). -/
def delayRecal (s : State) : State :=
  let s := ctrlStart s 2
  if ringSt s != 5 && ringSt s != 6 then ctrlDone s 6
  else
    let m := maintReq s 4
    if m.1 then recalStart m.2 else ctrlDone m.2 3

/-- Take up the link and start configuration at a cold start (R52, R53, R91, R100, R126). Where line_port names none, a port that holds
lock is the line port, A before B; a reserved line_port stands for port A, a reserved rate for 25GBASE-R (DESIGN CHOICE, log entry 92). -/
def coldStart (s : State) : State :=
  let named := fld s Reg.RING_LINK_CFG 3 2
  let a := fbit s Reg.RING_LINK_STATUS 0
  let b := fbit s Reg.RING_LINK_STATUS 1
  let s := ringMod s fun r =>
    { r with linkCfg := rd s Reg.RING_LINK_CFG
             startCfg := rd s Reg.RING_START_CFG
             lineB := if named == 2 then !a && b else named == 1
             lineFound := named != 2 || a || b }
  let s := setBit (setF s Reg.RING_LINK_STATUS 3 2 (wbits s.ring.linkCfg 1 0)) Reg.RING_LINK_STATUS 4 s.ring.lineB
  showTail (driveTxdis (otherDown s))

/-- Ring restart (R126): where the line port that the configuration now names has no lock, the head waits for it in DOWN (R93). -/
def ringRestart (s : State) : State :=
  let s := ctrlStart s 3
  if anyEnabled s then ctrlDone s 2
  else
    let s := coldStart (withdraw s 2)
    ctrlDone (if fbit s Reg.RING_LINK_STATUS (lockBit s.ring.lineB) then s else enterRing s 0) 1

/-- A write of RING_CTRL as it lands (R126): the highest bit set acts; ignored while busy. -/
def landRingCtrl (s : State) (v : Word) : State :=
  let s := okBus s
  if fbit s Reg.RING_CTRL_STATUS 0 then s
  else if wbit v 2 then ringRestart s
  else if wbit v 1 then delayRecal s
  else if wbit v 0 then heal s
  else s

/-- Auto-heal (R124): a break stood and no marker has appeared for 100 ms. -/
def autoHeal (s : State) : State :=
  match s.ring.lastMark with
  | some m =>
    if wbit s.ring.startCfg 4 && s.ring.breakPos != 0 && 100000000 ≤ s.raw - m && (ringSt s == 5 || ringSt s == 6) &&
        !s.ring.lineLost then
      ringMod s fun r => { r with rejoin := [r.breakPos % 128] }
    else s
  | none => s

/-- A RING commit as it lands (R91): refused at once on a bad field, else pending for the next latch instant. -/
def landRingCommit (s : State) : State :=
  let g := fld s Reg.RING_AGE_CFG 2 0
  if g < 1 || 6 < g || fld s Reg.RING_SVC_CFG 15 0 == 0 then okBus (setF s Reg.RING_BASTE_STATUS 3 1 2)
  else okBus (setBit s Reg.RING_BASTE_STATUS 0 true)

/-- The commit point of a pending RING commit. -/
def applyRing (s : State) : State :=
  if fbit s Reg.RING_BASTE_STATUS 0 then
    setF (setBit (applyBaste s [Reg.RING_AGE_CFG, Reg.RING_SVC_CFG]) Reg.RING_BASTE_STATUS 0 false) Reg.RING_BASTE_STATUS 3 1 1
  else s

/-- A write of RING_XT_OUT as it lands (R82). -/
def landXtOut (s : State) (v : Word) : State :=
  okBus (ringMod s fun r => { r with xt := r.xt ||| BitVec.ofNat 16 v.toNat })

end Sys2Proof.Machine
end

