-- ==== Sys2Proof/Machine/Ptp.lean ====
section
/-! DEFINITION. PTP messages, the head's roles and the launch-at-time queues of the host ports (R140-R148). -/

namespace Sys2Proof.Machine

/-! ### PTP frames -/

/-- Where the PTP message of a MAC frame starts, and where its UDP checksum stands if it has one. (PRESUMED, log entry 91) -/
def ptpAt (f : List Byte) : Option (Nat × Option Nat) :=
  let v := if beField f 12 2 == 0x8100 then 4 else 0
  let et := beField f (12 + v) 2
  let o := 14 + v
  if et == 0x88F7 then some (o, none)
  else if et == 0x0800 && byteAt f (o + 9) == 17 then
    let u := o + byteAt f o % 16 * 4
    let p := beField f (u + 2) 2
    if p == 319 || p == 320 then some (u + 8, some (u + 6)) else none
  else none

/-- Add to the correctionField, in 2^-16 ns, and zero a UDP checksum (R144, R145, R147). -/
def addCorrection (f : List Byte) (d : Int) : List Byte :=
  match ptpAt f with
  | none => f
  | some (o, ck) =>
    let c := sgn 64 (beField f (o + 8) 8) + d
    let f := patch f (o + 8) (beBytes 8 (unsg 64 c))
    match ck with
    | none => f
    | some u => patch f u [0, 0]

/-- The ingress timestamp of a PTP event message (R143): machine time for the domain of TIME_PTP_CFG, else the domain counter of its
domainNumber, else machine time (DESIGN CHOICE, log entry 95). (PRESUMED, log entry 91) -/
def ptpStamp (s : State) (dom : Nat) : Nat :=
  if dom == actF s Reg.TIME_PTP_CFG 15 8 then mtime s
  else
    match [1, 2, 3].find? (fun k => fbit s (Reg.TIME_DOM_CFG k) 0 && fld s (Reg.TIME_DOM_CFG k) 15 8 == dom) with
    | some k => (domc s k).read s.raw
    | none => mtime s

/-- Whether the profile in force takes a message of a port by its transport (R140); a reserved profile acts as off (DESIGN CHOICE, log
entry 95). -/
def ptpTakes (s : State) (port : Nat) (udp : Bool) : Bool :=
  match actF s Reg.TIME_PTP_CFG 1 0 with
  | 1 => true
  | 2 => !udp && port == actF s Reg.TIME_PTP_CFG 3 3
  | _ => false

/-! ### The head's own messages -/

/-- A PTP message of the head over IEEE 802.3: type, domain, sequenceId, correctionField and what follows the header. (PRESUMED, log
entry 91) -/
def ptpMessage (s : State) (type dom seq : Nat) (correction : Int) (body : List Byte) : List Byte :=
  let gptp := actF s Reg.TIME_PTP_CFG 1 0 == 2
  let dest : List Byte := if gptp then [0x01, 0x80, 0xC2, 0x00, 0x00, 0x0E] else [0x01, 0x1B, 0x19, 0x00, 0x00, 0x00]
  dest ++ stationAddr s ++ [0x88, 0xF7] ++ [BitVec.ofNat 8 (type + 16 * flag gptp), 0x12] ++ beBytes 2 (34 + body.length) ++
    [BitVec.ofNat 8 dom, 0, 0, 0] ++ beBytes 8 (unsg 64 correction) ++ zeros 4 ++ beBytes 8 (serial s) ++ [0, 1] ++ beBytes 2 seq ++
    [0, 0x7F] ++ body

/-- A timestamp as PTP writes it: seconds in 6 bytes, nanoseconds in 4. (PRESUMED, log entry 91) -/
def ptpTime (t : Nat) : List Byte := beBytes 6 (secOf t) ++ beBytes 4 (nsOf t)

/-! ### Launch-at-time -/

/-- A launch-at-time queue. -/
def tqueue (s : State) (port q : Nat) : List TimedEntry := tget (fun _ => []) s.time.tq (2 * port + q)

/-- Store a launch-at-time queue. -/
def setTq (s : State) (port q : Nat) (x : List TimedEntry) : State :=
  { s with time := { s.time with tq := tput (fun _ => []) s.time.tq (2 * port + q) x } }

/-- Whether a queue takes an entry (R148): 32 entries in ascending launch time. -/
def tqTakes (s : State) (port q : Nat) (e : TimedEntry) : Bool :=
  let x := tqueue s port q
  x.length < 32 && (match x.getLast? with | none => true | some l => l.time ≤ e.time)

/-- Queue an entry. -/
def tqPush (s : State) (port q : Nat) (e : TimedEntry) : State := setTq s port q (tqueue s port q ++ [e])

/-- The time of a maximum-length frame at a port's rate (R148): 9,022 B (R539) with preamble and gap; SGMII counts as 1,000 Mb/s
(DESIGN CHOICE, log entry 96). -/
def maxFrame (s : State) (port : Nat) : Nat :=
  9042 * (if fld s Reg.HOST_STATUS (11 + 2 * port) (10 + 2 * port) == 1 then 4 * nsU / 5 else 8 * nsU)

/-- A launch time is so near that the port starts no untimed frame (R148). (DESIGN CHOICE, log entry 96) -/
def txBlocked (s : State) (port : Nat) : Bool :=
  [0, 1].any fun q => match tqueue s port q with
    | [] => false
    | e :: _ => e.time ≤ mtime s + maxFrame s port

/-- The untimed frames that wait behind a launch time. -/
def heldTx (s : State) (port : Nat) : List (List Byte) := tget (fun _ => []) s.time.heldTx port

/-- Store the frames that wait. -/
def setHeldTx (s : State) (port : Nat) (fs : List (List Byte)) : State :=
  { s with time := { s.time with heldTx := tput (fun _ => []) s.time.heldTx port fs } }

/-- An untimed frame leaves a host port, or waits behind a launch time (R148). -/
def sendEth (s : State) (port : Fin 2) (f : List Byte) : State :=
  if txBlocked s port then setHeldTx s port (heldTx s port ++ [f]) else emit s (.eth port f)

/-- The frames that waited go out once no launch time is near (R148). -/
def flushTx (s : State) (port : Fin 2) : State :=
  if txBlocked s port then s else (heldTx s port).foldl (fun s f => emit s (.eth port f)) (setHeldTx s port [])

/-- Which of the frames whose launch error is folded a frame is (R145, R146): 1 Delay_Req, 2 Pdelay_Req, 0 another. -/
def ptpKind (f : List Byte) : Nat :=
  match ptpAt f with
  | none => 0
  | some (o, _) => if byteAt f o % 16 == 1 || byteAt f o % 16 == 2 then byteAt f o % 16 else 0

/-- Another entry of the port goes first (R148): one with an earlier launch time, or TQ0 before TQ1 at the same time. -/
def goesFirst (s : State) (port q : Nat) (e : TimedEntry) : Bool :=
  match tqueue s port (1 - q) with
  | [] => false
  | o :: _ => o.time < e.time || (o.time == e.time && q == 1)

/-- The entry at the front of a queue falls due (R148): its frame starts with a launch error in 2^-16 ns, or it is late.
Answers the request that waits for it, if any, with its payload or nothing where the frame was dropped. (DEDUCED, log entry 78) -/
def launchTimed (s : State) (port : Fin 2) (q : Nat) (err : Word) : State × Option (Nat × Option (List Byte)) :=
  match tqueue s port.val q with
  | [] => (s, none)
  | e :: rest =>
    let now := mtime s
    if now < e.time || goesFirst s port q e then (s, none)
    else
      let s := setTq s port.val q rest
      let late := e.time + 1000 * nsU < now
      let s := if late then event (bump s Reg.TIME_LAUNCH_LATE_CNT) TIME 7 (2 * port.val + q) else s
      if late && e.drop then (flushTx s port, e.req.map fun r => (r, none))
      else
        let d : Int := if late then (now : Int) - e.time else err.toInt
        let f := if e.ptp == 1 then addCorrection e.frame d else e.frame
        let s :=
          if e.ptp == 2 then
            match ptpAt f with
            | none => s
            | some (o, _) => { s with time := { s.time with pdelay := tput (fun _ => 0) s.time.pdelay (beField f (o + 30) 2) d } }
          else s
        let s := flushTx (emit s (.timed port f (BitVec.ofInt 32 d))) port
        let t := ((e.time : Int) + d).toNat
        (s, e.req.map fun r => (r, some (leBytes 4 (nsOf t) ++ leBytes 4 (unsg 32 d))))

/-- The head queues its Delay_Req or Pdelay_Req on TQ0 for a whole nanosecond of machine time (R145, R146, R148): the interval and the
lead are stated nowhere (DESIGN CHOICE, log entry 96). -/
def ptpRequest (s : State) : State :=
  let gptp := actF s Reg.TIME_PTP_CFG 1 0 == 2
  let slave := actF s Reg.TIME_PTP_CFG 1 0 == 1 && !fbit s Reg.TIME_STATE 6
  if !(gptp || slave) || s.raw - s.time.reqRaw < Config.ptpInterval then s
  else
    let t := (mtime s / nsU + Config.ptpLead) * nsU
    let port := if gptp then actF s Reg.TIME_PTP_CFG 3 3 else s.time.syncPort
    let body := ptpTime t ++ (if gptp then zeros 10 else [])
    let f := ptpMessage s (if gptp then 2 else 1) (actF s Reg.TIME_PTP_CFG 15 8) s.time.reqSeq 0 body
    let e : TimedEntry := { time := t, frame := padTo 60 f, ptp := if gptp then 2 else 1 }
    let s := { s with time := { s.time with reqRaw := s.raw, reqSeq := (s.time.reqSeq + 1) % 65536 } }
    if tqTakes s port 0 e then tqPush s port 0 e else s

/-! ### Event messages -/

/-- The local master answers a Delay_Req with its ingress timestamp (R147). (PRESUMED, log entry 91) -/
def delayResp (s : State) (port : Fin 2) (f : List Byte) (o t : Nat) : State :=
  sendEth s port (ptpMessage s 9 (byteAt f (o + 4)) (beField f (o + 30) 2) (sgn 64 (beField f (o + 8) 8)) (ptpTime t ++ slice f (o + 20) 10))

/-- A peer's Pdelay_Req is answered one-step, with the turnaround, which the model leaves free, added to correctionField (R146).
(PRESUMED, log entry 91) (DESIGN CHOICE, log entry 5) -/
def pdelayResp (s : State) (port : Fin 2) (f : List Byte) (o : Nat) : State :=
  let c := sgn 64 (beField f (o + 8) 8) + (freeVal 48 s).toNat
  sendEth (drawn s) port (ptpMessage s 3 (byteAt f (o + 4)) (beField f (o + 30) 2) c (zeros 10 ++ slice f (o + 20) 10))

/-- A received PTP event message goes to firmware with its timestamp (R140, R143, R146), and is answered where the head serves it.
(DESIGN CHOICE, log entry 95) -/
def ptpEventRx (s : State) (port : Fin 2) (f : List Byte) : State :=
  match ptpAt f with
  | none => s
  | some (o, ck) =>
    if !ptpTakes s port ck.isSome then s
    else
      let gptp := actF s Reg.TIME_PTP_CFG 1 0 == 2
      let type := byteAt f o % 16
      let t := ptpStamp s (byteAt f (o + 4))
      let e : Int := if gptp && type == 3 then tget (fun _ => 0) s.time.pdelay (beField f (o + 30) 2) else 0
      let s := emit s (.ptp port ((t : Int) - e).toNat f)
      if type == 0 then { s with time := { s.time with syncPort := port } }
      else if type == 1 && !gptp && fbit s Reg.TIME_STATE 6 then delayResp s port f o t
      else if type == 2 && gptp then pdelayResp s port f o
      else s

/-- A PTP event message forwarded between the host ports (R144); the residence is in 2^-16 ns. -/
def transparent (s : State) (port : Fin 2) (f : List Byte) (residence : Nat) : State :=
  let other : Fin 2 := if port == 0 then 1 else 0
  if actF s Reg.TIME_PTP_CFG 4 4 == 1 && actF s Reg.TIME_PTP_CFG 1 0 == 1 && (ptpAt f).isSome then
    let s := wr s Reg.TIME_TC_RES_MAX (word (max (rd s Reg.TIME_TC_RES_MAX).toNat (min (residence / nsU) 0xFFFFFFFF)))
    sendEth s other (addCorrection f residence)
  else if actF s Reg.TIME_PTP_CFG 1 0 == 2 then s
  else sendEth s other f

/-- A one-step Sync of the local master, stamped on the fly (R147). -/
def syncSend (s : State) (port : Fin 2) (f : List Byte) : State :=
  if !fbit s Reg.TIME_STATE 6 then s
  else
    match ptpAt f with
    | none => s
    | some (o, ck) =>
      if !ptpTakes s port ck.isSome then s
      else
        let t := mtime s
        sendEth s port (addCorrection (patch f (o + 34) (ptpTime t)) (fracOf t))

/-- An Announce message's data set as a list compared in order: priority1, class, accuracy, variance, priority2, identity.
(PRESUMED, log entry 91) -/
def announceSet (f : List Byte) (o : Nat) : List Nat :=
  [byteAt f (o + 47), byteAt f (o + 48), byteAt f (o + 49), beField f (o + 50) 2, byteAt f (o + 52), beField f (o + 53) 8]

/-- Lexicographic order of data sets: lower is better. -/
def better : List Nat → List Nat → Bool
  | a :: as, b :: bs => a < b || (a == b && better as bs)
  | _, _ => false

/-- The head's own data set (R141): accuracy, variance and priority2 are not stated and are free values, at widths that
no draw of State.free uses. -/
def ownSet (s : State) : List Nat :=
  [actF s Reg.TIME_PTP_CFG 23 16, 248, (Config.free 9 1).toNat % 256, (Config.free 17 2).toNat % 65536, (Config.free 9 3).toNat % 256,
    rd64 s Reg.SEC_SERIAL_LO]

/-- A received PTP general message (R140, R141): an Announce of this domain feeds the best master clock algorithm; all go to firmware. -/
def ptpGeneral (s : State) (port : Fin 2) (f : List Byte) : State :=
  match ptpAt f with
  | none => s
  | some (o, ck) =>
    if !ptpTakes s port ck.isSome then s
    else
      let s := emit s (.ptp port (mtime s) f)
      if byteAt f o % 16 != 0xB || byteAt f (o + 4) != actF s Reg.TIME_PTP_CFG 15 8 then s
      else if better (announceSet f o) (ownSet s) then
        setBit { s with time := { s.time with announceRaw := s.raw } } Reg.TIME_STATE 6 false
      else if actF s Reg.TIME_PTP_CFG 2 2 == 1 then setBit s Reg.TIME_STATE 6 false
      else setBit s Reg.TIME_STATE 6 true

/-- The role when no better clock is heard (R141): after the time in which an Announce would have come, which is stated nowhere (DESIGN
CHOICE, log entry 96), the best master clock algorithm makes the head local master unless slave_only is set or PTP is off. -/
def bestMaster (s : State) : State :=
  let on := [1, 2].contains (actF s Reg.TIME_PTP_CFG 1 0) && actF s Reg.TIME_PTP_CFG 2 2 == 0
  if !on then setBit s Reg.TIME_STATE 6 false
  else if Config.announceTimeout ≤ s.raw - s.time.announceRaw then setBit s Reg.TIME_STATE 6 true
  else s

end Sys2Proof.Machine
end

