-- ==== Sys2Proof/Machine/Flags.lean ====
section
/-! DEFINITION. The arithmetic of the Hem cores with the status bits it sets (R243-R246, R255): exact in the integers,
narrowed at the end. -/

namespace Sys2Proof.Machine

/-- Set bits of st. -/
def stOr (st : BitVec 4) (sat ovf : Bool) : BitVec 4 :=
  st ||| (if sat then 4 else 0) ||| (if ovf then 8 else 0)

/-- n and z from a signed number (R246). -/
def stNz (st : BitVec 4) (r : Int) : BitVec 4 :=
  (st &&& 0b1100) ||| (if r < 0 then 1 else 0) ||| (if r = 0 then 2 else 0)

/-- The exact product that mm and fr select (R243). -/
def hemProduct (mm : BitVec 2) (fr : BitVec 1) (x y : Half) : Int :=
  let sx : Int := if mm = 0 ∨ mm = 2 then x.toInt else x.toNat
  let sy : Int := if mm = 0 ∨ mm = 3 then y.toInt else y.toNat
  let p := sx * sy
  if fr = 1 then 2 * p else p

/-- A number outside the signed 40-bit range sets ovf (R244). -/
def ovf40 (r : Int) : Bool := decide (r < -549755813888) || decide (549755813887 < r)

/-- Store-high of an accumulator, and whether it saturates (R245). -/
def storeHigh (acc : BitVec 40) : Half × Bool :=
  let r : Int := acc.toInt + 0x8000
  if 0x7FFFFFFF < r then (0x7FFF, true)
  else if r < -0x80000000 then (0x8000, true)
  else (BitVec.ofInt 16 (r / 65536), false)

/-- Store-word of an accumulator, and whether it saturates (R245). -/
def storeWord (acc : BitVec 40) : Word × Bool :=
  let r : Int := acc.toInt
  if 0x7FFFFFFF < r then (0x7FFFFFFF, true)
  else if r < -0x80000000 then (0x80000000, true)
  else (BitVec.ofInt 32 r, false)

/-- A signed number saturated to 16 bits, and whether it saturates (R246). -/
def sat16 (r : Int) : Half × Bool :=
  if 32767 < r then (0x7FFF, true) else if r < -32768 then (0x8000, true) else (BitVec.ofInt 16 r, false)

/-- Shift of an accumulator by a signed amount: the exact left shift, or the floor of a right shift (R244). -/
def shiftInt (x : Int) (sh : Int) : Int := if 0 ≤ sh then x * 2 ^ sh.toNat else x / 2 ^ (-sh).toNat

/-- Whether a condition of B holds (R255); a reserved condition never does. -/
def hemCond (c : BitVec 4) (st : BitVec 4) : Bool :=
  let n := st.getLsbD 0
  let z := st.getLsbD 1
  match c.toNat with
  | 0 => true
  | 1 => z
  | 2 => !z
  | 3 => n
  | 4 => !n
  | 5 => !n && !z
  | 6 => n || z
  | 7 => st.getLsbD 2
  | 8 => st.getLsbD 3
  | _ => false

end Sys2Proof.Machine
end

