-- ==== Sys2Proof/Machine/HemCode.lean ====
section
/-! DEFINITION. The instructions of the Hem cores with their encoding and decoding (R252-R255). -/

namespace Sys2Proof.Machine

/-- A Hem instruction with the fields that R254 names for it. -/
inductive HemInstr where
  | nop
  | ldi (dd : BitVec 3) (imm : BitVec 16)
  | mov (dd ds : BitVec 3)
  | ld (dd : BitVec 3) (p am : BitVec 2) (off : BitVec 12)
  | st (ds : BitVec 3) (p am : BitVec 2) (off : BitVec 12)
  | lda (a : BitVec 1) (p am : BitVec 2) (off : BitVec 12)
  | staH (a : BitVec 1) (p am : BitVec 2) (off : BitVec 12)
  | staW (a : BitVec 1) (p am : BitVec 2) (off : BitVec 12)
  | mvh (dd : BitVec 3) (a : BitVec 1)
  | mva (a : BitVec 1) (ds : BitVec 3)
  | clr (a : BitVec 1)
  | ldp (pa : BitVec 2) (imm : BitVec 20)
  | setb (pa : BitVec 2) (imm : BitVec 20)
  | setl (pa : BitVec 2) (imm : BitVec 16)
  | addp (pa : BitVec 2) (imm : BitVec 16)
  | mpy (a : BitVec 1) (ds dt : BitVec 3) (mm : BitVec 2) (fr : BitVec 1)
  | mac (a : BitVec 1) (ds dt : BitVec 3) (mm : BitVec 2) (fr : BitVec 1)
  | msu (a : BitVec 1) (ds dt : BitVec 3) (mm : BitVec 2) (fr : BitVec 1)
  | macl (a : BitVec 1) (dd ds dt : BitVec 3) (p : BitVec 2) (am : BitVec 2) (mm : BitVec 2) (fr : BitVec 1)
  | mpyl (a : BitVec 1) (dd ds dt : BitVec 3) (p : BitVec 2) (am : BitVec 2) (mm : BitVec 2) (fr : BitVec 1)
  | adda (a : BitVec 1)
  | asl (a : BitVec 1) (sh : BitVec 6)
  | sata (a : BitVec 1)
  | add (dd ds dt : BitVec 3)
  | sub (dd ds dt : BitVec 3)
  | addi (dd : BitVec 3) (imm : BitVec 16)
  | and (dd ds dt : BitVec 3)
  | or (dd ds dt : BitVec 3)
  | shl (dd ds : BitVec 3) (sh : BitVec 5)
  | cmp (ds dt : BitVec 3)
  | b (cond : BitVec 4) (addr : BitVec 12)
  | call (addr : BitVec 12)
  | ret
  | rep (n : BitVec 8)
  | rdoD (dd : BitVec 3) (k : BitVec 2)
  | rdoA (a : BitVec 1) (k : BitVec 2)
  | postD (ds : BitVec 3) (j : BitVec 2)
  | postA (a : BitVec 1) (j : BitVec 2)
  | end_
  | mfs (dd : BitVec 3)
  deriving DecidableEq, Repr

/-- A word of the general format: op, a, dd, ds, dt, p, am, mm, fr, x and the low eight bits (R252). -/
def hemWord (op : BitVec 6) (a : BitVec 1) (dd ds dt : BitVec 3) (p am mm : BitVec 2) (fr x : BitVec 1)
    (low : BitVec 8) : Word :=
  op ++ a ++ dd ++ ds ++ dt ++ p ++ am ++ mm ++ fr ++ x ++ low

/-- A word with a byte offset or word address in bits 11:0. -/
def hemOff (op : BitVec 6) (a : BitVec 1) (dd ds dt : BitVec 3) (p am : BitVec 2) (off : BitVec 12) : Word :=
  op ++ a ++ dd ++ ds ++ dt ++ p ++ am ++ off

/-- A word with a destination register and an immediate in bits 15:0. -/
def hemImm (op : BitVec 6) (dd : BitVec 3) (imm : BitVec 16) : Word :=
  op ++ (0 : BitVec 1) ++ dd ++ (0 : BitVec 6) ++ imm

/-- A word with an address register in bits 25:24 and an immediate in bits 19:0. -/
def hemPa (op : BitVec 6) (pa : BitVec 2) (imm : BitVec 20) : Word := op ++ pa ++ (0 : BitVec 4) ++ imm

/-- The word of an instruction (R252, R254). -/
def hemEncode : HemInstr → Word
  | .nop => 0
  | .ldi dd imm => hemImm 0x01 dd imm
  | .mov dd ds => hemWord 0x02 0 dd ds 0 0 0 0 0 0 0
  | .ld dd p am off => hemOff 0x03 0 dd 0 0 p am off
  | .st ds p am off => hemOff 0x04 0 0 ds 0 p am off
  | .lda a p am off => hemOff 0x05 a 0 0 0 p am off
  | .staH a p am off => hemOff 0x06 a 0 0 0 p am off
  | .staW a p am off => hemOff 0x0E a 0 0 0 p am off
  | .mvh dd a => hemWord 0x07 a dd 0 0 0 0 0 0 0 0
  | .mva a ds => hemWord 0x08 a 0 ds 0 0 0 0 0 0 0
  | .clr a => hemWord 0x09 a 0 0 0 0 0 0 0 0 0
  | .ldp pa imm => hemPa 0x0A pa imm
  | .setb pa imm => hemPa 0x0B pa imm
  | .setl pa imm => hemPa 0x0C pa ((0 : BitVec 4) ++ imm)
  | .addp pa imm => hemPa 0x0D pa ((0 : BitVec 4) ++ imm)
  | .mpy a ds dt mm fr => hemWord 0x10 a 0 ds dt 0 0 mm fr 0 0
  | .mac a ds dt mm fr => hemWord 0x11 a 0 ds dt 0 0 mm fr 0 0
  | .msu a ds dt mm fr => hemWord 0x12 a 0 ds dt 0 0 mm fr 0 0
  | .macl a dd ds dt p am mm fr => hemWord 0x13 a dd ds dt p am mm fr 0 0
  | .mpyl a dd ds dt p am mm fr => hemWord 0x13 a dd ds dt p am mm fr 1 0
  | .adda a => hemWord 0x14 a 0 0 0 0 0 0 0 0 0
  | .asl a sh => hemWord 0x15 a 0 0 0 0 0 0 0 0 ((0 : BitVec 2) ++ sh)
  | .sata a => hemWord 0x16 a 0 0 0 0 0 0 0 0 0
  | .add dd ds dt => hemWord 0x18 0 dd ds dt 0 0 0 0 0 0
  | .sub dd ds dt => hemWord 0x19 0 dd ds dt 0 0 0 0 0 0
  | .addi dd imm => hemImm 0x1A dd imm
  | .and dd ds dt => hemWord 0x1B 0 dd ds dt 0 0 0 0 0 0
  | .or dd ds dt => hemWord 0x1C 0 dd ds dt 0 0 0 0 0 0
  | .shl dd ds sh => hemWord 0x1D 0 dd ds 0 0 0 0 0 0 ((0 : BitVec 3) ++ sh)
  | .cmp ds dt => hemWord 0x1E 0 0 ds dt 0 0 0 0 0 0
  | .b cond addr => (0x20 : BitVec 6) ++ cond ++ (0 : BitVec 10) ++ addr
  | .call addr => hemOff 0x21 0 0 0 0 0 0 addr
  | .ret => hemOff 0x22 0 0 0 0 0 0 0
  | .rep n => hemWord 0x23 0 0 0 0 0 0 0 0 0 n
  | .rdoD dd k => hemWord 0x28 0 dd 0 0 0 0 0 0 0 ((0 : BitVec 6) ++ k)
  | .rdoA a k => hemWord 0x28 a 0 0 0 0 0 0 0 1 ((0 : BitVec 6) ++ k)
  | .postD ds j => hemWord 0x29 0 0 ds 0 0 0 0 0 0 ((0 : BitVec 6) ++ j)
  | .postA a j => hemWord 0x29 a 0 0 0 0 0 0 0 1 ((0 : BitVec 6) ++ j)
  | .end_ => hemOff 0x2A 0 0 0 0 0 0 0
  | .mfs dd => hemWord 0x2B 0 dd 0 0 0 0 0 0 0 0

/-- What an encoding admits: am 1 or 2 for MACL and MPYL (R254), no reserved condition of B (R255). (DEDUCED, log entry 30) -/
def hemLegal : HemInstr → Bool
  | .macl _ _ _ _ _ am _ _ => am == 1 || am == 2
  | .mpyl _ _ _ _ _ am _ _ => am == 1 || am == 2
  | .b cond _ => cond.toNat < 9
  | _ => true

/-- The instruction that the opcode of a word names, with its fields, whatever its other bits. -/
def hemCandidate (w : Word) : Option HemInstr :=
  let a : BitVec 1 := w.extractLsb' 25 1
  let dd : BitVec 3 := w.extractLsb' 22 3
  let ds : BitVec 3 := w.extractLsb' 19 3
  let dt : BitVec 3 := w.extractLsb' 16 3
  let p : BitVec 2 := w.extractLsb' 14 2
  let am : BitVec 2 := w.extractLsb' 12 2
  let mm : BitVec 2 := w.extractLsb' 10 2
  let fr : BitVec 1 := w.extractLsb' 9 1
  let x : BitVec 1 := w.extractLsb' 8 1
  let off : BitVec 12 := w.extractLsb' 0 12
  let imm : BitVec 16 := w.extractLsb' 0 16
  let pa : BitVec 2 := w.extractLsb' 24 2
  let imm20 : BitVec 20 := w.extractLsb' 0 20
  let k : BitVec 2 := w.extractLsb' 0 2
  match (w.extractLsb' 26 6).toNat with
  | 0x00 => some .nop
  | 0x01 => some (.ldi dd imm)
  | 0x02 => some (.mov dd ds)
  | 0x03 => some (.ld dd p am off)
  | 0x04 => some (.st ds p am off)
  | 0x05 => some (.lda a p am off)
  | 0x06 => some (.staH a p am off)
  | 0x0E => some (.staW a p am off)
  | 0x07 => some (.mvh dd a)
  | 0x08 => some (.mva a ds)
  | 0x09 => some (.clr a)
  | 0x0A => some (.ldp pa imm20)
  | 0x0B => some (.setb pa imm20)
  | 0x0C => some (.setl pa imm)
  | 0x0D => some (.addp pa imm)
  | 0x10 => some (.mpy a ds dt mm fr)
  | 0x11 => some (.mac a ds dt mm fr)
  | 0x12 => some (.msu a ds dt mm fr)
  | 0x13 => if x == 0 then some (.macl a dd ds dt p am mm fr) else some (.mpyl a dd ds dt p am mm fr)
  | 0x14 => some (.adda a)
  | 0x15 => some (.asl a (w.extractLsb' 0 6))
  | 0x16 => some (.sata a)
  | 0x18 => some (.add dd ds dt)
  | 0x19 => some (.sub dd ds dt)
  | 0x1A => some (.addi dd imm)
  | 0x1B => some (.and dd ds dt)
  | 0x1C => some (.or dd ds dt)
  | 0x1D => some (.shl dd ds (w.extractLsb' 0 5))
  | 0x1E => some (.cmp ds dt)
  | 0x20 => some (.b (w.extractLsb' 22 4) off)
  | 0x21 => some (.call off)
  | 0x22 => some .ret
  | 0x23 => some (.rep (w.extractLsb' 0 8))
  | 0x28 => if x == 0 then some (.rdoD dd k) else some (.rdoA a k)
  | 0x29 => if x == 0 then some (.postD ds k) else some (.postA a k)
  | 0x2A => some .end_
  | 0x2B => some (.mfs dd)
  | _ => none

/-- The instruction that a word stands for; nothing for an illegal one: a reserved opcode or condition, am 0 or 3 of MACL, or
a non-zero bit in a field that the instruction does not use (R253). -/
def hemDecode (w : Word) : Option HemInstr :=
  match hemCandidate w with
  | none => none
  | some i => if hemLegal i && hemEncode i == w then some i else none

end Sys2Proof.Machine
end

