-- ==== Sys2Proof/Machine/Float.lean ====
section
/-! DEFINITION. IEEE 754 arithmetic (R8): binary32 for the loop engine and binary64 for the profile engine, each operation
exact on rationals and then rounded to nearest, ties to even. -/

namespace Sys2Proof.Machine

/-- A binary format: exponent bits and mantissa bits. -/
structure Fmt where
  eb : Nat
  mb : Nat
  deriving DecidableEq, Repr

/-- What a bit pattern stands for: m times 2 to the e with a sign, an infinity, or no number. -/
inductive FVal where
  | fin (neg : Bool) (m : Nat) (e : Int)
  | inf (neg : Bool)
  | nan
  deriving DecidableEq, Repr

/-- binary32. -/
def fmt32 : Fmt := ⟨8, 23⟩

/-- binary64. -/
def fmt64 : Fmt := ⟨11, 52⟩

/-- The exponent bias. -/
def Fmt.bias (f : Fmt) : Int := 2 ^ (f.eb - 1) - 1

/-- The value of a bit pattern. -/
def Fmt.dec (f : Fmt) (w : Nat) : FVal :=
  let m := w % 2 ^ f.mb
  let e := w / 2 ^ f.mb % 2 ^ f.eb
  let s := bit w (f.eb + f.mb)
  if e == 2 ^ f.eb - 1 then (if m == 0 then .inf s else .nan)
  else if e == 0 then .fin s m (1 - f.bias - f.mb)
  else .fin s (m + 2 ^ f.mb) ((e : Int) - f.bias - f.mb)

/-- The sign bit in place. -/
def Fmt.signBit (f : Fmt) (neg : Bool) : Nat := if neg then 2 ^ (f.eb + f.mb) else 0

/-- An infinity. -/
def Fmt.infBits (f : Fmt) (neg : Bool) : Nat := (2 ^ f.eb - 1) * 2 ^ f.mb + f.signBit neg

/-- The positive quotient n / d (d not 0) rounded to nearest even, with the given sign. -/
def Fmt.roundQ (f : Fmt) (neg : Bool) (n d : Nat) : Nat :=
  if n == 0 then f.signBit neg
  else
    let k0 : Int := (Nat.log2 n : Int) - Nat.log2 d
    let below := if k0 < 0 then n * 2 ^ (-k0).toNat < d else n < d * 2 ^ k0.toNat
    let k := if below then k0 - 1 else k0
    let q := max (k - f.mb) (1 - f.bias - f.mb)
    let num := if q < 0 then n * 2 ^ (-q).toNat else n
    let den := if q < 0 then d else d * 2 ^ q.toNat
    let m := num / den
    let r := num % den
    let m := if den < 2 * r || (den == 2 * r && m % 2 == 1) then m + 1 else m
    let w := (q + f.mb + f.bias - 1).toNat * 2 ^ f.mb + m
    if (2 ^ f.eb - 1) * 2 ^ f.mb ≤ w then f.infBits neg else w + f.signBit neg

/-- A signed multiple of a power of two, rounded; a zero takes the given sign. -/
def Fmt.roundS (f : Fmt) (zneg : Bool) (m : Int) (e : Int) : Nat :=
  let neg := if m == 0 then zneg else m < 0
  if e < 0 then f.roundQ neg m.natAbs (2 ^ (-e).toNat) else f.roundQ neg (m.natAbs * 2 ^ e.toNat) 1

/-- A signed mantissa. -/
def sm (neg : Bool) (m : Nat) : Int := if neg then -(m : Int) else m

/-- Sum, with the bits of a NaN given. -/
def Fmt.add (f : Fmt) (nan a b : Nat) : Nat :=
  match f.dec a, f.dec b with
  | .nan, _ => nan
  | _, .nan => nan
  | .inf s, .inf t => if s == t then f.infBits s else nan
  | .inf s, _ => f.infBits s
  | _, .inf t => f.infBits t
  | .fin s m e, .fin t n g =>
    let q := min e g
    f.roundS (s && t) (sm s m * 2 ^ (e - q).toNat + sm t n * 2 ^ (g - q).toNat) q

/-- The opposite sign. -/
def Fmt.neg (f : Fmt) (a : Nat) : Nat :=
  if bit a (f.eb + f.mb) then a - 2 ^ (f.eb + f.mb) else a + 2 ^ (f.eb + f.mb)

/-- The magnitude. -/
def Fmt.abs (f : Fmt) (a : Nat) : Nat := a % 2 ^ (f.eb + f.mb)

/-- Product, with the bits of a NaN given. -/
def Fmt.mul (f : Fmt) (nan a b : Nat) : Nat :=
  match f.dec a, f.dec b with
  | .nan, _ => nan
  | _, .nan => nan
  | .inf s, .inf t => f.infBits (s != t)
  | .inf s, .fin t n _ => if n == 0 then nan else f.infBits (s != t)
  | .fin s m _, .inf t => if m == 0 then nan else f.infBits (s != t)
  | .fin s m e, .fin t n g => f.roundS (s != t) (sm (s != t) (m * n)) (e + g)

/-- Quotient, with the bits of a NaN given. -/
def Fmt.div (f : Fmt) (nan a b : Nat) : Nat :=
  match f.dec a, f.dec b with
  | .nan, _ => nan
  | _, .nan => nan
  | .inf _, .inf _ => nan
  | .inf s, .fin t _ _ => f.infBits (s != t)
  | .fin s _ _, .inf t => f.signBit (s != t)
  | .fin s m e, .fin t n g =>
    if n == 0 then (if m == 0 then nan else f.infBits (s != t))
    else
      let q := e - g
      if q < 0 then f.roundQ (s != t) m (n * 2 ^ (-q).toNat) else f.roundQ (s != t) (m * 2 ^ q.toNat) n

/-- The largest number whose square is at most n, found bit by bit. -/
def isqrtGo (n : Nat) : Nat → Nat → Nat
  | 0, r => r
  | k + 1, r =>
    let t := r + 2 ^ k
    isqrtGo n k (if t * t ≤ n then t else r)

/-- The integer square root. -/
def isqrt (n : Nat) : Nat := isqrtGo n (Nat.log2 n / 2 + 1) 0

/-- Square root, with the bits of a NaN given. -/
def Fmt.sqrt (f : Fmt) (nan a : Nat) : Nat :=
  match f.dec a with
  | .nan => nan
  | .inf s => if s then nan else a
  | .fin s m e =>
    if m == 0 then a
    else if s then nan
    else
      let x := 2 * (f.mb + 4)
      let m2 := if e % 2 == 0 then m * 2 ^ x else 2 * m * 2 ^ x
      let e2 := if e % 2 == 0 then e else e - 1
      let r := isqrt m2
      let r2 := if r * r == m2 then 2 * r else 2 * r + 1
      f.roundS false r2 (e2 / 2 - (f.mb + 4) - 1)

/-- Whether a is below b; false where one is no number. -/
def Fmt.lt (f : Fmt) (a b : Nat) : Bool :=
  match f.dec a, f.dec b with
  | .nan, _ => false
  | _, .nan => false
  | .inf s, .inf t => s && !t
  | .inf s, .fin _ _ _ => s
  | .fin _ _ _, .inf t => !t
  | .fin s m e, .fin t n g =>
    let q := min e g
    decide (sm s m * 2 ^ (e - q).toNat < sm t n * 2 ^ (g - q).toNat)

/-- Whether a and b are equal numbers (the two zeros are). -/
def Fmt.eq (f : Fmt) (a b : Nat) : Bool :=
  f.dec a != .nan && f.dec b != .nan && !f.lt a b && !f.lt b a

/-- Whether a bit pattern is a finite number. -/
def Fmt.finite (f : Fmt) (a : Nat) : Bool :=
  match f.dec a with
  | .fin _ _ _ => true
  | _ => false

/-- A finite number times 2 to the k, rounded to the nearest integer, ties to even; 0 where it is not finite. -/
def Fmt.toInt (f : Fmt) (k : Int) (a : Nat) : Int :=
  match f.dec a with
  | .fin s m e =>
    let q := e + k
    if 0 ≤ q then sm s (m * 2 ^ q.toNat)
    else
      let den := 2 ^ (-q).toNat
      let d := m / den
      let r := m % den
      sm s (if den < 2 * r || (den == 2 * r && d % 2 == 1) then d + 1 else d)
  | _ => 0

/-- A finite number times 2 to the k, rounded toward minus infinity; 0 where it is not finite. -/
def Fmt.floorInt (f : Fmt) (k : Int) (a : Nat) : Int :=
  match f.dec a with
  | .fin s m e =>
    let q := e + k
    if 0 ≤ q then sm s (m * 2 ^ q.toNat) else Int.fdiv (sm s m) (2 ^ (-q).toNat)
  | _ => 0

/-- A binary32 NaN made from operands: exponent all ones, quiet, the rest free (DESIGN CHOICE, log entry 6). -/
def nanOf32 (a b : Word) : Nat := ((Config.nan32 a b) ||| 0x7FC00000#32).toNat

/-- A binary64 NaN made from operands: exponent all ones, quiet, the rest free (DESIGN CHOICE, log entry 6). -/
def nanOf64 (a b : Long) : Nat := ((Config.nan64 a b) ||| 0x7FF8000000000000#64).toNat

def fadd (a b : Word) : Word := BitVec.ofNat 32 (fmt32.add (nanOf32 a b) a.toNat b.toNat)
def fneg (a : Word) : Word := BitVec.ofNat 32 (fmt32.neg a.toNat)
def fsub (a b : Word) : Word := fadd a (fneg b)
def fmul (a b : Word) : Word := BitVec.ofNat 32 (fmt32.mul (nanOf32 a b) a.toNat b.toNat)
def fdiv (a b : Word) : Word := BitVec.ofNat 32 (fmt32.div (nanOf32 a b) a.toNat b.toNat)
def fabs (a : Word) : Word := BitVec.ofNat 32 (fmt32.abs a.toNat)
def flt (a b : Word) : Bool := fmt32.lt a.toNat b.toNat
def fle (a b : Word) : Bool := fmt32.lt a.toNat b.toNat || fmt32.eq a.toNat b.toNat
def ffinite (a : Word) : Bool := fmt32.finite a.toNat
/-- The binary32 number nearest to m times 2 to the e. -/
def fofInt (m : Int) (e : Int := 0) : Word := BitVec.ofNat 32 (fmt32.roundS false m e)

def dadd (a b : Long) : Long := BitVec.ofNat 64 (fmt64.add (nanOf64 a b) a.toNat b.toNat)
def dneg (a : Long) : Long := BitVec.ofNat 64 (fmt64.neg a.toNat)
def dsub (a b : Long) : Long := dadd a (dneg b)
def dmul (a b : Long) : Long := BitVec.ofNat 64 (fmt64.mul (nanOf64 a b) a.toNat b.toNat)
def ddiv (a b : Long) : Long := BitVec.ofNat 64 (fmt64.div (nanOf64 a b) a.toNat b.toNat)
def dsqrt (a : Long) : Long := BitVec.ofNat 64 (fmt64.sqrt (nanOf64 a a) a.toNat)
def dabs (a : Long) : Long := BitVec.ofNat 64 (fmt64.abs a.toNat)
def dlt (a b : Long) : Bool := fmt64.lt a.toNat b.toNat
def dle (a b : Long) : Bool := fmt64.lt a.toNat b.toNat || fmt64.eq a.toNat b.toNat
def dfinite (a : Long) : Bool := fmt64.finite a.toNat
/-- The binary64 number nearest to m times 2 to the e. -/
def dofInt (m : Int) (e : Int := 0) : Long := BitVec.ofNat 64 (fmt64.roundS false m e)
/-- The binary64 number nearest to n / d. -/
def dofQ (n : Int) (d : Nat) : Long := BitVec.ofNat 64 (fmt64.roundQ (n < 0) n.natAbs d)
def dmin (a b : Long) : Long := if dlt b a then b else a
def dmax (a b : Long) : Long := if dlt a b then b else a

/-- A binary32 number as the same binary64 number. -/
def f2d (a : Word) : Long :=
  match fmt32.dec a.toNat with
  | .fin s m e => BitVec.ofNat 64 (fmt64.roundS s (sm s m) e)
  | .inf s => BitVec.ofNat 64 (fmt64.infBits s)
  | .nan => BitVec.ofNat 64 (nanOf64 (a.setWidth 64) 0)

/-- A binary64 number rounded to binary32. -/
def d2f (a : Long) : Word :=
  match fmt64.dec a.toNat with
  | .fin s m e => BitVec.ofNat 32 (fmt32.roundS s (sm s m) e)
  | .inf s => BitVec.ofNat 32 (fmt32.infBits s)
  | .nan => BitVec.ofNat 32 (nanOf32 (a.setWidth 32) 0)

end Sys2Proof.Machine
end

