-- ==== Sys2Proof/Machine/Plan.lean ====
section
/-! DEFINITION. Plans of the profile engine (R160, R165, R166, R170, R180): ramps, moves and their evaluation in binary64. -/

namespace Sys2Proof.Machine

/-- A small integer as a binary64. -/
def dn (n : Int) : Long := dofInt n

/-- The sign of a binary64 as -1, 0 or +1. -/
def dsign (x : Long) : Long := if dlt 0 x then dn 1 else if dlt x 0 then dn (-1) else 0

/-- The cycle length in force, in seconds. -/
def cycleT (s : State) : Long := dofQ (cycleNs s) 1000000000

/-- A binary64 number of counts as 48.16, rounded to the nearest LSB with a tie rounding up (R160). (DESIGN CHOICE, log entry 18) -/
def toFx16 (x : Long) : Int := Int.fdiv (fmt64.floorInt 17 x.toNat + 1) 2

/-- A 48.16 number as a binary64. -/
def ofFx16 (x : Int) : Long := dofInt x (-16)

/-- Distance covered by a phase after t. (DESIGN CHOICE, log entry 18) -/
def Phase.dist (p : Phase) (t : Long) : Long :=
  dmul (dadd (dmul (dadd (dmul (ddiv p.j (dn 6)) t) (ddiv p.a0 (dn 2))) t) p.v0) t

/-- Velocity of a phase after t. -/
def Phase.vel (p : Phase) (t : Long) : Long := dadd (dmul (dadd (dmul (ddiv p.j (dn 2)) t) p.a0) t) p.v0

/-- Acceleration of a phase after t. -/
def Phase.acc (p : Phase) (t : Long) : Long := dadd (dmul p.j t) p.a0

/-- Distance covered by phases. -/
def planDist (ps : List Phase) : Long := ps.foldl (fun d p => dadd d (p.dist p.dur)) 0

/-- The time-optimal change of velocity from (v0, a0) to v1 with acceleration 0 at the end (R165). -/
def ramp (kind : Nat) (v0 a0 v1 amax j : Long) : List Phase :=
  if !dlt 0 j then [{ dur := ddiv (dabs (dsub v1 v0)) amax, v0 := v0, a0 := dmul (dsign (dsub v1 v0)) amax, kind := kind }]
  else
    let bend := dadd v0 (ddiv (dmul a0 (dabs a0)) (dmul (dn 2) j))
    let s := if dle bend v1 then dn 1 else dn (-1)
    let ap := dmul s amax
    let t1 := ddiv (dabs (dsub ap a0)) j
    let t3 := ddiv amax j
    let dv := dsub (dsub (dsub v1 v0) (dmul (ddiv (dadd a0 ap) (dn 2)) t1)) (dmul (ddiv ap (dn 2)) t3)
    let sq := dadd (dmul (dmul s j) (dsub v1 v0)) (ddiv (dmul a0 a0) (dn 2))
    let full := dle 0 (dmul s dv)
    let ap2 := if full then ap else dmul s (dsqrt (dmax 0 sq))
    let t1b := if full then t1 else ddiv (dabs (dsub ap2 a0)) j
    let t2 := if full then ddiv dv ap else 0
    let t3b := if full then t3 else ddiv (dabs ap2) j
    let p1 : Phase := { dur := t1b, v0 := v0, a0 := a0, j := dmul j (dsign (dsub ap2 a0)), kind := kind }
    let p2 : Phase := { dur := t2, v0 := p1.vel t1b, a0 := ap2, kind := kind }
    let p3 : Phase := { dur := t3b, v0 := p2.vel t2, a0 := ap2, j := dneg (dmul s j), kind := kind }
    [p1, p2, p3]

/-- Give phases their 48.16 start positions; the position at their end. -/
def chain : Int → List Phase → List Phase × Int
  | p, [] => ([], p)
  | p, x :: xs =>
    let r := chain (p + toFx16 (x.dist x.dur)) xs
    ({ x with p0 := p } :: r.1, r.2)

/-- A constant velocity without end. -/
def forever (v : Long) : Phase := { dur := 0x7FF0000000000000, v0 := v, kind := 6 }

/-- The parameters of an axis as binary64 (R163). -/
structure Limits where
  vmax : Long
  acc : Long
  dec : Long
  jerk : Long
  qsdec : Long
  qsjerk : Long

/-- Halve the range of cruise velocities n times (R166): lower and upper bound. (DESIGN CHOICE, log entry 19) -/
def bisect (L : Limits) (v a s d : Long) : Nat → Long → Long → Long
  | 0, lo, _ => lo
  | n + 1, lo, hi =>
    let m := ddiv (dadd lo hi) (dn 2)
    let up := ramp 1 v a (dmul s m) (if dle (dmul s v) m then L.acc else L.dec) L.jerk
    let down := ramp 3 (dmul s m) 0 0 L.dec L.jerk
    if dle (dmul s (dadd (planDist up) (planDist down))) d then bisect L v a s d n m hi
    else bisect L v a s d n lo m

/-- A planned move: its phases, the position it ends on, whether it brakes past its target, and whether it is a limit stop. -/
structure Move where
  phases : List Phase
  stop : Int
  beyond : Bool
  limit : Bool

/-- Plan a move to target x from (p, v, a) (R166); the soft limits where they apply. (DESIGN CHOICE, log entry 19) -/
def planMove (L : Limits) (soft : Option (Int × Int)) (p : Int) (v a : Long) (x : Int) : Move :=
  let stop := ramp 0 v a 0 L.dec L.jerk
  let c := chain p stop
  let e := c.2
  let brake := e != p && (if p < e then x < e else e < x)
  let above := match soft with
    | none => false
    | some (lo, hi) => (p < e && hi < e) || (e < p && e < lo)
  if brake && above then { phases := [], stop := e, beyond := false, limit := true }
  else
    let pre := if brake then c.1 else []
    let p1 := if brake then e else p
    let v1 := if brake then 0 else v
    let a1 := if brake then 0 else a
    if x == p1 then
      let moving := dlt 0 (dabs v1) || dlt 0 (dabs a1)
      { phases := pre ++ (if moving then c.1 else []), stop := x, beyond := brake, limit := false }
    else
      let s := if p1 < x then dn 1 else dn (-1)
      let d := dabs (ofFx16 (x - p1))
      let lo := bisect L v1 a1 s d 48 0 L.vmax
      let up := ramp 1 v1 a1 (dmul s lo) (if dle (dmul s v1) lo then L.acc else L.dec) L.jerk
      let down := ramp 3 (dmul s lo) 0 0 L.dec L.jerk
      let rest := dsub d (dmul s (dadd (planDist up) (planDist down)))
      let cruise : Phase :=
        { dur := if dlt 0 lo then ddiv (dmax 0 rest) lo else 0, v0 := dmul s lo, kind := 2 }
      { phases := pre ++ (chain p1 (up ++ [cruise] ++ down)).1, stop := x, beyond := brake, limit := false }

/-- The phases of a jog to velocity v1 from (v, a) (R170). -/
def planJog (L : Limits) (v a v1 : Long) : List Phase :=
  let sv := dsign v
  let s1 := dsign v1
  let faster := dle (dabs v) (dabs v1)
  let ps :=
    if (s1 == sv || sv == 0) && faster then ramp 4 v a v1 L.acc L.jerk
    else if s1 == sv || s1 == 0 then ramp 4 v a v1 L.dec L.jerk
    else ramp 4 v a 0 L.dec L.jerk ++ ramp 5 0 0 v1 L.acc L.jerk
  ps ++ [forever v1]

/-- The phase in force at time t of a plan, with the time within it; nothing past the end. -/
def phaseAt : List Phase → Long → Option (Phase × Long)
  | [], _ => none
  | p :: ps, t => if dlt t p.dur then some (p, t) else phaseAt ps (dsub t p.dur)

/-- The set-point of a phase at a time, for a cycle length. -/
def Phase.setPoint (p : Phase) (t T : Long) : SetPoint :=
  { pos := p.p0 + toFx16 (p.dist t)
    vel := Int.fdiv (fmt64.floorInt 33 (dmul (p.vel t) T).toNat + 1) 2
    acc := d2f (dmul (p.acc t) (dmul T T)) }

/-- Velocity and acceleration of a set-point, per second. -/
def SetPoint.rates (x : SetPoint) (T : Long) : Long × Long :=
  (ddiv (dofInt x.vel (-32)) T, ddiv (f2d x.acc) (dmul T T))

/-- The position at which a stop from a set-point ends (R165). -/
def SetPoint.stopPos (x : SetPoint) (T dec jerk : Long) : Int :=
  let r := x.rates T
  (chain x.pos (ramp 7 r.1 r.2 0 dec jerk)).2

end Sys2Proof.Machine
end

