-- ==== Sys2Proof/Machine/Prof.lean ====
section
/-! DEFINITION. The profile engine (05_profile_engine.md): set-points of each cycle, commands, commits, limits, the collision
guard, segment streams and phase retention. -/

namespace Sys2Proof.Machine

/-! ### Parameters and positions -/

/-- A parameter word of an axis's active set, in the layout of the staging record (R163, R196). -/
def par (s : State) (a i : Nat) : Word := actv s (Reg.PROF_AX_PARAM a i)

/-- The limits of an axis. -/
def limits (s : State) (a : Nat) : Limits :=
  { vmax := f2d (par s a 0), acc := f2d (par s a 1), dec := f2d (par s a 2), jerk := f2d (par s a 3),
    qsdec := f2d (par s a 4), qsjerk := f2d (par s a 5) }

/-- The soft limits of an axis, where they apply (R157, R183). -/
def soft (s : State) (a : Nat) : Option (Int × Int) :=
  if wbit (par s a 10) 17 && (axis s a).referenced then
    some (sgn 64 ((par s a 6).toNat + (par s a 7).toNat * 2 ^ 32), sgn 64 ((par s a 8).toNat + (par s a 9).toNat * 2 ^ 32))
  else none

/-- The axis drives a stepper (R191). -/
def isStepper (s : State) (a : Nat) : Bool := wbit (par s a 11) 0

/-- The measured position of an axis in 48.16: the extended input with the shift of SET_REF. -/
def measuredFx (s : State) (a : Nat) : Int := (input s a).ext * 65536 + (axis s a).shift

/-- The measured position in whole counts. -/
def measured (s : State) (a : Nat) : Int := Int.fdiv (measuredFx s a) 65536

/-- The set-point at rest on a position. -/
def restAt (p : Int) : SetPoint := { pos := p }

/-- Change the context of an axis. -/
def axMod (s : State) (a : Nat) (f : Axis → Axis) : State := setAxis s a (f (axis s a))

/-- A motion group. -/
def group (s : State) (g : Nat) : Group := tget (fun _ => {}) s.prof.groups g

/-- Store a motion group. -/
def setGroup (s : State) (g : Nat) (x : Group) : State :=
  { s with prof := { s.prof with groups := tput (fun _ => {}) s.prof.groups g x } }

/-- The group whose stream an axis takes part in, if any. -/
def streamOf (s : State) (a : Nat) : Option Nat :=
  (s.prof.groups.find? fun e => e.2.members.contains a && 1 ≤ e.2.state && e.2.state ≤ 4).map (·.1)

/-- The group that an axis belongs to. -/
def groupOf (s : State) (a : Nat) : Option Nat := (s.prof.groups.find? fun e => e.2.members.contains a).map (·.1)

/-- Abort the injectors that run or wait on an axis (R233). -/
def injAbort (s : State) (a : Nat) : State :=
  [0, 1, 2, 3].foldl (fun s i =>
    let st := fld s (Reg.LOOP_INJ_STATUS i) 1 0
    if (st == 1 || st == 2) && fld s (Reg.LOOP_INJ_CFG i) 7 0 == a then
      let s := setF s (Reg.LOOP_INJ_STATUS i) 1 0 3
      event { s with loop := { s.loop with inj := tput (fun _ => {}) s.loop.inj i {} } } LOOP 8 a i
    else s) s

/-! ### Stops -/

/-- Start a plan for an axis from its set-point for L(n + 1) (R161). -/
def startPlan (s : State) (a mode : Nat) (phases : List Phase) (stop : Int) : State :=
  axMod s a fun x => { x with mode := mode, plan := (chain x.sp1.pos phases).1, planEnd := stop, k := 0, overrun := false,
                              inPosition := false, limitStop := false, stopBeyond := false, replan := none }

/-- The ramp to rest of an axis under a deceleration and jerk, with its end position. -/
def restPlan (s : State) (a kind : Nat) (dec jerk : Long) : List Phase × Int :=
  let x := (axis s a).sp1
  let r := x.rates (cycleT s)
  chain x.pos (ramp kind r.1 r.2 0 dec jerk)

/-- Begin a quick stop of a group on its path (R181): ρ falls to 0 over the largest |v| / qs_dec of its moving members, their
velocities taken from the set-points that point picks. -/
def groupQuickFrom (point : Axis → SetPoint) (s : State) (g : Nat) : State :=
  let G := group s g
  if !(1 ≤ G.state && G.state ≤ 3) then s
  else
    let T := cycleT s
    let t := G.members.foldl (fun m a =>
      if G.frozen.contains a then m
      else dmax m (ddiv (dabs ((point (axis s a)).rates T).1) (limits s a).qsdec)) 0
    let s := setGroup s g { G with state := 4, rho0 := G.rho, tqs := t, kqs := 0 }
    G.members.foldl (fun s a => injAbort (axMod s a fun x => { x with limitStop := false, overrun := false }) a) s

/-- A group quick stop from the set-points for L(n + 1) (R161, R181). (DEDUCED, log entry 77) -/
def groupQuick (s : State) (g : Nat) : State := groupQuickFrom (·.sp1) s g

/-- A quick stop of an axis that streams no group (R180). -/
def quickAxis (s : State) (a : Nat) : State :=
  let x := axis s a
  if x.mode == 0 || x.mode == 7 then s
  else
    let L := limits s a
    let p := restPlan s a 7 L.qsdec L.qsjerk
    injAbort (startPlan s a 7 p.1 p.2) a

/-- A quick stop (R180, R181). -/
def quickStop (s : State) (a : Nat) : State :=
  match streamOf s a with
  | some g => if (group s g).frozen.contains a then s else groupQuick s g
  | none => quickAxis s a

/-- A limit stop (R183): limit_stop set and reported. -/
def limitStopAx (s : State) (a : Nat) : State :=
  event (axMod (quickStop s a) a fun x => { x with limitStop := true }) PROF 8 a

/-- DISABLE (R158): the plan is discarded; a streaming group stops without this member. -/
def disableAxis (s : State) (a : Nat) : State :=
  if !enabled s a then s
  else
    let s := match streamOf s a with
      | none => s
      | some g =>
        let G := group s g
        groupQuick (setGroup s g { G with frozen := a :: G.frozen }) g
    let p := restAt (measured s a * 65536)
    let s := axMod s a fun x => { x with mode := 0, plan := [], sp1 := p, sp2 := p, limitHeld := false, inPosition := false,
                                         replan := none }
    injAbort s a

/-- A region stop (R182). -/
def regionQuick (s : State) : State :=
  let s := (s.prof.groups.map (·.1)).foldl groupQuick s
  (enabledAxes s).foldl quickStop s

/-- Carry out the stop requests (R195 item 1). -/
def applyRequests (s : State) : State :=
  let rs := s.prof.requests
  rs.foldl (fun s r =>
    match r with
    | .quick a => quickStop s a
    | .disable a => disableAxis s a
    | .region => regionQuick s
    | .group g => groupQuick s g) { s with prof := { s.prof with requests := [] } }

/-! ### Limit switches -/

/-- The level of a limit switch (R185): source, field input and inversion from the limit configuration at bit lo. -/
def switchLevel (s : State) (a lo workerBit : Nat) : Bool :=
  let c := par s a 10
  let src := wbits c (lo + 1) lo
  let inv := wbit c (lo + 7)
  let raw := if src == 1 then bit (input s a).status.toNat workerBit
    else wbit (motionInputs s) (wbits c (lo + 6) (lo + 2))
  if src == 0 || src == 3 then false else raw != inv

/-- The reaction of an axis to a switch that became active (R186). -/
def switchReact (s : State) (a : Nat) : State :=
  if !enabled s a then s
  else if wbit (par s a 10) 16 then
    let p := restAt (measured s a * 65536)
    let s := match streamOf s a with
      | none => s
      | some g =>
        let G := group s g
        groupQuick (setGroup s g { G with frozen := a :: G.frozen }) g
    axMod s a fun x => { x with mode := 1, plan := [], limitHeld := true, sp1 := p, planEnd := p.pos, limitStop := false,
                                replan := none }
  else quickStop s a

/-- The switches of one axis at a latch instant (R185-R187). -/
def switchAxis (s : State) (a : Nat) : State :=
  let x := axis s a
  let pos := switchLevel s a 0 7
  let neg := switchLevel s a 8 8
  let rise := (pos && !x.limPos) || (neg && !x.limNeg)
  let fall := (x.limPos && !pos) || (x.limNeg && !neg)
  let s := axMod s a fun x => { x with limPos := pos, limNeg := neg, limitHeld := x.limitHeld && !fall }
  let s := if rise then switchReact s a else s
  if pos && neg && !(x.limPos && x.limNeg) then event s PROF 10 a else s

/-- The axes whose switches are watched: those with a switch source or a switch shown active. -/
def switchAxes (s : State) : List Nat :=
  (List.range 256).filter fun a =>
    wbits (par s a 10) 1 0 != 0 || wbits (par s a 10) 9 8 != 0 || (axis s a).limPos || (axis s a).limNeg

/-- The limit-switch reactions (R195 item 2). -/
def switches (s : State) : State := (switchAxes s).foldl switchAxis s

/-! ### Moves and commits -/

/-- Plan a move of an axis from its set-point for L(n + 1) after some phases that come first, and enter MOVE (R166, R167). -/
def beginMove (s : State) (a : Nat) (pre : List Phase) (target : Int) : State :=
  let x := axis s a
  let T := cycleT s
  let c := chain x.sp1.pos pre
  let r := match pre.getLast? with
    | none => x.sp1.rates T
    | some l => (l.vel l.dur, 0)
  let m := planMove (limits s a) (soft s a) c.2 r.1 r.2 target
  if m.limit then limitStopAx s a
  else
    let s := axMod s a fun x => { x with mode := 2, plan := c.1 ++ (chain c.2 m.phases).1, planEnd := target, target := target,
                                         k := 0, stopBeyond := m.beyond, inPosition := false, replan := none }
    if m.beyond then event s PROF 1 a else s

/-- Plan a jog of an axis (R170), within vmax. -/
def beginJog (s : State) (a : Nat) (pre : List Phase) (v1 : Long) : State :=
  let x := axis s a
  let L := limits s a
  let v := if dlt L.vmax v1 then L.vmax else if dlt v1 (dneg L.vmax) then dneg L.vmax else v1
  let c := chain x.sp1.pos pre
  let r := match pre.getLast? with
    | none => x.sp1.rates (cycleT s)
    | some l => (l.vel l.dur, 0)
  axMod s a fun x => { x with mode := 3, plan := c.1 ++ (chain c.2 (planJog L r.1 r.2 v)).1, k := 0, jog := d2f v1,
                              inPosition := false, stopBeyond := false, replan := none }

/-- The ramp that a plan is within at its origin: what is left of it, with the time of the plan at which it ends; nothing where the axis
is in a phase of constant velocity. -/
def rampLeft (s : State) (x : Axis) : Option (List Phase × Long) :=
  let rec go : List Phase → Long → Option (List Phase)
    | [], _ => none
    | p :: ps, t =>
      if dlt t p.dur then
        if p.kind == 2 || p.kind == 6 then none
        else
          some ({ dur := dsub p.dur t, v0 := p.vel t, a0 := p.acc t, j := p.j, kind := p.kind } ::
            ps.takeWhile (fun q => q.kind == p.kind))
      else go ps (dsub t p.dur)
  let now := dmul (dn x.k) (cycleT s)
  (go x.plan now).map fun ps => (ps, ps.foldl (fun d p => dadd d p.dur) now)

/-- Plan the rest of a MOVE or JOG anew after some phases (R166, R168, R169, R170). -/
def planAnew (s : State) (a : Nat) (pre : List Phase) : State :=
  let x := axis s a
  if x.mode == 2 then beginMove s a pre x.target
  else if x.mode == 3 then beginJog s a pre (f2d x.jog)
  else s

/-- A commit acts on the plan in force (R168, R169): at once, or once the ramp that the axis is within has ended. -/
def replan (s : State) (a : Nat) (now : Bool) : State :=
  let x := axis s a
  if x.mode != 2 && x.mode != 3 then s
  else
    match rampLeft s x with
    | some r => if now then planAnew s a [] else if x.replan.isSome then s else axMod s a fun x => { x with replan := some r.2 }
    | none => planAnew s a []

/-- The ramp that a commit waited for ends before L(n + 2) (R168). -/
def replanDue (s : State) (a : Nat) : State :=
  let x := axis s a
  match x.replan with
  | none => s
  | some t =>
    if dlt (dmul (dn (x.k + 1)) (cycleT s)) t then s
    else planAnew (axMod s a fun x => { x with replan := none }) a (((rampLeft s x).map (·.1)).getD [])

/-- A binary32 value within bounds given as integers. -/
def inRange (w : Word) (lo hi : Int) : Bool := ffinite w && fle (fofInt lo) w && fle w (fofInt hi)

/-- The result code of a parameter commit (R164), 1 when it passes: the staged record against axis a. -/
def paramResult (s : State) (a : Nat) : Nat :=
  let st (i : Nat) : Word := rd s (Reg.PROF_BASTE_VMAX + 4 * i)
  let cap := dofQ (32768 * 1000000000) (s.cyc.operating * 125)
  let fine := inRange (st 0) 1 (10 ^ 30) && dle (f2d (st 0)) cap && inRange (st 1) 1 (10 ^ 12) && inRange (st 2) 1 (10 ^ 12) &&
    inRange (st 3) 1000 (10 ^ 16) && ffinite (st 4) && fle (st 4) (fofInt (10 ^ 13)) &&
    ((ffinite (st 5) && fle (st 5) 0 && fle 0 (st 5)) || inRange (st 5) 1000 (10 ^ 16)) && inRange (st 12) 0 (10 ^ 6) &&
    st 14 != 0 && wbits (st 11) 7 4 ≤ 8 && wbits (st 10) 1 0 != 3 && wbits (st 10) 9 8 != 3 &&
    !(wbit (st 15) 8 && (7 < wbits (st 15) 7 0 || !wbit (st 15) 9))
  let smin := sgn 64 ((st 6).toNat + (st 7).toNat * 2 ^ 32)
  let smax := sgn 64 ((st 8).toNat + (st 9).toNat * 2 ^ 32)
  if !fine then 2
  else if smax ≤ smin || flt (st 4) (st 2) then 3
  else if enabled s a && (wbit (st 11) 0 != isStepper s a || wbits (st 11) 7 4 != wbits (par s a 11) 7 4) then 4
  else 1

/-- Set the result of a commit or load. -/
def paramDone (s : State) (a result : Nat) : State :=
  let s := setBit (setF s Reg.PROF_BASTE_STATUS 3 1 result) Reg.PROF_BASTE_STATUS 0 false
  setF s Reg.PROF_BASTE_STATUS 15 8 a

/-- The parameter commit (R195 item 3). -/
def applyParams (s : State) : State :=
  match s.prof.commit with
  | none => s
  | some (a, now) =>
    let s := { s with prof := { s.prof with commit := none } }
    let r := paramResult s a
    if r != 1 then paramDone s a r
    else
      let old := par s a 11
      let s := (List.range 16).foldl (fun s i => setAct s (Reg.PROF_AX_PARAM a i) (rd s (Reg.PROF_BASTE_VMAX + 4 * i))) s
      let new := par s a 11
      let s := if wbit old 0 != wbit new 0 || wbits old 17 4 != wbits new 17 4 then
          axMod s a fun x => { x with referenced := false }
        else s
      paramDone (if enabled s a then replan s a now else s) a 1

/-- A write of PROF_BASTE_COMMIT as it lands (R164): a commit, or a load at once. -/
def landParamCommit (s : State) (v : Word) : State :=
  let a := wbits v 7 0
  if wbit v 9 then
    let s := (List.range 16).foldl (fun s i => wr s (Reg.PROF_BASTE_VMAX + 4 * i) (par s a i)) s
    okBus (paramDone s a 5)
  else
    let s := { s with prof := { s.prof with commit := some (a, wbit v 8) } }
    okBus (setF (setBit s Reg.PROF_BASTE_STATUS 0 true) Reg.PROF_BASTE_STATUS 15 8 a)

/-! ### The collision guard -/

/-- Whether a guard pair is enabled (R188). -/
def guardOn (s : State) (p : Nat) : Bool := fbit s (Reg.PROF_GRD_CFG p) 16

/-- The axes of a guard pair. -/
def guardAxes (s : State) (p : Nat) : Nat × Nat := (fld s (Reg.PROF_GRD_CFG p) 7 0, fld s (Reg.PROF_GRD_CFG p) 15 8)

/-- A position in line coordinates: of the lower axis, or of the upper with the offset. -/
def lineOf (s : State) (p : Nat) (upper : Bool) (x : Int) : Int :=
  if upper then (if fbit s (Reg.PROF_GRD_CFG p) 18 then -x else x) + sgn 64 (rd64 s (Reg.PROF_GRD_OFS_LO p))
  else if fbit s (Reg.PROF_GRD_CFG p) 17 then -x else x

/-- The clearance of a pair in 48.16. -/
def clearance (s : State) (p : Nat) : Int := ((rd s (Reg.PROF_GRD_CLEAR p)).toNat : Int) * 65536

/-- A pair applies while both its axes are referenced (R157). -/
def guardApplies (s : State) (p : Nat) : Bool :=
  (axis s (guardAxes s p).1).referenced && (axis s (guardAxes s p).2).referenced

/-- Whether a motion in a direction (+1, -1) of an axis reduces the gap of a tripped pair (R189). -/
def narrows (s : State) (a : Nat) (dir : Int) : Bool :=
  s.prof.tripped.any fun p =>
    let ab := guardAxes s p
    guardApplies s p && ((ab.1 == a && 0 < (if fbit s (Reg.PROF_GRD_CFG p) 17 then -dir else dir)) ||
      (ab.2 == a && (if fbit s (Reg.PROF_GRD_CFG p) 18 then -dir else dir) < 0))

/-- The pairs that trip on candidates for L(n + 2) (R188). -/
def guardTrips (s : State) (cand : Nat → SetPoint) : List Nat :=
  (List.range 32).filter fun p =>
    let ab := guardAxes s p
    let live := guardOn s p && !s.prof.tripped.contains p && guardApplies s p &&
      (enabled s ab.1 || enabled s ab.2)
    let env (a : Nat) (upper : Bool) : Int × Int :=
      let L := limits s a
      let c := cand a
      let u := lineOf s p upper c.pos
      let v := lineOf s p upper (c.stopPos (cycleT s) L.qsdec L.qsjerk)
      (min u v, max u v)
    live && (env ab.2 true).1 - (env ab.1 false).2 < clearance s p

/-- A pair trips: both axes quick-stop (R188). -/
def trip (s : State) (p : Nat) : State :=
  let ab := guardAxes s p
  let s := { s with prof := { s.prof with tripped := s.prof.tripped ++ [p] } }
  let s := setBit s (Reg.PROF_GRD_CFG p) 24 true
  let s := event s PROF 11 p
  quickStop (quickStop s ab.1) ab.2

/-! ### Segment streams -/

/-- A segment record as taken (R174): the segment with its record length, or why it cannot be taken: 1 the queue is empty,
2 segment-format, 3 segment-discontinuity. The read pointer follows WRAP records. -/
def readSegment (s : State) (g : Nat) (ends : List Int) : Nat → Nat → Nat × Nat × Seg
  | 0, rp => (1, rp, {})
  | fuel + 1, rp =>
    let G := group s g
    if rp == (rd s (Reg.PROF_GRP_WR_PTR g)).toNat then (1, rp, {})
    else
      let a := (rd s (Reg.PROF_GRP_QBASE g)).toNat + rp
      let h := readMem s .bolt a 32
      let ty := byteAt h 0
      if ty == 0 then readSegment s g ends fuel 0
      else
        let deg := byteAt h 1
        let n := G.members.length
        let dur := field h 8 4
        let len := if ty == 1 then 32 + n * (deg + 1) * 8 else 32
        if 2 < ty || 5 < deg || byteAt h 2 != n || dur < 0x100 || field h 16 2 != len then (2, rp, {})
        else
          let coef := if ty == 2 then ends.map fun e => [e]
            else (List.range n).map fun k => (List.range (deg + 1)).map fun i =>
              sgn 64 (leVal (readMem s .bolt (a + 32 + (k * (deg + 1) + i) * 8) 8))
          let far := (coef.zip ends).any fun ce =>
            let d := ce.1.headD 0 - ce.2
            65536 < d || d < -65536
          if far then (3, rp, {})
          else
            let next := rp + len
            let next := if (rd s (Reg.PROF_GRP_QLEN g)).toNat ≤ next then 0 else next
            (0, next, { last := bit (byteAt h 3) 0, id := word (field h 4 4), dur := dur, coef := coef })

/-- The positions of a segment's members at its end: the sum of the coefficients. -/
def segEnds (sg : Seg) : List Int := sg.coef.map fun cs => cs.foldl (· + ·) 0

/-- Coefficients of the derivative. -/
def derive (cs : List Int) : List Int := (List.range (cs.length - 1)).map fun i => cs.getD (i + 1) 0 * ((i : Int) + 1)

/-- Horner evaluation in 48.16 at u in 0.32, each step rounded to nearest with ties up (R175). (DESIGN CHOICE, log entry 18) -/
def horner (cs : List Int) (u : Nat) : Int :=
  cs.reverse.foldl (fun r c => Int.fdiv (r * u + 2 ^ 31) (2 ^ 32) + c) 0

/-- The set-points of a segment's members at σ with path rate ρ, both 32.32 (R175); past the end they run on along the
tangent (R177). -/
def segPoint (sg : Seg) (sigma rho : Nat) (cs : List Int) : SetPoint :=
  let d := sg.dur * 65536
  let d1 := derive cs
  let d2 := derive d1
  if sigma < d then
    let u := (sigma * 2 ^ 32 + d / 2) / d
    let w := horner d2 u
    { pos := horner cs u
      vel := Int.fdiv (horner d1 u * 65536 * rho * 2 + d) (2 * d)
      acc := d2f (ddiv (dofInt (w * rho * rho) (-16)) (dmul (dofInt d) (dofInt d))) }
  else
    let e := cs.foldl (· + ·) 0
    let slope := d1.foldl (· + ·) 0
    { pos := e + Int.fdiv (slope * (sigma - d) * 2 + d) (2 * d)
      vel := Int.fdiv (slope * 65536 * rho * 2 + d) (2 * d) }

/-- How an advance of a segment clock ended: 0 within a segment, 1 past a last segment, 2 underrun, 3 segment-format,
4 segment-discontinuity. -/
def advance (g : Nat) : Nat → State → Group → State × Group × Nat
  | 0, s, G => (s, G, 0)
  | fuel + 1, s, G =>
    match G.seg with
    | none => (s, G, 2)
    | some sg =>
      let d := sg.dur * 65536
      if G.sigma < d || G.tangent then (s, G, 0)
      else if sg.last then (s, G, 1)
      else
        let r := readSegment s g (segEnds sg) 3 (rd s (Reg.PROF_GRP_RD_PTR g)).toNat
        if r.1 == 1 then (wr s (Reg.PROF_GRP_RD_PTR g) (word r.2.1), { G with tangent := true, underrun := true }, 2)
        else if r.1 == 2 then (s, { G with tangent := true }, 3)
        else if r.1 == 3 then (s, { G with tangent := true }, 4)
        else
          let rp0 := (rd s (Reg.PROF_GRP_RD_PTR g)).toNat
          let at0 := if byteAt (readMem s .bolt ((rd s (Reg.PROF_GRP_QBASE g)).toNat + rp0) 1) 0 == 0 then 0 else rp0
          let h := readMem s .bolt ((rd s (Reg.PROF_GRP_QBASE g)).toNat + at0) 16
          let s := if bit (byteAt h 3) 1 then
              ringMod s fun x => { x with xt := x.xt ||| BitVec.ofNat 16 (2 ^ (byteAt h 12 % 16)) }
            else s
          let s := wr (wr s (Reg.PROF_GRP_RD_PTR g) (word r.2.1)) (Reg.PROF_GRP_SEG_ID g) r.2.2.id
          advance g fuel s { G with seg := some r.2.2, sigma := G.sigma - d }

/-- The most ρ may change in a cycle, 32.32 (R178): slew in 2^-14 per ms. -/
def slewStepOf (s : State) (g : Nat) : Nat := fld s (Reg.PROF_GRP_RATE g) 31 16 * 262144 * cycleNs s / 1000000

/-- The path rate of the next cycle (R175, R178, R181): 0 while a member holds for its phase (R193). -/
def nextRho (s : State) (g : Nat) (G : Group) : Nat :=
  if G.members.any fun a => (axis s a).restoring then 0
  else if G.state == 4 then
    let t := dmul (dn (G.kqs + 1)) (cycleT s)
    if !dlt t G.tqs then 0
    else (fmt64.toInt 0 (dmul (dn G.rho0) (dsub (dn 1) (ddiv t G.tqs))).toNat).toNat
  else
    let target := if G.state == 3 then 0 else min (fld s (Reg.PROF_GRP_RATE g) 15 0) 0x8000 * 262144
    let d := slewStepOf s g
    if G.rho < target then min target (G.rho + d) else max target (G.rho - d)

/-- One cycle of a streaming group: the state with the group advanced, how the advance ended, and the members' candidates. -/
def groupCycle (s : State) (g : Nat) : State × Nat × List (Nat × SetPoint) :=
  let G := group s g
  let rho := nextRho s g G
  let G := { G with rho := rho, sigma := G.sigma + rho, kqs := G.kqs + 1 }
  let r := advance g 1100 s G
  let G := r.2.1
  let pts := match G.seg with
    | none => G.members.map fun a => (a, (axis s a).sp1)
    | some sg => (G.members.zip sg.coef).map fun (m : Nat × List Int) =>
        (m.1, if r.2.2 == 1 then restAt (m.2.foldl (· + ·) 0) else segPoint sg G.sigma rho m.2)
  let pts := pts.map fun (m : Nat × SetPoint) => if G.frozen.contains m.1 then (m.1, restAt (axis s m.1).sp1.pos) else m
  (setGroup r.1 g G, r.2.2, pts)

/-- Set a flag of a group's state register. -/
def grpFlag (s : State) (g i : Nat) : State :=
  let G := group s g
  setGroup s g { G with flags := G.flags ||| 2 ^ i }

/-- A group ends its stream: members hold (R177, R178). -/
def groupEnd (s : State) (g : Nat) : State :=
  let G := group s g
  let s := setGroup s g { G with state := 5, rho := 0 }
  let s := G.members.foldl (fun s a =>
    if (axis s a).mode == 5 then axMod s a fun x => { x with mode := 1, plan := [], sp2 := restAt x.sp2.pos, planEnd := x.sp2.pos }
    else s) s
  if G.underrun then event (grpFlag s g 8) PROF 7 g else s

/-- Write the candidates of a group's members as their set-points for L(n + 2), and end the stream where it ends. An underrun
has put them on the tangent: ρ falls from the next cycle on (R177). -/
def groupWrite (s : State) (g : Nat) (how : Nat) (pts : List (Nat × SetPoint)) : State :=
  let s := pts.foldl (fun s m =>
    if (axis s m.1).mode == 5 then axMod s m.1 fun x => { x with sp2 := m.2 } else s) s
  let G := group s g
  if how == 1 then
    let fast := match G.seg with
      | none => false
      | some sg => (G.members.zip sg.coef).any fun m =>
          let v := (segPoint sg (sg.dur * 65536) G.rho m.2).rates (cycleT s)
          dlt (f2d (par s m.1 12)) (dabs v.1)
    groupEnd (if fast then event (grpFlag s g 12) PROF 6 g else s) g
  else if how == 2 then groupQuickFrom (·.sp2) s g
  else if G.rho == 0 && (G.state == 3 || G.state == 4) then groupEnd s g
  else if G.state == 1 || G.state == 2 then
    let hold := fld s (Reg.PROF_GRP_RATE g) 15 0 == 0 && G.rho == 0
    setGroup s g { G with state := if hold then 2 else 1 }
  else s

/-- Members whose candidate is faster than vmax (R176). -/
def overspeed (s : State) (pts : List (Nat × SetPoint)) : Bool :=
  pts.any fun m => dlt (limits s m.1).vmax (dabs (m.2.rates (cycleT s)).1)

/-- A candidate whose stop position lies outside the soft limits (R183). (DESIGN CHOICE, log entry 100) -/
def outside (s : State) (a : Nat) (c : SetPoint) : Bool :=
  match soft s a with
  | none => false
  | some (lo, hi) =>
    let L := limits s a
    let e := c.stopPos (cycleT s) L.qsdec L.qsjerk
    e < lo || hi < e

/-- The groups that stream. (DEDUCED, log entry 77) -/
def streaming (s : State) : List Nat := (s.prof.groups.filter fun e => 1 ≤ e.2.state && e.2.state ≤ 4).map (·.1)

/-- The checks of a streaming group on its candidates (R176, R177, R183); a failing group begins its quick stop. In a quick stop of the
group they go on, each finding told once. -/
def groupChecks (s : State) (g : Nat) : State :=
  let r := groupCycle s g
  let stopping := (group s g).state == 4
  let failed (s : State) (ev flagBit : Nat) : State :=
    let s := event (grpFlag s g flagBit) PROF ev g
    groupQuick (setGroup s g { group s g with tangent := true }) g
  let s := if r.2.1 == 3 then failed s 3 10
    else if r.2.1 == 4 then failed s 4 9
    else s
  let s := (r.2.2.filter fun m => outside s m.1 m.2 && !(stopping && (axis s m.1).limitStop)).foldl (fun s m => limitStopAx s m.1) s
  if overspeed s r.2.2 && !(stopping && bit (group s g).flags 11) then groupQuick (event (grpFlag s g 11) PROF 5 g) g else s

/-! ### FOLLOW -/

/-- The last three measured positions of an axis, or of a local encoder channel, newest first (R171). -/
def measuredOf (s : State) (chan : Bool) (m : Nat) : Int × Int × Int :=
  if chan then
    let x := encoder s (m % 8)
    (x.h1, x.h2, x.h3)
  else
    let x := axis s m
    (x.m1, x.m2, x.m3)

/-- The position of a follower's master and its derivatives for L(n + 2) (R171): 48.16, 32.32 and counts per cycle².
(DEDUCED, log entry 22) -/
def masterAt (s : State) (a : Nat) : SetPoint :=
  let c := par s a 15
  let m := wbits c 7 0
  if !wbit c 9 && !wbit c 8 then
    let y := (axis s m).sp1
    { pos := y.pos + Int.fdiv y.vel 65536, vel := y.vel, acc := y.acc }
  else
    let h := measuredOf s (wbit c 8) m
    let v := h.1 - h.2.1
    { pos := (h.1 + 3 * v) * 65536, vel := v * 2 ^ 32, acc := fofInt (h.1 - 2 * h.2.1 + h.2.2) }

/-- The candidate of an axis in FOLLOW (R171). (DEDUCED, log entry 22) -/
def followPoint (s : State) (a : Nat) : SetPoint :=
  let x := axis s a
  let m := masterAt s a
  let num := (par s a 13).toInt
  let den : Int := (par s a 14).toNat
  { pos := x.offset + Int.fdiv ((m.pos - x.mref) * num) den
    vel := Int.fdiv (m.vel * num) den
    acc := d2f (dmul (f2d m.acc) (ddiv (dn num) (dn den))) }

/-- Whether a FOLLOW candidate is too fast (R172). -/
def followFast (s : State) (a : Nat) (c : SetPoint) : Bool :=
  let L := limits s a
  let r := c.rates (cycleT s)
  dlt L.vmax (dabs r.1) || dlt (dmax L.acc L.dec) (dabs r.2)

/-! ### Candidates -/

/-- The candidate of an enabled axis outside a stream for L(n + 2), with the axis as it stands after it; an axis that waits for its phase
holds (R193). -/
def axisCycle (s : State) (a : Nat) : Axis :=
  let x := axis s a
  let T := cycleT s
  if x.restoring then { x with sp2 := restAt x.sp1.pos, mode := 1, plan := [], replan := none }
  else if x.mode == 1 || x.mode == 5 then { x with sp2 := restAt x.sp1.pos }
  else if x.mode == 4 then { x with sp2 := followPoint s a }
  else
    match phaseAt x.plan (dmul (dn (x.k + 1)) T) with
    | some (p, t) => { x with sp2 := p.setPoint t T }
    | none => { x with sp2 := restAt x.planEnd, mode := 1, plan := [], inPosition := x.mode == 2 }

/-- A limit stop in progress that goes beyond the limit is clamped there (R183), unless the axis stood outside when it began, so that
the clamp would be a jump (DESIGN CHOICE, log entry 100). -/
def clampLimit (s : State) (a : Nat) : State :=
  let x := axis s a
  match soft s a with
  | none => s
  | some (lo, hi) =>
    let above := hi < x.sp2.pos && x.sp1.pos ≤ hi
    let below := x.sp2.pos < lo && lo ≤ x.sp1.pos
    if x.limitStop && (above || below) then
      let p := restAt (if above then hi else lo)
      let s := axMod s a fun x => { x with sp2 := p, planEnd := p.pos, overrun := true }
      if x.overrun then s else event s PROF 9 a
    else s

/-- The soft limit ahead of a jog that its stop position reaches (R170). -/
def jogLimit (s : State) (a : Nat) : Option Int :=
  let x := axis s a
  if x.mode != 3 then none
  else
    match soft s a with
    | none => none
    | some (lo, hi) =>
      let c := (axisCycle s a).sp2
      let L := limits s a
      let e := c.stopPos (cycleT s) L.dec L.jerk
      if 0 < c.vel && hi ≤ e then some hi
      else if c.vel < 0 && e ≤ lo then some lo
      else none

/-- A jog whose stop reaches the soft limit ahead becomes a MOVE to it (R170). -/
def jogToMove (s : State) (a : Nat) : State :=
  match jogLimit s a with
  | some t => beginMove s a [] t
  | none => s

/-- After a commit of narrower limits a MOVE goes on to a target outside them (R184): it stops as its stop position leaves the range in
the direction of motion (DEDUCED, log entry 100). -/
def strays (s : State) (a : Nat) : Bool :=
  let x := axis s a
  match soft s a with
  | none => false
  | some (lo, hi) =>
    let c := (axisCycle s a).sp2
    let L := limits s a
    let e := c.stopPos (cycleT s) L.qsdec L.qsjerk
    x.mode == 2 && ((hi < x.target && 0 < c.vel && hi < e) || (x.target < lo && c.vel < 0 && e < lo))

/-- The checks of an axis outside a stream on its candidate (R172, R183, R184). -/
def axisChecks (s : State) (a : Nat) : State :=
  if strays s a then limitStopAx s a
  else if (axis s a).mode == 4 && !(axis s a).restoring then
    let c := followPoint s a
    if followFast s a c then event (quickStop s a) PROF 2 a
    else if outside s a c then limitStopAx s a
    else s
  else s

/-- Every enabled axis writes its set-point for L(n + 2); a disabled one follows its measured position (R158, R159). -/
def writePoint (s : State) (a : Nat) : State :=
  let x := axis s a
  if x.mode == 0 then
    let p := restAt (measured s a * 65536)
    setAxis s a { x with sp0 := p, sp1 := p, sp2 := p }
  else
    let s := setAxis s a (axisCycle s a)
    if x.mode == 7 then clampLimit s a else s

/-- The axes that have a context: those that ever left their defaults, and those with an input. -/
def contexts (s : State) : List Nat :=
  (List.range 256).filter fun a => axis s a != {} || input s a != {}

/-- The candidates of the cycle, by axis, before the checks stop anything. -/
def candidates (s : State) : Nat → SetPoint :=
  let gs : List (Nat × SetPoint) := ((streaming s).map fun g => (groupCycle s g).2.2).flatten
  fun a =>
    match gs.find? fun (m : Nat × SetPoint) => m.1 == a && (axis s a).mode == 5 with
    | some m => m.2
    | none => if enabled s a then (axisCycle s a).sp2 else restAt (measured s a * 65536)

/-! ### Commands -/

/-- The direction of a motion from the present set-point: +1, -1 or 0. -/
def dirTo (x : Axis) (target : Int) : Int := if x.sp1.pos < target then 1 else if target < x.sp1.pos then -1 else 0

/-- Why a motion in a direction is refused (R184, R187, R189), 1 where it is not. -/
def dirResult (s : State) (a : Nat) (dir : Int) : Nat :=
  let x := axis s a
  let away := match soft s a with
    | none => false
    | some (lo, hi) => (hi < x.sp1.pos && 0 < dir) || (x.sp1.pos < lo && dir < 0)
  if (x.limPos && x.limNeg) || (x.limPos && 0 < dir) || (x.limNeg && dir < 0) then 4
  else if away then 3
  else if narrows s a dir then 6
  else 1

/-- Why a motion command to an axis is refused at all (R156, R193, R195, R196), 1 where it is not. (DEDUCED, log entry 80) -/
def axisResult (s : State) (a : Nat) : Nat :=
  let x := axis s a
  if x.mode == 0 then 2
  else if x.mode == 5 || (streamOf s a).isSome then 9
  else if x.mode == 7 || x.limitHeld then (if x.limPos && x.limNeg then 4 else 5)
  else if isStepper s a && !x.phaseOk then 10
  else 1

/-- A command that moves an axis to a target (R166, R183). -/
def moveCmd (s : State) (a : Nat) (target : Int) : Nat × State :=
  let x := axis s a
  let r := axisResult s a
  if r != 1 then (r, s)
  else if x.mode == 4 then (9, s)
  else if !x.referenced then (7, s)
  else
    let d := dirResult s a (dirTo x target)
    let out := match soft s a with
      | none => false
      | some (lo, hi) => target < lo || hi < target
    if d != 1 then (d, s) else if out then (3, s) else (1, beginMove s a [] target)

/-- JOG (R170). -/
def jogCmd (s : State) (a : Nat) (w : Word) : Nat × State :=
  let x := axis s a
  let r := axisResult s a
  if !ffinite w || dlt (limits s a).vmax (dabs (f2d w)) then (8, s)
  else if r != 1 then (r, s)
  else if x.mode == 4 then (9, s)
  else
    let d := dirResult s a (if flt 0 w then 1 else if flt w 0 then -1 else 0)
    if d != 1 then (d, s) else (1, beginJog s a [] (f2d w))

/-- FOLLOW (R171, R172). (DEDUCED, log entry 22) -/
def followCmd (s : State) (a : Nat) : Nat × State :=
  let x := axis s a
  let r := axisResult s a
  if r != 1 then (r, s)
  else if x.mode != 1 then (9, s)
  else
    let c := followPoint s a
    let d := dirResult s a (if 0 < c.vel then 1 else if c.vel < 0 then -1 else 0)
    if d != 1 then (d, s)
    else (1, axMod s a fun x => { x with mode := 4, plan := [], offset := x.sp1.pos,
                                         mref := (masterAt s a).pos, inPosition := false })

/-- ENABLE (R37, R158, R195, R464, R569): result 0 keeps the command pending until the region has woken. judge is false for a journaled
ENABLE, which its journal holder has judged. -/
def enableCmd (s : State) (a : Nat) (judge : Bool) : Nat × State :=
  if fbit s Reg.FPM_STATUS 0 then (9, s)
  else if enabled s a then (if (axis s a).mode == 7 || (axis s a).limitHeld then 5 else 1, s)
  else if judge && (ringSt s != 5 && ringSt s != 6) then (11, s)
  else if judge && !anyEnabled s && !cycleValid s s.cyc.operating then (11, event s RING 1)
  else if s.pwr.off.contains .mot || s.pwr.off.contains .hem then
    (0, regionAsk s)
  else
    let p := restAt (measured s a * 65536)
    (1, axMod s a fun x => { x with mode := 1, plan := [], sp1 := p, sp2 := p, planEnd := p.pos, inPosition := false })

/-- Shift the set-points that the loop engine holds for an axis (R196). -/
def shiftLoop (s : State) (a : Nat) (d : Int) : State :=
  let x : LoopAxis := tget (fun _ => {}) s.loop.axes a
  if x == {} then s
  else
    let x := { x with hist := x.hist.map (fun p => { p with pos := p.pos + d }), fbPrev := x.fbPrev.map (· + d),
                      fbFresh := x.fbFresh + d }
    { s with loop := { s.loop with axes := tput (fun _ => {}) s.loop.axes a x } }

/-- SET_REF (R157, R195, R196). -/
def setRefCmd (s : State) (a : Nat) (v : Int) : Nat × State :=
  let x := axis s a
  if x.mode == 7 || x.limitHeld then (5, s)
  else if 1 < x.mode then (9, s)
  else
    let d := v - x.sp1.pos
    let s := axMod s a fun x => { x with referenced := true, phaseLost := false, shift := x.shift + d,
                                         sp1 := { x.sp1 with pos := v }, sp2 := { x.sp2 with pos := x.sp2.pos + d },
                                         planEnd := x.planEnd + d, target := x.target + d, m1 := x.m1 + Int.fdiv d 65536,
                                         m2 := x.m2 + Int.fdiv d 65536, m3 := x.m3 + Int.fdiv d 65536 }
    (1, shiftLoop s a d)

/-- CLEAR_GUARD (R189). -/
def clearGuardCmd (s : State) (p : Nat) : Nat × State :=
  if 32 ≤ p then (8, s)
  else
    let ab := guardAxes s p
    let gap := lineOf s p true (axis s ab.2).sp1.pos - lineOf s p false (axis s ab.1).sp1.pos
    if guardApplies s p && gap < clearance s p then (6, s)
    else
      let s := { s with prof := { s.prof with tripped := s.prof.tripped.filter (fun q => q != p) } }
      (1, setBit s (Reg.PROF_GRD_CFG p) 24 false)

/-- STREAM_START (R178). -/
def streamStartCmd (s : State) (g : Nat) : Nat × State :=
  let G := group s g
  if 64 ≤ g || !G.defined then (8, s)
  else
    let ms := G.members
    if !(G.state == 0 || G.state == 5) || G.underrun || rd s (Reg.PROF_GRP_RD_PTR g) == rd s (Reg.PROF_GRP_WR_PTR g) then (9, s)
    else if ms.any fun a => !enabled s a then (2, s)
    else if ms.any fun a => (axis s a).limitHeld then (5, s)
    else if ms.any fun a => (axis s a).mode != 1 then (9, s)
    else if ms.any fun a => isStepper s a && !(axis s a).phaseOk then (10, s)
    else if ms.any fun a => !(axis s a).referenced then (7, s)
    else if ms.any fun a => (axis s a).limPos || (axis s a).limNeg then (4, s)
    else if ms.any fun a => narrows s a 1 || narrows s a (-1) then (6, s)
    else
      let hold : Seg := { dur := 0, coef := ms.map fun a => [(axis s a).sp1.pos] }
      let G := { G with state := 1, flags := 0, sigma := 0, rho := 0, seg := some hold, tangent := false, frozen := [] }
      (1, ms.foldl (fun s a => axMod s a fun x => { x with mode := 5, plan := [], inPosition := false }) (setGroup s g G))

/-- GROUP_STOP, GROUP_QSTOP and FLUSH (R178, R181). -/
def groupCmd (s : State) (op g : Nat) : Nat × State :=
  let G := group s g
  if 64 ≤ g || !G.defined then (8, s)
  else if op == 0x13 then
    if G.state == 0 || G.state == 5 then
      (1, setGroup (wr s (Reg.PROF_GRP_RD_PTR g) (rd s (Reg.PROF_GRP_WR_PTR g))) g { G with state := 0, underrun := false, seg := none })
    else (9, s)
  else if !(1 ≤ G.state && G.state ≤ 3) then (if G.state == 4 && op == 0x12 then (1, s) else (9, s))
  else if op == 0x11 then (1, setGroup s g { G with state := 3 })
  else (1, groupQuick s g)

/-- STOP (R180). -/
def stopCmd (s : State) (a : Nat) : Nat × State :=
  let x := axis s a
  if x.mode == 0 then (2, s)
  else if x.mode == 5 || (streamOf s a).isSome then (9, s)
  else if x.mode == 7 || x.limitHeld then (5, s)
  else if x.mode == 1 || x.mode == 6 then (1, s)
  else
    let L := limits s a
    let p := restPlan s a 7 L.dec L.jerk
    (1, startPlan s a 6 p.1 p.2)

/-- A command takes effect (R195 item 4, R196): its result and the state. (DEDUCED, log entry 15) -/
def profCommand (s : State) (op ix : Nat) (a0 a1 : Word) (judge : Bool) : Nat × State :=
  let v64 := sgn 64 (a0.toNat + a1.toNat * 2 ^ 32)
  match op with
  | 0x01 => moveCmd s ix v64
  | 0x02 =>
    let x := axis s ix
    moveCmd s ix ((if x.mode == 2 then x.target else x.sp1.pos) + v64)
  | 0x03 => jogCmd s ix a0
  | 0x04 => stopCmd s ix
  | 0x05 => (1, quickStop s ix)
  | 0x06 => followCmd s ix
  | 0x07 => enableCmd s ix judge
  | 0x08 => (1, disableAxis s ix)
  | 0x09 => setRefCmd s ix v64
  | 0x0A => clearGuardCmd s ix
  | 0x10 => streamStartCmd s ix
  | 0x11 => groupCmd s op ix
  | 0x12 => groupCmd s op ix
  | 0x13 => groupCmd s op ix
  | _ => (8, s)

/-- Report a command's result. -/
def cmdDone (s : State) (result : Nat) : State :=
  setBit (setF s Reg.PROF_CMD_STATUS 4 1 result) Reg.PROF_CMD_STATUS 0 false

/-- The pending command takes effect (R195 item 4). In a pair the journal holder has judged an ENABLE when it stamped it
(R569). (DEDUCED, log entry 44) -/
def applyCommand (s : State) : State :=
  match s.prof.cmd with
  | none => s
  | some (op, ix, a0, a1, _, _) =>
    let r := profCommand s op ix a0 a1 (twinSt s == 0)
    if r.1 == 0 then r.2 else cmdDone { r.2 with prof := { r.2.prof with cmd := none } } r.1

/-- A write of PROF_CMD as it lands (R196). (DEDUCED, log entry 44) -/
def landProfCmd (s : State) (v : Word) : State :=
  let op := wbits v 15 8
  let ix := wbits v 7 0
  let s := { s with prof := { s.prof with
    cmd := some (op, ix, rd s (Reg.PROF_CMD_ARG 0), rd s (Reg.PROF_CMD_ARG 1), rd s (Reg.PROF_CMD_ARG 2), rd s (Reg.PROF_CMD_ARG 3)) } }
  let s := setF (setF s Reg.PROF_CMD_STATUS 15 8 op) Reg.PROF_CMD_STATUS 23 16 ix
  okBus (setBit s Reg.PROF_CMD_STATUS 0 true)

/-! ### Steppers and phase retention -/

/-- The motor count of a stepper axis (R191). -/
def motorCount (s : State) (a : Nat) : Int := Int.fdiv ((axis s a).sp2.pos - (axis s a).shift) 65536

/-- The microstep phase of a stepper axis (R191). -/
def motorPhase (s : State) (a : Nat) : Nat :=
  let c := par s a 11
  (((wbits c 17 8 : Nat) : Int) + motorCount s a * 2 ^ (8 - wbits c 7 4) % 1024).toNat % 1024

/-- A retention entry (R192). -/
def retEntry (s : State) (a : Nat) : List Byte :=
  let x := axis s a
  let b := leBytes 6 (unsg 48 (motorCount s a)) ++ leBytes 2 (motorPhase s a + 4096 * flag x.referenced + 8192) ++
    leBytes 6 (unsg 48 (Int.fdiv x.shift 65536))
  b ++ leBytes 2 (crc16 b)

/-- Where a copy of an axis's entry stands in the retention store. -/
def retAt (a : Nat) (copy : Bool) : Nat := 32 * a + (if copy then 16 else 0)

/-- A retention entry that checks. -/
def retOk (b : List Byte) : Bool := b.length == 16 && field b 14 2 == crc16 (b.take 14) && bit (field b 6 2) 13

/-- Which copy of an axis's entry is the newer: false the first (R192). -/
def retCopy (s : State) (a : Nat) : Bool := s.sec.retCopy.contains a

/-- Note which copy is the newer. -/
def setRetCopy (s : State) (a : Nat) (c : Bool) : State :=
  { s with sec := { s.sec with retCopy := if c then a :: s.sec.retCopy else s.sec.retCopy.filter (· != a) } }

/-- The retained entry of a stepper axis is lost (R194): unreferenced, with phase_lost, until SET_REF. -/
def phaseLoss (s : State) (a : Nat) : State :=
  event (axMod s a fun x => { x with phaseLost := true, referenced := false, retainCheck := false }) PROF 15 a

/-- VDD_AON is lost or out of range (R194): every entry goes, and lost shows it. -/
def retentionLost (s : State) : State :=
  let s := { s with mem := { s.mem with ret := [] }, sec := { s.sec with retCopy := [] } }
  let s := setF s Reg.PROF_RET_STATUS 1 0 2
  ((List.range 256).filter (isStepper s)).foldl phaseLoss s

/-- Rewrite the older copy of a changed entry (R192). -/
def retain (s : State) (a : Nat) : State :=
  let x := axis s a
  if !isStepper s a || x.retainCheck then s
  else
    let e := retEntry s a
    let c := retCopy s a
    if readMem s .ret (retAt a c) 16 == e then s else setRetCopy (writeMem s .ret (retAt a (!c)) e) a (!c)

/-- At the start of a boot an axis takes up its retained entry (R194): the newer copy that checks, or the axis is lost.
(DEDUCED, log entry 75) -/
def retainLoad (s : State) (a : Nat) : State :=
  if !isStepper s a then s
  else
    let ok (c : Bool) : Bool := retOk (readMem s .ret (retAt a c) 16)
    let c := retCopy s a
    if ok c || ok (!c) then axMod (setRetCopy s a (if ok c then c else !c)) a fun x => { x with retainCheck := true }
    else phaseLoss (setF s Reg.PROF_RET_STATUS 16 8 (fld s Reg.PROF_RET_STATUS 16 8 + 1)) a

/-- The first valid input of an axis after a reset is held against its retained entry (R194). (DEDUCED, log entry 75) -/
def retainMatch (s : State) (a : Nat) : State :=
  let x := axis s a
  if !x.retainCheck || !(input s a).valid then s
  else
    let e := readMem s .ret (retAt a (retCopy s a)) 16
    let c := sgn 48 (field e 0 6)
    let d := (input s a).ext - c
    let half : Int := 2 ^ wbits (par s a 11) 7 4
    let close := 2 * d ≤ half && -half ≤ 2 * d
    let sh := sgn 48 (field e 8 6) * 65536
    axMod s a fun x => { x with retainCheck := false, shift := sh, referenced := close && bit (field e 6 2) 12 }

/-- pwr_on and phase_ok of an axis at a returned record (R193): PHASE_RESTORE, or a quick stop when power is lost in motion.
(DEDUCED, log entry 75) -/
def phaseWatch (s : State) (a : Nat) : State :=
  let x := axis s a
  let st := (input s a).status.toNat
  let on := bit st 3
  let ok := bit st 10
  if !isStepper s a then axMod s a fun x => { x with pwrOn := on }
  else
    let s := retainMatch s a
    let s := axMod s a fun x => { x with pwrOn := on, phaseOk := ok, restoring := x.restoring && !ok }
    if on && !x.pwrOn && !ok && enabled s a then
      match s.ring.sections.find? fun y => y.axes.contains a with
      | none => s
      | some sec =>
        let data := BitVec.ofNat 8 (sec.axes.idxOf a) :: leBytes 2 (motorPhase s a)
        axMod (svcStart s ⟨sec.position, 0x07, 0, data, .phase a⟩) a fun x => { x with restoring := true }
    else if !on && x.pwrOn && (x.sp1.vel != 0 || x.sp2.vel != 0) && x.mode != 0 then
      event (request s (.quick a)) PROF 14 a
    else s

/-- The worker's answer to PHASE_RESTORE, or its failure (R193). (DEDUCED, log entry 75) -/
def phaseAnswer (s : State) (a result : Nat) (data : List Byte) : State :=
  let moved := sgn 16 (field data 1 2)
  let perUnit : Int := 2 ^ (8 - wbits (par s a 11) 7 4)
  let near := moved * perUnit ≤ 128 && -128 ≤ moved * perUnit
  if result == 0 && byteAt data 0 == 0 then s
  else if result == 0 && byteAt data 0 == 1 && near then event s PROF 12 a (unsg 16 moved)
  else axMod (event s PROF 13 a (unsg 16 moved)) a fun x => { x with referenced := false }

/-- The answers to PHASE_RESTORE among the ended service exchanges. -/
def phaseAnswers (s : State) : State :=
  let mine (d : SvcDone) : Option Nat := match d.origin with
    | .phase a => some a
    | _ => none
  let ds := s.ring.done
  let s := ringMod s fun r => { r with done := ds.filter fun d => (mine d).isNone }
  ds.foldl (fun s d => match mine d with
    | none => s
    | some a => phaseAnswer s a d.result d.data) s

/-! ### The latch instant -/

/-- Each axis moves on by one cycle: what was for L(n + 2) is for L(n + 1), and its measured position joins the last three. -/
def stepAxis (s : State) (a : Nat) : State :=
  let m := measured s a
  axMod s a fun x => { x with sp0 := x.sp1, sp1 := x.sp2, k := x.k + 1, m3 := x.m2, m2 := x.m1, m1 := m }

/-- The enabled axes in the order in which their input records arrive (R25). -/
def liveOrder (s : State) : List Nat :=
  let o := recordOrder s
  o.filter (enabled s) ++ (enabledAxes s).filter fun a => !o.contains a

/-- The axes that a joint decision concerns (R162): all that are joined to some through streaming groups and enabled guard pairs. -/
def joined (s : State) : Nat → List Nat → List Nat
  | 0, as => as
  | n + 1, as =>
    let grp := ((streaming s).map fun g => (group s g).members).filter fun ms => ms.any as.contains
    let prs := (((List.range 32).filter (guardOn s)).map fun p => [(guardAxes s p).1, (guardAxes s p).2]).filter fun ms => ms.any as.contains
    let more := ((grp ++ prs).flatten.filter fun a => !as.contains a).eraseDups
    if more.isEmpty then as else joined s n (as ++ more)

/-- The decision that an axis opens (R162): the checks of every axis and group concerned, in arrival order, then the pairs among them that
trip on the candidates. Gives the axes decided. -/
def decide1 (trips : List Nat) (p : State × List Nat) (a : Nat) : State × List Nat :=
  let s := p.1
  if p.2.contains a then p
  else
    let all := joined s 32 [a]
    let order := (liveOrder s).filter all.contains
    let gs := (order.filterMap (streamOf s)).eraseDups
    let s := gs.foldl groupChecks s
    let s := (order.filter fun a => (streamOf s a).isNone).foldl axisChecks s
    ((trips.filter fun p => all.contains (guardAxes s p).1 || all.contains (guardAxes s p).2).foldl trip s, p.2 ++ all)

/-- The set-point cycle of the profile engine at L(n) (R25, R162, R195). -/
def profLatch (s : State) : State :=
  let s := (contexts s).foldl stepAxis s
  let s := applyCommand (applyParams (switches (applyRequests s)))
  let live := liveOrder s
  let s := live.foldl (fun s a => jogToMove (replanDue s a) a) s
  let trips := guardTrips s (candidates s)
  let s := (live.foldl (decide1 trips) (s, [])).1
  let single := (contexts s).filter fun a => (axis s a).mode != 5
  let s := (streaming s).foldl (fun s g =>
    let r := groupCycle s g
    let G := group s g
    let s := groupWrite r.1 g r.2.1 r.2.2
    if G.state == 4 then G.members.foldl clampLimit s else s) s
  let s := single.foldl writePoint s
  ((List.range 256).filter (isStepper s)).foldl retain s

end Sys2Proof.Machine
end

