-- ==== Sys2Proof/Machine/Loop.lean ====
section
/-! DEFINITION. The loop engine (06_loop_engine.md): coefficient records, the sample of an axis, the output stage of a Hem
axis, and the injectors. -/

namespace Sys2Proof.Machine

/-! ### Coefficient records -/

/-- The words that R220 gives a default other than 0. (DEDUCED, log entry 50) -/
def coefDefault (i : Nat) : Word :=
  if i == 0 then 0x00580530
  else if [5, 8, 13, 34, 40, 45, 50, 55, 84, 85, 96, 97].contains i then 0x3F800000
  else if i == 36 then 16
  else if i == 70 then 0x3E800000
  else if i == 80 then 0x3F000000
  else 0

/-- Double-bank mode is in force (R223). -/
def doubleBank (s : State) : Bool := fbit s Reg.SYS_AXIS_CFG 9

/-- The axes that the configuration names. -/
def configured (s : State) (a : Nat) : Bool := s.ring.sections.any fun x => x.axes.contains a

/-- A coefficient word of a bank. -/
def bankWord (s : State) (one : Bool) (a i : Nat) : Word :=
  tget (fun _ => 0) (if one then s.loop.bank1 else s.loop.bank0) (128 * a + i)

/-- Store a coefficient word of a bank. -/
def setBank (s : State) (one : Bool) (a i : Nat) (v : Word) : State :=
  if one then { s with loop := { s.loop with bank1 := tput (fun _ => 0) s.loop.bank1 (128 * a + i) v } }
  else { s with loop := { s.loop with bank0 := tput (fun _ => 0) s.loop.bank0 (128 * a + i) v } }

/-- The active bank of an axis (R223); bank 0 in single-bank mode. -/
def activeBank (s : State) (a : Nat) : Bool := doubleBank s && s.loop.active1.contains a

/-- A word of an axis's active record. -/
def coef (s : State) (a i : Nat) : Word := bankWord s (activeBank s a) a i

/-- The bank that LOOP_AXa_COEF addresses (R224, R225). -/
def windowBank (s : State) (a : Nat) : Bool := if doubleBank s then !activeBank s a else false

/-- The axis's torque passes through a Hem task (R221). -/
def hemHook (s : State) (a : Nat) : Bool := wbit (coef s a 0) 6

/-- A binary32 constant. -/
def one32 : Word := 0x3F800000

/-- Bounds of a binary32 coefficient word: 0 to a bound. -/
def upTo (w : Word) (hi : Int) : Bool := inRange w 0 hi

/-- The check of R222 on a record: 1 valid, 2 a word out of range, 3 a field of ctrl invalid, 4 a reserved bit or word set. -/
def coefCheck (s : State) (a : Nat) (w : Nat → Word) : Nat :=
  let biq := (List.range 10).all (fun i => ffinite (w (8 + i))) && (List.range 20).all (fun i => ffinite (w (40 + i)))
  let ranges := upTo (w 1) (10 ^ 12) && upTo (w 2) 1 && upTo (w 3) 1 && upTo (w 4) (10 ^ 6) && upTo (w 5) 2 &&
    upTo (w 6) (10 ^ 6) && biq && upTo (w 32) 1000 && upTo (w 33) 1000 && upTo (w 34) 1 && upTo (w 35) (10 ^ 6) &&
    (w 36).toNat ≤ 65535 && inRange (w 64) (-(10 ^ 9)) (10 ^ 9) && upTo (w 65) 1 && upTo (w 66) 1000 && upTo (w 67) (10 ^ 6) &&
    inRange (w 68) (-1) 1 && upTo (w 69) 1 && ffinite (w 70) && fle 0x3C23D70A (w 70) && fle (w 70) one32 && upTo (w 80) 1 &&
    upTo (w 81) 4 && upTo (w 82) (10 ^ 9) && upTo (w 83) 1 && upTo (w 84) 1 && fle (w 83) (w 84) && upTo (w 85) 1 &&
    (w 86).toNat ≤ 65535 && upTo (w 96) 1 && upTo (w 97) 1
  let c := w 0
  let fields := wbits c 2 0 ≤ 4 && wbits c 8 7 ≤ 2 && wbits c 11 9 ≤ 4 && wbits c 19 18 ≤ 2 &&
    ((wbits c 2 0 == 4) == isStepper s a)
  let blank (lo n : Nat) : Bool := (List.range n).all fun i => w (lo + i) == 0
  let reserved := wbits c 31 28 == 0 && !wbit c 3 && blank 7 1 && blank 18 14 && blank 37 3 && blank 60 4 && blank 71 9 &&
    blank 87 9 && blank 98 30
  if !ranges then 2 else if !fields then 3 else if !reserved then 4 else 1

/-! ### Operations of a lane -/

/-- The pending operation of a lane. -/
def laneOp (s : State) (l : Nat) : Option LaneOp := tget (fun _ => none) s.loop.ops l

/-- Set the pending operation of a lane. -/
def setLaneOp (s : State) (l : Nat) (o : Option LaneOp) : State :=
  { s with loop := { s.loop with ops := tput (fun _ => none) s.loop.ops l o } }

/-- What a lane keeps of an axis. -/
def loopAx (s : State) (a : Nat) : LoopAxis := tget (fun _ => {}) s.loop.axes a

/-- Store what a lane keeps of an axis. -/
def setLoopAx (s : State) (a : Nat) (x : LoopAxis) : State :=
  { s with loop := { s.loop with axes := tput (fun _ => {}) s.loop.axes a x } }

/-- Filter states, integrators and saturation memory of an axis at zero (R228). -/
def LoopAxis.cleared (x : LoopAxis) : LoopAxis := { x with ipos := 0, ivel := 0, bq := [], satPrev := 0, vsatPrev := 0 }

/-- End a lane's commit or load with a result. -/
def lopDone (s : State) (reg l a result : Nat) : State :=
  let s := setBit (setF s reg 18 16 result) reg l false
  setLaneOp (setF s reg 31 24 a) l none

/-- A commit takes effect at the sample boundary (R222, R226, R228). -/
def commitApply (s : State) (l : Nat) (o : LaneOp) : State :=
  let w (i : Nat) : Word := rd s (Reg.LOOP_LANE_BASTE l i)
  let r := coefCheck s o.axis w
  if r != 1 then lopDone s Reg.LOOP_BASTE_STATUS l o.axis r
  else
    let s := (List.range 128).foldl (fun s i => setBank s (activeBank s o.axis) o.axis i (w i)) s
    let s := if o.clear then setLoopAx s o.axis (loopAx s o.axis).cleared else s
    lopDone s Reg.LOOP_BASTE_STATUS l o.axis 1

/-- A swap takes effect at the sample boundary (R222, R224, R228); with copy_back it stays pending until the copy. -/
def swapApply (s : State) (l : Nat) (o : LaneOp) : State :=
  let other := !activeBank s o.axis
  if coefCheck s o.axis (bankWord s other o.axis) != 1 then lopDone s Reg.LOOP_BANK_STATUS l o.axis 3
  else
    let s := { s with loop := { s.loop with
      active1 := if other then o.axis :: s.loop.active1 else s.loop.active1.filter (fun b => b != o.axis) } }
    let s := if o.clear then setLoopAx s o.axis (loopAx s o.axis).cleared else s
    if o.copyBack then setLaneOp s l (some { o with kind := 3 }) else lopDone s Reg.LOOP_BANK_STATUS l o.axis 1

/-- The copy after a swap completes (R224). (DEDUCED, log entry 77) -/
def copyBack (s : State) (l : Nat) (o : LaneOp) : State :=
  let act := activeBank s o.axis
  let s := (List.range 128).foldl (fun s i => setBank s (!act) o.axis i (bankWord s act o.axis i)) s
  lopDone s Reg.LOOP_BANK_STATUS l o.axis 2

/-- Apply the pending commit of a lane. -/
def coefCommitApply (s : State) (l : Nat) : State :=
  match laneOp s l with
  | some o => if o.kind == 0 then commitApply s l o else s
  | none => s

/-- Apply the pending swap of a lane. -/
def bankSwapApply (s : State) (l : Nat) : State :=
  match laneOp s l with
  | some o => if o.kind == 2 then swapApply s l o else s
  | none => s

/-- Complete the pending copy of a lane. -/
def copyBackDone (s : State) (l : Nat) : State :=
  match laneOp s l with
  | some o => if o.kind == 3 then copyBack s l o else s
  | none => s

/-- Everything pending on an axis takes effect before its next sample (R224, R226). -/
def boundary (s : State) (a : Nat) : State :=
  match laneOp s (a % 16) with
  | some o => if o.axis == a then copyBackDone (bankSwapApply (coefCommitApply s (a % 16)) (a % 16)) (a % 16) else s
  | none => s

/-- A write of LOOP_BASTE_COMMIT as it lands (R226, R227). -/
def landCoefCommit (s : State) (v : Word) : State :=
  let a := wbits v 7 0
  let l := a % 16
  if (laneOp s l).isSome || !configured s a then slverr s
  else if wbit v 8 then
    let s := (List.range 128).foldl (fun s i => wr s (Reg.LOOP_LANE_BASTE l i) (coef s a i)) s
    okBus (lopDone s Reg.LOOP_BASTE_STATUS l a 5)
  else
    okBus (setBit (setLaneOp s l (some ⟨0, a, wbit v 9, false⟩)) Reg.LOOP_BASTE_STATUS l true)

/-- A write of LOOP_BANK_SWAP as it lands (R224, R227). -/
def landBankSwap (s : State) (v : Word) : State :=
  let a := wbits v 7 0
  let l := a % 16
  if !doubleBank s || (laneOp s l).isSome || !configured s a then slverr s
  else okBus (setBit (setLaneOp s l (some ⟨2, a, wbit v 9, wbit v 8⟩)) Reg.LOOP_BANK_STATUS l true)

/-- A write into a coefficient window as it lands (R224, R225, R227). (DEDUCED, log entry 15) -/
def landCoef (s : State) (a i : Nat) (v : Word) : State :=
  let swapping := match laneOp s (a % 16) with
    | some o => doubleBank s && o.axis == a && 2 ≤ o.kind
    | none => false
  if swapping || !configured s a then slverr s else okBus (setBank s (windowBank s a) a i v)

/-- A write into a lane's baste record as it lands (R227). -/
def landLaneBaste (s : State) (l i : Nat) (v : Word) : State :=
  if (laneOp s l).isSome then slverr s else okBus (wr s (Reg.LOOP_LANE_BASTE l i) v)

/-! ### Injectors -/

/-- An injector. -/
def injector (s : State) (i : Nat) : Injector := tget (fun _ => {}) s.loop.inj i

/-- Store an injector. -/
def setInj (s : State) (i : Nat) (x : Injector) : State :=
  { s with loop := { s.loop with inj := tput (fun _ => {}) s.loop.inj i x } }

/-- A Bolt address range lies in one partition (R19). -/
def inPart (s : State) (p a len : Nat) : Bool :=
  1 ≤ len && a + len ≤ boltEnd && (List.range ((a + len - 1) / 2 ^ 20 - a / 2 ^ 20 + 1)).all fun k =>
    s.part.getD (a / 2 ^ 20 + k) 255 == p

/-- The tap exponents of a PRBS order (R231). -/
def taps : Nat → List Nat
  | 7 => [7, 6]
  | 8 => [8, 6, 5, 4]
  | 9 => [9, 5]
  | 10 => [10, 7]
  | 11 => [11, 9]
  | 12 => [12, 11, 10, 4]
  | 13 => [13, 12, 11, 8]
  | 14 => [14, 13, 12, 2]
  | _ => [15, 14]

/-- One bit period of the PRBS generator (R231). -/
def prbsStep (order x : Nat) : Nat :=
  let new := (taps order).foldl (fun b e => b != bit x (e - 1)) false
  (x * 2 + flag new) % 2 ^ order

/-- The parameters of a signal are valid (R231); a table of no entries is judged by its address (DESIGN CHOICE, log entry 8). -/
def injValid (s : State) (i : Nat) : Bool :=
  let c := rd s (Reg.LOOP_INJ_CFG i)
  let f0 := f2d (rd s (Reg.LOOP_INJ_F0 i))
  let f1 := f2d (rd s (Reg.LOOP_INJ_F1 i))
  let len := (rd s (Reg.LOOP_INJ_LEN i)).toNat
  let tbl := (rd s (Reg.LOOP_INJ_TBL i)).toNat
  let late := wbit c 26 && !after (rd s (Reg.LOOP_INJ_START i)) s.cyc.count
  !late &&
    match wbits c 12 10 with
    | 0 => 7 ≤ wbits c 16 13
    | 1 => dfinite f1 && dle (dn 1) f0 && dlt f0 f1 && dle f1 (ddiv (dn 1) (dmul (dn 2) (cycleT s))) && 2 ≤ len
    | 2 => 1 ≤ len
    | 3 => tbl % 4 == 0 && inPart s 4 tbl (4 * max 1 len)
    | _ => false

/-- An injector serves an axis at a point that the axis's mode uses (R230). -/
def injPoint (mode point : Nat) : Bool :=
  !((point == 1 || point == 3) && 2 ≤ mode) && !(point == 2 && mode == 4)

/-- A write of LOOP_INJi_CTRL as it lands: start, or stop (R230, R233). (DEDUCED, log entry 77) -/
def landInjCtrl (s : State) (i : Nat) (v : Word) : State :=
  let s := okBus s
  let reg := Reg.LOOP_INJ_STATUS i
  let a := fld s (Reg.LOOP_INJ_CFG i) 7 0
  let runs (j : Nat) : Bool := fld s (Reg.LOOP_INJ_STATUS j) 1 0 == 1 || fld s (Reg.LOOP_INJ_STATUS j) 1 0 == 2
  if wbit v 1 then
    if runs i then event (setInj (setF s reg 1 0 3) i {}) LOOP 8 a i else s
  else if !wbit v 0 || runs i then s
  else if ([0, 1, 2, 3].any fun j => j != i && runs j && fld s (Reg.LOOP_INJ_CFG j) 7 0 == a) || !enabled s a then setF s reg 6 4 2
  else if !injPoint (wbits (coef s a 0) 2 0) (fld s (Reg.LOOP_INJ_CFG i) 9 8) then setF s reg 6 4 3
  else if !injValid s i then setF s reg 6 4 4
  else setF (setF (setInj s i {}) reg 6 4 1) reg 1 0 1

/-- The value of a running injector for cycle m + k (R231). (DESIGN CHOICE, log entry 8) -/
def injValue (s : State) (i : Nat) (x : Injector) : Word × Nat :=
  let c := rd s (Reg.LOOP_INJ_CFG i)
  let amp := rd s (Reg.LOOP_INJ_AMP i)
  let len := (rd s (Reg.LOOP_INJ_LEN i)).toNat
  match wbits c 12 10 with
  | 0 =>
    if len != 0 && len ≤ x.k then (0, x.s)
    else
      let order := wbits c 16 13
      let st := if x.k % (wbits c 24 17 + 1) == 0 then prbsStep order (if x.k == 0 then 2 ^ order - 1 else x.s) else x.s
      (if bit st 0 then amp else fneg amp, st)
  | 1 =>
    if len ≤ x.k then (0, 0)
    else
      let f0 := f2d (rd s (Reg.LOOP_INJ_F0 i))
      let f1 := f2d (rd s (Reg.LOOP_INJ_F1 i))
      let tau := dmul (dn len) (cycleT s)
      let l := Config.ln64 (ddiv f1 f0)
      let q := ddiv (dmul (dmul l (dn x.k)) (cycleT s)) tau
      let arg := dmul (ddiv (dmul (dmul 0x401921FB54442D18 f0) tau) l) (dsub (Config.exp64 q) (dn 1))
      (d2f (dmul (f2d amp) (Config.sin64 arg)), 0)
  | 2 => (if len ≤ x.k then 0 else amp, 0)
  | _ =>
    if !wbit c 25 && len ≤ x.k then (0, 0)
    else
      let e := word (leVal (readMem s .bolt ((rd s (Reg.LOOP_INJ_TBL i)).toNat + 4 * (x.k % (max len 1))) 4))
      (fmul amp e, 0)

/-- The read of an injector's table fails: the table has left its partition (R233). -/
def tableFails (s : State) (i : Nat) : Bool :=
  fld s (Reg.LOOP_INJ_CFG i) 12 10 == 3 &&
    !inPart s 4 (rd s (Reg.LOOP_INJ_TBL i)).toNat (4 * max 1 (rd s (Reg.LOOP_INJ_LEN i)).toNat)

/-- An injector at a latch instant: a waiting one starts at L(m), a running one takes its next value (R231). -/
def injLatch (s : State) (i : Nat) : State :=
  let reg := Reg.LOOP_INJ_STATUS i
  let st := fld s reg 1 0
  let take (s : State) (x : Injector) : State :=
    let v := injValue s i x
    setInj s i { x with value := v.1, s := v.2 }
  if (st == 1 || st == 2) && tableFails s i then injAbort s (fld s (Reg.LOOP_INJ_CFG i) 7 0)
  else if st == 1 && (!fbit s (Reg.LOOP_INJ_CFG i) 26 || rd s (Reg.LOOP_INJ_START i) == s.cyc.count) then
    note (take (setF s reg 1 0 2) { start := s.cyc.count }) 6 i
  else if st == 2 then
    let x := injector s i
    take s { x with k := x.k + 1 }
  else s

/-- An injector ends after len cycles or entries (R231). -/
def injEnd (s : State) (i : Nat) : State :=
  let c := rd s (Reg.LOOP_INJ_CFG i)
  let len := (rd s (Reg.LOOP_INJ_LEN i)).toNat
  let endless := (wbits c 12 10 == 0 && len == 0) || (wbits c 12 10 == 3 && wbit c 25)
  if fld s (Reg.LOOP_INJ_STATUS i) 1 0 == 2 && !endless && len ≤ (injector s i).k then
    setInj (setF s (Reg.LOOP_INJ_STATUS i) 1 0 0) i {}
  else s

/-- The point and value of the injector that runs on an axis (R232). (DEDUCED, log entry 77) -/
def injection (s : State) (a : Nat) : Option (Nat × Word) :=
  ([0, 1, 2, 3].find? fun i => fld s (Reg.LOOP_INJ_STATUS i) 1 0 == 2 && fld s (Reg.LOOP_INJ_CFG i) 7 0 == a).map
    fun i => (fld s (Reg.LOOP_INJ_CFG i) 9 8, (injector s i).value)

/-! ### The sample -/

/-- The sign of a binary32 number. -/
def fsign (x : Word) : Int := if flt 0 x then 1 else if flt x 0 then -1 else 0

/-- Clamp a binary32 number. -/
def fclamp (x lo hi : Word) : Word := if flt x lo then lo else if flt hi x then hi else x

/-- A signed number times 2^-e as binary32. -/
def fofFx (x : Int) (e : Int) : Word := fofInt x (-e)

/-- A biquad in direct form II transposed (R207): its output and states. -/
def biquad (c : Nat → Word) (x s1 s2 : Word) : Word × Word × Word :=
  let y := fadd (fmul (c 0) x) s1
  (y, fadd (fsub (fmul (c 1) x) (fmul (c 3) y)) s2, fsub (fmul (c 2) x) (fmul (c 4) y))

/-- n biquads in a row of m, from the coefficient word base and state key base; unused ones keep their states at 0 (R207). -/
def biquads (s : State) (a base key n : Nat) : Nat → LoopAxis → Word → LoopAxis × Word
  | 0, x, v => (x, v)
  | m + 1, x, v =>
    let k := n
    if 0 < k then
      let r := biquad (fun i => coef s a (base + i)) v (tget (fun _ => 0) x.bq (2 * key)) (tget (fun _ => 0) x.bq (2 * key + 1))
      let bq := tput (fun _ => 0) (tput (fun _ => 0) x.bq (2 * key) r.2.1) (2 * key + 1) r.2.2
      biquads s a (base + 5) (key + 1) (n - 1) m { x with bq := bq } r.1
    else
      let bq := tput (fun _ => 0) (tput (fun _ => 0) x.bq (2 * key) 0) (2 * key + 1) 0
      biquads s a (base + 5) (key + 1) 0 m { x with bq := bq } v

/-- The velocity estimate: vf1(vf0(dv)) (R206). -/
def vEstimate (s : State) (a : Nat) (x : LoopAxis) (dv : Word) : LoopAxis × Word :=
  biquads s a 8 0 (min (wbits (coef s a 0) 8 7) 2) 2 x dv

/-- Friction feed-forward (R209); a band of either zero is 0. -/
def friction (s : State) (a : Nat) (v : Word) : Word :=
  let band := coef s a 67
  let f := if band != 0 && band != 0x80000000 then fclamp (fdiv v band) (fneg one32) one32
    else if fsign v == 1 then one32 else if fsign v == -1 then fneg one32 else 0
  fadd (fmul (coef s a 65) f) (fmul (coef s a 66) v)

/-- The bus-voltage factor (R210). -/
def cBus (s : State) (a : Nat) (x : LoopAxis) : Word :=
  let c := coef s a 0
  match x.busV with
  | some v =>
    if wbit c 5 && wbits c 2 0 != 4 && flt 0 (coef s a 69) then
      fdiv (coef s a 69) (if flt v (coef s a 70) then coef s a 70 else v)
    else one32
  | none => one32

/-- Q15 of a full-scale fraction (R212). -/
def toQ15 (t : Word) : Half := BitVec.ofInt 16 (satS 16 (fmt32.toInt 15 t.toNat))

/-- A Q15 value as a fraction. -/
def ofQ15 (h : Half) : Word := fofInt h.toInt (-15)

/-- The record's mode field for a ctrl mode (R213). -/
def recMode (mode : Nat) : Nat := if mode == 3 then 1 else if mode == 4 then 2 else 0

/-- The slope of a 32.32 velocity in 16.16, and whether it saturates (R65). -/
def slopeOf (v : Int) : Word × Bool :=
  let r := Int.fdiv (v + 32768) 65536
  (BitVec.ofInt 32 (satS 32 r), r != satS 32 r)

/-- A control word (R64). -/
def control (age : Nat) (on : Bool) (mode scale : Nat) : Half :=
  BitVec.ofNat 16 (age + flag on * 8 + mode * 16 + scale * 256)

/-- A finite binary32, as the loop engine asks. -/
def isNum (x : Word) : Bool := ffinite x

/-- A sample that runs now belongs to the cycle before: its launch has passed, or the launch of this cycle has not begun. -/
def lastCycle (s : State) (late : Bool) : Bool := late || (!s.ring.launched && !s.twin.motionDue)

/-- Spare time of a result written now (R44): for a sample of this cycle to the next latch instant, for one of the cycle before to
the last. -/
def margin (s : State) (late : Bool) : State :=
  if !(if lastCycle s late then s.cyc.pastOper else s.cyc.oper) then s
  else
    let due : Int := if lastCycle s late then s.cyc.latch else s.cyc.latch + cycleNs s * nsU
    let m := (due - (mtime s : Int)) / 65536
    if m < (rd s Reg.SYS_CYCLE_MARGIN).toInt then wr s Reg.SYS_CYCLE_MARGIN (BitVec.ofInt 32 (satS 32 m)) else s

/-- Write an axis's output record into the outbound image; one that completes after its launch began is not used (R26), and a torque
posted for it before replaces its own (R276). -/
def writeRec (s : State) (a : Nat) (r : OutRec) (late : Bool) : State :=
  let s := margin s late
  if late then s
  else ringMod s fun x =>
    let t : Option Half := tget (fun _ => none) x.replace a
    { x with image := tput (fun _ => {}) x.image a { r with torque := t.getD r.torque }
             replace := tput (fun _ => none) x.replace a none
             fresh := if x.fresh.contains a then x.fresh else a :: x.fresh }

/-- What the feedback of a sample gives (R203, R205). -/
structure Feedback where
  x : LoopAxis
  fbx : Int
  dv : Word
  expired : Bool
  fresh : Bool

/-- 64-bit two's complement (R207). -/
def wrap64 (x : Int) : Int := (BitVec.ofInt 64 x).toInt

/-- An injected value as 48.16 (R232). (DESIGN CHOICE, log entry 8) -/
def injFixed (v : Word) : Int :=
  let n := fmt32.toInt 16 v.toNat
  if ffinite v && wrap64 n == n then n else Config.fixedOf v

/-- The feedback of a sample (R203-R205), in 64-bit two's complement (R206). -/
def feedback (s : State) (a : Nat) (x : LoopAxis) (injFb : Int) : Feedback :=
  let inp := input s a
  let g := inp.age
  if g == 0 then
    let fbx := wrap64 (measuredFx s a + injFb)
    let dv := match x.fbPrev with
      | none => 0
      | some p => if x.restart then 0 else fofFx (wrap64 (fbx - p)) 16
    let sel := bits inp.status.toNat 14 12
    let x := { x with fbPrev := some fbx, fbFresh := measuredFx s a, vFresh := dv, vLast := dv, restart := false,
                      busV := if sel == 1 then some (ofQ15 inp.aux) else x.busV,
                      load := if sel == 0 then some (ofQ15 inp.aux) else x.load }
    { x := x, fbx := fbx, dv := dv, expired := false, fresh := true }
  else if g ≤ actF s Reg.RING_AGE_CFG 2 0 && g < 7 then
    let fbx := wrap64 (x.fbFresh + fmt32.toInt 16 (fmul x.vFresh (fofInt g)).toNat + injFb)
    { x := { x with fbPrev := some fbx, vLast := x.vFresh }, fbx := fbx, dv := x.vFresh, expired := false, fresh := false }
  else { x := { x with restart := true }, fbx := x.fbPrev.getD 0, dv := x.vLast, expired := true, fresh := false }

/-- Whether a detector of the loop engine is live, not masked by a quiesce (R463). -/
def live (s : State) (ev : Nat) : Bool := (masker s LOOP ev).isNone

/-- Raise a LOOP event for an axis: it names the axis and, as cell, its lane. -/
def loopEvent (s : State) (ev a : Nat) (detail : Nat := 0) : State := event s LOOP ev a detail

/-- What an expired input brings, in a sample of an enabled axis or of another one (R201, R204): it is counted, the first of a run
raises its event and asks for a quick stop, and exp_cycles of them for DISABLE. -/
def expiry (s : State) (a : Nat) (n : Nat) : State :=
  if n == 0 then s
  else
    let s := bump s Reg.LOOP_EXPIRED_CNT
    let on := live s 1
    let s := if n == 1 then (if on then request (loopEvent s 1 a) (.quick a) else loopEvent s 1 a) else s
    let m := wbits (coef s a 0) 27 20
    if m != 0 && n == m && on then request s (.disable a) else s

/-- A check that trips (R217): its event and counter once, and its reaction, 2 or more for enable 0. -/
def tripCheck (s : State) (a ev cnt react : Nat) (was now : Bool) : State × Nat :=
  if !now then (s, 0)
  else if was then (s, 0)
  else
    let on := live s ev
    let s := injAbort (bump (loopEvent s ev a) cnt) a
    if !on then (s, react)
    else if react == 1 then (request s (.quick a), react)
    else if 2 ≤ react then (request s (.disable a), react)
    else (s, react)

/-- The stepper current (R215): the fraction and its scale. -/
def stepCurrent (s : State) (a : Nat) (x : LoopAxis) (acc : Word) : Word × Nat :=
  let i := fadd (fadd (coef s a 80) (fmul (coef s a 81) (x.load.getD 0))) (fmul (coef s a 82) (fabs acc))
  let c := fclamp i (coef s a 83) (coef s a 84)
  (c, (clampI 0 255 (fmt32.toInt 0 (fmul c (fofInt 255)).toNat)).toNat)

/-- A torque or current that is not finite before its conversion (R218): the sample's record is the invalid output of R84, with age 7,
torque 0, current_scale 0 and enable 0. (DEDUCED, log entry 36) -/
def numericFault (s : State) (a : Nat) (r : OutRec) (flags : Nat) (late : Bool) : State :=
  let s := injAbort (loopEvent s 6 a) a
  let s := if live s 6 then request s (.disable a) else s
  let s := setLoopAx s a { loopAx s a with tcmd := 0, satPrev := 0, flags := flags + 128 }
  writeRec s a { r with torque := 0, control := control 7 false (bits r.control.toNat 6 4) 0 } late

/-- The output stage (R206, R211, R212): the torque scaled, clamped and written with the record. -/
def outputStage (s : State) (a : Nat) (r : OutRec) (cb t0 lo hi : Word) (flags : Nat) (on late : Bool) : State :=
  let t := fmul t0 cb
  let x := loopAx s a
  let sat : Int := if flt hi t then 1 else if flt t (fneg lo) then -1 else 0
  let c := fclamp t (fneg lo) hi
  let flags := flags + flag (cb != one32) * 512
  if !isNum c then numericFault s a r flags late
  else
    let s := if sat == 0 then s else bump s Reg.LOOP_CLAMP_CNT
    let s := setLoopAx s a { x with tcmd := c, satPrev := sat, flags := flags + flag (sat != 0) }
    writeRec s a { r with torque := toQ15 c, control := control 0 on (bits r.control.toNat 6 4) (bits r.control.toNat 15 8) } late

/-- Post the torque of a hem_hook axis to its task (R211, R277). -/
def hookPost (s : State) (a : Nat) (t : Word) : State :=
  let w := rd s (Reg.SCHED_AX_HOOK a)
  if wbit w 31 then postTok s 1 (mkTok s 1 (wbits w 9 0) (wbits w 11 10) (BitVec.ofInt 32 (toQ15 t).toInt))
  else event (bump s Reg.SCHED_DISCARD_CNT) SCHED 1 a

/-- A sample of an axis that is not enabled (R201). -/
def idleSample (s : State) (a : Nat) (late : Bool) : State :=
  let sp := if lastCycle s late then (axis s a).sp1 else (axis s a).sp2
  let x := loopAx s a
  let f := feedback s a x 0
  let v := vEstimate s a f.x f.dv
  let n := if f.expired then x.expired + 1 else 0
  let s := expiry s a n
  let s := setLoopAx s a { v.1 with hist := (sp :: x.hist).take 2, wasOn := false, expired := n, e := 0, vref := 0, vmeas := v.2,
                                    tcmd := 0, cur := 0, flags := flag f.expired * 32 + flag (activeBank s a) * 1024, hem := none }
  writeRec s a { pos := BitVec.ofInt 64 sp.pos, control := control 0 false (recMode (wbits (coef s a 0) 2 0)) 0 } late

/-- The set-point of the error (R202): the entry that sp_delay names, or the oldest held. -/
def errorPoint (sp : SetPoint) (hist : List SetPoint) (delay : Nat) : SetPoint :=
  (sp :: hist).getD (min (min delay 2) hist.length) sp

/-- A sample of an enabled axis (R202-R218). -/
def liveSample (s : State) (a : Nat) (late : Bool) : State :=
  let c := coef s a 0
  let mode := wbits c 2 0
  let sp := if lastCycle s late then (axis s a).sp1 else (axis s a).sp2
  let x0 := loopAx s a
  let x := if x0.wasOn then x0
    else { x0.cleared with expired := 0, veCount := 0, stallCount := 0, feTrip := false, veTrip := false, stallTrip := false,
                           busV := none, load := none }
  let ij := injection s a
  let at' (p : Nat) : Word := match ij with
    | some (q, v) => if p == q then v else 0
    | none => 0
  let injPos := injFixed (at' 0)
  let f := feedback s a x (injFixed (at' 3))
  let spe := errorPoint sp x.hist (wbits c 19 18)
  let x := { f.x with hist := (sp :: x.hist).take 2, wasOn := true, hem := none }
  let s := { s with loop := { s.loop with count := s.loop.count + 1 } }
  -- expired input (R204)
  let x := { x with expired := if f.expired then x.expired + 1 else 0 }
  let s := expiry s a x.expired
  let velE := fofFx spe.vel 32
  let vel := fofFx sp.vel 32
  let slope := slopeOf sp.vel
  let s := if slope.2 then event s PROF 0 a else s
  let rec0 : OutRec := { pos := BitVec.ofInt 64 (sp.pos + injPos), slope := slope.1, control := control 0 true (recMode mode) 0 }
  let off : OutRec := { rec0 with control := control 0 false (recMode mode) 0 }
  let base := flag f.expired * 32 + flag (activeBank s a) * 1024
  if (mode == 4) != isStepper s a then
    let on := live s 7
    let s := injAbort (loopEvent s 7 a) a
    let s := if on then request s (.disable a) else s
    writeRec (setLoopAx s a { x with e := 0, vref := 0, vmeas := 0, tcmd := 0, cur := 0, satPrev := 0, flags := base + 256 }) a off late
  else if 4 < mode then
    writeRec (setLoopAx s a { x with e := 0, vref := 0, vmeas := 0, tcmd := 0, cur := 0, satPrev := 0, flags := base }) a off late
  else
    -- position error and its check (R206, R217)
    let useE := (mode == 0 || 3 ≤ mode) && !f.expired
    let e := if useE then fofFx (wrap64 (spe.pos + injPos - f.fbx)) 16 else 0
    let feOver := useE && flt 0 (coef s a 1) && flt (coef s a 1) (fabs e)
    let fe := tripCheck s a 4 Reg.LOOP_FE_CNT (wbits c 13 12) x.feTrip feOver
    let x := { x with feTrip := if useE then feOver else x.feTrip }
    let s := fe.1
    -- velocity loop (R206, R208)
    let ve := mode ≤ 1 && !f.expired
    let vm := if mode ≤ 1 then vEstimate s a x f.dv else (x, 0)
    let x := vm.1
    let freeE := x.satPrev != fsign e && x.vsatPrev != fsign e
    let ipos := if !(ve && mode == 0) then x.ipos
      else if !wbit c 4 then 0
      else if freeE then fclamp (fadd x.ipos (fmul (coef s a 3) e)) (fneg (coef s a 4)) (coef s a 4)
      else x.ipos
    let vref0 := if !ve then 0
      else if mode == 0 then
        fadd (fadd (fadd (fmul (coef s a 2) e) ipos) (fmul (coef s a 5) velE)) (at' 1)
      else fadd (fmul (coef s a 5) vel) (at' 1)
    let lim := coef s a 6
    let vsat : Int := if ve && flt 0 lim && flt lim (fabs vref0) then fsign vref0 else 0
    let vref := if vsat == 1 then lim else if vsat == -1 then fneg lim else vref0
    let ev := if ve then fsub vref vm.2 else 0
    let above := ve && flt 0 (coef s a 35) && flt (coef s a 35) (fabs ev)
    let veN := if ve then (if above then x.veCount + 1 else 0) else x.veCount
    let veTrip := if ve then above && max 1 (coef s a 36).toNat ≤ veN else x.veTrip
    let vt := tripCheck s a 5 Reg.LOOP_VE_CNT (wbits c 15 14) x.veTrip (ve && veTrip)
    let s := vt.1
    let ivel := if ve && x.satPrev != fsign ev then
        fclamp (fadd x.ivel (fmul (coef s a 33) ev)) (fneg (coef s a 34)) (coef s a 34)
      else x.ivel
    let x := { x with ipos := ipos, ivel := ivel, veCount := veN, veTrip := veTrip, vsatPrev := vsat }
    let tb := if ve then biquads s a 40 2 (min (wbits c 11 9) 4) 4 x (fadd (fmul (coef s a 32) ev) ivel) else (x, ivel)
    let x := tb.1
    -- feed-forward (R206, R213)
    let ka := fmul (coef s a 64) sp.acc
    let t := if mode ≤ 1 then fadd (fadd (fadd tb.2 ka) (friction s a vel)) (at' 2)
      else if mode == 2 then fadd (fadd (fadd (coef s a 68) ka) (friction s a vel)) (at' 2)
      else fadd ka (at' 2)
    -- stall (R216)
    let stN := if f.fresh then (match x.load with | some l => if flt (coef s a 85) l then x.stallCount + 1 else 0 | none => 0)
      else x.stallCount
    let stOn := (coef s a 86) != 0 && (coef s a 86).toNat ≤ stN
    let st := tripCheck s a 3 Reg.LOOP_STALL_CNT (wbits c 17 16) x.stallTrip (f.fresh && stOn)
    let s := st.1
    let x := { x with stallCount := stN, stallTrip := if f.fresh then stOn else x.stallTrip }
    let on := !(2 ≤ fe.2 || 2 ≤ vt.2 || 2 ≤ st.2)
    let flags := base + flag (vsat != 0) * 2 + flag x.feTrip * 4 + flag x.veTrip * 8 + flag x.stallTrip * 16
    let x := { x with e := e, vref := vref, vmeas := vm.2, tcmd := 0, cur := 0, flags := flags }
    if mode == 4 then
      let i := stepCurrent s a x sp.acc
      if !isNum i.1 then numericFault (setLoopAx s a x) a off flags late
      else
        writeRec (setLoopAx s a { x with cur := i.1, satPrev := 0 }) a { rec0 with control := control 0 on (recMode mode) i.2 } late
    else
      let cb := cBus s a x
      if wbit c 6 then
        let r := { rec0 with control := control 0 on (recMode mode) 0 }
        let s := { s with loop := { s.loop with results := tput (fun _ => none) s.loop.results a none } }
        if isNum t then
          hookPost (setLoopAx s a { x with hem := some (r, cb, coef s a 97, coef s a 96), flags := flags + flag late * 64 }) a t
        else outputStage (setLoopAx s a x) a r one32 t (coef s a 97) (coef s a 96) flags on late
      else outputStage (setLoopAx s a x) a rec0 cb t (coef s a 97) (coef s a 96) flags on late

/-- A lane takes the next axis of its queue and runs its sample (R198, R201). A record that arrived before its lane is ready is held
until the lane is (R36); a lane with an axis of the burst before left in its queue was not gated after it (DEDUCED, log entry 98).
(DESIGN CHOICE, log entry 83) -/
def loopSample (s : State) (l : Nat) : State :=
  match s.ring.late.find? (fun a => a % 16 == l),
    (if lanesReady s then s.ring.waiting.find? (fun a => a % 16 == l) else none) with
  | none, none => s
  | lt, w =>
    let a := (lt.or w).getD 0
    let s := ringMod s fun r => if lt.isSome then { r with late := r.late.erase a } else { r with waiting := r.waiting.erase a }
    if s.flt.cellsOff.contains (LOOP, l) then s
    else
      let s := boundary s a
      if enabled s a then liveSample s a lt.isSome else idleSample s a lt.isSome

/-- A Hem result completes the output stage of its axis (R211). -/
def hemStage (s : State) (a : Nat) : State :=
  let x := loopAx s a
  match x.hem, (tget (fun _ => none) s.loop.results a : Option Half) with
  | some (r, cb, lo, hi), some h =>
    let s := setLoopAx s a { x with hem := none }
    let s := { s with loop := { s.loop with results := tput (fun _ => none) s.loop.results a none } }
    outputStage s a r cb (ofQ15 h) lo hi x.flags (bit r.control.toNat 3) (bit x.flags 6)
  | _, _ => s

/-- A launch finds the result of a Hem axis missing (R211): the axis waits for it, or its sample has not run. -/
def hemLate (s : State) (a : Nat) : State :=
  let x := loopAx s a
  if x.hem.isSome then
    loopEvent (bump (setLoopAx s a { x with flags := x.flags ||| 64 }) Reg.LOOP_HEM_LATE_CNT) 2 a
  else if enabled s a && hemHook s a && wbits (coef s a 0) 2 0 ≤ 3 then loopEvent (bump s Reg.LOOP_HEM_LATE_CNT) 2 a
  else s

/-- The loop engine's part of a latch instant. -/
def loopLatch (s : State) : State :=
  let s := [0, 1, 2, 3].foldl injLatch s
  { s with loop := { s.loop with countLast := s.loop.count, count := 0 } }

end Sys2Proof.Machine
end

