-- ==== Sys2Proof/Machine/Fbc.lean ====
section
/-! DEFINITION. Local feedback, emulation and position compare (09_feedback_and_compare.md). -/

namespace Sys2Proof.Machine

/-- Machine time in whole nanoseconds. -/
def nowNs (s : State) : Int := (mtime s / nsU : Nat)

/-- The pins are held inactive (R320, R387): on a standby or an unfit head of a pair and in chip safe state. -/
def pinsHeld (s : State) : Bool := (2 ≤ twinSt s && twinSt s ≤ 4) || chipSafe s

/-! ### Encoder channels -/

/-- The level that a CMP_OUT pin drives (R320, R550): none, high impedance, until the configuration has applied FBC_PIN_CFG, and while
inactive on a head whose configuration holds a pair record. -/
def cmpPin (s : State) (n : Nat) : Option Bool :=
  let active := !pinsHeld s && s.fbc.pins.contains n
  if s.sec.inReset || !s.sec.applied || (!active && s.twin.pair) then none
  else some (active == (actF s Reg.FBC_PIN_CFG n n == 1))

/-- The CMP_OUT pins drive what they should, changes at a time. -/
def drivePins (s : State) (t : Nat) : State :=
  (List.range 16).foldl (fun s n =>
    let v := cmpPin s n
    if tget (fun _ => none) s.fbc.drives n == v then s
    else
      let name := "CMP_OUT" ++ toString n
      emit { s with fbc := { s.fbc with drives := tput (fun _ => none) s.fbc.drives n v } }
        (match v with | some high => .pin name high t | none => .highZ name t)) s

/-- Refresh the channel faults, the emulation enables and the pin states of FBC_STATUS (R332), and the pins with them. -/
def showFbc (s : State) : State :=
  let s := drivePins s (nowNs s).toNat
  let f := (List.range 8).foldl (fun n c => n + flag (fbit s (Reg.FBC_ENC_STATUS c) 0) * 2 ^ c) 0
  let e := (List.range 8).foldl (fun n c => n + actF s (Reg.FBC_EMU_CFG c) 8 8 * 2 ^ (c + 8)) 0
  let p := if pinsHeld s then 0 else s.fbc.pins.foldl (fun n k => n + 2 ^ (k % 16 + 16)) 0
  wr s Reg.FBC_STATUS (word (f + e + p))

/-- A channel enters fault (R311); for a lost count the axis that it feeds is unreferenced (R157). -/
def encFault (s : State) (c : Nat) (lost : Bool) : State :=
  let s := setBit s (Reg.FBC_ENC_STATUS c) 0 true
  let w := actv s (Reg.FBC_ENC_AXIS c)
  let s := if lost && wbit w 31 then axMod s (wbits w 7 0) fun x => { x with referenced := false } else s
  showFbc s

/-- A count step of a channel at an instant, in 48 bits (R307). -/
def Encoder.move (x : Encoder) (d now : Int) : Encoder :=
  { x with count := sgn 48 (unsg 48 (x.count + d)), dir := if x.dir == 0 then d else x.dir,
           reversed := x.reversed || (x.dir != 0 && x.dir != d), trace := x.trace ++ [(now, x.count)] }

/-- The table of R304: the step for a change of (A, B), or nothing for a double transition. -/
def quadStep (a b a2 b2 : Bool) : Option Int :=
  if a == a2 && b == b2 then some 0
  else if a != a2 && b != b2 then none
  else
    -- the states in counting order are 00, 10, 11, 01
    let pos (a b : Bool) : Nat := if !a && !b then 0 else if a && !b then 1 else if a && b then 2 else 3
    some (if pos a2 b2 == (pos a b + 1) % 4 then 1 else -1)

/-! ### Compare -/

/-- A compare channel. -/
def compare (s : State) (k : Nat) : Compare := tget (fun _ => {}) s.fbc.cmp k

/-- Store a compare channel, and its armed bits. -/
def setCompare (s : State) (k : Nat) (x : Compare) : State :=
  let s := { s with fbc := { s.fbc with cmp := tput (fun _ => {}) s.fbc.cmp k x } }
  let s := setBit s (Reg.FBC_CMP_STATUS k) 0 x.armed
  setBit s Reg.FBC_CMP_ARMED k x.armed

/-- The source of a compare channel (R321). -/
def cmpSrc (s : State) (k : Nat) : Nat := actF s (Reg.FBC_CMP_CFG k) 17 16

/-- The mode of a compare channel (R319). -/
def cmpMode (s : State) (k : Nat) : Nat := actF s (Reg.FBC_CMP_CFG k) 19 18

/-- The entry of a channel in SINGLE or REPEAT mode, from its registers (R319, R332). -/
def regEntry (s : State) (k : Nat) : CmpEntry :=
  let w := (actv s (Reg.FBC_CMP_ACT k)).toNat
  { value := sgn 64 ((actv s (Reg.FBC_CMP_VAL_LO k)).toNat + (actv s (Reg.FBC_CMP_VAL_HI k)).toNat * 2 ^ 32)
    action := bits w 1 0, dir := bits w 3 2, passed := bit w 4, last := bit w 5
    xt := if bit w 6 then some (bits w 11 8) else none, width := bits w 31 16, id := 0 }

/-- The entry that 16 bytes of a table spell, when it passes the check of R329. -/
def tableEntryOf (b : List Byte) : Option CmpEntry :=
  let f := byteAt b 8
  let width := field b 10 2
  if bits f 3 2 == 3 || bit f 7 || (bits f 1 0 == 3 && width == 0) then none
  else some { value := sgn 64 (field b 0 8), action := bits f 1 0, dir := bits f 3 2, passed := bit f 4, last := bit f 5,
              xt := if bit f 6 then some (byteAt b 9 % 16) else none, width := width, id := word (field b 12 4) }

/-- Disarm a channel that its table stops (R329). -/
def cmpStop (s : State) (k : Nat) (statusBit ev : Nat) : State :=
  let s := setCompare s k { compare s k with armed := false, entry := none, back := none, later := none }
  event (setBit s (Reg.FBC_CMP_STATUS k) statusBit true) FBC ev k

/-- Take the next table entry (R328, R329). -/
def takeEntry (s : State) (k : Nat) : State :=
  let rp := (rd s (Reg.FBC_CMP_RD_PTR k)).toNat
  if rp == (rd s (Reg.FBC_CMP_WR_PTR k)).toNat then cmpStop s k 4 9
  else
    let b := readMem s .bolt ((rd s (Reg.FBC_CMP_QBASE k)).toNat + rp) 16
    let len := (rd s (Reg.FBC_CMP_QLEN k)).toNat
    let s := wr s (Reg.FBC_CMP_RD_PTR k) (word (if len ≤ rp + 16 then 0 else rp + 16))
    match tableEntryOf b with
    | none => cmpStop s k 5 8
    | some e => setCompare s k { compare s k with entry := some e }

/-- Whether an entry is behind at arm (R326). -/
def CmpEntry.behind (e : CmpEntry) (pa : Int) : Bool :=
  (e.dir == 0 && e.value ≤ pa) || (e.dir == 1 && pa ≤ e.value)

/-- Whether a move from p to q crosses an entry (R320), and in which direction. -/
def CmpEntry.crosses (e : CmpEntry) (p q : Int) : Option Int :=
  if e.dir != 1 && p < e.value && e.value ≤ q then some 1
  else if e.dir != 0 && e.value < p && q ≤ e.value then some (-1)
  else none

/-- Schedule a fire of a channel at x + ofs, or late (R322). -/
def schedule (s : State) (k : Nat) (e : CmpEntry) (x : Int) : State :=
  let t := x + sgn 32 (actv s (Reg.FBC_CMP_OFS k)).toNat
  let ev := nowNs s
  let late := t < ev + 100
  let c := compare s k
  let f : Fire := { chan := k, ord := c.order, action := e.action, width := e.width, time := if late then ev + 100 else t
                    id := e.id, xt := e.xt, pin := actF s (Reg.FBC_CMP_CFG k) 11 8 }
  let s := setCompare s k { c with order := c.order + 1 }
  let s := { s with fbc := { s.fbc with fires := s.fbc.fires ++ [f] } }
  let s := if cmpSrc s k == 2 then s
    else { s with fbc := { s.fbc with scheduled := s.fbc.scheduled ++ [(k, e.action, f.time)] } }
  if late then event (bump s Reg.FBC_CMP_LATE_CNT) FBC 5 k else s

/-- A fire is scheduled: what the channel does next (R319): SINGLE and a last entry leave it without an entry, REPEAT waits
for the move back, TABLE takes its next entry. -/
def afterFire (s : State) (k : Nat) (e : CmpEntry) (d : Int) : State :=
  let x := compare s k
  match cmpMode s k with
  | 1 => setCompare s k { x with back := some d, behind := false }
  | 2 => if e.last then setCompare s k { x with entry := none, behind := false }
         else takeEntry (setCompare s k { x with entry := none, behind := false }) k
  | _ => setCompare s k { x with entry := none, behind := false }

/-- Report an action that is behind at arm (R326). -/
def reportBehind (s : State) (k : Nat) : State :=
  event (setBit (setCompare s k { compare s k with behind := true }) (Reg.FBC_CMP_STATUS k) 3 true) FBC 7 k

/-- Where REPEAT is re-armed (R319): past c − d × hyst. -/
def movedBack (s : State) (k : Nat) (c d q : Int) : Bool :=
  let h : Int := (actv s (Reg.FBC_CMP_HYST k)).toNat * 65536
  if 0 < d then q < c - h else c + h < q

/-- The crossing instant of c between p at L and q at L + T, rounded to the nearest ns with a tie rounding down (R321). -/
def crossAt (L T p q c : Int) : Int :=
  let n := T * (c - p)
  let d := q - p
  let (n, d) := if d < 0 then (-n, -d) else (n, d)
  if d == 0 then L else L - Int.fdiv (d - 2 * n) (2 * d)

/-- Arm the entry at hand with a present position and instant (R326): the channel with whether it fired at once. -/
def armEntry (s : State) (k : Nat) (pa x : Int) : State × Bool :=
  match (compare s k).entry with
  | none => (s, false)
  | some e =>
    if !e.behind pa then (s, false)
    else if e.passed then (afterFire (schedule s k e x) k e (if e.dir == 0 then 1 else -1), true)
    else (reportBehind s k, false)

/-- Evaluate the rest of an interval from position p to q, L to L + T being the whole from p0 (R320, R321, R325, R326): n
fires are left in it, and m bounds the entries looked at. With src 2 the position at a crossing instant is the live count q. -/
def evalFrom (k : Nat) (L T p0 q : Int) : Nat → Nat → State → Int → State
  | 0, _, s, _ => s
  | m + 1, n, s, p =>
    let c := compare s k
    match c.entry, c.back with
    | none, _ => s
    | some e, some d => if movedBack s k e.value d q then setCompare s k { c with back := none } else s
    | some e, none =>
      match e.crosses p q with
      | none => s
      | some d =>
        if n == 0 then setCompare s k { c with later := some q }
        else
          let x := crossAt L T p0 q e.value
          let s := afterFire (schedule s k e x) k e d
          if cmpMode s k != 2 then s else armRest k L T p0 q m (n - 1) s (if cmpSrc s k == 2 then q else e.value) x
where
  /-- Arm the next table entry at a crossing instant and go on: an entry that fires as it is armed is one of the n too. -/
  armRest (k : Nat) (L T p0 q : Int) : Nat → Nat → State → Int → Int → State
  | 0, _, s, _, _ => s
  | m + 1, n, s, pa, x =>
    match (compare s k).entry with
    | none => s
    | some e =>
      if n == 0 && ((e.behind pa && e.passed) || (e.crosses pa q).isSome) then setCompare s k { compare s k with later := some q }
      else
        let r := armEntry s k pa x
        if r.2 then armRest k L T p0 q m (n - 1) r.1 pa x else evalFrom k L T p0 q m n r.1 pa

/-- The entries that one interval can look at, and its fires: at most 16 with src 0 or 1; with src 2 as many as the table holds (R325). -/
def evalBounds (s : State) (k : Nat) : Nat × Nat :=
  let n := (rd s (Reg.FBC_CMP_QLEN k)).toNat / 16 + 2
  if cmpSrc s k == 2 then (2 * n, n) else (40, 16)

/-- Evaluate an interval of a channel (R321, R325). (DESIGN CHOICE, log entry 37) -/
def evalInterval (s : State) (k : Nat) (L T p q : Int) : State :=
  let c := compare s k
  let n := evalBounds s k
  match c.later with
  | none => evalFrom k L T p q n.1 n.2 s p
  | some _ => evalFrom.armRest k L T p q n.1 n.2 (setCompare s k { c with later := none }) p L

/-- The present length of the cycle announced, in ns. -/
def nextNs (s : State) : Int := (s.cyc.next * 125 : Nat)

/-- The channels armed on a source. -/
def armedOn (s : State) (src : Nat) : List Nat :=
  (List.range 32).filter fun k => (compare s k).armed && cmpSrc s k == src

/-- The measured position of an axis at the last latch instant and its move in a cycle, 48.16 (R321). -/
def measuredStep (s : State) (a : Nat) : Int × Int :=
  let x := input s a
  (measuredFx s a, (x.ext - x.prev) * 65536)

/-- At L(n), once the set-points for L(n + 2) are written: the commanded channels evaluate [L(n + 1), L(n + 2)] (R321). -/
def evalCommanded (s : State) : State :=
  (armedOn s 0).foldl (fun s k =>
    let x := axis s (actF s (Reg.FBC_CMP_CFG k) 7 0)
    evalInterval s k (latchNs s + (cycleNs s : Nat)) (nextNs s) x.sp1.pos x.sp2.pos) s

/-- Once the inputs of L(n) have been extended: the measured channels evaluate [L(n + 1), L(n + 2)] (R321).
(DESIGN CHOICE, log entry 37) -/
def evalMeasured (s : State) : State :=
  (armedOn s 1).foldl (fun s k =>
    let m := measuredStep s (actF s (Reg.FBC_CMP_CFG k) 7 0)
    evalInterval s k (latchNs s + (cycleNs s : Nat)) (nextNs s) (m.1 + m.2) (m.1 + 2 * m.2)) s

/-- The live count that source 2 of a compare channel watches (R321), 48.16: the head's own, at the distance to the active's that a
standby or former standby keeps (R314, R361). -/
def liveCount (s : State) (ch : Nat) : Int :=
  let x := encoder s ch
  sgn 48 (unsg 48 (x.count + x.ofs)) * 65536

/-- A live count moves: the channels that watch it (R321). (DESIGN CHOICE, log entry 37) -/
def evalLive (s : State) (ch : Nat) : State :=
  let q := liveCount s ch
  ((armedOn s 2).filter fun k => actF s (Reg.FBC_CMP_CFG k) 22 20 == ch).foldl (fun s k =>
    let p := (compare s k).seen
    let s := setCompare s k { compare s k with seen := q }
    evalInterval s k (nowNs s) 0 p q) s

/-- A pending arm takes effect at L(n) (R326, R327): the first interval evaluated starts here. -/
def armApply (s : State) (k : Nat) : State :=
  if !fbit s (Reg.FBC_CMP_STATUS k) 1 then s
  else
    let s := wr s (Reg.FBC_CMP_STATUS k) 0
    let L := latchNs s
    let T : Int := (cycleNs s : Nat)
    let a := actF s (Reg.FBC_CMP_CFG k) 7 0
    let m := measuredStep s a
    let pq : Int × Int :=
      match cmpSrc s k with
      | 0 => ((axis s a).sp0.pos, (axis s a).sp1.pos)
      | 1 => (m.1 + m.2, m.1 + 2 * m.2)
      | _ => let q := liveCount s (actF s (Reg.FBC_CMP_CFG k) 22 20); (q, q)
    let x : Compare := { armed := true, seen := pq.1, entry := if cmpMode s k == 2 then none else some (regEntry s k)
                         order := (compare s k).order }
    let s := setCompare s k x
    let s := if cmpMode s k == 2 then takeEntry s k else s
    let n := evalBounds s k
    evalFrom.armRest k L T pq.1 pq.2 n.1 n.2 s pq.1 L

/-! ### Pins -/

/-- Change the level of a compare pin, no earlier than 4 ns after its last edge (R324), and say when. -/
def pinEdge (s : State) (chan pin : Nat) (t : Int) (f : Bool → Bool) : State :=
  let prev := tget (fun _ => -4) s.fbc.lastEdge pin
  let early := t < prev + 4
  let t := if early then prev + 4 else t
  let s := if early then event (bump s Reg.FBC_CMP_DEFER_CNT) FBC 6 chan pin else s
  let was := s.fbc.pins.contains pin
  let now := f was
  if was == now then s
  else
    let ps := if now then s.fbc.pins ++ [pin] else s.fbc.pins.filter (· != pin)
    let s := { s with fbc := { s.fbc with pins := ps, lastEdge := tput (fun _ => -4) s.fbc.lastEdge pin t } }
    showFbc (drivePins s t.toNat)

/-- The earliest of a list of actions, in order of time and then of the channel's order. -/
def earliest : List Fire → Option Fire
  | [] => none
  | f :: fs =>
    match earliest fs with
    | none => some f
    | some g => if g.time < f.time || (g.time == f.time && g.ord < f.ord) then some g else some f

/-- The next action of a channel, and whether it is the trailing edge of a pulse: in order of time, and within the same instant in table
order whatever the actions (R324). -/
def nextAction (s : State) (k : Nat) : Option (Fire × Bool) :=
  match earliest (s.fbc.fires.filter (·.chan == k)), earliest (s.fbc.pulses.filter (·.chan == k)) with
  | some f, some p => if p.time < f.time || (p.time == f.time && p.ord < f.ord) then some (p, true) else some (f, false)
  | some f, none => some (f, false)
  | none, p => p.map (·, true)

/-- The action that a pin carries out next (R324): the earliest; at one instant set, toggle and leading edges before clear and trailing
edges, each by channel, of what every channel has next. (DESIGN CHOICE, log entry 37) -/
def pinNext (s : State) (pin : Nat) : Option (Fire × Bool) :=
  let last (a : Fire × Bool) : Bool := a.2 || a.1.action == 1
  ((List.range 32).filterMap fun k => (nextAction s k).filter (·.1.pin == pin)).foldl (fun best a =>
    match best with
    | none => some a
    | some b => if a.1.time < b.1.time || (a.1.time == b.1.time && last b && !last a) then some a else some b) none

/-- An action's time has come, and it is its pin's next one (R323, R324). (DESIGN CHOICE, log entry 37) -/
def actionDue (s : State) (f : Fire) (trailing : Bool) : Bool := f.time ≤ nowNs s && pinNext s f.pin == some (f, trailing)

/-- Set a cross-trigger bit in the next shuttle and stamp its trailer with the earliest time (R83, R330). -/
def stampXt (s : State) (b : Nat) (time : Int) : State :=
  ringMod s fun r =>
    { r with
      xt := r.xt ||| BitVec.ofNat 16 (2 ^ b)
      xtStamp := match r.xtStamp with
        | some (b0, t0) => if time < t0 then some (b, time) else some (b0, t0)
        | none => some (b, time) }

/-- The fire time of a channel's next scheduled action (R319, R320, R324, R330). -/
def compareFire (s : State) (k : Nat) : State :=
  match earliest (s.fbc.fires.filter (·.chan == k)) with
  | none => s
  | some f =>
    if !actionDue s f false then s else
    let s := { s with fbc := { s.fbc with fires := s.fbc.fires.filter (· != f) } }
    let s := pinEdge s k f.pin f.time fun was => match f.action with | 1 => false | 2 => !was | _ => true
    let s :=
      if f.action == 3 then
        { s with fbc := { s.fbc with pulses := s.fbc.pulses ++ [{ f with time := f.time + 10 * (f.width : Int) }] } }
      else s
    let s := wr s (Reg.FBC_CMP_LAST_TS k) (word (f.time.toNat % 1000000000))
    let s := if cmpMode s k == 2 then wr s (Reg.FBC_CMP_LAST_ID k) f.id else s
    let s := bumpF s (Reg.FBC_CMP_STATUS k) 31 16
    let s :=
      match f.xt with
      | none => s
      | some b => stampXt s b f.time
    let s := noteAt s 0 k (f.time - latchNs s)
    let c := compare s k
    if c.armed && c.entry.isNone && !(s.fbc.fires.any (·.chan == k)) then
      setBit (setCompare s k { c with armed := false, back := none, later := none }) (Reg.FBC_CMP_STATUS k) 2 true
    else s

/-- The trailing edge of a channel's pulse (R320). -/
def pulseEnd (s : State) (k : Nat) : State :=
  match earliest (s.fbc.pulses.filter (·.chan == k)) with
  | none => s
  | some f =>
    if !actionDue s f true then s
    else pinEdge { s with fbc := { s.fbc with pulses := s.fbc.pulses.filter (· != f) } } k f.pin f.time fun _ => false

/-- A write of FBC_CMPk_CTRL as it lands (R327): bit 0 arm, bit 1 disarm. -/
def landCmpCtrl (s : State) (k : Nat) (v : Word) : State :=
  let s :=
    if wbit v 1 then
      let s := setCompare s k { compare s k with armed := false, entry := none, back := none, later := none }
      { s with fbc := { s.fbc with fires := s.fbc.fires.filter (·.chan != k) } }
    else s
  okBus (if wbit v 0 then setBit s (Reg.FBC_CMP_STATUS k) 1 true else s)

/-! ### Encoder events -/

/-- A change of the filtered state of (A, B) (R304, R305). -/
def encoderTransition (s : State) (c : Nat) (a b : Bool) : State :=
  let x := encoder s c
  let y := { x with a := a, b := b }
  if encMode s c != 1 then setEncoder s c y
  else
    match quadStep x.a x.b a b with
    | some 0 => s
    | some d =>
      let d := if actF s (Reg.FBC_ENC_CFG c) 16 16 == 1 then -d else d
      evalLive (setEncoder s c (y.move d (nowNs s))) c
    | none =>
      let y := { y with dts := y.dts + 1 }
      let s := bump (bump (setEncoder s c y) (Reg.FBC_ENC_DT_CNT c)) Reg.FBC_DT_CNT
      let s := event (setBit s (Reg.FBC_ENC_STATUS c) 1 true) FBC 0 c
      let limit := actF s (Reg.FBC_ENC_CFG c) 31 24
      if limit != 0 && limit < y.dts then encFault s c true else s

/-- A filtered rising step edge (R306). -/
def stepEdge (s : State) (c : Nat) (dir : Bool) : State :=
  if encMode s c != 3 then s
  else
    let d : Int := if dir != (actF s (Reg.FBC_ENC_CFG c) 16 16 == 1) then 1 else -1
    evalLive (setEncoder s c ((encoder s c).move d (nowNs s))) c

/-- A filtered rising edge of Z (R308). -/
def indexEdge (s : State) (c : Nat) : State :=
  let mode := encMode s c
  if mode != 1 && mode != 3 then s
  else
    let x := encoder s c
    let n := unsg 48 x.count
    let s := wr (wr s (Reg.FBC_ENC_IDX_LO c) (word n)) (Reg.FBC_ENC_IDX_HI c) (word (n / 2 ^ 32))
    let s := wr s (Reg.FBC_ENC_IDX_TS c) (word (mtime s / nsU))
    let s := note (setBit s (Reg.FBC_ENC_STATUS c) 2 true) 1 c
    let lines := actF s (Reg.FBC_ENC_INDEX c) 23 0
    let want : Int := if mode == 1 then 4 * lines else lines
    let s := setEncoder s c { x with index := some x.count, dir := 0, reversed := false }
    match x.index with
    | none => s
    | some i =>
      let diff : Int := (sgn 48 (unsg 48 (x.count - i))).natAbs
      let off : Int := (diff - want).natAbs
      if lines == 0 || x.reversed || x.dir == 0 || off ≤ actF s (Reg.FBC_ENC_TOL c) 15 0 then s
      else encFault (event (setBit s (Reg.FBC_ENC_STATUS c) 3 true) FBC 1 c) c true

/-- Gray code to binary of n bits. (PRESUMED, log entry 91) -/
def grayDecode : Nat → Nat → Nat
  | 0, x => x
  | n + 1, x => Nat.xor x (grayDecode n (x / 2))

/-- The number of ones in the low n bits. -/
def ones : Nat → Nat → Nat
  | 0, _ => 0
  | n + 1, x => x % 2 + ones n (x / 2)

/-- The level that the head drives on ENCc_B, the SSI clock, which idles high (R302). -/
def ssiClock (s : State) (c : Nat) (high : Bool) : State := emit s (.pin ("ENC" ++ toString c ++ "_B") high s.raw)

/-- The end of an SSI frame with its data bits, first bit most significant, and its parity bit (R309, R310). -/
def ssiEnd (s : State) (c : Nat) (data : Nat) (parity : Bool) : State :=
  let x := encoder s c
  if encMode s c != 2 || !x.busy then s
  else
    let g := actv s (Reg.FBC_ENC_SSI c)
    let n := wbits g 5 0
    let e := wbits g 15 10
    let par := wbits g 9 8
    let sum := (ones n data + flag parity) % 2
    let bad := (par == 1 && sum == 1) || (par == 2 && sum == 0) || (e != 0 && e ≤ n && bit data (n - e))
    let w := n - e
    let p := data % 2 ^ w
    let p := if wbit g 6 then grayDecode w p else p
    let v : Int := if wbit g 7 then sgn w p else p
    let x := { x with busy := false, mono := s.raw + 1000 * wbits g 31 26 }
    let s := ssiClock s c true
    if bad then
      encFault (event (setBit (setEncoder s c { x with failing := true }) (Reg.FBC_ENC_STATUS c) 4 true) FBC 2 c) c false
    else
      let u := unsg 48 v
      let s := setEncoder s c { x with count := v, latched := v, age := min 7 x.since, failing := false }
      wr (wr s (Reg.FBC_ENC_POS_LO c) (word u)) (Reg.FBC_ENC_POS_HI c) (word (u / 2 ^ 32))

/-- The cause of a channel's fault stands (R311). -/
def encCause (s : State) (c : Nat) : Bool :=
  let x := encoder s c
  let limit := actF s (Reg.FBC_ENC_CFG c) 31 24
  x.failing || (limit != 0 && limit < x.dts)

/-- A write of FBC_ENCc_STATUS as it lands (R311): write 1 to clear; fault clears only once its cause has. -/
def landEncStatus (s : State) (c : Nat) (v : Word) : State :=
  let m := if encCause s c then wset v 0 0 0 else v
  okBus (showFbc (wr s (Reg.FBC_ENC_STATUS c) (rd s (Reg.FBC_ENC_STATUS c) &&& ~~~ m)))

/-! ### The latch instant -/

/-- The positions of completed cycles that a follower of a channel takes (R171). -/
def encShift (s : State) (c : Nat) : State :=
  let x := encoder s c
  setEncoder s c { x with h1 := sgn 48 (feed s c).1, h2 := x.h1, h3 := x.h2 }

/-- How long the changes of a count are kept, in ns: an edge of a field input is dated at most 255 µs back (R431, R432). -/
def traceNs : Int := 300000

/-- A channel at a latch instant (R307, R309): the first falling edge of a transfer lies at L(n). -/
def encLatch (s : State) (c : Nat) : State :=
  let x := encoder s c
  match encMode s c with
  | 0 => s
  | 2 =>
    let x := { x with age := min 7 (x.age + 1), dts := 0 }
    if x.busy then setEncoder s c { x with since := x.since + 1 }
    else if s.raw < x.mono then setEncoder s c x
    else ssiClock (setEncoder s c { x with busy := true, since := 0 }) c false
  | _ =>
    let u := unsg 48 x.count
    let s := setEncoder s c { x with latched := x.count, age := 0, dts := 0
                                     trace := x.trace.filter fun e => latchNs s - traceNs < e.1 }
    wr (wr s (Reg.FBC_ENC_POS_LO c) (word u)) (Reg.FBC_ENC_POS_HI c) (word (u / 2 ^ 32))

/-- The emulated count of a 48.16 position (R315). -/
def emuCount (s : State) (e : Nat) (pos : Int) : Int :=
  Int.fdiv (pos * (actF s (Reg.FBC_EMU_NUM e) 23 0 : Nat)) ((actF s (Reg.FBC_EMU_DEN e) 23 0 : Nat) * 65536)

/-- The source position of an emulation output (R315): of the set-points for L(n) and L(n + 1) one, or the position latched last. -/
def emuSource (s : State) (e : Nat) (ahead : Bool) : Int :=
  let c := actv s (Reg.FBC_EMU_CFG e)
  let a := wbits c 7 0
  if wbit c 9 then (input s a).ext * 65536 else if ahead then (axis s a).sp1.pos else (axis s a).sp0.pos

/-- The count that an emulation output has reached at L(n) when it does not lag (R316): E of the set-point for L(n), or of the
position latched at L(n - 1). -/
def emuGoal (s : State) (e : Nat) : Int := emuCount s e (emuSource s e false)

/-- An emulation output. -/
def emu (s : State) (e : Nat) : Emu := tget (fun _ => {}) s.fbc.emu e

/-- Store an emulation output. -/
def setEmu (s : State) (e : Nat) (x : Emu) : State :=
  { s with fbc := { s.fbc with emu := tput (fun _ => {}) s.fbc.emu e x } }

/-- The counts that an output gives out in T ns on the way to a goal (R317): at most one in 40 ns. -/
def emuMove (T : Nat) (out goal : Int) : Int := clampI (-(T / 40 : Nat)) (T / 40 : Nat) (goal - out)

/-- An emulation output at a latch instant, the past cycle having lasted T ns (R316-R318). (DESIGN CHOICE, log entry 37) -/
def emuLatch (T : Nat) (s : State) (e : Nat) : State :=
  if actF s (Reg.FBC_EMU_CFG e) 8 8 == 0 then s
  else
    let goal := emuGoal s e
    let x := emu s e
    let d := if x.start then goal - x.out else emuMove T x.out goal
    let lag := goal - (x.out + d)
    let s := setEmu s e { out := x.out + d, target := goal }
    let s := setF s (Reg.FBC_EMU_STATUS e) 31 8 (min lag.natAbs (2 ^ 24 - 1))
    if lag == 0 then s else event (setBit s (Reg.FBC_EMU_STATUS e) 0 true) FBC 4 e

/-- The count given out now (R316): the move of the cycle in force, its counts spread evenly over it. (DESIGN CHOICE, log entry 37) -/
def emuNow (s : State) (e : Nat) : Int :=
  let x := emu s e
  let d := emuMove (cycleNs s) x.out (emuCount s e (emuSource s e true))
  let t : Int := (min (mtime s - s.cyc.latch) (cycleNs s * nsU) : Nat)
  x.out + Int.tdiv (d * t) (cycleNs s * nsU : Nat)

/-- The levels of EMUe_A, EMUe_B and EMUe_Z now (R318). -/
def emuPins (s : State) (e : Nat) : Bool × Bool × Bool :=
  let c := actv s (Reg.FBC_EMU_CFG e)
  if !wbit c 8 || pinsHeld s then (false, false, false)
  else
    let n := emuNow s e
    let q := (if wbit c 10 then -n else n) % 4
    let per : Int := (actF s (Reg.FBC_EMU_ZPER e) 23 0 : Nat)
    let ph : Int := (actF s (Reg.FBC_EMU_ZPH e) 23 0 : Nat)
    (q == 1 || q == 2, q == 2 || q == 3, per != 0 && (n - ph) % per == 0)

/-! ### The FBC commit -/

/-- The registers of the FBC baste group (R332). -/
def fbcGroup : List Nat :=
  [Reg.FBC_PIN_CFG] ++
  (List.range 8).flatMap (fun c => [Reg.FBC_ENC_CFG c, Reg.FBC_ENC_SSI c, Reg.FBC_ENC_INDEX c, Reg.FBC_ENC_TOL c,
    Reg.FBC_ENC_AXIS c]) ++
  (List.range 8).flatMap (fun e => [Reg.FBC_EMU_CFG e, Reg.FBC_EMU_NUM e, Reg.FBC_EMU_DEN e, Reg.FBC_EMU_ZPER e,
    Reg.FBC_EMU_ZPH e]) ++
  (List.range 32).flatMap (fun k => [Reg.FBC_CMP_CFG k, Reg.FBC_CMP_OFS k, Reg.FBC_CMP_HYST k, Reg.FBC_CMP_VAL_LO k,
    Reg.FBC_CMP_VAL_HI k, Reg.FBC_CMP_ACT k])

/-- The staged SSI frame of a channel in SSI mode is in range (R309). -/
def ssiValid (g : Word) : Bool :=
  let n := wbits g 5 0
  8 ≤ n && n ≤ 48 && 10 ≤ wbits g 25 16 && wbits g 25 16 ≤ 1000 && 1 ≤ wbits g 31 26 &&
    wbits g 15 10 ≤ n

/-- The staged fields of a compare channel are in range (R319–R322, R328). -/
def cmpValid (s : State) (k : Nat) : Bool :=
  let c := rd s (Reg.FBC_CMP_CFG k)
  let ofs := sgn 32 (rd s (Reg.FBC_CMP_OFS k)).toNat
  let w := (rd s (Reg.FBC_CMP_ACT k)).toNat
  wbits c 19 18 != 3 && wbits c 17 16 != 3 && -1000000 ≤ ofs && ofs ≤ 1000000 && (wbits c 17 16 != 2 || 0 ≤ ofs) &&
    bits w 3 2 != 3 && (wbits c 19 18 == 2 || bits w 1 0 != 3 || bits w 31 16 != 0) && (bits w 1 0 == 3 || bits w 31 16 == 0)

/-- An encoder channel feeds an enabled axis. -/
def feedsLive (s : State) (c : Nat) : Bool :=
  let w := actv s (Reg.FBC_ENC_AXIS c)
  wbit w 31 && enabled s (wbits w 7 0)

/-- The result code of a commit of the FBC group (R332), 1 where it is not refused. The field enc belongs to compare channels: one with
src 2 may not be turned away from an encoder channel that feeds an enabled axis (DEDUCED, log entry 37). -/
def fbcResult (s : State) : Nat :=
  let ssiBad := (List.range 8).any fun c =>
    let g := rd s (Reg.FBC_ENC_SSI c)
    wbits g 9 8 == 3 || (fld s (Reg.FBC_ENC_CFG c) 1 0 == 2 && !ssiValid g)
  let emuBad := (List.range 8).any fun e =>
    fld s (Reg.FBC_EMU_NUM e) 23 0 == 0 || fld s (Reg.FBC_EMU_DEN e) 23 0 == 0
  let changed (a : Nat) : Bool := rd s a != actv s a
  let feeds := (List.range 8).any (fun c => feedsLive s c &&
      (fld s (Reg.FBC_ENC_CFG c) 1 0 != encMode s c || changed (Reg.FBC_ENC_AXIS c))) ||
    (List.range 32).any fun k => cmpSrc s k == 2 && feedsLive s (actF s (Reg.FBC_CMP_CFG k) 22 20) &&
      fld s (Reg.FBC_CMP_CFG k) 22 20 != actF s (Reg.FBC_CMP_CFG k) 22 20
  let armed := (List.range 32).any fun k =>
    ((compare s k).armed || fbit s (Reg.FBC_CMP_STATUS k) 1) &&
      [Reg.FBC_CMP_CFG k, Reg.FBC_CMP_OFS k, Reg.FBC_CMP_HYST k, Reg.FBC_CMP_VAL_LO k, Reg.FBC_CMP_VAL_HI k,
        Reg.FBC_CMP_ACT k].any changed
  let named := ((List.range 8).map fun c => rd s (Reg.FBC_ENC_AXIS c)).filter fun w => wbit w 31
  let two := (named.map fun w => wbits w 7 0).eraseDups.length != named.length
  if ssiBad || emuBad || (List.range 32).any (fun k => !cmpValid s k) then 2
  else if feeds then 3 else if armed then 4 else if two then 5 else 1

/-- A write of FBC_BASTE_COMMIT as it lands (R332). -/
def landFbcCommit (s : State) (v : Word) : State :=
  if !wbit v 0 then okBus s
  else
    let r := fbcResult s
    if r == 1 then okBus (setBit s Reg.FBC_BASTE_STATUS 0 true) else okBus (setF s Reg.FBC_BASTE_STATUS 3 1 r)

/-- The commit point of a pending FBC commit. -/
def applyFbc (s : State) : State :=
  if !fbit s Reg.FBC_BASTE_STATUS 0 then s
  else
    let modes := (List.range 8).map (encMode s)
    let ens := (List.range 8).map fun e => actF s (Reg.FBC_EMU_CFG e) 8 8
    let s := applyBaste s fbcGroup
    let s := setF (setBit s Reg.FBC_BASTE_STATUS 0 false) Reg.FBC_BASTE_STATUS 3 1 1
    let s := (List.range 8).foldl (fun s c =>
      let was := modes.getD c 0
      if was == encMode s c then s
      else
        let x := encoder s c
        let s := setEncoder s c { x with count := if was == 0 then 0 else x.count, failing := false, busy := false, index := none,
                                         dir := 0, reversed := false, dts := 0 }
        if encMode s c == 2 then ssiClock s c true else s) s
    let s := (List.range 8).foldl (fun s e =>
      if ens.getD e 0 == 0 && actF s (Reg.FBC_EMU_CFG e) 8 8 == 1 then setEmu s e { emu s e with start := true } else s) s
    showFbc s

/-- The standby's distance to the active's count at a latch instant (R314). -/
def twinOffset (s : State) (c : Nat) : State :=
  let x := encoder s c
  match x.act with
  | some (p, _, _) =>
    if twinSt s != 3 && twinSt s != 2 then s
    else
      let d := sgn 48 (unsg 48 (p - x.latched))
      let jump : Int := (d - x.ofs).natAbs
      let u := unsg 48 d
      let s := setEncoder s c { x with ofs := d, ofsKnown := true }
      let s := wr (wr s (Reg.FBC_ENC_TWIN_OFS_LO c) (word u)) (Reg.FBC_ENC_TWIN_OFS_HI c) (word (u / 2 ^ 32))
      if x.ofsKnown && (actF s (Reg.FBC_ENC_TOL c) 31 16 : Int) < jump then event s FBC 3 c else s
  | none => s

end Sys2Proof.Machine
end

