-- ==== Sys2Proof/Machine/Mbx.lean ====
section
/-! DEFINITION. Native mailboxes, legacy queue mailboxes and locks (R286-R297, R300). -/

namespace Sys2Proof.Machine

/-- The master ID of a port (R286); the command protocol is carried out by firmware core 0 (DEDUCED, log entry 14). -/
def masterId : Port → Nat
  | .pcie => 0x01
  | .proto => 0x10
  | .fw c => 0x10 + c.val
  | .island => 0x20
  | .debug => 0x30

/-- A master is a firmware core. -/
def isFw (id : Nat) : Bool := 0x10 ≤ id && id ≤ 0x17

/-- Change the mailbox record. -/
def mbxMod (s : State) (f : Mbx → Mbx) : State := { s with mbx := f s.mbx }

/-- The full flag of a mailbox. -/
def mbxFull (s : State) (m : Nat) : Bool := s.mbx.full.contains m

/-- The register and bit of a mailbox's flag among two words. -/
def mbxBit (lo m : Nat) : Nat × Nat := (lo + 4 * (m / 32), m % 32)

/-- Set or clear a mailbox's full flag (R288, R289). -/
def setFull (s : State) (m : Nat) (b : Bool) : State :=
  let s := mbxMod s fun x => { x with full := if b then m :: x.full.filter (· != m) else x.full.filter (· != m)
                                      stalled := x.stalled.filter (· != m)
                                      filled := if b then tput (fun _ => 0) x.filled m s.raw else x.filled }
  setBit s (mbxBit Reg.MBX_FULL_LO m).1 (mbxBit Reg.MBX_FULL_LO m).2 b

/-- An access to the MBX block is refused and counted (R287, R288, R291). -/
def mbxRefuse (s : State) (m id : Nat) : State := slverr (event (bump s Reg.MBX_REFUSE_CNT) MBX 0 m id)

/-- A word of a task's descriptor (R274). -/
def desc (s : State) (t j : Nat) : Word := rd s (Reg.SCHED_TASK_DESC t j)

/-- The fields of a descriptor (R274). -/
def taskValid (s : State) (t : Nat) : Bool := wbit (desc s t 0) 16
def taskFw (s : State) (t : Nat) : Bool := wbit (desc s t 0) 17
def taskPrio (s : State) (t : Nat) : Nat := wbits (desc s t 0) 19 18
def taskDeclared (s : State) (t : Nat) : Nat := wbits (desc s t 0) 27 24
def taskKeep (s : State) (t : Nat) : Nat := wbits (desc s t 0) 31 28

/-- The receiver of a mailbox lives in a power domain that is off (R291). (DEDUCED, log entry 33) -/
def receiverOff (s : State) (m : Nat) : Bool :=
  let r := fld s (Reg.MBX_CFG m) 15 8
  if r == 0x01 then s.pwr.off.contains .host
  else if r == 0x40 then !taskFw s (fld s (Reg.MBX_TGT m) 9 0) && s.pwr.off.contains .hem
  else isFw r && s.sched.fwReset.contains (r - 0x10)

/-- A mailbox accepts a word from a master, or refuses it (R287, R288, R291), as one out of service does (R459; DEDUCED, log entry
41). (DEDUCED, log entry 33) -/
def mbxStore (s : State) (id m : Nat) (v : Word) : State :=
  if id != fld s (Reg.MBX_CFG m) 7 0 || mbxFull s m || receiverOff s m || s.flt.cellsOff.contains (MBX, m) then mbxRefuse s m id
  else okBus (setFull (wr s (Reg.MBX_DATA m) v) m true)

/-- The receiver of a mailbox is a task (R290). -/
def mbxTask (s : State) (m : Nat) : Bool := fld s (Reg.MBX_CFG m) 15 8 == 0x40

/-- An accepted word reaches its receiver: a token, or the mailbox interrupt (R288, R290). -/
def mbxDeliver (s : State) (m : Nat) (v : Word) : State :=
  if mbxTask s m then
    portBus (postTok s 5 { mkTok s 4 (fld s (Reg.MBX_TGT m) 9 0) (fld s (Reg.MBX_TGT m) 11 10) v with mbx := some m }) 5
  else okBus (emit s (.mbxIrq (fld s (Reg.MBX_CFG m) 15 8) m false))

/-- A write to a mailbox's data register by a master (R287, R288, R290, R291). (DEDUCED, log entry 33) -/
def mbxWrite (s : State) (id m : Nat) (v : Word) : State :=
  let t := mbxStore s id m v
  if t.bus.err then t else mbxDeliver t m v

/-- A read of a mailbox's data register by a master (R287, R289). -/
def mbxRead (s : State) (id m : Nat) : State :=
  if id != fld s (Reg.MBX_CFG m) 15 8 then mbxRefuse s m id
  else if mbxFull s m then
    okBus (emit (setFull s m false) (.mbxIrq (fld s (Reg.MBX_CFG m) 7 0) m true)) (rd s (Reg.MBX_DATA m))
  else
    okBus (wr s Reg.MBX_EMPTY_READ (word (1 + m * 2 ^ 8 + id * 2 ^ 16))) 0

/-- A write of MBX_CFGm or MBX_TGTm (R287). (DEDUCED, log entry 33) -/
def mbxConfig (s : State) (id m reg : Nat) (mask v : Word) : State :=
  if isFw id && !mbxFull s m then okBus (wr s reg (v &&& mask)) else mbxRefuse s m id

/-- The stall time of a mailbox in ns (R292): 1 to 10,000 µs. (DEDUCED, log entry 33) -/
def stallNs (s : State) (m : Nat) : Nat := 1000 * min (max 1 (fld s (Reg.MBX_CFG m) 31 16)) 10000

/-- The stall timer of a mailbox expires (R292): once for a fill. (DESIGN CHOICE, log entry 12) -/
def mbxStall (s : State) (m : Nat) : State :=
  if !mbxFull s m || s.mbx.stalled.contains m || s.raw < tget (fun _ => 0) s.mbx.filled m + stallNs s m then s
  else
    let s := mbxMod s fun x => { x with stalled := m :: x.stalled }
    let s := setBit s (mbxBit Reg.MBX_STALL_LO m).1 (mbxBit Reg.MBX_STALL_LO m).2 true
    let s := event s MBX 1 m
    emit (emit s (.mbxIrq (fld s (Reg.MBX_CFG m) 7 0) m false)) (.mbxIrq (fld s (Reg.MBX_CFG m) 15 8) m false)

/-- The dispatch of a task takes an operand that a mailbox delivered (R290): the mailbox is empty again. -/
def mbxTaken (s : State) (m : Nat) : State := emit (setFull s m false) (.mbxIrq (fld s (Reg.MBX_CFG m) 7 0) m true)

/-! ### Locks -/

/-- The owner of a lock, 0 where it is free. -/
def lockOwner (s : State) (k : Nat) : Nat := tget (fun _ => 0) s.mbx.locks k

/-- Set the owner of a lock. -/
def setLock (s : State) (k id : Nat) : State :=
  mbxMod s fun x => { x with locks := tput (fun _ => 0) x.locks k id }

/-- A read of a lock by a master (R295). -/
def lockRead (s : State) (id k : Nat) : State :=
  let o := lockOwner s k
  if o == 0 then okBus (setLock s k id) (word id)
  else if o == id then okBus s (word id)
  else okBus s (word (2 ^ 31 + o))

/-- A write to a lock by a master (R295). -/
def lockWrite (s : State) (id k : Nat) (v : Word) : State :=
  if lockOwner s k == id && v == 0 then okBus (setLock s k 0) else slverr s

/-- The head releases the locks of a master that stops existing (R297). -/
def releaseLocks (s : State) (id : Nat) : State :=
  (List.range 64).foldl (fun s k => if lockOwner s k == id then event (setLock s k 0) MBX 3 k id else s) s

/-! ### Legacy queues -/

/-- A legacy queue. -/
def legacy (s : State) (q : Nat) : Legacy := tget (fun _ => {}) s.mbx.queues q

/-- Store a legacy queue. -/
def setLegacy (s : State) (q : Nat) (x : Legacy) : State :=
  mbxMod s fun m => { m with queues := tput (fun _ => {}) m.queues q x }

/-- The queue interrupt (R294) on its vector (R537). -/
def queueIrq (s : State) (q : Nat) (cause : Bool) : State :=
  if cause && fbit s (Reg.MBXQ_CFG q) 8 then emit (emit s (.queueIrq q)) (.msix 9) else s

/-- A host write to MBXQ_H2Dq (R294). -/
def queuePush (s : State) (q : Nat) (v : Word) : State :=
  if !s.mbx.legacyMode then slverr s
  else
    let x := legacy s q
    if 16 ≤ x.h2d.length then okBus (queueIrq (event (setBit s (Reg.MBXQ_STAT q) 0 true) MBX 2 q) q true)
    else okBus (setLegacy s q { x with h2d := x.h2d ++ [v] })

/-- Words of answers go into the head-to-host direction as space allows (R294, R543). -/
def queueRefill (s : State) (q : Nat) : State :=
  let x := legacy s q
  let n := 16 - x.d2h.length
  let y := { x with d2h := x.d2h ++ x.reply.take n, reply := x.reply.drop n }
  queueIrq (setLegacy s q y) q (!x.reply.isEmpty && n != 0 && fld s (Reg.MBXQ_CFG q) 4 0 ≤ y.d2h.length)

/-- A host read of MBXQ_D2Hq (R294). -/
def queuePop (s : State) (q : Nat) : State :=
  if !s.mbx.legacyMode then slverr s
  else
    let x := legacy s q
    match x.d2h with
    | [] => okBus (queueIrq (setBit s (Reg.MBXQ_STAT q) 1 true) q true) 0
    | v :: r => okBus (queueRefill (setLegacy s q { x with d2h := r }) q) v

/-- The head answers over a queue (R543). -/
def queueFill (s : State) (q : Nat) (vs : List Word) : State :=
  queueRefill (setLegacy s q { legacy s q with reply := (legacy s q).reply ++ vs }) q

end Sys2Proof.Machine
end

