-- ==== Sys2Proof/Machine/Sched.lean ====
section
/-! DEFINITION. The task scheduler (R272-R285, R298, R299): descriptors, readiness, dispatch and delay lists. -/

namespace Sys2Proof.Machine

/-- The run state of a task. -/
def task (s : State) (t : Nat) : Task := tget (fun _ => {}) s.sched.tasks t

/-- Store the run state of a task. -/
def setTask (s : State) (t : Nat) (x : Task) : State :=
  { s with sched := { s.sched with tasks := tput (fun _ => {}) s.sched.tasks t x } }

/-- A Hem core. -/
def hemCore (s : State) (c : Nat) : HemCore := tget (fun _ => {}) s.hem.cores c

/-- Store a Hem core. -/
def setHemCore (s : State) (c : Nat) (x : HemCore) : State :=
  { s with hem := { s.hem with cores := tput (fun _ => {}) s.hem.cores c x } }

/-- The active bank of a core. -/
def HemCore.bank (x : HemCore) : HemBank := if x.active then x.bank1 else x.bank0

/-- The other bank of a core. -/
def HemCore.shadow (x : HemCore) : HemBank := if x.active then x.bank0 else x.bank1

/-- Replace the active bank. -/
def HemCore.setBank (x : HemCore) (b : HemBank) : HemCore :=
  if x.active then { x with bank1 := b } else { x with bank0 := b }

/-- Replace the other bank. -/
def HemCore.setShadow (x : HemCore) (b : HemBank) : HemCore :=
  if x.active then { x with bank0 := b } else { x with bank1 := b }

/-! ### Descriptors -/

/-- A destination word is valid (R276). -/
def destValid (s : State) (w : Word) : Bool :=
  let low := wbits w 27 0
  match wbits w 31 28 with
  | 0 => low == 0
  | 1 => low < 2 ^ 12
  | 2 => low < 2 ^ 8
  | 3 => low < 2 ^ 8 && !hemHook s low
  | 4 => low < 2 ^ 6
  | _ => false

/-- The result of the check when a write sets valid (R275, R299), 1 where it passes. -/
def descResult (s : State) (t : Nat) : Nat :=
  let w0 := desc s t 0
  let w2 := desc s t 2
  let decl := taskDeclared s t
  let keep := taskKeep s t
  let fw := taskFw s t
  let cores := if fw then wbits w2 7 0 else wbits w2 15 0
  let reserved := wbits w0 23 20 != 0 || wbits (desc s t 1) 31 20 != 0 || wbits w2 31 25 != 0 || desc s t 7 != 0 ||
    (!fw && wbits w0 15 12 != 0)
  if decl == 0 || (List.range 4).any (fun k => bit keep k && !bit decl k) then 2
  else if cores == 0 then 3
  else if !([3, 4, 5, 6].all fun j => destValid s (desc s t j)) then 4
  else if reserved then 5
  else if fw && taskPrio s t == 0 then 6
  else 1

/-- Whether every declared operand of a task is present (R278). -/
def allPresent (s : State) (t : Nat) : Bool :=
  let d := taskDeclared s t
  d != 0 && (List.range 4).all fun k => !bit d k || bit (task s t).present k

/-- Readiness of a task is evaluated (R278): its CK_FW cycle and time are noted where it becomes ready. (DEDUCED, log entry 70) -/
def evalReady (s : State) (t : Nat) : State :=
  let x := task s t
  if x.ready || !taskValid s t || !allPresent s t then s
  else setTask s t { x with ready := true, order := s.sched.order, readyRaw := s.raw, holdOver := false }

/-- The CK_FW cycle of a dispatch decision or of a token: a cycle has one of each, the decision first (R279, R281). (DEDUCED, log
entry 70) -/
def schedCycle (s : State) (token : Bool) : State :=
  let same := token && !s.sched.tokenSeen && s.sched.stamp == s.raw
  { s with sched := { s.sched with order := if same then s.sched.order else s.sched.order + 1, stamp := s.raw, tokenSeen := token } }

/-- A write to word w of a task's descriptor by a port (R275). -/
def descriptorWrite (s : State) (host : Bool) (t w : Nat) (v : Word) : State :=
  let clears := w == 0 && !wbit v 16
  if (taskValid s t && !clears) || (host && (taskFw s t || (w == 0 && wbit v 17))) then slverr s
  else
    let was := taskValid s t
    let s := wr s (Reg.SCHED_TASK_DESC t w) v
    if w != 0 then okBus s
    else if clears then
      okBus (if was then setTask s t { task s t with present := 0, ready := false } else s)
    else
      let r := descResult s t
      let s := if r == 1 then s else setBit s (Reg.SCHED_TASK_DESC t 0) 16 false
      okBus (wr s Reg.SCHED_DESC_STATUS (word (t + r * 2 ^ 12)))

/-! ### Tokens -/

/-- The value of an operand of a task. -/
def Task.op (x : Task) (k : Nat) : Word :=
  match k with | 0 => x.o0 | 1 => x.o1 | 2 => x.o2 | _ => x.o3

/-- Set an operand of a task. -/
def Task.setOp (x : Task) (k : Nat) (v : Word) : Task :=
  let x := match k with
    | 0 => { x with o0 := v }
    | 1 => { x with o1 := v }
    | 2 => { x with o2 := v }
    | _ => { x with o3 := v }
  { x with present := x.present ||| 2 ^ k }

/-- A token is written into the matching store (R275, R278). -/
def takeToken (s : State) (k : Token) : State :=
  if !taskValid s k.task then event (bump s Reg.SCHED_DISCARD_CNT) SCHED 1 k.task k.source
  else
    let x := task s k.task
    let s := if bit x.present k.operand then event (bump s Reg.SCHED_OVERWRITE_CNT) SCHED 0 k.task k.operand else s
    let x := match k.mbx with
      | some m => { x with words := (k.operand, m) :: x.words }
      | none => x
    evalReady (setTask s k.task (x.setOp k.operand k.value)) k.task

/-- The token at the front of a port arrives (R273, R278); the oldest token that waits for room takes its place, and the write that
posted it is answered. -/
def tokenArrival (s : State) (port : Nat) : State :=
  match (tget (fun _ => []) s.sched.ports port : List Token) with
  | [] => s
  | k :: r =>
    let wait : List Token := tget (fun _ => []) s.sched.stalled port
    let s := { s with
      sched := { s.sched with ports := tput (fun _ => []) s.sched.ports port (r ++ wait.take 1)
                              stalled := tput (fun _ => []) s.sched.stalled port (wait.drop 1) }
      bus := if 4 ≤ port && !wait.isEmpty then { s.bus with waits := false } else s.bus }
    takeToken (schedCycle s true) k

/-- A write of SCHED_POST_HI (R272): source 3 from the host, 6 from a firmware core. -/
def postToken (s : State) (fw : Bool) (v : Word) : State :=
  let port := if fw then 4 else 6
  portBus (postTok s port (mkTok s (if fw then 6 else 3) (wbits v 9 0) (wbits v 11 10) (rd s Reg.SCHED_POST_LO))) port

/-- Show the entries in use. -/
def showDelays (s : State) : State := setF s Reg.SCHED_BASTE_STATUS 26 16 s.sched.delays.length

/-- A cancel (R279, R280): it wins over a readiness of the same CK_FW cycle. (DEDUCED, log entry 34) (DEDUCED, log entry 70) -/
def cancel (s : State) (t : Nat) (del : Bool) : State :=
  let x := task s t
  let race := x.ready && x.readyRaw == s.raw
  let s := setTask s t { x with present := 0, ready := false }
  let s := if del then showDelays { s with sched := { s.sched with delays := s.sched.delays.filter fun e => e.task != t } } else s
  okBus (if race then event (bump s Reg.SCHED_CANCEL_RACE_CNT) SCHED 2 t else s)

/-! ### Dispatch -/

/-- The flow of a task, if it belongs to one (R274). -/
def taskFlow (s : State) (t : Nat) : Option Nat :=
  let w := desc s t 2
  if wbit w 24 then some (wbits w 23 16) else none

/-- The ready tasks, and the tasks that run. -/
def readyTasks (s : State) : List Nat := (s.sched.tasks.filter fun e => e.2.ready).map (·.1)
def runningTasks (s : State) : List Nat := (s.sched.tasks.filter fun e => e.2.running.isSome).map (·.1)

/-- A task became ready before another: in an earlier CK_FW cycle, or with the lower number in the same one (R281).
(DEDUCED, log entry 70) -/
def readyBefore (s : State) (t u : Nat) : Bool :=
  (task s t).order < (task s u).order || ((task s t).order == (task s u).order && t < u)

/-- A ready task is eligible (R281). -/
def eligible (s : State) (t : Nat) : Bool :=
  (task s t).running.isNone &&
  match taskFlow s t with
  | none => true
  | some f =>
    (readyTasks s).all (fun u => taskFlow s u != some f || !readyBefore s u t) &&
      (runningTasks s).all fun u => taskFlow s u != some f

/-- Dispatch to a core is held by a patch (R268), or for the capture of a snapshot (R381). (DEDUCED, log entry 35) -/
def patchHeld (s : State) (c : Nat) : Bool :=
  s.twin.holding ||
  match s.hem.patch with
  | some p => p.latched && bit p.mask c
  | none => false

/-- A core of a task's class is a candidate for it (R282). -/
def candidate (s : State) (t c : Nat) : Bool :=
  let w := desc s t 2
  if taskFw s t then c < 8 && bit (wbits w 7 0) c && !s.sched.fwReset.contains c
  else bit (wbits w 15 0) c && fbit s (Reg.HEM_CORE_CTRL c) 0 && !patchHeld s c && !s.flt.cellsOff.contains (HEM, c)

/-- The tasks on a firmware core (R282). -/
def fwTasks (s : State) (c : Nat) : List Nat := tget (fun _ => []) s.sched.fwTasks c

/-- A core runs nothing and nothing waits for it. -/
def coreIdle (s : State) (fw : Bool) (c : Nat) : Bool :=
  if fw then (fwTasks s c).isEmpty else !(hemCore s c).running && !(hemCore s c).prepared

/-- The task that a core runs, where the core holds no preempted task and may be preempted (R261, R282). -/
def preemptable (s : State) (fw : Bool) (c : Nat) : Option Nat :=
  if fw then match fwTasks s c with
    | [u] => some u
    | _ => none
  else
    let h := hemCore s c
    if h.running && !h.held && !h.prepared then some h.bank.task else none

/-- The affinity hold of a task's level in ns (R282, R299): 10 ns units, at most 200. -/
def holdNs (s : State) (t : Nat) : Nat := 10 * min 200 (fld s Reg.SCHED_AFF_HOLD (8 * taskPrio s t + 7) (8 * taskPrio s t))

/-- The affinity hold of a task's level has elapsed (R282): a hold of 0 does at once. -/
def holdElapsed (s : State) (t : Nat) : Bool := (task s t).last.isNone || (task s t).holdOver || holdNs s t == 0

/-- Where a task is placed (R282): a core, and whether it preempts there. -/
def placement (s : State) (t : Nat) : Option (Nat × Bool) :=
  let fw := taskFw s t
  let idle (c : Nat) : Bool := candidate s t c && coreIdle s fw c
  let pref := (task s t).last.filter fun c => idle c
  match pref with
  | some c => some (c, false)
  | none =>
    if !holdElapsed s t then none
    else
      match (List.range 16).find? idle with
      | some c => some (c, false)
      | none =>
        let can := (List.range 16).filterMap fun c =>
          if candidate s t c then ((preemptable s fw c).filter fun u => taskPrio s t < taskPrio s u).map fun u => (c, taskPrio s u) else none
        let worst := can.foldl (fun m x => max m x.2) 0
        (can.find? fun x => x.2 == worst).map fun x => (x.1, true)

/-- A task comes before another in the dispatcher's order (R281). -/
def before (s : State) (t u : Nat) : Bool :=
  taskPrio s t < taskPrio s u || (taskPrio s t == taskPrio s u && readyBefore s t u)

/-- The task that the dispatcher picks with its placement (R281, R282). -/
def pick (s : State) : Option (Nat × Nat × Bool) :=
  ((readyTasks s).filter (eligible s)).foldl (fun (b : Option (Nat × Nat × Bool)) t =>
    match placement s t with
    | none => b
    | some (c, p) =>
      match b with
      | some (u, _, _) => if before s t u then some (t, c, p) else b
      | none => some (t, c, p)) none

/-- The shadow bank prepared for a task (R257). -/
def prepareBank (s : State) (t : Nat) : HemBank :=
  let x := task s t
  let d := taskDeclared s t
  { pc := BitVec.ofNat 12 (wbits (desc s t 0) 15 0)
    p := tput (fun _ => 0) [] 0 (BitVec.ofNat 20 (wbits (desc s t 1) 19 0))
    o := (List.range 4).foldl (fun m k => tput (fun _ => 0) m k (if bit d k then x.op k else 0)) []
    task := t
    dests := [3, 4, 5, 6].map (desc s t)
    decided := s.raw }

/-- A prepared task takes over its core at an instruction boundary outside a REP, a delay slot and a stall (R258, R261). -/
def preempt (x : HemCore) : HemCore :=
  let b := x.bank
  if x.running && x.prepared && b.rep.isNone && !b.slot && !b.stalled && b.load.isNone then
    { x with active := !x.active, held := true, prepared := false }
  else x

/-- A dispatch takes a task's operands (R278, R290). -/
def takeOperands (s : State) (t : Nat) : State :=
  let gone := (List.range 4).filter fun k => bit (taskDeclared s t) k && !bit (taskKeep s t) k
  let x := task s t
  let p := gone.foldl (fun p k => if bit p k then p - 2 ^ k else p) x.present
  let taken := x.words.filter fun w => gone.contains w.1
  let s := taken.foldl (fun s w => mbxTaken s w.2) s
  evalReady (setTask s t { x with present := p, ready := false, holdOver := false, words := x.words.filter fun w => !gone.contains w.1 }) t

/-- The scheduler takes the end of a task (R259, R260). -/
def taskEnded (s : State) (t : Nat) : State := setTask s t { task s t with running := none }

/-- The end of the task that a firmware core runs: a task that it preempted goes on (R282). -/
def fwEnded (s : State) (c : Nat) : State :=
  match fwTasks s c with
  | [] => s
  | t :: r => taskEnded { s with sched := { s.sched with fwTasks := tput (fun _ => []) s.sched.fwTasks c r } } t

/-- A dispatch decision (R257, R258, R281-R283): a Hem core takes the task into its shadow bank, and an idle one switches to it. -/
def dispatch (s : State) : State :=
  let s := schedCycle s false
  match pick s with
  | none => s
  | some (t, c, _) =>
    let x := task s t
    let s :=
      if taskPrio s t == 0 then
        wr s Reg.SCHED_LAT_MAX (word (max (rd s Reg.SCHED_LAT_MAX).toNat ((s.raw - x.readyRaw) * 8 / 5)))
      else s
    if taskFw s t then
      let ops := (List.range 4).flatMap fun k => leBytes 4 (if bit (taskDeclared s t) k then (x.op k).toNat else 0)
      let s := takeOperands (setTask s t { x with running := some c, last := some c }) t
      let s := { s with sched := { s.sched with fwTasks := tput (fun _ => []) s.sched.fwTasks c (t :: fwTasks s c) } }
      emit s (.toFirmware "task" (leBytes 2 t ++ leBytes 2 c ++ ops))
    else
      let bank := prepareBank s t
      let s := takeOperands (setTask s t { x with running := some c, last := some c }) t
      let h := hemCore s c
      let h := if h.running then preempt { h.setShadow bank with prepared := true }
        else { h.setShadow bank with active := !h.active, running := true }
      setHemCore s c h

/-- The affinity hold of a ready task elapses (R282). (DESIGN CHOICE, log entry 12) -/
def holdExpiry (s : State) (t : Nat) : State :=
  let x := task s t
  if x.ready && x.readyRaw + holdNs s t < s.raw then setTask s t { x with holdOver := true } else s

/-! ### Delay lists -/

/-- The scheduler tick (R284). -/
def tick (s : State) : Nat := mtime s / nsU / 1000

/-- An insertion of the staged entry (R285). -/
def delayInsert (s : State) : State :=
  let w := rd s Reg.SCHED_DLY_TARGET
  if !taskValid s (wbits w 9 0) || wbits w 31 12 != 0 then setF s Reg.SCHED_BASTE_STATUS 3 1 3
  else if 1024 ≤ s.sched.delays.length then event (setF s Reg.SCHED_BASTE_STATUS 3 1 2) SCHED 3 (wbits w 9 0)
  else
    let e : DelayEntry := { value := rd s Reg.SCHED_DLY_VALUE, task := wbits w 9 0, operand := wbits w 11 10
                            wake := rd s Reg.SCHED_DLY_WAKE, period := rd s Reg.SCHED_DLY_PERIOD }
    let s := { s with sched := { s.sched with delays := s.sched.delays ++ [e] } }
    showDelays (setF s Reg.SCHED_BASTE_STATUS 3 1 1)

/-- A removal of every entry that targets the staged task. -/
def delayRemove (s : State) : State :=
  let t := fld s Reg.SCHED_DLY_TARGET 9 0
  let s := { s with sched := { s.sched with delays := s.sched.delays.filter fun e => e.task != t } }
  showDelays (setF s Reg.SCHED_BASTE_STATUS 3 1 1)

/-- A write of SCHED_BASTE_COMMIT as it lands (R285, R299): a removal goes before an insertion of the same write.
(DEDUCED, log entry 34) -/
def landSchedCommit (s : State) (v : Word) : State :=
  let s := if wbit v 1 then delayRemove s else s
  okBus (if wbit v 0 then delayInsert s else s)

/-- How long an entry has been due at a tick, if it is due (R285). -/
def dueFor (tk : Nat) (e : DelayEntry) : Option Nat :=
  let d := (BitVec.ofNat 32 tk - e.wake).toNat
  if d < 2 ^ 31 then some d else none

/-- The next entry due at a tick among those of some kind (R285): by priority of its target, then by wake tick, then in order of
insertion. -/
def nextDue (s : State) (tk : Nat) (among : DelayEntry → Bool) : Option DelayEntry :=
  (s.sched.delays.filter among).foldl (fun (b : Option DelayEntry) e =>
    match dueFor tk e, b with
    | none, b => b
    | some _, none => some e
    | some d, some f =>
      let pe := taskPrio s e.task
      let pf := taskPrio s f.task
      if pe < pf || (pe == pf && (dueFor tk f).getD 0 < d) then some e else b) none

/-- An entry fires (R285): its token, and its re-insertion where it has a period. -/
def fireEntry (s : State) (e : DelayEntry) : State :=
  let rest := s.sched.delays.erase e
  let s := { s with sched := { s.sched with
    delays := if e.period == 0 then rest else rest ++ [{ e with wake := e.wake + e.period, released := false }] } }
  showDelays (postTok s 3 (mkTok s 2 e.task e.operand e.value))

/-- The port of the delay lists has room (R273). -/
def delayRoom (s : State) : Bool := (tget (fun _ => []) s.sched.ports 3 : List Token).length < 16

/-- A due entry fires once its port has room (R273, R285); in a pair, entries for Hem-class tasks fire from the latch instant at which
they are due (R363). -/
def delayFire (s : State) : State :=
  match nextDue s (tick s) fun e => !s.twin.pair || taskFw s e.task || e.released with
  | none => s
  | some e => if delayRoom s then fireEntry s e else s

/-- In a pair the entries for Hem-class tasks that are due at the tick of L(n) fire (R363): as many as the port has room for at once, the
others as it drains (DEDUCED, log entry 34). -/
def delayLatch : Nat → State → State
  | 0, s => s
  | n + 1, s =>
    let tk := s.cyc.latch / nsU / 1000
    match nextDue s tk fun e => !taskFw s e.task with
    | none => s
    | some e =>
      if delayRoom s then delayLatch n (fireEntry s e)
      else
        let ds := s.sched.delays.map fun e => if !taskFw s e.task && (dueFor tk e).isSome then { e with released := true } else e
        { s with sched := { s.sched with delays := ds } }

/-- The readings of SCHED_STATUS and SCHED_TASKt_STATE (R299). -/
def schedStatus (s : State) : Word := word ((readyTasks s).length + (runningTasks s).length * 2 ^ 16)
def taskState (s : State) (t : Nat) : Word :=
  let x := task s t
  word (x.present % 16 + flag x.ready * 16 + flag x.running.isSome * 32 + (x.running.getD 0) % 32 * 2 ^ 8 +
    (x.last.getD 0) % 32 * 2 ^ 16)

end Sys2Proof.Machine
end

