-- ==== Sys2Proof/Machine/Operands.lean ====
section
/-! DEFINITION. The operands of the Hem instructions: registers, address modes, circular buffers and memory accesses
(R238-R242, R247). -/

namespace Sys2Proof.Machine

/-- A data register. -/
def HemBank.dr (b : HemBank) (i : BitVec 3) : Half := tget (fun _ => 0) b.d i.toNat

/-- Write a data register. -/
def HemBank.setD (b : HemBank) (i : BitVec 3) (v : Half) : HemBank := { b with d := tput (fun _ => 0) b.d i.toNat v }

/-- An accumulator. -/
def HemBank.acc (b : HemBank) (a : BitVec 1) : BitVec 40 := if a = 0 then b.a0 else b.a1

/-- Write an accumulator. -/
def HemBank.setAcc (b : HemBank) (a : BitVec 1) (v : BitVec 40) : HemBank :=
  if a = 0 then { b with a0 := v } else { b with a1 := v }

/-- An address register, the base and the length of its circular buffer. -/
def HemBank.pr (b : HemBank) (i : BitVec 2) : BitVec 20 := tget (fun _ => 0) b.p i.toNat
def HemBank.br (b : HemBank) (i : BitVec 2) : BitVec 20 := tget (fun _ => 0) b.b i.toNat
def HemBank.lr (b : HemBank) (i : BitVec 2) : Half := tget (fun _ => 0) b.l i.toNat

/-- Write an address register. -/
def HemBank.setP (b : HemBank) (i : BitVec 2) (v : BitVec 20) : HemBank := { b with p := tput (fun _ => 0) b.p i.toNat v }

/-- Write the base or the length of a circular buffer. -/
def HemBank.setB (b : HemBank) (i : BitVec 2) (v : BitVec 20) : HemBank := { b with b := tput (fun _ => 0) b.b i.toNat v }
def HemBank.setL (b : HemBank) (i : BitVec 2) (v : Half) : HemBank := { b with l := tput (fun _ => 0) b.l i.toNat v }

/-- An operand of the task. -/
def HemBank.op (b : HemBank) (k : BitVec 2) : Word := tget (fun _ => 0) b.o k.toNat

/-- A new value of an address register, wrapped once where its buffer has a length (R247). -/
def wrapP (base : BitVec 20) (len : Half) (x : Int) : BitVec 20 :=
  let B : Int := base.toNat
  let L : Int := len.toNat
  if L = 0 then BitVec.ofInt 20 x
  else if B + L ≤ x then BitVec.ofInt 20 (x - L)
  else if x < B then BitVec.ofInt 20 (x + L)
  else BitVec.ofInt 20 x

/-- Step an address register by a signed amount (R247). -/
def HemBank.stepP (b : HemBank) (i : BitVec 2) (d : Int) : HemBank :=
  b.setP i (wrapP (b.br i) (b.lr i) ((b.pr i).toNat + d))

/-- The address of a memory operand, and the bank after the step of its address register (R247, R252): [p], [p]+, [p]− and
[p + off]. -/
def HemBank.address (b : HemBank) (p am : BitVec 2) (off : BitVec 12) (size : Nat) : Nat × HemBank :=
  match am.toNat with
  | 0 => ((b.pr p).toNat, b)
  | 1 => ((b.pr p).toNat, b.stepP p size)
  | 2 => ((b.pr p).toNat, b.stepP p (-(size : Int)))
  | _ => (((b.pr p).toNat + off.toNat) % 2 ^ 20, b)

/-- Where an access of a core goes: the owner of the memory, the offset in it and whether it passes the cluster window. -/
structure HemPlace where
  owner : Nat
  offset : Nat
  window : Bool
  deriving DecidableEq, Repr

/-- The place of an access of some bytes at an address, or the cause of the abort (R239, R241, R251): 3 misaligned, 4 unmapped,
2 a repeated instruction in the cluster window. -/
def hemPlace (c addr size : Nat) (repeated : Bool) : Except Nat HemPlace :=
  if addr % size != 0 then .error 3
  else if addr < 0x8000 then .ok ⟨c, addr, false⟩
  else if addr < 0x80000 then .error 4
  else if repeated then .error 2
  else .ok ⟨(addr - 0x80000) / 0x8000, addr % 0x8000, true⟩

/-- Bytes of a core's data memory. -/
def HemCore.bytes (h : HemCore) (o : Nat) : Nat → List Byte
  | 0 => []
  | n + 1 => tget memDefault h.data o :: HemCore.bytes h (o + 1) n

/-- Store bytes into a core's data memory. -/
def HemCore.store (h : HemCore) (o : Nat) : List Byte → HemCore
  | [] => h
  | b :: bs => HemCore.store { h with data := tput memDefault h.data o b } (o + 1) bs

/-- Read a value from a place, or abort on a double-bit error (R242). -/
def hemRead (s : State) (x : HemPlace) (size : Nat) : Except Nat Nat :=
  let h := hemCore s x.owner
  if h.badData.contains (x.offset / 4) then .error 6 else .ok (leVal (h.bytes x.offset size))

/-- Write a value to a place; a whole word takes a double-bit error away. -/
def hemWrite (s : State) (x : HemPlace) (size v : Nat) : State :=
  let h := hemCore s x.owner
  let h := h.store x.offset (leBytes size v)
  let out (w : Nat) : Bool := w != x.offset / 4
  setHemCore s x.owner (if size == 4 then { h with badData := h.badData.filter out, softData := h.softData.filter out } else h)

/-- A single-bit error in a word that is read, fetched or scrubbed is corrected, counted and written back (R242). -/
def hemCorrect (s : State) (c : Nat) (prog : Bool) (w : Nat) : State :=
  let h := hemCore s c
  if !(if prog then h.softProg else h.softData).contains w then s
  else
    let h := if prog then { h with softProg := h.softProg.filter (· != w) } else { h with softData := h.softData.filter (· != w) }
    event (bump (setHemCore s c h) Reg.HEM_ECC_CORR_CNT) HEM 1 c w

/-- The stall of an access: 4 to 12 cycles through the cluster window, a free value (R239, DESIGN CHOICE, log entry 5). -/
def hemStall (s : State) (x : HemPlace) : Nat × State :=
  if x.window then (4 + (freeVal 4 s).toNat % 9, drawn s) else (0, s)

end Sys2Proof.Machine
end

