-- ==== Sys2Proof/Machine/Hem.lean ====
section
/-! DEFINITION. The Hem cores (07_hem_cores.md): what each instruction does in its bank, how a core issues it, the end of a
task, posts, and the loading and patching of programs and data. -/

namespace Sys2Proof.Machine

/-- What an instruction does: the state with the memories, its bank, the load it starts, its stall cycles and whether it ends
the task. -/
structure HemEff where
  s : State
  b : HemBank
  load : Option (Nat × BitVec 40) := none
  stall : Nat := 0
  ends : Bool := false
  post : Option (Nat × Word) := none
  deriving DecidableEq, Repr

/-- A plain effect on the bank. -/
def hemOk (s : State) (b : HemBank) : Except Nat HemEff := .ok { s := s, b := b }

/-- An accumulator takes the exact result r of an operation, wrapped modulo 2^40 (R244). -/
def accTake (s : State) (b : HemBank) (a : BitVec 1) (r : Int) : Except Nat HemEff :=
  hemOk s { b.setAcc a (BitVec.ofInt 40 r) with st := stOr b.st false (ovf40 r) }

/-- A data register takes a saturated result with n and z (R246). -/
def satTake (s : State) (b : HemBank) (dd : BitVec 3) (r : Int) : Except Nat HemEff :=
  let v := sat16 r
  hemOk s { b.setD dd v.1 with st := stOr (stNz b.st v.1.toInt) v.2 false }

/-- A data register takes a bit pattern with n and z (R246). -/
def bitTake (s : State) (b : HemBank) (dd : BitVec 3) (v : Half) : Except Nat HemEff :=
  hemOk s { b.setD dd v with st := stNz b.st v.toInt }

/-- A load of size bytes into a register (R249). -/
def hemLoadOp (s : State) (c : Nat) (b : HemBank) (reg : Nat) (p am : BitVec 2) (off : BitVec 12) (size : Nat) :
    Except Nat HemEff :=
  let a := b.address p am off size
  match hemPlace c a.1 size b.rep.isSome with
  | .error e => .error e
  | .ok x =>
    match hemRead s x size with
    | .error e => .error e
    | .ok v =>
      let w := hemStall (hemCorrect s x.owner false (x.offset / 4)) x
      .ok { s := w.2, b := a.2, load := some (reg, BitVec.ofInt 40 (sgn (8 * size) v)), stall := w.1 }

/-- A store of size bytes. -/
def hemStoreOp (s : State) (c : Nat) (b : HemBank) (p am : BitVec 2) (off : BitVec 12) (size v : Nat) (sat : Bool) :
    Except Nat HemEff :=
  let a := b.address p am off size
  match hemPlace c a.1 size b.rep.isSome with
  | .error e => .error e
  | .ok x =>
    let w := hemStall s x
    .ok { s := hemWrite w.2 x size v, b := { a.2 with st := stOr b.st sat false }, stall := w.1 }

/-- A product with a parallel load (R254): add says whether the accumulator is added to. -/
def maclOp (s : State) (c : Nat) (b : HemBank) (add : Bool) (a : BitVec 1) (dd ds dt : BitVec 3) (p am mm : BitVec 2)
    (fr : BitVec 1) : Except Nat HemEff :=
  match hemLoadOp s c b dd.toNat p am 0 2 with
  | .error e => .error e
  | .ok x =>
    let r := (if add then (b.acc a).toInt else 0) + hemProduct mm fr (b.dr ds) (b.dr dt)
    .ok { x with b := { x.b.setAcc a (BitVec.ofInt 40 r) with st := stOr b.st false (ovf40 r) } }

/-- A jump after the delay slot (R250). -/
def hemJump (s : State) (b : HemBank) (target : BitVec 12) : Except Nat HemEff :=
  hemOk s { b with slot := true, target := some target }

/-- A token goes to the post buffer; cause 0 says that the core stalls on a full buffer (R254). -/
def hemPostOp (s : State) (c : Nat) (b : HemBank) (j : BitVec 2) (v : Word) : Except Nat HemEff :=
  if 4 ≤ (hemCore s c).posts.length then .error 0 else .ok { s := s, b := b, post := some (j.toNat, v) }

/-- The operation of an instruction (R254) in a bank of core c, or the cause of the abort. -/
def hemOp (s : State) (c : Nat) (b : HemBank) : HemInstr → Except Nat HemEff
  | .nop => hemOk s b
  | .ldi dd imm => hemOk s (b.setD dd imm)
  | .mov dd ds => hemOk s (b.setD dd (b.dr ds))
  | .ld dd p am off => hemLoadOp s c b dd.toNat p am off 2
  | .st ds p am off => hemStoreOp s c b p am off 2 (b.dr ds).toNat false
  | .lda a p am off => hemLoadOp s c b (8 + a.toNat) p am off 4
  | .staH a p am off => let v := storeHigh (b.acc a); hemStoreOp s c b p am off 2 v.1.toNat v.2
  | .staW a p am off => let v := storeWord (b.acc a); hemStoreOp s c b p am off 4 v.1.toNat v.2
  | .mvh dd a => let v := storeHigh (b.acc a); hemOk s { b.setD dd v.1 with st := stOr b.st v.2 false }
  | .mva a ds => hemOk s (b.setAcc a (BitVec.ofInt 40 ((b.dr ds).toInt * 65536)))
  | .clr a => hemOk s (b.setAcc a 0)
  | .ldp pa imm => hemOk s (b.setP pa imm)
  | .setb pa imm => hemOk s (b.setB pa imm)
  | .setl pa imm => if imm.toNat % 2 == 1 || 32768 < imm.toNat then .error 8 else hemOk s (b.setL pa imm)
  | .addp pa imm => hemOk s (b.stepP pa imm.toInt)
  | .mpy a ds dt mm fr => accTake s b a (hemProduct mm fr (b.dr ds) (b.dr dt))
  | .mac a ds dt mm fr => accTake s b a ((b.acc a).toInt + hemProduct mm fr (b.dr ds) (b.dr dt))
  | .msu a ds dt mm fr => accTake s b a ((b.acc a).toInt - hemProduct mm fr (b.dr ds) (b.dr dt))
  | .macl a dd ds dt p am mm fr => maclOp s c b true a dd ds dt p am mm fr
  | .mpyl a dd ds dt p am mm fr => maclOp s c b false a dd ds dt p am mm fr
  | .adda a => accTake s b a ((b.acc a).toInt + (b.acc (a ^^^ 1)).toInt)
  | .asl a sh => accTake s b a (shiftInt (b.acc a).toInt sh.toInt)
  | .sata a => let v := storeWord (b.acc a); hemOk s { b.setAcc a (v.1.signExtend 40) with st := stOr b.st v.2 false }
  | .add dd ds dt => satTake s b dd ((b.dr ds).toInt + (b.dr dt).toInt)
  | .sub dd ds dt => satTake s b dd ((b.dr ds).toInt - (b.dr dt).toInt)
  | .addi dd imm => satTake s b dd ((b.dr dd).toInt + imm.toInt)
  | .and dd ds dt => bitTake s b dd (b.dr ds &&& b.dr dt)
  | .or dd ds dt => bitTake s b dd (b.dr ds ||| b.dr dt)
  | .shl dd ds sh =>
    if 0 ≤ sh.toInt then satTake s b dd (shiftInt (b.dr ds).toInt sh.toInt)
    else bitTake s b dd (BitVec.ofInt 16 (shiftInt (b.dr ds).toInt sh.toInt))
  | .cmp ds dt => hemOk s { b with st := stNz b.st ((b.dr ds).toInt - (b.dr dt).toInt) }
  | .b cond addr => hemJump s b (if hemCond cond b.st then addr else b.pc + 2)
  | .call addr =>
    if 4 ≤ b.stack.length then .error 7 else hemJump s { b with stack := (b.pc + 2) :: b.stack } addr
  | .ret =>
    match b.stack with
    | [] => .error 7
    | t :: r => hemJump s { b with stack := r } t
  | .rep n => hemOk s { b with rep := some n.toNat }
  | .rdoD dd k => hemOk s (b.setD dd ((b.op k).setWidth 16))
  | .rdoA a k => hemOk s (b.setAcc a ((b.op k).signExtend 40))
  | .postD ds j => hemPostOp s c b j ((b.dr ds).signExtend 32)
  | .postA a j =>
    let v := storeWord (b.acc a)
    hemPostOp s c { b with st := stOr b.st v.2 false } j v.1
  | .end_ => .ok { s := s, b := b, ends := true }
  | .mfs dd => hemOk s { b.setD dd (b.st.setWidth 16) with st := b.st &&& 0b0011 }

/-- The instructions that may not stand in a branch's delay slot (R251). -/
def noSlot : HemInstr → Bool
  | .b _ _ | .call _ | .ret | .rep _ | .end_ => true
  | _ => false

/-- The instructions that a REP may not repeat (R251). -/
def noRep : HemInstr → Bool
  | .b _ _ | .call _ | .ret | .rep _ | .end_ | .postD _ _ | .postA _ _ | .rdoD _ _ | .rdoA _ _ => true
  | _ => false

/-- A load that has passed its delay slot takes effect (R249). -/
def HemBank.landLoad (b : HemBank) (l : Option (Nat × BitVec 40)) : HemBank :=
  match l with
  | none => b
  | some (r, v) => if r < 8 then b.setD (BitVec.ofNat 3 r) (v.setWidth 16) else b.setAcc (BitVec.ofNat 1 r) v

/-! ### The end of a task -/

/-- A task ends on a core (R258-R263): the core switches to its other bank, which goes on where it holds a task; the scheduler learns of
the end once the task's posts have left. -/
def hemEnd (s : State) (c : Nat) : State :=
  let h := hemCore s c
  let b := h.bank
  let s := wr s (Reg.HEM_CORE_RUN_MAX c) (word (max (rd s (Reg.HEM_CORE_RUN_MAX c)).toNat b.cycles))
  let waits := h.posts.any fun p => p.task == b.task
  let h := h.setBank {}
  let h := { h with active := !h.active, held := false, prepared := false, running := h.held || h.prepared }
  let h := if waits then { h with ended := h.ended ++ [b.task] } else h
  let s := setHemCore s c h
  if waits then s else taskEnded s b.task

/-- An abort (R263). -/
def hemAbort (s : State) (c cause : Nat) : State :=
  let pc := (hemCore s c).bank.pc.toNat
  let s := wr (bump s Reg.HEM_ABORT_CNT) Reg.HEM_ABORT_LAST (word (c + cause * 2 ^ 4 + pc * 2 ^ 8))
  event (hemEnd s c) HEM 0 c (cause + pc * 2 ^ 4)

/-- The program word at the pc of the running task. (DEDUCED, log entry 30) -/
def HemCore.fetch (h : HemCore) : Word := tget (fun _ => 0) h.prog h.bank.pc.toNat

/-- The first issue of a task notes how long it waited since its dispatch decision (R264), in CK_HEM cycles. -/
def firstIssue (s : State) (c : Nat) (b : HemBank) : State :=
  if b.issued then s
  else wr s (Reg.HEM_CORE_LAT_MAX c)
    (word (max (rd s (Reg.HEM_CORE_LAT_MAX c)).toNat (ceilDiv ((s.raw - b.decided) * 4) 5)))

/-- Where control goes after an instruction, with its REP and its delay slot (R250, R256): was is the bank as the instruction
found it, now the bank as its operation left it. -/
def HemBank.advance (was now : HemBank) : HemBank :=
  match was.rep with
  | some (n + 1) => { now with rep := some n }
  | some 0 => { now with rep := none, pc := was.pc + 1 }
  | none =>
    if was.slot then { now with slot := false, target := none, pc := was.target.getD (was.pc + 1) }
    else { now with pc := was.pc + 1 }

/-- A core issues an instruction, which stands at the pc of its running task (R248-R256). -/
def hemExec (s : State) (c : Nat) (i : HemInstr) : State :=
  let h := hemCore s c
  let b := h.bank
  let s := firstIssue s c b
  if (b.slot && noSlot i) || (b.rep.isSome && noRep i) then hemAbort s c 2
  else
    match hemOp s c b i with
    | .error 0 => setHemCore s c (h.setBank { b with cycles := b.cycles + 1, issued := true, stalled := true })
    | .error e => hemAbort s c e
    | .ok x =>
      let n := (b.advance x.b).landLoad b.load
      let n := { n with load := x.load, cycles := b.cycles + 1 + x.stall, issued := true, stalled := false }
      let h := hemCore x.s c
      let h := match x.post with
        | some (j, v) => { h with posts := h.posts ++ [Post.mk b.task (b.dests.getD j 0) v] }
        | none => h
      let s := setHemCore x.s c (h.setBank n)
      if x.ends then hemEnd (bump s (Reg.HEM_CORE_DONE_CNT c)) c
      else setHemCore s c (preempt (hemCore s c))

/-- A core is clock-gated (R34): it went idle between bursts while an axis is enabled. A core that runs a task is not idle (DEDUCED, log
entry 98). -/
def asleep (s : State) (h : HemCore) : Bool := h.gated && anyEnabled s

/-- The Hem cores are gated between bursts, those that run nothing, or all of them woken (R34). (DESIGN CHOICE, log entry 98) -/
def gateCores (s : State) (gate : Bool) : State :=
  { s with hem := { s.hem with cores := s.hem.cores.map fun c => (c.1, { c.2 with gated := gate && !c.2.running }) } }

/-- An instruction of a core: it issues when it is the one that the core fetches (DEDUCED, log entry 30); a double-bit error of its word
aborts the task (R242), and so does a form that no encoding admits (R253). -/
def hemIssue (s : State) (c : Nat) (i : HemInstr) : State :=
  let h := hemCore s c
  if !h.running || asleep s h then s
  else if h.badProg.contains h.bank.pc.toNat then hemAbort (firstIssue s c h.bank) c 6
  else if h.fetch != hemEncode i then s
  else
    let s := hemCorrect s c true h.bank.pc.toNat
    if !hemLegal i then hemAbort (firstIssue s c h.bank) c 1 else hemExec s c i

/-- A core fetches a word that is no instruction (R253). -/
def hemIllegal (s : State) (c : Nat) : State :=
  let h := hemCore s c
  if !h.running || asleep s h then s
  else if h.badProg.contains h.bank.pc.toNat then hemAbort (firstIssue s c h.bank) c 6
  else if (hemDecode h.fetch).isSome then s
  else hemAbort (hemCorrect (firstIssue s c h.bank) c true h.bank.pc.toNat) c 1

/-- A task whose count has reached the budget is aborted (R262), outside a REP (R256). -/
def hemBudget (s : State) (c : Nat) : State :=
  let h := hemCore s c
  if h.running && h.bank.rep.isNone && max 16 (fld s (Reg.HEM_CORE_BUDGET c) 15 0) ≤ h.bank.cycles then hemAbort s c 5
  else s

/-! ### Loading and patching -/

/-- The cores that a mask names. -/
def maskCores (m : Nat) : List Nat := (List.range 16).filter (bit m)

/-- Load an image into a core (R267). -/
def HemCore.loadImage (h : HemCore) (words : List Word) (ofs : Nat) (dat : List Byte) : HemCore :=
  let prog := (words.foldl (fun (p : Table Word × Nat) w => (tput (fun _ => 0) p.1 p.2 w, p.2 + 1)) ([], 0)).1
  let h := { h with prog := prog, badProg := [], softProg := [], loaded := true }
  let out (w : Nat) : Bool := w < ofs / 4 || (ofs + dat.length) / 4 ≤ w
  { h.store ofs dat with badData := h.badData.filter out, softData := h.softData.filter out }

/-- The words of a byte string. -/
def wordsOf (n : Nat) (bs : List Byte) : List Word := (List.range n).map fun i => word (field bs (4 * i) 4)

/-- Check an image (R266): 1 valid, 3 magic, format or CRC, 4 a length or offset out of range. Its program and data images with
the data offset. -/
def imageCheck (hdr body : List Byte) : Nat :=
  let n := field hdr 6 2
  let dl := field hdr 8 2
  let dof := field hdr 10 2
  if field hdr 0 4 != 0x314D4548 || field hdr 4 2 != 0x0100 then 3
  else if n < 1 || 4096 < n || dl % 4 != 0 || 32768 < dl || dof % 4 != 0 || 32768 < dof + dl then 4
  else if crc32c (body.take (4 * n + dl)) != field hdr 12 4 then 3
  else 1

/-- Copy a checked image into cores. -/
def loadCores (s : State) (cores : List Nat) (hdr body : List Byte) : State :=
  let n := field hdr 6 2
  let dat := slice body (4 * n) (field hdr 8 2)
  cores.foldl (fun s c => setHemCore s c ((hemCore s c).loadImage (wordsOf n body) (field hdr 10 2) dat)) s

/-- End a HEM commit with a result. -/
def hemDone (s : State) (result : Nat) : State :=
  let s := setF (setBit s Reg.HEM_BASTE_STATUS 0 false) Reg.HEM_BASTE_STATUS 3 1 result
  if result == 1 then s else event s HEM 2 (fld s Reg.HEM_OP 1 0) result

/-- A load at the landing of its commit (R267). -/
def hemLoad (s : State) : State :=
  let src := (rd s Reg.HEM_OP_SRC).toNat
  let cores := maskCores (fld s Reg.HEM_OP_MASK 15 0)
  let hdr := readMem s .bolt src 16
  let len := 4 * field hdr 6 2 + field hdr 8 2
  let body := readMem s .bolt (src + 16) len
  if cores.isEmpty then hemDone s 5
  else if cores.any fun c => !(hemCore s c).offline then hemDone s 2
  else if src % 4 != 0 || !inPart s 4 src 16 then hemDone s 4
  else if field hdr 0 4 != 0x314D4548 || field hdr 4 2 != 0x0100 then hemDone s 3
  else if !inPart s 4 src (16 + len) then hemDone s 4
  else
    let r := imageCheck hdr body
    if r == 1 then hemDone (loadCores s cores hdr body) 1 else hemDone s r

/-- A patch at the landing of its commit (R268): its bytes go to the patch buffer. -/
def hemPatch (s : State) : State :=
  let src := (rd s Reg.HEM_OP_SRC).toNat
  let dst := (rd s Reg.HEM_OP_DST).toNat
  let len := (rd s Reg.HEM_OP_LEN).toNat
  let mask := fld s Reg.HEM_OP_MASK 15 0
  if mask == 0 then hemDone s 5
  else if len < 4 || 4096 < len || len % 4 != 0 || 32768 < dst + len || !inPart s 4 src len then hemDone s 4
  else
    let s := setBit s Reg.HEM_BASTE_STATUS 0 true
    { s with hem := { s.hem with patch := some ⟨mask, dst, readMem s .bolt src len, false⟩ } }

/-- A write of HEM_BASTE_COMMIT as it lands (R267, R268). -/
def landHemCommit (s : State) (v : Word) : State :=
  if !wbit v 0 then okBus s
  else
    match fld s Reg.HEM_OP 1 0 with
    | 0 => okBus (hemLoad s)
    | 1 => okBus (hemPatch s)
    | _ => okBus (hemDone s 5)

/-- A pending patch at a latch instant (R268): dispatch to its cores is held from now on. -/
def hemLatch (s : State) : State :=
  match s.hem.patch with
  | some p => { s with hem := { s.hem with patch := some { p with latched := true } } }
  | none => s

/-- The bytes of a patch are written once no task runs on its cores (R268). (DEDUCED, log entry 35) -/
def patchApply (s : State) : State :=
  match s.hem.patch with
  | none => s
  | some p =>
    let cores := maskCores p.mask
    if !p.latched || cores.any (fun c => (hemCore s c).running || (hemCore s c).prepared) then s
    else
      let s := cores.foldl (fun s c =>
        let h := hemCore s c
        let h := h.store p.dst p.bytes
        let out (w : Nat) : Bool := 4 * w + 4 ≤ p.dst || p.dst + p.bytes.length ≤ 4 * w
        setHemCore s c { h with badData := h.badData.filter out, softData := h.softData.filter out }) s
      hemDone { s with hem := { s.hem with patch := none } } 1

/-- A write of HEM_COREc_CTRL as it lands (R267): a core that has loaded no program since reset refuses to go online. -/
def landCoreCtrl (s : State) (c : Nat) (v : Word) : State :=
  let h := hemCore s c
  if wbit v 0 then
    if h.loaded then okBus (setHemCore (wr s (Reg.HEM_CORE_CTRL c) 1) c { h with offline := false }) else slverr s
  else
    let busy := h.running || h.prepared
    okBus (setHemCore (wr s (Reg.HEM_CORE_CTRL c) 0) c { h with offline := h.offline || !busy })

/-- The last task of a core taken offline has ended (R267). -/
def coreOffline (s : State) (c : Nat) : State :=
  let h := hemCore s c
  if fbit s (Reg.HEM_CORE_CTRL c) 0 || h.running || h.prepared then s else setHemCore s c { h with offline := true }

/-- A word of a core's memory takes an error: 1 a single-bit error, 2 a double-bit error. -/
def HemCore.takeError (h : HemCore) (prog : Bool) (w err : Nat) : HemCore :=
  let add (l : List Nat) : List Nat := w :: l.filter (· != w)
  match err, prog with
  | 0, _ => h
  | 1, true => { h with softProg := add h.softProg }
  | 1, false => { h with softData := add h.softData }
  | _, true => { h with badProg := add h.badProg }
  | _, false => { h with badData := add h.badData }

/-- An idle core scrubs a word of its program or data memory (R242), in which it finds an error of its own making or none. On a core that is
not idle nothing is scrubbed, and the word keeps its error until a task reads or fetches it, or a scrub meets it (DESIGN CHOICE, log
entry 30). -/
def hemScrub (s : State) (c : Nat) (prog : Bool) (addr err : Nat) : State :=
  let w := addr % (if prog then 4096 else 8192)
  let h := hemCore s c
  let t := if err == 0 then s else setHemCore s c (h.takeError prog w err)
  if h.running then t else hemCorrect t c prog w

/-- The readings of the HEM status registers (R270). -/
def hemStatus (s : State) : Word :=
  word ((List.range 16).foldl (fun n c =>
    n + flag (!(hemCore s c).offline) * 2 ^ c + flag (hemCore s c).running * 2 ^ (c + 16)) 0)
def hemCoreStatus (s : State) (c : Nat) : Word :=
  let h := hemCore s c
  let st := if h.running then (if h.held then 3 else 2) else if h.offline then 0 else 1
  word (st + flag h.active * 4 + flag h.loaded * 8 + (if h.running then h.bank.pc.toNat else 0) * 2 ^ 16)
def hemCoreTask (s : State) (c : Nat) : Word :=
  let h := hemCore s c
  word (if h.running then h.bank.task else 0)

end Sys2Proof.Machine
end

