-- ==== Sys2Proof/Machine/Acq.lean ====
section
/-! DEFINITION. The acquisition spools (10_spools.md). -/

namespace Sys2Proof.Machine

/-- A spool. -/
def spool (s : State) (i : Nat) : Spool := tget (fun _ => {}) s.acq.spools i

/-- Store a spool. -/
def setSpool (s : State) (i : Nat) (x : Spool) : State :=
  { s with acq := { s.acq with spools := tput (fun _ => {}) s.acq.spools i x } }

/-- The state field of a spool: 0 IDLE, 1 ARMED, 2 TRIGGERED, 3 DONE, 4 FULL, 5 RUNNING, 6 STOPPED. -/
def spSt (s : State) (i : Nat) : Nat := fld s (Reg.ACQ_SP_STATE i) 2 0

/-- A spool takes samples: ARMED, TRIGGERED or RUNNING. -/
def spTakes (s : State) (i : Nat) : Bool := spSt s i == 1 || spSt s i == 2 || spSt s i == 5

/-- A spool stands between an arm and its end. -/
def spBusy (s : State) (i : Nat) : Bool := spTakes s i || spSt s i == 4

/-- The active settings of a spool. -/
def spMode (s : State) (i : Nat) : Nat := actF s (Reg.ACQ_SP_CFG i) 1 0
def spArch (s : State) (i : Nat) : Bool := actF s (Reg.ACQ_SP_CFG i) 2 2 == 1
def spNch (s : State) (i : Nat) : Nat := actF s (Reg.ACQ_SP_CFG i) 14 8
def spDepth (s : State) (i : Nat) : Nat := actF s (Reg.ACQ_SP_DEPTH i) 23 0
def spPre (s : State) (i : Nat) : Nat := actF s (Reg.ACQ_SP_DEPTH i) 30 24 * spDepth s i / 100

/-- The bytes of a sample (R337). -/
def sampleLen (s : State) (i : Nat) : Nat := 8 + 4 * spNch s i

/-- The bytes of a record (R338). -/
def recordLen (s : State) (i : Nat) : Nat := 32 + spDepth s i * sampleLen s i

/-- The area that a spool's records lie in: its start and length (R338, R339). -/
def spArea (s : State) (i : Nat) : Nat × Nat :=
  if spArch s i then ((actv s (Reg.ACQ_SP_ARCH_BASE i)).toNat, (actv s (Reg.ACQ_SP_ARCH_LEN i)).toNat)
  else ((actv s (Reg.ACQ_SP_BASE i)).toNat, (actv s (Reg.ACQ_SP_LEN i)).toNat)

/-- The record slots of a spool. -/
def spSlots (s : State) (i : Nat) : Nat := (spArea s i).2 / recordLen s i

/-- Show a spool's flags and slots in its state register. -/
def showSpool (s : State) (i : Nat) : State :=
  let x := spool s i
  let r := Reg.ACQ_SP_STATE i
  let s := setF s r 15 8 (min x.full.length 255)
  setBit (setBit (setBit (setBit s r 6 x.lostRec) r 5 x.approx) r 4 x.forced) r 3 x.maskFail

/-- Store a spool and show it. -/
def putSpool (s : State) (i : Nat) (x : Spool) : State := showSpool (setSpool s i x) i

/-- ACQ_STATUS (R349). -/
def acqStatus (s : State) : Word :=
  word ((List.range 4).foldl (fun n i =>
    n + flag (spBusy s i) * 2 ^ i + flag (spBusy s i && spArch s i) * 2 ^ (i + 4)) 0)

/-! ### Channels -/

/-- The part of a 64-bit quantity that a selector's word field takes (R334). -/
def part64 (w : Nat) (x : Int) : Word :=
  let u := unsg 64 x
  match w with | 1 => word (u / 2 ^ 32) | 2 => word (u / 2 ^ 16) | _ => word u

/-- A binary32 quantity of a lane (R334, class 1). -/
def laneQuantity (x : LoopAxis) : Nat → Word
  | 0 => x.e | 1 => x.vref | 2 => x.vmeas | 3 => x.tcmd | 4 => x.ipos | 5 => x.ivel | 6 => x.cur | _ => 0

/-- The value of a channel (R334) with the encoder counts to show: what belongs to L(n) (R335). -/
def channelValue (s : State) (counts : List Int) (sel : Word) : Word :=
  let cls := wbits sel 31 28
  let ix := wbits sel 27 20
  let f := wbits sel 19 16
  let w := wbits sel 15 14
  match cls with
  | 1 => laneQuantity (loopAx s ix) f
  | 2 =>
    let x := axis s ix
    match f with
    | 0 => part64 w (errorPoint x.sp2 [x.sp1, x.sp0] (wbits (coef s ix 0) 19 18)).pos
    | 1 => part64 w x.sp2.pos
    | 2 => part64 w x.sp2.vel
    | 3 => x.sp2.acc
    | _ => 0
  | 3 =>
    let x := input s ix
    match f with
    | 0 => part64 w x.ext
    | 1 => word x.status.toNat
    | 2 => x.actual.signExtend 32
    | 3 => x.aux.signExtend 32
    | 4 => word x.age
    | _ => 0
  | 4 =>
    let r : OutRec := if s.ring.fresh.contains ix then tget (fun _ => {}) s.ring.image ix else tget (fun _ => {}) s.ring.sent ix
    match f with
    | 0 => r.torque.signExtend 32
    | 1 => word (bits r.control.toNat 15 8)
    | 2 => word r.control.toNat
    | _ => 0
  | 5 => (injector s ix).value
  | 6 => part64 w (counts.getD ix 0)
  | 7 => if f == 0 then rd s Reg.FIO_IN_STATE else if f == 1 then s.acq.outs else 0
  | 8 => if f == 0 then s.acq.cmpOuts else if f == 1 then s.acq.cmpPins else 0
  | _ => 0

/-- The channel values of a sample. -/
def sampleValues (s : State) (i : Nat) (counts : List Int) : List Word :=
  (List.range (spNch s i)).map fun j => channelValue s counts (actv s (Reg.ACQ_SP_CH i j))

/-- The encoder counts of L(n) (R335): the active's on a standby that has its CYCLE_A (R361), else those held at L(n). -/
def latchedCounts (s : State) : List Int :=
  (List.range 8).map fun c =>
    match (encoder s c).act, mirrors s && encMode s c != 2 && s.twin.cycleA.isSome with
    | some (p, _, _), true => p
    | _, _ => s.acq.counts.getD c 0

/-- What spools read of L(n) is held at L(n) (R335): the field and compare outputs and the encoder counts. -/
def acqHold (s : State) : State :=
  { s with acq := { s.acq with
    outs := word (fld s Reg.FIO_OUT_STATE 15 0)
    cmpOuts := word (s.fbc.pins.foldl (fun n k => n + 2 ^ (k % 16)) 0)
    cmpPins := word (fld s Reg.FBC_STATUS 31 16)
    counts := (List.range 8).map fun c => sgn 48 (feed s c).1 } }

/-! ### Triggers -/

/-- v is below w in a format (R340): 0 signed, 1 unsigned, 2 binary32. -/
def below (fmt : Nat) (v w : Word) : Bool :=
  match fmt with
  | 0 => v.toInt < w.toInt
  | 1 => v.toNat < w.toNat
  | _ => flt v w

/-- v is at or below w in a format. -/
def atMost (fmt : Nat) (v w : Word) : Bool :=
  match fmt with
  | 0 => v.toInt ≤ w.toInt
  | 1 => v.toNat ≤ w.toNat
  | _ => fle v w

/-- A condition holds in a sample (R340): v is its value, prev that of the previous per-cycle sample, ev whether its event
occurred since the previous sample. -/
def condHolds (type fmt : Nat) (v prev lo hi : Word) (ev : Bool) : Bool :=
  match type with
  | 1 => below fmt lo v
  | 2 => below fmt v lo
  | 3 => atMost fmt prev lo && below fmt lo v
  | 4 => atMost fmt lo prev && below fmt v lo
  | 5 => atMost fmt lo v && atMost fmt v hi
  | 6 => below fmt v lo || below fmt hi v
  | 7 => ev
  | _ => false

/-- The enabled conditions of a spool. -/
def spConds (s : State) (i : Nat) : List Nat := (List.range 4).filter fun k => bit (actF s (Reg.ACQ_SP_TRIG i) 3 0) k

/-- An event is named by a condition of class event. -/
def condNames (s : State) (i k : Nat) (e : AcqEvent) : Bool :=
  let c := actv s (Reg.ACQ_SP_COND_CFG i k)
  wbits c 10 8 == 7 && wbits c 19 16 == e.cls && (e.cls == 3 || wbits c 28 24 == e.index)

/-- The events of a list that an enabled condition of a spool names. -/
def namedEvents (s : State) (i : Nat) (evs : List AcqEvent) : List AcqEvent :=
  evs.filter fun e => (spConds s i).any fun k => condNames s i k e

/-- A condition holds in a sample. -/
def spCondHolds (s : State) (i : Nat) (vals prev : List Word) (evs : List AcqEvent) (k : Nat) : Bool :=
  let c := actv s (Reg.ACQ_SP_COND_CFG i k)
  let j := wbits c 5 0
  condHolds (wbits c 10 8) (wbits c 13 12) (vals.getD j 0) (prev.getD j (vals.getD j 0))
    (actv s (Reg.ACQ_SP_COND_LO i k)) (actv s (Reg.ACQ_SP_COND_HI i k)) (evs.any (condNames s i k))

/-- The combination holds in a sample (R340). -/
def combHolds (s : State) (i : Nat) (vals prev : List Word) (evs : List AcqEvent) : Bool :=
  let cs := spConds s i
  let holds := spCondHolds s i vals prev evs
  !cs.isEmpty && (if actF s (Reg.ACQ_SP_TRIG i) 4 4 == 1 then cs.all holds else cs.any holds)

/-- The earlier of two triggers (R346, R347). -/
def earlier (a b : Option Trigger) : Option Trigger :=
  match a, b with
  | some a, some b => if b.time < a.time then some b else some a
  | none, b => b
  | a, none => a

/-- The trigger that a sample of cycle n makes, with its instant (R341): L(n) for a condition on values, the event's time for an event;
of several, the earliest where any condition is enough, else the latest. (DEDUCED, log entry 38) -/
def sampleTrigger (s : State) (i : Nat) (L : Int) (vals prev : List Word) (evs : List AcqEvent) : Option Trigger :=
  if !combHolds s i vals prev evs then none
  else
    let byValue := (spConds s i).any fun k =>
      actF s (Reg.ACQ_SP_COND_CFG i k) 10 8 != 7 && spCondHolds s i vals prev evs k
    let byEvent := (namedEvents s i evs).foldl (fun b e => earlier b (some { time := e.time, approx := e.approx })) none
    if byValue && actF s (Reg.ACQ_SP_TRIG i) 4 4 == 0 then earlier (some { time := L }) byEvent
    else byEvent.or (some { time := L })

/-! ### Writing -/

/-- Write bytes of a record: to Bolt, or into the staging FIFO in front of archive memory, false when it is full (R339). -/
def spWrite (s : State) (i a : Nat) (bs : List Byte) : Bool × State :=
  if !spArch s i then (true, writeMem s .bolt a bs)
  else
    let x := spool s i
    let used := x.fifo.foldl (fun n e => n + e.2.length) 0
    if (actv s (Reg.ACQ_SP_LEN i)).toNat < used + bs.length then (false, s)
    else (true, burstAsk (setSpool s i { x with fifo := x.fifo ++ [(a, bs)] }) (burstRequester i) 3)

/-- The stamp of a sample (R337). -/
def stamp (n : Word) (ofs : Int) (gap forced event trigger : Bool) : List Byte :=
  leBytes 8 (n.toNat + unsg 28 ofs * 2 ^ 32 + flag gap * 2 ^ 60 + flag forced * 2 ^ 61 + flag event * 2 ^ 62 +
    flag trigger * 2 ^ 63)

/-- trig_ts as two words: nanoseconds, and the low word of the seconds (R338). -/
def trigTs (t : Int) : Nat := t.toNat % 1000000000 + (t.toNat / 1000000000) % 2 ^ 32 * 2 ^ 32

/-- The header of a record (R338). A trigger that no sample has taken yet has an instant and no index. -/
def recordHeader (s : State) (i : Nat) (early : Bool) : List Byte :=
  let x := spool s i
  let d := spDepth s i
  let at_ := x.trig.map (·.2) |>.or (x.pendingTrig.map (·.time))
  let f := flag at_.isSome + flag x.forced * 2 + flag x.maskFail * 4 + flag early * 8 + flag x.approx * 16 + flag x.lostRec * 32
  leBytes 4 0x314C5053 ++ [BitVec.ofNat 8 i, BitVec.ofNat 8 (spNch s i)] ++ leBytes 2 f ++ leBytes 4 d ++
    leBytes 4 (min x.written d) ++ leBytes 4 (if x.written ≤ d then 0 else x.written % d) ++
    leBytes 4 (match x.trig with | some (k, _) => k | none => 0xFFFFFFFF) ++ leBytes 8 (at_.map trigTs |>.getD 0)

/-- Start a record in a slot (R342). -/
def startRecord (s : State) (i slot : Nat) : State :=
  let x := spool s i
  putSpool (setF s (Reg.ACQ_SP_STATE i) 2 0 1) i
    { x with slot := slot, written := 0, trig := none, left := 0, forced := false, approx := false, startRaw := s.raw }

/-- A header goes to its place; one that finds the staging FIFO full follows what the FIFO holds (DESIGN CHOICE, log entry 38). -/
def writeHeader (s : State) (i a : Nat) (bs : List Byte) : State :=
  let w := spWrite s i a bs
  if w.1 then w.2 else setSpool s i { spool s i with owed := (spool s i).owed ++ [(a, bs)] }

/-- Close the record in progress (R342, R343, R345): its header is written and its slot holds an unreleased record. -/
def closeRecord (s : State) (i : Nat) (early : Bool) : State :=
  let x := spool s i
  if spMode s i == 3 then s
  else
    let a := (spArea s i).1 + x.slot * recordLen s i
    let s := writeHeader s i a (recordHeader s i early)
    let x := spool s i
    putSpool s i { x with full := x.full ++ [x.slot], last := if spArch s i then x.last else some (a, recordLen s i) }

/-- A record is complete (R342, R345). -/
def recordDone (s : State) (i : Nat) : State :=
  let s := closeRecord s i false
  let x := spool s i
  let st (n : Nat) : State := setF s (Reg.ACQ_SP_STATE i) 2 0 n
  if x.maskFail then st 6
  else
    match spMode s i with
    | 0 => st 3
    | 3 => s
    | _ =>
      match ((List.range (spSlots s i)).map fun k => (x.slot + 1 + k) % spSlots s i).find? fun k => !x.full.contains k with
      | some k => startRecord s i k
      | none => st 4

/-- Count a trigger that is ignored (R341, R342). -/
def ignoreTrig (s : State) (i : Nat) : State := bump s (Reg.ACQ_SP_HOLDOFF_CNT i)

/-- Write one sample of a spool (R337–R342): trig says that it is the trigger sample, at what instant. (DEDUCED, log entry 38) -/
def writeSample (s : State) (i : Nat) (vals : List Word) (ofs : Int) (isEvent : Bool) (trig : Option Trigger) (n : Word) :
    State :=
  let x := spool s i
  let cont := spMode s i == 3
  let len := sampleLen s i
  let area := spArea s i
  let idx := if cont then x.total % max 1 (area.2 / len) else x.written % max 1 (spDepth s i)
  let off := if cont then idx * len else x.slot * recordLen s i + 32 + idx * len
  let forced := match trig with | some t => t.forced | none => false
  let bs := stamp n ofs x.gap forced isEvent trig.isSome ++ vals.flatMap fun v => leBytes 4 v.toNat
  let w := spWrite s i (area.1 + off) bs
  if !w.1 then
    -- a trigger stays known until a sample is written (R341)
    event (putSpool (bump s (Reg.ACQ_SP_LOST_CNT i)) i { x with gap := true, lostRec := true, pendingTrig := trig.or x.pendingTrig }) ACQ 1 i
  else
    let s := w.2
    let x := spool s i
    let x := { x with written := x.written + 1, total := x.total + 1, gap := false, pendingTrig := none }
    let x := match trig with
      | some t => { x with trig := some (idx, t.time), left := spDepth s i - spPre s i - 1, forced := t.forced, approx := t.approx }
      | none => if x.trig.isSome then { x with left := x.left - 1 } else x
    let s := match trig with
      | some t => wr64 s (Reg.ACQ_SP_TRIG_TS_LO i) (trigTs t.time)
      | none => s
    let next := if cont then (idx + 1) % max 1 (area.2 / len) * len
      else x.slot * recordLen s i + 32 + (idx + 1) % max 1 (spDepth s i) * len
    let s := putSpool (wr s (Reg.ACQ_SP_WR_PTR i) (word next)) i x
    if x.trig.isNone then s
    else if cont then
      if !x.maskFail then putSpool s i { x with trig := none }
      else if x.left == 0 then setF s (Reg.ACQ_SP_STATE i) 2 0 6 else s
    else if x.left == 0 then recordDone s i
    else setF s (Reg.ACQ_SP_STATE i) 2 0 2

/-! ### Mask tests -/

/-- The tested channels of a spool, ascending (R344). -/
def maskChannels (s : State) (i : Nat) : List Nat :=
  (List.range (spNch s i)).filter fun j =>
    if j < 32 then wbit (actv s (Reg.ACQ_SP_MASK_EN_LO i)) j else wbit (actv s (Reg.ACQ_SP_MASK_EN_HI i)) (j - 32)

/-- The table position u of a sample as a quotient (R344); nothing where it cannot be formed. -/
def maskPos (s : State) (i : Nat) : Option (Int × Int) :=
  let x := spool s i
  let d : Int := spDepth s i
  let c := actv s (Reg.ACQ_SP_MASK_CFG i)
  let a64 (lo hi : Nat) : Int := sgn 64 ((actv s lo).toNat + (actv s hi).toNat * 2 ^ 32)
  if !wbit c 0 then
    let k := if spMode s i == 3 then x.total % spDepth s i else x.written % max 1 (spDepth s i)
    if d ≤ 1 then none else some ((k : Int) * 4095, d - 1)
  else
    let x0 := a64 (Reg.ACQ_SP_MASK_X0_LO i) (Reg.ACQ_SP_MASK_X0_HI i)
    let x1 := a64 (Reg.ACQ_SP_MASK_X1_LO i) (Reg.ACQ_SP_MASK_X1_HI i)
    let p := (axis s (wbits c 15 8)).sp0.pos
    if x0 == x1 then none
    else if x0 < x1 then some ((p - x0) * 4095, x1 - x0) else some ((x0 - p) * 4095, x0 - x1)

/-- A word in a format as binary64. -/
def toD (fmt : Nat) (w : Word) : Long :=
  match fmt with | 0 => dofInt w.toInt | 1 => dofInt w.toNat | _ => f2d w

/-- A sample violates the envelopes of a spool (R344, R345). -/
def maskViolated (s : State) (i : Nat) (vals : List Word) : Bool :=
  let chs := maskChannels s i
  match maskPos s i with
  | none => false
  | some (n, d) =>
    if n < 0 || 4095 * d < n then false
    else
      let k := (Int.fdiv n d).toNat
      let f := dofQ (Int.fmod n d) d.toNat
      let fmt := wbits (actv s (Reg.ACQ_SP_COND_CFG i 0)) 13 12
      let tbl := (actv s (Reg.ACQ_SP_MASK_TBL i)).toNat
      (List.range chs.length).any fun r =>
        let pt (k o : Nat) : Long := toD fmt (word (leVal (readMem s .bolt (tbl + 0x8000 * r + 8 * k + o) 4)))
        let env (o : Nat) : Long :=
          if k == 4095 then pt 4095 o else dadd (pt k o) (dmul f (dsub (pt (k + 1) o) (pt k o)))
        let v := toD fmt (vals.getD (chs.getD r 0) 0)
        dlt v (env 0) || dlt (env 4) v

/-! ### The samples of a cycle -/

/-- The members of the group, and whether a spool is one (R346). -/
def grpMember (s : State) (i : Nat) : Bool := bit (actF s Reg.ACQ_GROUP 3 0) i

/-- The earliest cross-trigger bit that arrived and is not the head's own (R347), as a trigger of the group. -/
def xtTrigger (s : State) (evs : List AcqEvent) : Option Trigger :=
  if actF s Reg.ACQ_GROUP 9 9 == 0 then none
  else
    (evs.filter fun e => e.cls == 2 && e.index == actF s Reg.ACQ_GROUP 15 12 && !e.own).foldl (fun b e =>
      earlier b (some { time := e.time, approx := e.approx })) none

/-- A sample that a spool takes: its values, its cycle n with L(n), its offset, whether it is an event sample, and the events that it
sees. -/
structure Sample where
  vals : List Word
  n : Word
  L : Int
  ofs : Int := 0
  event : Bool := false
  evs : List AcqEvent := []
  deriving DecidableEq, Repr

/-- The samples that a cycle gives a spool; the events dropped; what the spool then holds of events. -/
structure Gathered where
  samples : List Sample := []
  drop : Nat := 0
  unseen : List AcqEvent := []
  taken : Table Nat := []
  deriving DecidableEq, Repr

/-- An event becomes an event sample (R336), at most 16 for each cycle that events lie in; one that does not is seen by the next sample
(R340). -/
def gatherEvent (s : State) (i : Nat) (g : Gathered) (e : AcqEvent) : Gathered :=
  let seen := g.unseen ++ [e]
  let k := tget (fun _ => 0) g.taken e.n.toNat
  if actF s (Reg.ACQ_SP_CFG i) 3 3 == 0 then { g with unseen := seen }
  else if 16 ≤ k then { g with unseen := seen, drop := g.drop + 1 }
  else
    let vals := (List.range (spNch s i)).map fun j =>
      let sel := actv s (Reg.ACQ_SP_CH i j)
      if wbits sel 31 28 == 6 then channelValue s e.counts sel else (spool s i).latest.getD j 0
    { g with
      samples := g.samples ++ [{ vals := vals, n := e.n, L := e.time - e.ofs, ofs := e.ofs, event := true, evs := seen }]
      unseen := []
      taken := tput (fun _ => 0) g.taken e.n.toNat (k + 1) }

/-- The samples that a spool takes of the cycle: the event samples, then the per-cycle sample (R335, R336). (DEDUCED, log entry 38) -/
def gather (s : State) (i : Nat) (evs : List AcqEvent) : Gathered :=
  let x := spool s i
  let n := s.cyc.count
  let named := (namedEvents s i evs).filter fun e => x.armNs ≤ e.time
  let recent := x.taken.filter fun e => (n - word e.1).toNat < 64
  let g := named.foldl (gatherEvent s i) { unseen := x.unseen, taken := recent }
  let div := actF s (Reg.ACQ_SP_CFG i) 31 16
  if div != 0 && n.toNat % div == 0 then
    { g with
      samples := g.samples ++ [{ vals := sampleValues s i (latchedCounts s), n := n, L := latchNs s, evs := g.unseen }]
      unseen := [] }
  else g

/-- Whether triggers count at the next sample of a spool (R341). -/
def counts (s : State) (i : Nat) : Bool :=
  let x := spool s i
  let k := if spMode s i == 3 then x.total else x.written
  (actv s (Reg.ACQ_SP_HOLDOFF i)).toNat ≤ k && spPre s i ≤ k

/-- The samples of one cycle pass: a trigger that the group has had in it (R346, R347), and whether a mask violation stops the group
(R345). -/
structure GroupCall where
  trig : Option Trigger := none
  stop : Bool := false
  deriving DecidableEq, Repr

/-- What the group asks of a spool. -/
def groupCall (s : State) (i : Nat) (g : GroupCall) : GroupCall := if grpMember s i then g else {}

/-- The values of a per-cycle sample become those of the previous one (R340). -/
def keepPrev (s : State) (i : Nat) (m : Sample) : State :=
  if m.event then s else putSpool s i { spool s i with prev := m.vals }

/-- A spool with every slot full takes no sample and counts the triggers (R342). -/
def fullSample (s : State) (i : Nat) (m : Sample) (g : GroupCall) : State :=
  let t := sampleTrigger s i m.L m.vals (spool s i).prev m.evs
  let s := keepPrev (if t.isSome || g.trig.isSome then ignoreTrig s i else s) i m
  if g.stop then setF s (Reg.ACQ_SP_STATE i) 2 0 6 else s

/-- A violation of the envelopes is recorded (R345). -/
def maskFailed (s : State) (i : Nat) (own : Bool) : State :=
  let x := spool s i
  let s := putSpool s i { x with maskFail := true }
  if own && !x.maskFail && actF s (Reg.ACQ_SP_MASK_CFG i) 17 17 == 1 then event s ACQ 2 i else s

/-- Take one sample of a spool (R337, R340–R345): the state, and the trigger that it takes, if any. A trigger that does not count is
counted (R341); a real one has precedence over a forced one (R342). -/
def takeSample (s : State) (i : Nat) (m : Sample) (g : GroupCall) : State × Option Trigger :=
  let x := spool s i
  if spSt s i == 4 then (fullSample s i m g, none)
  else if !spTakes s i then (s, none)
  else
    let free := x.trig.isNone
    let wanted := earlier (sampleTrigger s i m.L m.vals x.prev m.evs) g.trig
    let s := if free && wanted.isSome && !counts s i then ignoreTrig s i else s
    let own := !m.event && maskViolated s i m.vals
    let viol := own || (!m.event && g.stop)
    let s := if viol then maskFailed s i own else s
    let real := if counts s i then wanted else none
    let known :=
      match real, x.pendingTrig with
      | some r, some p => if p.forced then some r else earlier (some r) (some p)
      | r, p => r.or p
    let trig := if free then known.or (if viol then some { time := m.L } else none) else none
    (keepPrev (writeSample s i m.vals m.ofs m.event trig m.n) i m, trig)

/-- A cycle without a per-cycle sample of a spool: what the group asks waits for the next sample. -/
def groupWaits (s : State) (i : Nat) (g : GroupCall) : State :=
  let x := spool s i
  if !spTakes s i then s
  else
    let s :=
      if x.trig.isSome || g.trig.isNone then s
      else if counts s i then putSpool s i { x with pendingTrig := earlier x.pendingTrig g.trig }
      else ignoreTrig s i
    if !g.stop then s
    else
      let s := maskFailed s i false
      let x := spool s i
      putSpool s i { x with pendingTrig := if x.trig.isNone then x.pendingTrig.or (some { time := latchNs s }) else none }

/-- The samples of one spool in a cycle, and the first trigger that it takes. -/
def spoolPass (s : State) (i : Nat) (evs : List AcqEvent) (call : GroupCall) : State × Option Trigger :=
  if !spBusy s i then (s, none)
  else
    let g := gather s i evs
    let c := groupCall s i call
    let s := setSpool s i { spool s i with unseen := g.unseen, taken := g.taken }
    let s := if g.drop == 0 then s else event (bump s (Reg.ACQ_SP_EVT_DROP_CNT i) g.drop) ACQ 0 i
    let r := g.samples.foldl (fun (r : State × Option Trigger) m =>
      let t := takeSample r.1 i m (if m.event then {} else c)
      (t.1, earlier r.2 t.2)) (s, none)
    if g.samples.any fun m => !m.event then r else (groupWaits r.1 i c, r.2)

/-- The samples of every spool in a cycle, and the earliest trigger that a member of the group takes. -/
def spoolsPass (s : State) (evs : List AcqEvent) (call : GroupCall) : State × Option Trigger :=
  [0, 1, 2, 3].foldl (fun (r : State × Option Trigger) i =>
    let t := spoolPass r.1 i evs call
    (t.1, if grpMember s i then earlier r.2 t.2 else r.2)) (s, none)

/-- A violation in a member with group_stop stops the group (R345). -/
def groupStops (s : State) : Bool :=
  (List.range 4).any fun i => grpMember s i && spTakes s i && (spool s i).maskFail && actF s (Reg.ACQ_SP_MASK_CFG i) 16 16 == 1

/-- The latest per-cycle values of every spool's channels (R336). -/
def keepLatest (s : State) : State :=
  [0, 1, 2, 3].foldl (fun s i => setSpool s i { spool s i with latest := sampleValues s i (latchedCounts s) }) s

/-- The samples of every spool once the loop engine has finished cycle n (R335), with the group's triggers (R346, R347): a first pass
finds the triggers and stops of the members, and in the second every member takes the earliest of them. (DEDUCED, log entry 38) -/
def spoolSample (s : State) : State :=
  let evs := s.acq.left ++ s.evts.drop s.acq.seen
  let s := { s with acq := { s.acq with seen := s.evts.length, left := [] } }
  let xt := xtTrigger s evs
  let first := spoolsPass s evs { trig := xt }
  let late := (List.range 4).any fun i => grpMember s i && spTakes s i && (spool s i).trig.isSome
  let r := spoolsPass s evs { trig := earlier xt first.2, stop := groupStops first.1 }
  let s := keepLatest r.1
  match r.2 with
  | some t => if actF s Reg.ACQ_GROUP 8 8 == 1 && !late then stampXt s (actF s Reg.ACQ_GROUP 15 12) t.time else s
  | none => s

/-! ### Control -/

/-- Report the result of a control write. -/
def ctrlRes (s : State) (i r : Nat) : State := setF s (Reg.ACQ_SP_STATE i) 19 16 r

/-- A trigger that becomes known now (R341): forced. -/
def forceTrig (s : State) (i : Nat) : State :=
  putSpool s i { spool s i with pendingTrig := some { time := nowNs s, forced := true } }

/-- A dump begins as a maintenance activity and asks for leave (R339, R470, R474); PD_MEM must be on. -/
def spoolDump (s : State) (i : Nat) : State :=
  match (spool s i).last with
  | none => ctrlRes s i 3
  | some (a, n) =>
    if s.pwr.off.contains .mem then ctrlRes s i 3
    else
      let m := maintReq s 7
      if !m.1 then ctrlRes m.2 i 4
      else
        let s := setSpool m.2 i { spool m.2 i with dump := some (a, (actv m.2 (Reg.ACQ_SP_ARCH_BASE i)).toNat, n) }
        ctrlRes (burstAsk s (dumpRequester i) 6) i 0

/-- The bytes that one leave of 1 ms moves to archive memory at 4 GB/s (R339, R470). -/
def leaveBytes : Nat := 4000000

/-- A dump that holds leave copies what one leave moves, and asks again or ends (R339, R470). -/
def dumpPart (s : State) (i : Nat) : State :=
  let q := dumpRequester i
  match (spool s i).dump with
  | none => s
  | some (a, dst, n) =>
    if !hasLeave s q || s.pwr.off.contains .mem then s
    else
      let k := min n leaveBytes
      let s := leaveEnd (writeMem s .arch dst (readMem s .bolt a k)) q false
      if n ≤ k then ctrlRes (maintRel (setSpool s i { spool s i with dump := none }) 7) i 1
      else burstAsk (setSpool s i { spool s i with dump := some (a + k, dst + k, n - k) }) q 6

/-- The dumps of every spool go on under the leave that they hold. -/
def dumps (s : State) : State := [0, 1, 2, 3].foldl dumpPart s

/-- An arm command (R343, R346). A group with a member that is busy is refused as a busy spool is (DESIGN CHOICE, log entry 38), and so is
a spool out of service (R459; DEDUCED, log entry 41). -/
def spoolArm (s : State) (i : Nat) : State :=
  let master := actF s Reg.ACQ_GROUP 5 4
  if grpMember s i && i != master then ctrlRes s i 2
  else if spBusy s i then ctrlRes s i 3
  else
    let all := if grpMember s i then (List.range 4).filter (grpMember s) else [i]
    if all.any fun k => spBusy s k || s.flt.cellsOff.contains (ACQ, k) then ctrlRes s i 3
    else ctrlRes (all.foldl (fun s k => setSpool s k { spool s k with arm := true }) s) i 1

/-- A stop command (R343). -/
def spoolStop (s : State) (i : Nat) : State :=
  if spBusy s i then ctrlRes (setSpool s i { spool s i with stop := true }) i 1 else ctrlRes s i 3

/-- A force command (R341). -/
def spoolForce (s : State) (i : Nat) : State :=
  if (spSt s i == 1 || spSt s i == 5) then ctrlRes (forceTrig s i) i 1 else ctrlRes s i 3

/-- A release command (R342): frees the oldest slot. -/
def spoolRelease (s : State) (i : Nat) : State :=
  let x := spool s i
  match x.full with
  | [] => ctrlRes s i 3
  | k :: r =>
    let s := ctrlRes (putSpool s i { x with full := r }) i 1
    if spSt s i == 4 then startRecord s i k else s

/-- A write of ACQ_SPs_CTRL as it lands. -/
def landSpoolCtrl (s : State) (i : Nat) (v : Word) : State :=
  let s := if wbit v 1 then spoolStop s i else s
  let s := if wbit v 0 then spoolArm s i else s
  let s := if wbit v 2 then spoolForce s i else s
  let s := if wbit v 3 then spoolRelease s i else s
  okBus (if wbit v 4 then spoolDump s i else s)

/-- The auto timeout of a record without a trigger (R342), once it has run since the record's start. -/
def autoTimeout (s : State) (i : Nat) : State :=
  if spMode s i == 2 && spSt s i == 1 && (spool s i).trig.isNone &&
      (actv s (Reg.ACQ_SP_TIMEOUT i)).toNat * 1000000 ≤ s.raw - (spool s i).startRaw then forceTrig s i else s

/-- The entries at the front of a FIFO that together hold at most m bytes, and the rest. -/
def fifoPart : Nat → List (Nat × List Byte) → List (Nat × List Byte) × List (Nat × List Byte)
  | _, [] => ([], [])
  | m, e :: es =>
    if e.2.length ≤ m then
      let r := fifoPart (m - e.2.length) es
      (e :: r.1, r.2)
    else ([], e :: es)

/-- A burst from the staging FIFO to archive memory under the spool's own leave, with PD_MEM on (R339, R470). What it does not move asks
for leave again. (DEDUCED, log entry 38) -/
def archiveBurst (s : State) (i : Nat) : State :=
  let q := burstRequester i
  let x := spool s i
  if !hasLeave s q || s.pwr.off.contains .mem then s
  else
    let p := fifoPart leaveBytes x.fifo
    let s := p.1.foldl (fun s e => writeMem s .arch e.1 e.2) s
    let rest := p.2 ++ x.owed
    let s := leaveEnd (setSpool s i { x with fifo := rest, owed := [] }) q false
    if rest.isEmpty then s else burstAsk s q 3

/-- A trigger that the spool has seen before a stop and that no sample has shown yet (R343): a named event, where one is enough. -/
def stopTrigger (s : State) (i : Nat) : Option Trigger :=
  let x := spool s i
  let evs := x.unseen ++ (s.acq.left ++ s.evts.drop s.acq.seen).filter fun e => x.armNs ≤ e.time && e.time < latchNs s
  if x.trig.isSome || !counts s i || actF s (Reg.ACQ_SP_TRIG i) 4 4 == 1 then none
  else (namedEvents s i evs).foldl (fun b e => earlier b (some { time := e.time, approx := e.approx })) none

/-- A record is closed by a stop: a trigger before L(j + 1) stands in it (R343). -/
def stopRecord (s : State) (i : Nat) : State :=
  let x := spool s i
  let known := if x.trig.isSome then none else (stopTrigger s i).or x.pendingTrig
  let s :=
    match known with
    | none => s
    | some t =>
      wr64 (setSpool s i { x with pendingTrig := some t, forced := t.forced, approx := t.approx }) (Reg.ACQ_SP_TRIG_TS_LO i) (trigTs t.time)
  closeRecord s i true

/-- What is pending on a spool takes effect at L(j + 1) (R343). (DEDUCED, log entry 38) -/
def spoolLatch (s : State) (i : Nat) : State :=
  let x := spool s i
  let s :=
    if x.stop then
      let s := setSpool s i { x with stop := false }
      if spBusy s i then setF (if spSt s i == 4 then s else stopRecord s i) (Reg.ACQ_SP_STATE i) 2 0 6 else s
    else s
  if x.arm then
    let x := spool s i
    let s := setSpool s i { last := x.last, latest := x.latest, fifo := x.fifo, owed := x.owed, dump := x.dump,
                            startRaw := s.raw, armNs := latchNs s }
    let s := wr s (Reg.ACQ_SP_WR_PTR i) (word (if spMode s i == 3 then 0 else 32))
    showSpool (setF s (Reg.ACQ_SP_STATE i) 2 0 (if spMode s i == 3 then 5 else 1)) i
  else s

/-- The spools at a latch instant: pending arms and stops, and the events of the cycle gone by. -/
def acqLatch (s : State) : State :=
  let s := [0, 1, 2, 3].foldl spoolLatch s
  { s with acq := { s.acq with seen := 0, left := s.acq.left ++ s.evts.drop s.acq.seen }, evtsPrev := s.evts, evts := [] }

/-! ### The ACQ commit -/

/-- The registers of a spool in the ACQ baste group (R349). -/
def spoolGroup (i : Nat) : List Nat :=
  [Reg.ACQ_SP_CFG i, Reg.ACQ_SP_BASE i, Reg.ACQ_SP_LEN i, Reg.ACQ_SP_DEPTH i, Reg.ACQ_SP_HOLDOFF i, Reg.ACQ_SP_TIMEOUT i,
    Reg.ACQ_SP_ARCH_BASE i, Reg.ACQ_SP_ARCH_LEN i, Reg.ACQ_SP_TRIG i] ++
  (List.range 4).flatMap (fun k => [Reg.ACQ_SP_COND_CFG i k, Reg.ACQ_SP_COND_LO i k, Reg.ACQ_SP_COND_HI i k]) ++
  [Reg.ACQ_SP_MASK_EN_LO i, Reg.ACQ_SP_MASK_EN_HI i, Reg.ACQ_SP_MASK_CFG i, Reg.ACQ_SP_MASK_X0_LO i,
    Reg.ACQ_SP_MASK_X0_HI i, Reg.ACQ_SP_MASK_X1_LO i, Reg.ACQ_SP_MASK_X1_HI i, Reg.ACQ_SP_MASK_TBL i] ++
  (List.range 64).map (Reg.ACQ_SP_CH i)

/-- The registers of the ACQ baste group. -/
def acqGroup : List Nat := Reg.ACQ_GROUP :: [0, 1, 2, 3].flatMap spoolGroup

/-- A channel of class 7, or of class 8 field 1, shows this head's own pins (R348). -/
def perHead (sel : Word) : Bool := wbits sel 31 28 == 7 || (wbits sel 31 28 == 8 && wbits sel 19 16 == 1)

/-- A selector names a quantity of R334. -/
def selValid (sel : Word) : Bool :=
  let ix := wbits sel 27 20
  let f := wbits sel 19 16
  wbits sel 15 14 != 3 &&
  match wbits sel 31 28 with
  | 0 => true
  | 1 => f ≤ 6
  | 2 => f ≤ 3
  | 3 => f ≤ 4
  | 4 => f ≤ 2
  | 5 => f == 0 && ix ≤ 3
  | 6 => f == 0 && ix ≤ 7
  | 7 | 8 => f ≤ 1
  | _ => false

/-- The event index of a condition names an event of R340. -/
def evtIndexValid (cls ix : Nat) : Bool :=
  match cls with
  | 0 | 4 | 5 => ix ≤ 31
  | 1 => ix ≤ 7
  | 2 => ix ≤ 15
  | 3 => true
  | 6 => ix ≤ 3
  | _ => false

/-- Fields of a spool out of range or reserved. -/
def spoolBad (s : State) (i : Nat) : Bool :=
  let nch := fld s (Reg.ACQ_SP_CFG i) 14 8
  let d := fld s (Reg.ACQ_SP_DEPTH i) 23 0
  let tmo := (rd s (Reg.ACQ_SP_TIMEOUT i)).toNat
  nch < 1 || 64 < nch || d < 2 || 100 < fld s (Reg.ACQ_SP_DEPTH i) 30 24 || tmo < 1 || 60000 < tmo ||
  (List.range 4).any (fun k =>
    let c := rd s (Reg.ACQ_SP_COND_CFG i k)
    wbits c 13 12 == 3 || 6 < wbits c 19 16 || (wbits c 10 8 == 7 && !evtIndexValid (wbits c 19 16) (wbits c 28 24))) ||
  (List.range nch).any (fun j => !selValid (rd s (Reg.ACQ_SP_CH i j))) ||
  (fbit s (Reg.ACQ_SP_MASK_CFG i) 0 && rd64 s (Reg.ACQ_SP_MASK_X0_LO i) == rd64 s (Reg.ACQ_SP_MASK_X1_LO i) &&
    (rd s (Reg.ACQ_SP_MASK_EN_LO i) != 0 || rd s (Reg.ACQ_SP_MASK_EN_HI i) != 0))

/-- The first address past archive memory at its largest (R48). -/
def archEnd : Nat := 2 ^ 32

/-- A buffer, table or area outside its memory or misaligned. -/
def spoolOutside (s : State) (i : Nat) : Bool :=
  let b := (rd s (Reg.ACQ_SP_BASE i)).toNat
  let n := (rd s (Reg.ACQ_SP_LEN i)).toNat
  let ab := (rd s (Reg.ACQ_SP_ARCH_BASE i)).toNat
  let al := (rd s (Reg.ACQ_SP_ARCH_LEN i)).toNat
  let t := (rd s (Reg.ACQ_SP_MASK_TBL i)).toNat
  let tested := ((List.range 64).filter fun j =>
    if j < 32 then fbit s (Reg.ACQ_SP_MASK_EN_LO i) j else fbit s (Reg.ACQ_SP_MASK_EN_HI i) (j - 32)).length
  b % 64 != 0 || n % 64 != 0 || n < 4096 || !inPart s 1 b n ||
  (fbit s (Reg.ACQ_SP_CFG i) 2 && (ab % 64 != 0 || ab < 0x80000000 || archEnd < ab + al)) ||
  (tested != 0 && (t % 0x8000 != 0 || !inPart s 1 t (0x8000 * tested)))

/-- A commit would leave a spool no record slot (R338). -/
def spoolNoSlot (s : State) (i : Nat) : Bool :=
  let rec_ := 32 + fld s (Reg.ACQ_SP_DEPTH i) 23 0 * (8 + 4 * fld s (Reg.ACQ_SP_CFG i) 14 8)
  let len := (rd s (if fbit s (Reg.ACQ_SP_CFG i) 2 then Reg.ACQ_SP_ARCH_LEN i else Reg.ACQ_SP_LEN i)).toNat
  fld s (Reg.ACQ_SP_CFG i) 1 0 != 3 && len < rec_

/-- A trigger or mask test on a per-head channel that a pair refuses (R348). -/
def spoolPerHead (s : State) (i : Nat) : Bool :=
  let sel (j : Nat) : Word := rd s (Reg.ACQ_SP_CH i j)
  let cond := (List.range 4).any fun k =>
    let c := rd s (Reg.ACQ_SP_COND_CFG i k)
    bit (fld s (Reg.ACQ_SP_TRIG i) 3 0) k && 1 ≤ wbits c 10 8 && wbits c 10 8 ≤ 6 && perHead (sel (wbits c 5 0))
  let mask := (List.range (fld s (Reg.ACQ_SP_CFG i) 14 8)).any fun j =>
    (if j < 32 then fbit s (Reg.ACQ_SP_MASK_EN_LO i) j else fbit s (Reg.ACQ_SP_MASK_EN_HI i) (j - 32)) && perHead (sel j)
  twinSt s != 0 && (cond || mask) &&
    ((bit (fld s Reg.ACQ_GROUP 3 0) i && fbit s Reg.ACQ_GROUP 8) || 2 ≤ severity s ACQ 2)

/-- The result code of a commit of the ACQ group, 1 where it is not refused. -/
def acqResult (s : State) : Nat :=
  let any (f : State → Nat → Bool) : Bool := [0, 1, 2, 3].any (f s)
  let busy := [0, 1, 2, 3].any fun i => spBusy s i && (spoolGroup i).any fun a => rd s a != actv s a
  let members := fld s Reg.ACQ_GROUP 3 0
  -- the group's master is one of its members (R346)
  if any spoolBad || (members != 0 && !bit members (fld s Reg.ACQ_GROUP 5 4)) then 2
  else if any spoolOutside then 3
  else if any spoolNoSlot then 4
  else if busy then 5
  else if any spoolPerHead then 6
  else 1

/-- A write of ACQ_BASTE_COMMIT as it lands (R349). -/
def landAcqCommit (s : State) (v : Word) : State :=
  if !wbit v 0 then okBus s
  else
    let r := acqResult s
    if r == 1 then okBus (setBit s Reg.ACQ_BASTE_STATUS 0 true) else okBus (setF s Reg.ACQ_BASTE_STATUS 3 1 r)

/-- The commit point of a pending ACQ commit. -/
def applyAcq (s : State) : State :=
  if !fbit s Reg.ACQ_BASTE_STATUS 0 then s
  else keepLatest (setF (setBit (applyBaste s acqGroup) Reg.ACQ_BASTE_STATUS 0 false) Reg.ACQ_BASTE_STATUS 3 1 1)

end Sys2Proof.Machine
end

