-- ==== Sys2Proof/Machine/SafeState.lean ====
section
/-! DEFINITION. Chip safe state (R465) and the reaction on an island fault (R424): the two that several blocks bring about. -/

namespace Sys2Proof.Machine

/-- Where the retention store holds FPM_CAUSE and SAFE_FAULT_CAUSE, past the reset log (DESIGN CHOICE, log entry 47). -/
def causeAt : Nat := 8320

/-- Enter chip safe state (R465): ALIVE is frozen, the transmitters and the pins are off by transmits and pinsHeld. Cause: 1 rung 4,
2 island fault, 3 request, 4 supply. -/
def enterSafe (s : State) (cause blk ev : Nat) : State :=
  if chipSafe s then s
  else
    let s := setBit s Reg.FPM_STATUS 1 true
    let s := setBit s Reg.FPM_ALIVE 1 true
    let s := wr s Reg.FPM_CAUSE (word (cause + blk % 256 * 2 ^ 8 + ev % 32 * 2 ^ 16))
    driveTxdis (showFbc (writeMem s .ret causeAt (leBytes 4 (rd s Reg.FPM_CAUSE).toNat)))

/-- The island state (R394): 0 START, 1 RUN, 2 FAULT. -/
def islandSt (s : State) : Nat := fld s Reg.SAFE_STATUS 1 0

/-- The twin is in STANDBY-IN-STEP by its last valid frame and this head leads it (R424). -/
def twinReady (s : State) : Bool := twinSt s == 1 && fbit s Reg.TWIN_STATE 4 && fld s Reg.TWIN_STATE 18 16 == 3

/-- An island fault (R424): FAULT, outbound PDUs replaced, or chip safe state at once with the twin in step. -/
def islandFault (s : State) (cause : Nat) : State :=
  if islandSt s == 2 then s
  else
    let s := wr (setF s Reg.SAFE_STATUS 1 0 2) Reg.SAFE_FAULT_CAUSE (word (cause % 256))
    let s := writeMem s .ret (causeAt + 4) (leBytes 4 (cause % 256))
    let s := event (event s SAFE 11 cause) FPM 0 cause
    if twinReady s then enterSafe s 2 SAFE 11
    else
      { s with safe := { s.safe with zeroed := true, zeroShuttles := 0 }, ring := { s.ring with pdus := [] } }

/-- The second shuttle after the replacement has been launched: chip safe state (R424). -/
def islandSafeEntry (s : State) : State :=
  if s.safe.zeroed && (2 ≤ s.safe.zeroShuttles || !leads s) then enterSafe s 2 SAFE 11 else s

end Sys2Proof.Machine
end

