-- ==== Sys2Proof/Machine/Die.lean ====
section
/-! DEFINITION. The inputs of the field-I/O die (13_field_io.md): sampling, filters, wire-break classes and test pulses. -/

namespace Sys2Proof.Machine

/-- The period of a pulsed input in µs (R435, R451). -/
def inPeriod (cfg : Word) : Nat := 125 * 2 ^ wbits cfg 23 20

/-- N, the consecutive samples that a new level needs (R436). -/
def filterN (cfg : Word) : Nat :=
  max 1 (if wbits cfg 17 16 == 1 then ceilDiv (wbits cfg 15 0) (inPeriod cfg) else wbits cfg 15 0)

/-- t_filter in µs, the longest delay of the filtered state (R436). -/
def filterUs (cfg : Word) : Nat := if wbits cfg 17 16 == 1 then filterN cfg * inPeriod cfg else filterN cfg + 1

/-- Whether an input is sampled at a tick (R436, R437): every µs, or 15 µs into the window that begins each period. The periods begin with
the die's first tick (DESIGN CHOICE, log entry 39). -/
def sampledAt (cfg : Word) (tick : Nat) : Bool :=
  match wbits cfg 17 16 with
  | 0 => true
  | 1 => tick % inPeriod cfg == 15
  | _ => false

/-- The class that a sample gives an input (R438): by the current with wb_en, a gap leaving the class before, else by the level. -/
def sampleClass (cfg : Word) (was : Nat) (d : DieSample) (i : Nat) : Nat :=
  if !wbit cfg 19 then flag (wbit d.level i)
  else if wbit d.gap i then was
  else if wbit d.broken i then 2
  else flag (wbit d.level i)

/-- The filter of R436 takes a class: one that N samples in a row agree on becomes the filtered one. -/
def DieInput.filter (x : DieInput) (n c : Nat) : DieInput :=
  if c == x.cls then { x with latest := c, run := 0 }
  else
    let run := if c == x.latest then x.run + 1 else 1
    if n ≤ run then { x with cls := c, latest := c, run := 0 } else { x with latest := c, run := run }

/-- An input of the die. -/
def dieInput (x : Die) (i : Nat) : DieInput := tget (fun _ => {}) x.pins i

/-- Store an input of the die; a change of its filtered level is an edge. -/
def setDieInput (x : Die) (i : Nat) (y : DieInput) : Die :=
  let was := (dieInput x i).cls == 1
  let now := y.cls == 1
  { x with
    pins := tput (fun _ => {}) x.pins i y
    edges := if was == now then x.edges else x.edges ++ [(i, now, x.tick)] }

/-- The test pulse of an input's source output at a tick (R439): whether the raw level must read 0, and whether the filter ignores it. -/
def pulseAt (x : Die) (cfg : Word) : Bool × Bool :=
  if !wbit cfg 28 then (false, false)
  else
    match (x.pulses.find? fun e => e.1 == wbits cfg 27 24).map (·.2) with
    | some (a, none) => (a + 100 ≤ x.tick, true)
    | some (_, some b) => (false, x.tick < b + 100)
    | none => (false, false)

/-- A sample of one input (R436, R438, R439). An input that is off reads 0 (R435). (DEDUCED, log entry 39) -/
def sampleInput (cfg : Nat → Word) (d : DieSample) (x : Die) (i : Nat) : Die :=
  let c := cfg i
  let y := dieInput x i
  if 2 ≤ wbits c 17 16 then setDieInput x i {}
  else if !sampledAt c x.tick then x
  else
    let k := sampleClass c y.latest d i
    let p := pulseAt x c
    let bad := p.1 && k == 1
    let x := if bad then { x with failed := x.failed ||| word (2 ^ i) } else x
    let y := { y with bad := y.bad || bad }
    setDieInput x i (if p.2 then { y with latest := k, run := 0 } else y.filter (filterN c) k)

/-- A tick of the die: every input. -/
def dieTick (cfg : Nat → Word) (x : Die) (d : DieSample) : Die :=
  (List.range 32).foldl (sampleInput cfg d) { x with tick := x.tick + 1 }

/-- The test pulses that a downlink frame commands begin and end (R439): at an end the inputs that saw no level 1 have passed. -/
def diePulses (cfg : Nat → Word) (x : Die) (pulses : Nat) : Die :=
  (List.range 16).foldl (fun x k =>
    let p := (x.pulses.find? fun e => e.1 == k).map (·.2)
    let running := match p with | some (_, none) => true | _ => false
    let put (v : Nat × Option Nat) : Table (Nat × Option Nat) := tput (fun _ => (0, some 0)) x.pulses k v
    let mine (i : Nat) : Bool := wbit (cfg i) 28 && wbits (cfg i) 27 24 == k
    if bit pulses k && !running then { x with pulses := put (x.tick, none) }
    else if !bit pulses k && running then
      (List.range 32).foldl (fun x i =>
        if !mine i then x
        else
          let y := dieInput x i
          { x with
            pins := tput (fun _ => {}) x.pins i { y with bad := false }
            passed := if y.bad then x.passed else x.passed ||| word (2 ^ i) })
        { x with pulses := put ((p.map (·.1)).getD 0, some x.tick) }
    else x) x

/-- A bit per input with a property. -/
def inputMask (x : Die) (f : DieInput → Bool) : Word :=
  word ((List.range 32).foldl (fun n i => n + flag (f (dieInput x i)) * 2 ^ i) 0)

/-- The uplink frame that the die answers with (R431, R432, R438). -/
def dieAnswer (x : Die) (now : Nat) : Uplink :=
  { inputs := inputMask x fun y => y.cls == 1
    raw := inputMask x fun y => y.latest == 1
    edges := x.edges.map fun e => (e.1, e.2.1, x.tick - e.2.2)
    broken := inputMask x fun y => y.cls == 2
    failed := x.failed
    passed := x.passed
    sampled := now }

end Sys2Proof.Machine
end

