-- ==== Sys2Proof/Machine/Fio.lean ====
section
/-! DEFINITION. Field I/O (13_field_io.md): the die, its link, inputs and outputs. -/

namespace Sys2Proof.Machine

/-- Change the field-I/O record. -/
def fioMod (s : State) (f : Fio → Fio) : State := { s with fio := f s.fio }

/-- The safety parameter set names an output safe (R441), an input safe (R440). -/
def safeOutput (s : State) (k : Nat) : Bool := fbit s (Reg.FIO_OUT_CFG k) 31
def safeInput (s : State) (i : Nat) : Bool := fbit s (Reg.FIO_IN_CFG i) 31

/-- The island commands every output to its safe state (R446): before RUN and in FAULT, in chip safe state, and on a head of a pair
that is neither ACTIVE nor SPLIT (R387). -/
def islandSafe (s : State) : Bool := islandSt s != 1 || chipSafe s || (2 ≤ twinSt s && twinSt s ≤ 4)

/-- The states of the standard outputs that the motion pipeline and host writes command for the next latch instant (R441, R369). -/
def fioCommanded (s : State) : Nat :=
  (List.range 16).foldl (fun n k =>
    let c := actv s (Reg.FIO_OUT_CFG k)
    let on :=
      if safeOutput s k then false
      else if wbits c 3 2 == 1 then bit (tget (fun _ => {}) s.ring.sent (wbits c 15 8) : OutRec).control.toNat 3
      else bit s.fio.outForce k
    n + flag on * 2 ^ k) 0

/-- The safe state of an output (R446): always off for a safe output. -/
def safeLevel (s : State) (k : Nat) : Bool :=
  if safeOutput s k then false
  else
    match actF s (Reg.FIO_OUT_CFG k) 1 0 with
    | 1 => true
    | 2 => bit s.fio.hold k
    | _ => false

/-- The state applied to an output (R446): watchdog trip, island command, latch-off or cell disable, test pulse, command. -/
def appliedTo (s : State) (k : Nat) : Bool :=
  if s.fio.dead then false
  else if s.fio.tripped || s.fio.die.safe then safeLevel s k
  else if bit s.fio.latched k || s.flt.cellsOff.contains (FIO, k) then false
  else if bit s.fio.die.pulses k then false
  else bit s.fio.die.outs k

/-- The outputs take the states of R446; each change shows on its pin. -/
def applyOutputs (s : State) : State :=
  (List.range 16).foldl (fun s k =>
    let v := appliedTo s k
    if bit s.fio.applied k == v then s
    else
      let n := s.fio.applied
      let s := fioMod s fun x => { x with applied := if v then n + 2 ^ k else n - 2 ^ k }
      emit s (.pin ("FO" ++ toString k) v (mtime s))) s

/-- The die changes; hold keeps the states applied when the safe state is entered (R446). -/
def dieMod (s : State) (f : Fio → Fio) : State :=
  let was := s.fio.tripped || s.fio.die.safe
  let n := s.fio.applied
  let s := fioMod s f
  applyOutputs (if !was && (s.fio.tripped || s.fio.die.safe) then fioMod s fun x => { x with hold := n } else s)

/-- The island sends a downlink frame (R431, R442), every 10 µs; a frame without an answer is a missing frame (R393). (DEDUCED, log entry
39) -/
def downlinkSend (s : State) : State :=
  if s.fio.sentRaw.any fun r => s.raw < r + 10000 then s else
  let s := fioMod s fun x => { x with sentRaw := some s.raw }
  let s := if s.fio.await && islandSt s == 1 then islandFault s 7 else s
  let std := (List.range 16).foldl (fun n k =>
    n + (if safeOutput s k then flag (bit s.fio.safeOn k) else flag (bit s.fio.standard k)) * 2 ^ k) 0
  let x := s.fio
  { s with fio := { x with down := some { outs := std, safe := islandSafe s, pulses := x.pulses, resume := x.resume }, await := true } }

/-- The configuration of an input as the die has it: that in force (DEDUCED, log entry 39). -/
def dieCfg (s : State) (i : Nat) : Word := actv s (Reg.FIO_IN_CFG i)

/-- The die takes a downlink frame (R431, R434) after the ticks up to its arrival: a valid one restarts its watchdog, one with resume ends
a trip, and an uplink frame answers it. -/
def downlinkReceive (s : State) (r : DownArrival) : State :=
  let s := fioMod s fun x => { x with ins := r.samples.foldl (dieTick (dieCfg s)) x.ins }
  match s.fio.down with
  | none => s
  | some d =>
    let s := fioMod s fun x => { x with down := none }
    if !r.crcOk then s
    else
      let s := fioMod s fun x => { x with ins := diePulses (dieCfg s) x.ins d.pulses, downRaw := s.raw }
      let s := fioMod s fun x => { x with
        up := some (dieAnswer x.ins (mtime s))
        ins := { x.ins with edges := [], failed := 0, passed := 0 } }
      dieMod s fun x => { x with die := d, tripped := x.tripped && !d.resume, dead := x.dead && !d.resume }

/-- Bits set in one word and not in another, ascending. -/
def newBits (a b : Word) : List Nat := (List.range 32).filter fun i => wbit a i && !wbit b i

/-- The readback of each output against its commanded state (R444): since when they differ, counted from 100 µs after the last change. -/
def noteReadback (s : State) (readback : Half) : State :=
  fioMod s fun x => { x with
    differs := (List.range 16).foldl (fun t k =>
      if bit readback.toNat k == bit x.standard k then tdel t k
      else if t.any fun e => e.1 == k then t
      else tins t k (max s.raw (tget (fun _ => 0) x.changedRaw k + 100000))) x.differs }

/-- A valid uplink frame and the measurements that it carries (R431, R432, R438, R439, R443, R444). -/
def uplinkTake (s : State) (u : Uplink) (r : DieReport) : State :=
  let old := rd s Reg.FIO_IN_WB
  let s := wr { s with pwr := { s.pwr with off := s.pwr.off.filter (· != .fio) } } Reg.FIO_IN_WB u.broken
  let s := (newBits u.broken old).foldl (fun s i => event s FIO 1 i) s
  let was := rd s Reg.FIO_IN_FLT
  let s := wr s Reg.FIO_IN_FLT (was ||| u.failed)
  let s := (newBits u.failed was).foldl (fun s i => event s FIO 2 i) s
  let kept := s.fio.blocked &&& ~~~(u.passed &&& ~~~(rd s Reg.FIO_IN_FLT))
  let blocked := kept ||| u.failed
  let ins := u.inputs &&& ~~~(blocked ||| u.broken)
  let s := fioMod s fun x => { x with inputs := ins, blocked := blocked, await := false, sampled := u.sampled,
                                      validRaw := match x.validRaw with | none => some s.raw | v => v }
  let s := u.edges.foldl (fun s e =>
    noteAt s (if e.2.1 then 4 else 5) (e.1 % 32) (((u.sampled : Int) - s.cyc.latch) / 65536 - 1000 * e.2.2)) s
  let s := noteReadback s r.readback
  let s := wr s Reg.FIO_IN_RAW u.raw
  let s := wr s Reg.FIO_VFIELD (r.vfield.setWidth 32)
  let s := wr s Reg.FIO_TEMP (r.temp.setWidth 32)
  let s := wr s Reg.FIO_OUT_STATE (word (r.readback.toNat + s.fio.applied * 2 ^ 16))
  let s := setBit (setBit s Reg.FIO_STATUS 0 true) Reg.FIO_STATUS 1 (!s.fio.tripped)
  if s.fio.report then
    event (setBit (fioMod s fun x => { x with report := false, known := true, resume := false }) Reg.FIO_STATUS 2 true) FIO 0
  else if s.fio.tripped then fioMod s fun x => { x with known := true }
  else fioMod s fun x => { x with known := false, resume := false }

/-- An uplink frame at the control die (R431); a bad CRC is counted and is an island fault (R393). (DEDUCED, log entry 39) -/
def uplinkReceive (s : State) (r : DieReport) (crcOk : Bool) : State :=
  match s.fio.up with
  | none => s
  | some u =>
    let s := fioMod s fun x => { x with up := none }
    if crcOk then uplinkTake s u r else
    let s := setBit (bump s Reg.FIO_LINK_ERR_CNT) Reg.FIO_STATUS 0 false
    let s := fioMod s fun x => { x with validRaw := none, await := false }
    if islandSt s == 1 then islandFault s 7 else s

/-- The die's logic-silence watchdog trips (R433). -/
def linkTimeout (s : State) : State :=
  if s.fio.tripped || s.raw - s.fio.downRaw ≤ actF s Reg.FIO_LINK_CFG 12 0 * 10000 then s
  else dieMod s fun x => { x with tripped := true, report := true }

/-- An output has stayed in current limit for 2 ms, or overheats (R443): it latches off. -/
def overload (s : State) (k : Nat) : State :=
  if bit s.fio.latched k then s
  else
    let s := dieMod s fun x => { x with latched := x.latched + 2 ^ k, latchRaw := tput (fun _ => 0) x.latchRaw k s.raw }
    event (setBit s Reg.FIO_OUT_FLT k true) FIO 3 k

/-- A latched-off output is switched on again (R443). -/
def unlatch (s : State) (k : Nat) : State :=
  if bit s.fio.latched k then dieMod s fun x => { x with latched := x.latched - 2 ^ k } else s

/-- The retry of an output with auto_retry, 100 ms after it latched off (R443). -/
def overloadRetry (s : State) (k : Nat) : State :=
  if actF s (Reg.FIO_OUT_CFG k) 16 16 == 1 && tget (fun _ => 0) s.fio.latchRaw k + 100000000 ≤ s.raw then unlatch s k else s

/-- A standard output's readback has differed for 1 ms (R444). -/
def readbackMismatch (s : State) (k : Nat) : State :=
  match s.fio.differs.find? fun e => e.1 == k with
  | none => s
  | some e =>
    if safeOutput s k || s.raw < e.2 + 1000000 then s else event (setBit s Reg.FIO_OUT_FLT (16 + k) true) FIO 4 k

/-- A write of FIO_OUT_FLT (R451): a 1 on an overload bit restarts its output. -/
def landOutFlt (s : State) (v : Word) : State :=
  let s := wr s Reg.FIO_OUT_FLT ((rd s Reg.FIO_OUT_FLT) &&& ~~~v)
  okBus ((List.range 16).foldl (fun s k => if wbit v k then unlatch s k else s) s)

/-- A write of FIO_OUT (R441): bits of safe outputs and of outputs whose src is not 0 keep their value. -/
def landFioOut (s : State) (v : Word) : State :=
  okBus ((List.range 16).foldl (fun s k =>
    if safeOutput s k || actF s (Reg.FIO_OUT_CFG k) 3 2 != 0 then s else setBit s Reg.FIO_OUT k (wbit v k)) s)

/-- The registers of the FIO baste group. -/
def fioGroup : List Nat :=
  [Reg.FIO_LINK_CFG] ++ (List.range 32).map (fun i => Reg.FIO_IN_CFG i) ++ (List.range 16).map (fun k => Reg.FIO_OUT_CFG k)

/-- The result of the checks of a FIO commit (R440, R446, R451), 1 where it passes. -/
def fioResult (s : State) : Nat :=
  let inW (i : Nat) : Word := rd s (Reg.FIO_IN_CFG i)
  let outW (k : Nat) : Word := rd s (Reg.FIO_OUT_CFG k)
  let ins := List.range 32
  let outs := List.range 16
  let lt := fld s Reg.FIO_LINK_CFG 12 0
  let inBad (w : Word) : Bool := wbits w 17 16 == 3 || 5 < wbits w 23 20 || 20000 < wbits w 15 0
  if lt < 2 || 5000 < lt || ins.any (fun i => inBad (inW i)) ||
      outs.any (fun k => 2 ≤ wbits (outW k) 3 2 || wbits (outW k) 1 0 == 3) then 2
  else if ins.any (fun i => safeInput s i && wbits (inW i) 28 0 != wbits (actv s (Reg.FIO_IN_CFG i)) 28 0) ||
      outs.any (fun k => safeOutput s k && wbits (outW k) 1 0 != 0) then 3
  else if ins.any (fun i => wbit (inW i) 19 && !wbit (inW i) 18) then 4
  else if ins.any (fun i => wbit (inW i) 28 && (wbits (inW i) 17 16 == 1 || wbits (inW i) 15 0 < 100)) then 5
  else 1

/-- A FIO commit as it lands. -/
def landFioCommit (s : State) (v : Word) : State :=
  if wbit v 0 then okBus (setBit s Reg.FIO_BASTE_STATUS 0 true) else okBus s

/-- The commit point of a pending FIO commit. -/
def applyFio (s : State) : State :=
  if !fbit s Reg.FIO_BASTE_STATUS 0 then s
  else
    let r := fioResult s
    let s := setF (setBit s Reg.FIO_BASTE_STATUS 0 false) Reg.FIO_BASTE_STATUS 3 1 r
    if r == 1 then applyOutputs (applyBaste s fioGroup) else s

/-- The latch instant of the field I/O (R432, R434, R441): the inputs delivered, the standard outputs commanded, resume. -/
def fioLatch (s : State) : State :=
  let s := wr s Reg.FIO_IN_STATE s.fio.inputs
  let std := fioCommanded s
  let s := fioMod s fun x => { x with
    changedRaw := (List.range 16).foldl (fun t k => if bit std k == bit x.standard k then t else tput (fun _ => 0) t k s.raw) x.changedRaw
    standard := std
    outForce := fld s Reg.FIO_OUT 15 0 }
  let s := { s with twin := { s.twin with fieldIn := s.fio.inputs } }
  let long := match s.fio.validRaw with | some r => 1000000 ≤ s.raw - r | none => false
  if s.fio.tripped && s.fio.known && islandSt s == 1 && long && !chipSafe s then fioMod s fun x => { x with resume := true } else s

/-- The fall of VDD_FIO switches every output off, whatever its safe state, until resume (R552). -/
def fioSupplyFall (s : State) : State :=
  applyOutputs (fioMod s fun x => { x with dead := true, tripped := true, report := true, validRaw := none })

end Sys2Proof.Machine
end

