-- ==== Sys2Proof/Machine/Safe.lean ====
section
/-! DEFINITION. The safety island and Selvedge (12_safety.md). -/

namespace Sys2Proof.Machine

/-- Change the island's record. -/
def safeMod (s : State) (f : Safe → Safe) : State := { s with safe := f s.safe }

/-- A connection, a safe axis, a laser-off group, a safe output. -/
def conn (s : State) (c : Nat) : SafeConn := tget (fun _ => {}) s.safe.conns c
def setConn (s : State) (c : Nat) (x : SafeConn) : State :=
  safeMod s fun f => { f with conns := tput (fun _ => {}) f.conns c x }
def safeAxis (s : State) (a : Nat) : SafeAxis := tget (fun _ => {}) s.safe.axes a
def setSafeAxis (s : State) (a : Nat) (x : SafeAxis) : State :=
  safeMod s fun f => { f with axes := tput (fun _ => {}) f.axes a x }
def sloGroup (s : State) (g : Nat) : SloGroup := tget (fun _ => {}) s.safe.groups g
def setSloGroup (s : State) (g : Nat) (x : SloGroup) : State :=
  safeMod s fun f => { f with groups := tput (fun _ => {}) f.groups g x }
def safeOut (s : State) (k : Nat) : SafeOut := tget (fun _ => {}) s.safe.outs k
def setSafeOut (s : State) (k : Nat) (x : SafeOut) : State :=
  safeMod s fun f => { f with outs := tput (fun _ => {}) f.outs k x }

/-- The safe axes that the parameter set names. -/
def safeAxes (s : State) : List Nat := s.safe.axes.map (·.1)

/-- The state of a connection (R404): 0 CLOSED, 1 OPENING, 2 RUN, 3 FAILSAFE. -/
def connSt (s : State) (c : Nat) : Nat := fld s (Reg.SAFE_CONN_STATE c) 2 0
def setConnSt (s : State) (c st : Nat) : State := setF s (Reg.SAFE_CONN_STATE c) 2 0 st

/-! ### Selvedge -/

/-- The check value of a PDU under an identity (R399). -/
def pduCrc (ident : Nat) (data seq flags : List Byte) : Nat := crc32c (leBytes 4 ident ++ seq ++ flags ++ data)

/-- A PDU (R398). -/
def makePdu (ident data seq flags : Nat) : List Byte :=
  let d := leBytes 8 data
  let q := leBytes 2 seq
  let f := leBytes 2 flags
  d ++ q ++ f ++ leBytes 4 (pduCrc ident d q f)

/-- A received PDU passes its check (R402). -/
def pduOk (ident : Nat) (p : List Byte) : Bool :=
  p.length == 16 && pduCrc ident (slice p 0 8) (slice p 8 2) (slice p 10 2) == field p 12 4

/-- The steps from one sequence number to another, modulo 65,535 over 1-65,535 (R402). -/
def seqAhead (last seq : Nat) : Nat := (seq + 65535 - last) % 65535

/-- Enter OPENING (R404). -/
def reopen (s : State) (c : Nat) : State :=
  setConnSt (setConn s c { conn s c with based := false, streak := 0, restartClear := false }) c 1

/-- A connection error (R402-R404): 1 check, 2 sequence, 3 watchdog. (DEDUCED, log entry 40) -/
def connError (s : State) (c code : Nat) : State :=
  let s := setF (bump s (Reg.SAFE_CONN_ERR_CNT c)) (Reg.SAFE_CONN_STATE c) 6 4 code
  let s :=
    match connSt s c with
    | 2 => setConnSt s c 3
    | 1 => setConn s c { conn s c with based := false, lastSeq := 0, streak := 0, restartClear := false }
    | _ => s
  event s SAFE code c

/-- A PDU is accepted (R402-R404, R406). (DEDUCED, log entry 40) -/
def connAccept (s : State) (c : Nat) (p : List Byte) : State :=
  let x := conn s c
  let seq := field p 8 2
  let restart := bit (field p 10 2) (if c < 126 then 7 else 1)
  let y := { x with pdu := p, lastSeq := seq, based := true, streak := x.streak + 1, restartClear := x.restartClear || !restart,
                    wdRaw := some s.raw, newPdu := true }
  let s := setF (setConn s c y) (Reg.SAFE_CONN_STATE c) 31 16 seq
  match connSt s c with
  | 1 => if 3 ≤ y.streak && y.restartClear then setConnSt s c 2 else s
  | 3 =>
    let e := fld s (Reg.SAFE_CONN_STATE c) 6 4
    if x.ackMode == 0 && (e == 1 || e == 3) then reopen s c else s
  | _ => s

/-- A CRC failure is discarded; more than crc_max of them within one watchdog time are a check error (R402). -/
def connBadCrc (s : State) (c : Nat) : State :=
  let x := conn s c
  let recent := s.raw :: x.crcRaws.filter (fun r => s.raw - r < x.watchdog * 1000000)
  let s := bump s (Reg.SAFE_CONN_CRC_CNT c)
  if x.crcMax < recent.length then connError (setConn s c { x with crcRaws := [] }) c 1
  else setConn s c { x with crcRaws := recent }

/-- An arriving PDU (R402, R404): a ring end takes W = 1, a host-side end its seq_window. (DEDUCED, log entry 40) -/
def connReceive (s : State) (c : Nat) (p : List Byte) : State :=
  let x := conn s c
  let ring := c < 126
  if !x.named || x.off || connSt s c == 0 || islandSt s != 1 || p.length != 16 then s
  else if p == List.replicate 16 0xFF then s
  else if !pduOk x.ident p then connBadCrc s c
  else
    let seq := field p 8 2
    let restart := bit (field p 10 2) (if ring then 7 else 1)
    if connSt s c == 1 && !x.based && restart then
      connAccept (setConn s c { x with streak := 0, restartClear := false }) c p
    else if x.lastSeq == 0 then s
    else if seq == x.lastSeq then (if p == x.pdu then s else connError s c 2)
    else
      let d := seqAhead x.lastSeq seq
      if seq != 0 && 1 ≤ d && d ≤ (if ring then 1 else x.window) then connAccept s c p
      else if ring then connError s c 2
      else setConn s c { x with old := x.old + 1 }

/-- The watchdog of a connection expires (R403). -/
def connWatchdog (s : State) (c : Nat) : State :=
  let x := conn s c
  match x.wdRaw with
  | some r =>
    if x.watchdog * 1000000 ≤ s.raw - r && islandSt s == 1 && connSt s c != 0 then
      connError (setConn s c { x with wdRaw := none }) c 3
    else s
  | none => s

/-- The island takes the inbound PDUs of a returned shuttle (R407). -/
def islandInbound (s : State) : State := s.ring.inPdus.foldl (fun s e => connReceive s (e.1 - 1) e.2) s

/-- Data and flags that a connection applies (R404, R405): zero in every state but RUN. -/
def connData (s : State) (c : Nat) : Nat := if connSt s c == 2 then (conn s c).data else 0
def connFlags (s : State) (c : Nat) : Nat := if connSt s c == 2 then (conn s c).flags else 0

/-! ### Terms -/

/-- The field inputs that the island takes (R396, R420). -/
def islandInputs (s : State) : Word := if mirrors s then s.twin.fieldIn else s.fio.inputs

/-- The level of a source word (DESIGN CHOICE, log entry 48): kind in bits 31:24 (1 field input, 2 worker sin bit, 3 host-side bit),
connection in bits 15:8, number in bits 7:0. -/
def termLevel (s : State) (t : Nat) : Bool :=
  let i := bits t 7 0
  let c := bits t 15 8
  match bits t 31 24 with
  | 1 => wbit (islandInputs s) (i % 32)
  | 2 => bit (connData s c) (32 + i % 16)
  | 3 => bit (connData s c) (i % 64)
  | _ => false

/-- The two channels of a dual-channel term, with b inverted for an antivalent pair (R411). -/
def dualChannels (s : State) (t : Nat) : Bool × Bool :=
  let a := wbit (islandInputs s) (bits t 7 0 % 32)
  let b := wbit (islandInputs s) (bits t 15 8 % 32)
  (a, b != bit t 16)

/-- A source is an acknowledgement now: it is high and was low at the last safety cycle (R406). -/
def rises (s : State) (t : Nat) : Bool := t != 0 && termLevel s t && !s.safe.ackPrev.contains t

/-- A demand term evaluated (R411): present when it is 0, while its channels disagree, and while it is held. -/
def evalTerm (s : State) (x : DemandTerm) : DemandTerm :=
  if bits x.source 31 24 == 4 then
    let ab := dualChannels s x.source
    if ab.1 == ab.2 then
      let held := x.held && ab.1
      { x with differ := none, held := held, present := held || !ab.1 }
    else { x with differ := match x.differ with | none => some s.raw | d => d, present := true }
  else { x with present := !termLevel s x.source }

/-- Store a term by its number. -/
def setTerm (s : State) (i : Nat) (x : DemandTerm) : State := safeMod s fun f => { f with terms := f.terms.set i x }

/-- Dual channels have disagreed beyond the discrepancy time (R411). -/
def discrepancy (s : State) (i : Nat) : State :=
  let x : DemandTerm := s.safe.terms.getD i {}
  match x.differ with
  | some r =>
    if x.held || s.raw - r ≤ x.disc * 1000000 then s
    else event (setTerm s i { x with held := true, present := true }) SAFE 4 i
  | none => s

/-- Functions are numbered in the order of R412: 0 STO, 1 SBC, 2 SS1, 3 SS2, 4 SOS, 5 SLS, 6 SDI, 7 SLP, 8 SLO. A function word
(DESIGN CHOICE, log entry 48) holds the function in bits 7:0, the axis or group in bits 15:8, and in bit 16 the second selector of SLS. -/
def demanded (s : State) (fn obj : Nat) (second : Bool := false) : Bool :=
  s.safe.terms.any fun x => x.present && x.funcs.any fun f =>
    bits f 7 0 == fn && bits f 15 8 == obj && bit f 16 == second

/-! ### Safe axes -/

/-- S_eff in nanoseconds (R395). -/
def sEff (s : State) : Nat :=
  let S := s.safe.period * 1000
  if 3 ≤ ringSt s then ceilDiv S (cycleNs s) * cycleNs s else S

/-- The speed of a safe axis in counts per second (R410). -/
def safeSpeed (s : State) (x : SafeAxis) : Long :=
  if x.got < 2 then 0 else dofQ (((x.pos - x.prev).natAbs * 1000000000 : Nat)) (x.gap * sEff s)

/-- The position of a channel arrives or does not, in a safety cycle (R410). -/
def axisPosition (s : State) (a : Nat) : State :=
  let x := safeAxis s a
  let y := conn s x.conn
  let run := connSt s x.conn == 2
  let f := connFlags s x.conn
  let new := run && y.newPdu && bits f 3 0 == x.chan && bit f 4
  let x :=
    if new then
      let p := bits y.data 31 0
      let pos := if x.got == 0 then sgn 32 p else x.pos + sgn 32 (unsg 32 ((p : Int) - x.pos))
      { x with prev := x.pos, pos := pos, gap := max 1 (x.age + 1), age := 0, got := min 2 (x.got + 1) }
    else if run || x.got != 0 then { x with age := x.age + 1 }
    else x
  let x := { x with faulted := (run && bit f 6) || (!new && 2 * y.channels ≤ x.age),
                    xOfs := if run then x.xOfs else none }
  setSafeAxis s a x

/-- The cross-check of a safe axis (R419): mismatching cycles in a row. (DEDUCED, log entry 84) -/
def crossCheck (s : State) (a : Nat) : State :=
  let x := safeAxis s a
  if x.xTol == 0 || connSt s x.conn != 2 then s
  else
    let i := input s a
    let scaled := Int.fdiv (measured s a * x.xNum) (max 1 x.xDen : Nat)
    if i.age == 7 || !i.valid then setSafeAxis s a { x with xBad := x.xBad + 1 }
    else if x.age != 0 || x.got == 0 then s
    else
      match x.xOfs with
      | none => setSafeAxis s a { x with xOfs := some (x.pos - scaled), xBad := 0 }
      | some o => setSafeAxis s a { x with xBad := if x.xTol < (x.pos - scaled - o).natAbs then x.xBad + 1 else 0 }

/-- The function that an axis violates, if one (R412, R413): 14 stands for the cross-check, 15 for a faulted channel (log
entry 48). (DEDUCED, log entry 84) -/
def violation (s : State) (a : Nat) (x : SafeAxis) (sos : Bool) (lim : Word) : Option Nat :=
  let v := safeSpeed s x
  if x.faulted then some 15
  else if x.xTol != 0 && x.xN ≤ x.xBad then some 14
  else if sos && (match x.sosRef with | some r => x.sosWin < (x.pos - r).natAbs || dlt (f2d x.sosVel) v | none => false) then some 4
  else if lim != 0 && dlt (f2d lim) v then some 5
  else if demanded s 6 a && (match x.sdiRef with
      | some r => (x.sdiTol : Int) < (if x.sdiNeg then x.pos - r else r - x.pos)
      | none => false) then some 6
  else if x.slpMin < x.slpMax && x.got != 0 && (x.pos * 65536 < x.slpMin || x.slpMax < x.pos * 65536) then some 7
  else none

/-- STO takes effect on an axis, with the request of DISABLE (R413). (DEDUCED, log entry 42) -/
def enterSto (s : State) (a : Nat) : State :=
  let x := safeAxis s a
  if x.sto then s else request (setSafeAxis s a { x with sto := true }) (.disable a)

/-- SS1 goes on (R414): entry with a quick stop, the ramp, its end. -/
def stepSs1 (s : State) (a : Nat) : State :=
  let x := safeAxis s a
  let v := safeSpeed s x
  match x.ss1 with
  | none => request (setSafeAxis s a { x with ss1 := some (s.raw, v), ssDone := dle v (f2d x.sosVel) }) (.quick a)
  | some (r, v0) =>
    let t := dofQ (s.raw - r : Nat) 1000000000
    let cap := dadd (dsub v0 (dmul (f2d x.ss1Dec) t)) (f2d x.ss1Tol)
    let bad := x.ramp && dlt cap v
    setSafeAxis s a { x with ssDone := x.ssDone || bad || dle v (f2d x.sosVel) || x.ss1Time * 1000000 ≤ s.raw - r }

/-- The outputs of an axis for a stop in force (R412, R415): the brake at once, STO sto_after_brk later. -/
def stopOutputs (s : State) (a : Nat) (sto sbc : Bool) : State :=
  let x := safeAxis s a
  if sbc || (sto && x.sbc) then
    let since := match x.brakeRaw with | some r => r | none => s.raw
    let s := setSafeAxis s a { x with brake := true, brakeRaw := some since }
    if x.stoAfter * 1000000 ≤ s.raw - since || x.forced then enterSto s a else s
  else
    let s := setSafeAxis s a { x with brake := false, brakeRaw := none, sto := x.sto && sto }
    if sto then enterSto s a else s

/-- One safe axis in a safety cycle (R411-R415). -/
def evalAxis (s : State) (a : Nat) : State :=
  let x := safeAxis s a
  let x := if rises s x.ack then { x with latched := false, forced := false, xBad := 0 } else x
  let sel := flag (demanded s 5 a) + 2 * flag (demanded s 5 a true)
  let lim := x.sls.getD sel 0
  let slo := s.safe.groups.any fun g => g.2.latched && g.2.axes.contains a
  let ss2 := demanded s 3 a
  let ss := demanded s 2 a || ss2 || slo || (x.latched && x.react == 1)
  let sos := demanded s 4 a || (ss2 && x.ssDone && x.ss1.isSome)
  let x := { x with
    sosRef := if sos then (match x.sosRef with | none => some x.pos | r => r) else none
    sdiRef := if demanded s 6 a then (match x.sdiRef with | none => some x.pos | r => r) else none
    demands := (List.range 9).foldl (fun n f =>
      let d := if f == 5 then lim != 0 else if f == 7 then x.slpMin < x.slpMax
        else if f == 8 then s.safe.groups.any (fun g => g.2.axes.contains a && g.2.isOff) else demanded s f a
      n + flag d * 2 ^ f) 0 }
  let s := setSafeAxis s a x
  let s :=
    match violation s a x sos lim with
    | none => s
    | some f =>
      if x.latched then s
      else
        let s := if f == 14 then event s SAFE 9 a else s
        event (setSafeAxis s a { x with latched := true, violated := f }) SAFE 5 a f
  let x := safeAxis s a
  let ss := ss || (x.latched && x.react == 1)
  let s := if ss then stepSs1 s a else setSafeAxis s a { x with ss1 := none, ssDone := false }
  let x := safeAxis s a
  let onlySs2 := ss2 && !demanded s 2 a && !slo && !(x.latched && x.react == 1)
  let sto := demanded s 0 a || x.forced || (x.latched && x.react == 0) || (ss && x.ssDone && !onlySs2)
  stopOutputs s a sto (demanded s 1 a)

/-- Show a safe axis (R428). -/
def showAxis (s : State) (a : Nat) : State :=
  let x := safeAxis s a
  let s := wr s (Reg.SAFE_AX_STATE a) (word (x.demands + flag x.sto * 2 ^ 12 + flag (x.latched || x.forced) * 2 ^ 13 +
    flag x.faulted * 2 ^ 14 + x.violated % 16 * 2 ^ 16))
  wr s (Reg.SAFE_AX_POS a) (BitVec.ofInt 32 x.pos)

/-- The expiry of ss1_time (R414). -/
def ss1Expiry (s : State) (a : Nat) : State :=
  let x := safeAxis s a
  match x.ss1 with
  | some (r, _) =>
    if islandSt s == 1 && x.ss1Time * 1000000 ≤ s.raw - r then
      let s := setSafeAxis s a { x with ssDone := true }
      let ss1 := demanded s 2 a || (x.latched && x.react == 1) || !demanded s 3 a
      showAxis (if ss1 then stopOutputs s a true (demanded s 1 a) else s) a
    else s
  | none => s

/-- sto_after_brk has passed since the brake was applied (R415). (DEDUCED, log entry 42) -/
def brakeExpiry (s : State) (a : Nat) : State :=
  let x := safeAxis s a
  match x.brakeRaw with
  | some r => if islandSt s == 1 && x.stoAfter * 1000000 ≤ s.raw - r then showAxis (enterSto s a) a else s
  | none => s

/-! ### Laser-off groups and safe outputs -/

/-- Every feedback term of a group shows the safe state: level 1 (DESIGN CHOICE, log entry 48). -/
def fbSafe (s : State) (x : SloGroup) : Bool := x.fbs.all fun t => t == 0 || termLevel s t

/-- The demand of a group is present. -/
def sloDemand (s : State) (g : Nat) (x : SloGroup) : Bool :=
  (match s.safe.terms[x.demand]? with | some t => t.present | none => true) || demanded s 8 g

/-- A group is latched off by its feedback (R416); its axes go to SS1 with the next evaluation. -/
def sloFault (s : State) (g : Nat) : State :=
  let x := sloGroup s g
  if x.latched then s else event (setSloGroup s g { x with latched := true, acked := false }) SAFE 6 g

/-- Feedback has not shown the safe state within slo_fb_time, or shows the unsafe state after it has (R416). -/
def sloTimeout (s : State) (g : Nat) : State :=
  let x := sloGroup s g
  if islandSt s != 1 || !x.isOff || x.outs.isEmpty then s
  else if fbSafe s x then setSloGroup s g { x with shown := true }
  else if x.shown || x.fbTime * 1000000 ≤ s.raw - x.offRaw then sloFault s g
  else s

/-- One group in a safety cycle (R416). -/
def evalGroup (s : State) (g : Nat) : State :=
  let x := sloGroup s g
  let d := sloDemand s g x
  let x := if d then { x with acked := false }
    else if rises s x.ack && fbSafe s x then { x with acked := true, latched := false } else x
  sloTimeout (setSloGroup s g x) g

/-- A group lets its outputs switch on (R416). -/
def sloOn (s : State) (g : Nat) : Bool :=
  let x := sloGroup s g
  !sloDemand s g x && fbSafe s x && x.acked && !x.latched

/-- A group at the output instant (R416): off at once with its demand or latch, on again only where `sloOn` lets it. -/
def switchGroup (s : State) (g : Nat) : State :=
  let x := sloGroup s g
  if x.isOff then (if sloOn s g then setSloGroup s g { x with isOff := false, shown := false } else s)
  else if sloDemand s g x || x.latched then setSloGroup s g { x with isOff := true, offRaw := s.raw, shown := fbSafe s x }
  else s

/-- Show a group (R428). -/
def showGroup (s : State) (g : Nat) : State :=
  let x := sloGroup s g
  wr s (Reg.SAFE_SLO_STATE g) (word (flag (sloDemand s g x) + flag x.isOff * 2 + flag (fbSafe s x) * 4 + flag x.latched * 8))

/-- The groups and axes that a safe field output serves. -/
def outGroups (s : State) (k : Nat) : List Nat :=
  (s.safe.groups.filter fun g => g.2.outs.any fun t => bits t 31 24 == 1 && bits t 7 0 == k).map (·.1)
def outBrakes (s : State) (k : Nat) : List Nat := (s.safe.axes.filter fun a => a.2.brakeOut == k + 1).map (·.1)

/-- A safe output fails (R417, R418): off and latched; an axis whose brake it is goes to STO at once (R415). (DEDUCED, log entry 42) -/
def outFault (s : State) (k ev : Nat) : State :=
  let x := safeOut s k
  if x.latched then s
  else
    let s := setSafeOut s k { x with latched := true, on := false, switched := none, pulsing := false }
    let s := fioMod s fun f => { f with
      safeOn := if bit f.safeOn k then f.safeOn - 2 ^ k else f.safeOn
      pulses := if bit f.pulses k then f.pulses - 2 ^ k else f.pulses }
    let s := (outBrakes s k).foldl (fun s a => enterSto (setSafeAxis s a { safeAxis s a with forced := true }) a) s
    event s SAFE ev k

/-- The feedback of an output shows its state (R417): 1 while it is released, that is off (DESIGN CHOICE, log entry 48). -/
def edmShows (s : State) (x : SafeOut) (on : Bool) : Bool :=
  match x.edm with
  | some i => wbit (islandInputs s) i == !on
  | none => true

/-- Feedback has not followed its output within edm_time (R417). -/
def edmTimeout (s : State) (k : Nat) : State :=
  let x := safeOut s k
  match x.switched with
  | some r =>
    if edmShows s x x.on then s
    else if islandSt s == 1 && x.edmTime * 1000000 ≤ s.raw - r then outFault s k 7 else s
  | none => s

/-- A safe output in a safety cycle: acknowledgement, external device monitoring, readback while off (R417, R418). -/
def checkOut (s : State) (k : Nat) : State :=
  let x := safeOut s k
  let acks := (outGroups s k).map (fun g => (sloGroup s g).ack) ++ (outBrakes s k).map (fun a => (safeAxis s a).ack)
  let x := if x.latched && acks.any (rises s) then { x with latched := false } else x
  let x := if x.switched.isSome && edmShows s x x.on then { x with switched := none } else x
  let s := setSafeOut s k x
  let settled := match x.switched with | some r => 150000 ≤ s.raw - r | none => true
  if !x.on && settled && fbit s Reg.FIO_OUT_STATE k then outFault s k 8 else s

/-- A safe output at the output instant (R415-R417). -/
def driveOut (s : State) (k : Nat) : State :=
  let x := safeOut s k
  let gs := outGroups s k
  let bs := outBrakes s k
  let want := !(gs.isEmpty && bs.isEmpty) && gs.all (fun g => !(sloGroup s g).isOff) && bs.all (fun a => !(safeAxis s a).brake) && !x.latched
  if want && !x.on then
    if !edmShows s x false then outFault s k 7
    else fioMod (setSafeOut s k { x with on := true, switched := some s.raw, pulseRaw := s.raw }) fun f => { f with safeOn := f.safeOn + 2 ^ k }
  else if !want && x.on then
    let s := setSafeOut s k { x with on := false, switched := some s.raw, pulsing := false }
    fioMod s fun f => { f with safeOn := if bit f.safeOn k then f.safeOn - 2 ^ k else f.safeOn
                               pulses := if bit f.pulses k then f.pulses - 2 ^ k else f.pulses }
  else s

/-- A test pulse begins (R418): on an output that is on, pulse_period after it went on or after its last pulse, and never with
another of its laser-off groups. -/
def pulseStart (s : State) (k : Nat) : State :=
  let x := safeOut s k
  let clash := (outGroups s k).any fun g => (s.safe.outs.any fun o => o.1 != k && o.2.pulsing && (outGroups s o.1).contains g)
  if islandSt s != 1 || !x.on || x.pulsing || clash || s.raw - x.pulseRaw < x.pulsePeriod * 1000000 then s
  else fioMod (setSafeOut s k { x with pulsing := true, pulseRaw := s.raw }) fun f => { f with pulses := f.pulses + 2 ^ k }

/-- A test pulse ends pulse_w after its begin, with its readback check (R418, R445). (DEDUCED, log entry 84) -/
def testPulseEnd (s : State) (k : Nat) (sawOff backOn : Bool) : State :=
  let x := safeOut s k
  if !x.pulsing || s.raw - x.pulseRaw < x.pulseW * 1000 then s
  else
    let s := fioMod (setSafeOut s k { x with pulsing := false }) fun f =>
      { f with pulses := if bit f.pulses k then f.pulses - 2 ^ k else f.pulses }
    if sawOff && backOn then s else outFault s k 8

/-! ### The safety cycle -/

/-- Show terms and outputs (R428). -/
def showSafe (s : State) : State :=
  let ins := (List.range 32).foldl (fun n i =>
    n + (match s.safe.terms[i]? with | some t => flag t.present | none => 0) * 2 ^ i) 0
  let s := wr s Reg.SAFE_IN_STATE (word ins)
  let lat := (List.range 8).foldl (fun n g => n + flag (sloGroup s g).latched * 2 ^ (16 + g)) 0
  let on := (List.range 16).foldl (fun n k => n + flag (safeOut s k).on * 2 ^ k) 0
  let s := wr s Reg.SAFE_OUT_STATE (word (on + lat))
  (s.safe.groups.map (·.1)).foldl showGroup ((safeAxes s).foldl showAxis s)

/-- A connection at the start of a safety cycle: what it takes, and its acknowledgement (R396, R406, R422). -/
def takeConn (s : State) (c : Nat) : State :=
  let ps := (conn s c).journaled
  let s := ps.foldl (fun s p => connReceive s c p) (setConn s c { conn s c with journaled := [] })
  let x := conn s c
  let m := max x.channels (field x.pdu 10 2 % 16 + 1)
  let s := if x.newPdu then setConn s c { x with data := field x.pdu 0 8, flags := field x.pdu 10 2, channels := m } else s
  let x := conn s c
  let s := if c < 126 || !x.newPdu then s
    else (List.range 4).foldl (fun s i => wr s (Reg.SAFE_HC_RX (c - 126) i) (word (field x.pdu (4 * i) 4))) s
  if connSt s c == 3 && rises s x.source && (x.ackMode != 0 || fld s (Reg.SAFE_CONN_STATE c) 6 4 == 2) then reopen s c else s

/-- The sources whose rising edges acknowledge something. -/
def ackSources (s : State) : List Nat :=
  (s.safe.conns.map fun c => c.2.source) ++ (s.safe.axes.map fun a => a.2.ack) ++ (s.safe.groups.map fun g => g.2.ack)

/-- The longest evaluation, in CK_SAFE cycles (R428): how long one takes is a free value below S_eff / 2. (DESIGN CHOICE, log entry 5) -/
def noteEvaluation (s : State) : State :=
  let t := (freeVal 32 s).toNat % max 1 (sEff s / 5)
  wr (drawn s) Reg.SAFE_CYCLE_MAX (word (max (rd s Reg.SAFE_CYCLE_MAX).toNat t))

/-- The head leads or follows a ring (R395). -/
def inRing (s : State) : Bool := 3 ≤ ringSt s

/-- Nanoseconds since start(j) (R395): on the cycles in a ring, on CK_SAFE without one. -/
def sinceStart (s : State) : Nat := if inRing s then s.safe.since + (s.raw - s.cyc.instant) else s.raw - s.safe.startRaw

/-- Now is a latch instant, which only a ring asks for (R395, R396). -/
def atInstant (s : State) : Bool := !inRing s || onInstant s

/-- start(j) has come (R395): at a latch instant in a ring, S after the start before. (DEDUCED, log entry 43) -/
def startDue (s : State) : Bool := atInstant s && (!s.safe.cycled || s.safe.period * 1000 ≤ sinceStart s)

/-- start(j) (R396): inputs are taken and every function is evaluated. (DEDUCED, log entry 43) -/
def cycleStart (s : State) : State :=
  if islandSt s != 1 || !startDue s then s
  else
    let n := if 3 ≤ ringSt s then ceilDiv (s.safe.period * 1000) (cycleNs s) else 0
    let s := setF s Reg.SAFE_CYCLE 31 16 n
    let s := setF s Reg.SAFE_STATUS 31 16 (fld s Reg.SAFE_STATUS 31 16 + 1)
    let s := safeMod s fun f =>
      { f with startRaw := s.raw, startCount := s.cyc.count, since := 0, cycled := true, outDue := true, pduDue := true }
    let s := (s.safe.conns.map (·.1)).foldl takeConn s
    let s := safeMod s fun f => { f with terms := f.terms.map (evalTerm s) }
    let s := (safeAxes s).foldl (fun s a => crossCheck (axisPosition s a) a) s
    let s := (s.safe.groups.map (·.1)).foldl evalGroup s
    let s := (safeAxes s).foldl evalAxis s
    let s := (s.safe.outs.map (·.1)).foldl checkOut s
    let s := safeMod s fun f => { f with ackPrev := (ackSources s).filter (termLevel s)
                                         conns := f.conns.map fun c => (c.1, { c.2 with newPdu := false }) }
    showSafe (noteEvaluation s)

/-- start(j) + S_eff/2 (R396): the field outputs are commanded. (DEDUCED, log entry 43) -/
def outputInstant (s : State) : State :=
  if islandSt s != 1 || !s.safe.outDue || sinceStart s * 2 < sEff s then s
  else
    let s := safeMod s fun f => { f with outDue := false }
    let s := (s.safe.groups.map (·.1)).foldl switchGroup s
    showSafe ((s.safe.outs.map (·.1)).foldl driveOut s)

/-- The live data of a ring connection (R409): torque, brakes and outputs of its worker. -/
def driveData (s : State) (c : Nat) : Nat :=
  let en := s.safe.axes.foldl (fun n a =>
    if a.2.conn == c then n + flag (!a.2.sto) * 2 ^ (a.2.chan % 16) + flag (!a.2.brake) * 2 ^ (16 + a.2.chan % 16) else n) 0
  let outs := s.safe.groups.foldl (fun (l : List (Nat × Bool)) g =>
    l ++ (g.2.outs.filter fun t => bits t 31 24 == 5 && bits t 15 8 == c).map fun t => (bits t 4 0, g.2.isOff)) []
  (List.range 32).foldl (fun n b =>
    let mine := outs.filter fun o => o.1 == b
    n + flag (!mine.isEmpty && mine.all fun o => !o.2) * 2 ^ (32 + b)) en

/-- This head sends and accepts host-side datagrams (R422): it holds the journal, or has no twin. -/
def holdsJournal (s : State) : Bool := !s.twin.pair || fbit s Reg.TWIN_STATE 5

/-- A connection issues its next PDU (R401, R404, R409); what profile 0 carries outbound is mapped by nothing that the spec lays
out, a free value (DESIGN CHOICE, log entry 49). -/
def issuePdu (s : State) (c : Nat) : State :=
  let x := conn s c
  let st := connSt s c
  if !x.named || x.off || st == 0 then s
  else
    let host := 126 ≤ c
    let live := if host then (freeVal 64 s).toNat else driveData s c
    let s := if host && st == 2 then drawn s else s
    let flags := (if st == 2 then 0 else 1) + (if st == 1 && x.streak < 3 then 2 else 0)
    let seq := fld s (Reg.SAFE_CONN_TXSEQ c) 15 0 % 65535 + 1
    let p := makePdu x.ident (if st == 2 then live else 0) seq flags
    let s := wr (setConn s c { conn s c with tx := p }) (Reg.SAFE_CONN_TXSEQ c) (word seq)
    if host then
      if holdsJournal s && !chipSafe s then
        emit s (.selvedge x.peerIp x.peerPort ([0x10, 0, BitVec.ofNat 8 (c - 126)] ++ zeros 5 ++ p))
      else s
    else ringMod s fun r => { r with pdus := tput (fun _ => []) r.pdus (c + 1) p }

/-- O(j) (R396): every connection issues its PDU, in a ring at the first latch instant at or after start(j) + S_eff/2. (DEDUCED, log
entry 43) -/
def pduIssue (s : State) : State :=
  if islandSt s != 1 || !s.safe.pduDue || !atInstant s || sinceStart s * 2 < sEff s then s
  else (s.safe.conns.map (·.1)).foldl issuePdu (safeMod s fun f => { f with pduDue := false })

/-! ### The parameter set (R394, R496) -/

/-- The entries of a sequence of 2-byte tag, 2-byte length and value; nothing where it does not end on an entry. -/
def tagEntries : Nat → List Byte → Option (List (Nat × List Byte))
  | _, [] => some []
  | 0, _ => none
  | n + 1, bs =>
    let len := field bs 2 2
    if bs.length < 4 + len then none
    else (tagEntries n (bs.drop (4 + len))).map fun l => (field bs 0 2, slice bs 4 len) :: l

/-- A binary32 parameter lies in a range. -/
def inF (w : Word) (lo hi : Nat) : Bool := dfinite (f2d w) && dle (dofInt lo) (f2d w) && dle (f2d w) (dofInt hi)

/-- The 32-bit word i of a value. -/
def pw (v : List Byte) (i : Nat) : Nat := field v (4 * i) 4

/-- A connection entry (tag 2), nothing where a value breaks its range. (DESIGN CHOICE, log entry 48) (DEDUCED, log entry 84) -/
def parseConn (period : Nat) (v : List Byte) : Option (Nat × SafeConn) :=
  let n := pw v 1
  let wd := pw v 2
  let lo := if n < 126 then max (3 * period) 4000 else max (3 * period) 2000
  if v.length != 36 || 133 < n || pw v 0 == 0 || wd * 1000 < lo || 1000 < wd || pw v 3 < 1 || 4 < pw v 3 || 15 < pw v 4 || 2 < pw v 5 ||
      (pw v 5 == 0 && pw v 6 == 0) then none
  else
    some (n, { named := true, ident := pw v 0, watchdog := wd, window := pw v 3, crcMax := pw v 4, ackMode := pw v 5, source := pw v 6,
               peerIp := pw v 7, peerPort := pw v 8 })

/-- A safe axis entry (tag 3). (DESIGN CHOICE, log entry 48) (DEDUCED, log entry 84) -/
def parseAxis (v : List Byte) : Option (Nat × SafeAxis) :=
  if v.length != 36 || 255 < pw v 0 || 125 < pw v 1 || 15 < pw v 2 || 1 < pw v 3 || pw v 6 == 0 || 65535 < pw v 6 || pw v 7 == 0 ||
      65535 < pw v 7 || pw v 8 < 1 || 16 < pw v 8 then none
  else some (pw v 0, { conn := pw v 1, chan := pw v 2, react := pw v 3, ack := pw v 4, xTol := pw v 5, xNum := pw v 6, xDen := pw v 7,
                       xN := pw v 8 })

/-- The function parameters of a safe axis (tag 4). -/
def parseFuncs (x : SafeAxis) (v : List Byte) : Option SafeAxis :=
  let f (i : Nat) : Word := word (pw v i)
  if v.length != 76 || 16 < bits (pw v 1) 15 8 || 1000 < pw v 2 || 1 < pw v 3 || pw v 4 < 10 || 10000 < pw v 4 ||
      !inF (f 5) 1000 10000000000000 || !inF (f 6) 0 10000000 || 1000000000 < pw v 7 || !inF (f 8) 0 10000000 ||
      !inF (f 9) 0 10000000000 || !inF (f 10) 0 10000000000 || !inF (f 11) 0 10000000000 || !inF (f 12) 0 10000000000 ||
      1 < pw v 13 || 1000000000 < pw v 14 then none
  else
    some { x with sbc := bit (pw v 1) 0, brakeOut := bits (pw v 1) 15 8, stoAfter := pw v 2, ramp := pw v 3 == 1, ss1Time := pw v 4,
                  ss1Dec := f 5, ss1Tol := f 6, sosWin := pw v 7, sosVel := f 8, sls := [f 9, f 10, f 11, f 12],
                  sdiNeg := pw v 13 == 1, sdiTol := pw v 14, slpMin := sgn 64 (field v 60 8), slpMax := sgn 64 (field v 68 8) }

/-- The set under construction. -/
def parseEntry (f : Safe) (tag : Nat) (v : List Byte) : Option Safe :=
  let put (t : Table SafeAxis) (a : Nat) (x : SafeAxis) : Table SafeAxis := tput (fun _ => {}) t a x
  match tag with
  | 1 => if v.length == 4 && 250 ≤ pw v 0 && pw v 0 ≤ 8000 && pw v 0 % 250 == 0 then some { f with period := pw v 0 } else none
  | 2 =>
    match parseConn f.period v with
    | some (c, x) =>
      if f.conns.any fun e => e.1 == c || e.2.ident == x.ident then none
      else some { f with conns := tput (fun _ => {}) f.conns c x }
    | none => none
  | 3 =>
    match parseAxis v with
    | some (a, x) => if f.axes.any (fun e => e.1 == a) then none else some { f with axes := f.axes ++ [(a, x)] }
    | none => none
  | 4 =>
    match f.axes.find? fun e => e.1 == pw v 0 with
    | some (a, x) => (parseFuncs x v).map fun y => { f with axes := put f.axes a y }
    | none => none
  | 5 =>
    if v.length < 8 || v.length % 4 != 0 || pw v 1 < 10 || 1000 < pw v 1 then none
    else some { f with terms := f.terms ++ [{ source := pw v 0, disc := pw v 1
                                              funcs := (List.range (v.length / 4 - 2)).map fun i => pw v (i + 2) }] }
  | 6 =>
    if v.length < 48 || v.length % 4 != 0 || 7 < pw v 0 || pw v 9 < 1 || 1000 < pw v 9 then none
    else
      let ws (i n : Nat) : List Nat := ((List.range n).map fun j => pw v (i + j)).filter (· != 0)
      let g : SloGroup := { outs := ws 1 4, fbs := ws 5 4, fbTime := pw v 9, demand := pw v 10, ack := pw v 11
                            axes := (List.range (v.length / 4 - 12)).map fun i => pw v (i + 12) }
      some { f with groups := tput (fun _ => {}) f.groups (pw v 0) g }
  | 7 =>
    if v.length != 20 || 15 < pw v 0 || pw v 2 < 10 || 1000 < pw v 2 || pw v 3 < 100 || 500 < pw v 3 || pw v 4 < 10 || 10000 < pw v 4
    then none
    else
      let o : SafeOut := { edm := if pw v 1 < 32 then some (pw v 1) else none, edmTime := pw v 2, pulseW := pw v 3, pulsePeriod := pw v 4 }
      some { f with outs := (f.outs.filter fun e => e.1 != pw v 0) ++ [(pw v 0, o)] }
  | 8 =>
    if v.length != 28 || 31 < pw v 0 || 2 < pw v 1 || 1 < pw v 2 || 1 < pw v 3 || 20000 < pw v 4 || 5 < pw v 5 ||
        (pw v 3 == 1 && pw v 2 == 0) || (pw v 6 < 16 && (pw v 1 == 1 || pw v 4 < 100)) then none
    else
      let tp := if pw v 6 < 16 then 2 ^ 28 + pw v 6 * 2 ^ 24 else 0
      let w := word (2 ^ 31 + tp + pw v 5 * 2 ^ 20 + pw v 3 * 2 ^ 19 + pw v 2 * 2 ^ 18 + pw v 1 * 2 ^ 16 + pw v 4)
      some { f with ins := tput (fun _ => 0) f.ins (pw v 0) w }
  | _ => none

/-- A parameter set, nothing where one value breaks a range (R394). -/
def parseSet (bs : List Byte) : Option Safe :=
  match tagEntries bs.length bs with
  | none => none
  | some es => es.foldl (fun f e => match f with | some f => parseEntry f e.1 e.2 | none => none) (some {})

/-- The records of a configuration area (R490): type, instance, flags and version, payload, whether its CRC holds. -/
structure CfgRecord where
  type : Nat
  version : Nat
  inst : Nat
  optional : Bool
  payload : List Byte
  ok : Bool
  deriving DecidableEq, Repr

/-- The first n records of a byte string. -/
def cfgRecords : Nat → List Byte → List CfgRecord
  | 0, _ => []
  | n + 1, bs =>
    let len := field bs 8 4
    let p := slice bs 16 len
    { type := field bs 0 2, version := field bs 2 2, inst := field bs 4 2, optional := bit (field bs 6 2) 0, payload := p,
      ok := p.length == len && crc32c p == field bs 12 4 } :: cfgRecords n (bs.drop (16 + ceilDiv len 4 * 4))

/-- Start of a configuration area (R488). -/
def areaAt (area : Nat) : Nat := 0x100000 + 0x300000 * area

/-- The header of a set passes (R490), and its records. -/
def cfgSet (bs : List Byte) : Option (List CfgRecord) :=
  let h := bs.take 32
  if field h 0 4 != 0x31474643 || field h 28 4 != crc32c (slice h 0 28) || bs.length < 32 + field h 8 4 then none
  else some (cfgRecords (field h 4 4) (slice bs 32 (field h 8 4)))

/-- The bytes of the set in an area, from its header to the end of its last record (R490). -/
def areaBytes (s : State) (area : Nat) : List Byte :=
  let n := field (readMem s .nvm (areaAt area) 32) 8 4
  readMem s .nvm (areaAt area) (if n + 32 ≤ 0x300000 then n + 32 else 32)

/-- The set of an area, with its bytes. -/
def cfgArea (s : State) (area : Nat) : Option (List Byte × List CfgRecord) :=
  let bs := areaBytes s area
  (cfgSet bs).map fun rs => (bs, rs)

/-- The safety parameter set of an area (R491). -/
def paramSet (s : State) (area : Nat) : Option (List Byte) :=
  match cfgArea s area with
  | none => none
  | some (_, rs) => (rs.find? fun r => r.type == 0x000A && r.ok).map (·.payload)

/-- SAFE_PARAM_VER (R428): the format version of the record in bits 31:16, and the low half of the set's release number (log entry
60). -/
def paramVer (s : State) (area : Nat) : Word :=
  match cfgArea s area with
  | none => 0
  | some (bs, rs) => word (((rs.find? fun r => r.type == 0x000A).map (·.version)).getD 0 % 65536 * 65536 + field bs 12 2)

/-- Put a parsed set in force (R394, R404, R440, R441). -/
def loadSet (s : State) (bs : List Byte) (f : Safe) : State :=
  let f : Safe := { f with conns := f.conns.map fun c =>
    (c.1, { c.2 with channels := f.axes.foldl (fun m a => if a.2.conn == c.1 then max m (a.2.chan + 1) else m) 1 }) }
  let s := { s with safe := { f with tested := true, since := s.safe.since } }
  let s := f.ins.foldl (fun s i => setAct (wr s (Reg.FIO_IN_CFG i.1) i.2) (Reg.FIO_IN_CFG i.1) i.2) s
  let s := f.outs.foldl (fun s k =>
    let w := wset (wset (rd s (Reg.FIO_OUT_CFG k.1)) 31 31 1) 1 0 0
    setAct (wr s (Reg.FIO_OUT_CFG k.1) w) (Reg.FIO_OUT_CFG k.1) w) s
  let s := f.conns.foldl (fun s c => setConnSt s c.1 1) s
  let s := wr s Reg.SAFE_PARAM_SIG (word (crc32c bs))
  let s := setF s Reg.SAFE_CYCLE 15 0 (f.period / 250)
  showSafe (setF (setBit (orient s) Reg.SAFE_STATUS 4 true) Reg.SAFE_STATUS 1 0 1)

/-- The end of the island's self-test and parameter load (R394); in host recovery and after a refused set the island does not start
(R485, R492). -/
def islandStart (s : State) (passed : Bool) : State :=
  if islandSt s != 0 || s.safe.tested || 4 ≤ fld s Reg.SEC_STATUS 2 0 then s
  else if !passed then islandFault s 8
  else
    let s := safeMod s fun f => { f with tested := true }
    match paramSet s (fld s Reg.SEC_STATUS 5 5) with
    | none => event s SAFE 0
    | some bs =>
      match parseSet bs with
      | none => event s SAFE 0
      | some f =>
        let s := loadSet s bs f
        let s := wr s Reg.SAFE_PARAM_VER (paramVer s (fld s Reg.SEC_STATUS 5 5))
        { s with sec := { s.sec with paramHash := Config.sha256 bs } }

/-- The STO request of a region stop for every safe axis (R464). -/
def stoRequest (s : State) : State :=
  (safeAxes s).foldl (fun s a => setSafeAxis s a { safeAxis s a with forced := true }) s

end Sys2Proof.Machine
end

