-- ==== Sys2Proof/Machine/Twin.lean ====
section
/-! DEFINITION. Twin operation (11_twin_operation.md): frames, states, the digest, the journal's stamping, takeover, split service,
resynchronization and the planned swap. Applying the entries of the journal stands in Land.lean. -/

namespace Sys2Proof.Machine

/-- Change the twin record. -/
def twinMod (s : State) (f : Twin → Twin) : State := { s with twin := f s.twin }

/-! ### Frames -/

/-- A frame of n bytes that starts now would still be in transmission when the returning shuttle is due (R353). -/
def delaysReturn (s : State) (n : Nat) : Bool :=
  let due := leadTime s + (rd s Reg.RING_RT).toNat * (nsU / 16)
  leads s && s.ring.launched && !s.ring.returned && mtime s < due && due * 25 < mtime s * 25 + n * byteTime25 s * nsU

/-- Send a frame on the twin link (R353, R354). One that would delay RETURN is sent behind it; a frame has 58 bytes around its body, with
its preamble. -/
def sendTwin (s : State) (ft : Nat) (body : List Byte) : State :=
  if !s.twin.pair || !fbit s Reg.TWIN_STATE 3 || !transmits s then s
  else if ft != 0x23 && delaysReturn s (58 + body.length) then twinMod s fun t => { t with delayed := t.delayed ++ [(ft, body)] }
  else
    let h := [BitVec.ofNat 8 ft, 0x10, BitVec.ofNat 8 (twinSt s), 0] ++ leBytes 4 s.cyc.count.toNat ++ leBytes 8 (serial s) ++
      leBytes 4 s.twin.pairId.toNat ++ leBytes 2 s.twin.seq ++ leBytes 2 body.length ++ zeros 6
    let s := emit s (.twin (macFrame s (h ++ leBytes 2 (crc16 h) ++ body)))
    twinMod s fun t => { t with seq := (t.seq + 1) % 65536 }

/-- The frames that waited for the returning shuttle are sent (R353). -/
def sendDelayed (s : State) : State :=
  s.twin.delayed.foldl (fun s f => sendTwin s f.1 f.2) (twinMod s fun t => { t with delayed := [] })

/-- The body of a twin frame. -/
def twinBody (f : List Byte) : List Byte := slice f 32 (field f 22 2)

/-- A received twin frame is used (R354); RETURN may fail its FCS. -/
def twinOk (s : State) (f : List Byte) (fcsOk : Bool) : Bool :=
  32 ≤ f.length && field f 30 2 == crc16 (slice f 0 30) && field f 16 4 == s.twin.pairId.toNat &&
    field f 8 8 == s.twin.twinSerial.toNat && (fcsOk || byteAt f 0 == 0x23)

/-- A valid frame has arrived: what it shows of the twin (R390); a discarded one is counted (R354). -/
def twinHeard (s : State) (f : List Byte) (fcsOk : Bool) : Option State :=
  if !s.twin.pair then none
  else if !twinOk s f fcsOk then none
  else
    let s := twinMod s fun t => { t with silent := 0 }
    some (setF (setBit s Reg.TWIN_STATE 4 true) Reg.TWIN_STATE 18 16 (byteAt f 2 % 8))

/-- Take a frame by its meaning, or count it as discarded. -/
def twinRecv (s : State) (f : List Byte) (fcsOk : Bool) (take : State → List Byte → State) : State :=
  match twinHeard s f fcsOk with
  | some t => take t (twinBody f)
  | none => if s.twin.pair then bump s Reg.TWIN_LINK_ERR_CNT else s

/-- Send HELLO (R353, R355). -/
def sendHello (s : State) : State :=
  sendTwin (twinMod s fun t => { t with helloRaw := some s.raw }) 0x20 (leBytes 4 s.twin.cfgSetHash.toNat ++ leBytes 4 s.twin.manifestHash.toNat ++ leBytes 4 s.ring.cfgHash.toNat ++
    zeros 4)

/-- The 1 ms HELLO while the pair is not formed (R353). -/
def helloTimer (s : State) : State :=
  if s.twin.formed || s.twin.helloRaw.any fun r => s.raw < r + 1000000 then s else sendHello s

/-! ### States -/

/-- Enter a twin state with a cause (R356, R390); HELLO goes out at each change. -/
def setTwin (s : State) (st cause : Nat) : State :=
  let old := twinSt s
  let s := setF (setF s Reg.TWIN_STATE 2 0 st) Reg.TWIN_STATE 11 8 cause
  let s := twinMod s fun t => { t with formerStandby := st == 5 && t.formerStandby
                                       activeRaw := if old == 1 || st == 1 then some s.raw else t.activeRaw
                                       ackHi := if old == 1 && st == 3 then (rd s Reg.TWIN_JSEQ).toNat else t.ackHi }
  -- a head that takes the journal goes on from the highest number that it holds (R373)
  let s := if (old == 3 || old == 4) && st == 1 then
      wr s Reg.TWIN_JSEQ (s.twin.entries.foldl (fun q e => if after e.seq q then e.seq else q) (rd s Reg.TWIN_JSEQ))
    else s
  let s := setBit s Reg.TWIN_STATE 5 (st == 1 || (st == 5 && !s.twin.formerStandby))
  let s := setBit s Reg.TWIN_STATE 6 (st == 3 || (st == 4 && actF s Reg.TWIN_CFG 4 4 == 1 && cause != 4))
  let s := if old == st then s else sendHello s
  showFbc s

/-- Record a cause without a change of state. -/
def setCause (s : State) (cause : Nat) : State := setF s Reg.TWIN_STATE 11 8 cause

/-- End a TWIN_CTRL action with a result (R390). -/
def twinDone (s : State) (result : Nat) : State :=
  setBit (setF s Reg.TWIN_CTRL_STATUS 3 1 result) Reg.TWIN_CTRL_STATUS 0 false

/-- End the action in progress if it is the one named. -/
def twinEnd (s : State) (action result : Nat) : State :=
  if fbit s Reg.TWIN_CTRL_STATUS 0 && fld s Reg.TWIN_CTRL_STATUS 6 4 == action then twinDone s result else s

/-- The resynchronization ends: the token is given up and its time shown (R381). -/
def resyncEnd (s : State) (ok : Bool) : State :=
  if fld s Reg.TWIN_RESYNC_STATUS 2 0 == 0 then s
  else
    let s := wr (wr s Reg.TWIN_RESYNC_STATUS 0) Reg.TWIN_RESYNC_TIME (word ((s.raw - s.twin.resyncRaw) / 1000000))
    let s := maintRel (twinMod s fun t => { t with pages := [], snapshot := [], kept := [], frozen := [], holding := false }) 3
    let s := event s TWIN (if ok then 11 else 12)
    let a := if fld s Reg.TWIN_CTRL_STATUS 6 4 == 4 then 4 else 1
    twinEnd s a (if ok then 1 else 5)

/-- Enter UNFIT with a cause (R356, R384). -/
def unfit (s : State) (cause : Nat) : State :=
  let hour := s.twin.resyncs.filter fun r => s.raw - r < 3600 * 1000000000
  let cause := if cause == 1 && 3 ≤ hour.length then 7 else cause
  let s := resyncEnd s false
  event (setTwin (twinMod s fun t => { t with resyncs := hour, matched := 0 }) 4 cause) TWIN 0 0 cause

/-- A fault of this head puts a standby in UNFIT with cause 6 (R356, R462). -/
def unfitOwn (s : State) : State := if twinSt s == 2 || twinSt s == 3 then unfit s 6 else s

/-- This head has come to lead the ring, or stopped leading it, by ring start: ACTIVE in a pair (R356), or no role.
(DEDUCED, log entry 32) -/
def twinFollowsRing (led : Bool) (s : State) : State :=
  if !s.twin.pair || led == leads s then s
  else if leads s then (if twinSt s == 1 || twinSt s == 5 then s else setTwin s 1 0)
  else if twinSt s == 1 || twinSt s == 5 then setTwin s 0 0
  else s

/-- A received HELLO (R356): the hashes decide; a following head begins to synchronize under an active twin. -/
def takeHello (s : State) (b : List Byte) : State :=
  let same := field b 0 4 == s.twin.cfgSetHash.toNat && field b 4 4 == s.twin.manifestHash.toNat && field b 8 4 == s.ring.cfgHash.toNat
  if !same then
    let s := event (twinMod s fun t => { t with formed := false }) TWIN 4
    if leads s then setCause s 4 else unfit s 4
  else
    let s := twinMod s fun t => { t with formed := true }
    -- on a standby cause 4 stands until a resynchronization is commanded (R380)
    let s := if fld s Reg.TWIN_STATE 11 8 == 4 && leads s then setCause s 0 else s
    if ringSt s == 3 && twinSt s == 0 && fld s Reg.TWIN_STATE 18 16 == 1 then setTwin s 2 0 else s

/-! ### The digest -/

/-- The bytes that the digest of the shuttle just built covers (R369). -/
def digestBytes (s : State) (recs : List (Nat × OutRec)) (xt : Half) : List Byte :=
  (recs.map fun r => r.2.bytes).flatten ++ leBytes 2 xt.toNat ++
    ((List.range 32).map fun k => ((s.fbc.scheduledPrev.filter fun f => f.1 == k).map fun f =>
      [BitVec.ofNat 8 f.1, BitVec.ofNat 8 f.2.1] ++ leBytes 8 (unsg 64 f.2.2)).flatten).flatten ++
    leBytes 2 (fioCommanded s)

/-- The digest of this cycle's shuttle is noted. -/
def noteDigest (s : State) (d : Nat) : State :=
  let s := wr64 s Reg.TWIN_DIGEST_LO d
  twinMod s fun t => { t with digests := ((s.cyc.count.toNat, d) :: t.digests).take 4 }

/-- The own digest of a cycle is compared with the twin's (R370, R377, R381). -/
def compareDigest (s : State) (n : Word) (theirs : Nat) : State :=
  match s.twin.digests.find? fun d => d.1 == n.toNat with
  | none => s
  | some (_, d) =>
    let s := wr64 s Reg.TWIN_PEER_DIGEST_LO theirs
    if d == theirs then twinMod s fun t => { t with matched := t.matched + 1 }
    else
      let s := event (wr (twinMod s fun t => { t with matched := 0 }) Reg.TWIN_DIVERGE_CYCLE n) TWIN 1
      match twinSt s with
      | 2 => if fld s Reg.TWIN_RESYNC_STATUS 2 0 == 5 then unfit s 5 else s
      | 3 => unfit s 1
      | 5 => if s.twin.formerStandby then setCause s 1 else s
      | _ => s

/-! ### The journal -/

/-- The bytes of an entry (R365), padded to a multiple of 4. -/
def JEntry.bytes (e : JEntry) : List Byte :=
  leBytes 4 e.seq.toNat ++ leBytes 4 e.cycle.toNat ++ [BitVec.ofNat 8 e.kind, BitVec.ofNat 8 e.source] ++ leBytes 2 e.data.length ++
    leBytes 4 e.target.toNat ++ padMul 4 e.data

/-- The entries of a byte string. -/
def parseEntries : Nat → List Byte → List JEntry
  | 0, _ => []
  | n + 1, bs =>
    let len := field bs 10 2
    if bs.length < 16 + len then []
    else
      { seq := word (field bs 0 4), cycle := word (field bs 4 4), kind := byteAt bs 8, source := byteAt bs 9,
        target := word (field bs 12 4), data := slice bs 16 len } :: parseEntries n (bs.drop (16 + ceilDiv len 4 * 4))

/-- Journal bytes per cycle and journal lead in force. -/
def jourMax (s : State) : Nat := actF s Reg.TWIN_CFG 15 8 * 64
def jourLead (s : State) : Nat := actF s Reg.TWIN_CFG 3 0

/-- The entries of a write (R365, R367): chunks of at most 4,096 bytes and of at most jour_max - 16. -/
def splitWrite (s : State) (w : JWrite) : List JEntry :=
  let c := min 4096 (jourMax s - 16) / 4 * 4
  (List.range (ceilDiv w.data.length c)).map fun i =>
    { kind := w.kind, source := w.source, target := word (w.target.toNat + c * i), data := slice w.data (c * i) c }

/-- The number of further cycles that a list of entries takes beyond this one, with the room left in this one (R367).
(DEDUCED, log entry 85) -/
def moreCycles (cap : Nat) : Nat → List JEntry → Nat
  | _, [] => 0
  | room, e :: es =>
    let n := e.bytes.length
    if n ≤ room then moreCycles cap (room - n) es else 1 + moreCycles cap (cap - n) es

/-- The highest number, modulo 2^32, up to which a list of entries has no gap from a number on (R21). -/
def heldTo (es : List JEntry) : Nat → Nat → Nat
  | 0, n => n
  | k + 1, n =>
    let m := (n + 1) % 2 ^ 32
    if es.any fun e => e.seq.toNat == m then heldTo es k m else n

/-- Show the journal's registers. -/
def showJournal (s : State) : State :=
  wr s Reg.TWIN_JOURNAL_LEVEL (word (s.twin.entries.foldl (fun n e => n + e.bytes.length) 0))

/-- The active stamps no entry with apply_cycle s or later before a swap (R386). (DEDUCED, log entry 68) -/
def swapHolds (s : State) : Bool :=
  s.twin.action == 1 && s.twin.acked && (s.twin.actionCycle - s.cyc.count).toNat ≤ jourLead s

/-- One entry is stamped (R364). -/
def stampOne (s : State) (e : JEntry) : State × JEntry :=
  let q := rd s Reg.TWIN_JSEQ + 1
  let e := { e with seq := q }
  (showJournal (twinMod (wr s Reg.TWIN_JSEQ q) fun t =>
    { t with entries := t.entries ++ [e], cycleEntries := t.cycleEntries ++ [e], room := t.room - e.bytes.length }), e)

/-- Stamp the entries that fit this cycle (R366, R367): their JOURNAL frame, and the entries left. -/
def stampFit (s : State) (es : List JEntry) : State × List JEntry :=
  let r := es.foldl (fun (p : State × List JEntry × List JEntry) e =>
    if p.2.2.isEmpty && e.bytes.length ≤ p.1.twin.room then
      let x := stampOne p.1 e
      (x.1, p.2.1 ++ [x.2], [])
    else (p.1, p.2.1, p.2.2 ++ [e])) (s, [], [])
  let s := if r.2.1.isEmpty then r.1 else sendTwin r.1 0x24 ((r.2.1.map JEntry.bytes).flatten)
  (s, r.2.2)

/-- The writes of a request are stamped with a cycle m: they land in m - 1 (R516). -/
def landed (s : State) (req : Option Nat) (m : Word) : State :=
  match req with
  | none => s
  | some id => { s with host := { s.host with
      waiting := s.host.waiting.map fun w => if w.id == id then { w with land := m - 1 } else w } }

/-- The write at the front of the held ones is stamped as far as room goes. True when it is done. -/
def stampFront (s : State) (h : Held) : State × Held :=
  let es :=
    if h.rest.isEmpty then
      let es := (h.writes.map (splitWrite s)).flatten
      let m := s.cyc.count + word (moreCycles (jourMax s) s.twin.room es) + word (jourLead s)
      es.map fun e => { e with cycle := m }
    else h.rest
  let r := stampFit s es
  let s := if r.2.isEmpty then landed r.1 h.req ((es.head?.map (·.cycle)).getD s.cyc.count) else r.1
  (s, { h with writes := [], rest := r.2 })

/-- Stamp held writes in their order while they fit (R367). (DEDUCED, log entry 68) -/
def stampHeld : Nat → State → State
  | 0, s => s
  | n + 1, s =>
    match s.twin.held with
    | [] => s
    | h :: hs =>
      if swapHolds s then s else
      let fits := (h.writes.map (splitWrite s)).flatten.foldl (fun n e => n + e.bytes.length) 0 ≤ s.twin.room
      -- a write not yet begun, that does not fit the room left, begins with the next cycle
      if h.rest.isEmpty && !fits && s.twin.room < jourMax s then s
      else
        let r := stampFront s h
        if r.2.rest.isEmpty then stampHeld n (twinMod r.1 fun t => { t with held := hs })
        else twinMod r.1 fun t => { t with held := r.2 :: hs }

/-- Writes that land together are stamped together (R364, R367). -/
def stampWrites (s : State) (ws : List JWrite) (req : Option Nat) : State :=
  let s := twinMod s fun t => { t with held := t.held ++ [{ writes := ws, req := req }] }
  stampHeld s.twin.held.length s

/-- The head holds the journal of a pair (R364). -/
def stamps (s : State) : Bool := s.twin.pair && fbit s Reg.TWIN_STATE 5

/-- Entries received by the standby are kept once, in order of their numbers (R366). -/
def keepEntries (s : State) (es : List JEntry) : State :=
  let all := es.foldl (fun l e => if l.any (fun x : JEntry => x.seq == e.seq) then l else l ++ [e]) s.twin.entries
  let hi := heldTo all all.length s.twin.ackHi
  showJournal (twinMod s fun t => { t with entries := all, ackHi := hi })

/-- A received JOURNAL frame (R366). -/
def takeJournal (s : State) (b : List Byte) : State := if mirrors s then keepEntries s (parseEntries b.length b) else s

/-! ### The frames of a cycle -/

/-- A bit per axis. -/
def axisMask (l : List Nat) : List Byte :=
  (List.range 32).map fun i => BitVec.ofNat 8 ((List.range 8).foldl (fun n j => n + flag (l.contains (8 * i + j)) * 2 ^ j) 0)

/-- The axes of a mask. -/
def maskAxes (b : List Byte) : List Nat := (List.range 256).filter fun a => bit (byteAt b (a / 8)) (a % 8)

/-- One channel as CYCLE_A and the tail of RETURN carry it (R355): captured says that its value was captured at L(n) (R312). (DEDUCED, log
entry 31) -/
def encEntry (s : State) (c : Nat) : List Byte :=
  let x := encoder s c
  leBytes 6 (unsg 48 (x.latched + x.ofs)) ++
    [BitVec.ofNat 8 (flag (fbit s (Reg.FBC_ENC_STATUS c) 0) + 2 * flag (encMode s c != 0 && x.age == 0)), 0]

/-- The local events that CYCLE_A carries: classes 1, 3, 4 and 5 of the cycle before (R355), 32 at most. -/
def localEvents (s : State) : List AcqEvent := (s.evtsPrev.filter fun e => [1, 3, 4, 5].contains e.cls).take 32

/-- Send CYCLE_A (R355). -/
def sendCycleA (s : State) : State :=
  let t := s.twin
  let evs := localEvents s
  let body := leBytes 8 (rd64 s Reg.TWIN_DIGEST_LO) ++ axisMask t.missed ++ axisMask t.kind3Lost ++
    leBytes 4 (rd s Reg.FIO_IN_STATE).toNat ++ ((List.range 8).map (encEntry s)).flatten ++ [BitVec.ofNat 8 t.action, 0, 0, 0] ++
    leBytes 4 t.actionCycle.toNat ++ leBytes 4 t.seqHi ++ leBytes 2 evs.length ++ leBytes 2 t.prevEntries.length ++
    (evs.map fun e => [BitVec.ofNat 8 e.cls, BitVec.ofNat 8 e.index, 0, 0] ++ leBytes 4 (unsg 32 e.ns)).flatten ++
    (t.prevEntries.map JEntry.bytes).flatten
  sendTwin (twinMod s fun t => { t with kind3Lost := [] }) 0x21 body

/-- Send CYCLE_S (R355): the digest of the shuttle before. -/
def sendCycleS (s : State) : State :=
  let t := s.twin
  let d := match t.digests.find? fun d => d.1 == (s.cyc.count - 1).toNat with | some d => d.2 | none => 0
  sendTwin s 0x22 (leBytes 8 d ++ leBytes 4 t.ackHi ++ [BitVec.ofNat 8 t.ackSend, 0, 0, 0] ++ leBytes 4 t.ackCycle.toNat ++
    leBytes 4 (rd s Reg.FIO_IN_STATE).toNat)

/-- Show the pages still to send (R390). -/
def showPages (s : State) : State := setF s Reg.TWIN_RESYNC_STATUS 31 8 (s.twin.pages.length + s.twin.frozen.length)

/-- The next part of a resynchronization goes out in a SYNC frame (R381, DESIGN CHOICE, log entry 51): the Bolt address and 4 KB of a page,
of those that L(c) left first; then snapshot data under the address of all ones. -/
def sendPage (s : State) : State :=
  match s.twin.frozen, s.twin.pages, s.twin.snapshot with
  | (p, b) :: ps, _, _ => showPages (twinMod (sendTwin s 0x25 (leBytes 4 (4096 * p) ++ b)) fun t => { t with frozen := ps })
  | [], p :: ps, _ =>
    showPages (twinMod (sendTwin s 0x25 (leBytes 4 (4096 * p) ++ readMem s .bolt (4096 * p) 4096)) fun t => { t with pages := ps })
  | [], [], [] => s
  | [], [], bs => twinMod (sendTwin s 0x25 (leBytes 4 0xFFFFFFFF ++ bs.take 4096)) fun t => { t with snapshot := bs.drop 4096 }

/-- A standby keeps the frames of the cycles from c on for its replay (R381). -/
def keepFrame (s : State) (b : List Byte) : State :=
  let p := fld s Reg.TWIN_RESYNC_STATUS 2 0
  if twinSt s == 2 && 3 ≤ p && p < 5 then twinMod s fun t => { t with kept := t.kept ++ [b] } else s

/-- The active's value of a channel as an entry gives it (R314, R361): one that was not captured in its cycle keeps the age that the latch
instant has raised (R312). -/
def takeEnc (s : State) (c : Nat) (e : List Byte) : State :=
  let x := encoder s c
  let age := if bit (byteAt e 6) 1 then 0 else (x.act.map (·.2.2)).getD 7
  setEncoder s c { x with act := some (sgn 48 (field e 0 6), bit (byteAt e 6) 0, age) }

/-- The frames of a cycle at L(n) + t_lead (R353). -/
def twinCycleSend (s : State) : State :=
  if !s.twin.pair then s
  else if fbit s Reg.TWIN_STATE 5 then sendPage (sendCycleA s)
  else if 2 ≤ twinSt s then sendCycleS s
  else s

/-- What a standby answers to an announced action (R379, R386, R476, R502): whether it acknowledges. -/
def actionGrant (s : State) (action : Nat) (activateOk : Bool) : Bool × State :=
  match action with
  | 1 => if twinSt s == 3 then maintReq s 2 else (false, s)
  | 2 => if twinSt s == 5 then maintReq s 4 else (false, s)
  | 3 => (twinSt s == 2, s)
  | 4 => (activateOk, s)
  | _ => (false, s)

/-- A standby needs the journal from the snapshot on (R381): until then what it has not received lies in the copy. -/
def journalNew (s : State) : Bool := twinSt s == 2 && fld s Reg.TWIN_RESYNC_STATUS 2 0 < 3

/-- A received CYCLE_A at the other head (R355, R361, R362, R366). The digest is compared once the own one is computed.
(DEDUCED, log entry 31) -/
def takeCycleA (s : State) (b : List Byte) (activateOk : Bool) : State :=
  if !mirrors s then s
  else
    let nEvt := field b 152 2
    let evs := (List.range nEvt).map fun i => slice b (156 + 8 * i) 8
    let s := twinMod s fun t => { t with cycleA := some b, missed := maskAxes (slice b 8 32) ++ maskAxes (slice b 40 32)
                                         fieldIn := word (field b 72 4) }
    let s := (List.range 8).foldl (fun s c =>
      if encMode s c == 2 then s else takeEnc s c (slice b (76 + 8 * c) 8)) s
    let s := evs.foldl (fun s e =>
      let x := mkEvent s (byteAt e 0) (byteAt e 1) (s.cyc.count - 1) (latchNs s - s.cyc.past * 125) (sgn 32 (field e 4 4)) false
      { s with acq := { s.acq with left := s.acq.left ++ [x] } }) s
    let s := keepEntries (keepFrame s b) (parseEntries b.length (b.drop (156 + 8 * nEvt)))
    let act := byteAt b 140
    let cyc := word (field b 144 4)
    let s :=
      if act == 0 then (if s.twin.ackSend == 4 then twinMod s fun t => { t with ackSend := 0 } else s)
      else if act == s.twin.ackSend && cyc == s.twin.ackCycle then s
      else
        let g := actionGrant s act activateOk
        if g.1 then
          let s := twinMod g.2 fun t => { t with ackSend := act, ackCycle := cyc }
          if act == 3 then setF s Reg.TWIN_RESYNC_STATUS 2 0 3 else s
        else g.2
    if journalNew s then twinMod s fun t => { t with ackHi := field b 148 4 }
    else if after (word (field b 148 4)) (word s.twin.ackHi) && twinSt s != 4 then
      let s := event (twinMod s fun t => { t with skip := true }) TWIN 2
      if twinSt s == 5 then setCause s 2 else unfit s 2
    else s

/-- The inputs that the motion pipeline reads (R388): the sources of limit switches. -/
def motionInputBits (s : State) : List Nat :=
  ((List.range 256).map fun a =>
    let c := par s a 10
    (if wbits c 1 0 == 1 then [wbits c 6 2] else []) ++ (if wbits c 9 8 == 1 then [wbits c 14 10] else [])).flatten

/-- A received CYCLE_S at the journal holder (R370, R388). -/
def takeCycleS (s : State) (b : List Byte) (cycle : Word) : State :=
  if !stamps s then s
  else
    let s := compareDigest s (cycle - 1) (field b 0 8)
    let act := byteAt b 12
    let s := twinMod s fun t => { t with ackHi := field b 8 4, gotFirst := true
                                         acked := t.acked || (act != 0 && act == t.action && field b 16 4 == t.actionCycle.toNat) }
    let theirs := word (field b 20 4)
    let mine := rd s Reg.FIO_IN_STATE
    twinMod s fun t => { t with diffSince := (List.range 32).foldl (fun d i =>
      if wbit theirs i == wbit mine i then tput (fun _ => 0) d i 0
      else if tget (fun _ => 0) d i == 0 then tput (fun _ => 0) d i (s.raw + 1) else d) t.diffSince }

/-- A field input for motion has differed for 10 ms (R388). -/
def fieldDiscrepancy (s : State) (i : Nat) : State :=
  let since := tget (fun _ => 0) s.twin.diffSince i
  if since != 0 && 10000000 ≤ s.raw + 1 - since && (motionInputBits s).contains i then event s FIO 5 i else s

/-! ### RETURN -/

/-- Send RETURN of a returned shuttle (R355). -/
def sendReturn (s : State) (bs : List Byte) : State :=
  if !s.twin.pair then s
  else
    let map := (List.range 16).map fun i =>
      BitVec.ofNat 8 ((List.range 8).foldl (fun n j => n + flag (s.ring.subst.contains (8 * i + j)) * 2 ^ j) 0)
    sendTwin s 0x23 (padTo (svcOffset s + 1024 + 28) bs ++ map ++ ((List.range 8).map (encEntry s)).flatten)

/-- Replace each section of a payload by the one that a rule chooses: its position, its offset and length. -/
def choose (s : State) (bs : List Byte) (pick : Section → Nat → Nat → Option (List Byte)) : List Byte :=
  ((carried s).foldl (fun (p : List Byte × Nat) x =>
    let n := sectionLen x
    (match pick x p.2 n with | some b => patch p.1 p.2 b | none => p.1, p.2 + n)) (bs, 64)).1

/-- The payload that a standby uses for a RETURN (R360), and the number of sections repaired. -/
def decideReturn (s : State) (ret : List Byte) : List Byte × Nat :=
  let fate (x : Section) (b : List Byte) (o n : Nat) : Nat := sectionFate x.axes.length (slice b o n)
  let map := slice ret (svcOffset s + 1024 + 28) 16
  let repair (x : Section) (o n : Nat) : Bool :=
    let f := fate x s.ring.forward o n
    fate x ret o n == 2 && !bit (byteAt map (x.position / 8)) (x.position % 8) && (f == 0 || f == 3)
  let bs := choose s ret fun x o n => if repair x o n then some (slice s.ring.forward o n) else none
  (bs, ((carried s).foldl (fun (p : Nat × Nat) x =>
    (p.1 + flag (repair x p.2 (sectionLen x)), p.2 + sectionLen x)) (0, 64)).1)

/-- SSI results of the twin (R361). -/
def takeSsi (s : State) (tail : List Byte) : State :=
  (List.range 8).foldl (fun s c =>
    if encMode s c != 2 then s else takeEnc s c (slice tail (8 * c) 8)) s

/-- A copy of a section was written by its worker. -/
def sectionWritten (x : Section) (b : List Byte) : Bool :=
  !(byteAt b 4 == 0xFF && field b 6 2 == prefillCrc x.axes.length) && 40 + 28 * x.axes.length ≤ b.length

/-- A section as nobody wrote it (R62). -/
def unwritten (x : Section) : List Byte :=
  let n := x.axes.length
  zeros 4 ++ [0xFF, 0xFF] ++ leBytes 2 (prefillCrc n) ++ zeros (16 * n) ++ List.replicate (12 * n) 0xFF ++ zeros 16 ++
    List.replicate 16 0xFF

/-- The payload that both heads use in SPLIT (R377): per section the written copy, or the one launched from end 0; unwritten where
neither head's copy is. (DEDUCED, log entry 29) -/
def decideSplit (s : State) (own their : List Byte) : List Byte :=
  let fromA := !s.ring.farEnd
  let secs := ((carried s).foldl (fun (p : List Byte × Nat) x =>
    let n := sectionLen x
    let a := slice own p.2 n
    let b := slice their p.2 n
    let wa := sectionWritten x a
    let wb := sectionWritten x b
    (p.1 ++ (if wa && (!wb || fromA) then a else if wb then b else unwritten x), p.2 + n)) ([], 64)).1
  padTo 64 (own.take 64) ++ secs ++ own.drop (svcOffset s)

/-! ### Takeover, split service, rejoin, swap -/

/-- The head begins to lead from end 1 (R357): IDLE or RUN as announced, HOLDOVER with the configured source. -/
def leadFromFar (s : State) : State :=
  let s := setTimeSt s 3 false
  let s := { s with time := { s.time with holdRaw := s.raw } }
  enterRing (ringMod s fun r => { r with returned := true }) (if s.cyc.nextIdle then 5 else 6)

/-- Takeover (R373); the cycle that goes on is completed by Latch.lean. (DEDUCED, log entry 32) -/
def takeover (s : State) : State :=
  let was := twinSt s
  let s := leadFromFar (setTwin s 1 0)
  let s := wr (bump s Reg.TWIN_TAKEOVER_CNT) Reg.TWIN_TAKEOVER_CYCLE (s.cyc.count + 1)
  let s := twinMod s fun t => { t with takenOver := true, formed := false }
  let s := event s TWIN 5
  if was == 4 then event s TWIN 6 else s

/-- Split service decided by a standby (R376): of the current cycle it has no return of its own. -/
def enterSplit (s : State) : State :=
  let s := twinMod s fun t => { t with formerStandby := true, ownRet := some ([], []) }
  event (leadFromFar (setTwin (bump s Reg.TWIN_SPLIT_CNT) 5 0)) TWIN 8

/-- The active enters SPLIT on the first RETURN of its twin (R376). -/
def activeSplit (s : State) : State :=
  if twinSt s == 1 then event (setTwin (bump s Reg.TWIN_SPLIT_CNT) 5 0) TWIN 8 else s

/-- The decision at A(n) + 1 µs (R372): 0 nothing, 1 split service, 2 takeover. -/
def decision (s : State) (arrived : Bool) : Nat :=
  let st := twinSt s
  let cause := fld s Reg.TWIN_STATE 11 8
  if arrived || ringSt s != 3 then 0
  else if s.twin.cycleA.isSome then (if st == 3 then 1 else 0)
  else if st == 3 || (st == 4 && actF s Reg.TWIN_CFG 4 4 == 1 && cause != 4) then 2
  else 0

/-- The first shuttle after a takeover has returned, or failed to (R375). -/
def takeoverCheck (s : State) (marker : Option Nat) : State :=
  if !s.twin.takenOver then s
  else
    let s := twinMod s fun t => { t with takenOver := false }
    if marker == some 1 then s else regionStop (event s TWIN 7)

/-- The bounds of split service by the markers of the two returns (R376). -/
def splitBound (s : State) (own their : List Byte) : State :=
  let at' := svcOffset s + 1024 + 2
  let a := byteAt (if s.ring.farEnd then their else own) at' % 128
  let b := byteAt (if s.ring.farEnd then own else their) at' % 128
  setF (setF s Reg.TWIN_SPLIT_BOUND 6 0 a) Reg.TWIN_SPLIT_BOUND 14 8 b

/-- The twin link is lost (R356, R378, R381). -/
def twinLinkLost (s : State) (lock : Bool) : State :=
  if !s.twin.pair || (!lock && s.twin.silent < 3) then s
  else
    let s := if lock then setBit s Reg.TWIN_STATE 3 false else s
    let s := setBit (twinMod s fun t => { t with formed := false }) Reg.TWIN_STATE 4 false
    match twinSt s with
    | 5 => event (regionStop (setTwin s 1 0)) TWIN 10
    | 2 =>
      let running := fld s Reg.TWIN_RESYNC_STATUS 2 0 != 0
      unfit (event s TWIN 3) (if running then 5 else 3)
    | 3 => unfit (event s TWIN 3) 3
    | 4 => if fld s Reg.TWIN_STATE 11 8 == 3 then s else event s TWIN 3
    | 1 => let s := resyncEnd s false; if fld s Reg.TWIN_STATE 18 16 == 0 then s else event (setF s Reg.TWIN_STATE 18 16 0) TWIN 3
    | _ => s

/-- The twin link regains block lock (R356). -/
def twinLockGained (s : State) : State :=
  if !s.twin.pair then s
  else
    let s := setBit s Reg.TWIN_STATE 3 true
    let s := if fld s Reg.TWIN_STATE 11 8 == 3 then setCause s 0 else s
    sendHello s

/-- The pages of the copied partitions (R382): segment queues, spools, compare tables and Hem staging. -/
def copiedPages (s : State) : List Nat :=
  ((List.range 96).map fun b =>
    if [0, 1, 2, 4].contains (s.part.getD b 255) then (List.range 256).map fun i => 0x4000 + 256 * b + i else []).flatten

/-- Begin a resynchronization that holds the token (R380, R381). -/
def resyncBegin (s : State) : State :=
  let s := twinMod s fun t => { t with resyncRaw := s.raw, matched := 0, retryRaw := none, snapshot := [], kept := [], frozen := [] }
  let s := wr s Reg.TWIN_RESYNC_STATUS 1
  if twinSt s == 1 then
    let ps := copiedPages s
    setF (twinMod s fun t => { t with pages := ps }) Reg.TWIN_RESYNC_STATUS 31 8 ps.length
  else if twinSt s == 2 then s
  else setTwin s 2 0

/-- A TWIN_CTRL action begins. -/
def twinAction (s : State) (a : Nat) : State := setBit (setF s Reg.TWIN_CTRL_STATUS 6 4 a) Reg.TWIN_CTRL_STATUS 0 true

/-- Resynchronization by command (R380, R390): on a standby that is not in step, or on the active whose twin is not. -/
def resyncCmd (s : State) (action : Nat) : State :=
  let s := twinAction s action
  let other := fld s Reg.TWIN_STATE 18 16
  let may := twinSt s == 2 || twinSt s == 4 || (twinSt s == 1 && (other == 2 || other == 4))
  if !may then twinDone s 2
  else if !s.twin.formed then twinDone s 4
  else
    let m := maintReq s 3
    if m.1 then resyncBegin m.2 else twinDone m.2 3

/-- An automatic resynchronization (R380, R384). -/
def autoResync (s : State) : State :=
  let cause := fld s Reg.TWIN_STATE 11 8
  let linked := fbit s Reg.TWIN_STATE 3 && fbit s Reg.TWIN_STATE 4
  let fromUnfit := twinSt s == 4 && actF s Reg.TWIN_CFG 5 5 == 1 && (cause != 3 || linked) && cause != 4 && cause != 7
  -- a start that the arbiter refused is tried again after 1 s
  let idle := fld s Reg.TWIN_RESYNC_STATUS 2 0 == 0 && s.twin.retryRaw.all fun r => r + 1000000000 ≤ s.raw
  if !idle || !s.twin.formed || !(fromUnfit || twinSt s == 2 || (twinSt s == 1 && fld s Reg.TWIN_STATE 18 16 == 2)) then s
  else
    let m := maintReq s 3
    if !m.1 then twinMod m.2 fun t => { t with retryRaw := some s.raw }
    else
      let s := if cause == 1 then twinMod m.2 fun t => { t with resyncs := s.raw :: t.resyncs } else m.2
      resyncBegin s

/-- A register that a resynchronization copies (R382): what a write leaves in the blocks of R358, but for the encoder counts and twin
offsets of FBC, and a mailbox with receiver 0x40. (DEDUCED, log entry 51) -/
def copiedReg (s : State) (a : Nat) : Bool :=
  match regAt a with
  | none => false
  | some (r, i, _) =>
    let blk := a / 0x100000 % 16
    if blk == MBX then r.off < 0x400 && mbxTask s i else r.acc == .rw && [SYS, RING, PROF, LOOP, HEM, SCHED, FBC, ACQ, FIO].contains blk

/-- The engine state that the active captures (R381, R382). (DESIGN CHOICE, log entry 51) -/
def captureEngine (s : State) : Engine :=
  { regs := s.regs.filter fun e => copiedReg s e.1
    act := s.act.filter fun e => copiedReg s e.1
    prof := s.prof
    loop := s.loop
    hem := s.hem
    sched := s.sched
    full := s.mbx.full.filter (mbxTask s)
    cmp := s.fbc.cmp
    fires := s.fbc.fires
    pulses := s.fbc.pulses
    pins := s.fbc.pins
    acq := s.acq }

/-- A standby takes a captured engine state, and rewrites its retention entries from it (R381). (DESIGN CHOICE, log entry 51) -/
def loadEngine (s : State) (e : Engine) : State :=
  let merge (own copy : Table Word) : Table Word :=
    copy.foldl (fun t x => tins t x.1 x.2) (own.filter fun x => !copiedReg s x.1)
  let s := { s with
    regs := merge s.regs e.regs
    act := merge s.act e.act
    prof := e.prof
    loop := e.loop
    hem := e.hem
    sched := e.sched
    mbx := { s.mbx with full := (s.mbx.full.filter fun m => !mbxTask s m) ++ e.full }
    fbc := { s.fbc with cmp := e.cmp, fires := e.fires, pulses := e.pulses, pins := e.pins }
    acq := e.acq }
  (List.range 256).foldl retain s

/-- At L(c) the active holds Hem dispatch and keeps the pages that are still dirty; once no task runs it captures the engine state
(R381). (DESIGN CHOICE, log entry 51) -/
def resyncCapture (s : State) : State :=
  let s :=
    if s.twin.action == 3 && s.twin.acked && s.twin.actionCycle == s.cyc.count then
      let keep := s.twin.pages.map fun p => (p, readMem s .bolt (4096 * p) 4096)
      showPages (twinMod s fun t => { t with frozen := keep, pages := [], holding := true, action := 0 })
    else s
  if s.twin.holding && (List.range 16).all fun c => !(hemCore s c).running then
    twinMod s fun t => { t with holding := false, snapshot := Config.snapshotBytes (captureEngine s) }
  else s

/-- A phase of a resynchronization completes (R381): the snapshot is announced 16 cycles ahead (DESIGN CHOICE, log entry 51). -/
def resyncPhase (s : State) : State :=
  let p := fld s Reg.TWIN_RESYNC_STATUS 2 0
  let next (s : State) : State := setF s Reg.TWIN_RESYNC_STATUS 2 0 (p + 1)
  let t := s.twin
  match p with
  | 0 => s
  | 1 => if t.pages.isEmpty then next s else s
  | 2 =>
    if 1024 < t.pages.length then s
    else if twinSt s == 1 then next (twinMod s fun t => { t with action := 3, actionCycle := s.cyc.count + 16, acked := false })
    else next s
  | 3 =>
    if twinSt s == 1 && (t.action == 3 || t.holding || !t.frozen.isEmpty || !t.pages.isEmpty || !t.snapshot.isEmpty) then s else next s
  | 4 =>
    let s := if twinSt s == 2 then (match Config.snapshotEngine t.snapshot t.kept with | some e => loadEngine s e | none => s) else s
    next (twinMod s fun t => { t with matched := 0, kept := [] })
  | _ =>
    if t.matched < 32 then s
    else
      let s := resyncEnd s true
      if twinSt s == 2 then setTwin s 3 0 else s

/-- A resynchronization has run 2 s (R381). -/
def resyncTimeout (s : State) : State :=
  if fld s Reg.TWIN_RESYNC_STATUS 2 0 != 0 && 2000000000 ≤ s.raw - s.twin.resyncRaw then
    (if twinSt s == 2 then unfit s 5 else resyncEnd s false)
  else s

/-- A received SYNC frame (R381, DESIGN CHOICE, log entry 51): a page of Bolt, or snapshot data under the address of all ones. -/
def takeSync (s : State) (b : List Byte) : State :=
  if twinSt s != 2 then s
  else if field b 0 4 == 0xFFFFFFFF then twinMod s fun t => { t with snapshot := t.snapshot ++ b.drop 4 }
  else writeMem s .bolt (field b 0 4) (b.drop 4)

/-- A page of a copied partition is written after it was sent (R381): it is dirty. -/
def dirty (s : State) (a n : Nat) : State :=
  let p := fld s Reg.TWIN_RESYNC_STATUS 2 0
  if twinSt s != 1 || p == 0 || 3 < p || (p == 3 && (s.twin.holding || s.twin.action != 3)) then s
  else
    let ps := (List.range (n / 4096 + 2)).map fun i => a / 4096 + i
    let ps := ps.filter fun p => 4096 * p < a + n && !s.twin.pages.contains p && (copiedPages s).contains p
    setF (twinMod s fun t => { t with pages := t.pages ++ ps }) Reg.TWIN_RESYNC_STATUS 31 8 (s.twin.pages.length + ps.length)

/-- A planned swap by command (R386). -/
def swapCmd (s : State) : State :=
  let s := twinAction s 2
  if twinSt s != 1 || fld s Reg.TWIN_STATE 18 16 != 3 then twinDone s 2
  else if s.twin.matched < 1024 then twinDone s 4
  else
    let m := maintReq s 2
    if m.1 then twinMod m.2 fun t => { t with action := 1, actionCycle := s.cyc.count + 16, acked := false }
    else twinDone m.2 3

/-- The conditions of a rejoin on the head that holds the journal (R379). -/
def rejoinReady (s : State) : Bool :=
  twinSt s == 5 && fld s Reg.TWIN_STATE 18 16 == 5 && fbit s Reg.TWIN_STATE 5 && fld s Reg.TWIN_STATE 11 8 == 0 &&
    1024 ≤ s.twin.matched && !s.ring.lineLost && 10000000 ≤ s.raw - s.ring.lockRaw

/-- Announce a rejoin. -/
def rejoinStart (s : State) : State :=
  twinMod s fun t => { t with action := 2, actionCycle := s.cyc.count + 16, acked := false, rejoinRaw := none }

/-- A rejoin by command (R379). -/
def rejoinCmd (s : State) : State :=
  let s := twinAction s 3
  if twinSt s != 5 || !fbit s Reg.TWIN_STATE 5 then twinDone s 2
  else if rejoinReady s then rejoinStart s
  else twinDone s 4

/-- Automatic rejoin once its conditions have held for 100 ms (R379). -/
def autoRejoin (s : State) : State :=
  match s.twin.rejoinRaw with
  | some r =>
    if actF s Reg.TWIN_CFG 6 6 == 1 && s.twin.action == 0 && rejoinReady s && 100000000 ≤ s.raw - r then rejoinStart s else s
  | none => s

/-- Release (R384): cause 7 and the count are cleared, and a resynchronization starts. -/
def releaseCmd (s : State) : State :=
  let s := twinMod s fun t => { t with resyncs := [] }
  resyncCmd (if fld s Reg.TWIN_STATE 11 8 == 7 then setCause s 0 else s) 4

/-- A write of TWIN_CTRL as it lands (R390, DESIGN CHOICE, log entry 52): the highest bit set acts; ignored while busy. -/
def landTwinCtrl (s : State) (v : Word) : State :=
  let s := okBus s
  if fbit s Reg.TWIN_CTRL_STATUS 0 then s
  else if wbit v 3 then releaseCmd s
  else if wbit v 2 then rejoinCmd s
  else if wbit v 1 then swapCmd s
  else if wbit v 0 then resyncCmd s 1
  else s

/-- A swap or rejoin is cancelled (R379, R386). -/
def cancelAction (s : State) : State :=
  let a := s.twin.action
  let s := twinMod s fun t => { t with action := 0, acked := false }
  if a == 1 then twinEnd (event (maintRel s 2) TWIN 14) 2 5
  else if a == 2 then twinEnd s 3 5
  else s

/-- No acknowledgement by cycle s - 8 or r - 8 (R379, R386). -/
def ackTimeout (s : State) : State :=
  if (s.twin.action == 1 || s.twin.action == 2) && !s.twin.acked && (s.twin.actionCycle - s.cyc.count).toNat ≤ 8 then cancelAction s
  else s

/-- The roles change at L(s) of a planned swap, and at the first latch instant of a rejoin (R379, R386). (DEDUCED, log entry 68) -/
def roleChange (s : State) : State :=
  let n := s.cyc.count
  let t := s.twin
  let follow (s : State) : State :=
    enterRing (ringMod s fun r => { r with leader := s.twin.twinSerial, ahead := none, synced := true }) 3
  if t.action == 1 && t.acked && t.actionCycle == n then
    let s := twinMod s fun t => { t with action := 0, acked := false }
    event (twinEnd (maintRel (setTwin (follow s) 3 0) 2) 2 1) TWIN 13
  else if t.ackSend == 1 && t.ackCycle == n then
    let s := twinMod s fun t => { t with ackSend := 0 }
    event (maintRel (leadFromFar (setTwin s 1 0)) 2) TWIN 13
  else if t.action == 2 && t.acked && t.actionCycle == n then
    let s := twinMod s fun t => { t with action := 0, acked := false }
    wantRecal (twinEnd (event (setTwin s 1 0) TWIN 9) 3 1)
  else if t.ackSend == 2 && t.ackCycle == n then
    let s := twinMod s fun t => { t with ackSend := 0 }
    event (maintRel (setTwin (follow s) 3 0) 4) TWIN 9
  else s

/-- The head sends REJOIN behind shuttle r - 1 (R379). -/
def rejoinBehind (s : State) : State :=
  let t := s.twin
  let due := (t.action == 2 && t.acked && t.actionCycle == s.cyc.count + 1) || (t.ackSend == 2 && t.ackCycle == s.cyc.count + 1)
  if due then sendRejoin s [s.ring.breakPos % 128] else s

/-- A TWIN commit as it lands. -/
def landTwinCommit (s : State) (v : Word) : State :=
  if wbit v 0 then okBus (setBit s Reg.TWIN_BASTE_STATUS 0 true) else okBus s

/-- The commit point of a pending TWIN commit (R390). -/
def applyTwin (s : State) : State :=
  if !fbit s Reg.TWIN_BASTE_STATUS 0 then s
  else
    let lead := fld s Reg.TWIN_CFG 3 0
    let r :=
      if lead < 2 || fld s Reg.TWIN_CFG 15 8 < 16 then 2
      else if lead != jourLead s && rd s Reg.TWIN_JOURNAL_LEVEL != 0 then 3
      else 1
    let s := setF (setBit s Reg.TWIN_BASTE_STATUS 0 false) Reg.TWIN_BASTE_STATUS 3 1 r
    if r == 1 then applyBaste s [Reg.TWIN_CFG] else s

/-- The frames of the cycle that ends here which did not come (R366, R370). (DEDUCED, log entry 85) -/
def twinMissed (s : State) : State :=
  if !s.twin.pair then s
  else
    let lost := s.twin.formed && (if stamps s then !s.twin.gotFirst else mirrors s && s.twin.cycleA.isNone)
    let s := if lost then bump s Reg.TWIN_DIGEST_MISS_CNT else s
    if lost && (twinSt s == 3 || (twinSt s == 2 && !journalNew s)) && !s.ring.forward.isEmpty then
      unfit (event (twinMod s fun t => { t with skip := true }) TWIN 2) 2
    else s

/-- The twin's part of a latch instant: the stamps of the cycle gone by, the room of the new one, the frames awaited.
(DEDUCED, log entry 28) (DEDUCED, log entry 85) -/
def twinLatch (s : State) : State :=
  if !s.twin.pair then s
  else
    let s := twinMod s fun t => { t with
      prevEntries := t.cycleEntries, cycleEntries := [], seqHi := (rd s Reg.TWIN_JSEQ).toNat, room := jourMax s, silent := t.silent + 1
      cycleA := none, gotFirst := false, missed := [], ownRet := none, twinRet := none
      rejoinRaw := if rejoinReady s then (match t.rejoinRaw with | none => some s.raw | r => r) else none }
    let s := if 3 ≤ s.twin.silent then setBit s Reg.TWIN_STATE 4 false else s
    let s := { s with fbc := { s.fbc with enc := s.fbc.enc.map fun e =>
      (e.1, { e.2 with act := e.2.act.map fun a => (a.1, a.2.1, min 7 (a.2.2 + 1)) }) } }
    stampHeld s.twin.held.length s

/-- A datagram on the Selvedge port (R408, R422): one that does not match is discarded; the journal holder of a pair journals its PDU,
and the other head only counts it. -/
def datagram (s : State) (ip port : Nat) (b : List Byte) : State :=
  let h := byteAt b 2
  let c := 126 + h
  let x := conn s c
  let p := b.drop 8
  if s.pwr.off.contains .host || b.length != 24 || byteAt b 0 != 0x10 || 8 ≤ h || !x.named || x.peerIp != ip || x.peerPort != port then s
  else if !holdsJournal s then setConn s c { x with old := x.old + 1 }
  else if !s.twin.pair then connReceive s c p
  else if x.off || connSt s c == 0 || islandSt s != 1 then s
  else if !pduOk x.ident p then connBadCrc s c
  else stampWrites s [{ kind := 1, target := word (Reg.SAFE_HC_RX h 0), data := p }] none

/-- The islands compare outbound PDUs at the forward end (R421). (DEDUCED, log entry 40) -/
def selvedgeCompare (s : State) (bs : List Byte) : State :=
  if twinSt s != 3 then s
  else
    let bad := (carried s).foldl (fun (p : List Nat × Nat) x =>
      let n := x.axes.length
      let mine := padTo 16 (tget (fun _ => []) s.ring.pdus x.position)
      (if x.pdu && slice bs (p.2 + 8 + 28 * n) 16 != mine then p.1 ++ [x.position] else p.1, p.2 + sectionLen x)) ([], 64)
    match bad.1 with
    | [] => s
    | p :: _ => unfit (event s SAFE 10 (p - 1)) 1

end Sys2Proof.Machine
end

