-- ==== Sys2Proof/Machine/Faults.lean ====
section
/-! DEFINITION. The escalation ladder, block reset, region stop, fault injection, ALIVE, temperatures, the power governor and the
maintenance arbiter (14_faults_power_maintenance.md). -/

namespace Sys2Proof.Machine

/-- Change the fault record. -/
def fltMod (s : State) (f : Faults → Faults) : State := { s with flt := f s.flt }

/-! ### Rung 1: cell disable -/

/-- Whether a cell of a block is out of service (R459). (DEDUCED, log entry 41) -/
def cellOff (s : State) (blk k : Nat) : Bool := s.flt.cellsOff.contains (blk, k)

/-- Disarm a compare channel: scheduled actions are cancelled (R327, R459). -/
def cmpOff (s : State) (k : Nat) : State :=
  let s := setCompare s k { compare s k with armed := false, entry := none, back := none, later := none }
  showFbc { s with fbc := { s.fbc with fires := s.fbc.fires.filter fun f => f.chan != k } }

/-- Take a cell out of service (R459). -/
def cellDisable (s : State) (blk k : Nat) : State :=
  let s := if cellOff s blk k then s else fltMod s fun f => { f with cellsOff := (blk, k) :: f.cellsOff }
  match blk with
  | 4 => ((enabledAxes s).filter fun a => a % 16 == k).foldl (fun s a => request s (.disable a)) s
  | 5 => landCoreCtrl s k 0
  | 8 => if k < 8 then encFault s k false else cmpOff s (k - 16)
  | 9 => if spBusy s k then spoolStop s k else s
  | 11 => setConnSt (setConn s k { conn s k with off := true }) k 0
  | 12 => applyOutputs s
  | _ => s

/-! ### Rung 2: block reset -/

/-- The commit status register of a block, with its pending bits: hi:lo. -/
def pendingBits : Nat → List (Nat × Nat × Nat)
  | 1 => [(Reg.RING_BASTE_STATUS, 0, 0), (Reg.RING_CTRL_STATUS, 0, 0)]
  | 2 => [(Reg.TIME_BASTE_STATUS, 0, 0)]
  | 4 => [(Reg.LOOP_BASTE_STATUS, 15, 0), (Reg.LOOP_BANK_STATUS, 15, 0)]
  | 5 => [(Reg.HEM_BASTE_STATUS, 0, 0)]
  | 6 => [(Reg.SCHED_BASTE_STATUS, 0, 0)]
  | 8 => [(Reg.FBC_BASTE_STATUS, 0, 0)]
  | 9 => [(Reg.ACQ_BASTE_STATUS, 0, 0)]
  | 10 => [(Reg.TWIN_BASTE_STATUS, 0, 0), (Reg.TWIN_CTRL_STATUS, 0, 0)]
  | 12 => [(Reg.FIO_BASTE_STATUS, 0, 0)]
  | _ => []

/-- A register is a counter of a block: its access is RC. (DEDUCED, log entry 69) -/
def isCounter (blk a : Nat) : Bool :=
  (a - 0x20000000) / 0x100000 == blk &&
    match regAt a with
    | some (r, _, _) => r.acc == .rc
    | none => false

/-- The counters of a block cleared. (DEDUCED, log entry 69) -/
def clearCounters (s : State) (blk : Nat) : State := { s with regs := s.regs.filter fun e => !isCounter blk e.1 }

/-- Service requests that have no slot yet end as failures (R80, R462). -/
def dropQueue (s : State) : State :=
  ringMod s fun r => { r with queue := [], done := r.done ++ r.queue.filterMap fun q =>
    match q.origin with
    | .fetch _ => none
    | .none => none
    | o => some ⟨o, q.target, q.code, 0x100, []⟩ }

/-- The volatile state of a block cleared: queues, work in flight, pending commits and commands (R462). The firmware cores belong to the
subsystem of SCHED (R18) and are held in reset with it: their locks are released (R297; DEDUCED, log entry 33). (DEDUCED, log entry 36)
(DEDUCED, log entry 69) -/
def clearVolatile (s : State) (blk : Nat) : State :=
  match blk with
  | 1 =>
    let s := dropQueue (svcReset s)
    let s := if s.ring.recal.isSome then maintRel s 4 else s
    ringMod s fun r => { r with recal := none, recalWanted := false, xt := 0, xtStamp := none, wmbx := [] }
  | 2 =>
    timeResetStart { s with time := { s.time with stepWritten := false, carried := none, tq := [], pdelay := [] } }
  | 3 =>
    let s := if fbit s Reg.PROF_CMD_STATUS 0 then cmdDone s 12 else s
    let s := if fbit s Reg.PROF_BASTE_STATUS 0 then setBit (setF s Reg.PROF_BASTE_STATUS 3 1 6) Reg.PROF_BASTE_STATUS 0 false
      else s
    let s := (streaming s).foldl groupEnd s
    { s with prof := { s.prof with cmd := none, commit := none, requests := [] } }
  | 4 =>
    let s := [0, 1, 2, 3].foldl (fun s i =>
      if fld s (Reg.LOOP_INJ_STATUS i) 1 0 != 3 then setF s (Reg.LOOP_INJ_STATUS i) 1 0 0 else s) s
    let s := ringMod s fun r => { r with waiting := [], late := [] }
    { s with loop := { s.loop with ops := [], inj := [], results := [], axes := s.loop.axes.map fun x =>
      (x.1, { x.2 with hem := none }) } }
  | 5 =>
    let s := (runningTasks s).foldl (fun s t => if taskFw s t then s else taskEnded s t) s
    { s with hem := { s.hem with patch := none, cores := s.hem.cores.map fun c =>
      (c.1, { c.2 with bank0 := {}, bank1 := {}, active := false, running := false, held := false, prepared := false,
                       posts := [], ended := [], offline := !fbit s (Reg.HEM_CORE_CTRL c.1) 0 }) } }
  | 6 =>
    let s := (runningTasks s).foldl (fun s t => if taskFw s t then taskEnded s t else s) s
    let tasks := s.sched.tasks.filterMap fun t =>
      if t.2.running.isSome || t.2.last.isSome then some (t.1, { ({} : Task) with running := t.2.running, last := t.2.last }) else none
    let s := (List.range 8).foldl (fun s c => releaseLocks s (0x10 + c)) s
    showDelays { s with sched := { s.sched with
      ports := [], stalled := [], delays := [], tasks := tasks, fwTasks := [], fwReset := List.range 8 } }
  | 7 =>
    let s := { s with mbx := { s.mbx with full := [], stalled := [], filled := [], queues := [] } }
    wr (wr s Reg.MBX_FULL_LO 0) (Reg.MBX_FULL_LO + 4) 0
  | 8 =>
    let s := (List.range 16).foldl cmpOff s
    showFbc { s with fbc := { s.fbc with fires := [], pulses := [], pins := [], scheduled := [], scheduledPrev := [] } }
  | 9 =>
    let s := (holders s).foldl (fun s h => if h == 7 then maintRel s 7 else s) s
    [0, 1, 2, 3].foldl (fun s i => putSpool (setF s (Reg.ACQ_SP_STATE i) 2 0 0) i {}) { s with acq := {} }
  | 10 =>
    let s := maintRel (maintRel s 2) 3
    twinMod s fun t => { t with entries := [], cycleEntries := [], prevEntries := [], held := [], digests := [], matched := 0,
                                action := 0, acked := false, ackSend := 0 }
  | 15 =>
    { s with host := { s.host with waiting := [], rings := s.host.rings.map fun r =>
      (r.1, { r.2 with backlog := [], stalled := false }) } }
  | _ => s

/-- A block reset begins (R462, R463): volatile state and counters are cleared, accesses are refused until it completes, quiesce is
asserted, and the cells of the block return to service. The registers keep their values: the shadow copy restores them.
(DEDUCED, log entry 69) -/
def blockReset (s : State) (blk : Nat) : State :=
  if s.flt.resetting.contains blk then s
  else
    let s := fltMod s fun f =>
      { f with resetting := blk :: f.resetting, suppressed := f.suppressed.filter (· != blk),
               quiesce := blk :: f.quiesce.filter (· != blk), cellsOff := f.cellsOff.filter (fun c => c.1 != blk) }
    let s := unfitOwn (clearVolatile (clearCounters s blk) blk)
    (pendingBits blk).foldl (fun s p => setF s p.1 p.2.1 p.2.2 0) s

/-- A block reset completes (R462): machine time returns to the main calculator at the next latch instant (R139), and the shuttle
processor launches again after the next latch instant. (DEDUCED, log entry 69) (DEDUCED, log entry 33) -/
def blockResetDone (s : State) (blk us : Nat) : State :=
  if !s.flt.resetting.contains blk then s
  else
    let s := fltMod s fun f => { f with resetting := f.resetting.filter (· != blk), resetRaw := tput (fun _ => 0) f.resetRaw blk s.raw }
    let s := wr s Reg.FPM_RESET_TIME (word (us % 65536 + blk % 256 * 65536))
    match blk with
    | 1 => ringMod s fun r => { r with launched := true }
    | 2 => timeResetDone s
    | 6 => { s with sched := { s.sched with fwReset := [] } }
    | 12 => applyOutputs s
    | _ => s

/-- The masking of secondary detectors ends, 64 cycles after the reset (R463). -/
def quiesceEnd (s : State) (blk : Nat) : State :=
  if s.flt.resetting.contains blk || s.raw < tget (fun _ => 0) s.flt.resetRaw blk + 64 * cycleNs s then s
  else fltMod s fun f => { f with quiesce := f.quiesce.filter (· != blk), suppressed := f.suppressed.filter (· != blk) }

/-- Blocks that are never reset alone, and blocks that are not reset while an axis is enabled (R461). -/
def neverAlone : List Nat := [0, 14, 13, 11]
def holdsAxes : List Nat := [1, 2, 3, 4, 5, 8]

/-- A block reset held back by enabled axes runs at the first latch instant at which no axis is enabled (R461). -/
def deferredReset (s : State) (blk : Nat) : State :=
  if s.flt.deferred.contains blk && !anyEnabled s && onInstant s then
    blockReset (fltMod s fun f => { f with deferred := f.deferred.filter (· != blk) }) blk
  else s

/-! ### The ladder -/

/-- A rung applied raises escalation in FPM (R460). -/
def rungDone (s : State) (rung blk ev : Nat) : State := raise (showRung s blk rung) (escalation rung blk ev)

/-- DISABLE of every axis that is still enabled, once the region stop has sent its STO request (R461). -/
def disableRest (s : State) : State :=
  if s.flt.stoSent then (enabledAxes s).foldl (fun s a => request s (.disable a)) s
  else fltMod s fun f => { f with disableAfter := true }

/-- Apply the current rung of a climb (R459, R461): the rung that was applied, and the state. -/
def applyRung (s : State) (c : Climb) : Nat × State :=
  match c.rung with
  | 1 => (1, cellDisable s c.blk (c.cell.getD 0))
  | 2 =>
    if neverAlone.contains c.blk then (3, regionStop s)
    else if holdsAxes.contains c.blk && anyEnabled s then
      let s := fltMod (regionStop s) fun f => { f with deferred := c.blk :: f.deferred.filter (· != c.blk) }
      (3, disableRest s)
    else (2, blockReset s c.blk)
  | 3 => (3, regionStop s)
  | _ => (4, enterSafe s 1 c.blk c.ev)

/-- The grace timer of an event expires (R460): its current rung is applied and the timer restarts; after rung 4 the ladder stops.
(DESIGN CHOICE, log entry 12) -/
def graceExpiry (s : State) (blk ev : Nat) : State :=
  match s.flt.climbs.find? fun c => c.blk == blk && c.ev == ev && c.due ≤ s.raw with
  | none => s
  | some c =>
    let r := applyRung s c
    let due := s.raw + (if graceNs s blk == 0 then 10000 else graceNs s blk)
    let s := fltMod r.2 fun f => { f with climbs := f.climbs.filterMap fun x =>
      if x.blk == blk && x.ev == ev then (if 4 ≤ r.1 then none else some { x with rung := r.1 + 1, due := due }) else some x }
    rungDone s r.1 blk ev

/-- A write of FLT_ACK: the climb of the event stops (R460). -/
def faultAck (s : State) (blk ev : Nat) : State :=
  showRung (fltMod s fun f => { f with climbs := f.climbs.filter fun c => !(c.blk == blk && c.ev == ev) }) blk 0

/-- A write of FLT_HIST_CLR (R456). -/
def histClear (s : State) (blk : Nat) : State :=
  wr (fltMod s fun f => { f with hist := tput (fun _ => []) f.hist blk [] }) (Reg.FLT_HIST_CNT blk) 0

/-! ### Region stop and chip safe state -/

/-- Every enabled axis is in HOLD with a velocity at or below still (R464). (DEDUCED, log entry 80) -/
def atRest (s : State) : Bool :=
  (enabledAxes s).all fun a =>
    (axis s a).mode == 1 && dle ((axis s a).sp2.rates (cycleT s)).1 (f2d (par s a 12)) &&
      dle (dneg (f2d (par s a 12))) ((axis s a).sp2.rates (cycleT s)).1

/-- The STO request of a region stop at a latch instant (R464), and with it the DISABLE of R461. -/
def regionSto (s : State) : State :=
  match s.flt.stopRaw with
  | none => s
  | some t =>
    if !fbit s Reg.FPM_STATUS 0 || s.flt.stoSent || !onInstant s then s
    else if atRest s || fld s Reg.FPM_CFG 13 0 * 1000000 ≤ s.raw - t then
      let off := s.flt.disableAfter
      let s := fltMod (stoRequest s) fun f => { f with stoSent := true, disableAfter := false }
      if off then disableRest s else s
    else s

/-- FPM_CTRL clear_stop (R464). -/
def clearStop (s : State) : State :=
  if s.flt.climbs.isEmpty then
    let s := fltMod s fun f => { f with stopRaw := none, stoSent := false, disableAfter := false }
    setF (setBit s Reg.FPM_STATUS 0 false) Reg.FPM_CTRL_STATUS 3 1 1
  else setF s Reg.FPM_CTRL_STATUS 3 1 2

/-- FPM_CTRL safe_state (R465). -/
def safeState (s : State) : State := setF (enterSafe s 3 0 0) Reg.FPM_CTRL_STATUS 3 1 1

/-- A write of FPM_CTRL as it lands (R478). -/
def landFpmCtrl (s : State) (v : Word) : State :=
  let s := okBus s
  let s := if wbit v 0 then clearStop s else s
  if wbit v 1 then safeState s else s

/-! ### Injection, ALIVE, temperature -/

/-- A write of inject (R466). -/
def inject (s : State) : State :=
  if s.pwr.factory && s.pwr.debugLevel == 2 && !s.sec.fuseLock then
    let blk := fld s Reg.FPM_INJ_TARGET 15 8
    let ev := fld s Reg.FPM_INJ_TARGET 4 0
    let ctx := rd s Reg.FPM_INJ_CONTEXT
    if blk < 16 then
      raise s { blk := blk, ev := ev, ctx := ctx, cell := cellOf blk ev (wbits ctx 15 0), injected := true }
    else s
  else s

/-- A half-period of ALIVE ends (R468), at most one CK_AON period before the next point of the 500 µs grid; an edge given later takes
the grid on from the last point gone by. -/
def aliveToggle (s : State) : State :=
  if s.pwr.aliveOn && !fbit s Reg.FPM_ALIVE 1 && !s.pwr.lost.contains 0 && !s.sec.inReset && s.pwr.aliveAt ≤ s.raw + 30500 then
    let s := { s with pwr := { s.pwr with aliveAt := s.pwr.aliveAt + ((s.raw + 30500 - s.pwr.aliveAt) / 500000 + 1) * 500000 } }
    let s := setBit s Reg.FPM_ALIVE 0 (!fbit s Reg.FPM_ALIVE 0)
    emit s (.pin "ALIVE" (fbit s Reg.FPM_ALIVE 0) s.raw)
  else s

/-- The temperature sensors refresh every 1 ms (R564, R469, R393): the readings are those of the control die in 0.125 degrees. -/
def temperature (s : State) (readings : List Half) : State :=
  match readings with
  | [] => s
  | r :: rs =>
    if s.pwr.tempSeen && s.raw - s.pwr.tempRaw < 1000000 then s else
    let tj : Int := rs.foldl (fun m x => max m x.toInt) r.toInt
    let top : Int := if s.pwr.tempSeen then max tj (sgn 16 (fld s Reg.SYS_TJ 31 16)) else tj
    let s := { s with pwr := { s.pwr with tempSeen := true, tempRaw := s.raw } }
    let s := wr s Reg.SYS_TJ (word (unsg 16 tj + unsg 16 top * 65536))
    let ie := fld s Reg.SYS_ORDER_CODE 0 0 == 1
    let s :=
      if ie && 840 < tj && fld s Reg.SYS_CYCLE_ACTIVE 15 0 < 160 && !s.pwr.derated then
        event { s with pwr := { s.pwr with derated := true } } FPM 1
      else if tj < 800 then { s with pwr := { s.pwr with derated := false } }
      else s
    if (if ie then 1080 else 920) < tj then islandFault s 6 else s

/-! ### Maintenance token -/

/-- A write of FPM_MAINT_REQ as it lands (R475, R478). -/
def landMaintReq (s : State) (v : Word) : State :=
  let act := wbits v 3 0
  if wbit v 8 then okBus (maintRel s act) else okBus (maintReq s act).2

end Sys2Proof.Machine
end

