-- ==== Sys2Proof/Machine/Sec.lean ====
section
/-! DEFINITION. Reset, boot, the boot descriptor, staging, activation, trials, protection changes and debug access
(15_startup_update_protection.md). The configuration set is applied in Machine/Apply.lean. -/

namespace Sys2Proof.Machine

/-- Change the start-up record. -/
def secMod (s : State) (f : Sec → Sec) : State := { s with sec := f s.sec }

/-! ### Manifests (R498, R499) -/

/-- A part of a manifest. -/
structure Part where
  cls : Nat
  epoch : Nat
  imageClass : Nat
  encrypted : Bool
  offset : Nat
  length : Nat
  version : Nat
  hash : List Byte
  iv : List Byte
  tag : List Byte
  deriving DecidableEq, Repr

/-- The entry of a part. -/
def partAt (m : List Byte) (i : Nat) : Part :=
  let e := slice m (64 + 80 * i) 80
  { cls := byteAt e 0, epoch := byteAt e 1, imageClass := field e 2 2, encrypted := bit (field e 4 2) 0, offset := field e 8 4,
    length := field e 12 4, version := field e 16 4, hash := slice e 20 32, iv := slice e 52 12, tag := slice e 64 16 }

/-- The parts of a manifest. -/
def partsOf (m : List Byte) : List Part := (List.range (field m 6 2)).map (partAt m)

/-- The length of a manifest by its head. -/
def manifestLen (head : List Byte) : Nat := 64 + 80 * field head 6 2 + 68

/-- Big-endian bytes of a 256-bit value. -/
def digestOf (h : BitVec 256) : List Byte := beBytes 32 h.toNat

/-- The form of a manifest (R498, R499): head, parts, reserved fields; which head may take it. -/
def manifestForm (s : State) (m : List Byte) : Bool :=
  let ps := partsOf m
  let n := field m 6 2
  let scope := field m 12 8
  let single := [0, 1, 2, 3].all fun c => (ps.filter fun p => p.cls == c).length == 1
  let images := (ps.filter fun p => p.cls == 4).map (·.imageClass)
  field m 0 4 == 0x314E414D && field m 4 2 == 0x0100 && 1 ≤ n && n ≤ 64 && m.length == manifestLen m && m.length ≤ 65536 &&
  (scope == 0 || scope == serial s) && slice m 20 44 == zeros 44 && single && (ps.filter fun p => p.cls == 5).length ≤ 1 &&
  images.eraseDups.length == images.length &&
  (List.range n).all fun i =>
    let p := partAt m i
    p.cls ≤ 5 && p.epoch ≤ 64 && (p.cls == 4 || p.imageClass == 0) && field m (64 + 80 * i + 4) 2 / 2 == 0 &&
      field m (64 + 80 * i + 6) 2 == 0 && p.offset % 4096 == 0

/-- The key area that the store holds (R489, R506): the valid copy with the newer count. -/
def keysStored (s : State) : Option (List Byte × Config.KeyArea) :=
  let copy (a : Nat) : Option (List Byte × Config.KeyArea) :=
    let b := readMem s .nvm a 0x4000
    match Config.keyArea b with
    | some k =>
      if Config.ecdsaOk k.root k.digest k.sig && Config.sha256 (beBytes 64 k.root.toNat) == s.sec.ownerRoot then some (b, k) else none
    | none => none
  match copy 0x4000, copy 0x8000 with
  | some a, some b => if after (word b.2.seq) (word a.2.seq) then some b else some a
  | a, b => a.or b

/-- The key area in force: the one that the store held at boot, since a new one takes effect at the next boot (R508). -/
def keysInForce (s : State) : Option Config.KeyArea := if s.sec.keys.isEmpty then none else Config.keyArea s.sec.keys

/-- Boot takes the stored key area into force. -/
def loadKeys (s : State) : State := secMod s fun x => { x with keys := ((keysStored s).map (·.1)).getD [] }

/-- A key of the key area in force with a role, not revoked. -/
def keyOf (s : State) (i role : Nat) : Option (BitVec 512) :=
  match keysInForce s with
  | none => none
  | some k =>
    match k.keys[i]? with
    | some (r, revoked, key) => if r == role && !revoked then some key else none
    | none => none

/-- The signature of a manifest verifies (R498); before provisioning the factory key does too (R511). -/
def manifestSigned (s : State) (m : List Byte) : Bool :=
  let body := m.take (m.length - 68)
  let sig := m.drop (m.length - 64)
  let h := Config.sha256 body
  (match keyOf s (byteAt m (m.length - 68)) 0 with
    | some k => Config.ecdsaOk k h sig
    | none => false) ||
  (!s.sec.fuseSecure && Config.ecdsaOk Config.factoryKey h sig)

/-- A part with an epoch below the fused epoch of its class (R505). -/
def epochLow (s : State) (m : List Byte) : Bool := (partsOf m).any fun p => p.epoch < s.sec.epochs.getD p.cls 0

/-! ### The configuration store (R487-R489) -/

/-- The start of a slot. -/
def slotAt (s : State) (slot : Nat) : Nat := 0x800000 + slot * ((s.sec.capacity - 0x800000) / 2)

/-- The size of a slot. -/
def slotSize (s : State) : Nat := (s.sec.capacity - 0x800000) / 2

/-- Where a part lies: the slot, or the configuration area for a configuration set. -/
def partAddr (s : State) (slot area : Nat) (p : Part) : Nat := if p.cls == 5 then areaAt area else slotAt s slot + p.offset

/-- The manifest that a slot holds. -/
def slotManifest (s : State) (slot : Nat) : List Byte :=
  let a := 0x10000 + 0x10000 * slot
  let h := readMem s .nvm a 64
  if field h 0 4 == 0x314E414D && field h 6 2 ≤ 64 then readMem s .nvm a (manifestLen h) else []

/-- A part verifies its SHA-256 and, where it is encrypted, its tag (R485). -/
def partOk (s : State) (slot area : Nat) (p : Part) : Bool :=
  let b := readMem s .nvm (partAddr s slot area p) p.length
  digestOf (Config.sha256 b) == p.hash &&
    (!p.encrypted || (Config.gcmOpen s.sec.imageKey p.iv b p.tag).isSome)

/-- The device of the configuration store has 64 MB to 1 GB (R487). -/
def storeFits (s : State) : Bool := 0x4000000 ≤ s.sec.capacity && s.sec.capacity ≤ 0x40000000

/-- A slot is bootable (R485, R487). -/
def bootable (s : State) (slot area : Nat) : Bool :=
  let m := slotManifest s slot
  storeFits s && manifestForm s m && manifestSigned s m && !epochLow s m && (partsOf m).all fun p => 3 < p.cls || partOk s slot area p

/-- A boot descriptor (R489). -/
structure Desc where
  seq : Nat := 0
  slot : Nat := 0
  area : Nat := 0
  trial : Bool := false
  tried : Bool := false
  migrate : Bool := false
  health : Nat := 120
  hash : List Byte := zeros 32
  deriving DecidableEq, Repr

/-- The bytes of a boot descriptor. -/
def Desc.bytes (d : Desc) : List Byte :=
  let b := leBytes 4 0x31534442 ++ leBytes 4 d.seq ++ [BitVec.ofNat 8 d.slot, BitVec.ofNat 8 d.area,
    BitVec.ofNat 8 (flag d.trial + 2 * flag d.tried + 4 * flag d.migrate), 0] ++ leBytes 2 d.health ++ zeros 2 ++ d.hash ++ zeros 12
  b ++ leBytes 4 (crc32c b)

/-- The descriptor in a copy, if it is valid. -/
def descAt (s : State) (copy : Nat) : Option Desc :=
  let b := readMem s .nvm (0x1000 * copy) 64
  if field b 0 4 == 0x31534442 && field b 60 4 == crc32c (b.take 60) then
    some { seq := field b 4 4, slot := byteAt b 8 % 2, area := byteAt b 9 % 2, trial := bit (byteAt b 10) 0,
           tried := bit (byteAt b 10) 1, migrate := bit (byteAt b 10) 2, health := field b 12 2, hash := slice b 16 32 }
  else none

/-- The newer valid copy and its place (R485, R489); with no valid copy a fresh descriptor (DESIGN CHOICE, log entry 54). -/
def descNow (s : State) : Desc × Nat :=
  match descAt s 0, descAt s 1 with
  | some a, some b => if after (word b.seq) (word a.seq) then (b, 1) else (a, 0)
  | some a, none => (a, 0)
  | none, some b => (b, 1)
  | none, none => ({}, 1)

/-- Write a descriptor to the copy that does not hold the newer one (R489). -/
def writeDesc (s : State) (d : Desc) : State :=
  let now := descNow s
  writeMem s .nvm (0x1000 * (1 - now.2)) { d with seq := (now.1.seq + 1) % 2 ^ 32 }.bytes

/-! ### Reset (R479-R482) -/

/-- Seconds of CK_AON since VDD_AON last came up. (DEDUCED, log entry 73) -/
def aonNow (s : State) : Nat := s.sec.aonS + s.raw / 1000000000

/-- What outlives an assertion: an authorized safety parameter change, which lasts until its activation ends (R508), PD_AON, the field-I/O
die, the stores, archive memory in self-refresh, fuses and pins. (DEDUCED, log entry 73) -/
def held (s : State) : State :=
  let f := s.fio
  let x := s.sec
  { State.reset with
    pending := s.pending
    raw := s.raw
    out := s.out
    free := s.free
    regs := s.regs.filter fun e => e.1 == Reg.SYS_ORDER_CODE
    mem := { s.mem with bolt := [] }
    pwr := { off := .mem :: s.pwr.off.filter (· == .fio), lost := s.pwr.lost, bad := s.pwr.bad, txdis := s.pwr.txdis }
    fbc := { drives := s.fbc.drives }
    fio := { die := f.die, tripped := f.tripped, report := f.report, downRaw := f.downRaw, latched := f.latched, hold := f.hold,
             applied := f.applied, dead := f.dead, ins := f.ins, latchRaw := f.latchRaw }
    ring := { rankPins := s.ring.rankPins }
    sec := { fuseSerial := x.fuseSerial, ownerRoot := x.ownerRoot, imageKey := x.imageKey, epochs := x.epochs,
             fuseFactory := x.fuseFactory, fuseLock := x.fuseLock, fuseSecure := x.fuseSecure, capacity := x.capacity,
             bootSel := x.bootSel, inReset := true, assertCause := rd s Reg.FPM_CAUSE, assertSafe := chipSafe s,
             powerFell := x.powerFell, retLost := x.retLost, aonS := aonNow s, lockout := x.lockout,
             agreed := x.agreed.filter fun a => a.1 == 1 } }

/-- The pins take their states of reset (R548-R550). -/
def padsReset (s : State) : State := drivePins (driveTxdis s) s.raw

/-- An assertion of nRESET counts (R480). -/
def resetAssert (s : State) : State :=
  if s.sec.inReset then s else padsReset (held (emit s (.pin "ALIVE" false s.raw)))

/-- The assertion has lasted more than 30 s (R481): archive self-refresh ends. -/
def longReset (s : State) : State :=
  if !s.sec.inReset then s else secMod { s with mem := { s.mem with arch := [] } } fun x => { x with longReset := true }

/-- The registers that show the fuses (R511, R512). -/
def showFuses (s : State) : State :=
  let x := s.sec
  let s := wr64 s Reg.SEC_SERIAL_LO x.fuseSerial.toNat
  let s := wr s Reg.SEC_FUSE (word (flag x.fuseSecure + 2 * flag x.fuseFactory + 4 * flag x.fuseLock + 8 * flag (x.ownerRoot != 0)))
  (List.range 6).foldl (fun s i => wr s (Reg.SEC_EPOCH i) (word (x.epochs.getD i 0))) s

/-- The network defaults of R495 and the station address of R540. -/
def hostDefaults (s : State) : State :=
  let n := serial s
  let ip := 0xA9FE0000 + n % 65536
  let s := wr (wr s Reg.HOST_IP0 (word ip)) Reg.HOST_IP1 (word ip)
  let mac := 0x02 * 2 ^ 40 + n % 2 ^ 40
  let s := wr (wr s Reg.HOST_MAC_LO (word mac)) Reg.HOST_MAC_HI (word (mac / 2 ^ 32))
  setF (setF s Reg.HOST_STATUS 11 10 2) Reg.HOST_STATUS 13 12 2

/-- The reset log with a new entry, the newest first (R482, DESIGN CHOICE, log entry 54). -/
def logReset (s : State) (cause : Nat) (cold : Bool) (duration aon : Nat) : State :=
  let e := [BitVec.ofNat 8 cause, BitVec.ofNat 8 (flag cold + 2 * flag s.sec.assertSafe), 0, 0] ++ leBytes 4 duration ++
    leBytes 4 aon ++ leBytes 4 s.sec.assertCause.toNat
  writeMem s .ret 8192 ((e ++ readMem s .ret 8192 112).take 128)

/-- Show the boot state, slot, area and trial (R512). -/
def showBoot (s : State) (st slot area : Nat) (trial : Bool) : State :=
  setBit (setF (setF (setF s Reg.SEC_STATUS 2 0 st) Reg.SEC_STATUS 4 4 slot) Reg.SEC_STATUS 5 5 area) Reg.SEC_STATUS 6 trial

/-- Boot a slot that is bootable, the other one, or neither: host recovery (R485). The other slot goes with the other area. -/
def bootSlot (s : State) (slot area : Nat) (trial : Bool) : State :=
  let s := if epochLow s (slotManifest s slot) then event s SEC 12 slot else s
  if bootable s slot area then showBoot s 1 slot area trial
  else if bootable s (1 - slot) (1 - area) then
    let s := if trial then secMod s fun x => { x with agreed := none } else s
    event (event (showBoot s 1 (1 - slot) (1 - area) false) SEC 2 slot) SEC 1 slot
  else event (showBoot s 5 slot area false) SEC 2 slot

/-- The boot ROM chooses the slot (R485). -/
def chooseSlot (s : State) : State :=
  let d := (descNow s).1
  if d.trial && d.tried then
    let s := writeDesc (secMod s fun x => { x with agreed := none }) { d with trial := false, tried := false, migrate := false }
    bootSlot (event s SEC 1) d.slot d.area false
  else if d.trial then
    bootSlot (writeDesc (secMod s fun x => { x with healthS := d.health }) { d with tried := true }) (1 - d.slot) (1 - d.area) true
  else bootSlot s d.slot d.area false

/-- Release of a held head (R481-R485): cause 1 power-on, 2 nRESET, 3 long, 4 software, 5 self-reset. (DEDUCED, log entry 73) -/
def release (s : State) (cause duration aon bootSel rankPins : Nat) : State :=
  let cold := cause == 1 || cause == 3
  let s := if cold then { s with mem := { s.mem with arch := [] } } else s
  let s := { s with raw := 0, ring := { s.ring with rankPins := rankPins }, fio := { s.fio with downRaw := 0, latchRaw := [] } }
  let factory := bootSel == 3 && s.sec.fuseFactory && !s.sec.fuseLock
  let s := logReset s cause cold duration aon
  let s := { s with
    pwr := { s.pwr with factory := factory, bad := if cause == 1 then s.pwr.bad.filter (11 ≤ ·) else s.pwr.bad }
    sec := { s.sec with inReset := false, longReset := false, powerFell := false, bootSel := bootSel,
                        lockout := s.sec.lockout && !cold, aonS := aon + duration / 1000 } }
  let s := wr s Reg.PROF_RET_STATUS (if s.sec.retLost then 2 else 1)
  let s := hostDefaults (showFuses (secMod s fun x => { x with retLost := false }))
  let s := setBit (setBit s Reg.FPM_STATUS 2 factory) Reg.FPM_STATUS 3 s.sec.fuseLock
  let s := wr (wr s Reg.SEC_RESET_INFO (word (cause + 16 * flag cold + 32 * flag (cause == 3)))) Reg.SEC_RESET_DUR (word duration)
  let s := if cause == 3 then event s SEC 0 else s
  let mode := if bootSel == 1 || factory then bootSel else 0
  let s := setF s Reg.SEC_STATUS 9 8 mode
  let s := if bootSel == 2 || (bootSel == 3 && !factory) then event s SEC 3 bootSel else s
  let s := loadKeys s
  driveTxdis (if mode == 1 then showBoot s 5 0 0 false else chooseSlot s)

/-- Reset is released (R481): by nRESET or after a power-on. (DEDUCED, log entry 73) -/
def resetRelease (s : State) (powerOn : Bool) (duration aon bootSel rankPins : Nat) : State :=
  if !s.sec.inReset && !powerOn then s
  else
    let s := if s.sec.inReset then s else padsReset (held s)
    let cause := if powerOn || s.sec.powerFell then 1 else if s.sec.longReset || 30000 < duration then 3 else 2
    release s cause (min duration 0xFFFFFFFF) aon bootSel rankPins

/-- The head resets itself: software reset (cause 4) or self-reset (cause 5), a warm boot. (DEDUCED, log entry 73) -/
def selfReset (s : State) (cause : Nat) : State :=
  release (padsReset (held (emit s (.pin "ALIVE" false s.raw)))) cause 0 (aonNow s) s.sec.bootSel s.ring.rankPins

/-- The parts are verified and started (R484), and PD_MEM is out of self-refresh or trained (R47, R481). (DEDUCED, log entry 73) -/
def bootLoadDone (s : State) : State :=
  if fld s Reg.SEC_STATUS 2 0 != 1 then s
  else
    let s := { s with pwr := { s.pwr with off := s.pwr.off.filter (· != .mem) } }
    let m := slotManifest s (fld s Reg.SEC_STATUS 4 4)
    let s := wr (setF s Reg.SEC_STATUS 2 0 2) Reg.SEC_MANIFEST_VER (word (field m 8 4))
    { s with twin := { s.twin with manifestHash := word (crc32c m) } }

/-! ### The test access port (R510) -/

/-- The kinds of instruction of IEEE 1149.1 that the head's test access port knows (R510): drivesPins is every one but EXTEST that drives
pins. (DEDUCED, log entry 105) -/
inductive TapInstr where
  | idcode | bypass | samplePreload | extest | drivesPins
  deriving DecidableEq, Repr

/-- Whether the test access port takes an instruction (R510). (DEDUCED, log entry 105) -/
def tapTakes (s : State) : TapInstr → Bool
  | .idcode | .bypass | .samplePreload => true
  | .extest | .drivesPins => s.pwr.factory

/-! ### Staging (R500, R501) -/

/-- Blocks of a part. -/
def blocksOf (p : Part) : Nat := ceilDiv p.length 4096

/-- Blocks still missing in a staging run. -/
def blocksMissing (s : State) : Nat := ((partsOf s.sec.manifest).foldl (fun n p => n + blocksOf p) 0) - s.sec.blocks.length

/-- Show the state of a staging run. -/
def showStage (s : State) (st : Nat) : State :=
  wr s Reg.SEC_STAGE_STATUS (word (st + (if st == 1 then blocksMissing s else 0) * 256))

/-- The slot and area that a staging run writes: those not in use. -/
def stageSlot (s : State) : Nat := 1 - fld s Reg.SEC_STATUS 4 4
def stageArea (s : State) : Nat := 1 - fld s Reg.SEC_STATUS 5 5

/-- A staging run is discarded (R500). -/
def dropStaging (s : State) : State :=
  let s := if fld s Reg.SEC_STAGE_STATUS 1 0 == 1 then maintRel s 0 else s
  let s := (List.range 8).foldl (fun s i => wr s (Reg.SEC_STAGED_HASH i) 0) s
  showStage (secMod s fun x => { x with manifest := [], blocks := [] }) 0

/-- A manifest or a staging run is refused: status and state. -/
def stageRefused (s : State) (status : Nat) : Nat × State :=
  (status, event (maintRel (showStage s 3) 0) SEC 6)

/-- UPD_MANIFEST (R500): the status of the response. -/
def updManifest (s : State) (m : List Byte) : Nat × State :=
  let s := dropStaging s
  let q := maintReq s 0
  if !q.1 then (5, q.2)
  else
    let s := q.2
    if !manifestForm s m then stageRefused s 3
    else if !manifestSigned s m then stageRefused s 12
    else if epochLow s m then stageRefused (event s SEC 12) 4
    else if (partsOf m).any fun p => (if p.cls == 5 then 0x300000 else slotSize s) < (if p.cls == 5 then 0 else p.offset) + p.length then
      stageRefused s 3
    else
      let slot := stageSlot s
      let mem := (s.mem.erase .nvm (slotAt s slot) (slotSize s)).erase .nvm (0x10000 + 0x10000 * slot) 0x10000
      let mem := if (partsOf m).any fun p => p.cls == 5 then mem.erase .nvm (areaAt (stageArea s)) 0x300000 else mem
      let s := writeMem { s with mem := mem } .nvm (0x10000 + 0x10000 * slot) m
      (0, showStage (secMod s fun x => { x with manifest := m, blocks := [] }) 1)

/-- Worker positions of an image class. -/
def classWorkers (s : State) (cls : Nat) : List Nat :=
  ((List.range s.ring.topo.length).filter fun i => (s.ring.topo.getD i {}).imageClass == cls).map (· + 1)

/-- Send a worker image in FW_BLOCK requests of 50 bytes (R79, R501). -/
def sendImage (s : State) (p : Part) (target : Nat) (origin : SvcOrigin) : State :=
  let b := readMem s .nvm (partAddr s (stageSlot s) 0 p) p.length
  (List.range (ceilDiv p.length 50)).foldl (fun s i =>
    svcStart s ⟨target, 0x03, p.imageClass, leBytes 4 (50 * i) ++ slice b (50 * i) 50, origin⟩) s

/-- Ask a worker for its image state. -/
def askStatus (s : State) (cls position : Nat) : State := svcStart s ⟨position, 0x04, cls, [], .update⟩

/-- A worker image has arrived in full: it is broadcast twice, and every worker of its class is asked (R501). -/
def spreadImage (s : State) (p : Part) : State :=
  let s := sendImage (sendImage s p broadcast .none) p broadcast .none
  (classWorkers s p.imageClass).foldl (fun s w => askStatus s p.imageClass w) s

/-- Show the staged hash. -/
def showStaged (s : State) (m : List Byte) : State :=
  let h := digestOf (Config.sha256 m)
  (List.range 8).foldl (fun s i => wr s (Reg.SEC_STAGED_HASH i) (word (field h (4 * i) 4))) s

/-- UPD_BLOCK (R500): the status of the response. -/
def updBlock (s : State) (index offset : Nat) (hash block : List Byte) : Nat × State :=
  let ps := partsOf s.sec.manifest
  if fld s Reg.SEC_STAGE_STATUS 1 0 != 1 then (10, s)
  else if ps.length ≤ index then (3, s)
  else
    let p := partAt s.sec.manifest index
    let at' := partAddr s (stageSlot s) (stageArea s) p + offset
    if offset % 4096 != 0 || p.length ≤ offset || block.length != 4096 then (3, s)
    else if digestOf (Config.sha256 block) != hash then (12, s)
    else if s.sec.blocks.contains (index, offset) then
      (if readMem s .nvm at' 4096 == block then (0, s) else (4, s))
    else
      let s := writeMem s .nvm at' block
      let s := showStage (secMod s fun x => { x with blocks := (index, offset) :: x.blocks }) 1
      let done := (s.sec.blocks.filter fun b => b.1 == index).length == blocksOf p
      let s := if done && p.cls == 4 then spreadImage s p else s
      if blocksMissing s != 0 then (0, s)
      else if ps.all fun q => digestOf (Config.sha256 (readMem s .nvm (partAddr s (stageSlot s) (stageArea s) q) q.length)) == q.hash then
        (0, event (maintRel (showStaged (showStage s 2) s.sec.manifest) 0) SEC 7)
      else stageRefused s 12

/-- Host recovery ends once the staged slot is bootable (R485): the descriptor names it, with the area of a staged configuration set,
and the head resets itself (DEDUCED, log entry 104). -/
def recoverBoot (s : State) : State :=
  if fld s Reg.SEC_STATUS 2 0 != 5 || fld s Reg.SEC_STAGE_STATUS 1 0 != 2 || !bootable s (stageSlot s) (stageArea s) then s
  else
    let d := (descNow s).1
    let area := if (partsOf s.sec.manifest).any fun p => p.cls == 5 then stageArea s else d.area
    selfReset (writeDesc s { d with slot := stageSlot s, area := area, trial := false, tried := false, migrate := false }) 5

/-! ### Activation (R502) -/

/-- The SHA-256 in SEC_ACT_HASH0-7. -/
def actHash (s : State) : List Byte := ((List.range 8).map fun i => leBytes 4 (rd s (Reg.SEC_ACT_HASH i)).toNat).flatten

/-- The SEC baste group. -/
def secGroup : List Nat := Reg.SEC_ACT_CFG :: (List.range 8).map Reg.SEC_ACT_HASH

/-- A SEC commit as it lands (R502, R512). -/
def landSecCommit (s : State) (v : Word) : State :=
  if wbit v 0 then okBus (setBit s Reg.SEC_BASTE_STATUS 0 true) else okBus s

/-- End an activation request with a result. -/
def actDone (s : State) (result : Nat) : State := setF (setBit s Reg.SEC_BASTE_STATUS 0 false) Reg.SEC_BASTE_STATUS 3 1 result

/-- The safety parameter set that an area of the store holds. -/
def setHash (s : State) (area : Nat) : Option (BitVec 256) := (paramSet s area).map Config.sha256

/-- A staged set brings a safety parameter set that no applied protection change names (R502, R508). -/
def paramUnagreed (s : State) : Bool :=
  (partsOf s.sec.manifest).any fun p => p.cls == 5 &&
    match setHash s (stageArea s) with
    | some h => h != s.sec.paramHash && s.sec.agreed != some (1, h)
    | none => false

/-- The checks of an activation request, without the arbiter: 0 where none refuses. -/
def actRefusal (s : State) : Nat :=
  if !(ringSt s == 5 || ringSt s == 3) || anyEnabled s then 2
  else if s.twin.pair && !(twinSt s == 3 || (twinSt s == 1 && fld s Reg.TWIN_STATE 18 16 == 3)) then 3
  else if fld s Reg.SEC_STAGE_STATUS 1 0 != 2 || digestOf (Config.sha256 s.sec.manifest) != actHash s then 4
  else if paramUnagreed s then 5
  else 0

/-- Ask the workers at positions to write a reserved parameter index (R501). (DEDUCED, log entry 71) -/
def askWorkers (s : State) (ws : List Nat) (index : Nat) (data : List Byte) : State :=
  ws.foldl (fun s w => svcStart s ⟨w, 0x02, index, 0 :: data, .update⟩) s

/-- The workers whose image classes a manifest carries. -/
def manifestWorkers (s : State) (m : List Byte) : List Nat :=
  ((partsOf m).filter fun p => p.cls == 4).flatMap fun p => classWorkers s p.imageClass

/-- The commit point of an activation request, at a latch instant (R502). (DEDUCED, log entry 71) -/
def activationRequest (s : State) : State :=
  if !fbit s Reg.SEC_BASTE_STATUS 0 || !onInstant s then s
  else
    let r := actRefusal s
    let q := if r == 0 then maintReq s 1 else (false, s)
    let s := q.2
    if r != 0 then event (actDone s r) SEC 8 0 r
    else if !q.1 then event (actDone s 3) SEC 8 0 3
    else
      let a := s.cyc.count + 64
      let s := event (applyBaste (actDone s 1) secGroup) SEC 9
      let follow := s.twin.pair && !leads s
      let s := if s.twin.pair && !follow then { s with twin := { s.twin with action := 4, actionCycle := a, acked := false } } else s
      let ws := if follow then [] else manifestWorkers s s.sec.manifest
      let s := secMod s fun x => { x with actCycle := some a, answered := [], asked := ws, follow := follow, ready := false }
      askWorkers s ws 0xFF00 (leBytes 4 a.toNat ++ leBytes 2 (fld s Reg.SEC_ACT_CFG 9 0))

/-- An activation is cancelled (R502). -/
def activationCancel (s : State) : State :=
  let s := askWorkers s s.sec.answered 0xFF02 []
  let s := secMod s fun x => { x with actCycle := none, ready := false, answered := [], asked := [] }
  let s := if s.twin.action == 4 then { s with twin := { s.twin with action := 0, acked := false } } else s
  actDone (maintRel s 1) 6

/-- L(a - 8) (R502): the activation is cancelled, or the descriptor is written with trial pending. (DEDUCED, log entry 71) -/
def activationCheck (s : State) : State :=
  match s.sec.actCycle with
  | none => s
  | some a =>
    if s.sec.ready || 8 < (a - s.cyc.count).toNat then s
    else
      let acked := !s.twin.pair || (if s.sec.follow then s.twin.ackSend == 4 && s.twin.ackCycle == a else s.twin.action == 4 && s.twin.acked)
      if !acked || !(s.sec.asked.all fun w => s.sec.answered.contains w) then activationCancel s
      else
        let d := (descNow s).1
        let d := { d with trial := true, tried := false, migrate := !((partsOf s.sec.manifest).any fun p => p.cls == 5),
                          health := fld s Reg.SEC_ACT_CFG 9 0, hash := digestOf (Config.sha256 s.sec.manifest) }
        secMod (writeDesc s d) fun x => { x with ready := true }

/-- L(a) (R502): the head resets itself into the trial; a standby whose active took the announcement back does not.
(DEDUCED, log entry 71) -/
def activationReset (s : State) : State :=
  match s.sec.actCycle with
  | none => s
  | some a =>
    if !s.sec.ready || after a s.cyc.count then s
    else if s.sec.follow && !(s.twin.ackSend == 4 && s.twin.ackCycle == a) then
      activationCancel (writeDesc s { (descNow s).1 with trial := false, tried := false, migrate := false })
    else selfReset s 5

/-! ### Trials (R503-R505) -/

/-- This boot is a trial. -/
def onTrial (s : State) : Bool := fbit s Reg.SEC_STATUS 6

/-- The manifest in force. -/
def manifestNow (s : State) : List Byte := slotManifest s (fld s Reg.SEC_STATUS 4 4)

/-- The image class, version and hash that a manifest gives a worker. -/
def workerPart (s : State) (m : List Byte) (w : Nat) : Option Part :=
  (partsOf m).find? fun p => p.cls == 4 && p.imageClass == (s.ring.topo.getD (w - 1) {}).imageClass

/-- A worker's answer to an exchange of an update (R501-R503). -/
def updateAnswer (s : State) (d : SvcDone) : State :=
  let w := d.target
  if d.code == 0x04 then
    if onTrial s then
      match workerPart s (manifestNow s) w with
      | some p =>
        if d.result == 0 && byteAt d.data 0 == 3 && field d.data 5 4 == p.version then
          secMod s fun x => { x with workersOk := w :: x.workersOk.filter (· != w) }
        else s
      | none => s
    else
      match workerPart s s.sec.manifest w with
      | some p => if d.result == 0 && slice d.data 13 32 == p.hash then s else sendImage s p w .firmware
      | none => s
  else if s.sec.actCycle.isSome then
    if d.result == 0 then secMod s fun x => { x with answered := w :: x.answered.filter (· != w) } else s
  else if s.sec.confirming.contains w then
    if d.result == 0 then secMod s fun x => { x with confirming := x.confirming.filter (· != w) }
    else askWorkers s [w] 0xFF01 []
  else s

/-- The answers that have come in for updates. -/
def updateAnswers (s : State) : State :=
  let mine := s.ring.done.filter fun d => d.origin == .update
  let s := ringMod s fun r => { r with done := r.done.filter fun d => d.origin != .update }
  mine.foldl updateAnswer s

/-- The conditions of R503, but for the workers' images: on the leader every worker of the table writes ready. -/
def healthy (s : State) : Bool :=
  (!leads s || (carried s).all fun x => s.ring.nodesReady.contains x.position) &&
  (ringSt s == 5 || ringSt s == 6 || ringSt s == 3) && islandSt s == 1 && s.sec.readBack &&
  (!s.twin.pair || twinSt s == 3 || (twinSt s == 1 && fld s Reg.TWIN_STATE 18 16 == 3)) &&
  (fld s Reg.SEC_ACT_CFG 16 16 == 0 || s.sec.hostConfirmed)

/-- The trial is confirmed when every condition holds (R503); a worker whose image is not known to run is asked. (DEDUCED, log entry 71) -/
def healthConfirm (s : State) : State :=
  if !onTrial s || s.sec.healthRaw.isNone || !healthy s then s
  else
    let m := manifestNow s
    let ws := if leads s then manifestWorkers s m else []
    let missing := ws.filter fun w => !s.sec.workersOk.contains w
    if !missing.isEmpty then
      missing.foldl (fun s w => askStatus s (s.ring.topo.getD (w - 1) {}).imageClass w) s
    else
      let epochs := (List.range 6).map fun c => (partsOf m).foldl (fun e p => if p.cls == c then max e p.epoch else e) (s.sec.epochs.getD c 0)
      let s := showFuses (secMod s fun x => { x with epochs := epochs, healthRaw := none, agreed := none, confirming := ws })
      let d := { (descNow s).1 with slot := fld s Reg.SEC_STATUS 4 4, area := fld s Reg.SEC_STATUS 5 5 }
      let s := writeDesc s { d with trial := false, tried := false, migrate := false }
      let s := askWorkers (setBit s Reg.SEC_STATUS 6 false) ws 0xFF01 []
      event s SEC 10

/-- A trial falls back (R504): FALL_BACK to the workers, the descriptor with the trial cleared, the event, and a self-reset. The
workers are told by firmware before the reset (DESIGN CHOICE, log entry 55). (DEDUCED, log entry 71) -/
def fallBack (s : State) (ev : Nat) : State :=
  let ws := manifestWorkers s (manifestNow s)
  let s := emit s (.toFirmware "FALL_BACK" (ws.map (BitVec.ofNat 8)))
  let s := writeDesc s { (descNow s).1 with trial := false, tried := false, migrate := false }
  selfReset (secMod (event s SEC ev) fun x => { x with agreed := none }) 5

/-- The health window expires (R504). -/
def healthTimeout (s : State) : State :=
  match s.sec.healthRaw with
  | none => s
  | some t => if onTrial s && s.sec.healthS * 1000000000 ≤ s.raw - t then fallBack s 11 else s

/-- A HELLO of the twin shows another manifest during a trial (R504). -/
def helloManifest (s : State) (b : List Byte) : State :=
  if onTrial s && field b 4 4 != s.twin.manifestHash.toNat then fallBack s 1 else s

/-! ### SEC_CTRL (R512) -/

/-- End a SEC_CTRL action. -/
def secDone (s : State) (action result : Nat) : State :=
  setF (setF s Reg.SEC_CTRL_STATUS 2 0 action) Reg.SEC_CTRL_STATUS 5 3 result

/-- Host confirmation of a trial. -/
def secConfirm (s : State) : State :=
  if onTrial s then secDone (secMod s fun x => { x with hostConfirmed := true }) 1 1 else secDone s 1 2

/-- The other slot becomes the trial (R505). (DEDUCED, log entry 71) -/
def secRevert (s : State) : State :=
  if anyEnabled s then secDone s 2 3
  else if ringSt s != 5 || onTrial s then secDone s 2 2
  else
    let slot := 1 - fld s Reg.SEC_STATUS 4 4
    if epochLow s (slotManifest s slot) then secDone (event s SEC 12) 2 4
    else
      let q := maintReq s 1
      if !q.1 then secDone q.2 2 2
      else
        let s := q.2
        let d := (descNow s).1
        let m := slotManifest s slot
        let d := { d with health := fld s Reg.SEC_ACT_CFG 9 0, hash := digestOf (Config.sha256 m) }
        secDone (maintRel (writeDesc s { d with trial := true, tried := false, migrate := false }) 1) 2 1

/-- The staging run is discarded. -/
def secAbort (s : State) : State := secDone (dropStaging s) 3 1

/-- A new nonce from the TRNG: a free value (R507). -/
def secNonce (s : State) : State :=
  let n := (freeVal 256 s).toNat
  let s := drawn s
  let s := (List.range 8).foldl (fun s i => wr s (Reg.SEC_NONCE i) (word (n / 2 ^ (32 * i)))) s
  secDone (secMod s fun x => { x with nonceValid := true }) 4 1

/-- A software reset, refused while an axis is enabled. -/
def secReset (s : State) : State := if anyEnabled s then secDone s 5 3 else secDone (selfReset s 4) 5 1

/-- A write of SEC_CTRL as it lands: the highest bit set acts (DESIGN CHOICE, log entry 52). -/
def landSecCtrl (s : State) (v : Word) : State :=
  let s := okBus s
  if wbit v 4 then secReset s
  else if wbit v 3 then secNonce s
  else if wbit v 2 then secAbort s
  else if wbit v 1 then secRevert s
  else if wbit v 0 then secConfirm s
  else s

/-! ### Protection changes (R507, R508) -/

/-- The nonce last read. -/
def nonceBytes (s : State) : List Byte := ((List.range 8).map fun i => leBytes 4 (rd s (Reg.SEC_NONCE i)).toNat).flatten

/-- Show a protection request. -/
def showProt (s : State) (st kind : Nat) : State := wr s Reg.SEC_PROT_STATUS (word (st + kind % 4 * 16))

/-- PROT_REQUEST (R507): b is the whole request of 148 bytes; the status of the response. -/
def protRequest (s : State) (b : List Byte) : Nat × State :=
  let kind := field b 0 4
  let expiry := field b 44 4
  if kind < 1 || 3 < kind || expiry < 60 || 3600 < expiry || field b 4 8 != serial s then (3, showProt s 3 kind)
  else if !s.sec.nonceValid || slice b 12 32 != nonceBytes s then (12, showProt s 3 kind)
  else
    match keyOf s (field b 80 4) 1 with
    | none => (12, showProt s 3 kind)
    | some k =>
      if !Config.ecdsaOk k (Config.sha256 (b.take 80)) (slice b 84 64) then (12, showProt s 3 kind)
      else
        let p : ProtReq := { kind := kind, object := BitVec.ofNat 256 (beVal (slice b 48 32)), digest := Config.sha256 b,
                             raw := s.raw, expiry := expiry }
        (0, event (showProt (secMod s fun x => { x with prot := some p, nonceValid := false }) 1 kind) SEC 13 kind)

/-- A confirmed request is applied (R508). -/
def protApply (s : State) (p : ProtReq) : State :=
  event (showProt (secMod s fun x => { x with prot := none, agreed := some (p.kind, p.object) }) 2 p.kind) SEC 14 p.kind

/-- A request stands and has not expired. -/
def protNow (s : State) : Option ProtReq :=
  match s.sec.prot with
  | some p => if s.raw - p.raw < p.expiry * 1000000000 then some p else none
  | none => none

/-- PROT_CONFIRM (R507). -/
def protConfirm (s : State) (b : List Byte) : Nat × State :=
  match protNow s with
  | none => (10, s)
  | some p =>
    match keyOf s (field b 0 4) 2 with
    | none => (12, s)
    | some k => if Config.ecdsaOk k p.digest (slice b 4 64) then (0, protApply s p) else (12, s)

/-- PROT_OBJECT (R508): the new debug policy or key area, written to the copy that does not hold the newer one. -/
def protObject (s : State) (b : List Byte) : Nat × State :=
  let kind := field b 0 4
  let object := b.drop 4
  if kind != 2 && kind != 3 then (3, s)
  else
    match s.sec.agreed with
    | none => (10, s)
    | some (k, h) =>
      if k != kind then (10, s)
      else if Config.sha256 object != h then (12, s)
      else
        let old := keysStored s
        let area := match old with | some o => o.1 | none => []
        let seq := match old with | some o => (o.2.seq + 1) % 2 ^ 32 | none => 1
        let at' := if area == readMem s .nvm 0x4000 0x4000 then 0x8000 else 0x4000
        let new := Config.withSeq (if kind == 2 then Config.withPolicy area object else object) seq
        (0, writeMem (secMod s fun x => { x with agreed := none }) .nvm at' (new.take 0x4000))

/-- The local confirmation input has been high for its hold time (R507). -/
def localConfirm (s : State) : State :=
  match protNow s, s.sec.localInput, s.sec.localSince with
  | some p, some (_, hold), some t =>
    if hold * 1000000000 ≤ s.raw - t && p.raw ≤ s.raw - hold * 1000000000 then protApply s p else s
  | _, _, _ => s

/-- Follow the local confirmation input. -/
def localLevel (s : State) : State :=
  match s.sec.localInput with
  | none => s
  | some (i, _) =>
    secMod s fun x => { x with localSince := if wbit s.fio.inputs i then (match x.localSince with | none => some s.raw | t => t) else none }

/-- An unconfirmed request expires (R507). -/
def protExpiry (s : State) : State :=
  match s.sec.prot with
  | some p =>
    if p.expiry * 1000000000 ≤ s.raw - p.raw then event (showProt (secMod s fun x => { x with prot := none }) 4 p.kind) SEC 15 p.kind
    else s
  | none => s

/-! ### Debug access (R509) -/

/-- A debug open is refused. -/
def debugRefuse (s : State) (level : Nat) : State := event s SEC 17 level

/-- A session opens where the arbiter grants it. (DEDUCED, log entry 72) -/
def debugSession (s : State) (level minutes : Nat) : State :=
  let q := maintReq s 8
  if !q.1 then debugRefuse q.2 level
  else
    let s := { q.2 with pwr := { q.2.pwr with debugLevel := level } }
    let s := secMod s fun x => { x with debugEnd := s.raw + minutes * 60000000000 }
    event (setF (setF s Reg.SEC_STATUS 17 16 level) Reg.SEC_DEBUG_STATUS 1 0 level) SEC 16 level

/-- A wrong password (R509): five of them lock level 1 until the next cold boot. (DEDUCED, log entry 72) -/
def wrongPassword (s : State) : State :=
  let n := min (fld s Reg.SEC_DEBUG_STATUS 11 4 + 1) 255
  let s := debugRefuse (setF s Reg.SEC_DEBUG_STATUS 11 4 n) 1
  if n == 5 then event (secMod s fun x => { x with lockout := true }) SEC 18 else s

/-- An open request over the debug port (R509). (DEDUCED, log entry 72) -/
def debugOpen (s : State) (q : DebugReq) : State :=
  match keysInForce s with
  | none => debugRefuse s q.level
  | some k =>
    let minutes := q.minutes.toNat
    let time := 1 ≤ minutes && minutes ≤ k.maxMinutes
    if q.level.val == 1 then
      if !k.l1 || s.sec.lockout || !time then debugRefuse s 1
      else if Config.sha256 (leBytes 8 (serial s) ++ q.password) != k.passHash then wrongPassword s
      else debugSession s 1 minutes
    else if q.level.val == 2 then
      let msg := Config.sha256 (leBytes 8 (serial s) ++ nonceBytes s ++ [2] ++ leBytes 2 minutes)
      let sig (i role : Nat) (x : List Byte) : Bool :=
        match keyOf s i role with
        | some key => Config.ecdsaOk key msg x
        | none => false
      if k.l2 && time && s.sec.nonceValid && sig q.keyA.toNat 1 q.sigA && sig q.keyB.toNat 2 q.sigB then
        debugSession (secMod s fun x => { x with nonceValid := false }) 2 minutes
      else debugRefuse s 2
    else debugRefuse s 0

/-- A debug session ends, at its time or on a close (R509, R297). (DEDUCED, log entry 72) -/
def debugEnd (s : State) : State :=
  if s.pwr.debugLevel == 0 then s
  else
    let s := { s with pwr := { s.pwr with debugLevel := 0 } }
    let s := setF (setF s Reg.SEC_STATUS 17 16 0) Reg.SEC_DEBUG_STATUS 1 0 0
    releaseLocks (maintRel s 8) 0x30

end Sys2Proof.Machine
end

