-- ==== Sys2Proof/Machine/HostIf.lean ====
section
/-! DEFINITION. Host interfaces (16_host_interface.md), but for the opcodes: flows, responses, ring pairs, vectors, the host
switch and its internal port. -/

namespace Sys2Proof.Machine

/-- Change the host record. -/
def hostMod (s : State) (f : HostIf → HostIf) : State := { s with host := f s.host }

/-! ### Flows -/

/-- A flow. -/
def flow (s : State) (n : Nat) : Flow := tget (fun _ => {}) s.host.flows n

/-- Store a flow. -/
def setFlow (s : State) (n : Nat) (x : Flow) : State :=
  hostMod s fun h => { h with flows := tput (fun _ => {}) h.flows n x }

/-- The owner of a flow (R517): flows 240-247 belong to the legacy queues. -/
def flowOwner (s : State) (n : Nat) : Option Endpoint :=
  if 240 ≤ n && n < 248 then some (.legacy ⟨(n - 240) % 8, Nat.mod_lt _ (by decide)⟩) else (flow s n).owner

/-- A flow becomes free: its stored responses go and its subscriptions end (R518, R531). -/
def freeFlow (s : State) (n : Nat) : State :=
  hostMod (setFlow s n {}) fun h => { h with subs := h.subs.filter fun e => e.2.flow != n }

/-- Free every flow that an endpoint owns. -/
def freeFlows (s : State) (p : Endpoint → Bool) : State :=
  (s.host.flows.filter fun e => e.2.owner.any p).foldl (fun s e => freeFlow s e.1) s

/-- The largest payload of a response to an endpoint over a flow (R526, R541, R543). -/
def rspLimit (s : State) (ep : Endpoint) (n : Nat) : Nat :=
  match ep with
  | .ring _ => 8192
  | .udp _ _ _ => (flow s n).limit
  | .legacy _ => 1024

/-! ### Ring pairs -/

/-- The entries of a ring by its size register (R534): a log2 outside 4-12 is taken as the nearest of them (DESIGN CHOICE, log entry
65). -/
def ringLen (s : State) (size : Nat) : Nat := 2 ^ min 12 (max 4 (fld s size 3 0))

/-- A ring pair is disabled (R534): its base and size may be written. -/
def ringOff (s : State) (r : Nat) : Bool := !fbit s (Reg.HOST_RING_CTRL r) 0 && !fbit s (Reg.HOST_RING_STATUS r) 0

/-- The next completion entry is the one at HOST_CQr_HEAD (R536). -/
def cqFull (s : State) (r : Nat) : Bool :=
  (fld s (Reg.HOST_CQ_TAIL r) 11 0 + 1) % ringLen s (Reg.HOST_CQ_SIZE r) == fld s (Reg.HOST_CQ_HEAD r) 11 0

/-- Write a response and its completion entry, which takes its phase now (R536), and signal it (R537). -/
def cqWrite (s : State) (r : Nat) (e : Nat × List Byte × List Byte) : State :=
  let tail := fld s (Reg.HOST_CQ_TAIL r) 11 0
  let next := (tail + 1) % ringLen s (Reg.HOST_CQ_SIZE r)
  let x := ringOf s r
  let s := if e.2.1.isEmpty then s else emit s (.hostMem e.1 e.2.1)
  let entry := patch e.2.2 10 [BitVec.ofNat 8 (byteAt e.2.2 10 + flag x.phase)]
  let s := emit s (.hostMem (rd64 s (Reg.HOST_CQ_BASE_LO r) + 16 * tail) entry)
  let s := setF s (Reg.HOST_CQ_TAIL r) 11 0 next
  signalRing (setRing s r { x with phase := if next == 0 then !x.phase else x.phase }) r (Reg.HOST_RING_CTRL r)

/-- A completion goes out, or waits for room behind those that wait (R536). -/
def cqPost (s : State) (r : Nat) (e : Nat × List Byte × List Byte) : State :=
  let x := ringOf s r
  if x.backlog.isEmpty && !cqFull s r then cqWrite s r e
  else
    let s := setRing s r { x with backlog := x.backlog ++ [e], stalled := true }
    if x.stalled then s else event s HOST 5 r

/-- Completions that waited go out while there is room. -/
def cqDrain (r : Nat) : Nat → State → State
  | 0, s => s
  | n + 1, s =>
    let x := ringOf s r
    match x.backlog with
    | [] => setRing s r { x with stalled := false }
    | e :: es => if cqFull s r then s else cqDrain r n (cqWrite (setRing s r { x with backlog := es }) r e)

/-- A fetched entry of a ring pair is done with: requests outstanding, and the end of a pair that was disabled (R544). -/
def ringDone (s : State) (r : Fin 8) : State :=
  let n := fld s (Reg.HOST_RING_STATUS r.val) 31 16 - 1
  let s := setF s (Reg.HOST_RING_STATUS r.val) 31 16 n
  if n == 0 && !fbit s (Reg.HOST_RING_CTRL r.val) 0 then
    freeFlows (setBit s (Reg.HOST_RING_STATUS r.val) 0 false) fun e => e == .ring r
  else s

/-- The completion entry of a response, without its phase (R536). -/
def cqEntry (tag ix len status : Nat) (trunc : Bool) (seq : Word) : List Byte :=
  leBytes 2 tag ++ leBytes 2 ix ++ leBytes 4 len ++ leBytes 2 status ++ [BitVec.ofNat 8 (2 * flag trunc), 0] ++
    leBytes 4 seq.toNat

/-- A ring stops with an error (R535): 1 tail out of range, 2 read failed. -/
def ringError (s : State) (r cause : Nat) : State :=
  let s := setF (setBit (setBit s (Reg.HOST_RING_STATUS r) 0 false) (Reg.HOST_RING_STATUS r) 1 true) (Reg.HOST_RING_STATUS r) 7 4 cause
  event (bump s Reg.HOST_RING_ERR_CNT) HOST 4 r cause

/-- A write of HOST_SQr_TAIL (R534, R535). (DEDUCED, log entry 65) -/
def sqDoorbell (s : State) (r : Nat) (v : Word) : State :=
  let s := okBus (wr s (Reg.HOST_SQ_TAIL r) (v &&& 0xFFF))
  if ringLen s (Reg.HOST_SQ_SIZE r) ≤ fld s (Reg.HOST_SQ_TAIL r) 11 0 then ringError s r 1 else s

/-- A write of HOST_CQr_HEAD (R536, R537). (DEDUCED, log entry 65) -/
def cqDoorbell (s : State) (r : Nat) (v : Word) : State :=
  let s := okBus (wr s (Reg.HOST_CQ_HEAD r) (v &&& 0xFFF))
  let s := setRing s r { ringOf s r with count := 0 }
  cqDrain r ((ringOf s r).backlog.length + 1) s

/-- A write of HOST_EVQ_HEAD. -/
def evqDoorbell (s : State) (v : Word) : State :=
  let s := okBus (wr s Reg.HOST_EVQ_HEAD (v &&& 0xFFF))
  setRing s 8 { ringOf s 8 with count := 0 }

/-- A write of HOST_RINGr_CTRL (R544): enabling starts the pair, disabling lets what is in progress complete. (DEDUCED, log entry 65) -/
def ringPairCtrl (s : State) (r : Fin 8) (v : Word) : State :=
  let was := fbit s (Reg.HOST_RING_CTRL r.val) 0
  let s := okBus (wr s (Reg.HOST_RING_CTRL r.val) (v &&& 0xFFFFFF03))
  if wbit v 0 then
    if was then s
    else setF (setF s (Reg.HOST_RING_STATUS r.val) 1 0 1) (Reg.HOST_RING_STATUS r.val) 7 4 0
  else if was && fld s (Reg.HOST_RING_STATUS r.val) 31 16 == 0 then
    freeFlows (setBit s (Reg.HOST_RING_STATUS r.val) 0 false) fun e => e == .ring r
  else s

/-- The control register of the ring that a vector signals. (DEDUCED, log entry 65) -/
def vecCtrl (vec : Nat) : Nat := if vec == 8 then Reg.HOST_EVQ_CTRL else Reg.HOST_RING_CTRL vec

/-- coal_us have passed since the first pending entry (R537). (DEDUCED, log entry 65) -/
def coalesceTimeout (s : State) (vec : Nat) : State :=
  let x := ringOf s vec
  let us := fld s (vecCtrl vec) 31 16
  if 9 ≤ vec || x.count == 0 || us == 0 || !fbit s (vecCtrl vec) 1 || s.raw < x.firstRaw + 1000 * us then s
  else setRing (emit s (.msix vec)) vec { x with count := 0 }

/-! ### Responses -/

/-- A response message (R514, R515). -/
def rspMsg (opcode flow : Nat) (seq : Word) (status : Nat) (payload : List Byte) : List Byte :=
  msgHeader 1 opcode flow payload.length seq status 0 ++ payload

/-- A response goes to its endpoint. -/
def deliver (s : State) (w : Waiting) (status : Nat) (msg : List Byte) : State :=
  match w.ep with
  | .ring r =>
    let n := min w.rspCap msg.length
    ringDone (cqPost s r.val (w.rspAddr, msg.take n, cqEntry w.tag w.sqIndex n status (w.rspCap < msg.length) w.seq)) r
  | .udp ip p e => emit s (.response (.udp ip p e) msg)
  | .legacy q => queueFill s q.val ((List.range (ceilDiv msg.length 4)).map fun i => word (field msg (4 * i) 4))

/-- A response to a request: one larger than the flow's limit is BAD_LENGTH (R522, R541). -/
def rspOf (s : State) (w : Waiting) (status : Nat) (payload : List Byte) : Nat × List Byte :=
  let r := if rspLimit s w.ep w.flow < payload.length then (2, []) else (status, payload)
  (r.1, rspMsg w.opcode w.flow w.seq r.1 r.2)

/-- Answer a request that is not executed (R517-R519): nothing is stored. -/
def answer (s : State) (w : Waiting) (status : Nat) : State := deliver s w status (rspMsg w.opcode w.flow w.seq status [])

/-- An executed request completes: its response is kept among the last 8 of its flow and sent (R515, R519). -/
def finish (s : State) (w : Waiting) (status : Nat) (payload : List Byte) : State :=
  let r := rspOf s w status payload
  let x := flow s w.flow
  let s := if x.owner == some w.ep then setFlow s w.flow { x with stored := ((w.seq, r.2) :: x.stored).take 8 } else s
  deliver s w r.1 r.2

/-- The generic payload G (R516). -/
def genericG (land : Word) (detail : Nat) : List Byte := leBytes 4 land.toNat ++ leBytes 4 detail

/-- A message is discarded before it is taken (R515). -/
def discardMsg (s : State) : State := event (bump s Reg.HOST_MSG_ERR_CNT) HOST 1

/-- The form of a message (R514, R515) whose transport gives it n bytes and limits its payload. -/
def msgOk (m : List Byte) (limit : Nat) : Bool :=
  16 ≤ m.length && byteAt m 0 == 0x10 && byteAt m 1 == 0 && field m 14 2 == 0 && field m 6 2 % 4 == 0 &&
    m.length == 16 + field m 6 2 && field m 6 2 ≤ limit

/-! ### Link reset and time -/

/-- The registers of a ring pair at their reset values. -/
def ringRegs (r : Nat) : List Nat := (List.range 12).map fun i => 0x20F01000 + 0x40 * r + 4 * i

/-- The registers of the event ring. -/
def evqRegs : List Nat := (List.range 6).map fun i => 0x20F01200 + 4 * i

/-- Function Level Reset, link-down or D3hot (R538): ring and legacy flows end, their requests are dropped. (DEDUCED, log entry 67) -/
def pcieLinkReset (s : State) : State :=
  let gone (e : Endpoint) : Bool := match e with | .ring _ => true | .legacy _ => true | .udp _ _ _ => false
  let waiting := s.host.waiting.filter fun w => !gone w.ep
  let queued := s.host.queued.filter fun q => !gone q.2.ep
  let s := hostMod (freeFlows s gone) fun h => { h with waiting := waiting, queued := queued, rings := [] }
  let s := ((List.range 8).flatMap ringRegs ++ evqRegs).foldl (fun s a => wr s a (resetOf a)) s
  let s := mbxMod s fun m => { m with queues := [] }
  event (releaseLocks s 0x01) HOST 6

/-- A UDP flow without a request for flow_timeout is freed (R518). -/
def flowTimeout (s : State) (n : Nat) : State :=
  let x := flow s n
  let t := max 1 (min 600 (fld s Reg.HOST_CFG 9 0))
  match x.owner with
  | some (.udp _ _ _) => if s.raw < x.last + t * 1000000000 then s else event (freeFlow s n) HOST 2 n
  | _ => s

/-- The PCIe link trains or an Ethernet link changes (R539, R544). (DEDUCED, log entry 67) -/
def linkChange (s : State) : LinkState → State
  | .pcie speed width =>
    let w := [0, 1, 2, 4, 4].getD width.val 0
    setF (setF (setBit s Reg.HOST_STATUS 0 (speed.val != 0)) Reg.HOST_STATUS 3 1 speed.val) Reg.HOST_STATUS 7 4
      (if speed.val == 0 then 0 else w)
  | .eth p up => setBit s Reg.HOST_STATUS (8 + p.val) up

/-! ### The host switch and its internal port -/

/-- The station behind a learned address (R539). -/
def stationPort (s : State) (addr : Nat) : Option Nat := (s.host.stations.find? fun e => e.1 == addr).map (·.2.1)

/-- Learn a source address: at most 1,024 of them. (DEDUCED, log entry 67) -/
def learn (s : State) (addr port : Nat) : State :=
  let others := s.host.stations.filter fun e => e.1 != addr
  if others.length < 1024 then hostMod s fun h => { h with stations := others ++ [(addr, port, s.raw)] } else s

/-- A learned address has not been seen for 300 s (R539). (DEDUCED, log entry 67) -/
def addressAgeout (s : State) (addr : Nat) : State :=
  hostMod s fun h => { h with stations := h.stations.filter fun e => e.1 != addr || s.raw < e.2.2 + 300000000000 }

/-- The Selvedge and command ports (R544). -/
def cmdPort (s : State) : Nat := fld s Reg.HOST_UDP_PORTS 15 0
def selPort (s : State) : Nat := fld s Reg.HOST_UDP_PORTS 31 16

/-- An IPv4 address is one of this head's (R540). -/
def ownIp (s : State) (ip : Nat) : Bool := ip == (rd s Reg.HOST_IP0).toNat || ip == (rd s Reg.HOST_IP1).toNat

/-- The internal port serves a frame (R540): ARP, PTP, and untagged IPv4 without options or fragments for ICMP echo or a UDP port
that it knows. -/
def served (s : State) (f : List Byte) : Bool :=
  let ty := beField f 12 2
  if ty == 0x0806 || ty == 0x88F7 then true
  else if ty != 0x0800 || byteAt f 14 != 0x45 || beField f 20 2 % 0x4000 != 0 then false
  else if byteAt f 23 == 1 then byteAt f 34 == 8
  else if byteAt f 23 == 17 then
    let p := beField f 36 2
    p == cmdPort s || p == selPort s || p == 319 || p == 320
  else false

/-- A frame reaches the internal port: it is served, or discarded and counted. (PRESUMED, log entry 91) -/
def internalPort (s : State) (f : List Byte) : State :=
  if served s f then emit s (.toFirmware "internal port" f) else bump s Reg.HOST_UDP_DISCARD_CNT

/-- A frame leaves the switch by a port. -/
def switchOut (s : State) (f : List Byte) (port : Nat) : State :=
  if port == 2 then internalPort s f
  else if port < 2 && fbit s Reg.HOST_STATUS (8 + port) then sendEth s ⟨port % 2, Nat.mod_lt _ (by decide)⟩ f
  else s

/-- The switch forwards a frame (R539): ingress 0 or 1 external, 2 internal. -/
def switchForward (s : State) (ingress : Nat) (f : List Byte) : State :=
  if s.pwr.off.contains .host || f.length < 14 || 9022 < f.length then s
  else
    let dst := beField f 0 6
    let s := learn s (beField f 6 6) ingress
    let others := (List.range 3).filter (· != ingress)
    if dst == 0x0180C200000E then (if ingress == 2 then s else switchOut s f 2)
    else if byteAt f 0 % 2 == 1 then others.foldl (fun s p => switchOut s f p) s
    else if slice f 0 6 == stationAddr s then (if ingress == 2 then s else switchOut s f 2)
    else
      match stationPort s dst with
      | some p => if p == ingress then s else switchOut s f p
      | none => others.foldl (fun s p => switchOut s f p) s

/-- The internal port answers an ARP request for one of its addresses (R540). (PRESUMED, log entry 91) -/
def arpRequest (s : State) (eth : Fin 2) (f : List Byte) : State :=
  let target := beField f 38 4
  if f.length < 42 || beField f 12 2 != 0x0806 || slice f 14 6 != [0, 1, 8, 0, 6, 4] || beField f 20 2 != 1 || !ownIp s target then s
  else
    let me := stationAddr s
    sendEth s eth (padTo 60 (slice f 6 6 ++ me ++ [8, 6] ++ slice f 14 6 ++ [0, 2] ++ me ++ slice f 38 4 ++ slice f 22 10))

/-- The one's-complement checksum of IPv4 and ICMP. (PRESUMED, log entry 91) -/
def inetSum (bs : List Byte) : Nat :=
  let n := (List.range (ceilDiv bs.length 2)).foldl (fun n i => n + byteAt bs (2 * i) * 256 + byteAt bs (2 * i + 1)) 0
  let n := n % 65536 + n / 65536
  let n := n % 65536 + n / 65536
  65535 - n

/-- The internal port answers an ICMP echo request from the address at which it arrived (R540); the identification and the time
to live of the reply are free values. (PRESUMED, log entry 91) -/
def icmpEcho (s : State) (eth : Fin 2) (f : List Byte) : State :=
  let total := beField f 16 2
  if !served s f || beField f 12 2 != 0x0800 || byteAt f 23 != 1 || !ownIp s (beField f 30 4) || f.length < 14 + total || total < 28 then s
  else
    let ident := freeVal 16 s
    let s := drawn s
    let ttl := freeVal 8 s
    let s := drawn s
    let icmp := slice f 34 (total - 20)
    let icmp := patch (patch icmp 0 [0]) 2 [0, 0]
    let icmp := patch icmp 2 (beBytes 2 (inetSum icmp))
    let hdr := [0x45, f.getD 15 0] ++ slice f 16 2 ++ beBytes 2 ident.toNat ++ [0, 0, ttl, 1, 0, 0] ++ slice f 30 4 ++ slice f 26 4
    let hdr := patch hdr 10 (beBytes 2 (inetSum hdr))
    sendEth s eth (padTo 60 (slice f 6 6 ++ stationAddr s ++ [8, 0] ++ hdr ++ icmp))

end Sys2Proof.Machine
end

