-- ==== Sys2Proof/Machine/Land.lean ====
section
/-! DEFINITION. Accesses to registers: where a write lands in each block (R10, R12, R39-R43, R49), what a read returns, and a host
write as it enters a head: refusals of R358, stamping under R364, and the effect of a journal entry. -/

namespace Sys2Proof.Machine

/-- The block of a chip address in the register space. -/
def blockOf (a : Nat) : Nat := a / 0x100000 % 16

/-- The power domain of a block that may be off (R18, R47). -/
def domainOf (blk : Nat) : Option Domain :=
  match blk with
  | 3 => some .mot
  | 4 => some .mot
  | 8 => some .mot
  | 9 => some .mot
  | 5 => some .hem
  | 12 => some .fio
  | 15 => some .host
  | _ => none

/-- The block's power domain is off (R49). -/
def blockOff (s : State) (blk : Nat) : Bool :=
  match domainOf blk with
  | some d => s.pwr.off.contains d
  | none => false

/-- The write of ENABLE is taken while PD_MOT is off, since by it a first enable asks for the region's wake (R37; DEDUCED, log entry
24). -/
def wakeWrite (a : Nat) (v : Word) : Bool := a == Reg.PROF_CMD && wbits v 15 8 == 0x07

/-- An access is refused and logged in the HOST fault status (R49, R453). -/
def refuse (s : State) : State := event (slverr s) HOST 0

/-- A write by its access type alone (R10): bits outside the row's mask keep their value. -/
def storeRow (s : State) (a : Nat) (r : RegRow) (v : Word) : State :=
  match r.acc with
  | .rw => wr s a ((rd s a &&& ~~~r.mask) ||| (v &&& r.mask))
  | .wo => wr s a (v &&& r.mask)
  | .w1c => wr s a (rd s a &&& ~~~(v &&& r.mask))
  | _ => s

/-- The pending flags that hold back a write to a register (R41, R196, R327): status register and bit. -/
def holdFlags (blk : Nat) (r : RegRow) (i : Nat) (v : Word) : List (Nat × Nat) :=
  let o := r.off
  if 0xF000 ≤ o && o < 0xF0C0 then [] else
  match blk with
  | 0 => if o == 0x10 || o == 0x14 then [(Reg.SYS_BASTE_STATUS, 0)] else []
  | 1 => if o == 0x8 || o == 0xC || o == 0x10 then [(Reg.RING_BASTE_STATUS, 0)] else []
  | 2 => if o ≤ 0x18 then [(Reg.TIME_BASTE_STATUS, 0)] else []
  | 3 =>
    if o == 0x10 || (0x100 ≤ o && o ≤ 0x13C) then [(Reg.PROF_BASTE_STATUS, 0)]
    else if o == 0x40 || o == 0x50 then [(Reg.PROF_CMD_STATUS, 0)]
    else []
  | 4 =>
    if o == 0x50000 then [(Reg.LOOP_BASTE_STATUS, i), (Reg.LOOP_BANK_STATUS, i)]
    else if o == 0x4 || o == 0xC then [(Reg.LOOP_BASTE_STATUS, wbits v 3 0), (Reg.LOOP_BANK_STATUS, wbits v 3 0)]
    else []
  | 5 => if 0x4 ≤ o && o ≤ 0x18 then [(Reg.HEM_BASTE_STATUS, 0)] else []
  | 6 => if 0x14 ≤ o && o ≤ 0x24 then [(Reg.SCHED_BASTE_STATUS, 0)] else []
  | 8 =>
    let grp := o == 0x4 || o == 0xC || (0x100 ≤ o && o ≤ 0x110) || (0x400 ≤ o && o ≤ 0x410) || (0x1000 ≤ o && o ≤ 0x1014)
    (if grp then [(Reg.FBC_BASTE_STATUS, 0)] else []) ++ (if 0x1000 ≤ o then [(Reg.FBC_CMP_STATUS i, 1)] else [])
  | 9 => if o == 0x4 || o == 0xC || (0x100 ≤ o && o ≤ 0x170) || o == 0x1000 then [(Reg.ACQ_BASTE_STATUS, 0)] else []
  | 10 => if o == 0x0 || o == 0x4 then [(Reg.TWIN_BASTE_STATUS, 0)] else []
  | 12 => if o == 0x4 || o == 0xC || 0x100 ≤ o then [(Reg.FIO_BASTE_STATUS, 0)] else []
  | 14 => if 0x40 ≤ o && o ≤ 0x64 then [(Reg.SEC_BASTE_STATUS, 0)] else []
  | _ => []

/-- The pending flag that a journaled commit or command sets from its landing (R364). -/
def markFlag (blk : Nat) (r : RegRow) (i : Nat) (v : Word) : Option (Nat × Nat) :=
  let first := (holdFlags blk r i v).head?
  match blk, r.off with
  | 0, 0x14 => if wbit v 0 then first else none
  | 1, 0x10 => if wbit v 0 then first else none
  | 3, 0x10 => if wbit v 9 then none else first
  | 3, 0x50 => first
  | 4, 0x4 => if wbit v 8 then none else first
  | 4, 0xC => some (Reg.LOOP_BANK_STATUS, wbits v 3 0)
  | 5, 0x18 => if wbit v 0 then first else none
  | 6, 0x24 => if wbits v 1 0 != 0 then first else none
  | 8, 0x4 => if wbit v 0 then first else none
  | 8, 0x1028 => if wbit v 0 then some (Reg.FBC_CMP_STATUS i, 1) else none
  | 9, 0x4 => if wbit v 0 then first else none
  | 12, 0x4 => if wbit v 0 then first else none
  | 14, 0x64 => if wbit v 0 then first else none
  | _, _ => none

/-! ### Landing, block by block -/

/-- A SYS commit as it lands (R45): refused at once, first failure in the order of R44, or pending. -/
def landSysCommit (s : State) : State :=
  let n := fld s Reg.SYS_CYCLE_PERIOD 12 0
  let no (r : Nat) : State := okBus (setF s Reg.SYS_BASTE_STATUS 3 1 r)
  if n < 80 || 8000 < n then no 2
  else if anyEnabled s then no 4
  else if !cycleValid s n then no 3
  else okBus (setBit s Reg.SYS_BASTE_STATUS 0 true)

/-- A write to the fault group of a block (R477). -/
def landFlt (s : State) (blk a : Nat) (r : RegRow) (v : Word) : State :=
  match r.off with
  | 0xF014 => okBus (faultAck s blk (wbits v 4 0))
  | 0xF020 => okBus (if wbit v 0 then histClear s blk else s)
  | _ => okBus (storeRow s a r v)

/-- A write to the SYS block. -/
def landSys (s : State) (a : Nat) (r : RegRow) (v : Word) : State :=
  if r.off == 0x14 then (if wbit v 0 then landSysCommit s else okBus s) else okBus (storeRow s a r v)

/-- A write to the RING block. -/
def landRing (s : State) (a : Nat) (r : RegRow) (v : Word) : State :=
  match r.off with
  | 0x10 => if wbit v 0 then landRingCommit s else okBus s
  | 0x18 => landXtOut s v
  | 0x84 => landRingCtrl s v
  | 0x9C => okBus (showNode (storeRow s a r v))
  | _ => okBus (storeRow s a r v)

/-- A write to the TIME block; the registers of domain counter 0 are read-only (R153). -/
def landTime (s : State) (a : Nat) (r : RegRow) (i : Nat) (v : Word) : State :=
  let stepped (s : State) : State := { s with time := { s.time with stepWritten := true } }
  match r.off with
  | 0x4 => okBus (stepped (storeRow s a r v))
  | 0x8 => okBus (stepped (storeRow s a r v))
  | 0x100 => okBus (if i == 0 then s else storeRow s a r v)
  | 0x108 => okBus (if i == 0 then s else storeRow s a r v)
  | 0x18 => if wbit v 0 then landTimeCommit s else okBus s
  | 0x20 => landRate s v
  | 0x2C => landTimeCtrl s v
  | 0x104 => domainRate s i v
  | 0x10C => domainStep s i v
  | _ => okBus (storeRow s a r v)

/-- A write to the PROF block (R190, R196). -/
def landProf (s : State) (a : Nat) (r : RegRow) (i : Nat) (v : Word) : State :=
  match r.off with
  | 0x10 => landParamCommit s v
  | 0x50 => landProfCmd s v
  | 0x30014 => if (group s i).state != 0 || !inPart s 0 v.toNat 1 then slverr s else okBus (storeRow s a r v)
  | 0x30018 => if (group s i).state != 0 then slverr s else okBus (storeRow s a r v)
  | o =>
    let g := guardAxes s i
    if 0x40000 ≤ o && guardOn s i && (enabled s g.1 || enabled s g.2) then slverr s else okBus (storeRow s a r v)

/-- A write to the LOOP block: the configuration of a started injector refuses it (R230). -/
def landLoop (s : State) (a : Nat) (r : RegRow) (i j : Nat) (v : Word) : State :=
  match r.off with
  | 0x4 => landCoefCommit s v
  | 0xC => landBankSwap s v
  | 0x11C => landInjCtrl s i v
  | 0x10000 => landCoef s i j v
  | 0x50000 => landLaneBaste s i j v
  | o =>
    let state := fld s (Reg.LOOP_INJ_STATUS i) 1 0
    let running := state == 1 || state == 2
    if 0x100 ≤ o && o ≤ 0x118 && running then slverr s else okBus (storeRow s a r v)

/-- A write to the HEM block (R270): its memories refuse every write. -/
def landHem (s : State) (a : Nat) (r : RegRow) (i : Nat) (v : Word) : State :=
  match r.off with
  | 0x18 => landHemCommit s v
  | 0x100 => landCoreCtrl s i v
  | 0x40000 => slverr s
  | 0x80000 => slverr s
  | _ => okBus (storeRow s a r v)

/-- A port is a firmware core. -/
def isFwPort : Port → Bool
  | .fw _ => true
  | _ => false

/-- A write to the SCHED block (R275, R277, R299). -/
def landSched (s : State) (port : Port) (a : Nat) (r : RegRow) (i j : Nat) (v : Word) : State :=
  match r.off with
  | 0x4 => cancel s (wbits v 9 0) (wbit v 10)
  | 0xC => postToken s (isFwPort port) v
  | 0x24 => landSchedCommit s v
  | 0x10000 => descriptorWrite s (!isFwPort port) i j v
  | 0x30000 => if enabled s i then slverr s else okBus (storeRow s a r v)
  | 0x30004 => if enabled s i then slverr s else okBus (storeRow s a r v)
  | _ => okBus (storeRow s a r v)

/-- A token of a firmware core for a Hem-class task of a pair goes through the journal; a standby drops its own (R359, R364). -/
def fwToken (s : State) (task operand : Nat) (source : Nat) (v : Word) : Option State :=
  if !s.twin.pair || taskFw s task then none
  else if stamps s then
    some (okBus (stampWrites s [{ kind := 3, source := source, target := word (task + operand * 2 ^ 10), data := leBytes 4 v.toNat }] none))
  else if mirrors s then some (okBus s)
  else none

/-- A write to a mailbox by a firmware core or a Hem task: a word for a Hem-class task of a pair is a token of source 4 in the journal
(R290, R298, R364). -/
def mbxTokenWrite (s : State) (id m : Nat) (v : Word) : State :=
  let t := mbxStore s id m v
  if t.bus.err then t
  else
    match (if mbxTask t m then fwToken t (fld t (Reg.MBX_TGT m) 9 0) (fld t (Reg.MBX_TGT m) 11 10) 4 v else none) with
    | some u => u
    | none => mbxDeliver t m v

/-- A write to the MBX block (R287-R295, R300). -/
def landMbx (s : State) (port : Port) (a : Nat) (r : RegRow) (i : Nat) (v : Word) : State :=
  match r.off with
  | 0x0 => if isFwPort port then mbxTokenWrite s (masterId port) i v else mbxWrite s (masterId port) i v
  | 0x8 => mbxConfig s (masterId port) i a r.mask v
  | 0xC => mbxConfig s (masterId port) i a r.mask v
  | 0x1000 => queuePush s i v
  | 0x2000 => lockWrite s (masterId port) i v
  | o => if 0x1000 ≤ o && !s.mbx.legacyMode then slverr s else okBus (storeRow s a r v)

/-- A write to the FBC block (R311, R327, R328, R332). A channel out of service neither arms nor leaves its fault (R459). -/
def landFbc (s : State) (a : Nat) (r : RegRow) (i : Nat) (v : Word) : State :=
  match r.off with
  | 0x4 => landFbcCommit s v
  | 0x128 => landEncStatus s i (if cellOff s FBC i then v &&& ~~~1 else v)
  | 0x1028 => landCmpCtrl s i (if cellOff s FBC (16 + i) then v &&& ~~~1 else v)
  | 0x1018 => if (compare s i).armed || !inPart s 2 v.toNat 1 then slverr s else okBus (storeRow s a r v)
  | 0x101C => if (compare s i).armed then slverr s else okBus (storeRow s a r v)
  | _ => okBus (storeRow s a r v)

/-- A write to the ACQ block (R343, R349). -/
def landAcq (s : State) (a : Nat) (r : RegRow) (i : Nat) (v : Word) : State :=
  match r.off with
  | 0x4 => landAcqCommit s v
  | 0x180 => landSpoolCtrl s i v
  | o => if ((0x100 ≤ o && o ≤ 0x170) || o == 0x1000) && spBusy s i then slverr s else okBus (storeRow s a r v)

/-- A write to the TWIN block. -/
def landTwin (s : State) (a : Nat) (r : RegRow) (v : Word) : State :=
  match r.off with
  | 0x4 => landTwinCommit s v
  | 0xC => landTwinCtrl s v
  | _ => okBus (storeRow s a r v)

/-- A write to the FIO block. -/
def landFio (s : State) (a : Nat) (r : RegRow) (v : Word) : State :=
  match r.off with
  | 0x4 => landFioCommit s v
  | 0x20 => landFioOut s v
  | 0x28 => landOutFlt s v
  | _ => okBus (storeRow s a r v)

/-- A write to the FPM block (R466, R478): the injection registers are inert once field_lock is blown. -/
def landFpm (s : State) (a : Nat) (r : RegRow) (v : Word) : State :=
  match r.off with
  | 0x8 => landFpmCtrl s v
  | 0x200 => landMaintReq s v
  | 0x308 => okBus (if wbit v 0 then inject s else s)
  | 0x400 => okBus (wr s (Reg.FLT_STATUS SAFE) (rd s (Reg.FLT_STATUS SAFE) &&& ~~~v))
  | 0x404 => okBus (faultAck s SAFE (wbits v 4 0))
  | o => if (o == 0x300 || o == 0x304) && s.sec.fuseLock then okBus s else okBus (storeRow s a r v)

/-- A write to the SEC block. -/
def landSec (s : State) (a : Nat) (r : RegRow) (v : Word) : State :=
  match r.off with
  | 0x64 => landSecCommit s v
  | 0x70 => landSecCtrl s v
  | _ => okBus (storeRow s a r v)

/-- A write to the HOST block (R534, R544): base and size of a ring that runs are refused. -/
def landHost (s : State) (a : Nat) (r : RegRow) (i : Nat) (v : Word) : State :=
  let q : Fin 8 := ⟨i % 8, Nat.mod_lt _ (by decide)⟩
  let base (off : Bool) : State := if off then okBus (storeRow s a r v) else refuse s
  match r.off with
  | 0x1000 => base (ringOff s i)
  | 0x1004 => base (ringOff s i)
  | 0x1008 => base (ringOff s i)
  | 0x1014 => base (ringOff s i)
  | 0x1018 => base (ringOff s i)
  | 0x101C => base (ringOff s i)
  | 0x100C => sqDoorbell s i v
  | 0x1020 => cqDoorbell s i v
  | 0x1028 => ringPairCtrl s q v
  | 0x1200 => base (!fbit s Reg.HOST_EVQ_CTRL 0)
  | 0x1204 => base (!fbit s Reg.HOST_EVQ_CTRL 0)
  | 0x1208 => base (!fbit s Reg.HOST_EVQ_CTRL 0)
  | 0x120C => evqDoorbell s v
  | _ => okBus (storeRow s a r v)

/-- The MSI-X table and its pending bits in the HOST block (R544). (DEDUCED, log entry 65) -/
def msixArea (o : Nat) : Bool := 0x8000 ≤ o && o < 0x80A0

/-- A write to a register as it takes effect in its block, whatever brought it. -/
def landReg (s : State) (port : Port) (blk a : Nat) (r : RegRow) (i j : Nat) (v : Word) : State :=
  if 0xF000 ≤ r.off && r.off < 0xF0C0 then landFlt s blk a r v
  else
    match blk with
    | 0 => landSys s a r v
    | 1 => landRing s a r v
    | 2 => landTime s a r i v
    | 3 => landProf s a r i v
    | 4 => landLoop s a r i j v
    | 5 => landHem s a r i v
    | 6 => landSched s port a r i j v
    | 7 => landMbx s port a r i v
    | 8 => landFbc s a r i v
    | 9 => landAcq s a r i v
    | 10 => landTwin s a r v
    | 12 => landFio s a r v
    | 13 => landFpm s a r v
    | 14 => landSec s a r v
    | 15 => landHost s a r i v
    | _ => okBus (storeRow s a r v)

/-- A write lands (R10, R12, R41, R49, R462). -/
def landWrite (s : State) (port : Port) (a : Nat) (v : Word) : State :=
  let blk := blockOf a
  if a < 0x20000000 || 0x21000000 ≤ a || a % 4 != 0 || s.flt.resetting.contains blk then slverr s
  else if (blockOff s blk && !wakeWrite a v) || (blk == SAFE && port != .island) then refuse s
  else
    match regAt a with
    | none =>
      if blk == HOST && msixArea (a % 0x100000) then
        okBus (hostMod s fun h => { h with msix := tput (fun _ => 0) h.msix (a % 0x100000) v })
      else okBus s
    | some (r, i, j) =>
      if ((holdFlags blk r i v).any fun f => fbit s f.1 f.2) || (blk == LOOP && r.off == 0x10000 && s.loop.swapHeld.contains i) then slverr s
      else landReg s port blk a r i j v

/-! ### Reads -/

/-- Where a read of PROF shows a state that no register holds. -/
def viewProf (s : State) (a : Nat) (r : RegRow) (i j : Nat) : Word :=
  let x := axis s i
  let g := group s i
  let half (n : Nat) (hi : Nat) : Word := word (n / 2 ^ (32 * hi))
  match r.off with
  | 0x0 => word (s.prof.axes.countP (fun e => e.2.mode != 0) + (streaming s).length * 2 ^ 16)
  | 0x10000 => par s i j
  | 0x20000 =>
    let trip := s.prof.tripped.any fun p => (guardAxes s p).1 == i || (guardAxes s p).2 == i
    word (x.mode + flag x.referenced * 2 ^ 4 + flag x.limPos * 2 ^ 5 + flag x.limNeg * 2 ^ 6 + flag x.limitHeld * 2 ^ 7 +
      flag trip * 2 ^ 8 + flag x.stopBeyond * 2 ^ 9 + flag x.limitStop * 2 ^ 10 + flag x.phaseOk * 2 ^ 11 +
      flag x.phaseLost * 2 ^ 12 + flag x.inPosition * 2 ^ 13)
  | 0x20004 => half (unsg 64 x.sp2.pos) 0
  | 0x20008 => half (unsg 64 x.sp2.pos) 1
  | 0x2000C => half (unsg 64 x.sp2.vel) 0
  | 0x20010 => half (unsg 64 x.sp2.vel) 1
  | 0x20014 => half (unsg 64 x.target) 0
  | 0x20018 => half (unsg 64 x.target) 1
  | 0x2001C =>
    let c0 := readMem s .ret (retAt i false) 16
    let c1 := readMem s .ret (retAt i true) 16
    let e := if retCopy s i then c1 else c0
    word (field e 4 2 % 1024 + flag (retOk e) * 2 ^ 15)
  | 0x30000 => word (g.members.length + flag g.defined * 2 ^ 8)
  | 0x30004 => word (leVal ((List.range 4).map fun k => BitVec.ofNat 8 (g.members.getD (4 * j + k) 0)))
  | 0x30028 => word (g.state + g.flags)
  | 0x40000 => wset (rd s a) 24 24 (flag (s.prof.tripped.contains i))
  | _ => rd s a

/-- Where a read of LOOP shows a state that no register holds. (DEDUCED, log entry 15) -/
def viewLoop (s : State) (a : Nat) (r : RegRow) (i j : Nat) : Word :=
  let x := loopAx s i
  match r.off with
  | 0x0 => word (flag (doubleBank s) + s.loop.countLast * 2 ^ 8)
  | 0x10000 => bankWord s (windowBank s i) i j
  | 0x30000 => coef s i j
  | 0x60000 => x.e
  | 0x60004 => x.vref
  | 0x60008 => x.vmeas
  | 0x6000C => x.tcmd
  | 0x60010 => x.ipos
  | 0x60014 => x.ivel
  | 0x60018 => x.cur
  | 0x6001C => word x.flags
  | _ => rd s a

/-- Where a read of HEM shows a state that no register holds. -/
def viewHem (s : State) (a : Nat) (r : RegRow) (i j : Nat) : Word :=
  match r.off with
  | 0x0 => hemStatus s
  | 0x108 => hemCoreStatus s i
  | 0x10C => hemCoreTask s i
  | 0x40000 => tget (fun _ => 0) (hemCore s i).prog j
  | 0x80000 => word (leVal ((hemCore s i).bytes (4 * j) 4))
  | _ => rd s a

/-- Whole seconds left of a time that began at a raw value, as they read (0 at the end). -/
def secondsLeft (s : State) (since len : Nat) : Nat := len - (s.raw - since) / 1000000000

/-- Where a read of SEC shows time (R512). -/
def viewSec (s : State) (a : Nat) (r : RegRow) : Word :=
  match r.off with
  | 0x6C => match s.sec.healthRaw with | some t => word (secondsLeft s t s.sec.healthS) | none => 0
  | 0xC0 => match s.sec.prot with
    | some p => wset (rd s a) 31 16 (min 65535 (secondsLeft s p.raw p.expiry))
    | none => rd s a
  | 0xC4 => if s.pwr.debugLevel == 0 then rd s a
    else wset (rd s a) 31 16 (ceilDiv (s.sec.debugEnd - s.raw) 60000000000)
  | _ => rd s a

/-- The value that a register shows. (DESIGN CHOICE, log entry 10) (DESIGN CHOICE, log entry 90) -/
def regView (s : State) (blk a : Nat) (r : RegRow) (i j : Nat) : Word :=
  if 0xF000 ≤ r.off && r.off < 0xF0C0 then
    if r.off == 0xF040 then
      let h := (history s blk).getD i {}
      match j with | 0 => h.w0 | 1 => h.w1 | 2 => h.w2 | _ => h.w3
    else rd s a
  else
    match blk with
    | 0 =>
      if r.off == 0x40 then
        let here (k : Nat) : Nat := flag (!s.pwr.lost.contains k)
        word (here 0 + here 1 * 2 + here 2 * 4 + here 1 * 8)
      else if r.off == 0x44 then word ((List.range 13).foldl (fun n k => n + flag (!s.pwr.bad.contains k) * 2 ^ k) 0)
      else rd s a
    | 2 =>
      if r.off == 0x40 then word (secOf s.cyc.latch)
      else if r.off == 0x44 then word (secOf s.cyc.latch / 2 ^ 32)
      else if r.off == 0x48 then word (nsOf s.cyc.latch)
      else if r.off == 0x104 && i == 0 then BitVec.ofInt 32 (domc s 0).rate
      else rd s a
    | 3 => viewProf s a r i j
    | 4 => viewLoop s a r i j
    | 5 => viewHem s a r i j
    | 6 =>
      if r.off == 0x0 then schedStatus s
      else if r.off == 0x2C then word (tick s)
      else if r.off == 0x20000 then taskState s i
      else rd s a
    | 7 =>
      if r.off == 0x4 then rd s (Reg.MBX_DATA i)
      else if r.off == 0x1008 then word ((legacy s i).h2d.length + (legacy s i).d2h.length * 2 ^ 8)
      else rd s a
    | 9 => if r.off == 0x0 then acqStatus s else rd s a
    | 10 =>
      if r.off == 0x18 then word s.twin.twinSerial.toNat
      else if r.off == 0x1C then word (s.twin.twinSerial.toNat / 2 ^ 32)
      else if r.off == 0x60 then
        match s.twin.activeRaw with
        | none => 0xFFFFFFFF
        | some t => if twinSt s == 1 then 0 else word ((s.raw - t) / 1000000000)
      else rd s a
    | 13 =>
      if r.off == 0x400 then rd s (Reg.FLT_STATUS SAFE)
      else if (r.off == 0x300 || r.off == 0x304) && s.sec.fuseLock then 0
      else rd s a
    | 14 => viewSec s a r
    | 15 => if r.off == 0x0 then wset (rd s a) 16 16 (flag s.mbx.legacyMode) else rd s a
    | _ => rd s a

/-- A read by its access type (R10, R11): WO and W1P read 0, RC clears what it returns. -/
def readRow (s : State) (blk a : Nat) (r : RegRow) (i j : Nat) : State :=
  match r.acc with
  | .wo => okBus s 0
  | .w1p => okBus s 0
  | .rc => okBus (wr s a 0) (rd s a)
  | _ => okBus s (regView s blk a r i j)

/-- A read of a register (R10-R12, R49, R462); the MBX block answers by the master that reads (R287-R295). -/
def readReg (s : State) (port : Port) (a : Nat) : State :=
  let blk := blockOf a
  if a < 0x20000000 || 0x21000000 ≤ a || a % 4 != 0 || s.flt.resetting.contains blk then slverr s
  else if blockOff s blk then refuse s
  else
    match regAt a with
    | none =>
      if blk == HOST && msixArea (a % 0x100000) then okBus s (tget (fun _ => 0) s.host.msix (a % 0x100000)) else okBus s 0
    | some (r, i, j) =>
      if blk == MBX && r.off < 0xF000 then
        if r.off == 0x0 then mbxRead s (masterId port) i
        else if r.off == 0x1004 then queuePop s i
        else if r.off == 0x2000 then lockRead s (masterId port) i
        else if 0x1000 ≤ r.off && !s.mbx.legacyMode then slverr s
        else readRow s blk a r i j
      else readRow s blk a r i j

/-- A read by a port: in reset nothing answers; the debug port reads in a session (R509). (DEDUCED, log entry 17) -/
def portRead (s : State) (port : Port) (a : Nat) : State :=
  if s.sec.inReset || (port == .debug && s.pwr.debugLevel == 0) then slverr s else readReg s port a

/-! ### The journal's register writes -/

/-- The blocks, registers and mailboxes of R358. -/
def journaled (s : State) (a : Nat) : Bool :=
  let blk := blockOf a
  let o := a % 0x100000
  [0, 1, 3, 4, 5, 6, 8, 9, 12].contains blk || (blk == SEC && 0x40 ≤ o && o ≤ 0x64) ||
    (blk == MBX && o < 0x400 && o % 16 == 0 && fld s (Reg.MBX_CFG (o / 16)) 15 8 == 0x40)

/-- Mark a journaled commit or command as pending from its landing (R364). -/
def markPending (s : State) (a : Nat) (v : Word) : State :=
  match regAt a with
  | none => s
  | some (r, i, _) =>
    match markFlag (blockOf a) r i v with
    | none => s
    | some f =>
      let s := if a == Reg.LOOP_BANK_SWAP then { s with loop := { s.loop with swapHeld := wbits v 7 0 :: s.loop.swapHeld } } else s
      setBit s f.1 f.2 true

/-- The length that SYS_CYCLE_PERIOD will have in force at L(m) for entries stamped now (R569): the stamped writes in their order, each
commit taken where landSysCommit would take it. The staged length and the one in force go along. A commit that has landed is not among
the entries. -/
def lengthAhead (s : State) : Nat :=
  let commits (e : JEntry) : Bool := e.kind == 1 && e.target.toNat == Reg.SYS_BASTE_COMMIT && field e.data 0 4 % 2 == 1
  (s.twin.entries.foldl (fun (p : Nat × Nat) e =>
    let v := field e.data 0 4
    if e.kind != 1 then p
    else if e.target.toNat == Reg.SYS_CYCLE_PERIOD then (v % 8192, p.2)
    else if commits e && cycleValid s p.1 && !anyEnabled s then (p.1, p.1)
    else p) (fld s Reg.SYS_CYCLE_PERIOD 12 0,
      if fbit s Reg.SYS_BASTE_STATUS 0 && !s.twin.entries.any commits then fld s Reg.SYS_CYCLE_PERIOD 12 0 else s.cyc.operating)).2

/-- Why the journal holder does not stamp an ENABLE (R569). -/
def enableRefused (s : State) (a : Nat) (v : Word) : Option State :=
  if a != Reg.PROF_CMD || wbits v 15 8 != 0x07 || enabled s (wbits v 7 0) then none
  else
    let show11 (s : State) : State :=
      let s := setF (setF s Reg.PROF_CMD_STATUS 15 8 0x07) Reg.PROF_CMD_STATUS 23 16 (wbits v 7 0)
      okBus (setF s Reg.PROF_CMD_STATUS 4 1 11)
    if ringSt s != 5 && ringSt s != 6 then some (show11 s)
    else if !anyEnabled s && !cycleValid s (lengthAhead s) then some (show11 (event s RING 1))
    else none

/-- A host write that is journaled: what a solo head would refuse now is refused, the rest is stamped (R364). -/
def stampReg (s : State) (port : Port) (a : Nat) (v : Word) : State :=
  let t := landWrite s port a v
  if t.bus.err then t
  else
    match enableRefused s a v with
    | some t => t
    | none => okBus (stampWrites (markPending s a v) [{ kind := 1, target := word a, data := leBytes 4 v.toNat }] none)

/-- This head refuses the host writes of R358, or as the active before a swap (R386). -/
def refusesWrites (s : State) : Bool :=
  s.twin.pair && ((2 ≤ twinSt s && twinSt s ≤ 4) || (twinSt s == 5 && s.twin.formerStandby) || (stamps s && swapHolds s))

/-- A write of a firmware core. In a pair its SCHED commit goes through the journal too (R298); a standby drops its own. -/
def fwWrite (s : State) (port : Port) (a : Nat) (v : Word) : State :=
  if a == Reg.SCHED_POST_HI then
    match fwToken s (wbits v 9 0) (wbits v 11 10) 6 (rd s Reg.SCHED_POST_LO) with
    | some t => t
    | none => landWrite s port a v
  else if a == Reg.SCHED_BASTE_COMMIT && stamps s then stampReg s port a v
  else if a == Reg.SCHED_BASTE_COMMIT && s.twin.pair && mirrors s then okBus s
  else landWrite s port a v

/-- A write by a port. -/
def hostWrite (s : State) (port : Port) (a : Nat) (v : Word) : State :=
  if s.sec.inReset then slverr s
  else
    match port with
    | .debug => if s.pwr.debugLevel == 2 then landWrite s port a v else slverr s
    | .island => landWrite s port a v
    | .fw _ => fwWrite s port a v
    | _ =>
      if s.twin.pair && journaled s a then
        if refusesWrites s then slverr s
        else if stamps s then stampReg s port a v
        else landWrite s port a v
      else landWrite s port a v

/-- A journaled register write takes effect (R364): the pending marks that its landing left do not hold it back. -/
def landEntry (s : State) (a : Nat) (v : Word) : State :=
  match regAt a with
  | none => s
  | some (r, i, _) =>
    let blk := blockOf a
    let set := (holdFlags blk r i v).filter fun f => fbit s f.1 f.2
    let s := set.foldl (fun s f => setBit s f.1 f.2 false) s
    let swaps := if a == Reg.LOOP_BANK_SWAP then s.loop.swapHeld.erase (wbits v 7 0) else s.loop.swapHeld
    let s := { s with loop := { s.loop with swapHeld := [] } }
    let s := if blk == MBX && r.off == 0 then mbxWrite s (fld s (Reg.MBX_CFG i) 7 0) i v else landWrite s .pcie a v
    let keep := set.filter fun f => some f != markFlag blk r i v
    keep.foldl (fun s f => setBit s f.1 f.2 true) { s with loop := { s.loop with swapHeld := swaps } }

/-! ### Posts -/

/-- A posted token goes to its destination (R276). -/
def postTo (s : State) (dest v : Word) : State :=
  let a := wbits dest 7 0
  match wbits dest 31 28 with
  | 1 => postTok s 2 (mkTok s 5 (wbits dest 9 0) (wbits dest 11 10) v)
  | 2 => { s with loop := { s.loop with results := tput (fun _ => none) s.loop.results a (some (v.setWidth 16)) } }
  | 3 =>
    if hemHook s a then s
    else if s.ring.fresh.contains a then
      ringMod s fun r => { r with image := tmod (fun _ => {}) r.image a fun o => { o with torque := v.setWidth 16 } }
    else if !s.ring.launched || s.ring.returned then
      ringMod s fun r => { r with replace := tput (fun _ => none) r.replace a (some (v.setWidth 16)) }
    else
      let s := { s with twin := { s.twin with kind3Lost := a :: s.twin.kind3Lost.filter (· != a) } }
      event (bump s Reg.LOOP_HEM_LATE_CNT) LOOP 2 a
  | 4 => let b := s.bus; let s := mbxTokenWrite s 0 (wbits dest 5 0) v; { s with bus := b }
  | _ => s

/-- A token leaves a core's post buffer (R254, R259), unless the port of the matching store is full (R273). (DEDUCED, log entry 35) -/
def postDrain (s : State) (c : Nat) : State :=
  let h := hemCore s c
  match h.posts with
  | [] => s
  | p :: r =>
    if wbits p.dest 31 28 == 1 && 16 ≤ (tget (fun _ => []) s.sched.ports 2 : List Token).length then s
    else
      let gone := h.ended.filter fun t => !(r.any fun q => q.task == t)
      let s := setHemCore s c { h with posts := r, ended := h.ended.filter fun t => !(gone.contains t) }
      gone.foldl taskEnded (postTo s p.dest p.value)

/-! ### Entries of the journal -/

/-- The input port of the matching store that a token's source uses (R273). (DEDUCED, log entry 68) -/
def sourcePort (source : Nat) : Nat := if source == 3 then 6 else if source == 6 then 4 else 5

/-- The host-side connection that an entry brings a PDU for (R422). -/
def pduEntry (e : JEntry) : Option Nat :=
  (List.range 8).find? fun h => e.kind == 1 && e.target.toNat == Reg.SAFE_HC_RX h 0 && e.data.length == 16

/-- A journal entry takes effect (R364, R365); a PDU waits for the island's next safety cycle (R422). (DEDUCED, log entry 68) -/
def applyEntry (s : State) (e : JEntry) : State :=
  match pduEntry e with
  | some h => let x := conn s (126 + h); setConn s (126 + h) { x with journaled := x.journaled ++ [e.data] }
  | none =>
  match e.kind with
  | 1 => (List.range (e.data.length / 4)).foldl (fun s i =>
      landEntry s (e.target.toNat + 4 * i) (word (field e.data (4 * i) 4))) s
  | 2 => writeMem (dirty s e.target.toNat e.data.length) .bolt e.target.toNat e.data
  | 3 =>
    let m := s.mbx.full.find? fun m => e.source == 4 && mbxTask s m && fld s (Reg.MBX_TGT m) 11 0 == wbits e.target 11 0
    postTok s (sourcePort e.source)
      { mkTok s e.source (wbits e.target 9 0) (wbits e.target 11 10) (word (field e.data 0 4)) with mbx := m }
  | _ => s

end Sys2Proof.Machine
end

