-- ==== Sys2Proof/Machine/Apply.lean ====
section
/-! DEFINITION. Applying the configuration set (R490-R497), homing sequences (R495), and supplies, clocks and the wake of the motion
region (R37, R551-R556). -/

namespace Sys2Proof.Machine

/-- The commit point of a pending SYS commit (R45). -/
def applySys (s : State) : State :=
  if !fbit s Reg.SYS_BASTE_STATUS 0 then s
  else
    let s := applyBaste s [Reg.SYS_CYCLE_PERIOD]
    let s := setF (setBit s Reg.SYS_BASTE_STATUS 0 false) Reg.SYS_BASTE_STATUS 3 1 1
    { s with cyc := { s.cyc with operating := actF s Reg.SYS_CYCLE_PERIOD 12 0 } }

/-! ### Records -/

/-- A range check. -/
def guarded (ok : Bool) (s : State) : Option State := if ok then some s else none

/-- The worker entries of a topology record keep the ranges of R493 and R60, ascending from position p. -/
def topoOk : Nat → Nat → List Byte → Bool
  | 0, _, bs => bs.all (· == 0)
  | n + 1, p, bs =>
    let a := byteAt bs 1
    let len := 12 + ceilDiv a 2 * 4
    byteAt bs 0 == p && a ≤ 64 && len ≤ bs.length && ((List.range a).all fun k => byteAt bs (13 + 2 * k) < 64) &&
      topoOk n (p + 1) (bs.drop len)

/-- The ring topology record (R493), where pair says that the set carries a pair record (R351). (DEDUCED, log entry 50) -/
def applyTopology (s : State) (pair : Bool) (b : List Byte) : Option State :=
  let n := byteAt b 0
  let axes := ((topoEntries n (b.drop 16)).map fun e => e.2.map (·.1)).flatten
  let win := field b 4 2
  let ageLim := field b 6 2
  let ok := 16 ≤ b.length && n ≤ 126 && byteAt b 1 == (if pair then 2 else 1) && byteAt b 2 ≤ 1 && byteAt b 3 ≤ 2 &&
    100 ≤ win && win ≤ 1000 && 1 ≤ ageLim && ageLim ≤ 6 && topoOk n 1 (b.drop 16) && decide axes.Nodup
  let full := 64 + 40 * n + 28 * axes.length + 1024 + 32
  let lane (l : Nat) : Nat := (axes.filter fun a => a % 16 == l).length
  let banks := 128 < axes.length || (List.range 16).all fun l => lane l ≤ 8
  if !ok || (if byteAt b 2 == 1 then 8192 else 16384) < full || !banks then none
  else
    let s := setF (setF s Reg.RING_LINK_CFG 1 0 (byteAt b 2)) Reg.RING_LINK_CFG 3 2 (byteAt b 3)
    let s := setF s Reg.RING_START_CFG 25 16 win
    let s := applyBaste (setF s Reg.RING_AGE_CFG 2 0 ageLim) [Reg.RING_AGE_CFG]
    let s := wr s Reg.SYS_AXIS_CFG (word (axes.length + 512 * flag (axes.length ≤ 128)))
    some (orient (ringMod s fun r => { r with record := b, cfgHash := word (crc32c b), twinFar := pair }))

/-- Drop a repeated neighbour. -/
def dedupRuns : List Nat → List Nat
  | a :: b :: l => if a == b then dedupRuns (b :: l) else a :: dedupRuns (b :: l)
  | l => l

/-- A list rises strictly. -/
def rising (l : List Nat) : Bool := (l.zip (l.drop 1)).all fun p => p.1 < p.2

/-- The Bolt partition record (R19, R495). -/
def applyPartition (s : State) (b : List Byte) : Option State :=
  let ps := b.map (·.toNat)
  let runs := (dedupRuns ps).filter (· != 255)
  guarded (ps.length == 96 && ps.all (fun p => p ≤ 5 || p == 255) && rising runs && runs.contains 3 && runs.contains 5) { s with part := ps }

/-- The power budget record (R471, R495), of a set. -/
def applyBudget (s : State) (set b : List Byte) : Option State :=
  let lim (r : Nat) : Nat := field b (4 * r) 2
  let ok := b.length == 20 && (List.range 5).all fun r => Config.reservation set r + Config.steadyCurrent set r ≤ lim r
  let s := (List.range 5).foldl (fun s r =>
    let s := wr (wr s (Reg.FPM_RAIL_LIMIT r) (word (lim r))) (Reg.FPM_RAIL_SLEW r) (word (field b (4 * r + 2) 2))
    let s := wr s (Reg.FPM_RAIL_RESV r) (word (Config.reservation set r))
    { s with pwr := { s.pwr with steady := tput (fun _ => 0) s.pwr.steady r (Config.steadyCurrent set r) } }) s
  guarded ok { s with pwr := { s.pwr with mayOff := Config.mayPowerDown set } }

/-- The fault policy record (R457, R495). -/
def applyPolicy (s : State) (b : List Byte) : Option State :=
  let es := (List.range (b.length / 12)).map fun i => slice b (12 * i) 12
  let ok := b.length % 12 == 0 && es.all fun e => byteAt e 0 ≤ 15 && field e 2 2 ≤ 1000
  guarded ok (es.foldl (fun s e =>
    let k := byteAt e 0
    wr (wr (wr s (Reg.FLT_CFG k) (word (field e 2 2))) (Reg.FLT_SEV_LO k) (word (field e 4 4))) (Reg.FLT_SEV_HI k) (word (field e 8 4))) s)

/-- The pair record (R351, R495). -/
def applyPair (s : State) (b : List Byte) : Option State :=
  let sa := field b 4 8
  let sb := field b 12 8
  let lead := byteAt b 20
  let jmax := byteAt b 21
  let ok := b.length == 24 && field b 0 4 != 0 && (serial s == sa || serial s == sb) && sa != sb && 2 ≤ lead && lead ≤ 15 && 16 ≤ jmax
  let s := applyBaste (setF (setF s Reg.TWIN_CFG 3 0 lead) Reg.TWIN_CFG 15 8 jmax) [Reg.TWIN_CFG]
  let endA := serial s == sa
  let s := { s with twin := { s.twin with
    pair := true, pairId := word (field b 0 4), endA := endA, twinSerial := BitVec.ofNat 64 (if endA then sb else sa) } }
  guarded ok (orient s)

/-- The host network record (R495). -/
def applyNetwork (s : State) (b : List Byte) : Option State :=
  let m0 := byteAt b 12
  let m1 := byteAt b 28
  let s := wr (wr s Reg.HOST_IP0 (word (field b 0 4))) Reg.HOST_IP1 (word (field b 16 4))
  let s := wr s Reg.HOST_UDP_PORTS (word (field b 32 2 + field b 34 2 * 65536))
  let s := setF (setF s Reg.HOST_STATUS 11 10 m0) Reg.HOST_STATUS 13 12 m1
  guarded (b.length == 36 && m0 ≤ 3 && m1 ≤ 3) { s with host := { s.host with
    net := [(field b 4 4, field b 8 4), (field b 20 4, field b 24 4)] } }

/-- The commit and status registers of the baste groups that register images may commit. -/
def commitOf (blk : Nat) : Option (Nat × Nat) :=
  match blk with
  | 0 => some (Reg.SYS_BASTE_COMMIT, Reg.SYS_BASTE_STATUS)
  | 1 => some (Reg.RING_BASTE_COMMIT, Reg.RING_BASTE_STATUS)
  | 2 => some (Reg.TIME_BASTE_COMMIT, Reg.TIME_BASTE_STATUS)
  | 3 => some (Reg.PROF_BASTE_COMMIT, Reg.PROF_BASTE_STATUS)
  | 6 => some (Reg.SCHED_BASTE_COMMIT, Reg.SCHED_BASTE_STATUS)
  | 8 => some (Reg.FBC_BASTE_COMMIT, Reg.FBC_BASTE_STATUS)
  | 9 => some (Reg.ACQ_BASTE_COMMIT, Reg.ACQ_BASTE_STATUS)
  | 10 => some (Reg.TWIN_BASTE_COMMIT, Reg.TWIN_BASTE_STATUS)
  | 12 => some (Reg.FIO_BASTE_COMMIT, Reg.FIO_BASTE_STATUS)
  | _ => none

/-- Every pending commit of a register image reaches its commit point before the next entry (R494). (DEDUCED, log entry 50) -/
def settle (s : State) : State :=
  applyTwin (applyFio (applyAcq (applyFbc (applyParams (applyTime (applyRing (applySys s)))))))

/-- Write words of a register image in ascending order (R494). -/
def imageWords : State → Nat → List Word → Option State
  | s, _, [] => some s
  | s, a, w :: ws =>
    let s := settle (landWrite s (.fw 0) a w)
    if s.bus.err then none else imageWords s (a + 4) ws

/-- The entries of a register image (R494). -/
def imageEntries : Nat → State → List Byte → Option State
  | _, s, [] => some s
  | 0, _, _ => none
  | n + 1, s, bs =>
    let a := field bs 0 4
    let c := field bs 4 2
    let blk := blockOf a
    if bs.length < 8 + 4 * c || c < 1 || 1024 < c || a < 0x20000000 || 0x21000000 ≤ a || !([0, 1, 2, 3, 6, 7, 8, 9, 10, 12, 15].contains blk) then none
    else
      match imageWords s a (wordsOf c (bs.drop 8)) with
      | none => none
      | some s =>
        let rest := bs.drop (8 + 4 * c)
        if !bit (field bs 6 2) 0 then imageEntries n s rest
        else
          match commitOf blk with
          | none => none
          | some (reg, st) =>
            let s := settle (landWrite s (.fw 0) reg 1)
            if s.bus.err || fld s st 3 1 != 1 then none else imageEntries n s rest

/-- Store a whole coefficient record: the active bank is 0, and in double-bank mode the inactive record equals it (R224).
(DEDUCED, log entry 77) -/
def storeCoef (s : State) (a : Nat) (w : Nat → Word) : State :=
  (List.range 128).foldl (fun s i => setBank (if doubleBank s then setBank s true a i (w i) else s) false a i (w i)) s

/-- A coefficient record of a set (R222, R491). (DEDUCED, log entry 50) (DEDUCED, log entry 77) -/
def applyCoef (s : State) (a : Nat) (b : List Byte) : Option State :=
  let ws := wordsOf 128 b
  let w (i : Nat) : Word := ws.getD i 0
  guarded (b.length == 512 && configured s a && coefCheck s a w == 1) (storeCoef s a w)

/-- The configured axes for which a set has no coefficient record take the default (R220). -/
def defaultCoefs (s : State) (rs : List CfgRecord) : State :=
  ((s.ring.sections.map (·.axes)).flatten.filter fun a => !(rs.any fun r => r.type == 8 && r.inst == a)).foldl
    (fun s a => storeCoef s a coefDefault) s

/-- A Hem image record (R266, R491). -/
def applyImage (s : State) (b : List Byte) : Option State :=
  let hdr := slice b 4 16
  let body := b.drop 20
  let cores := maskCores (field b 0 2)
  guarded (20 ≤ b.length && !cores.isEmpty && imageCheck hdr body == 1) (loadCores s cores hdr body)

/-- A homing sequence (R495). -/
def applyHoming (s : State) (a : Nat) (b : List Byte) : Option State :=
  let steps := (List.range ((b.length - 4) / 24)).map fun i => slice b (4 + 24 * i) 24
  guarded (4 ≤ b.length && (b.length - 4) % 24 == 0 && a < 256 && byteAt b 0 ≤ 1 && steps.all fun x => byteAt x 2 ≤ 3)
    (secMod s fun x => { x with homing := tput (fun _ => []) x.homing a b })

/-- The local confirmation record (R495, R507). -/
def applyLocal (s : State) (b : List Byte) : Option State :=
  let h := field b 2 2
  guarded (b.length == 4 && byteAt b 0 < 32 && 3 ≤ h && h ≤ 10) (secMod s fun x => { x with localInput := some (byteAt b 0, h) })

/-- One record of a set takes effect. -/
def applyRecord (set : List Byte) (pair : Bool) (s : State) (r : CfgRecord) : Option State :=
  match r.type with
  | 0x0001 => applyTopology s pair r.payload
  | 0x0002 => applyPartition s r.payload
  | 0x0003 => applyBudget s set r.payload
  | 0x0004 => applyPolicy s r.payload
  | 0x0005 => applyPair s r.payload
  | 0x0006 => applyNetwork s r.payload
  | 0x0007 => imageEntries r.payload.length s r.payload
  | 0x0008 => applyCoef s r.inst r.payload
  | 0x0009 => applyImage s r.payload
  | 0x000A => guarded (parseSet r.payload).isSome s
  | 0x000B => applyHoming s r.inst r.payload
  | 0x000C => applyLocal s r.payload
  | _ => some s

/-- The record is known to this firmware. -/
def knownType (r : CfgRecord) : Bool := 1 ≤ r.type && r.type ≤ 12

/-- The first record that refuses a set before anything is applied: a CRC, an unknown type or a major version (R492). -/
def unreadable (rs : List CfgRecord) : Option CfgRecord :=
  rs.find? fun r => !r.ok || (!knownType r && !r.optional) || (knownType r && r.version / 256 != 1)

/-- The first type with the wrong number of records (R491), with the instance that has two. (DEDUCED, log entry 50) -/
def miscounted (rs : List CfgRecord) : Option (Nat × Nat) :=
  let n (t : Nat) : Nat := (rs.filter fun r => r.type == t).length
  let dup (t : Nat) : Option (Nat × Nat) :=
    (rs.find? fun r => r.type == t && 1 < (rs.filter fun q => q.type == t && q.inst == r.inst).length).map fun r => (t, r.inst)
  match [1, 2, 3, 4, 10].find? fun t => n t != 1 with
  | some t => some (t, 0)
  | none =>
    match [5, 6, 12].find? fun t => 1 < n t with
    | some t => some (t, 0)
    | none =>
      if 255 < n 7 then some (7, 255)
      else if 16 < n 9 then some (9, 16)
      else
        (dup 8).or (dup 11)

/-- Apply records in order, up to the first that is refused. -/
def applyAll (set : List Byte) (pair : Bool) : State → List CfgRecord → Except (Nat × Nat) State
  | s, [] => .ok s
  | s, r :: rs =>
    match applyRecord set pair s r with
    | none => .error (r.type, r.inst)
    | some s => applyAll set pair s rs

/-- The records of a set in the order of R492: by type, then by instance; a stable order. -/
def inOrder (rs : List CfgRecord) : List CfgRecord :=
  let known := rs.filter knownType
  ((List.range 12).map fun t =>
    (known.filter fun r => r.type == t + 1).mergeSort fun a b => a.inst ≤ b.inst).flatten

/-- A set is refused (R492): nothing of it is in force. A trial falls back (R504). (DEDUCED, log entry 50) -/
def refuseSet (s : State) (type inst : Nat) : State :=
  let s := wr s Reg.SEC_CFG_REFUSED (word (type % 65536 + inst % 65536 * 65536))
  let s := event s SEC 4 (type % 65536) (inst % 65536)
  if onTrial s then fallBack s 1
  else
    let s := setF (setF s Reg.SEC_STATUS 2 0 4) Reg.SAFE_STATUS 1 0 0
    hostDefaults ((safeAxes s).foldl (fun s a => setSafeAxis s a { safeAxis s a with sto := true }) s)

/-- The motion groups that a set assigns (R156), of 1-16 configured axes, each axis in one group at most; an empty member list leaves a
group undefined. (DESIGN CHOICE, log entry 61) -/
def assignGroups (s : State) (gs : List (List Nat)) : State :=
  if 64 < gs.length || gs.any (fun m => 16 < m.length || m.any fun a => !configured s a) || !decide gs.flatten.Nodup then s
  else
    ((List.range gs.length).zip gs).foldl (fun s g =>
      if g.2.isEmpty then s else setGroup s g.1 { members := g.2, defined := true }) s

/-- The set is in force: what the boot goes on with (R484, R52, R93). (DESIGN CHOICE, log entry 92) -/
def setAccepted (s : State) (set : List Byte) : State :=
  let axes := (s.ring.sections.map (·.axes)).flatten
  let s := (axes.filter (Config.absolute set)).foldl (fun s a => axMod s a fun x => { x with referenced := true }) s
  let s := assignGroups (axes.foldl retainLoad s) (Config.motionGroups set)
  let s := mbxMod s fun m => { m with legacyMode := Config.legacyMode set }
  let quiet := fld s Reg.HOST_STATUS 11 10 == 0 && fld s Reg.HOST_STATUS 13 12 == 0 && Config.pcieUnused set
  let s := if quiet then { s with pwr := { s.pwr with off := s.pwr.off ++ [.host] } } else s
  let hash := word (crc32c set)
  let s := wr (setF s Reg.SEC_STATUS 2 0 3) Reg.SEC_CFG_SET_HASH hash
  let s := coldStart (showFbc { s with twin := { s.twin with cfgSetHash := hash }, sec := { s.sec with applied := true } })
  if fbit s Reg.RING_LINK_STATUS (lockBit s.ring.lineB) then linkLock s s.ring.lineB else s

/-- A migrated set is written to the other area, which is erased first, and read back (R497). (DESIGN CHOICE, log entry 58)
(DEDUCED, log entry 71) -/
def writeMigrated (s : State) (area : Nat) (set : List Byte) : State :=
  let s := { s with mem := s.mem.erase .nvm (areaAt area) 0x300000 }
  let s := writeMem s .nvm (areaAt area) set
  secMod s fun x => { x with readBack := readMem s .nvm (areaAt area) set.length == set }

/-- Firmware applies the configuration set (R492, R497). (DEDUCED, log entry 50) -/
def configurationApply (s : State) : State :=
  if fld s Reg.SEC_STATUS 2 0 != 2 then s
  else
    let area := fld s Reg.SEC_STATUS 5 5
    let migrate := onTrial s && (descNow s).1.migrate
    let set := areaBytes s (if migrate then 1 - area else area)
    let old := ((cfgSet set).map fun rs => rs.any fun r => knownType r && r.version / 256 == 0).getD false
    let set := if migrate && old then Config.migrate set else set
    match cfgSet set with
    | none => refuseSet s 0xFFFF 0
    | some rs =>
      match unreadable rs with
      | some r => refuseSet s r.type r.inst
      | none =>
        match miscounted rs with
        | some (t, i) => refuseSet s t i
        | none =>
          match applyAll set (rs.any fun r => r.type == 5) s (inOrder rs) with
          | .error (t, i) => refuseSet s t i
          | .ok s =>
            let s := setAccepted (defaultCoefs s rs) set
            if migrate then event (writeMigrated s area set) SEC 5 else s

/-! ### Homing sequences (R495) -/

/-- The steps of a homing sequence. (DEDUCED, log entry 74) -/
def homingStep (b : List Byte) (i : Nat) : Option (List Byte) :=
  if 4 + 24 * (i + 1) ≤ b.length then some (slice b (4 + 24 * i) 24) else none

/-- Store the running sequence of an axis, or end it. -/
def setHoming (s : State) (a : Nat) (h : Option Homing) : State :=
  secMod s fun x => { x with running := match h with
    | some h => x.running.map fun e => if e.1 == a then (a, h) else e
    | none => x.running.filter fun e => e.1 != a }

/-- Firmware gives the command of a step, once no command is pending (R196). (DEDUCED, log entry 74) -/
def homingIssue (s : State) (a : Nat) (h : Homing) (b : List Byte) : State :=
  if fbit s Reg.PROF_CMD_STATUS 0 then s
  else
    let s := (List.range 4).foldl (fun s i => hostWrite s .proto (Reg.PROF_CMD_ARG i) (word (field b (4 + 4 * i) 4))) s
    let s := hostWrite s .proto Reg.PROF_CMD (word (byteAt b 0 * 256 + byteAt b 1))
    setHoming s a (some { h with issued := true, since := s.raw, prev := wbit (motionInputs s) (byteAt b 3 % 32) })

/-- The wait of a step has ended: its command has taken effect and the condition of R495 holds. -/
def homingDone (s : State) (a : Nat) (h : Homing) (b : List Byte) : Bool :=
  !fbit s Reg.PROF_CMD_STATUS 0 &&
  match byteAt b 2 with
  | 0 => true
  | 1 => (axis s a).inPosition
  | 2 => !h.prev && wbit (motionInputs s) (byteAt b 3 % 32)
  | _ => (input s a).status.getLsbD 9

/-- A running sequence at a latch instant. (DEDUCED, log entry 74) -/
def homingAdvance (s : State) (e : Nat × Homing) : State :=
  let (a, h) := e
  match homingStep (tget (fun _ => []) s.sec.homing a) h.step with
  | none => setHoming s a none
  | some b =>
    if !h.issued then homingIssue s a h b
    else if homingDone s a h b then setHoming s a (some { step := h.step + 1, since := s.raw })
    else setHoming s a (some { h with prev := wbit (motionInputs s) (byteAt b 3 % 32) })

/-- The homing sequences at a latch instant. (DEDUCED, log entry 74) -/
def homingLatch (s : State) : State := s.sec.running.foldl homingAdvance s

/-- A step's wait has not ended within its timeout (R495): the sequence ends with a quick stop. (DEDUCED, log entry 74) -/
def homingTimeout (s : State) (a : Nat) : State :=
  match s.sec.running.find? fun e => e.1 == a with
  | none => s
  | some (_, h) =>
    match homingStep (tget (fun _ => []) s.sec.homing a) h.step with
    | none => s
    | some b =>
      if h.issued && field b 20 4 * 1000000 ≤ s.raw - h.since then request (setHoming s a none) (.quick a) else s

/-! ### Supplies and clocks -/

/-- Every link of the head loses lock. -/
def linksLost (s : State) : State :=
  let s := [false, true].foldl (fun s p => if fbit s Reg.RING_LINK_STATUS (lockBit p) then linkLoss s p else s) s
  if s.twin.pair && fbit s Reg.TWIN_STATE 3 then twinLinkLost s true else s

/-- A supply leaves its operating range (R551), numbered in the order of the table. -/
def supplyOutOfRange (s : State) (k : Nat) : State :=
  let s := { s with pwr := { s.pwr with bad := if s.pwr.bad.contains k then s.pwr.bad else s.pwr.bad ++ [k] } }
  match k with
  | 0 => enterSafe s 4 0 0
  | 1 => enterSafe s 4 0 0
  | 2 => islandFault (retentionLost s) 5
  | 3 => islandFault s 5
  | 4 => linksLost s
  | 5 => linksLost s
  | 11 => fioSupplyFall s
  | 12 => islandFault s 5
  | _ => s

/-- A supply falls below its threshold (R552): VDD_CORE holds the head in reset, VDD_AON loses the retention store too, VDD_FIO
switches the field outputs off. -/
def supplyFall (s : State) (k : Nat) : State :=
  match k with
  | 0 => secMod (resetAssert s) fun x => { x with powerFell := true }
  | 2 =>
    let s := secMod (resetAssert s) fun x => { x with powerFell := true, retLost := true, aonS := 0, retCopy := [] }
    { s with mem := { s.mem with ret := [] } }
  | 11 => fioSupplyFall { s with pwr := { s.pwr with off := if s.pwr.off.contains .fio then s.pwr.off else s.pwr.off ++ [.fio] } }
  | _ => s

/-- A clock is missing (R556): 0 CK_AON, 1 CK_REF, 2 the SerDes reference, without which the links of the host ports and of PCIe are down
too. -/
def clockLoss (s : State) (k : Nat) : State :=
  let s := { s with pwr := { s.pwr with lost := if s.pwr.lost.contains k then s.pwr.lost else s.pwr.lost ++ [k] } }
  match k with
  | 1 => islandFault s 4
  | 2 =>
    let s := pcieLinkReset (linksLost s)
    setF (setF s Reg.HOST_STATUS 7 0 0) Reg.HOST_STATUS 9 8 0
  | _ => s

/-- A missing clock returns. -/
def clockRestored (s : State) (k : Nat) : State := { s with pwr := { s.pwr with lost := s.pwr.lost.filter (· != k) } }

end Sys2Proof.Machine
end

