-- ==== Sys2Proof/Machine/HostOps.lean ====
section
/-! DEFINITION. The command protocol (R514-R531, R541, R543): taking a request into its flow, the opcodes of R526, their completion,
and the messages that ring pairs, UDP and the legacy queues carry. -/

namespace Sys2Proof.Machine

/-! ### Who executes, and what a response waits for -/

/-- This head executes a journaled opcode (R523). -/
def mayJournal (s : State) : Bool := twinSt s == 0 || fbit s Reg.TWIN_STATE 5

/-- A response with payload G where its status carries one, and none otherwise (R522). -/
def replyG (s : State) (w : Waiting) (status : Nat) (detail : Nat := 0) : State :=
  finish s w status (if [0, 4, 5, 6, 13].contains status then genericG w.land detail else [])

/-- A head that may not execute an opcode (R522, R523). -/
def notOwner (s : State) (w : Waiting) : State := replyG s w 6 (s.twin.twinSerial.toNat % 2 ^ 32)

/-- Why a write to a register is refused (R522): power domain off, an operation pending, or the block. (DEDUCED, log entry 62) -/
def refusal (s : State) (a : Nat) (v : Word) : Nat :=
  let blk := blockOf a
  if blockOff s blk && !wakeWrite a v then 11
  else if s.flt.resetting.contains blk then 5
  else
    match regAt a with
    | none => 4
    | some (r, i, _) =>
      let lane := if r.off == 0x50000 then i else if r.off == 0x10000 then i % 16 else wbits v 3 0
      if (holdFlags blk r i v).any (fun f => fbit s f.1 f.2) || (blk == LOOP && (laneOp s lane).isSome) then 5 else 4

/-- Land words from an address on, up to the first that is refused: the state, the words written, and the status, 0 where none is. -/
def putWords : State → Nat → List Word → Nat → State × Nat × Nat
  | s, _, [], n => (s, n, 0)
  | s, a, v :: vs, n =>
    let t := landWrite s .proto a v
    if t.bus.err then (t, n, refusal s a v) else putWords t (a + 4) vs (n + 1)

/-- The words of a register write. -/
def JWrite.words (w : JWrite) : List Word := wordsOf (w.data.length / 4) w.data

/-- Land the writes of a request in order, up to the first that is refused. -/
def putAll : State → List JWrite → Nat → State × Nat × Nat
  | s, [], n => (s, n, 0)
  | s, w :: ws, n =>
    if w.kind == 2 then putAll (writeMem (dirty s w.target.toNat w.data.length) .bolt w.target.toNat w.data) ws n
    else
      let r := putWords s w.target.toNat w.words n
      if r.2.2 != 0 then r else putAll r.1 ws r.2.1

/-- Mark what a journaled write sets from its landing (R364). -/
def markWrites (s : State) (ws : List JWrite) : State :=
  ws.foldl (fun s w =>
    if w.kind == 2 then s else (w.words.zipIdx).foldl (fun s x => markPending s (w.target.toNat + 4 * x.2) x.1) s) s

/-- An ENABLE among the writes that the journal holder refuses (R569). (DEDUCED, log entry 62) -/
def judged (s : State) (ws : List JWrite) : Option State :=
  ws.findSome? fun w => if w.target.toNat == Reg.PROF_CMD then enableRefused s Reg.PROF_CMD (word (field w.data 0 4)) else none

/-- The journal still holds writes of a request: they wait to be stamped, or, once stamped, for their cycle. -/
def unstamped (s : State) (w : Waiting) : Bool := s.twin.held.any fun h => h.req == some w.id
def unapplied (s : State) (w : Waiting) : Bool := unstamped s w || s.twin.entries.any fun e => e.cycle == w.land + 1

/-- The block's operation that a request waits for is pending. -/
def opPending (s : State) (w : Waiting) (reg : Nat) : Bool :=
  if reg == Reg.LOOP_BASTE_STATUS then fbit s reg (w.res - 16)
  else if 32 ≤ w.res && w.res < 36 then false
  else fbit s reg 0

/-- What a completed service exchange answers (R526, R529). -/
def serviceReply (s : State) (w : Waiting) (opcode : Nat) (d : SvcDone) : State :=
  if d.result != 0 then replyG s w 13 d.result
  else if 8192 < d.data.length then finish s w 2 []
  else
    match opcode with
    | 0x0501 => finish s w 0 (leBytes 4 d.data.length ++ padMul 4 d.data)
    | 0x0505 => finish s w 0 (padTo 16 (d.data.take 14))
    | _ => replyG s w 0 0

/-- A waiting request leaves the list. (DEDUCED, log entry 68) -/
def unwait (s : State) (id : Nat) : State := hostMod s fun h => { h with waiting := h.waiting.filter fun w => w.id != id }

/-- A request whose exchange its head can no longer end receives no response (R523). -/
def dropWaiting (s : State) (w : Waiting) : State :=
  match w.ep with
  | .ring r => ringDone (unwait s w.id) r
  | _ => unwait s w.id

/-- A waiting request completes when what it waits for has come (R516, R521). -/
def tryComplete (s : State) (id : Nat) : State :=
  match s.host.waiting.find? fun w => w.id == id with
  | none => s
  | some w =>
    match w.wait with
    | .ready st p => finish (unwait s id) w st p
    | .stamped d => if unstamped s w then s else replyG (unwait s id) w 0 d
    | .result reg hi lo okVal extra =>
      if unapplied s w || opPending s w reg then s
      else
        let r := fld s reg hi lo
        let d := if w.opcode == 0x0302 then extra % 2 ^ 24 + r * 2 ^ 24 else r
        replyG (unwait s id) w (if r == okVal then 0 else 4) d
    | .service op =>
      let mine (d : SvcDone) : Bool := d.origin == .host id
      match s.ring.done.find? mine with
      | some d => serviceReply (unwait (ringMod s fun r => { r with done := r.done.filter fun d => !mine d }) id) w op d
      | none =>
        let alive (q : SvcReq) : Bool := q.origin == .host id
        let running := (List.range 16).any fun i => ((slot s i).req.map alive).getD false
        if running || s.ring.queue.any alive then s else dropWaiting s w
    | .timed => s

/-- Wait for something, and complete at once where it has come. -/
def await (s : State) (w : Waiting) (wait : WaitFor) (res : Nat) : State :=
  tryComplete (hostMod s fun h => { h with waiting := h.waiting ++ [{ w with wait := wait, res := res }] }) w.id

/-- The writes of a request are issued together (R520): in a pair they are stamped, else they land now. -/
def issue (s : State) (w : Waiting) (ws : List JWrite) (wait : WaitFor) (res : Nat := 0) (wrote : Bool := false) : State :=
  let r := putAll s ws 0
  let detail := if wrote then r.2.1 else 0
  if !stamps s then
    if r.2.2 != 0 then replyG r.1 w r.2.2 detail else await r.1 w wait res
  else if r.2.2 != 0 then replyG s w r.2.2 detail
  else
    match judged s ws with
    | some t => replyG t w 4 11
    | none =>
      let s := hostMod (markWrites s ws) fun h => { h with waiting := h.waiting ++ [{ w with wait := wait, res := res }] }
      tryComplete (stampWrites s ws (some w.id)) w.id

/-- A register write of a request. -/
def regW (a : Nat) (ws : List Nat) : JWrite := { kind := 1, target := word a, data := (ws.map (leBytes 4)).flatten }

/-- A Bolt write of a request. -/
def boltW (a : Nat) (b : List Byte) : JWrite := { kind := 2, target := word a, data := b }

/-! ### Requests on registers and memory -/

/-- What a register shows, without a read's effects. -/
def look (s : State) (a : Nat) : Word :=
  match regAt a with
  | none => 0
  | some (r, i, j) => regView s (blockOf a) a r i j

/-- Read words with every effect of a bus read (R527); nothing where one is refused. -/
def takeWords : Nat → State → Nat → List Byte → State × Option (List Byte)
  | 0, s, _, acc => (s, some acc)
  | n + 1, s, a, acc =>
    let t := readReg s .proto a
    if t.bus.err then (t, none) else takeWords n t (a + 4) (acc ++ leBytes 4 t.bus.data.toNat)

/-- REG_READ (R526, R527). -/
def opRegRead (s : State) (w : Waiting) (b : List Byte) : State :=
  let a := field b 0 4
  let n := field b 4 4
  if b.length != 8 then finish s w 2 []
  else if a % 4 != 0 || n < 1 || 1024 < n then finish s w 3 []
  else if a < 0x20000000 || 0x21000000 < a + 4 * n then finish s w 11 []
  else if rspLimit s w.ep w.flow < 4 * n then finish s w 2 []
  else
    match takeWords n s a [] with
    | (s, some bs) => finish s w 0 bs
    | (s, none) => finish s w 11 []

/-- REG_WRITE (R526, R527): stamped in a pair where it targets what R358 lists. -/
def opRegWrite (s : State) (w : Waiting) (b : List Byte) : State :=
  let a := field b 0 4
  let n := (b.length - 4) / 4
  let as := (List.range n).map fun i => a + 4 * i
  if b.length < 8 || 1024 < n then finish s w 2 []
  else if a % 4 != 0 then finish s w 3 []
  else if a < 0x20000000 || 0x21000000 < a + 4 * n || as.any (fun x => blockOf x == SAFE) then finish s w 11 []
  else
    let j := s.twin.pair && as.any (journaled s)
    if j && !mayJournal s then notOwner s w
    else if j then issue s w [{ kind := 1, target := word a, data := b.drop 4 }] (.stamped n) 0 true
    else
      let r := putWords s a (wordsOf n (b.drop 4)) 0
      replyG r.1 w r.2.2 r.2.1

/-- BOLT_READ. -/
def opBoltRead (s : State) (w : Waiting) (b : List Byte) : State :=
  let a := field b 0 4
  let n := field b 4 4
  if b.length != 8 then finish s w 2 []
  else if n < 4 || 8192 < n || n % 4 != 0 then finish s w 3 []
  else if boltEnd < a + n then finish s w 11 []
  else finish s w 0 (readMem s .bolt a n)

/-- The partitions that the bytes of a Bolt range lie in. -/
def boltParts (s : State) (a n : Nat) : List Nat :=
  (List.range ((a + n - 1) / 0x100000 + 1 - a / 0x100000)).map fun i => s.part.getD (a / 0x100000 + i) 255

/-- BOLT_WRITE (R526, R527, R364). -/
def opBoltWrite (s : State) (w : Waiting) (b : List Byte) : State :=
  let a := field b 0 4
  let n := b.length - 4
  if b.length < 8 then finish s w 2 []
  else if boltEnd < a + n || (boltParts s a n).contains 5 then finish s w 11 []
  else
    let j := s.twin.pair && (boltParts s a n).any fun p => p == 0 || p == 1 || p == 2 || p == 4
    if j && !mayJournal s then notOwner s w
    else if j then issue s w [boltW a (b.drop 4)] (.stamped 0)
    else replyG (writeMem (dirty s a n) .bolt a (b.drop 4)) w 0 0

/-- ARCH_READ. -/
def opArchRead (s : State) (w : Waiting) (b : List Byte) : State :=
  let a := field b 0 4
  let n := field b 4 4
  if b.length != 8 then finish s w 2 []
  else if n < 4 || 8192 < n || n % 4 != 0 then finish s w 3 []
  else if a < 0x80000000 || archEnd < a + n || s.pwr.off.contains .mem then finish s w 11 []
  else finish s w 0 (readMem s .arch a n)

/-! ### Axes, groups, guards and compare channels -/

/-- The preamble of a journaled opcode: its payload length, its arguments, then who executes it (R523). (DEDUCED, log entry 62) -/
def jop (s : State) (w : Waiting) (len args : Bool) (go : State) : State :=
  if !len then finish s w 2 [] else if !args then finish s w 3 [] else if !mayJournal s then notOwner s w else go

/-- The 32-bit words of a payload from an offset on. -/
def natsAt (b : List Byte) (o n : Nat) : List Nat := (List.range n).map fun i => field b (o + 4 * i) 4

/-- AXIS_PARAM_SET. -/
def opParamSet (s : State) (w : Waiting) (b : List Byte) : State :=
  let a := byteAt b 0
  jop s w (b.length == 68) (byteAt b 1 < 2 && field b 2 2 == 0)
    (issue s w [regW Reg.PROF_BASTE_VMAX (natsAt b 4 16), regW Reg.PROF_BASTE_COMMIT [a + 256 * byteAt b 1]]
      (.result Reg.PROF_BASTE_STATUS 3 1 1 0) 1)

/-- AXIS_PARAM_GET. -/
def opParamGet (s : State) (w : Waiting) (b : List Byte) : State :=
  let a := field b 0 4
  if b.length != 4 then finish s w 2 []
  else if 255 < a then finish s w 3 []
  else finish s w 0 ((List.range 16).map fun i => leBytes 4 (par s a i).toNat).flatten

/-- AXIS_COEF_SET: the procedure of R227 over the lane's baste record. -/
def opCoefSet (s : State) (w : Waiting) (b : List Byte) : State :=
  let a := byteAt b 0
  let first := field b 2 2
  let n := (b.length - 4) / 4
  jop s w (8 ≤ b.length && n ≤ 128) (byteAt b 1 < 2 && first + n ≤ 128)
    (issue s w [regW Reg.LOOP_BASTE_COMMIT [0x100 + a], regW (Reg.LOOP_LANE_BASTE (a % 16) first) (natsAt b 4 n),
        regW Reg.LOOP_BASTE_COMMIT [a + 512 * byteAt b 1]]
      (.result Reg.LOOP_BASTE_STATUS 18 16 1 0) (16 + a % 16))

/-- AXIS_COEF_GET. -/
def opCoefGet (s : State) (w : Waiting) (b : List Byte) : State :=
  let a := field b 0 4
  if b.length != 4 then finish s w 2 []
  else if 255 < a then finish s w 3 []
  else finish s w 0 ((List.range 128).map fun i => leBytes 4 (coef s a i).toNat).flatten

/-- GROUP_QUEUE_SET. -/
def opQueueSet (s : State) (w : Waiting) (b : List Byte) : State :=
  let g := field b 0 4
  let base := field b 4 4
  let len := field b 8 4
  jop s w (b.length == 12) (g < 64 && base % 8 == 0 && inPart s 0 base 1 && len % 8 == 0 && 1024 ≤ len && len ≤ 0x3000000)
    (if (group s g).state != 0 then finish s w 10 []
    else issue s w [regW (Reg.PROF_GRP_QBASE g) [base, len]] (.stamped 0))

/-- GUARD_SET: the configuration word is written last, so that a pair it enables has its offset and clearance in place.
(DEDUCED, log entry 76) -/
def opGuardSet (s : State) (w : Waiting) (b : List Byte) : State :=
  let p := field b 0 4
  let cfg := field b 4 4
  let g := guardAxes s p
  jop s w (b.length == 20) (p < 32 && bits cfg 31 25 == 0 && bits cfg 23 19 == 0)
    (if guardOn s p && (enabled s g.1 || enabled s g.2) then finish s w 10 []
    else issue s w [regW (Reg.PROF_GRD_CFG p + 4) (natsAt b 8 3), regW (Reg.PROF_GRD_CFG p) [cfg]] (.stamped 0))

/-- AXIS_CMD. ENABLE, which uses no argument, writes none while PD_MOT is off (R37; DEDUCED, log entry 24). -/
def opAxisCmd (s : State) (w : Waiting) (b : List Byte) : State :=
  let args := if blockOff s PROF && byteAt b 0 == 0x07 then [] else [regW (Reg.PROF_CMD_ARG 0) (natsAt b 4 4)]
  jop s w (b.length == 20) (field b 2 2 == 0)
    (issue s w (args ++ [regW Reg.PROF_CMD [byteAt b 1 + 256 * byteAt b 0]]) (.result Reg.PROF_CMD_STATUS 4 1 1 0) 2)

/-- The value that a register will have once the journal's waiting writes have applied. (DEDUCED, log entry 64) -/
def ahead (s : State) (a : Nat) : Nat :=
  let hit (k : Nat) (target : Word) (data : List Byte) : Option Nat :=
    if k == 1 && target.toNat ≤ a && a + 4 ≤ target.toNat + data.length then some (field data (a - target.toNat) 4) else none
  let held := s.twin.held.flatMap fun h => h.writes.filterMap (fun w => hit w.kind w.target w.data) ++
    h.rest.filterMap (fun e => hit e.kind e.target e.data)
  let stamped := s.twin.entries.filterMap fun e => hit e.kind e.target e.data
  ((stamped ++ held).getLast?).getD (rd s a).toNat

/-- The free bytes of a circular queue: its length where the pointers are equal. (DEDUCED, log entry 64) -/
def queueFree (len rp wp : Nat) : Nat := if rp == wp then len else (rp + len - wp) % len

/-- The segment records of a payload, each whole and well-formed by its own header (R174): its bytes. -/
def segRecords : Nat → List Byte → Option (List (List Byte))
  | _, [] => some []
  | 0, _ => none
  | n + 1, b =>
    let ty := byteAt b 0
    let len := field b 16 2
    let want := if ty == 1 then 32 + byteAt b 2 * (byteAt b 1 + 1) * 8 else 32
    if b.length < 32 || (ty != 1 && ty != 2) || len != want || b.length < len || 5 < byteAt b 1 then none
    else (segRecords n (b.drop len)).map fun l => b.take len :: l

/-- Lay records into a queue of some length from a write pointer (R528): the Bolt writes by offset, the new pointer, and the bytes
used with WRAP records. -/
def layRecords (qlen : Nat) : List (List Byte) → Nat → Nat → List (Nat × List Byte) → List (Nat × List Byte) × Nat × Nat
  | [], wp, used, acc => (acc, wp, used)
  | r :: rs, wp, used, acc =>
    let wrap := qlen < wp + r.length
    let acc := if wrap then acc ++ [(wp, zeros 8)] else acc
    let used := if wrap then used + (qlen - wp) else used
    let wp := if wrap then 0 else wp
    let next := wp + r.length
    layRecords qlen rs (if next == qlen then 0 else next) (used + r.length) (acc ++ [(wp, r)])

/-- SEG_APPEND (R528). (DEDUCED, log entry 64) -/
def opSegAppend (s : State) (w : Waiting) (b : List Byte) : State :=
  let h := field b 0 4
  let g := h % 64
  let start := bit h 8
  let qlen := (rd s (Reg.PROF_GRP_QLEN g)).toNat
  let base := (rd s (Reg.PROF_GRP_QBASE g)).toNat
  let wp := ahead s (Reg.PROF_GRP_WR_PTR g)
  let free := queueFree qlen (rd s (Reg.PROF_GRP_RD_PTR g)).toNat wp
  match segRecords b.length (b.drop 4) with
  | none => jop s w (8 ≤ b.length) false s
  | some rs =>
    let l := layRecords qlen rs wp 0 []
    let left := free - l.2.2
    jop s w (8 ≤ b.length) (h == g + 256 * flag start)
      (if qlen == 0 || free < l.2.2 + 8 then finish s w 9 []
      else
        let ws := l.1.map (fun e => boltW (base + e.1) e.2) ++ [regW (Reg.PROF_GRP_WR_PTR g) [l.2.1]]
        if start then
          issue s w (ws ++ [regW Reg.PROF_CMD [g + 256 * 0x10]]) (.result Reg.PROF_CMD_STATUS 4 1 1 left) 2
        else issue s w ws (.stamped left))

/-- GROUP_RATE. -/
def opGroupRate (s : State) (w : Waiting) (b : List Byte) : State :=
  let g := field b 0 4
  jop s w (b.length == 8) (g < 64) (issue s w [regW (Reg.PROF_GRP_RATE g) (natsAt b 4 1)] (.stamped 0))

/-- SEG_STATUS. -/
def opSegStatus (s : State) (w : Waiting) (b : List Byte) : State :=
  let g := field b 0 4
  if b.length != 4 then finish s w 2 []
  else if 63 < g then finish s w 3 []
  else
    let rp := look s (Reg.PROF_GRP_RD_PTR g)
    let wp := look s (Reg.PROF_GRP_WR_PTR g)
    let free := queueFree (rd s (Reg.PROF_GRP_QLEN g)).toNat rp.toNat wp.toNat
    finish s w 0 (([look s (Reg.PROF_GRP_STATE g), look s (Reg.PROF_GRP_SEG_ID g), rp, wp, word free].map fun v => leBytes 4 v.toNat).flatten)

/-- CMP_APPEND (R528). (DEDUCED, log entry 64) -/
def opCmpAppend (s : State) (w : Waiting) (b : List Byte) : State :=
  let k := field b 0 4
  let n := b.length - 4
  let qlen := (rd s (Reg.FBC_CMP_QLEN k)).toNat
  let base := (rd s (Reg.FBC_CMP_QBASE k)).toNat
  let wp := ahead s (Reg.FBC_CMP_WR_PTR k)
  let free := queueFree qlen (rd s (Reg.FBC_CMP_RD_PTR k)).toNat wp
  let es := (List.range (n / 16)).map fun i => slice b (4 + 16 * i) 16
  jop s w (20 ≤ b.length && n % 16 == 0) (k < 32)
    (if qlen == 0 || free < n + 16 then finish s w 9 []
    else
      let l := layRecords qlen es wp 0 []
      issue s w (l.1.map (fun e => boltW (base + e.1) e.2) ++ [regW (Reg.FBC_CMP_WR_PTR k) [l.2.1]]) (.stamped (free - n)))

/-- CMP_ARM. -/
def opCmpArm (s : State) (w : Waiting) (b : List Byte) : State :=
  let k := field b 0 4
  jop s w (b.length == 8) (k < 32 && field b 4 4 < 4) (issue s w [regW (Reg.FBC_CMP_CTRL k) (natsAt b 4 1)] (.stamped 0))

/-- CMP_STATUS. -/
def opCmpStatus (s : State) (w : Waiting) (b : List Byte) : State :=
  let k := field b 0 4
  if b.length != 4 then finish s w 2 []
  else if 31 < k then finish s w 3 []
  else
    finish s w 0 (([Reg.FBC_CMP_STATUS k, Reg.FBC_CMP_LAST_TS k, Reg.FBC_CMP_LAST_ID k, Reg.FBC_CMP_RD_PTR k, Reg.FBC_CMP_WR_PTR k].map
      fun a => leBytes 4 (look s a).toNat).flatten)

/-! ### The service lane -/

/-- This head's shuttles reach a position: it leads, and no break stands before it (R121, R523). -/
def reaches (s : State) (p : Nat) : Bool :=
  let k := s.ring.breakPos % 128
  leads s && (!fbit s Reg.RING_BREAK 31 || (if s.ring.farEnd then k ≤ p else p ≤ k))

/-- A service-lane opcode (R523, R529): its arguments, the position, the service code, its index and data. -/
def svcOp (s : State) (w : Waiting) (len args : Bool) (p code index : Nat) (data : List Byte) : State :=
  if !len then finish s w 2 []
  else if !args || p < 1 || 126 < p then finish s w 3 []
  else if twinSt s != 0 && !reaches s p then notOwner s w
  else
    let s := hostMod s fun h => { h with waiting := h.waiting ++ [{ w with wait := .service w.opcode }] }
    svcStart s ⟨p, code, index, data, .host w.id⟩

/-- WPARAM_READ. -/
def opWparamRead (s : State) (w : Waiting) (b : List Byte) : State :=
  svcOp s w (b.length == 4) true (byteAt b 0) 0x01 (field b 2 2) [BitVec.ofNat 8 (byteAt b 1)]

/-- WPARAM_WRITE. -/
def opWparamWrite (s : State) (w : Waiting) (b : List Byte) : State :=
  let n := field b 4 4
  svcOp s w (8 < b.length && (n < 1 || 53 < n || b.length == 8 + ceilDiv n 4 * 4)) (1 ≤ n && n ≤ 53) (byteAt b 0) 0x02 (field b 2 2)
    (BitVec.ofNat 8 (byteAt b 1) :: slice b 8 n)

/-- WMBX_SEND. -/
def opWmbxSend (s : State) (w : Waiting) (b : List Byte) : State :=
  let n := field b 4 4
  svcOp s w (8 < b.length && (n < 1 || 54 < n || b.length == 8 + ceilDiv n 4 * 4)) (1 ≤ n && n ≤ 54) (field b 0 4) 0x05 0 (slice b 8 n)

/-- WIDENTIFY. -/
def opWidentify (s : State) (w : Waiting) (b : List Byte) : State := svcOp s w (b.length == 4) true (field b 0 4) 0x08 0 []

/-- WMBX_FETCH (R529): the oldest message, which leaves the queue. -/
def opWmbxFetch (s : State) (w : Waiting) (b : List Byte) : State :=
  let p := field b 0 4
  let ms := tget (fun _ => []) s.ring.wmbx p
  if b.length != 4 then finish s w 2 []
  else if p < 1 || 126 < p then finish s w 3 []
  else
    match ms with
    | [] => finish s w 0 (leBytes 4 0)
    | m :: rest =>
      let bs := leBytes 4 m.length ++ padMul 4 m
      if rspLimit s w.ep w.flow < bs.length then finish s w 2 []
      else finish (ringMod s fun r => { r with wmbx := tput (fun _ => []) r.wmbx p rest }) w 0 bs

/-! ### Spools, maintenance, update and protection -/

/-- SPOOL_CTRL. -/
def opSpoolCtrl (s : State) (w : Waiting) (b : List Byte) : State :=
  let i := field b 0 4
  jop s w (b.length == 8) (i < 4 && field b 4 4 < 32)
    (issue s w [regW (Reg.ACQ_SP_CTRL i) (natsAt b 4 1)] (.result (Reg.ACQ_SP_STATE i) 19 16 1 0) (32 + i))

/-- SPOOL_STATE: the counts are read without clearing. -/
def opSpoolState (s : State) (w : Waiting) (b : List Byte) : State :=
  let i := field b 0 4
  if b.length != 4 then finish s w 2 []
  else if 3 < i then finish s w 3 []
  else
    finish s w 0 (([Reg.ACQ_SP_STATE i, Reg.ACQ_SP_WR_PTR i, Reg.ACQ_SP_TRIG_TS_LO i, Reg.ACQ_SP_TRIG_TS_HI i, Reg.ACQ_SP_LOST_CNT i,
      Reg.ACQ_SP_EVT_DROP_CNT i, Reg.ACQ_SP_HOLDOFF_CNT i].map fun a => leBytes 4 (look s a).toNat).flatten)

/-- SPOOL_READ: bytes of a record slot, or of the whole buffer or archive area. -/
def opSpoolRead (s : State) (w : Waiting) (b : List Byte) : State :=
  let i := field b 0 4
  let slot := field b 4 4
  let off := field b 8 4
  let n := field b 12 4
  if b.length != 16 then finish s w 2 []
  else if 3 < i || n < 4 || 8192 < n || n % 4 != 0 then finish s w 3 []
  else
    let area := spArea s i
    let whole := slot == 0xFFFFFFFF
    let start := if whole then area.1 else area.1 + slot * recordLen s i
    let len := if whole then area.2 else recordLen s i
    let region : Region := if spArch s i then .arch else .bolt
    if !whole && spSlots s i ≤ slot then finish s w 3 []
    else if len < off + n || (spArch s i && s.pwr.off.contains .mem) then finish s w 11 []
    else finish s w 0 (readMem s region (start + off) n)

/-- MAINT_REQ: a write of FPM_MAINT_REQ and its result. -/
def opMaintReq (s : State) (w : Waiting) (b : List Byte) : State :=
  let v := field b 0 4
  if b.length != 4 then finish s w 2 []
  else if 8 < v % 16 || v / 16 % 16 != 0 || 1 < v / 256 then finish s w 3 []
  else
    let s := landWrite s .proto Reg.FPM_MAINT_REQ (word v)
    let r := fld s Reg.FPM_MAINT_STATUS 22 20
    replyG s w (if r == 3 then 5 else 0) r

/-- A status and state as a response with payload G. -/
def replyOf (w : Waiting) (r : Nat × State) (detail : State → Nat := fun _ => 0) : State := replyG r.2 w r.1 (detail r.2)

/-- UPD_MANIFEST. -/
def opUpdManifest (s : State) (w : Waiting) (b : List Byte) : State := replyOf w (updManifest s b)

/-- UPD_BLOCK; the last block of an update ends host recovery (R485). -/
def opUpdBlock (s : State) (w : Waiting) (b : List Byte) : State :=
  if b.length != 4136 then finish s w 2 []
  else recoverBoot (replyOf w (updBlock s (field b 0 4) (field b 4 4) (slice b 8 32) (b.drop 40)) blocksMissing)

/-- UPD_STATUS. -/
def opUpdStatus (s : State) (w : Waiting) (b : List Byte) : State :=
  if b.length != 0 then finish s w 2 []
  else
    finish s w 0 (leBytes 4 (look s Reg.SEC_STAGE_STATUS).toNat ++
      ((List.range 8).map fun i => leBytes 4 (look s (Reg.SEC_STAGED_HASH i)).toNat).flatten)

/-- UPD_ACTIVATE. -/
def opUpdActivate (s : State) (w : Waiting) (b : List Byte) : State :=
  jop s w (b.length == 36) true
    (issue s w [regW (Reg.SEC_ACT_HASH 0) (natsAt b 0 8), regW Reg.SEC_ACT_CFG (natsAt b 32 1), regW Reg.SEC_BASTE_COMMIT [1]]
      (.result Reg.SEC_BASTE_STATUS 3 1 1 0) 5)

/-- NONCE_GET. -/
def opNonceGet (s : State) (w : Waiting) (b : List Byte) : State :=
  if b.length != 0 then finish s w 2 [] else let s := secNonce s; finish s w 0 (nonceBytes s)

/-- PROT_REQUEST. -/
def opProtRequest (s : State) (w : Waiting) (b : List Byte) : State :=
  if b.length != 148 then finish s w 2 [] else replyOf w (Machine.protRequest s b)

/-- PROT_CONFIRM. -/
def opProtConfirm (s : State) (w : Waiting) (b : List Byte) : State :=
  if b.length != 68 then finish s w 2 [] else replyOf w (Machine.protConfirm s b)

/-- PROT_OBJECT. -/
def opProtObject (s : State) (w : Waiting) (b : List Byte) : State :=
  if b.length < 8 then finish s w 2 [] else replyOf w (Machine.protObject s b)

/-! ### Status, events and timed frames -/

/-- STATUS_GET. -/
def opStatusGet (s : State) (w : Waiting) (b : List Byte) : State :=
  let t := mtime s
  let v (a : Nat) : List Byte := leBytes 4 (look s a).toNat
  if b.length != 0 then finish s w 2 []
  else
    finish s w 0 (v Reg.RING_STATE ++ v Reg.TWIN_STATE ++ v Reg.TIME_STATE ++ leBytes 8 (secOf t) ++ leBytes 4 (nsOf t) ++
      leBytes 4 s.cyc.count.toNat ++ v Reg.SYS_CYCLE_ACTIVE ++ v Reg.PROF_STATUS ++ v Reg.FPM_STATUS ++ v Reg.SAFE_STATUS ++
      v Reg.SEC_STATUS ++ leBytes 8 (serial s))

/-- AXIS_STATUS. -/
def opAxisStatus (s : State) (w : Waiting) (b : List Byte) : State :=
  let a := field b 0 4
  let n := field b 4 4
  if b.length != 8 then finish s w 2 []
  else if n < 1 || 256 < n || 256 < a + n then finish s w 3 []
  else
    finish s w 0 (((List.range n).map fun i =>
      let x := axis s (a + i)
      leBytes 4 (look s (Reg.PROF_AX_STATE (a + i))).toNat ++ leBytes 8 (unsg 64 x.sp2.pos) ++ leBytes 8 (unsg 64 x.sp2.vel) ++
        leBytes 8 (unsg 64 (input s (a + i)).ext) ++ leBytes 4 (look s (Reg.LOOP_AX_FLAGS (a + i))).toNat).flatten)

/-- EVT_SUBSCRIBE (R531). -/
def opEvtSubscribe (s : State) (w : Waiting) (b : List Byte) : State :=
  let c := field b 4 4
  if b.length != 8 then finish s w 2 []
  else if bits c 3 2 != 0 || bits c 7 6 != 0 || 1 < c / 256 then finish s w 3 []
  else
    match w.ep with
    | .legacy _ => finish s w 7 []
    | _ =>
      let x : Subscription := { on := bit c 8, flow := w.flow, mask := word (field b 0 4), minSev := bits c 1 0 }
      replyG (hostMod s fun h => { h with subs := tput (fun _ => {}) h.subs (bits c 5 4) (if x.on then x else {}) }) w 0 0

/-- HIST_READ. -/
def opHistRead (s : State) (w : Waiting) (b : List Byte) : State :=
  let k := field b 0 4
  if b.length != 4 then finish s w 2 []
  else if 15 < k then finish s w 3 []
  else finish s w 0 (leBytes 4 (look s (Reg.FLT_HIST_CNT k)).toNat ++ padTo 128 ((history s k).map HistEntry.bytes).flatten)

/-- TIMED_FRAME (R148, R526). (DEDUCED, log entry 63) -/
def opTimedFrame (s : State) (w : Waiting) (b : List Byte) : State :=
  let f := b.drop 16
  let p := byteAt b 0
  let q := byteAt b 1
  let ns := field b 12 4
  let e : TimedEntry := { time := field b 4 8 * secU + ns * nsU, frame := f, drop := byteAt b 2 == 1, ptp := ptpKind f, req := some w.id }
  if f.length < 60 || 1518 < f.length then finish s w 2 []
  else if 1 < p || 1 < q || 1 < byteAt b 2 || byteAt b 3 != 0 || 999999999 < ns then finish s w 3 []
  else if 32 ≤ (tqueue s p q).length then finish s w 9 []
  else if !tqTakes s p q e then replyG s w 4 0
  else tqPush (hostMod s fun h => { h with waiting := h.waiting ++ [{ w with wait := .timed }] }) p q e

/-- A launch-at-time entry that carries a request has started, or was dropped late (R148): its response. (DEDUCED, log entry 78) -/
def timedDone (s : State) (x : Option (Nat × Option (List Byte))) : State :=
  match x with
  | none => s
  | some (id, p) =>
    match s.host.waiting.find? fun w => w.id == id with
    | none => s
    | some w =>
      match p with
      | some p => finish (unwait s id) w 0 p
      | none => finish (unwait s id) w 10 []

/-! ### The opcodes (R525) -/

/-- FLOW_CLOSE. -/
def opFlowClose (s : State) (w : Waiting) (b : List Byte) : State :=
  if b.length != 0 then finish s w 2 [] else freeFlow (finish s w 0 []) w.flow

/-- FLOW_OPEN by the owner of its flow: the limit changes. -/
def opFlowOpen (s : State) (w : Waiting) (b : List Byte) : State :=
  let limit := field b 4 4
  let udp := match w.ep with | .udp _ _ _ => true | _ => false
  if b.length != 8 then finish s w 2 []
  else if 1 < field b 0 4 || (udp && (limit < 256 || 8192 < limit)) then finish s w 3 []
  else
    let s := setFlow s w.flow { flow s w.flow with expected := w.seq + 1, limit := if udp then limit else 8192 }
    finish s w 0 (leBytes 4 (w.seq + 1).toNat)

/-- In host recovery the head accepts a manifest and its blocks only (R485): of the other opcodes, those that do not change the head
(flows, reads, status) are answered, and the rest get STATE (DEDUCED, log entry 104). -/
def recoveryOpcodes : List Nat :=
  [0x0001, 0x0002, 0x0003, 0x0101, 0x0103, 0x0105, 0x0702, 0x0703, 0x0704, 0x0801, 0x0805]

/-- A request is executed (R526). (DEDUCED, log entry 62) -/
def hostOp (s : State) (w : Waiting) (b : List Byte) : State :=
  if fld s Reg.SEC_STATUS 2 0 == 5 && !recoveryOpcodes.contains w.opcode then finish s w 10 [] else
  match w.opcode with
  | 0x0001 => opFlowOpen s w b
  | 0x0002 => opFlowClose s w b
  | 0x0003 => finish s w 0 b
  | 0x0101 => opRegRead s w b
  | 0x0102 => opRegWrite s w b
  | 0x0103 => opBoltRead s w b
  | 0x0104 => opBoltWrite s w b
  | 0x0105 => opArchRead s w b
  | 0x0201 => opParamSet s w b
  | 0x0202 => opParamGet s w b
  | 0x0203 => opCoefSet s w b
  | 0x0204 => opCoefGet s w b
  | 0x0205 => opQueueSet s w b
  | 0x0206 => opGuardSet s w b
  | 0x0301 => opAxisCmd s w b
  | 0x0302 => opSegAppend s w b
  | 0x0303 => opGroupRate s w b
  | 0x0304 => opSegStatus s w b
  | 0x0401 => opCmpAppend s w b
  | 0x0402 => opCmpArm s w b
  | 0x0403 => opCmpStatus s w b
  | 0x0501 => opWparamRead s w b
  | 0x0502 => opWparamWrite s w b
  | 0x0503 => opWmbxSend s w b
  | 0x0504 => opWmbxFetch s w b
  | 0x0505 => opWidentify s w b
  | 0x0601 => opSpoolCtrl s w b
  | 0x0602 => opSpoolState s w b
  | 0x0603 => opSpoolRead s w b
  | 0x0701 => opMaintReq s w b
  | 0x0702 => opUpdManifest s w b
  | 0x0703 => opUpdBlock s w b
  | 0x0704 => opUpdStatus s w b
  | 0x0705 => opUpdActivate s w b
  | 0x0706 => opNonceGet s w b
  | 0x0707 => opProtRequest s w b
  | 0x0708 => opProtConfirm s w b
  | 0x0709 => opProtObject s w b
  | 0x0801 => opStatusGet s w b
  | 0x0802 => opAxisStatus s w b
  | 0x0803 => opEvtSubscribe s w b
  | 0x0805 => opHistRead s w b
  | 0x0901 => opTimedFrame s w b
  | _ => finish s w 1 []

/-! ### Flows and ordering -/

/-- The baste group, commit register or queue that a request names (R520), 0 where it names none. -/
def resOf (opcode : Nat) (b : List Byte) : Nat :=
  match opcode with
  | 0x0201 => 1
  | 0x0203 => 16 + byteAt b 0 % 16
  | 0x0301 => 2
  | 0x0302 => if bit (field b 0 4) 8 then 2 else 0
  | 0x0601 => 32 + field b 0 4 % 4
  | 0x0705 => 5
  | _ => 0

/-- A request as it waits. -/
def waitingOf (s : State) (opcode : Nat) (q : Req) : Waiting :=
  { id := s.host.nextId, ep := q.ep, flow := q.flow.toNat, seq := q.seq, opcode := opcode, wait := .ready 0 [], res := 0, land := s.cyc.count,
    tag := q.tag.toNat, sqIndex := q.sqIndex.toNat, rspAddr := q.rspAddr.toNat, rspCap := q.rspCap.toNat }

/-- A request is held back by an earlier one of its flow, or by one that waits for the same resource (R520). -/
def heldBack (s : State) (before : List (Nat × Req)) (opcode : Nat) (q : Req) : Bool :=
  let r := resOf opcode q.payload
  (s.host.waiting.any fun w => w.flow == q.flow.toNat || (r != 0 && w.res == r)) ||
    before.any fun p => p.2.flow == q.flow || (r != 0 && resOf p.1 p.2.payload == r)

/-- Execute a request (R519). -/
def execRequest (s : State) (opcode : Nat) (q : Req) : State :=
  let w := waitingOf s opcode q
  hostOp (bump (hostMod s fun h => { h with nextId := h.nextId + 1 }) Reg.HOST_MSG_CNT) w q.payload

/-- Execute a request or hold it back. -/
def runOrHold (s : State) (opcode : Nat) (q : Req) : State :=
  if heldBack s s.host.queued opcode q then hostMod s fun h => { h with queued := h.queued ++ [(opcode, q)] }
  else execRequest s opcode q

/-- A duplicate among the 8 below the expected number (R519): its stored response goes out again; one still in progress is dropped.
(DEDUCED, log entry 63) -/
def resend (s : State) (w : Waiting) : State :=
  let x := flow s w.flow
  let busy := (s.host.waiting.any fun v => v.flow == w.flow && v.seq == w.seq) ||
    s.host.queued.any fun p => p.2.flow.toNat == w.flow && p.2.seq == w.seq
  match x.stored.find? fun m => m.1 == w.seq with
  | some m => deliver s w (field m.2 12 2) m.2
  | none => if busy then dropWaiting s w else answer s w 14

/-- FLOW_OPEN of a flow that its sender does not own (R518). (DEDUCED, log entry 63) -/
def openFlow (s : State) (w : Waiting) (opcode : Nat) (q : Req) : State :=
  let b := q.payload
  let limit := field b 4 4
  let udp := match q.ep with | .udp _ _ _ => true | _ => false
  if b.length != 8 then answer s w 2
  else if 1 < field b 0 4 || (udp && (limit < 256 || 8192 < limit)) then answer s w 3
  else if (flowOwner s w.flow).isSome && !bit (field b 0 4) 0 then answer s w 7
  else
    let s := freeFlow s w.flow
    execRequest (setFlow s w.flow { owner := some q.ep, expected := q.seq + 1, limit := if udp then limit else 8192, last := s.raw }) opcode q

/-- The sequence rule of an owned host flow (R519). (DEDUCED, log entry 63) -/
def sequenced (s : State) (w : Waiting) (opcode : Nat) (q : Req) : State :=
  let x := flow s w.flow
  let below := (x.expected - q.seq).toNat
  let t := setFlow s w.flow { x with last := s.raw }
  if below == 0 then runOrHold (setFlow s w.flow { x with last := s.raw, expected := x.expected + 1 }) opcode q
  else if below ≤ 8 then resend t w
  else if below < 2 ^ 31 then answer t w 14
  else answer t w 8

/-- A request arrives over its transport (R517-R519). (DEDUCED, log entry 63) -/
def enterRequest (s : State) (opcode : Nat) (q : Req) : State :=
  let w := waitingOf s opcode q
  let n := q.flow.toNat
  let legacyEp := match q.ep with | .legacy _ => true | _ => false
  if 248 ≤ n then answer s w 7
  else if 240 ≤ n then
    if q.ep != .legacy ⟨(n - 240) % 8, Nat.mod_lt _ (by decide)⟩ || opcode == 1 || opcode == 2 then answer s w 7 else runOrHold s opcode q
  else if legacyEp then answer s w 7
  else if flowOwner s n == some q.ep then sequenced s w opcode q
  else if opcode == 1 then openFlow s w opcode q
  else answer s w 7

/-- The first held request that nothing holds back any more, with those before and behind it. -/
def firstFree (s : State) : List (Nat × Req) → List (Nat × Req) → Option (List (Nat × Req) × Nat × Req)
  | _, [] => none
  | before, p :: rest =>
    if heldBack s before p.1 p.2 then firstFree s (before ++ [p]) rest else some (before ++ rest, p.1, p.2)

/-- A message over a transport (R514, R515): discarded, or taken in. (DEDUCED, log entry 65) -/
def takeMessage (s : State) (ep : Endpoint) (m : List Byte) (limit : Nat) (tag sqIndex rspAddr rspCap : Nat) : State :=
  if !msgOk m limit then
    let s := discardMsg s
    match ep with
    | .ring r => ringDone s r
    | _ => s
  else
    let q : Req := { ep := ep, flow := BitVec.ofNat 16 (field m 4 2), seq := word (field m 8 4), payload := m.drop 16
                     tag := BitVec.ofNat 16 tag, sqIndex := BitVec.ofNat 16 sqIndex, rspAddr := BitVec.ofNat 64 rspAddr
                     rspCap := word rspCap }
    enterRequest s (field m 2 2) q

/-- A legacy queue whose words can be assembled now: legacy mode, and no request of its flow in progress. (DEDUCED, log entry 66) -/
def legacyIdle (s : State) (q : Nat) : Bool :=
  s.mbx.legacyMode && !(s.host.waiting.any fun w => w.flow == 240 + q) && !(s.host.queued.any fun p => p.2.flow.toNat == 240 + q)

/-- One word of a legacy queue joins the message being assembled (R543); a whole message is taken. (DEDUCED, log entry 66) -/
def legacyWord (s : State) (q : Fin 8) : State :=
  let x := legacy s q.val
  match x.h2d with
  | [] => s
  | v :: r =>
    let m := x.msg ++ [v]
    let bs := (m.map fun w => leBytes 4 w.toNat).flatten
    if m.length < 4 || m.length < 4 + ceilDiv (field bs 6 2) 4 then setLegacy s q.val { x with h2d := r, msg := m }
    else takeMessage (setLegacy s q.val { x with h2d := r, msg := [] }) (.legacy q) bs 1024 0 0 0 8208

/-- Words that wait while overflow is set are discarded, with the message being assembled (R543). -/
def legacyDrop (s : State) : State :=
  (List.range 8).foldl (fun s q =>
    if s.mbx.legacyMode && fbit s (Reg.MBXQ_STAT q) 0 then setLegacy s q { legacy s q with h2d := [], msg := [] } else s) s

/-- Held requests and legacy words go on while they can: at most n of them. -/
def pumpN : Nat → State → State
  | 0, s => s
  | n + 1, s =>
    match firstFree s [] s.host.queued with
    | some (rest, op, q) => pumpN n (execRequest (hostMod s fun h => { h with queued := rest }) op q)
    | none =>
      match (List.finRange 8).find? fun q => legacyIdle s q.val && !(legacy s q.val).h2d.isEmpty with
      | some q => pumpN n (legacyWord s q)
      | none => s

/-- Held requests and legacy words go on as far as they can. (DEDUCED, log entry 66) -/
def pump (s : State) : State :=
  let s := legacyDrop s
  pumpN (s.host.queued.length + 160) s

/-- A request of the command protocol (R517-R521). -/
def takeRequest (s : State) (opcode : Nat) (q : Req) : State := if s.sec.inReset then s else pump (enterRequest s opcode q)

/-- A waiting request completes, and what it held back goes on (R520, R521). -/
def requestComplete (s : State) (id : Nat) : State := pump (tryComplete s id)

/-! ### Ring pairs, UDP and PCIe -/

/-- The head fetches a submission entry and its request (R534, R535). -/
def sqEntryFetch (s : State) (r : Fin 8) (entry request : List Byte) (ok : Bool) : State :=
  let head := fld s (Reg.HOST_SQ_HEAD r.val) 11 0
  let tail := fld s (Reg.HOST_SQ_TAIL r.val) 11 0
  if !fbit s (Reg.HOST_RING_STATUS r.val) 0 || head == tail then s
  else if !ok then ringError s r.val 2
  else
    let s := setF s (Reg.HOST_SQ_HEAD r.val) 11 0 ((head + 1) % ringLen s (Reg.HOST_SQ_SIZE r.val))
    let s := bumpF s (Reg.HOST_RING_STATUS r.val) 31 16
    let len := field entry 8 4
    let cap := field entry 24 4
    let bad := len < 16 || 8208 < len || cap < 16 || 8208 < cap || field entry 0 8 % 4 != 0 || field entry 16 8 % 4 != 0 ||
      field entry 12 2 != 0 || field entry 28 4 != 0
    if bad then
      let seq : Word := freeVal 32 s
      ringDone (cqPost (drawn s) r.val (0, [], cqEntry (field entry 14 2) head 0 2 false seq)) r
    else pump (takeMessage s (.ring r) (padTo len (request.take len)) 8192 (field entry 14 2) head (field entry 16 8) cap)

/-- A datagram on the command port (R541): a UDP source is its address, port and the host port it arrived on. -/
def udpCommand (s : State) (ip : Word) (port : Half) (eth : Fin 2) (m : List Byte) : State :=
  pump (takeMessage s (.udp ip port eth) m 8192 0 0 0 8208)

/-- A memory TLP to BAR0 that is not whole DWORDs with all bytes enabled, or larger than 64 B (R533). -/
def badBar0 (t : BarTlp) : Bool :=
  let n := if t.write then t.bytes.length else t.len
  n % 4 != 0 || 64 < n || n == 0 || t.offset.toNat % 4 != 0 || (t.write && !(t.enables.isEmpty || t.enables.all id))

/-- The bytes that a write TLP stores: those that are enabled. -/
def enabledBytes (t : BarTlp) : List (Nat × Byte) :=
  (t.bytes.zipIdx.filter fun b => t.enables.isEmpty || t.enables.getD b.2 false).map fun b => (t.offset.toNat + b.2, b.1)

/-- Store enabled bytes into a memory from a base address. -/
def storeBytes (s : State) (r : Region) (base : Nat) (bs : List (Nat × Byte)) : State :=
  bs.foldl (fun s b => writeMem s r (base + b.1) [b.2]) s

/-- A PCIe memory TLP (R49, R179, R331, R368, R533): bar 0, 1 and 2 stand for BAR0, BAR2 and BAR4. -/
def barAccess (s : State) (t : BarTlp) : State :=
  let o := t.offset.toNat
  let n := if t.write then t.bytes.length else t.len
  if s.sec.inReset then slverr s
  else
    match t.bar.val with
    | 0 =>
      if badBar0 t || 0x1000000 < o + n then refuse s
      else if t.write then
        pump ((List.range (n / 4)).foldl (fun s i => hostWrite s .pcie (0x20000000 + o + 4 * i) (word (field t.bytes (4 * i) 4))) s)
      else pump ((List.range (n / 4)).foldl (fun s i => portRead s .pcie (0x20000000 + o + 4 * i)) s)
    | 1 =>
      if boltEnd < o + n then refuse s
      else if !t.write then okBus s (word (leVal (readMem s .bolt o (min n 4))))
      else if (boltParts s o n).contains 5 then refuse s
      else if twinSt s != 0 && (boltParts s o n).any fun p => p != 3 then refuse s
      else okBus (storeBytes (dirty s o n) .bolt 0 (enabledBytes t))
    | _ =>
      if 0x80000000 < o + n || s.pwr.off.contains .mem then refuse s
      else if !t.write then okBus s (word (leVal (readMem s .arch (0x80000000 + o) (min n 4))))
      else okBus (storeBytes s .arch 0x80000000 (enabledBytes t))

end Sys2Proof.Machine
end

