-- ==== Sys2Proof/Machine/Shuttle.lean ====
section
/-! DEFINITION. The course of a cycle (R22-R26): the launch of a shuttle, its return, its turnaround at position 127, and what a
standby does in their place (02_shuttle.md, 11_twin_operation.md). -/

namespace Sys2Proof.Machine

/-! ### The motion part of a latch instant -/

/-- The set-points of cycle n and what follows from them (R162, R231, R316, R321, R326): due at L(n), on a standby once the inputs
that CYCLE_A brings are there (R361). -/
def motionPart (s : State) : State :=
  let s := twinMod s fun t => { t with motionDue := false }
  let s := if s.twin.cycleA.isSome then (List.range 8).foldl twinOffset s else s
  let s := profLatch s
  let s := (List.range 32).foldl armApply s
  let s := loopLatch (evalCommanded s)
  (List.range 8).foldl (emuLatch (s.cyc.past * 125)) s

/-- The motion part where it is still due: without CYCLE_A the standby uses its own inputs (R361). -/
def motionNow (s : State) : State := if s.twin.motionDue then motionPart s else s

/-! ### The outbound image -/

/-- The configured axes, ascending. -/
def ringAxes (s : State) : List Nat := (List.range 256).filter (configured s)

/-- The deadline of the first block of shuttle n (R123): RING_RT holds Q_0 in 1/16 ns, once this integration has measured it.
(DESIGN CHOICE, log entry 12) (DEDUCED, log entry 25) -/
def returnDeadline (s : State) : Nat :=
  if ringSt s == 4 && s.ring.integ < 20 then s.cyc.latch + 100000 * nsU
  else leadTime s + (rd s Reg.RING_RT).toNat * (nsU / 16) + 1000 * nsU

/-- The records of a launch by axis, each with whether it was missed (R26, R84). (DEDUCED, log entry 36) -/
def launchRecs (s : State) : List (Nat × OutRec × Bool) :=
  (ringAxes s).map fun a =>
    let mode := recMode (wbits (coef s a 0) 2 0)
    if ringSt s != 4 && s.flt.cellsOff.contains (LOOP, a % 16) then
      (a, { pos := BitVec.ofInt 64 (axis s a).sp1.pos, control := control 0 false mode 0 }, false)
    else (a, launchRec s (fun _ => mode) a)

/-- A missed record is counted and raised (R26, R211). -/
def noteMiss (s : State) (a : Nat) : State := hemLate (event (bump s Reg.SYS_OVERRUN_CNT) LOOP 0 a) a

/-- The image of this cycle's shuttle is complete: its records, its misses and its digest (R26, R369). -/
def imageDone (s : State) (recs : List (Nat × OutRec × Bool)) : State :=
  let s := recs.foldl (fun s r => ringMod s fun x =>
    { x with sent := tput (fun _ => {}) x.sent r.1 r.2.1
             everSent := if x.everSent.contains r.1 then x.everSent else r.1 :: x.everSent }) s
  let s := ((recs.filter fun r => r.2.2).map (·.1)).foldl noteMiss s
  let s := if s.twin.pair then noteDigest s (crc64 (digestBytes s (recs.map fun r => (r.1, r.2.1)) s.ring.xt)) else s
  ringMod s fun x =>
    { x with fresh := [], replace := [], late := x.late ++ x.waiting, waiting := [], launched := true, xtLaunched := x.xt, xt := 0, xtStamp := none }

/-- At L(n) + t_lead the leading head launches shuttle n (R22, R58-R62, R76, R80, R82, R114). -/
def shuttleLaunch (s : State) : State :=
  if !leads s || s.ring.launched || s.flt.resetting.contains RING || mtime s < leadTime s then s
  else
    let recs := launchRecs s
    let lane := launchLane s
    let rec' (a : Nat) : OutRec := match recs.find? fun r => r.1 == a with | some r => r.2.1 | none => {}
    let payload := headerBytes s (twinSt s == 5) ++ ((carried s).map (sectionBytes s rec')).flatten ++ lane.1 ++ trailerBytes s
    let s := imageDone (sendRing lane.2 payload) recs
    let s := twinMod s fun t => { t with missed := (recs.filter fun r => r.2.2).map (·.1) }
    let s := safeMod s fun f => if f.zeroed then { f with zeroShuttles := f.zeroShuttles + 1 } else f
    ringMod s fun r => { r with returned := false }

/-- A standby builds the image that it never launches, with the misses that CYCLE_A names (R359, R362); it starts no exchange of
its own. (DEDUCED, log entry 31) -/
def standbyBuild (s : State) : State :=
  if !mirrors s || ringSt s != 3 || s.ring.launched then s
  else
    let miss := s.twin.missed
    let s := ringMod s fun r => { r with fresh := (ringAxes s).filter fun a => !miss.contains a, slots := [], queue := [] }
    imageDone s (launchRecs s)

/-! ### The return -/

/-- Once the inputs of cycle n are decided: phases, answers, the island's PDUs and the measured compare channels (R193, R321, R407,
R501). (DEDUCED, log entry 31) -/
def completeCycle (s : State) : State :=
  evalMeasured (updateAnswers (phaseAnswers (islandInbound ((ringAxes s).foldl phaseWatch s))))

/-- Every worker's section came back written, ready, with in_crc valid and window_violation clear (R107). -/
def allGood (s : State) (bs : List Byte) : Bool :=
  ((carried s).foldl (fun (p : Bool × Nat) x =>
    let b := slice bs p.2 (sectionLen x)
    (p.1 && sectionFate x.axes.length b == 0 && bit (byteAt b 4) 5, p.2 + sectionLen x)) (true, 64)).1

/-- The sections of an own return that a RETURN frame shows as substituted (R355). -/
def substituted (s : State) (bs : List Byte) : List Nat :=
  ((carried s).foldl (fun (p : List Nat × Nat) x =>
    (if sectionFate x.axes.length (slice bs p.2 (sectionLen x)) == 0 then p.1 else p.1 ++ [x.position], p.2 + sectionLen x))
    ([], 64)).1

/-- In SPLIT the cycle is decided from what both heads' shuttles brought (R376, R377). (DEDUCED, log entry 29) -/
def splitFinish (s : State) : State :=
  match s.twin.ownRet with
  | none => s
  | some (own, _) =>
    let their := s.twin.twinRet.getD []
    let s := twinMod s fun t => { t with ownRet := none, twinRet := none }
    let s := if own.isEmpty || their.isEmpty then s else splitBound s own their
    let bs := decideSplit s own their
    completeCycle (if own.isEmpty then takeInputs s bs false else returnShuttle s bs)

/-- Decide as soon as both copies are there. (DEDUCED, log entry 29) -/
def splitTry (s : State) : State := if s.twin.twinRet.isSome then splitFinish s else s

/-- A shuttle with this head's own bit of error_seen set in its trailer, at the offset tr (R73, R76). -/
def markSeen (s : State) (bs : List Byte) (tr : Nat) : List Byte :=
  let at' := tr + (if s.ring.farEnd then 19 else 4)
  patch bs at' [BitVec.ofNat 8 (byteAt bs at' ||| (if s.ring.farEnd then 0x80 else 1))]

/-- The shuttle of this cycle returns to the head that launched it (R73, R89, R104, R355, R375, R377); one whose first block comes
after the deadline is ignored (R123). -/
def shuttleReturned (s : State) (bs : List Byte) (fcsOk : Bool) : State :=
  if !leads s || !s.ring.launched || s.ring.returned || returnDeadline s < mtime s then s
  else
    let tr := svcOffset s + 1024
    let whole := tr + 28 ≤ bs.length
    let bs := if s.ring.errSeen && whole then markSeen s bs tr else bs
    let s := ringMod s fun r => { r with errSeen := !fcsOk || (r.errSeen && !whole) }
    let good := whole && allGood s bs
    let s := takeoverCheck s (if whole then some (byteAt bs (tr + 2)) else none)
    let s :=
      if twinSt s == 5 then
        let s := ringMod s fun r => { r with returned := true, subst := substituted s bs }
        splitTry (sendReturn (twinMod s fun t => { t with ownRet := some (bs, []) }) bs)
      else sendReturn (completeCycle (returnShuttle s bs)) bs
    let s := if whole then rejoinBehind (behindShuttle s good) else ringMod s fun r => { r with retake := true }
    sendDelayed (ringMod s fun r => { r with returned := true })

/-- The standby has no RETURN of this cycle: it uses its forward-end copy (R360), or substitutes every section (R373).
(DEDUCED, log entry 31) -/
def standbyForward (s : State) : State :=
  let bs := s.ring.forward
  if bs.isEmpty then
    let s := localInputs (ringMod s fun r => { r with returned := true, subst := [], inPdus := [] }) []
    completeCycle ((carried s).foldl (fun s x => takeSection s x [] 1 false) s)
  else
    let so := svcOffset s
    completeCycle (xtReport (takeInputs s bs) (slice bs (so + 1024) 28) (field bs 26 2))

/-- No first block of a shuttle has come (R123, R360, R375). (DEDUCED, log entry 25) -/
def shuttleMissing (s : State) : State :=
  if s.ring.returned then s
  else if leads s && s.ring.launched then
    let s := takeoverCheck s none
    let s :=
      if twinSt s == 5 then
        let s := event (bump (ringMod s fun r => { r with returned := true, retake := true }) Reg.RING_RETURN_MISS_CNT) RING 7
        splitTry (twinMod s fun t => { t with ownRet := some ([], []) })
      else completeCycle (returnMissing s)
    sendDelayed (ringMod s fun r => { r with returned := true })
  else if mirrors s && ringSt s == 3 then standbyForward (standbyBuild (motionNow s))
  else s

/-- The deadline of a return has passed (R123). -/
def returnTimeout (s : State) : State :=
  if leads s && mtime s ≤ returnDeadline s then s else shuttleMissing s

/-- A RETURN frame of the twin (R360, R361, R376, R377). -/
def takeReturn (s : State) (b : List Byte) : State :=
  let at' := svcOffset s + 1024 + 28
  let s := takeSsi (keepFrame s b) (slice b (at' + 16) 64)
  let s := activeSplit s
  if twinSt s == 5 then
    splitTry (twinMod s fun t => { t with twinRet := some (b.take at') })
  else if !mirrors s || ringSt s != 3 || s.ring.returned then s
  else
    let s := standbyBuild (motionNow s)
    let r := decideReturn s b
    let s := bump s Reg.TWIN_REPAIR_CNT r.2
    let s := completeCycle (xtReport (takeInputs s (r.1.take at')) (slice r.1 (svcOffset s + 1024) 28) (field r.1 26 2))
    ringMod s fun x => { x with returned := true }

/-! ### The turnaround -/

/-- A shuttle header checks (R59) as far as a head at position 127 needs it. -/
def headerOk (bs : List Byte) : Bool :=
  64 ≤ bs.length && field bs 62 2 == crc16 (slice bs 0 26 ++ slice bs 28 34) && byteAt bs 1 / 16 == 1

/-- The delay by which a head in FOLLOW predicts a shuttle's arrival, and the steering of its rate, are stated nowhere: free values
(R114, R115, R137). (DEDUCED, log entry 21) -/
def followTime (s : State) (L : Nat) : State :=
  if s.ring.synced then setRate (drawn s) (clampI (-rateLimit) rateLimit (freeVal 32 s).toInt)
  else
    let delay := (freeVal 16 s).toNat
    let d : Int := ((L / nsU : Nat) : Int) + 500 + delay - ((mtime s / nsU : Nat) : Int)
    let s := raise (drawn s) { blk := TIME, ev := 0, ctx := BitVec.ofInt 32 d }
    ringMod (setTimeSt (stepTime s d) 2 false) fun r => { r with synced := true }

/-- A head in FOLLOW takes its cycle, its grid and its side from the leader's header (R53, R119, R137): it locks once its last latch
instant was one that the header before announced. (DEDUCED, log entry 21) -/
def followHeader (s : State) (bs : List Byte) : State :=
  let next := (field bs 8 8 * 1000000000 + field bs 16 4) * nsU
  let L := s.cyc.latch
  let s :=
    if s.ring.synced || (s.ring.ahead == some L && s.cyc.count.toNat == field bs 4 4) then
      let s := followTime s L
      { s with cyc := { s.cyc with latch := L } }
    else { s with cyc := { s.cyc with latch := next - cycleNs s * nsU } }
  let far := byteAt bs 2 % 2 == 0
  let turned := far != s.ring.farEnd
  let s := ringMod s fun r => { r with ahead := some next, farEnd := far }
  let s := { s with cyc := { s.cyc with
    count := word (field bs 4 4)
    next := field bs 20 2
    nextIdle := bit (byteAt bs 3) 2
    nextOper := byteAt bs 3 / 4 % 2 == 0 && byteAt bs 3 % 2 == 0 } }
  if turned then orient s else s

/-- The mean arrival over the last 1,024 shuttles (R372). -/
def noteArrival (s : State) : State :=
  let t := (mtime s - s.cyc.latch) / nsU
  let l := (t :: s.twin.arrivals).take 1024
  wr (twinMod s fun x => { x with arrivals := l }) Reg.TWIN_ARRIVAL (word (l.foldl (· + ·) 0 / l.length))

/-- A shuttle of the leader reaches this head at position 127 and is turned around (R53, R73, R75, R76, R360): f is the MAC frame
without its FCS. Nothing but visit_count and its own bit of error_seen changes. One that came short, or whose header does not check so
that svc_offset cannot be trusted, is turned around as it is: no visit is counted in it, and the mark waits (DESIGN CHOICE, log entry
101). -/
def turnaround (s : State) (f : List Byte) (fcsOk : Bool) : State :=
  if ringSt s != 3 || slice f 0 6 != ringDest || beField f 12 2 != 0x88B5 || byteAt f 14 != 1 then s
  else
    let bs := f.drop 14
    let tr := field bs 34 2
    let whole := tr + 28 ≤ bs.length && headerOk bs
    let v := patch bs tr (leBytes 2 (field bs tr 2 + 1))
    let out := if !whole then bs else if s.ring.errSeen then markSeen s v tr else v
    let g := f.take 14 ++ out
    let s := if transmits s then emit s (.ring (g ++ fcsBytes g)) else s
    let s := if headerOk bs then followHeader s bs else s
    let s := if s.twin.pair then noteArrival s else s
    heard (ringMod (keepFrame (selvedgeCompare s bs) bs) fun r => { r with errSeen := !fcsOk || (r.errSeen && !whole), forward := bs })

/-! ### The twin's frames of a cycle -/

/-- A received CYCLE_A (R355, R359-R366, R370): the standby's cycle goes on with what it brings. One of another cycle is not used. -/
def cycleAFrame (s : State) (f : List Byte) (fcsOk : Bool) : State :=
  twinRecv s f fcsOk fun s b =>
    if field f 4 4 != s.cyc.count.toNat || !mirrors s then s
    else
      let s := takeCycleA s b (s.sec.actCycle == some (word (field b 144 4)))
      compareDigest (standbyBuild (motionNow s)) s.cyc.count (field b 0 8)

/-- A(n) + 1 µs (R372). -/
def decisionTime (s : State) : Nat := s.cyc.latch + ((rd s Reg.TWIN_ARRIVAL).toNat + 1000) * nsU

/-- The decision of a standby at A(n) + 1 µs (R372-R376): at a takeover cycle n is completed with substitutes. (DEDUCED, log entry 32) -/
def takeoverDecided (s : State) (arrived : Bool) : State :=
  if mtime s < decisionTime s then s else
  match decision s arrived with
  | 1 => enterSplit s
  | 2 =>
    let s := standbyBuild (motionNow s)
    let s := if s.ring.returned then s else standbyForward (ringMod s fun r => { r with forward := [] })
    takeover s
  | _ => s

end Sys2Proof.Machine
end

