-- ==== Sys2Proof/Machine/Latch.lean ====
section
/-! DEFINITION. The latch instant (R20): what takes effect at L(n), in the order of 95_what_each_step_holds.md and R195, and the
cycle lengths (R45, R119). -/

namespace Sys2Proof.Machine

/-- What the cycle that ends still owes: the motion part, the image and the return, where nothing brought them (R123, R360-R377).
(DEDUCED, log entry 13) (DEDUCED, log entry 25) -/
def finishCycle (s : State) : State :=
  splitFinish (shuttleMissing (standbyBuild (motionNow s)))

/-- Journal entries stamped for the cycle that begins apply in the order of their numbers, and go (R364); after a gap none of them
applies (R366). -/
def journalApply (s : State) : State :=
  let m := s.cyc.count + 1
  let due := s.twin.entries.filter fun e => e.cycle == m
  let s := if s.twin.skip then s else due.foldl applyEntry s
  -- a head that does not stamp shows the last number applied (R390)
  let s := if stamps s || s.twin.skip then s else match due.getLast? with | some e => wr s Reg.TWIN_JSEQ e.seq | none => s
  let s := twinMod s fun t => { t with entries := t.entries.filter fun e => e.cycle != m, skip := false }
  if due.isEmpty then s else showJournal s

/-- Machine time of the next latch instant: in FOLLOW the one that the leader's header announced (R137). (DEDUCED, log entry 13)
(DEDUCED, log entry 23) (DEDUCED, log entry 97) -/
def nextLatch (s : State) : Nat :=
  let own := s.cyc.latch + cycleNs s * nsU
  match s.ring.ahead with
  | some L => if ringSt s == 3 && s.cyc.latch < L then L else own
  | none => own

/-- The raw value at which machine time reads a latch instant; a head in FOLLOW whose time is not yet locked lets its cycle pass. -/
def latchRaw (s : State) (L : Nat) : Nat :=
  if ringSt s == 3 && !s.ring.synced then s.raw + cycleNs s
  else max s.raw (rawAt (if s.time.switched then domc s 0 else s.time.main) L)

/-- Cycle n begins: its count, its instant, its length (R20, R119). (DEDUCED, log entry 23) -/
def advanceCycle (s : State) : State :=
  let L := nextLatch s
  let c := { s.cyc with
    count := s.cyc.count + 1
    latch := L
    past := s.cyc.steps
    steps := s.cyc.next
    pastOper := s.cyc.oper
    oper := s.cyc.nextOper
    instant := latchRaw s L
    profAwake := true }
  let s := { s with safe := { s.safe with since := s.safe.since + s.cyc.steps * 125 } }
  let s := { s with raw := latchRaw s L, cyc := c, flt := { s.flt with marks := [] } }
  let s := { s with fbc := { s.fbc with scheduledPrev := s.fbc.scheduled, scheduled := [] } }
  if 3 ≤ ringSt s then wr s Reg.SYS_CYCLE_ACTIVE (word s.cyc.steps) else s

/-- Pending commits whose commit point is the latch instant (R40). (DEDUCED, log entry 13) -/
def commitPoints (s : State) : State :=
  let s := applyRing (applySys s)
  hemLatch (applyTwin (applyFio (applyAcq (applyFbc (if timeDue s then applyTime s else s)))))

/-- What shuttle n announces of cycle n + 1, and the ring state with it (R93, R104, R107, R119). (DEDUCED, log entry 23)
(DEDUCED, log entry 97) -/
def announce (s : State) : State :=
  let st := ringSt s
  let len (s : State) (n : Nat) (idle oper : Bool) : State :=
    { s with cyc := { s.cyc with next := n, nextIdle := idle, nextOper := oper } }
  if st == 4 then len s 1000 false false
  else if st == 5 || st == 6 then
    if anyEnabled s then len (if st == 5 then enterRing s 6 else s) s.cyc.operating false true
    else if s.ring.mustRepeat then enterIntegrate s
    else len (if st == 6 then enterRing s 5 else s) 8000 true false
  else s

/-- A recalibration that waits for the arbiter after a rejoin starts once it may (R124). -/
def recalDue (s : State) : State :=
  if s.ring.recalWanted && leads s && (holders s).all (compat 4) then wantRecal s else s

/-- The latch instant L(n) (R20). On a standby the motion part waits for CYCLE_A (R361). (DEDUCED, log entry 13) -/
def latchInstant (s : State) : State :=
  let s := advanceCycle (journalApply (twinMissed (finishCycle s)))
  let s := acqLatch (timeSwitchBack s)
  let s := ptpRequest (bestMaster (ringLatch (commitPoints s)))
  let s := resyncCapture (roleChange s)
  let s := twinLatch s
  let s := fioLatch s
  let s := (List.range 8).foldl (fun s c => encLatch (encShift s c) c) s
  let s := if s.twin.pair then delayLatch 2048 s else s
  let s := ringMod s fun r => { r with launched := false, returned := !(mirrors s && ringSt s == 3), forward := [] }
  let s := if mirrors s && ringSt s == 3 then twinMod s fun t => { t with motionDue := true } else motionPart s
  let s := gateCores (pump (regionSleep (recalDue (homingLatch (announce s))))) (anyEnabled s)
  let s := acqHold (showFbc s)
  { s with cyc := { s.cyc with lanesAwake := false, profAwake := false } }

/-- When the lanes wake (R34): 200 ns before the first input record is due, by t_lead, the measured round trip and the place of that
record in the frame, whose time `arrivals` gives as ns times 25. -/
def laneWakeTime (s : State) : Nat :=
  leadTime s + (rd s Reg.RING_RT).toNat * (nsU / 16) + ((arrivals s).headD (0, 0)).1 * nsU / 25 - 200 * nsU

/-- The lanes and Hem cores wake for the cycle's burst (R34). (DESIGN CHOICE, log entry 98) -/
def laneWake (s : State) : State :=
  if mtime s < laneWakeTime s then s else { gateCores s false with cyc := { s.cyc with lanesAwake := true } }

/-- The profile lanes wake, 200 ns before the next latch instant (R34). (DESIGN CHOICE, log entry 98) -/
def profileLaneWake (s : State) : State :=
  if mtime s < nextLatch s - 200 * nsU then s else { s with cyc := { s.cyc with profAwake := true } }

end Sys2Proof.Machine
end

