-- ==== Sys2Proof/Machine/Commands.lean ====
section
/-! DEFINITION. What the commands of several families share: an event that a head held in reset does not take, a command that is a
short run of register writes by a port, and the words of such writes. -/

namespace Sys2Proof.Machine

/-- An event reaches the head unless it is held in reset (R480). -/
def awake (f : State → State) (s : State) : State := if s.sec.inReset then s else f s

/-- Register writes by a port, one after the other, up to the first that is refused. (DEDUCED, log entry 44) -/
def issueWrites (port : Port) : List (Nat × Word) → State → State
  | [], s => okBus s
  | (a, v) :: ws, s =>
    let t := hostWrite s port a v
    if t.bus.err then t else issueWrites port ws t

/-- The words of a 64-bit argument. -/
def lowWord (x : Long) : Word := x.setWidth 32
def highWord (x : Long) : Word := (x >>> 32).setWidth 32

/-- A command of the profile engine (R196): its arguments, then its opcode and index. (DEDUCED, log entry 44) -/
def motionCmd (port : Port) (op : Nat) (index : Byte) (args : List Word) (s : State) : State :=
  issueWrites port ((args.mapIdx fun i v => (Reg.PROF_CMD_ARG i, v)) ++ [(Reg.PROF_CMD, word (op * 256 + index.toNat))]) s

/-- The words of a commit and of a load of the parameters of an axis (R196). -/
def commitWord (axis : Byte) (now : Bool) : Word := word (axis.toNat + flag now * 256)
def loadWord (axis : Byte) : Word := word (axis.toNat + 512)

/-- A HEM commit with an operation (R267, R268): the operation is staged, then committed. -/
def hemCommit (s : State) (port : Port) (op : Nat) : State :=
  issueWrites port [(Reg.HEM_OP, wset (rd s Reg.HEM_OP) 1 0 op), (Reg.HEM_BASTE_COMMIT, 1)] s

/-- The response to an axis's PHASE_RESTORE comes in (R193): its exchange ends. -/
def phaseResponse (s : State) (a result : Nat) (data : List Byte) : State :=
  let i := (List.range 16).find? fun i =>
    match (slot s i).req with
    | some q => q.origin == .phase a && (slot s i).sent
    | none => false
  match i with
  | some i => phaseAnswers (svcEnd s i result data)
  | none => s

/-- Where the events of a block are acknowledged: those of the island through FPM (R428, R478). (DEDUCED, log entry 80) -/
def ackReg (blk : Nat) : Nat := if blk == SAFE then Reg.FPM_SAFE_FLT_ACK else Reg.FLT_ACK blk

end Sys2Proof.Machine
end

