-- ==== Sys2Proof/Machine/CmdAcq.lean ====
section
/-! DEFINITION. The commands of the acquisition spools (10_spools.md): one meaning each, over the shared operations. -/

namespace Sys2Proof.Machine

/-- SPOOL_SAMPLE (R335). Once the loop engine has finished cycle n, each spool writes its per-cycle sample and tests its
triggers and masks. -/
def execSpoolSample (s : State) : Host.Outcome State Fault Refusal :=
  run (awake fun s => Machine.spoolSample s) s

/-- AUTO_TRIGGER_TIMEOUT (R342). In auto mode a record without a trigger within timeout gets a forced trigger. -/
def execAutoTriggerTimeout (spool : Fin 4) (s : State) : Host.Outcome State Fault Refusal :=
  runQuiet (awake fun s => autoTimeout s spool) s

/-- ACQ_COMMIT (R349). A write of commit to ACQ_BASTE_COMMIT checks the staged spool settings and applies them at the next latch
instant. -/
def execAcqCommit (port : Port) (v : Word) (s : State) : Host.Outcome State Fault Refusal :=
  runQuiet (fun s => hostWrite s port Reg.ACQ_BASTE_COMMIT v) s

/-- SPOOL_ARM (R343). The ACQ_SPs_CTRL arm command arms the spool, or its group, at the next latch instant. -/
def execSpoolArm (port : Port) (spool : Fin 4) (s : State) : Host.Outcome State Fault Refusal :=
  runQuiet (fun s => hostWrite s port (Reg.ACQ_SP_CTRL spool.val) 1) s

/-- SPOOL_STOP (R343). The ACQ_SPs_CTRL stop command closes the record in progress at the next latch instant. -/
def execSpoolStop (port : Port) (spool : Fin 4) (s : State) : Host.Outcome State Fault Refusal :=
  runQuiet (fun s => hostWrite s port (Reg.ACQ_SP_CTRL spool.val) 2) s

/-- SPOOL_FORCE (R341). The ACQ_SPs_CTRL force command triggers the spool at once. -/
def execSpoolForce (port : Port) (spool : Fin 4) (s : State) : Host.Outcome State Fault Refusal :=
  runQuiet (fun s => hostWrite s port (Reg.ACQ_SP_CTRL spool.val) 4) s

/-- SPOOL_RELEASE (R342). The ACQ_SPs_CTRL release command frees the oldest record slot. -/
def execSpoolRelease (port : Port) (spool : Fin 4) (s : State) : Host.Outcome State Fault Refusal :=
  runQuiet (fun s => hostWrite s port (Reg.ACQ_SP_CTRL spool.val) 8) s

/-- SPOOL_DUMP (R339). The ACQ_SPs_CTRL dump command copies the most recent record to archive memory as the spool-dump
maintenance activity. -/
def execSpoolDump (port : Port) (spool : Fin 4) (s : State) : Host.Outcome State Fault Refusal :=
  run (fun s => hostWrite s port (Reg.ACQ_SP_CTRL spool.val) 16) s

/-- ARCHIVE_BURST (R339). With leave granted, a burst moves spool data from the Bolt staging FIFO to archive memory. -/
def execArchiveBurst (spool : Fin 4) (s : State) : Host.Outcome State Fault Refusal :=
  run (awake fun s => Machine.archiveBurst s spool) s

end Sys2Proof.Machine
end

