-- ==== Sys2Proof/Machine/CmdFbc.lean ====
section
/-! DEFINITION. The commands of local feedback and the compare channels (09_feedback_and_compare.md): one meaning each, over the shared operations. -/

namespace Sys2Proof.Machine

/-- ENCODER_TRANSITION (R304). A change of the filtered quadrature state counts ±1, or a double transition is counted and
flagged. -/
def execEncoderTransition (c : Fin 8) (a : Bool) (b : Bool) (s : State) : Host.Outcome State Fault Refusal :=
  runQuiet (awake fun s => Machine.encoderTransition s c a b) s

/-- STEP_EDGE (R306). A filtered rising step edge in STEPDIR mode counts ±1 by the direction level. -/
def execStepEdge (c : Fin 8) (dir : Bool) (s : State) : Host.Outcome State Fault Refusal :=
  runQuiet (awake fun s => Machine.stepEdge s c dir) s

/-- INDEX_EDGE (R308). A filtered rising index edge captures the count and its time, and checks the count between index pulses.
-/
def execIndexEdge (c : Fin 8) (s : State) : Host.Outcome State Fault Refusal :=
  runQuiet (awake fun s => Machine.indexEdge s c) s

/-- SSI_TRANSFER_END (R310). The end of an SSI frame gives a position, or on a parity or error-bit failure puts the channel in
fault. -/
def execSsiTransferEnd (c : Fin 8) (data : Long) (parity : Bool) (s : State) : Host.Outcome State Fault Refusal :=
  runQuiet (awake fun s => ssiEnd s c data.toNat parity) s

/-- ENC_FAULT_CLEAR (R311). A write of 1 to fault in FBC_ENCc_STATUS clears the channel fault once its cause has cleared. -/
def execEncFaultClear (port : Port) (c : Fin 8) (s : State) : Host.Outcome State Fault Refusal :=
  runQuiet (fun s => hostWrite s port (Reg.FBC_ENC_STATUS c.val) 1) s

/-- FBC_COMMIT (R332). A write of commit to FBC_BASTE_COMMIT checks the staged fields and applies them at the next latch
instant. -/
def execFbcCommit (port : Port) (v : Word) (s : State) : Host.Outcome State Fault Refusal :=
  runQuiet (fun s => hostWrite s port Reg.FBC_BASTE_COMMIT v) s

/-- COMPARE_FIRE (R320). At the fire time the channel's action acts on its pin, and the channel disarms, re-arms or takes its
next table entry. -/
def execCompareFire (k : Fin 32) (s : State) : Host.Outcome State Fault Refusal :=
  runQuiet (awake fun s => Machine.compareFire s k) s

/-- PULSE_END (R320). At t + width × 10 ns the pulse action returns its pin inactive. -/
def execPulseEnd (k : Fin 32) (s : State) : Host.Outcome State Fault Refusal :=
  runQuiet (awake fun s => Machine.pulseEnd s k) s

/-- COMPARE_ARM (R327). A write of arm to FBC_CMPk_CTRL arms the channel at the next latch instant. -/
def execCompareArm (port : Port) (k : Fin 32) (s : State) : Host.Outcome State Fault Refusal :=
  runQuiet (fun s => hostWrite s port (Reg.FBC_CMP_CTRL k.val) 1) s

/-- COMPARE_DISARM (R327). A write of disarm to FBC_CMPk_CTRL disarms the channel at once and cancels scheduled actions. -/
def execCompareDisarm (port : Port) (k : Fin 32) (s : State) : Host.Outcome State Fault Refusal :=
  runQuiet (fun s => hostWrite s port (Reg.FBC_CMP_CTRL k.val) 2) s

end Sys2Proof.Machine
end

