-- ==== Sys2Proof/Machine/CmdFio.lean ====
section
/-! DEFINITION. The commands of the field I/O (13_field_io.md): one meaning each, over the shared operations. -/

namespace Sys2Proof.Machine

/-- FIO_DOWNLINK_FRAME (R431). Every 10 µs the island sends a downlink frame with output states, test pulses and configuration
writes. -/
def execFioDownlinkFrame (s : State) : Host.Outcome State Fault Refusal :=
  run (awake fun s => downlinkSend s) s

/-- FIO_DOWNLINK_RECEIVE (R431). The die takes a valid downlink frame, applies it and answers with an uplink frame. -/
def execFioDownlinkReceive (arrival : DownArrival) (s : State) : Host.Outcome State Fault Refusal :=
  runQuiet (awake fun s => downlinkReceive s arrival) s

/-- FIO_UPLINK_FRAME (R432). A valid uplink frame delivers filtered inputs, edges and flags to the control die. -/
def execFioUplinkFrame (report : DieReport) (crcOk : Bool) (s : State) : Host.Outcome State Fault Refusal :=
  run (awake fun s => localLevel (uplinkReceive s report crcOk)) s

/-- FIO_LINK_TIMEOUT (R433). The die's logic-silence watchdog trips and every output takes its safe state. -/
def execFioLinkTimeout (s : State) : Host.Outcome State Fault Refusal :=
  runQuiet (awake fun s => linkTimeout s) s

/-- OUTPUT_OVERLOAD (R443). An output that stays in current limit for 2 ms, or overheats, latches off. -/
def execOutputOverload (k : Fin 16) (s : State) : Host.Outcome State Fault Refusal :=
  runQuiet (awake fun s => overload s k) s

/-- OVERLOAD_RETRY (R443). With auto_retry set, a latched-off output retries every 100 ms. -/
def execOverloadRetry (k : Fin 16) (s : State) : Host.Outcome State Fault Refusal :=
  runQuiet (awake fun s => Machine.overloadRetry s k) s

/-- READBACK_MISMATCH (R444). A standard output whose readback differs from its command for 1 ms sets readback and raises
fio-readback. -/
def execReadbackMismatch (k : Fin 16) (s : State) : Host.Outcome State Fault Refusal :=
  runQuiet (awake fun s => Machine.readbackMismatch s k) s

/-- FIO_COMMIT (R451). A write of commit to FIO_BASTE_COMMIT checks the staged fields and applies them at the next latch
instant. -/
def execFioCommit (port : Port) (v : Word) (s : State) : Host.Outcome State Fault Refusal :=
  runQuiet (fun s => hostWrite s port Reg.FIO_BASTE_COMMIT v) s

/-- FIO_OUT_WRITE (R441). A write to FIO_OUT commands standard outputs for L(c + 2). -/
def execFioOutWrite (port : Port) (v : Word) (s : State) : Host.Outcome State Fault Refusal :=
  runQuiet (fun s => hostWrite s port Reg.FIO_OUT v) s

end Sys2Proof.Machine
end

