-- ==== Sys2Proof/Machine/CmdFpm.lean ====
section
/-! DEFINITION. The commands of faults, power leave, maintenance, supplies and clocks (14_faults_power_maintenance.md, 17_package_electrical.md): one meaning each, over the shared operations. -/

namespace Sys2Proof.Machine

/-- GRACE_EXPIRY (R460). The grace timer of a climbing event expires and applies its current rung. -/
def execGraceExpiry (blk : Fin 16) (ev : Fin 32) (s : State) : Host.Outcome State Fault Refusal :=
  run (awake fun s => Machine.graceExpiry s blk ev) s

/-- FAULT_ACK (R460). A write of an event number to FLT_ACK stops that event's climb. -/
def execFaultAck (port : Port) (blk : Fin 16) (v : Word) (s : State) : Host.Outcome State Fault Refusal :=
  runQuiet (fun s => hostWrite s port (ackReg blk.val) v) s

/-- HIST_CLEAR (R456). A write to FLT_HIST_CLR empties the history queue and its lost count. -/
def execHistClear (port : Port) (blk : Fin 16) (v : Word) (s : State) : Host.Outcome State Fault Refusal :=
  runQuiet (fun s => hostWrite s port (Reg.FLT_HIST_CLR blk.val) v) s

/-- BLOCK_RESET_DONE (R462). A block reset completes, restoring its registers from the shadow copy. -/
def execBlockResetDone (blk : Fin 16) (us : Half) (s : State) : Host.Outcome State Fault Refusal :=
  runQuiet (awake fun s => Machine.blockResetDone s blk us.toNat) s

/-- DEFERRED_BLOCK_RESET (R461). A block reset held back by enabled axes runs at the first latch instant at which no axis is
enabled. -/
def execDeferredBlockReset (blk : Fin 16) (s : State) : Host.Outcome State Fault Refusal :=
  runQuiet (awake fun s => deferredReset s blk) s

/-- QUIESCE_END (R463). The masking of secondary detectors ends 64 cycles after the block reset. -/
def execQuiesceEnd (blk : Fin 16) (s : State) : Host.Outcome State Fault Refusal :=
  runQuiet (awake fun s => Machine.quiesceEnd s blk) s

/-- REGION_STOP_STO_REQUEST (R464). Once every axis is at rest, or rs_sto_time has passed, the head sends an STO request for
every safe axis. -/
def execRegionStopStoRequest (s : State) : Host.Outcome State Fault Refusal :=
  runQuiet (awake fun s => regionSto s) s

/-- CLEAR_STOP (R464). The FPM_CTRL clear_stop command ends a region stop once every climb is acknowledged. -/
def execClearStop (port : Port) (s : State) : Host.Outcome State Fault Refusal :=
  runQuiet (fun s => hostWrite s port Reg.FPM_CTRL 1) s

/-- SAFE_STATE (R465). The FPM_CTRL safe_state command enters chip safe state. -/
def execSafeState (port : Port) (s : State) : Host.Outcome State Fault Refusal :=
  run (fun s => hostWrite s port Reg.FPM_CTRL 2) s

/-- INJECT (R466). The FPM_INJ_CTRL inject command raises the named event in factory test mode with a level-2 session. -/
def execInject (port : Port) (s : State) : Host.Outcome State Fault Refusal :=
  runQuiet (fun s => hostWrite s port Reg.FPM_INJ_CTRL 1) s

/-- ALIVE_TOGGLE (R468). ALIVE toggles every 500 µs on CK_AON unless held low or frozen. -/
def execAliveToggle (s : State) : Host.Outcome State Fault Refusal :=
  runQuiet (awake fun s => Machine.aliveToggle s) s

/-- TEMPERATURE_REFRESH (R564). The temperature sensors refresh every 1 ms, updating SYS_TJ and raising thermal-derating where
due. -/
def execTemperatureRefresh (readings : List Half) (s : State) : Host.Outcome State Fault Refusal :=
  run (awake fun s => temperature s readings) s

/-- LEAVE_REQUEST (R470). An operation that can draw a burst of current asks the governor for leave and is queued. -/
def execLeaveRequest (requester : Byte) (cls : BitVec 4) (rail : Fin 5) (current : Half) (duration : Half) (s : State) : Host.Outcome State Fault Refusal :=
  runQuiet (awake fun s =>
    Machine.leaveRequest s { requester := requester.toNat, cls := cls.toNat, rail := rail, current := current.toNat, duration := duration.toNat, raw := s.raw }) s

/-- LEAVE_GRANT (R472). A queued request that fits the rail's budget and staggering is granted; a spool dump that it lets begin copies
its part (R339). -/
def execLeaveGrant (rail : Fin 5) (s : State) : Host.Outcome State Fault Refusal :=
  run (awake fun s => dumps (Machine.leaveGrant s rail)) s

/-- LEAVE_END (R472). A grant ends at its stated duration, and an operation still running raises leave-overrun. -/
def execLeaveEnd (requester : Byte) (running : Bool) (s : State) : Host.Outcome State Fault Refusal :=
  runQuiet (awake fun s => leaveExpiry s requester.toNat running) s

/-- MAINT_REQUEST (R475). A maintenance request is granted at once when compatible with every holder, or refused busy. -/
def execMaintRequest (port : Port) (act : BitVec 4) (s : State) : Host.Outcome State Fault Refusal :=
  runQuiet (fun s => hostWrite s port Reg.FPM_MAINT_REQ (word act.toNat)) s

/-- MAINT_RELEASE (R475). An activity gives up the maintenance token. -/
def execMaintRelease (port : Port) (act : BitVec 4) (s : State) : Host.Outcome State Fault Refusal :=
  runQuiet (fun s => hostWrite s port Reg.FPM_MAINT_REQ (word (act.toNat + 256))) s

/-- SUPPLY_OUT_OF_RANGE (R551). A supply monitor finds a supply out of range and takes its reaction. -/
def execSupplyOutOfRange (supply : Fin 13) (s : State) : Host.Outcome State Fault Refusal :=
  run (awake fun s => Machine.supplyOutOfRange s supply) s

/-- SUPPLY_FALL (R552). VDD_CORE, VDD_AON or VDD_FIO falling below its threshold resets the head, loses the retention store or
switches the outputs off. -/
def execSupplyFall (supply : Fin 13) (s : State) : Host.Outcome State Fault Refusal :=
  run (fun s => Machine.supplyFall s supply) s

/-- CLOCK_LOSS (R556). A missing clock unlocks PLLs, drops links or stops ALIVE. -/
def execClockLoss (clk : Fin 3) (s : State) : Host.Outcome State Fault Refusal :=
  run (awake fun s => Machine.clockLoss s clk) s

/-- CLOCK_RESTORED (R556). A missing clock (CK_AON, CK_REF or the SerDes reference) returns, its presence bit in SYS_CLK_STATUS
sets and ALIVE, the PLLs and power-down under R37 may resume. -/
def execClockRestored (clk : Fin 3) (s : State) : Host.Outcome State Fault Refusal :=
  runQuiet (awake fun s => Machine.clockRestored s clk) s

end Sys2Proof.Machine
end

