-- ==== Sys2Proof/Machine/CmdHem.lean ====
section
/-! DEFINITION. The commands of the Hem cores (07_hem_cores.md): every instruction of R254, and what a core does besides: one meaning each, over the shared operations. -/

namespace Sys2Proof.Machine

/-- NOP (R254). The NOP instruction does nothing. -/
def execNop (core : Fin 16) (s : State) : Host.Outcome State Fault Refusal :=
  runQuiet (awake fun s => hemIssue s core (HemInstr.nop)) s

/-- LDI (R254). The LDI instruction loads a 16-bit immediate into a data register. -/
def execLdi (core : Fin 16) (dd : BitVec 3) (imm : BitVec 16) (s : State) : Host.Outcome State Fault Refusal :=
  runQuiet (awake fun s => hemIssue s core (HemInstr.ldi dd imm)) s

/-- MOV (R254). The MOV instruction copies one data register into another. -/
def execMov (core : Fin 16) (dd : BitVec 3) (ds : BitVec 3) (s : State) : Host.Outcome State Fault Refusal :=
  runQuiet (awake fun s => hemIssue s core (HemInstr.mov dd ds)) s

/-- LD (R249). The LD instruction loads a 16-bit memory word into a data register, with one delay slot. -/
def execLd (core : Fin 16) (dd : BitVec 3) (p : BitVec 2) (am : BitVec 2) (off : BitVec 12) (s : State) : Host.Outcome State Fault Refusal :=
  runQuiet (awake fun s => hemIssue s core (HemInstr.ld dd p am off)) s

/-- ST (R254). The ST instruction stores a data register as a 16-bit memory word. -/
def execSt (core : Fin 16) (ds : BitVec 3) (p : BitVec 2) (am : BitVec 2) (off : BitVec 12) (s : State) : Host.Outcome State Fault Refusal :=
  runQuiet (awake fun s => hemIssue s core (HemInstr.st ds p am off)) s

/-- LDA (R249). The LDA instruction loads a sign-extended 32-bit word into an accumulator, with one delay slot. -/
def execLda (core : Fin 16) (a : BitVec 1) (p : BitVec 2) (am : BitVec 2) (off : BitVec 12) (s : State) : Host.Outcome State Fault Refusal :=
  runQuiet (awake fun s => hemIssue s core (HemInstr.lda a p am off)) s

/-- STA_H (R245). The STA.H instruction stores the rounded, saturated high half of an accumulator. -/
def execStaH (core : Fin 16) (a : BitVec 1) (p : BitVec 2) (am : BitVec 2) (off : BitVec 12) (s : State) : Host.Outcome State Fault Refusal :=
  runQuiet (awake fun s => hemIssue s core (HemInstr.staH a p am off)) s

/-- STA_W (R245). The STA.W instruction stores an accumulator limited to 32 bits. -/
def execStaW (core : Fin 16) (a : BitVec 1) (p : BitVec 2) (am : BitVec 2) (off : BitVec 12) (s : State) : Host.Outcome State Fault Refusal :=
  runQuiet (awake fun s => hemIssue s core (HemInstr.staW a p am off)) s

/-- MVH (R245). The MVH instruction moves the store-high of an accumulator into a data register. -/
def execMvh (core : Fin 16) (dd : BitVec 3) (a : BitVec 1) (s : State) : Host.Outcome State Fault Refusal :=
  runQuiet (awake fun s => hemIssue s core (HemInstr.mvh dd a)) s

/-- MVA (R254). The MVA instruction loads an accumulator with a data register sign-extended and shifted left by 16. -/
def execMva (core : Fin 16) (a : BitVec 1) (ds : BitVec 3) (s : State) : Host.Outcome State Fault Refusal :=
  runQuiet (awake fun s => hemIssue s core (HemInstr.mva a ds)) s

/-- CLR (R254). The CLR instruction clears an accumulator. -/
def execClr (core : Fin 16) (a : BitVec 1) (s : State) : Host.Outcome State Fault Refusal :=
  runQuiet (awake fun s => hemIssue s core (HemInstr.clr a)) s

/-- LDP (R254). The LDP instruction loads an address register with a 20-bit immediate. -/
def execLdp (core : Fin 16) (pa : BitVec 2) (imm : BitVec 20) (s : State) : Host.Outcome State Fault Refusal :=
  runQuiet (awake fun s => hemIssue s core (HemInstr.ldp pa imm)) s

/-- SETB (R254). The SETB instruction sets the base of a circular buffer. -/
def execSetb (core : Fin 16) (pa : BitVec 2) (imm : BitVec 20) (s : State) : Host.Outcome State Fault Refusal :=
  runQuiet (awake fun s => hemIssue s core (HemInstr.setb pa imm)) s

/-- SETL (R247). The SETL instruction sets a circular buffer length, aborting the task on an odd or too large value. -/
def execSetl (core : Fin 16) (pa : BitVec 2) (imm : BitVec 16) (s : State) : Host.Outcome State Fault Refusal :=
  runQuiet (awake fun s => hemIssue s core (HemInstr.setl pa imm)) s

/-- ADDP (R247). The ADDP instruction adds a signed immediate to an address register with a single circular wrap. -/
def execAddp (core : Fin 16) (pa : BitVec 2) (imm : BitVec 16) (s : State) : Host.Outcome State Fault Refusal :=
  runQuiet (awake fun s => hemIssue s core (HemInstr.addp pa imm)) s

/-- MPY (R243). The MPY instruction sets an accumulator to a product. -/
def execMpy (core : Fin 16) (a : BitVec 1) (ds : BitVec 3) (dt : BitVec 3) (mm : BitVec 2) (fr : BitVec 1) (s : State) : Host.Outcome State Fault Refusal :=
  runQuiet (awake fun s => hemIssue s core (HemInstr.mpy a ds dt mm fr)) s

/-- MAC (R244). The MAC instruction adds a product to an accumulator. -/
def execMac (core : Fin 16) (a : BitVec 1) (ds : BitVec 3) (dt : BitVec 3) (mm : BitVec 2) (fr : BitVec 1) (s : State) : Host.Outcome State Fault Refusal :=
  runQuiet (awake fun s => hemIssue s core (HemInstr.mac a ds dt mm fr)) s

/-- MSU (R244). The MSU instruction subtracts a product from an accumulator. -/
def execMsu (core : Fin 16) (a : BitVec 1) (ds : BitVec 3) (dt : BitVec 3) (mm : BitVec 2) (fr : BitVec 1) (s : State) : Host.Outcome State Fault Refusal :=
  runQuiet (awake fun s => hemIssue s core (HemInstr.msu a ds dt mm fr)) s

/-- MACL (R254). The MACL instruction adds a product to an accumulator and loads a data register in the same cycle. -/
def execMacl (core : Fin 16) (a : BitVec 1) (dd : BitVec 3) (ds : BitVec 3) (dt : BitVec 3) (p : BitVec 2) (am : BitVec 2) (mm : BitVec 2) (fr : BitVec 1) (s : State) : Host.Outcome State Fault Refusal :=
  runQuiet (awake fun s => hemIssue s core (HemInstr.macl a dd ds dt p am mm fr)) s

/-- MPYL (R254). The MPYL instruction sets an accumulator to a product and loads a data register in the same cycle. -/
def execMpyl (core : Fin 16) (a : BitVec 1) (dd : BitVec 3) (ds : BitVec 3) (dt : BitVec 3) (p : BitVec 2) (am : BitVec 2) (mm : BitVec 2) (fr : BitVec 1) (s : State) : Host.Outcome State Fault Refusal :=
  runQuiet (awake fun s => hemIssue s core (HemInstr.mpyl a dd ds dt p am mm fr)) s

/-- ADDA (R244). The ADDA instruction adds the other accumulator to an accumulator. -/
def execAdda (core : Fin 16) (a : BitVec 1) (s : State) : Host.Outcome State Fault Refusal :=
  runQuiet (awake fun s => hemIssue s core (HemInstr.adda a)) s

/-- ASL (R244). The ASL instruction shifts an accumulator left, or arithmetically right for a negative amount. -/
def execAsl (core : Fin 16) (a : BitVec 1) (sh : BitVec 6) (s : State) : Host.Outcome State Fault Refusal :=
  runQuiet (awake fun s => hemIssue s core (HemInstr.asl a sh)) s

/-- SATA (R245). The SATA instruction limits an accumulator to 32 bits and writes it back. -/
def execSata (core : Fin 16) (a : BitVec 1) (s : State) : Host.Outcome State Fault Refusal :=
  runQuiet (awake fun s => hemIssue s core (HemInstr.sata a)) s

/-- ADD (R246). The ADD instruction adds two data registers with saturation. -/
def execAdd (core : Fin 16) (dd : BitVec 3) (ds : BitVec 3) (dt : BitVec 3) (s : State) : Host.Outcome State Fault Refusal :=
  runQuiet (awake fun s => hemIssue s core (HemInstr.add dd ds dt)) s

/-- SUB (R246). The SUB instruction subtracts two data registers with saturation. -/
def execSub (core : Fin 16) (dd : BitVec 3) (ds : BitVec 3) (dt : BitVec 3) (s : State) : Host.Outcome State Fault Refusal :=
  runQuiet (awake fun s => hemIssue s core (HemInstr.sub dd ds dt)) s

/-- ADDI (R246). The ADDI instruction adds a signed immediate to a data register with saturation. -/
def execAddi (core : Fin 16) (dd : BitVec 3) (imm : BitVec 16) (s : State) : Host.Outcome State Fault Refusal :=
  runQuiet (awake fun s => hemIssue s core (HemInstr.addi dd imm)) s

/-- AND (R246). The AND instruction forms the bitwise and of two data registers. -/
def execAnd (core : Fin 16) (dd : BitVec 3) (ds : BitVec 3) (dt : BitVec 3) (s : State) : Host.Outcome State Fault Refusal :=
  runQuiet (awake fun s => hemIssue s core (HemInstr.and dd ds dt)) s

/-- OR (R246). The OR instruction forms the bitwise or of two data registers. -/
def execOr (core : Fin 16) (dd : BitVec 3) (ds : BitVec 3) (dt : BitVec 3) (s : State) : Host.Outcome State Fault Refusal :=
  runQuiet (awake fun s => hemIssue s core (HemInstr.or dd ds dt)) s

/-- SHL (R246). The SHL instruction shifts a data register left with saturation, or right arithmetically. -/
def execShl (core : Fin 16) (dd : BitVec 3) (ds : BitVec 3) (sh : BitVec 5) (s : State) : Host.Outcome State Fault Refusal :=
  runQuiet (awake fun s => hemIssue s core (HemInstr.shl dd ds sh)) s

/-- CMP (R246). The CMP instruction sets n and z from the exact difference of two data registers. -/
def execCmp (core : Fin 16) (ds : BitVec 3) (dt : BitVec 3) (s : State) : Host.Outcome State Fault Refusal :=
  runQuiet (awake fun s => hemIssue s core (HemInstr.cmp ds dt)) s

/-- B (R255). The B instruction branches on a condition after its delay slot. -/
def execB (core : Fin 16) (cond : BitVec 4) (addr : BitVec 12) (s : State) : Host.Outcome State Fault Refusal :=
  runQuiet (awake fun s => hemIssue s core (HemInstr.b cond addr)) s

/-- CALL (R254). The CALL instruction pushes a return address and branches after its delay slot, aborting on a full stack. -/
def execCall (core : Fin 16) (addr : BitVec 12) (s : State) : Host.Outcome State Fault Refusal :=
  runQuiet (awake fun s => hemIssue s core (HemInstr.call addr)) s

/-- RET (R254). The RET instruction pops a return address and branches after its delay slot, aborting on an empty stack. -/
def execRet (core : Fin 16) (s : State) : Host.Outcome State Fault Refusal :=
  runQuiet (awake fun s => hemIssue s core (HemInstr.ret)) s

/-- REP (R256). The REP instruction issues the next instruction n + 1 times without interruption. -/
def execRep (core : Fin 16) (n : BitVec 8) (s : State) : Host.Outcome State Fault Refusal :=
  runQuiet (awake fun s => hemIssue s core (HemInstr.rep n)) s

/-- RDO_D (R254). The RDO instruction with x 0 reads bits 15:0 of an operand into a data register. -/
def execRdoD (core : Fin 16) (dd : BitVec 3) (k : BitVec 2) (s : State) : Host.Outcome State Fault Refusal :=
  runQuiet (awake fun s => hemIssue s core (HemInstr.rdoD dd k)) s

/-- RDO_A (R254). The RDO instruction with x 1 reads a sign-extended operand into an accumulator. -/
def execRdoA (core : Fin 16) (a : BitVec 1) (k : BitVec 2) (s : State) : Host.Outcome State Fault Refusal :=
  runQuiet (awake fun s => hemIssue s core (HemInstr.rdoA a k)) s

/-- POST_D (R254). The POST instruction with x 0 posts a data register as a token to a destination of the task. -/
def execPostD (core : Fin 16) (ds : BitVec 3) (j : BitVec 2) (s : State) : Host.Outcome State Fault Refusal :=
  runQuiet (awake fun s => hemIssue s core (HemInstr.postD ds j)) s

/-- POST_A (R254). The POST instruction with x 1 posts the store-word of an accumulator as a token to a destination of the task.
-/
def execPostA (core : Fin 16) (a : BitVec 1) (j : BitVec 2) (s : State) : Host.Outcome State Fault Refusal :=
  runQuiet (awake fun s => hemIssue s core (HemInstr.postA a j)) s

/-- END (R260). The END instruction ends the task and switches the core to its other bank. -/
def execEnd (core : Fin 16) (s : State) : Host.Outcome State Fault Refusal :=
  runQuiet (awake fun s => hemIssue s core (HemInstr.end_)) s

/-- MFS (R254). The MFS instruction copies st into a data register and clears sat and ovf. -/
def execMfs (core : Fin 16) (dd : BitVec 3) (s : State) : Host.Outcome State Fault Refusal :=
  runQuiet (awake fun s => hemIssue s core (HemInstr.mfs dd)) s

/-- TASK_BUDGET_EXPIRY (R262). A task whose cycle count reaches its core budget is aborted with cause budget. -/
def execTaskBudgetExpiry (core : Fin 16) (s : State) : Host.Outcome State Fault Refusal :=
  runQuiet (awake fun s => hemBudget s core) s

/-- POST_BUFFER_DRAIN (R254). A token leaves a core's post buffer for the token network, releasing a core stalled on a full
buffer. -/
def execPostBufferDrain (core : Fin 16) (s : State) : Host.Outcome State Fault Refusal :=
  runQuiet (awake fun s => postDrain s core) s

/-- HEM_LOAD (R267). A HEM commit with op load copies a checked image into the program and data memories of every named offline
core. -/
def execHemLoad (port : Port) (s : State) : Host.Outcome State Fault Refusal :=
  runQuiet (fun s => hemCommit s port 0) s

/-- HEM_PATCH (R268). A HEM commit with op patch fetches the patch bytes into the patch buffer. -/
def execHemPatch (port : Port) (s : State) : Host.Outcome State Fault Refusal :=
  runQuiet (fun s => hemCommit s port 1) s

/-- PATCH_APPLY (R268). From the next latch instant dispatch to the named cores is held, the running tasks end, the bytes are
written and dispatch is released. -/
def execPatchApply (s : State) : Host.Outcome State Fault Refusal :=
  runQuiet (awake fun s => Machine.patchApply s) s

/-- CORE_CTRL (R267). A write of online in HEM_COREc_CTRL puts a loaded core online, or stops further dispatch to it. -/
def execCoreCtrl (port : Port) (core : Fin 16) (v : Word) (s : State) : Host.Outcome State Fault Refusal :=
  runQuiet (fun s => hostWrite s port (Reg.HEM_CORE_CTRL core.val) v) s

/-- CORE_OFFLINE_DONE (R267). The task running on a core taken offline ends, and the core reads offline. -/
def execCoreOfflineDone (core : Fin 16) (s : State) : Host.Outcome State Fault Refusal :=
  runQuiet (awake fun s => coreOffline s core) s

/-- ILLEGAL_INSTRUCTION (R253). A Hem core fetches a word with a reserved opcode, a reserved condition or a non-zero unused
field and aborts the task with cause illegal instruction before any effect. -/
def execIllegalInstruction (core : Fin 16) (s : State) : Host.Outcome State Fault Refusal :=
  runQuiet (awake fun s => hemIllegal s core) s

/-- HEM_IDLE_SCRUB (R242). An idle Hem core scrubs one word of its memories per idle cycle, correcting and counting single-bit
errors and raising hem-ecc-corrected. -/
def execHemIdleScrub (core : Fin 16) (prog : Bool) (addr : BitVec 13) (err : Fin 3) (s : State) : Host.Outcome State Fault Refusal :=
  runQuiet (awake fun s => hemScrub s core prog addr.toNat err.val) s

end Sys2Proof.Machine
end

