-- ==== Sys2Proof/Machine/CmdHost.lean ====
section
/-! DEFINITION. The commands of the host interface and the command protocol (16_host_interface.md): one meaning each, over the shared operations. -/

namespace Sys2Proof.Machine

/-- UPD_MANIFEST (R500). The UPD_MANIFEST opcode checks a manifest and starts a staging run. -/
def execUpdManifest (r : Req) (s : State) : Host.Outcome State Fault Refusal :=
  run (fun s => takeRequest s 0x0702 r) s

/-- UPD_BLOCK (R500). The UPD_BLOCK opcode writes a hashed block of a staging run. -/
def execUpdBlock (r : Req) (s : State) : Host.Outcome State Fault Refusal :=
  run (fun s => takeRequest s 0x0703 r) s

/-- UPD_STATUS (R526). The UPD_STATUS opcode returns the staging status and staged hash. -/
def execUpdStatus (r : Req) (s : State) : Host.Outcome State Fault Refusal :=
  run (fun s => takeRequest s 0x0704 r) s

/-- UPD_ACTIVATE (R530). The UPD_ACTIVATE opcode writes the activation registers and commits. -/
def execUpdActivate (r : Req) (s : State) : Host.Outcome State Fault Refusal :=
  run (fun s => takeRequest s 0x0705 r) s

/-- PROT_REQUEST (R507). The PROT_REQUEST opcode checks a party A request for a protection change. -/
def execProtRequest (r : Req) (s : State) : Host.Outcome State Fault Refusal :=
  run (fun s => takeRequest s 0x0707 r) s

/-- PROT_CONFIRM (R507). The PROT_CONFIRM opcode confirms a pending request with a party B signature. -/
def execProtConfirm (r : Req) (s : State) : Host.Outcome State Fault Refusal :=
  run (fun s => takeRequest s 0x0708 r) s

/-- PROT_OBJECT (R508). The PROT_OBJECT opcode supplies the new debug policy or key area. -/
def execProtObject (r : Req) (s : State) : Host.Outcome State Fault Refusal :=
  run (fun s => takeRequest s 0x0709 r) s

/-- FLOW_OPEN (R518). The FLOW_OPEN opcode takes a host flow and sets its expected sequence number. -/
def execFlowOpen (r : Req) (s : State) : Host.Outcome State Fault Refusal :=
  run (fun s => takeRequest s 0x0001 r) s

/-- FLOW_CLOSE (R518). The FLOW_CLOSE opcode frees the flow. -/
def execFlowClose (r : Req) (s : State) : Host.Outcome State Fault Refusal :=
  run (fun s => takeRequest s 0x0002 r) s

/-- ECHO (R526). The ECHO opcode returns its payload. -/
def execEcho (r : Req) (s : State) : Host.Outcome State Fault Refusal :=
  run (fun s => takeRequest s 0x0003 r) s

/-- REG_READ (R527). The REG_READ opcode reads registers, clearing RC ones. -/
def execRegRead (r : Req) (s : State) : Host.Outcome State Fault Refusal :=
  run (fun s => takeRequest s 0x0101 r) s

/-- REG_WRITE (R527). The REG_WRITE opcode writes registers in ascending order and stops at the first refusal. -/
def execRegWrite (r : Req) (s : State) : Host.Outcome State Fault Refusal :=
  run (fun s => takeRequest s 0x0102 r) s

/-- BOLT_READ (R526). The BOLT_READ opcode reads Bolt bytes. -/
def execBoltRead (r : Req) (s : State) : Host.Outcome State Fault Refusal :=
  run (fun s => takeRequest s 0x0103 r) s

/-- BOLT_WRITE (R527). The BOLT_WRITE opcode writes Bolt bytes, journaled where required. -/
def execBoltWrite (r : Req) (s : State) : Host.Outcome State Fault Refusal :=
  run (fun s => takeRequest s 0x0104 r) s

/-- ARCH_READ (R526). The ARCH_READ opcode reads archive memory. -/
def execArchRead (r : Req) (s : State) : Host.Outcome State Fault Refusal :=
  run (fun s => takeRequest s 0x0105 r) s

/-- AXIS_PARAM_SET (R526). The AXIS_PARAM_SET opcode writes and commits the profile parameters of an axis. -/
def execAxisParamSet (r : Req) (s : State) : Host.Outcome State Fault Refusal :=
  run (fun s => takeRequest s 0x0201 r) s

/-- AXIS_PARAM_GET (R526). The AXIS_PARAM_GET opcode returns the active parameter set. -/
def execAxisParamGet (r : Req) (s : State) : Host.Outcome State Fault Refusal :=
  run (fun s => takeRequest s 0x0202 r) s

/-- AXIS_COEF_SET (R526). The AXIS_COEF_SET opcode writes and commits coefficient words of an axis. -/
def execAxisCoefSet (r : Req) (s : State) : Host.Outcome State Fault Refusal :=
  run (fun s => takeRequest s 0x0203 r) s

/-- AXIS_COEF_GET (R526). The AXIS_COEF_GET opcode returns the active coefficient record. -/
def execAxisCoefGet (r : Req) (s : State) : Host.Outcome State Fault Refusal :=
  run (fun s => takeRequest s 0x0204 r) s

/-- GROUP_QUEUE_SET (R526). The GROUP_QUEUE_SET opcode sets a group's queue base and length. -/
def execGroupQueueSet (r : Req) (s : State) : Host.Outcome State Fault Refusal :=
  run (fun s => takeRequest s 0x0205 r) s

/-- GUARD_SET (R526). The GUARD_SET opcode writes a guard pair. -/
def execGuardSet (r : Req) (s : State) : Host.Outcome State Fault Refusal :=
  run (fun s => takeRequest s 0x0206 r) s

/-- AXIS_CMD (R526). The AXIS_CMD opcode issues a profile command. -/
def execAxisCmd (r : Req) (s : State) : Host.Outcome State Fault Refusal :=
  run (fun s => takeRequest s 0x0301 r) s

/-- SEG_APPEND (R528). The SEG_APPEND opcode appends segment records with WRAP records and advances WR_PTR, optionally starting
the stream. -/
def execSegAppend (r : Req) (s : State) : Host.Outcome State Fault Refusal :=
  run (fun s => takeRequest s 0x0302 r) s

/-- GROUP_RATE (R526). The GROUP_RATE opcode sets a group's target rate and slew. -/
def execGroupRate (r : Req) (s : State) : Host.Outcome State Fault Refusal :=
  run (fun s => takeRequest s 0x0303 r) s

/-- SEG_STATUS (R526). The SEG_STATUS opcode returns the state of a group's stream. -/
def execSegStatus (r : Req) (s : State) : Host.Outcome State Fault Refusal :=
  run (fun s => takeRequest s 0x0304 r) s

/-- CMP_APPEND (R528). The CMP_APPEND opcode appends compare-table entries. -/
def execCmpAppend (r : Req) (s : State) : Host.Outcome State Fault Refusal :=
  run (fun s => takeRequest s 0x0401 r) s

/-- CMP_ARM (R526). The CMP_ARM opcode arms or disarms a compare channel. -/
def execCmpArm (r : Req) (s : State) : Host.Outcome State Fault Refusal :=
  run (fun s => takeRequest s 0x0402 r) s

/-- CMP_STATUS (R526). The CMP_STATUS opcode returns a compare channel's status. -/
def execCmpStatus (r : Req) (s : State) : Host.Outcome State Fault Refusal :=
  run (fun s => takeRequest s 0x0403 r) s

/-- WPARAM_READ (R529). The WPARAM_READ opcode reads a worker parameter over the service lane. -/
def execWparamRead (r : Req) (s : State) : Host.Outcome State Fault Refusal :=
  run (fun s => takeRequest s 0x0501 r) s

/-- WPARAM_WRITE (R529). The WPARAM_WRITE opcode writes a worker parameter over the service lane. -/
def execWparamWrite (r : Req) (s : State) : Host.Outcome State Fault Refusal :=
  run (fun s => takeRequest s 0x0502 r) s

/-- WMBX_SEND (R529). The WMBX_SEND opcode sends a message to a worker's mailbox. -/
def execWmbxSend (r : Req) (s : State) : Host.Outcome State Fault Refusal :=
  run (fun s => takeRequest s 0x0503 r) s

/-- WMBX_FETCH (R529). The WMBX_FETCH opcode returns the oldest queued worker message. -/
def execWmbxFetch (r : Req) (s : State) : Host.Outcome State Fault Refusal :=
  run (fun s => takeRequest s 0x0504 r) s

/-- WIDENTIFY (R529). The WIDENTIFY opcode reads a worker's identity over the service lane. -/
def execWidentify (r : Req) (s : State) : Host.Outcome State Fault Refusal :=
  run (fun s => takeRequest s 0x0505 r) s

/-- SPOOL_CTRL (R526). The SPOOL_CTRL opcode writes spool control bits. -/
def execSpoolCtrl (r : Req) (s : State) : Host.Outcome State Fault Refusal :=
  run (fun s => takeRequest s 0x0601 r) s

/-- SPOOL_STATE (R526). The SPOOL_STATE opcode returns a spool's state and counts without clearing. -/
def execSpoolState (r : Req) (s : State) : Host.Outcome State Fault Refusal :=
  run (fun s => takeRequest s 0x0602 r) s

/-- SPOOL_READ (R526). The SPOOL_READ opcode reads recorded bytes. -/
def execSpoolRead (r : Req) (s : State) : Host.Outcome State Fault Refusal :=
  run (fun s => takeRequest s 0x0603 r) s

/-- MAINT_REQ (R526). The MAINT_REQ opcode requests or releases a maintenance activity. -/
def execMaintReq (r : Req) (s : State) : Host.Outcome State Fault Refusal :=
  run (fun s => takeRequest s 0x0701 r) s

/-- NONCE_GET (R526). The NONCE_GET opcode returns a new nonce. -/
def execNonceGet (r : Req) (s : State) : Host.Outcome State Fault Refusal :=
  run (fun s => takeRequest s 0x0706 r) s

/-- STATUS_GET (R526). The STATUS_GET opcode returns the head's summary status. -/
def execStatusGet (r : Req) (s : State) : Host.Outcome State Fault Refusal :=
  run (fun s => takeRequest s 0x0801 r) s

/-- AXIS_STATUS (R526). The AXIS_STATUS opcode returns the status of a run of axes. -/
def execAxisStatus (r : Req) (s : State) : Host.Outcome State Fault Refusal :=
  run (fun s => takeRequest s 0x0802 r) s

/-- EVT_SUBSCRIBE (R531). The EVT_SUBSCRIBE opcode sets an event subscription slot. -/
def execEvtSubscribe (r : Req) (s : State) : Host.Outcome State Fault Refusal :=
  run (fun s => takeRequest s 0x0803 r) s

/-- HIST_READ (R526). The HIST_READ opcode returns a block's history queue. -/
def execHistRead (r : Req) (s : State) : Host.Outcome State Fault Refusal :=
  run (fun s => takeRequest s 0x0805 r) s

/-- TIMED_FRAME (R148). The TIMED_FRAME opcode queues a frame in a launch-at-time queue. -/
def execTimedFrame (r : Req) (s : State) : Host.Outcome State Fault Refusal :=
  run (fun s => takeRequest s 0x0901 r) s

/-- REQUEST_COMPLETE (R521). A request waiting for its journal stamping or its block result completes and its response is
written. -/
def execRequestComplete (id : Nat) (s : State) : Host.Outcome State Fault Refusal :=
  run (awake fun s => Machine.requestComplete s id) s

/-- SQ_DOORBELL (R534). A write to HOST_SQr_TAIL announces new submission entries. -/
def execSqDoorbell (r : Fin 8) (v : Word) (s : State) : Host.Outcome State Fault Refusal :=
  runQuiet (fun s => hostWrite s .pcie (Reg.HOST_SQ_TAIL r.val) v) s

/-- SQ_ENTRY_FETCH (R534). The head fetches a submission entry and its request, or completes it with BAD_LENGTH or stops the
ring. -/
def execSqEntryFetch (r : Fin 8) (entry : List Byte) (request : List Byte) (ok : Bool) (s : State) : Host.Outcome State Fault Refusal :=
  run (awake fun s => Machine.sqEntryFetch s r entry request ok) s

/-- CQ_DOORBELL (R536). A write to HOST_CQr_HEAD frees completion entries and lets a stalled ring pair continue. -/
def execCqDoorbell (r : Fin 8) (v : Word) (s : State) : Host.Outcome State Fault Refusal :=
  run (fun s => pump (hostWrite s .pcie (Reg.HOST_CQ_HEAD r.val) v)) s

/-- EVQ_DOORBELL (R536). A write to HOST_EVQ_HEAD frees event-ring entries. -/
def execEvqDoorbell (v : Word) (s : State) : Host.Outcome State Fault Refusal :=
  runQuiet (fun s => hostWrite s .pcie Reg.HOST_EVQ_HEAD v) s

/-- RING_PAIR_CTRL (R544). A write to HOST_RINGr_CTRL enables a ring pair, or stops it and frees its flows. -/
def execRingPairCtrl (r : Fin 8) (v : Word) (s : State) : Host.Outcome State Fault Refusal :=
  runQuiet (fun s => hostWrite s .pcie (Reg.HOST_RING_CTRL r.val) v) s

/-- MSIX_COALESCE_TIMEOUT (R537). coal_us after the first pending entry, the MSI-X vector fires. -/
def execMsixCoalesceTimeout (vec : Fin 10) (s : State) : Host.Outcome State Fault Refusal :=
  runQuiet (awake fun s => coalesceTimeout s vec) s

/-- PCIE_LINK_RESET (R538). A Function Level Reset, link-down or move to D3hot frees flows, disables rings and releases lock
0x01. -/
def execPcieLinkReset (s : State) : Host.Outcome State Fault Refusal :=
  runQuiet (awake fun s => Machine.pcieLinkReset s) s

/-- UDP_COMMAND (R541). A UDP datagram on the command port carries one command-protocol message to its flow. -/
def execUdpCommand (ip : Word) (port : Half) (eth : Fin 2) (bytes : List Byte) (s : State) : Host.Outcome State Fault Refusal :=
  run (awake fun s => Machine.udpCommand s ip port eth bytes) s

/-- FLOW_TIMEOUT (R518). A UDP flow without a request for flow_timeout is freed and raises flow-expired. -/
def execFlowTimeout (flow : Half) (s : State) : Host.Outcome State Fault Refusal :=
  runQuiet (awake fun s => Machine.flowTimeout s flow.toNat) s

/-- SWITCH_FRAME_FORWARD (R539). The host switch stores and forwards a frame between ETH0, ETH1 and the internal port. -/
def execSwitchFrameForward (ingress : Fin 3) (frame : List Byte) (s : State) : Host.Outcome State Fault Refusal :=
  runQuiet (awake fun s => switchForward s ingress frame) s

/-- ADDRESS_AGEOUT (R539). A learned source address ages out after 300 s. -/
def execAddressAgeout (addr : BitVec 48) (s : State) : Host.Outcome State Fault Refusal :=
  runQuiet (awake fun s => Machine.addressAgeout s addr.toNat) s

/-- ARP_REQUEST (R540). The internal port answers ARP. -/
def execArpRequest (eth : Fin 2) (frame : List Byte) (s : State) : Host.Outcome State Fault Refusal :=
  runQuiet (awake fun s => Machine.arpRequest s eth frame) s

/-- ICMP_ECHO (R540). The internal port answers ICMP echo. -/
def execIcmpEcho (eth : Fin 2) (frame : List Byte) (s : State) : Host.Outcome State Fault Refusal :=
  runQuiet (awake fun s => Machine.icmpEcho s eth frame) s

/-- PCIE_BAR_ACCESS (R533). A PCIe memory TLP to BAR2 or BAR4, or a BAR0 TLP that is not whole DWORDs, is served or answered
with Completer Abort and logged in the HOST fault status. -/
def execPcieBarAccess (tlp : BarTlp) (s : State) : Host.Outcome State Fault Refusal :=
  run (fun s => barAccess s tlp) s

/-- HOST_LINK_CHANGE (R539). The PCIe link trains up, or an Ethernet host port gains or loses its link, and HOST_STATUS is
updated. -/
def execHostLinkChange (link : LinkState) (s : State) : Host.Outcome State Fault Refusal :=
  runQuiet (awake fun s => linkChange s link) s

end Sys2Proof.Machine
end

