-- ==== Sys2Proof/Machine/CmdLoop.lean ====
section
/-! DEFINITION. The commands of the loop engine (06_loop_engine.md): one meaning each, over the shared operations. -/

namespace Sys2Proof.Machine

/-- LOOP_SAMPLE (R206). A lane takes the next queued axis and runs its 288-cycle sample of the cascade or mode subset and writes
the output record. A write that lands between two bursts is seen by the later ones alone (R199, R200, R225): each word is read by one
burst, so the sample sees the words that landed before their own burst. (DESIGN CHOICE, log entry 11) -/
def execLoopSample (sample : LaneSample) (s : State) : Host.Outcome State Fault Refusal :=
  let land (s : State) (w : CoefWrite) : State := hostWrite s w.port (Reg.LOOP_AX_COEF w.axis.toNat w.word) w.value
  let seen (w : CoefWrite) : Bool := w.before.val ≤ w.word.val / 32
  runQuiet (awake fun s =>
    (sample.writes.filter fun w => !seen w).foldl land (Machine.loopSample ((sample.writes.filter seen).foldl land s) sample.lane)) s

/-- LOOP_OUTPUT_STAGE (R211). The arrival of a Hem result token completes the axis's output stage with c_bus, clamp and Q15
conversion and writes the record. -/
def execLoopOutputStage (axis : Byte) (s : State) : Host.Outcome State Fault Refusal :=
  runQuiet (awake fun s => hemStage s axis.toNat) s

/-- COEF_COMMIT (R226). A LOOP_BASTE_COMMIT commit queues the lane's baste record for the named axis. -/
def execCoefCommit (port : Port) (axis : Byte) (clear : Bool) (s : State) : Host.Outcome State Fault Refusal :=
  runQuiet (fun s => hostWrite s port Reg.LOOP_BASTE_COMMIT (word (axis.toNat + flag clear * 512))) s

/-- COEF_LOAD (R226). A LOOP_BASTE_COMMIT load copies the axis's active record into its lane's baste record at once. -/
def execCoefLoad (port : Port) (axis : Byte) (s : State) : Host.Outcome State Fault Refusal :=
  runQuiet (fun s => hostWrite s port Reg.LOOP_BASTE_COMMIT (word (axis.toNat + 256))) s

/-- COEF_COMMIT_APPLY (R226). At the axis's next sample boundary the baste record is checked and copied into its active record,
with clear_state if set. -/
def execCoefCommitApply (lane : Fin 16) (s : State) : Host.Outcome State Fault Refusal :=
  runQuiet (awake fun s => Machine.coefCommitApply s lane) s

/-- BANK_SWAP (R224). A write to LOOP_BANK_SWAP requests a swap of the axis's active coefficient bank at its next sample
boundary. -/
def execBankSwap (port : Port) (axis : Byte) (copyBack : Bool) (s : State) : Host.Outcome State Fault Refusal :=
  runQuiet (fun s => hostWrite s port Reg.LOOP_BANK_SWAP (word (axis.toNat + flag copyBack * 256))) s

/-- BANK_SWAP_APPLY (R224). At the sample boundary the active bank is swapped after a validity check. -/
def execBankSwapApply (lane : Fin 16) (s : State) : Host.Outcome State Fault Refusal :=
  runQuiet (awake fun s => Machine.bankSwapApply s lane) s

/-- COPY_BACK_DONE (R224). With copy_back set, the copy of the new active record into the inactive slot completes and the swap
leaves pending. -/
def execCopyBackDone (lane : Fin 16) (s : State) : Host.Outcome State Fault Refusal :=
  runQuiet (awake fun s => Machine.copyBackDone s lane) s

/-- INJECTOR_START (R230). The LOOP_INJi_CTRL start command checks the injector and arms it to start at L(m). -/
def execInjectorStart (port : Port) (inj : Fin 4) (s : State) : Host.Outcome State Fault Refusal :=
  runQuiet (fun s => hostWrite s port (Reg.LOOP_INJ_CTRL inj.val) 1) s

/-- INJECTOR_STOP (R233). The LOOP_INJi_CTRL stop command aborts the running injector and raises inject-aborted. -/
def execInjectorStop (port : Port) (inj : Fin 4) (s : State) : Host.Outcome State Fault Refusal :=
  runQuiet (fun s => hostWrite s port (Reg.LOOP_INJ_CTRL inj.val) 2) s

/-- INJECTOR_END (R231). An injector ends after len cycles or entries. -/
def execInjectorEnd (inj : Fin 4) (s : State) : Host.Outcome State Fault Refusal :=
  runQuiet (awake fun s => injEnd s inj) s

end Sys2Proof.Machine
end

