-- ==== Sys2Proof/Machine/CmdProf.lean ====
section
/-! DEFINITION. The commands of the profile engine (05_profile_engine.md) and the homing sequences: one meaning each, over the shared operations. -/

namespace Sys2Proof.Machine

/-- MOVE_ABS (R166). The MOVE_ABS command plans a jerk-limited move to an absolute target, with a braking stop where the target
lies behind. -/
def execMoveAbs (port : Port) (axis : Byte) (target : Long) (s : State) : Host.Outcome State Fault Refusal :=
  runQuiet (motionCmd port 1 axis [lowWord target, highWord target]) s

/-- MOVE_REL (R166). The MOVE_REL command plans a move by a signed distance from the target in force, or from the set-point in
HOLD. -/
def execMoveRel (port : Port) (axis : Byte) (distance : Long) (s : State) : Host.Outcome State Fault Refusal :=
  runQuiet (motionCmd port 2 axis [lowWord distance, highWord distance]) s

/-- JOG (R170). The JOG command ramps the axis to a commanded velocity and holds it. -/
def execJog (port : Port) (axis : Byte) (velocity : Word) (s : State) : Host.Outcome State Fault Refusal :=
  runQuiet (motionCmd port 3 axis [velocity]) s

/-- STOP (R180). The STOP command ramps the axis to rest under dec and jerk and enters HOLD. -/
def execStop (port : Port) (axis : Byte) (s : State) : Host.Outcome State Fault Refusal :=
  runQuiet (motionCmd port 4 axis []) s

/-- QUICK_STOP (R180). The QUICK_STOP command ramps the axis to rest under qs_dec and qs_jerk, overriding other motion. -/
def execQuickStop (port : Port) (axis : Byte) (s : State) : Host.Outcome State Fault Refusal :=
  runQuiet (motionCmd port 5 axis []) s

/-- FOLLOW (R171). The FOLLOW command gears an axis in HOLD to a master axis or local encoder channel. -/
def execFollow (port : Port) (axis : Byte) (s : State) : Host.Outcome State Fault Refusal :=
  runQuiet (motionCmd port 6 axis []) s

/-- ENABLE (R158). The ENABLE command sets enable 1 from the next output record and enters HOLD at the measured position. -/
def execEnable (port : Port) (axis : Byte) (s : State) : Host.Outcome State Fault Refusal :=
  runQuiet (motionCmd port 7 axis []) s

/-- DISABLE (R158). The DISABLE command discards any plan and sends enable 0 from the next output record. -/
def execDisable (port : Port) (axis : Byte) (s : State) : Host.Outcome State Fault Refusal :=
  runQuiet (motionCmd port 8 axis []) s

/-- SET_REF (R157). The SET_REF command shifts the set-point and the measured position and marks the axis referenced. -/
def execSetRef (port : Port) (axis : Byte) (position : Long) (s : State) : Host.Outcome State Fault Refusal :=
  runQuiet (motionCmd port 9 axis [lowWord position, highWord position]) s

/-- CLEAR_GUARD (R189). The CLEAR_GUARD command clears a tripped guard pair unless its gap is below clearance. -/
def execClearGuard (port : Port) (pair : Byte) (s : State) : Host.Outcome State Fault Refusal :=
  runQuiet (motionCmd port 0x0A pair []) s

/-- STREAM_START (R178). The STREAM_START command starts a group's segment stream from the origin state with σ = 0. -/
def execStreamStart (port : Port) (group : Byte) (s : State) : Host.Outcome State Fault Refusal :=
  runQuiet (motionCmd port 0x10 group []) s

/-- GROUP_STOP (R178). The GROUP_STOP command sets the target rate to 0 and ends the stream once ρ reaches 0. -/
def execGroupStop (port : Port) (group : Byte) (s : State) : Host.Outcome State Fault Refusal :=
  runQuiet (motionCmd port 0x11 group []) s

/-- GROUP_QSTOP (R181). The GROUP_QSTOP command stops a streaming group on its path with ρ falling linearly over t_qs. -/
def execGroupQstop (port : Port) (group : Byte) (s : State) : Host.Outcome State Fault Refusal :=
  runQuiet (motionCmd port 0x12 group []) s

/-- FLUSH (R178). The FLUSH command sets RD_PTR to WR_PTR and takes the group to IDLE. -/
def execFlush (port : Port) (group : Byte) (s : State) : Host.Outcome State Fault Refusal :=
  runQuiet (motionCmd port 0x13 group []) s

/-- PARAM_COMMIT (R164). A PROF_BASTE_COMMIT commit checks the staging record and applies it to the named axis at the next latch
instant, replanning under R168 or R169. -/
def execParamCommit (port : Port) (axis : Byte) (now : Bool) (s : State) : Host.Outcome State Fault Refusal :=
  runQuiet (fun s => hostWrite s port Reg.PROF_BASTE_COMMIT (commitWord axis now)) s

/-- PARAM_LOAD (R164). A PROF_BASTE_COMMIT load copies the active set of an axis into the staging record at once. -/
def execParamLoad (port : Port) (axis : Byte) (s : State) : Host.Outcome State Fault Refusal :=
  runQuiet (fun s => hostWrite s port Reg.PROF_BASTE_COMMIT (loadWord axis)) s

/-- PHASE_RESTORE_RESPONSE (R193). The worker's response to PHASE_RESTORE confirms, realigns, or faults the phase and may mark
the axis unreferenced. -/
def execPhaseRestoreResponse (axis : Byte) (result : Byte) (data : List Byte) (s : State) : Host.Outcome State Fault Refusal :=
  runQuiet (awake fun s => phaseResponse s axis.toNat result.toNat data) s

/-- HOMING_STEP_TIMEOUT (R495). A homing-sequence step whose wait has not ended within its timeout ends the sequence with a
quick stop. -/
def execHomingStepTimeout (axis : Byte) (s : State) : Host.Outcome State Fault Refusal :=
  runQuiet (awake fun s => homingTimeout s axis.toNat) s

end Sys2Proof.Machine
end

