-- ==== Sys2Proof/Machine/CmdRing.lean ====
section
/-! DEFINITION. The commands of the register access, the cycle, the shuttle and the ring (chapters 00 to 03): one meaning each, over the shared operations. -/

namespace Sys2Proof.Machine

/-- REGISTER_WRITE (R10). A write to a register that has no row of its own stores or acts on the value according to its access
type, and staged copies and refusals apply under R12 and R41. (DEDUCED, log entry 17) -/
def execRegisterWrite (port : Port) (addr : Word) (v : Word) (s : State) : Host.Outcome State Fault Refusal :=
  run (fun s => pump (hostWrite s port addr.toNat v)) s

/-- READ_CLEAR (R10). A read of an RC register returns its value and then clears it, with the set-wins rule of R11 and
saturation under R568. -/
def execReadClear (port : Port) (addr : Word) (s : State) : Host.Outcome State Fault Refusal :=
  runQuiet (fun s => portRead s port addr.toNat) s

/-- LATCH_INSTANT (R20). At L(n) every node samples its inputs and applies the outputs of shuttle n-1, and the head applies what
takes effect at that latch instant. -/
def execLatchInstant (s : State) : Host.Outcome State Fault Refusal :=
  run (awake fun s => Machine.latchInstant s) s

/-- SYS_COMMIT (R45). A write of commit to SYS_BASTE_COMMIT checks the staged cycle length and, if it is not refused, schedules
it as the operating length from the next latch instant. -/
def execSysCommit (port : Port) (v : Word) (s : State) : Host.Outcome State Fault Refusal :=
  runQuiet (fun s => hostWrite s port Reg.SYS_BASTE_COMMIT v) s

/-- LANE_WAKE (R34). A machine-time comparator wakes the loop lanes and Hem cores 200 ns before the first input record of the
cycle is due. -/
def execLaneWake (s : State) : Host.Outcome State Fault Refusal :=
  runQuiet (awake fun s => Machine.laneWake s) s

/-- PROFILE_LANE_WAKE (R34). A machine-time comparator wakes the profile lanes at L(n) - 200 ns. -/
def execProfileLaneWake (s : State) : Host.Outcome State Fault Refusal :=
  runQuiet (awake fun s => Machine.profileLaneWake s) s

/-- REGION_WAKE_DONE (R37). The completion of the region wake of PD_MOT and PD_HEM lets the pending first enable take effect at
the next latch instant. -/
def execRegionWakeDone (s : State) : Host.Outcome State Fault Refusal :=
  runQuiet (awake fun s => Machine.regionWakeDone s) s

/-- SHUTTLE_LAUNCH (R22). At L(n) + t_lead the head launches shuttle n by launch-at-time, with header, prefilled inbound areas,
outbound records and service-lane slots. -/
def execShuttleLaunch (s : State) : Host.Outcome State Fault Refusal :=
  runQuiet (awake fun s => Machine.shuttleLaunch s) s

/-- SHUTTLE_RETURN (R89). The returning shuttle is split as it streams in: each section is decided, records are handed to the
loop engine, PDUs go to the island, slots are served, and the trailer is checked. -/
def execShuttleReturn (bytes : List Byte) (fcsOk : Bool) (s : State) : Host.Outcome State Fault Refusal :=
  runQuiet (awake fun s => shuttleReturned s bytes fcsOk) s

/-- RETURN_MISSING (R123). When no first block of shuttle n has arrived by its deadline, every section is substituted as
unwritten, counted, and return-missing is raised. -/
def execReturnMissing (s : State) : Host.Outcome State Fault Refusal :=
  run (awake fun s => returnTimeout s) s

/-- SHUTTLE_TURNAROUND (R75). A head at position 127 turns every shuttle around within 32 ns, updates only visit_count and its
error_seen bit, and reads the input records. -/
def execShuttleTurnaround (bytes : List Byte) (fcsOk : Bool) (s : State) : Host.Outcome State Fault Refusal :=
  run (awake fun s => turnaround s bytes fcsOk) s

/-- FRAME_FORWARD (R72). A node forwards a Filnidal Ring frame cut-through, rewrites its FCS, and drops foreign frames. -/
def execFrameForward (bytes : List Byte) (fcsOk : Bool) (s : State) : Host.Outcome State Fault Refusal :=
  runQuiet (awake fun s => heard (forwardFrame s bytes fcsOk)) s

/-- XT_OUT (R82). A write to RING_XT_OUT sets the named cross-trigger bits in the next launched shuttle. -/
def execXtOut (port : Port) (v : Word) (s : State) : Host.Outcome State Fault Refusal :=
  runQuiet (fun s => hostWrite s port Reg.RING_XT_OUT v) s

/-- RING_COMMIT (R91). A write of commit to RING_BASTE_COMMIT checks age_limit and timeout and applies them at the next latch
instant. -/
def execRingCommit (port : Port) (v : Word) (s : State) : Host.Outcome State Fault Refusal :=
  runQuiet (fun s => hostWrite s port Reg.RING_BASTE_COMMIT v) s

/-- SERVICE_REQUEST_START (R80). A new service exchange takes the lowest free slot of the shuttle being built and writes a
REQUEST, then AWAIT in each later shuttle. -/
def execServiceRequestStart (target : Byte) (code : Byte) (index : Half) (data : List Byte) (s : State) : Host.Outcome State Fault Refusal :=
  runQuiet (awake fun s => svcStart s ⟨target.toNat, code.toNat, index.toNat, data.take 54, .firmware⟩) s

/-- SERVICE_TIMEOUT (R80). When the AWAIT count reaches the timeout, the slot becomes IDLE, the timeout is counted and the
failure is reported to the originator. -/
def execServiceTimeout (slot : Fin 16) (s : State) : Host.Outcome State Fault Refusal :=
  runQuiet (awake fun s => svcTimeout s slot) s

/-- LINK_LOCK_GAINED (R93). Block lock gained on the line port takes a head in DOWN to LISTEN and starts its listen timer. -/
def execLinkLockGained (portB : Bool) (s : State) : Host.Outcome State Fault Refusal :=
  runQuiet (awake fun s => linkLock s portB) s

/-- LINK_LOST (R120). Loss of block lock, or 2 µs without a valid block, declares a link lost, and the node takes up break
loopback at the next frame. -/
def execLinkLost (portB : Bool) (s : State) : Host.Outcome State Fault Refusal :=
  runQuiet (awake fun s => linkLoss s portB) s

/-- LISTEN_TIMEOUT (R101). The end of the listen time without a superior claim or a shuttle takes the head to CLAIM.
(DESIGN CHOICE, log entry 12) -/
def execListenTimeout (s : State) : Host.Outcome State Fault Refusal :=
  runQuiet (awake fun s => Machine.listenTimeout s) s

/-- CLAIM_SEND (R102). In CLAIM the head sends a CLAIM frame on entry and every 250 µs. (DESIGN CHOICE, log entry 12) -/
def execClaimSend (s : State) : Host.Outcome State Fault Refusal :=
  runQuiet (awake fun s => Machine.claimSend s) s

/-- CLAIM_HOLD_EXPIRY (R102). 2 ms after its first CLAIM without a superior claim, the head becomes leader and enters INTEGRATE.
(DESIGN CHOICE, log entry 12)
-/
def execClaimHoldExpiry (s : State) : Host.Outcome State Fault Refusal :=
  runQuiet (awake fun s => Machine.claimHoldExpiry s) s

/-- CLAIM (R101). A received CLAIM frame is compared by precedence: a superior one takes the head to FOLLOW with a YIELD, an
inferior one ends a listen, and a hash difference raises topology-hash. -/
def execClaim (bytes : List Byte) (s : State) : Host.Outcome State Fault Refusal :=
  runQuiet (awake fun s => recvClaim (heard s) bytes) s

/-- FOREIGN_SHUTTLE (R103). A SHUTTLE from another head takes a listening head to FOLLOW, or makes a leader withdraw when the
sender is superior. -/
def execForeignShuttle (bytes : List Byte) (s : State) : Host.Outcome State Fault Refusal :=
  runQuiet (awake fun s => recvForeign (heard s) bytes) s

/-- YIELD (R97). A received WITHDRAW YIELD is noted by heads and has no effect on workers: the ring is not silent. -/
def execYield (bytes : List Byte) (s : State) : Host.Outcome State Fault Refusal :=
  runQuiet (awake fun s => recvYield (heard s) bytes) s

/-- RING_STOP (R97). A received WITHDRAW RING_STOP from the leader sends a following head to LISTEN, and makes workers discard
their table and listen. -/
def execRingStop (bytes : List Byte) (s : State) : Host.Outcome State Fault Refusal :=
  runQuiet (awake fun s => recvRingStop (heard s) bytes) s

/-- DEFERRED_WITHDRAW (R103). A leader in RUN that heard a superior head withdraws at the first cycle in which no axis is
enabled. -/
def execDeferredWithdraw (s : State) : Host.Outcome State Fault Refusal :=
  runQuiet (awake fun s => Machine.deferredWithdraw s) s

/-- FOLLOW_SILENCE_TIMEOUT (R93). A head in FOLLOW whose ring has been silent for its listen time goes to LISTEN.
(DESIGN CHOICE, log entry 12) -/
def execFollowSilenceTimeout (s : State) : Host.Outcome State Fault Refusal :=
  runQuiet (awake fun s => Machine.followSilence s) s

/-- ENUMERATE (R98). The returned ENUMERATE frame gives the entries of every node, which are compared across the four cycles and
with the ring topology record. -/
def execEnumerate (bytes : List Byte) (s : State) : Host.Outcome State Fault Refusal :=
  runQuiet (awake fun s => recvEnumerate s bytes) s

/-- DELAY (R110). The returned DELAY frame gives Q_p, tf and tr of every node, from which link delays, D_k and E_k are computed
and the spread is checked. -/
def execDelay (bytes : List Byte) (q0 : Word) (s : State) : Host.Outcome State Fault Refusal :=
  runQuiet (awake fun s => recvDelay s bytes q0.toNat) s

/-- INTEGRATION_TIMEOUT (R107). After 4,096 integration cycles without completion, the head raises integration-timeout, counts a
failed attempt and restarts at i = 0. -/
def execIntegrationTimeout (s : State) : Host.Outcome State Fault Refusal :=
  runQuiet (awake fun s => integTimeout s) s

/-- TOPOLOGY_RECHECK (R105). While a topology mismatch stands, ENUMERATE is repeated every 1,024 integration cycles. -/
def execTopologyRecheck (s : State) : Host.Outcome State Fault Refusal :=
  runQuiet (awake fun s => topoRecheck s) s

/-- HEAL (R124). The RING_CTRL heal command sends REJOIN to the looping node, or is refused. -/
def execHeal (port : Port) (s : State) : Host.Outcome State Fault Refusal :=
  runQuiet (fun s => hostWrite s port Reg.RING_CTRL 1) s

/-- AUTO_HEAL (R124). With auto_heal set and no break_marker for 100 ms, the head sends REJOIN by itself. -/
def execAutoHeal (s : State) : Host.Outcome State Fault Refusal :=
  runQuiet (awake fun s => Machine.autoHeal s) s

/-- DELAY_RECAL (R113). The RING_CTRL delay_recal command requests the maintenance token and starts a delay recalibration. -/
def execDelayRecal (port : Port) (s : State) : Host.Outcome State Fault Refusal :=
  runQuiet (fun s => hostWrite s port Reg.RING_CTRL 2) s

/-- RECAL_TIMEOUT (R113). A recalibration that has not collected 16 consistent DELAY frames within 4,096 cycles keeps the old
values and reports result 0b101. -/
def execRecalTimeout (s : State) : Host.Outcome State Fault Refusal :=
  runQuiet (awake fun s => Machine.recalTimeout s) s

/-- RESTART (R126). The RING_CTRL restart command sends RING_STOP with reason 2, applies the link and start configuration and
enters LISTEN, or is refused while an axis is enabled. -/
def execRestart (port : Port) (s : State) : Host.Outcome State Fault Refusal :=
  runQuiet (fun s => hostWrite s port Reg.RING_CTRL 4) s

/-- FOREIGN_MANAGEMENT_FRAME (R103). A DISCOVER or DELAY frame sent by another head arrives: a head at position 127 fills its
entry, and a leader that hears it from a superior head withdraws. -/
def execForeignManagementFrame (bytes : List Byte) (turnaround : Word) (s : State) : Host.Outcome State Fault Refusal :=
  runQuiet (awake fun s => recvManagement (heard s) bytes turnaround.toNat) s

end Sys2Proof.Machine
end

