-- ==== Sys2Proof/Machine/CmdSafe.lean ====
section
/-! DEFINITION. The commands of the safety island (12_safety.md): one meaning each, over the shared operations. -/

namespace Sys2Proof.Machine

/-- SAFETY_CYCLE_START (R396). At start(j) the island takes its inputs and evaluates every safety function. -/
def execSafetyCycleStart (s : State) : Host.Outcome State Fault Refusal :=
  runQuiet (awake fun s => cycleStart s) s

/-- SAFETY_OUTPUT_INSTANT (R396). At start(j) + S_eff/2 the island commands the field outputs. -/
def execSafetyOutputInstant (s : State) : Host.Outcome State Fault Refusal :=
  runQuiet (awake fun s => outputInstant s) s

/-- PDU_ISSUE (R396). At O(j) the island issues the new outbound PDU of every connection. -/
def execPduIssue (s : State) : Host.Outcome State Fault Refusal :=
  runQuiet (awake fun s => Machine.pduIssue s) s

/-- SELVEDGE_DATAGRAM (R408). A host-side Selvedge datagram is checked and its PDU accepted or journaled, or discarded. -/
def execSelvedgeDatagram (ip : Word) (port : Half) (bytes : List Byte) (s : State) : Host.Outcome State Fault Refusal :=
  runQuiet (awake fun s => datagram s ip.toNat port.toNat bytes) s

/-- SELVEDGE_WATCHDOG (R403). A connection watchdog expires and raises a connection error. -/
def execSelvedgeWatchdog (c : Byte) (s : State) : Host.Outcome State Fault Refusal :=
  runQuiet (awake fun s => connWatchdog s c.toNat) s

/-- DISCREPANCY_TIMEOUT (R411). Dual channels that disagree beyond the discrepancy time raise input-discrepancy and hold the
demand. -/
def execDiscrepancyTimeout (term : Byte) (s : State) : Host.Outcome State Fault Refusal :=
  runQuiet (awake fun s => discrepancy s term.toNat) s

/-- SS1_TIME_EXPIRY (R414). The expiry of ss1_time sets STO on the axis. -/
def execSs1TimeExpiry (axis : Byte) (s : State) : Host.Outcome State Fault Refusal :=
  runQuiet (awake fun s => ss1Expiry s axis.toNat) s

/-- STO_AFTER_BRAKE (R415). sto_after_brk after the brake is applied, en[k] falls. -/
def execStoAfterBrake (axis : Byte) (s : State) : Host.Outcome State Fault Refusal :=
  runQuiet (awake fun s => brakeExpiry s axis.toNat) s

/-- SLO_FEEDBACK_TIMEOUT (R416). Feedback that has not shown the safe state within slo_fb_time raises slo-feedback-fault and
latches the group off. -/
def execSloFeedbackTimeout (g : Fin 8) (s : State) : Host.Outcome State Fault Refusal :=
  runQuiet (awake fun s => sloTimeout s g) s

/-- EDM_TIMEOUT (R417). Feedback that has not followed its output within edm_time raises edm-fault. -/
def execEdmTimeout (k : Fin 16) (s : State) : Host.Outcome State Fault Refusal :=
  runQuiet (awake fun s => Machine.edmTimeout s k) s

/-- TEST_PULSE_START (R418). Every pulse_period the island switches an on safe output off for pulse_w. -/
def execTestPulseStart (k : Fin 16) (s : State) : Host.Outcome State Fault Refusal :=
  runQuiet (awake fun s => pulseStart s k) s

/-- TEST_PULSE_END (R418). At the end of a test pulse the output is restored and its readback checked. -/
def execTestPulseEnd (k : Fin 16) (sawOff : Bool) (backOn : Bool) (s : State) : Host.Outcome State Fault Refusal :=
  runQuiet (awake fun s => Machine.testPulseEnd s k sawOff backOn) s

/-- ISLAND_START_DONE (R394). The end of the island's self-test and parameter load takes it to RUN or FAULT. -/
def execIslandStartDone (passed : Bool) (s : State) : Host.Outcome State Fault Refusal :=
  run (awake fun s => islandStart s passed) s

/-- ISLAND_FAULT (R424). A failed island diagnostic commands every field output safe, zeroes outbound PDUs and leads to chip
safe state. -/
def execIslandFault (cause : Byte) (s : State) : Host.Outcome State Fault Refusal :=
  run (awake fun s => Machine.islandFault s cause.toNat) s

/-- ISLAND_SAFE_STATE_ENTRY (R424). At the end of the second shuttle launched after the PDU replacement, the head enters chip
safe state. -/
def execIslandSafeStateEntry (s : State) : Host.Outcome State Fault Refusal :=
  run (awake fun s => islandSafeEntry s) s

end Sys2Proof.Machine
end

