-- ==== Sys2Proof/Machine/CmdSched.lean ====
section
/-! DEFINITION. The commands of the scheduler, the mailboxes, the locks and the queues (08_tasks_mailboxes_locks.md): one meaning each, over the shared operations. -/

namespace Sys2Proof.Machine

/-- TOKEN_ARRIVAL (R278). A token written into the matching store sets its operand present, replacing an older value, and may
make its task ready. -/
def execTokenArrival (inPort : Fin 7) (s : State) : Host.Outcome State Fault Refusal :=
  runQuiet (awake fun s => Machine.tokenArrival s inPort) s

/-- TASK_DISPATCH (R281). The dispatcher picks the highest-priority eligible ready task and places it on a core, or preempts
under R261. The firmware cores named have ended their tasks before it, which software alone decides (DESIGN CHOICE, log entry 11). -/
def execTaskDispatch (s : State) (ended : List (Fin 8) := []) : Host.Outcome State Fault Refusal :=
  runQuiet (awake fun s => dispatch ((ended.map (·.val)).foldl fwEnded s)) s

/-- AFFINITY_HOLD_EXPIRY (R282). A ready task whose affinity hold has elapsed may migrate to another candidate core. -/
def execAffinityHoldExpiry (task : BitVec 10) (s : State) : Host.Outcome State Fault Refusal :=
  runQuiet (awake fun s => holdExpiry s task.toNat) s

/-- DESCRIPTOR_WRITE (R275). A write to a task descriptor is accepted only while it is not valid, and a write that sets valid
checks the whole descriptor. -/
def execDescriptorWrite (port : Port) (task : BitVec 10) (w : BitVec 3) (v : Word) (s : State) : Host.Outcome State Fault Refusal :=
  runQuiet (fun s => hostWrite s port (Reg.SCHED_TASK_DESC task.toNat w.toNat) v) s

/-- CANCEL (R280). A SCHED_CANCEL write clears every present bit and the ready state of the task, and its delay entries when del
is set. -/
def execCancel (port : Port) (task : BitVec 10) (del : Bool) (s : State) : Host.Outcome State Fault Refusal :=
  runQuiet (fun s => hostWrite s port Reg.SCHED_CANCEL (word (task.toNat + flag del * 1024))) s

/-- POST_TOKEN (R272). A write to SCHED_POST_HI posts a token with the value in SCHED_POST_LO. -/
def execPostToken (port : Port) (v : Word) (s : State) : Host.Outcome State Fault Refusal :=
  runQuiet (fun s => hostWrite s port Reg.SCHED_POST_HI v) s

/-- DELAY_INSERT (R285). A SCHED_BASTE_COMMIT insert adds the staged entry to the delay list of its target's priority. -/
def execDelayInsert (port : Port) (s : State) : Host.Outcome State Fault Refusal :=
  runQuiet (fun s => hostWrite s port Reg.SCHED_BASTE_COMMIT 1) s

/-- DELAY_REMOVE (R285). A SCHED_BASTE_COMMIT remove deletes every delay entry that targets the named task. -/
def execDelayRemove (port : Port) (s : State) : Host.Outcome State Fault Refusal :=
  runQuiet (fun s => hostWrite s port Reg.SCHED_BASTE_COMMIT 2) s

/-- DELAY_ENTRY_FIRE (R285). A due delay entry posts its token with source 2 and is removed or re-inserted with its period. -/
def execDelayEntryFire (s : State) : Host.Outcome State Fault Refusal :=
  runQuiet (awake fun s => delayFire s) s

/-- MAILBOX_WRITE (R288). A sender's write to an empty mailbox stores the word, sets full and raises the receiver's interrupt,
or delivers a token to a task receiver. -/
def execMailboxWrite (port : Port) (m : BitVec 6) (v : Word) (s : State) : Host.Outcome State Fault Refusal :=
  runQuiet (fun s => hostWrite s port (Reg.MBX_DATA m.toNat) v) s

/-- MAILBOX_READ (R289). A receiver's read returns the word, clears full and raises the sender's space interrupt, or records an
empty read. -/
def execMailboxRead (port : Port) (m : BitVec 6) (s : State) : Host.Outcome State Fault Refusal :=
  runQuiet (fun s => portRead s port (Reg.MBX_DATA m.toNat)) s

/-- MAILBOX_STALL (R292). A mailbox still full when its stall timer expires sets its stall flag and raises mailbox-stall. -/
def execMailboxStall (m : BitVec 6) (s : State) : Host.Outcome State Fault Refusal :=
  runQuiet (awake fun s => mbxStall s m.toNat) s

/-- LOCK_READ (R295). A read of a free lock makes the reader its owner, and otherwise returns the owner. -/
def execLockRead (port : Port) (k : BitVec 6) (s : State) : Host.Outcome State Fault Refusal :=
  runQuiet (fun s => portRead s port (Reg.MBX_LOCK k.toNat)) s

/-- LOCK_RELEASE (R295). A write of 0 by the owner releases the lock, and any other write is refused. -/
def execLockRelease (port : Port) (k : BitVec 6) (v : Word) (s : State) : Host.Outcome State Fault Refusal :=
  runQuiet (fun s => hostWrite s port (Reg.MBX_LOCK k.toNat) v) s

/-- QUEUE_PUSH (R294). A host write to MBXQ_H2Dq pushes a word, or sets overflow when the queue is full. -/
def execQueuePush (port : Port) (q : BitVec 3) (v : Word) (s : State) : Host.Outcome State Fault Refusal :=
  run (fun s => pump (hostWrite s port (Reg.MBXQ_H2D q.toNat) v)) s

/-- QUEUE_POP (R294). A host read of MBXQ_D2Hq pops a word, or sets underflow when the queue is empty. -/
def execQueuePop (port : Port) (q : BitVec 3) (s : State) : Host.Outcome State Fault Refusal :=
  runQuiet (fun s => portRead s port (Reg.MBXQ_D2H q.toNat)) s

end Sys2Proof.Machine
end

