-- ==== Sys2Proof/Machine/CmdSec.lean ====
section
/-! DEFINITION. The commands of reset, boot, configuration, update and protection (15_startup_update_protection.md): one meaning each, over the shared operations. -/

namespace Sys2Proof.Machine

/-- RESET_ASSERT (R480). nRESET low for 10 ms counts as an assertion, holds the domains in reset and silences the transmitters.
-/
def execResetAssert (s : State) : Host.Outcome State Fault Refusal :=
  run (fun s => Machine.resetAssert s) s

/-- RESET_RELEASE (R481). nRESET high for 10 ms, or power-on, releases reset and starts a warm or cold boot. -/
def execResetRelease (powerOn : Bool) (duration : Word) (aonS : Word) (bootSel : Fin 4) (rankPins : Fin 8) (s : State) : Host.Outcome State Fault Refusal :=
  run (fun s => Machine.resetRelease s powerOn duration.toNat aonS.toNat bootSel.val rankPins.val) s

/-- LONG_RESET (R481). An assertion held longer than 30 s ends archive self-refresh and makes the next boot cold. -/
def execLongReset (s : State) : Host.Outcome State Fault Refusal :=
  run (fun s => Machine.longReset s) s

/-- BOOT_LOAD_DONE (R484). The parts are verified and started. -/
def execBootLoadDone (s : State) : Host.Outcome State Fault Refusal :=
  runQuiet (awake fun s => Machine.bootLoadDone s) s

/-- CONFIGURATION_APPLY (R492). Firmware applies the configuration set record by record, or refuses the whole set. -/
def execConfigurationApply (s : State) : Host.Outcome State Fault Refusal :=
  run (awake fun s => Machine.configurationApply s) s

/-- ACTIVATION_REQUEST (R502). A commit of the SEC baste group checks the activation request at its commit point and announces a
= m + 64. -/
def execActivationRequest (s : State) : Host.Outcome State Fault Refusal :=
  runQuiet (awake fun s => Machine.activationRequest s) s

/-- ACTIVATION_CHECK (R502). At L(a - 8) the activation is cancelled or the descriptors are written with trial pending. -/
def execActivationCheck (s : State) : Host.Outcome State Fault Refusal :=
  run (awake fun s => Machine.activationCheck s) s

/-- ACTIVATION_RESET (R502). At L(a) the heads reset themselves with cause 5 and the workers restart. -/
def execActivationReset (s : State) : Host.Outcome State Fault Refusal :=
  run (awake fun s => Machine.activationReset s) s

/-- HEALTH_CONFIRM (R503). When every condition holds, the head blows the epochs, confirms the descriptor and sends CONFIRM. -/
def execHealthConfirm (s : State) : Host.Outcome State Fault Refusal :=
  run (awake fun s => Machine.healthConfirm s) s

/-- HEALTH_TIMEOUT (R504). The health window expires and the trial falls back. -/
def execHealthTimeout (s : State) : Host.Outcome State Fault Refusal :=
  run (awake fun s => Machine.healthTimeout s) s

/-- CONFIRM (R503). The SEC_CTRL confirm command gives the host confirmation of a trial. -/
def execConfirm (port : Port) (s : State) : Host.Outcome State Fault Refusal :=
  runQuiet (fun s => hostWrite s port Reg.SEC_CTRL 1) s

/-- REVERT (R505). The SEC_CTRL revert command makes the other slot the trial. -/
def execRevert (port : Port) (s : State) : Host.Outcome State Fault Refusal :=
  run (fun s => hostWrite s port Reg.SEC_CTRL 2) s

/-- ABORT_STAGING (R500). The SEC_CTRL abort_staging command discards the staging run. -/
def execAbortStaging (port : Port) (s : State) : Host.Outcome State Fault Refusal :=
  runQuiet (fun s => hostWrite s port Reg.SEC_CTRL 4) s

/-- NEW_NONCE (R507). The SEC_CTRL new_nonce command draws a new nonce. -/
def execNewNonce (port : Port) (s : State) : Host.Outcome State Fault Refusal :=
  runQuiet (fun s => hostWrite s port Reg.SEC_CTRL 8) s

/-- SOFTWARE_RESET (R512). The SEC_CTRL reset command resets the head, or is refused while an axis is enabled. -/
def execSoftwareReset (port : Port) (s : State) : Host.Outcome State Fault Refusal :=
  run (fun s => hostWrite s port Reg.SEC_CTRL 16) s

/-- LOCAL_CONFIRMATION (R507). The named field input held high for its hold time confirms a pending request. -/
def execLocalConfirmation (s : State) : Host.Outcome State Fault Refusal :=
  runQuiet (awake fun s => localConfirm s) s

/-- PROTECTION_EXPIRY (R507). An unconfirmed request expires and raises protection-expired. -/
def execProtectionExpiry (s : State) : Host.Outcome State Fault Refusal :=
  runQuiet (awake fun s => protExpiry s) s

/-- DEBUG_OPEN (R509). A password or signature over the debug port opens a level-1 or level-2 session, or is refused. -/
def execDebugOpen (q : DebugReq) (s : State) : Host.Outcome State Fault Refusal :=
  runQuiet (awake fun s => Machine.debugOpen s q) s

/-- DEBUG_SESSION_END (R509). A debug session ends at its set time or on a close. -/
def execDebugSessionEnd (s : State) : Host.Outcome State Fault Refusal :=
  runQuiet (awake fun s => debugEnd s) s

end Sys2Proof.Machine
end

