-- ==== Sys2Proof/Machine/CmdTime.lean ====
section
/-! DEFINITION. The commands of machine time and the PTP plane (04_machine_time.md): one meaning each, over the shared operations. -/

namespace Sys2Proof.Machine

/-- TIME_RATE_WRITE (R132). A direct write of TIME_RATE is clamped to ±100 ppm and becomes the target of the effective rate, and
may end HOLDOVER. -/
def execTimeRateWrite (port : Port) (v : Word) (s : State) : Host.Outcome State Fault Refusal :=
  run (fun s => hostWrite s port Reg.TIME_RATE v) s

/-- RATE_SLEW_STEP (R132). In RUN the effective rate moves 1 LSB toward TIME_RATE, at no more than 0.5 ppm per second. -/
def execRateSlewStep (s : State) : Host.Outcome State Fault Refusal :=
  runQuiet (awake fun s => slewStep s) s

/-- TIME_COMMIT (R133). A write of commit to TIME_BASTE_COMMIT tests the staged fields and any carried step and schedules them
for the commit point. -/
def execTimeCommit (port : Port) (v : Word) (s : State) : Host.Outcome State Fault Refusal :=
  run (fun s => hostWrite s port Reg.TIME_BASTE_COMMIT v) s

/-- TIME_STEP_APPLY_UNLED (R133). While the head neither leads nor follows a ring, a carried step is applied 1 µs after the
commit. -/
def execTimeStepApplyUnled (s : State) : Host.Outcome State Fault Refusal :=
  run (awake fun s => if ringSt s == 3 || leads s || !timeDue s then s else applyTime s) s

/-- SNAP (R130). The TIME_CTRL snap command captures machine time and domain counters 0-3 in one CK_TIME cycle. -/
def execSnap (port : Port) (s : State) : Host.Outcome State Fault Refusal :=
  run (fun s => hostWrite s port Reg.TIME_CTRL 1) s

/-- FORCE_HOLDOVER (R135). The TIME_CTRL force_holdover command counts as a loss of the source. -/
def execForceHoldover (port : Port) (s : State) : Host.Outcome State Fault Refusal :=
  run (fun s => hostWrite s port Reg.TIME_CTRL 2) s

/-- HOLDOVER_TIMEOUT (R135). Under src PTP, holdover_timeout without a TIME_RATE write loses the source and takes a LOCKED head
to HOLDOVER. -/
def execHoldoverTimeout (s : State) : Host.Outcome State Fault Refusal :=
  runQuiet (awake fun s => Machine.holdoverTimeout s) s

/-- CALCULATOR_COMPARE (R139). Every microsecond the main calculator is compared with domain counter 0, and a difference above 4
ns raises calculator-mismatch. -/
def execCalculatorCompare (s : State) : Host.Outcome State Fault Refusal :=
  runQuiet (awake fun s => compareCalc s) s

/-- DOMAIN_STEP (R138). A write to TIME_DOMk_STEP_HI applies the 64-bit step to domain counter k. -/
def execDomainStep (port : Port) (k : Fin 4) (v : Word) (s : State) : Host.Outcome State Fault Refusal :=
  run (fun s => hostWrite s port (Reg.TIME_DOM_STEP_HI k.val) v) s

/-- PTP_EVENT_RX (R143). A received PTP event message is timestamped in its domain's counter and delivered to firmware with the
frame. -/
def execPtpEventRx (eth : Fin 2) (frame : List Byte) (s : State) : Host.Outcome State Fault Refusal :=
  runQuiet (awake fun s => Machine.ptpEventRx s eth frame) s

/-- TRANSPARENT_CLOCK_FORWARD (R144). A PTP event message forwarded between host ports gets its residence added to
correctionField. -/
def execTransparentClockForward (eth : Fin 2) (frame : List Byte) (residence : Long) (s : State) : Host.Outcome State Fault Refusal :=
  runQuiet (awake fun s => transparent s eth frame residence.toNat) s

/-- SYNC_SEND (R147). As local master the head sends a one-step Sync whose originTimestamp and correction are written on the fly
at egress. -/
def execSyncSend (eth : Fin 2) (frame : List Byte) (s : State) : Host.Outcome State Fault Refusal :=
  runQuiet (awake fun s => Machine.syncSend s eth frame) s

/-- LAUNCH_AT_TIME (R148). A launch-at-time entry falls due and its frame is started at its launch time, folding the launch
error for PTP frames. -/
def execLaunchAtTime (eth : Fin 2) (queue : Fin 2) (err : Word) (s : State) : Host.Outcome State Fault Refusal :=
  run (awake fun s => let r := launchTimed s eth queue.val err; pump (timedDone r.1 r.2)) s

/-- SYNC_OUT_EDGE (R151). SYNC_OUT rises at every out_div-th latch instant or at each whole second, for out_width × 8 ns. -/
def execSyncOutEdge (s : State) : Host.Outcome State Fault Refusal :=
  runQuiet (awake fun s => Machine.syncOutEdge s) s

/-- SYNC_IN_EDGE (R152). A SYNC_IN rising edge is timestamped and, in cascade, steers the rate so that a latch instant falls at
each edge. -/
def execSyncInEdge (s : State) : Host.Outcome State Fault Refusal :=
  run (awake fun s => Machine.syncInEdge s) s

/-- SYNC_IN_MISSING (R152). An expected cascade edge that does not come is counted, and three missing edges lose the source. -/
def execSyncInMissing (s : State) : Host.Outcome State Fault Refusal :=
  runQuiet (awake fun s => Machine.syncInMissing s) s

/-- PTP_GENERAL_MESSAGE (R141). A received PTP general message such as Announce feeds the best master clock algorithm, which can
make the head local master or slave. -/
def execPtpGeneralMessage (eth : Fin 2) (frame : List Byte) (s : State) : Host.Outcome State Fault Refusal :=
  runQuiet (awake fun s => ptpGeneral s eth frame) s

end Sys2Proof.Machine
end

