-- ==== Sys2Proof/Machine/CmdTwin.lean ====
section
/-! DEFINITION. The commands of twin operation (11_twin_operation.md): one meaning each, over the shared operations. -/

namespace Sys2Proof.Machine

/-- HELLO_SEND (R353). A head sends HELLO every 1 ms while the link is up and the pair is not formed, and at each change of twin
state. -/
def execHelloSend (s : State) : Host.Outcome State Fault Refusal :=
  runQuiet (awake fun s => helloTimer s) s

/-- HELLO (R356). A received HELLO checks the configuration hashes and forms the pair or records cause 4. -/
def execHello (bytes : List Byte) (fcsOk : Bool) (s : State) : Host.Outcome State Fault Refusal :=
  run (awake fun s => twinRecv s bytes fcsOk fun s b => helloManifest (takeHello s b) b) s

/-- TWIN_CYCLE_SEND (R353). At L(n) + t_lead the journal holder sends CYCLE_A and the other head CYCLE_S. -/
def execTwinCycleSend (s : State) : Host.Outcome State Fault Refusal :=
  runQuiet (awake fun s => Machine.twinCycleSend s) s

/-- CYCLE_A (R366). A received CYCLE_A gives the standby the active's digest, misses, local inputs, events, actions and journal
copy, and checks the journal up to jseq_hi. -/
def execCycleA (bytes : List Byte) (fcsOk : Bool) (s : State) : Host.Outcome State Fault Refusal :=
  run (awake fun s => cycleAFrame s bytes fcsOk) s

/-- CYCLE_S (R370). A received CYCLE_S gives the active the standby's digest, journal acknowledgement, action acknowledgement
and field inputs. -/
def execCycleS (bytes : List Byte) (fcsOk : Bool) (s : State) : Host.Outcome State Fault Refusal :=
  runQuiet (awake fun s => twinRecv s bytes fcsOk fun s b => takeCycleS s b (word (field bytes 4 4))) s

/-- RETURN (R360). A RETURN frame gives the twin the sender's returned shuttle, substitution bitmap and SSI results, decided
section by section. -/
def execReturn (bytes : List Byte) (s : State) : Host.Outcome State Fault Refusal :=
  run (awake fun s => twinRecv s bytes true fun s b => if field bytes 4 4 == s.cyc.count.toNat then takeReturn s b else s) s

/-- JOURNAL (R366). A received JOURNAL frame stores its entries at the standby. -/
def execJournal (bytes : List Byte) (fcsOk : Bool) (s : State) : Host.Outcome State Fault Refusal :=
  runQuiet (awake fun s => twinRecv s bytes fcsOk takeJournal) s

/-- JOURNAL_STAMP (R364). A journaled write that lands is stamped with apply_cycle m and jseq and sent in a JOURNAL frame. -/
def execJournalStamp (kind : Byte) (source : Byte) (target : Word) (data : List Byte) (s : State) : Host.Outcome State Fault Refusal :=
  runQuiet (awake fun s =>
    if stamps s then stampWrites s [{ kind := kind.toNat, source := source.toNat, target := target, data := data }] none else s) s

/-- JOURNAL_STAMP_CONTINUE (R367). A write held for lack of journal room is stamped over the following cycles as room allows. -/
def execJournalStampContinue (s : State) : Host.Outcome State Fault Refusal :=
  runQuiet (awake fun s => stampHeld s.twin.held.length s) s

/-- SYNC (R381). A received SYNC frame stores pages or snapshot data of a resynchronization. -/
def execSync (bytes : List Byte) (fcsOk : Bool) (s : State) : Host.Outcome State Fault Refusal :=
  run (awake fun s => twinRecv s bytes fcsOk takeSync) s

/-- TAKEOVER_DECISION (R372). At A(n) + 1 µs the standby decides between nothing, split service and takeover. -/
def execTakeoverDecision (arrived : Bool) (s : State) : Host.Outcome State Fault Refusal :=
  run (awake fun s => takeoverDecided s arrived) s

/-- TWIN_LINK_LOST (R356). Loss of block lock on the twin link, or 3 cycles without a valid frame, records cause 3, or fences a
head in SPLIT. -/
def execTwinLinkLost (lock : Bool) (s : State) : Host.Outcome State Fault Refusal :=
  runQuiet (awake fun s => Machine.twinLinkLost s lock) s

/-- TWIN_COMMIT (R390). A write of commit to TWIN_BASTE_COMMIT checks and applies the journal and automatic-action settings at
the next latch instant. -/
def execTwinCommit (port : Port) (v : Word) (s : State) : Host.Outcome State Fault Refusal :=
  runQuiet (fun s => hostWrite s port Reg.TWIN_BASTE_COMMIT v) s

/-- RESYNC (R380). The TWIN_CTRL resync command starts a resynchronization under the maintenance arbiter. -/
def execResync (port : Port) (s : State) : Host.Outcome State Fault Refusal :=
  runQuiet (fun s => hostWrite s port Reg.TWIN_CTRL 1) s

/-- SWAP (R386). The TWIN_CTRL swap command starts a planned swap at cycle s = current + 16. -/
def execSwap (port : Port) (s : State) : Host.Outcome State Fault Refusal :=
  runQuiet (fun s => hostWrite s port Reg.TWIN_CTRL 2) s

/-- REJOIN (R379). The TWIN_CTRL rejoin command announces a rejoin of the two segments at cycle r. -/
def execRejoin (port : Port) (s : State) : Host.Outcome State Fault Refusal :=
  runQuiet (fun s => hostWrite s port Reg.TWIN_CTRL 4) s

/-- RELEASE (R384). The TWIN_CTRL release command clears cause 7 and the resync count, then starts a resync. -/
def execRelease (port : Port) (s : State) : Host.Outcome State Fault Refusal :=
  runQuiet (fun s => hostWrite s port Reg.TWIN_CTRL 8) s

/-- AUTO_RESYNC (R380). A resynchronization starts by itself on entry into STANDBY-SYNCING or from UNFIT when its cause has
cleared, and is retried every 1 s when refused. -/
def execAutoResync (s : State) : Host.Outcome State Fault Refusal :=
  runQuiet (awake fun s => Machine.autoResync s) s

/-- AUTO_REJOIN (R379). With auto_rejoin set, a rejoin starts once its conditions have held for 100 ms. -/
def execAutoRejoin (s : State) : Host.Outcome State Fault Refusal :=
  runQuiet (awake fun s => Machine.autoRejoin s) s

/-- RESYNC_PHASE_DONE (R381). A resynchronization phase completes and the next phase starts, ending in STANDBY-IN-STEP after 32
matching digests. -/
def execResyncPhaseDone (s : State) : Host.Outcome State Fault Refusal :=
  run (awake fun s => resyncPhase s) s

/-- RESYNC_TIMEOUT (R381). A resynchronization that has run 2 s ends in UNFIT with cause 5. -/
def execResyncTimeout (s : State) : Host.Outcome State Fault Refusal :=
  runQuiet (awake fun s => Machine.resyncTimeout s) s

/-- ACTION_ACK_TIMEOUT (R386). A swap or rejoin without its acknowledgement by cycle s - 8 or r - 8 is cancelled. -/
def execActionAckTimeout (s : State) : Host.Outcome State Fault Refusal :=
  runQuiet (awake fun s => ackTimeout s) s

/-- FIELD_INPUT_DISCREPANCY (R388). A field input for motion that differs between the heads for 10 ms raises fio-twin-mismatch.
-/
def execFieldInputDiscrepancy (input : Fin 32) (s : State) : Host.Outcome State Fault Refusal :=
  runQuiet (awake fun s => fieldDiscrepancy s input) s

/-- TWIN_LINK_LOCK_GAINED (R356). The twin link regains block lock, link_up sets, HELLO exchange resumes and a cause 3 recorded
for the link clears so that a resync may start. -/
def execTwinLinkLockGained (s : State) : Host.Outcome State Fault Refusal :=
  runQuiet (awake fun s => twinLockGained s) s

end Sys2Proof.Machine
end

