-- ==== Sys2Proof/Machine/Dispatch.lean ====
section
/-! DEFINITION. The dispatch of a command to its meaning: one arm per row of the table. -/

namespace Sys2Proof.Machine

/-- The effect of a command on everything but the queue of waiting commands. -/
def exec (i : Instr) (s : State) : Host.Outcome State Fault Refusal :=
  match i with
  | .registerWrite port addr v => Sys2Proof.Machine.execRegisterWrite port addr v s
  | .readClear port addr => Sys2Proof.Machine.execReadClear port addr s
  | .latchInstant => Sys2Proof.Machine.execLatchInstant s
  | .sysCommit port v => Sys2Proof.Machine.execSysCommit port v s
  | .laneWake => Sys2Proof.Machine.execLaneWake s
  | .profileLaneWake => Sys2Proof.Machine.execProfileLaneWake s
  | .regionWakeDone => Sys2Proof.Machine.execRegionWakeDone s
  | .shuttleLaunch => Sys2Proof.Machine.execShuttleLaunch s
  | .shuttleReturn bytes fcsOk => Sys2Proof.Machine.execShuttleReturn bytes fcsOk s
  | .returnMissing => Sys2Proof.Machine.execReturnMissing s
  | .shuttleTurnaround bytes fcsOk => Sys2Proof.Machine.execShuttleTurnaround bytes fcsOk s
  | .frameForward bytes fcsOk => Sys2Proof.Machine.execFrameForward bytes fcsOk s
  | .xtOut port v => Sys2Proof.Machine.execXtOut port v s
  | .ringCommit port v => Sys2Proof.Machine.execRingCommit port v s
  | .serviceRequestStart target code index data => Sys2Proof.Machine.execServiceRequestStart target code index data s
  | .serviceTimeout slot => Sys2Proof.Machine.execServiceTimeout slot s
  | .linkLockGained portB => Sys2Proof.Machine.execLinkLockGained portB s
  | .linkLost portB => Sys2Proof.Machine.execLinkLost portB s
  | .listenTimeout => Sys2Proof.Machine.execListenTimeout s
  | .claimSend => Sys2Proof.Machine.execClaimSend s
  | .claimHoldExpiry => Sys2Proof.Machine.execClaimHoldExpiry s
  | .claim bytes => Sys2Proof.Machine.execClaim bytes s
  | .foreignShuttle bytes => Sys2Proof.Machine.execForeignShuttle bytes s
  | .yield_ bytes => Sys2Proof.Machine.execYield bytes s
  | .ringStop bytes => Sys2Proof.Machine.execRingStop bytes s
  | .deferredWithdraw => Sys2Proof.Machine.execDeferredWithdraw s
  | .followSilenceTimeout => Sys2Proof.Machine.execFollowSilenceTimeout s
  | .enumerate bytes => Sys2Proof.Machine.execEnumerate bytes s
  | .delay bytes q0 => Sys2Proof.Machine.execDelay bytes q0 s
  | .integrationTimeout => Sys2Proof.Machine.execIntegrationTimeout s
  | .topologyRecheck => Sys2Proof.Machine.execTopologyRecheck s
  | .heal port => Sys2Proof.Machine.execHeal port s
  | .autoHeal => Sys2Proof.Machine.execAutoHeal s
  | .delayRecal port => Sys2Proof.Machine.execDelayRecal port s
  | .recalTimeout => Sys2Proof.Machine.execRecalTimeout s
  | .restart port => Sys2Proof.Machine.execRestart port s
  | .timeRateWrite port v => Sys2Proof.Machine.execTimeRateWrite port v s
  | .rateSlewStep => Sys2Proof.Machine.execRateSlewStep s
  | .timeCommit port v => Sys2Proof.Machine.execTimeCommit port v s
  | .timeStepApplyUnled => Sys2Proof.Machine.execTimeStepApplyUnled s
  | .snap port => Sys2Proof.Machine.execSnap port s
  | .forceHoldover port => Sys2Proof.Machine.execForceHoldover port s
  | .holdoverTimeout => Sys2Proof.Machine.execHoldoverTimeout s
  | .calculatorCompare => Sys2Proof.Machine.execCalculatorCompare s
  | .domainStep port k v => Sys2Proof.Machine.execDomainStep port k v s
  | .ptpEventRx eth frame => Sys2Proof.Machine.execPtpEventRx eth frame s
  | .transparentClockForward eth frame residence => Sys2Proof.Machine.execTransparentClockForward eth frame residence s
  | .syncSend eth frame => Sys2Proof.Machine.execSyncSend eth frame s
  | .launchAtTime eth queue err => Sys2Proof.Machine.execLaunchAtTime eth queue err s
  | .syncOutEdge => Sys2Proof.Machine.execSyncOutEdge s
  | .syncInEdge => Sys2Proof.Machine.execSyncInEdge s
  | .syncInMissing => Sys2Proof.Machine.execSyncInMissing s
  | .moveAbs port axis target => Sys2Proof.Machine.execMoveAbs port axis target s
  | .moveRel port axis distance => Sys2Proof.Machine.execMoveRel port axis distance s
  | .jog port axis velocity => Sys2Proof.Machine.execJog port axis velocity s
  | .stop port axis => Sys2Proof.Machine.execStop port axis s
  | .quickStop port axis => Sys2Proof.Machine.execQuickStop port axis s
  | .follow port axis => Sys2Proof.Machine.execFollow port axis s
  | .enable port axis => Sys2Proof.Machine.execEnable port axis s
  | .disable port axis => Sys2Proof.Machine.execDisable port axis s
  | .setRef port axis position => Sys2Proof.Machine.execSetRef port axis position s
  | .clearGuard port pair => Sys2Proof.Machine.execClearGuard port pair s
  | .streamStart port group => Sys2Proof.Machine.execStreamStart port group s
  | .groupStop port group => Sys2Proof.Machine.execGroupStop port group s
  | .groupQstop port group => Sys2Proof.Machine.execGroupQstop port group s
  | .flush port group => Sys2Proof.Machine.execFlush port group s
  | .paramCommit port axis now => Sys2Proof.Machine.execParamCommit port axis now s
  | .paramLoad port axis => Sys2Proof.Machine.execParamLoad port axis s
  | .phaseRestoreResponse axis result data => Sys2Proof.Machine.execPhaseRestoreResponse axis result data s
  | .loopSample sample => Sys2Proof.Machine.execLoopSample sample s
  | .loopOutputStage axis => Sys2Proof.Machine.execLoopOutputStage axis s
  | .coefCommit port axis clear => Sys2Proof.Machine.execCoefCommit port axis clear s
  | .coefLoad port axis => Sys2Proof.Machine.execCoefLoad port axis s
  | .coefCommitApply lane => Sys2Proof.Machine.execCoefCommitApply lane s
  | .bankSwap port axis copyBack => Sys2Proof.Machine.execBankSwap port axis copyBack s
  | .bankSwapApply lane => Sys2Proof.Machine.execBankSwapApply lane s
  | .copyBackDone lane => Sys2Proof.Machine.execCopyBackDone lane s
  | .injectorStart port inj => Sys2Proof.Machine.execInjectorStart port inj s
  | .injectorStop port inj => Sys2Proof.Machine.execInjectorStop port inj s
  | .injectorEnd inj => Sys2Proof.Machine.execInjectorEnd inj s
  | .nop core => Sys2Proof.Machine.execNop core s
  | .ldi core dd imm => Sys2Proof.Machine.execLdi core dd imm s
  | .mov core dd ds => Sys2Proof.Machine.execMov core dd ds s
  | .ld core dd p am off => Sys2Proof.Machine.execLd core dd p am off s
  | .st core ds p am off => Sys2Proof.Machine.execSt core ds p am off s
  | .lda core a p am off => Sys2Proof.Machine.execLda core a p am off s
  | .staH core a p am off => Sys2Proof.Machine.execStaH core a p am off s
  | .staW core a p am off => Sys2Proof.Machine.execStaW core a p am off s
  | .mvh core dd a => Sys2Proof.Machine.execMvh core dd a s
  | .mva core a ds => Sys2Proof.Machine.execMva core a ds s
  | .clr core a => Sys2Proof.Machine.execClr core a s
  | .ldp core pa imm => Sys2Proof.Machine.execLdp core pa imm s
  | .setb core pa imm => Sys2Proof.Machine.execSetb core pa imm s
  | .setl core pa imm => Sys2Proof.Machine.execSetl core pa imm s
  | .addp core pa imm => Sys2Proof.Machine.execAddp core pa imm s
  | .mpy core a ds dt mm fr => Sys2Proof.Machine.execMpy core a ds dt mm fr s
  | .mac core a ds dt mm fr => Sys2Proof.Machine.execMac core a ds dt mm fr s
  | .msu core a ds dt mm fr => Sys2Proof.Machine.execMsu core a ds dt mm fr s
  | .macl core a dd ds dt p am mm fr => Sys2Proof.Machine.execMacl core a dd ds dt p am mm fr s
  | .mpyl core a dd ds dt p am mm fr => Sys2Proof.Machine.execMpyl core a dd ds dt p am mm fr s
  | .adda core a => Sys2Proof.Machine.execAdda core a s
  | .asl core a sh => Sys2Proof.Machine.execAsl core a sh s
  | .sata core a => Sys2Proof.Machine.execSata core a s
  | .add core dd ds dt => Sys2Proof.Machine.execAdd core dd ds dt s
  | .sub core dd ds dt => Sys2Proof.Machine.execSub core dd ds dt s
  | .addi core dd imm => Sys2Proof.Machine.execAddi core dd imm s
  | .and core dd ds dt => Sys2Proof.Machine.execAnd core dd ds dt s
  | .or core dd ds dt => Sys2Proof.Machine.execOr core dd ds dt s
  | .shl core dd ds sh => Sys2Proof.Machine.execShl core dd ds sh s
  | .cmp core ds dt => Sys2Proof.Machine.execCmp core ds dt s
  | .b core cond addr => Sys2Proof.Machine.execB core cond addr s
  | .call core addr => Sys2Proof.Machine.execCall core addr s
  | .ret core => Sys2Proof.Machine.execRet core s
  | .rep core n => Sys2Proof.Machine.execRep core n s
  | .rdoD core dd k => Sys2Proof.Machine.execRdoD core dd k s
  | .rdoA core a k => Sys2Proof.Machine.execRdoA core a k s
  | .postD core ds j => Sys2Proof.Machine.execPostD core ds j s
  | .postA core a j => Sys2Proof.Machine.execPostA core a j s
  | .end_ core => Sys2Proof.Machine.execEnd core s
  | .mfs core dd => Sys2Proof.Machine.execMfs core dd s
  | .taskBudgetExpiry core => Sys2Proof.Machine.execTaskBudgetExpiry core s
  | .postBufferDrain core => Sys2Proof.Machine.execPostBufferDrain core s
  | .hemLoad port => Sys2Proof.Machine.execHemLoad port s
  | .hemPatch port => Sys2Proof.Machine.execHemPatch port s
  | .patchApply => Sys2Proof.Machine.execPatchApply s
  | .coreCtrl port core v => Sys2Proof.Machine.execCoreCtrl port core v s
  | .coreOfflineDone core => Sys2Proof.Machine.execCoreOfflineDone core s
  | .tokenArrival inPort => Sys2Proof.Machine.execTokenArrival inPort s
  | .taskDispatch ended => Sys2Proof.Machine.execTaskDispatch s ended
  | .affinityHoldExpiry task => Sys2Proof.Machine.execAffinityHoldExpiry task s
  | .descriptorWrite port task w v => Sys2Proof.Machine.execDescriptorWrite port task w v s
  | .cancel port task del => Sys2Proof.Machine.execCancel port task del s
  | .postToken port v => Sys2Proof.Machine.execPostToken port v s
  | .delayInsert port => Sys2Proof.Machine.execDelayInsert port s
  | .delayRemove port => Sys2Proof.Machine.execDelayRemove port s
  | .delayEntryFire => Sys2Proof.Machine.execDelayEntryFire s
  | .mailboxWrite port m v => Sys2Proof.Machine.execMailboxWrite port m v s
  | .mailboxRead port m => Sys2Proof.Machine.execMailboxRead port m s
  | .mailboxStall m => Sys2Proof.Machine.execMailboxStall m s
  | .lockRead port k => Sys2Proof.Machine.execLockRead port k s
  | .lockRelease port k v => Sys2Proof.Machine.execLockRelease port k v s
  | .queuePush port q v => Sys2Proof.Machine.execQueuePush port q v s
  | .queuePop port q => Sys2Proof.Machine.execQueuePop port q s
  | .encoderTransition c a b => Sys2Proof.Machine.execEncoderTransition c a b s
  | .stepEdge c dir => Sys2Proof.Machine.execStepEdge c dir s
  | .indexEdge c => Sys2Proof.Machine.execIndexEdge c s
  | .ssiTransferEnd c data parity => Sys2Proof.Machine.execSsiTransferEnd c data parity s
  | .encFaultClear port c => Sys2Proof.Machine.execEncFaultClear port c s
  | .fbcCommit port v => Sys2Proof.Machine.execFbcCommit port v s
  | .compareFire k => Sys2Proof.Machine.execCompareFire k s
  | .pulseEnd k => Sys2Proof.Machine.execPulseEnd k s
  | .compareArm port k => Sys2Proof.Machine.execCompareArm port k s
  | .compareDisarm port k => Sys2Proof.Machine.execCompareDisarm port k s
  | .spoolSample => Sys2Proof.Machine.execSpoolSample s
  | .autoTriggerTimeout spool => Sys2Proof.Machine.execAutoTriggerTimeout spool s
  | .acqCommit port v => Sys2Proof.Machine.execAcqCommit port v s
  | .spoolArm port spool => Sys2Proof.Machine.execSpoolArm port spool s
  | .spoolStop port spool => Sys2Proof.Machine.execSpoolStop port spool s
  | .spoolForce port spool => Sys2Proof.Machine.execSpoolForce port spool s
  | .spoolRelease port spool => Sys2Proof.Machine.execSpoolRelease port spool s
  | .spoolDump port spool => Sys2Proof.Machine.execSpoolDump port spool s
  | .archiveBurst spool => Sys2Proof.Machine.execArchiveBurst spool s
  | .helloSend => Sys2Proof.Machine.execHelloSend s
  | .hello bytes fcsOk => Sys2Proof.Machine.execHello bytes fcsOk s
  | .twinCycleSend => Sys2Proof.Machine.execTwinCycleSend s
  | .cycleA bytes fcsOk => Sys2Proof.Machine.execCycleA bytes fcsOk s
  | .cycleS bytes fcsOk => Sys2Proof.Machine.execCycleS bytes fcsOk s
  | .return_ bytes => Sys2Proof.Machine.execReturn bytes s
  | .journal bytes fcsOk => Sys2Proof.Machine.execJournal bytes fcsOk s
  | .journalStamp kind source target data => Sys2Proof.Machine.execJournalStamp kind source target data s
  | .journalStampContinue => Sys2Proof.Machine.execJournalStampContinue s
  | .sync bytes fcsOk => Sys2Proof.Machine.execSync bytes fcsOk s
  | .takeoverDecision arrived => Sys2Proof.Machine.execTakeoverDecision arrived s
  | .twinLinkLost lock => Sys2Proof.Machine.execTwinLinkLost lock s
  | .twinCommit port v => Sys2Proof.Machine.execTwinCommit port v s
  | .resync port => Sys2Proof.Machine.execResync port s
  | .swap port => Sys2Proof.Machine.execSwap port s
  | .rejoin port => Sys2Proof.Machine.execRejoin port s
  | .release port => Sys2Proof.Machine.execRelease port s
  | .autoResync => Sys2Proof.Machine.execAutoResync s
  | .autoRejoin => Sys2Proof.Machine.execAutoRejoin s
  | .resyncPhaseDone => Sys2Proof.Machine.execResyncPhaseDone s
  | .resyncTimeout => Sys2Proof.Machine.execResyncTimeout s
  | .actionAckTimeout => Sys2Proof.Machine.execActionAckTimeout s
  | .fieldInputDiscrepancy input => Sys2Proof.Machine.execFieldInputDiscrepancy input s
  | .safetyCycleStart => Sys2Proof.Machine.execSafetyCycleStart s
  | .safetyOutputInstant => Sys2Proof.Machine.execSafetyOutputInstant s
  | .pduIssue => Sys2Proof.Machine.execPduIssue s
  | .selvedgeDatagram ip port bytes => Sys2Proof.Machine.execSelvedgeDatagram ip port bytes s
  | .selvedgeWatchdog c => Sys2Proof.Machine.execSelvedgeWatchdog c s
  | .discrepancyTimeout term => Sys2Proof.Machine.execDiscrepancyTimeout term s
  | .ss1TimeExpiry axis => Sys2Proof.Machine.execSs1TimeExpiry axis s
  | .stoAfterBrake axis => Sys2Proof.Machine.execStoAfterBrake axis s
  | .sloFeedbackTimeout g => Sys2Proof.Machine.execSloFeedbackTimeout g s
  | .edmTimeout k => Sys2Proof.Machine.execEdmTimeout k s
  | .testPulseStart k => Sys2Proof.Machine.execTestPulseStart k s
  | .testPulseEnd k sawOff backOn => Sys2Proof.Machine.execTestPulseEnd k sawOff backOn s
  | .islandStartDone passed => Sys2Proof.Machine.execIslandStartDone passed s
  | .islandFault cause => Sys2Proof.Machine.execIslandFault cause s
  | .islandSafeStateEntry => Sys2Proof.Machine.execIslandSafeStateEntry s
  | .fioDownlinkFrame => Sys2Proof.Machine.execFioDownlinkFrame s
  | .fioDownlinkReceive arrival => Sys2Proof.Machine.execFioDownlinkReceive arrival s
  | .fioUplinkFrame report crcOk => Sys2Proof.Machine.execFioUplinkFrame report crcOk s
  | .fioLinkTimeout => Sys2Proof.Machine.execFioLinkTimeout s
  | .outputOverload k => Sys2Proof.Machine.execOutputOverload k s
  | .overloadRetry k => Sys2Proof.Machine.execOverloadRetry k s
  | .readbackMismatch k => Sys2Proof.Machine.execReadbackMismatch k s
  | .fioCommit port v => Sys2Proof.Machine.execFioCommit port v s
  | .fioOutWrite port v => Sys2Proof.Machine.execFioOutWrite port v s
  | .graceExpiry blk ev => Sys2Proof.Machine.execGraceExpiry blk ev s
  | .faultAck port blk v => Sys2Proof.Machine.execFaultAck port blk v s
  | .histClear port blk v => Sys2Proof.Machine.execHistClear port blk v s
  | .blockResetDone blk us => Sys2Proof.Machine.execBlockResetDone blk us s
  | .deferredBlockReset blk => Sys2Proof.Machine.execDeferredBlockReset blk s
  | .quiesceEnd blk => Sys2Proof.Machine.execQuiesceEnd blk s
  | .regionStopStoRequest => Sys2Proof.Machine.execRegionStopStoRequest s
  | .clearStop port => Sys2Proof.Machine.execClearStop port s
  | .safeState port => Sys2Proof.Machine.execSafeState port s
  | .inject port => Sys2Proof.Machine.execInject port s
  | .aliveToggle => Sys2Proof.Machine.execAliveToggle s
  | .temperatureRefresh readings => Sys2Proof.Machine.execTemperatureRefresh readings s
  | .leaveRequest requester cls rail current duration => Sys2Proof.Machine.execLeaveRequest requester cls rail current duration s
  | .leaveGrant rail => Sys2Proof.Machine.execLeaveGrant rail s
  | .leaveEnd requester running => Sys2Proof.Machine.execLeaveEnd requester running s
  | .maintRequest port act => Sys2Proof.Machine.execMaintRequest port act s
  | .maintRelease port act => Sys2Proof.Machine.execMaintRelease port act s
  | .supplyOutOfRange supply => Sys2Proof.Machine.execSupplyOutOfRange supply s
  | .supplyFall supply => Sys2Proof.Machine.execSupplyFall supply s
  | .clockLoss clk => Sys2Proof.Machine.execClockLoss clk s
  | .resetAssert => Sys2Proof.Machine.execResetAssert s
  | .resetRelease powerOn duration aonS bootSel rankPins => Sys2Proof.Machine.execResetRelease powerOn duration aonS bootSel rankPins s
  | .longReset => Sys2Proof.Machine.execLongReset s
  | .bootLoadDone => Sys2Proof.Machine.execBootLoadDone s
  | .configurationApply => Sys2Proof.Machine.execConfigurationApply s
  | .updManifest r => Sys2Proof.Machine.execUpdManifest r s
  | .updBlock r => Sys2Proof.Machine.execUpdBlock r s
  | .updStatus r => Sys2Proof.Machine.execUpdStatus r s
  | .updActivate r => Sys2Proof.Machine.execUpdActivate r s
  | .activationRequest => Sys2Proof.Machine.execActivationRequest s
  | .activationCheck => Sys2Proof.Machine.execActivationCheck s
  | .activationReset => Sys2Proof.Machine.execActivationReset s
  | .healthConfirm => Sys2Proof.Machine.execHealthConfirm s
  | .healthTimeout => Sys2Proof.Machine.execHealthTimeout s
  | .confirm port => Sys2Proof.Machine.execConfirm port s
  | .revert port => Sys2Proof.Machine.execRevert port s
  | .abortStaging port => Sys2Proof.Machine.execAbortStaging port s
  | .newNonce port => Sys2Proof.Machine.execNewNonce port s
  | .softwareReset port => Sys2Proof.Machine.execSoftwareReset port s
  | .protRequest r => Sys2Proof.Machine.execProtRequest r s
  | .protConfirm r => Sys2Proof.Machine.execProtConfirm r s
  | .protObject r => Sys2Proof.Machine.execProtObject r s
  | .localConfirmation => Sys2Proof.Machine.execLocalConfirmation s
  | .protectionExpiry => Sys2Proof.Machine.execProtectionExpiry s
  | .debugOpen q => Sys2Proof.Machine.execDebugOpen q s
  | .debugSessionEnd => Sys2Proof.Machine.execDebugSessionEnd s
  | .flowOpen r => Sys2Proof.Machine.execFlowOpen r s
  | .flowClose r => Sys2Proof.Machine.execFlowClose r s
  | .echo r => Sys2Proof.Machine.execEcho r s
  | .regRead r => Sys2Proof.Machine.execRegRead r s
  | .regWrite r => Sys2Proof.Machine.execRegWrite r s
  | .boltRead r => Sys2Proof.Machine.execBoltRead r s
  | .boltWrite r => Sys2Proof.Machine.execBoltWrite r s
  | .archRead r => Sys2Proof.Machine.execArchRead r s
  | .axisParamSet r => Sys2Proof.Machine.execAxisParamSet r s
  | .axisParamGet r => Sys2Proof.Machine.execAxisParamGet r s
  | .axisCoefSet r => Sys2Proof.Machine.execAxisCoefSet r s
  | .axisCoefGet r => Sys2Proof.Machine.execAxisCoefGet r s
  | .groupQueueSet r => Sys2Proof.Machine.execGroupQueueSet r s
  | .guardSet r => Sys2Proof.Machine.execGuardSet r s
  | .axisCmd r => Sys2Proof.Machine.execAxisCmd r s
  | .segAppend r => Sys2Proof.Machine.execSegAppend r s
  | .groupRate r => Sys2Proof.Machine.execGroupRate r s
  | .segStatus r => Sys2Proof.Machine.execSegStatus r s
  | .cmpAppend r => Sys2Proof.Machine.execCmpAppend r s
  | .cmpArm r => Sys2Proof.Machine.execCmpArm r s
  | .cmpStatus r => Sys2Proof.Machine.execCmpStatus r s
  | .wparamRead r => Sys2Proof.Machine.execWparamRead r s
  | .wparamWrite r => Sys2Proof.Machine.execWparamWrite r s
  | .wmbxSend r => Sys2Proof.Machine.execWmbxSend r s
  | .wmbxFetch r => Sys2Proof.Machine.execWmbxFetch r s
  | .widentify r => Sys2Proof.Machine.execWidentify r s
  | .spoolCtrl r => Sys2Proof.Machine.execSpoolCtrl r s
  | .spoolState r => Sys2Proof.Machine.execSpoolState r s
  | .spoolRead r => Sys2Proof.Machine.execSpoolRead r s
  | .maintReq r => Sys2Proof.Machine.execMaintReq r s
  | .nonceGet r => Sys2Proof.Machine.execNonceGet r s
  | .statusGet r => Sys2Proof.Machine.execStatusGet r s
  | .axisStatus r => Sys2Proof.Machine.execAxisStatus r s
  | .evtSubscribe r => Sys2Proof.Machine.execEvtSubscribe r s
  | .histRead r => Sys2Proof.Machine.execHistRead r s
  | .timedFrame r => Sys2Proof.Machine.execTimedFrame r s
  | .requestComplete id => Sys2Proof.Machine.execRequestComplete id s
  | .sqDoorbell r v => Sys2Proof.Machine.execSqDoorbell r v s
  | .sqEntryFetch r entry request ok => Sys2Proof.Machine.execSqEntryFetch r entry request ok s
  | .cqDoorbell r v => Sys2Proof.Machine.execCqDoorbell r v s
  | .evqDoorbell v => Sys2Proof.Machine.execEvqDoorbell v s
  | .ringPairCtrl r v => Sys2Proof.Machine.execRingPairCtrl r v s
  | .msixCoalesceTimeout vec => Sys2Proof.Machine.execMsixCoalesceTimeout vec s
  | .pcieLinkReset => Sys2Proof.Machine.execPcieLinkReset s
  | .udpCommand ip port eth bytes => Sys2Proof.Machine.execUdpCommand ip port eth bytes s
  | .flowTimeout flow => Sys2Proof.Machine.execFlowTimeout flow s
  | .switchFrameForward ingress frame => Sys2Proof.Machine.execSwitchFrameForward ingress frame s
  | .addressAgeout addr => Sys2Proof.Machine.execAddressAgeout addr s
  | .arpRequest eth frame => Sys2Proof.Machine.execArpRequest eth frame s
  | .icmpEcho eth frame => Sys2Proof.Machine.execIcmpEcho eth frame s
  | .illegalInstruction core => Sys2Proof.Machine.execIllegalInstruction core s
  | .clockRestored clk => Sys2Proof.Machine.execClockRestored clk s
  | .twinLinkLockGained => Sys2Proof.Machine.execTwinLinkLockGained s
  | .foreignManagementFrame bytes turnaround => Sys2Proof.Machine.execForeignManagementFrame bytes turnaround s
  | .homingStepTimeout axis => Sys2Proof.Machine.execHomingStepTimeout axis s
  | .hemIdleScrub core prog addr err => Sys2Proof.Machine.execHemIdleScrub core prog addr err s
  | .pcieBarAccess tlp => Sys2Proof.Machine.execPcieBarAccess tlp s
  | .hostLinkChange link => Sys2Proof.Machine.execHostLinkChange link s
  | .ptpGeneralMessage eth frame => Sys2Proof.Machine.execPtpGeneralMessage eth frame s

end Sys2Proof.Machine
end

