-- ==== Sys2Proof/Machine/Step.lean ====
section
/-! DEFINITION. One step of the head: the command at the front of the queue, or one cycle of CK_TIME when none waits. -/

namespace Sys2Proof.Machine

/-- No command waits: one nanosecond of CK_TIME passes, and with it every calculator (R129); a head held in reset stays as it is
(R480). Everything that happens at a time comes as a command of its own (DESIGN CHOICE, log entry 1). -/
def idle (s : State) : State := if s.sec.inReset then s else { s with raw := s.raw + 1 }

/-- One step: the first waiting command acts on the state with the rest of the queue. -/
def step (s : State) : Host.Outcome State Fault Refusal :=
  match s.pending with
  | [] => .next (idle s)
  | c :: rest => exec c { s with pending := rest }

/-- The table gives no row any bits, so no word spells a command and nothing is queued. (DESIGN CHOICE, log entry 4) -/
def State.withFetchWord (s : State) (nbits w : Nat) : State :=
  match Sys2Proof.decodeTableWord nbits w with
  | some c => { s with pending := c :: s.pending }
  | none => s

end Sys2Proof.Machine
end

