-- ==== Sys2Proof/WellFormed.lean ====
section
/-! DEFINITION. Which commands are well-formed: operands that some sender of the head can form. A meaning answers on the others too;
the statements that need the bounds name them. -/

namespace Sys2Proof

/-- A shuttle fits its largest length (R54). -/
def shuttleFits (bytes : List Byte) : Bool := bytes.length ≤ 16384

/-- A service-lane target: a worker position or every worker (R80). -/
def svcTarget (t : Nat) : Bool := (1 ≤ t && t ≤ 126) || t == 0x80

/-- The operands of a command are of the form that its rule gives them. -/
def Instr.wellFormed : Instr → Bool
  | .registerWrite _ _ _ => true
  | .readClear _ _ => true
  | .latchInstant => true
  | .sysCommit _ _ => true
  | .laneWake => true
  | .profileLaneWake => true
  | .regionWakeDone => true
  | .shuttleLaunch => true
  | .shuttleReturn bytes _ => shuttleFits bytes
  | .returnMissing => true
  | .shuttleTurnaround bytes _ => bytes.length ≤ 16418
  | .frameForward bytes _ => bytes.length ≤ 16418
  | .xtOut _ _ => true
  | .ringCommit _ _ => true
  | .serviceRequestStart target _ _ data => svcTarget target.toNat && data.length ≤ 54
  | .serviceTimeout _ => true
  | .linkLockGained _ => true
  | .linkLost _ => true
  | .listenTimeout => true
  | .claimSend => true
  | .claimHoldExpiry => true
  | .claim _ => true
  | .foreignShuttle bytes => shuttleFits bytes
  | .yield_ _ => true
  | .ringStop _ => true
  | .deferredWithdraw => true
  | .followSilenceTimeout => true
  | .enumerate _ => true
  | .delay _ _ => true
  | .integrationTimeout => true
  | .topologyRecheck => true
  | .heal _ => true
  | .autoHeal => true
  | .delayRecal _ => true
  | .recalTimeout => true
  | .restart _ => true
  | .timeRateWrite _ _ => true
  | .rateSlewStep => true
  | .timeCommit _ _ => true
  | .timeStepApplyUnled => true
  | .snap _ => true
  | .forceHoldover _ => true
  | .holdoverTimeout => true
  | .calculatorCompare => true
  | .domainStep _ _ _ => true
  | .ptpEventRx _ _ => true
  | .transparentClockForward _ _ _ => true
  | .syncSend _ _ => true
  | .launchAtTime _ _ _ => true
  | .syncOutEdge => true
  | .syncInEdge => true
  | .syncInMissing => true
  | .moveAbs _ _ _ => true
  | .moveRel _ _ _ => true
  | .jog _ _ _ => true
  | .stop _ _ => true
  | .quickStop _ _ => true
  | .follow _ _ => true
  | .enable _ _ => true
  | .disable _ _ => true
  | .setRef _ _ _ => true
  | .clearGuard _ _ => true
  | .streamStart _ _ => true
  | .groupStop _ _ => true
  | .groupQstop _ _ => true
  | .flush _ _ => true
  | .paramCommit _ _ _ => true
  | .paramLoad _ _ => true
  | .phaseRestoreResponse _ _ data => data.length ≤ 54
  | .loopSample _ => true
  | .loopOutputStage _ => true
  | .coefCommit _ _ _ => true
  | .coefLoad _ _ => true
  | .coefCommitApply _ => true
  | .bankSwap _ _ _ => true
  | .bankSwapApply _ => true
  | .copyBackDone _ => true
  | .injectorStart _ _ => true
  | .injectorStop _ _ => true
  | .injectorEnd _ => true
  | .nop _ => true
  | .ldi _ _ _ => true
  | .mov _ _ _ => true
  | .ld _ _ _ _ _ => true
  | .st _ _ _ _ _ => true
  | .lda _ _ _ _ _ => true
  | .staH _ _ _ _ _ => true
  | .staW _ _ _ _ _ => true
  | .mvh _ _ _ => true
  | .mva _ _ _ => true
  | .clr _ _ => true
  | .ldp _ _ _ => true
  | .setb _ _ _ => true
  | .setl _ _ _ => true
  | .addp _ _ _ => true
  | .mpy _ _ _ _ _ _ => true
  | .mac _ _ _ _ _ _ => true
  | .msu _ _ _ _ _ _ => true
  | .macl _ _ _ _ _ _ am _ _ => am == 1 || am == 2
  | .mpyl _ _ _ _ _ _ am _ _ => am == 1 || am == 2
  | .adda _ _ => true
  | .asl _ _ _ => true
  | .sata _ _ => true
  | .add _ _ _ _ => true
  | .sub _ _ _ _ => true
  | .addi _ _ _ => true
  | .and _ _ _ _ => true
  | .or _ _ _ _ => true
  | .shl _ _ _ _ => true
  | .cmp _ _ _ => true
  | .b _ cond _ => cond.toNat < 9
  | .call _ _ => true
  | .ret _ => true
  | .rep _ _ => true
  | .rdoD _ _ _ => true
  | .rdoA _ _ _ => true
  | .postD _ _ _ => true
  | .postA _ _ _ => true
  | .end_ _ => true
  | .mfs _ _ => true
  | .taskBudgetExpiry _ => true
  | .postBufferDrain _ => true
  | .hemLoad _ => true
  | .hemPatch _ => true
  | .patchApply => true
  | .coreCtrl _ _ _ => true
  | .coreOfflineDone _ => true
  | .tokenArrival _ => true
  | .taskDispatch _ => true
  | .affinityHoldExpiry _ => true
  | .descriptorWrite _ _ _ _ => true
  | .cancel _ _ _ => true
  | .postToken _ _ => true
  | .delayInsert _ => true
  | .delayRemove _ => true
  | .delayEntryFire => true
  | .mailboxWrite _ _ _ => true
  | .mailboxRead _ _ => true
  | .mailboxStall _ => true
  | .lockRead _ _ => true
  | .lockRelease _ _ _ => true
  | .queuePush _ _ _ => true
  | .queuePop _ _ => true
  | .encoderTransition _ _ _ => true
  | .stepEdge _ _ => true
  | .indexEdge _ => true
  | .ssiTransferEnd _ _ _ => true
  | .encFaultClear _ _ => true
  | .fbcCommit _ _ => true
  | .compareFire _ => true
  | .pulseEnd _ => true
  | .compareArm _ _ => true
  | .compareDisarm _ _ => true
  | .spoolSample => true
  | .autoTriggerTimeout _ => true
  | .acqCommit _ _ => true
  | .spoolArm _ _ => true
  | .spoolStop _ _ => true
  | .spoolForce _ _ => true
  | .spoolRelease _ _ => true
  | .spoolDump _ _ => true
  | .archiveBurst _ => true
  | .helloSend => true
  | .hello _ _ => true
  | .twinCycleSend => true
  | .cycleA _ _ => true
  | .cycleS _ _ => true
  | .return_ _ => true
  | .journal _ _ => true
  | .journalStamp kind _ _ _ => 1 ≤ kind.toNat && kind.toNat ≤ 3
  | .journalStampContinue => true
  | .sync _ _ => true
  | .takeoverDecision _ => true
  | .twinLinkLost _ => true
  | .twinCommit _ _ => true
  | .resync _ => true
  | .swap _ => true
  | .rejoin _ => true
  | .release _ => true
  | .autoResync => true
  | .autoRejoin => true
  | .resyncPhaseDone => true
  | .resyncTimeout => true
  | .actionAckTimeout => true
  | .fieldInputDiscrepancy _ => true
  | .safetyCycleStart => true
  | .safetyOutputInstant => true
  | .pduIssue => true
  | .selvedgeDatagram _ _ _ => true
  | .selvedgeWatchdog c => c.toNat < 134
  | .discrepancyTimeout _ => true
  | .ss1TimeExpiry _ => true
  | .stoAfterBrake _ => true
  | .sloFeedbackTimeout _ => true
  | .edmTimeout _ => true
  | .testPulseStart _ => true
  | .testPulseEnd _ _ _ => true
  | .islandStartDone _ => true
  | .islandFault _ => true
  | .islandSafeStateEntry => true
  | .fioDownlinkFrame => true
  | .fioDownlinkReceive _ => true
  | .fioUplinkFrame _ _ => true
  | .fioLinkTimeout => true
  | .outputOverload _ => true
  | .overloadRetry _ => true
  | .readbackMismatch _ => true
  | .fioCommit _ _ => true
  | .fioOutWrite _ _ => true
  | .graceExpiry _ _ => true
  | .faultAck _ _ _ => true
  | .histClear _ _ _ => true
  | .blockResetDone _ us => us.toNat ≤ 200
  | .deferredBlockReset _ => true
  | .quiesceEnd _ => true
  | .regionStopStoRequest => true
  | .clearStop _ => true
  | .safeState _ => true
  | .inject _ => true
  | .aliveToggle => true
  | .temperatureRefresh readings => readings.length == 6
  | .leaveRequest requester cls _ _ duration => requester.toNat < 40 && 1 ≤ cls.toNat && cls.toNat ≤ 8 && duration.toNat ≤ 1000
  | .leaveGrant _ => true
  | .leaveEnd requester _ => requester.toNat < 40
  | .maintRequest _ act => act.toNat < 9
  | .maintRelease _ act => act.toNat < 9
  | .supplyOutOfRange _ => true
  | .supplyFall _ => true
  | .clockLoss _ => true
  | .resetAssert => true
  | .resetRelease _ _ _ _ _ => true
  | .longReset => true
  | .bootLoadDone => true
  | .configurationApply => true
  | .updManifest r => r.payload.length ≤ 8192
  | .updBlock r => r.payload.length ≤ 8192
  | .updStatus r => r.payload.length ≤ 8192
  | .updActivate r => r.payload.length ≤ 8192
  | .activationRequest => true
  | .activationCheck => true
  | .activationReset => true
  | .healthConfirm => true
  | .healthTimeout => true
  | .confirm _ => true
  | .revert _ => true
  | .abortStaging _ => true
  | .newNonce _ => true
  | .softwareReset _ => true
  | .protRequest r => r.payload.length ≤ 8192
  | .protConfirm r => r.payload.length ≤ 8192
  | .protObject r => r.payload.length ≤ 8192
  | .localConfirmation => true
  | .protectionExpiry => true
  | .debugOpen q => q.level.val < 2 || (q.sigA.length == 64 && q.sigB.length == 64)
  | .debugSessionEnd => true
  | .flowOpen r => r.payload.length ≤ 8192
  | .flowClose r => r.payload.length ≤ 8192
  | .echo r => r.payload.length ≤ 8192
  | .regRead r => r.payload.length ≤ 8192
  | .regWrite r => r.payload.length ≤ 8192
  | .boltRead r => r.payload.length ≤ 8192
  | .boltWrite r => r.payload.length ≤ 8192
  | .archRead r => r.payload.length ≤ 8192
  | .axisParamSet r => r.payload.length ≤ 8192
  | .axisParamGet r => r.payload.length ≤ 8192
  | .axisCoefSet r => r.payload.length ≤ 8192
  | .axisCoefGet r => r.payload.length ≤ 8192
  | .groupQueueSet r => r.payload.length ≤ 8192
  | .guardSet r => r.payload.length ≤ 8192
  | .axisCmd r => r.payload.length ≤ 8192
  | .segAppend r => r.payload.length ≤ 8192
  | .groupRate r => r.payload.length ≤ 8192
  | .segStatus r => r.payload.length ≤ 8192
  | .cmpAppend r => r.payload.length ≤ 8192
  | .cmpArm r => r.payload.length ≤ 8192
  | .cmpStatus r => r.payload.length ≤ 8192
  | .wparamRead r => r.payload.length ≤ 8192
  | .wparamWrite r => r.payload.length ≤ 8192
  | .wmbxSend r => r.payload.length ≤ 8192
  | .wmbxFetch r => r.payload.length ≤ 8192
  | .widentify r => r.payload.length ≤ 8192
  | .spoolCtrl r => r.payload.length ≤ 8192
  | .spoolState r => r.payload.length ≤ 8192
  | .spoolRead r => r.payload.length ≤ 8192
  | .maintReq r => r.payload.length ≤ 8192
  | .nonceGet r => r.payload.length ≤ 8192
  | .statusGet r => r.payload.length ≤ 8192
  | .axisStatus r => r.payload.length ≤ 8192
  | .evtSubscribe r => r.payload.length ≤ 8192
  | .histRead r => r.payload.length ≤ 8192
  | .timedFrame r => r.payload.length ≤ 8192
  | .requestComplete _ => true
  | .sqDoorbell _ _ => true
  | .sqEntryFetch _ entry _ _ => entry.length == 32
  | .cqDoorbell _ _ => true
  | .evqDoorbell _ => true
  | .ringPairCtrl _ _ => true
  | .msixCoalesceTimeout _ => true
  | .pcieLinkReset => true
  | .udpCommand _ _ _ _ => true
  | .flowTimeout _ => true
  | .switchFrameForward _ _ => true
  | .addressAgeout _ => true
  | .arpRequest _ _ => true
  | .icmpEcho _ _ => true
  | .illegalInstruction _ => true
  | .clockRestored _ => true
  | .twinLinkLockGained => true
  | .foreignManagementFrame _ _ => true
  | .homingStepTimeout _ => true
  | .hemIdleScrub _ _ _ _ => true
  | .pcieBarAccess tlp => !tlp.write || tlp.enables.length == tlp.bytes.length
  | .hostLinkChange _ => true
  | .ptpGeneralMessage _ _ => true

end Sys2Proof
end

