-- ==== Sys2Proof/Safety.lean ====
section
/-! DEFINITION. The terms in which the statements speak of states: a head that answers and works alone, a command that completes,
what an event may change, and an access that reaches its register. -/

namespace Sys2Proof.Machine

/-! ### The head -/

/-- The head is out of reset and runs (R480). -/
def Awake (s : State) : Prop := s.sec.inReset = false

/-- The head works alone: no twin pair is configured (R348). -/
def Solo (s : State) : Prop := s.twin.pair = false

/-- The head leads a ring: INTEGRATE, IDLE or RUN (R93). -/
def Leads (s : State) : Prop := ringSt s = 4 ∨ ringSt s = 5 ∨ ringSt s = 6

/-- No request of the command protocol and no legacy word waits for its turn: nothing of them goes on when a command ends. -/
def NoRequests (s : State) : Prop := s.host.queued = [] ∧ s.mbx.legacyMode = false

/-! ### Completion -/

/-- The command answers a next state that keeps the rest of the queue and of which P holds. -/
def Completes (c : Instr) (s : State) (P : State → Prop) : Prop :=
  ∃ t, exec c s = .next t ∧ t.pending = s.pending ∧ P t

/-! ### An access that reaches its register -/

/-- A write by a port reaches the register at an address: the head is awake, it works alone or the register is not one that a pair
journals (R358), the debug port has a session of level 2, the block is neither under a block reset nor in a domain that is off, and no
commit or command holds the register back (R41, R49, R462, R509); a baste record whose axis has a stamped bank swap is held back (R227).
-/
structure Reaches (s : State) (port : Port) (a : Nat) (v : Word) : Prop where
  awake : Awake s
  direct : s.twin.pair = true → journaled s a = false
  port : port = .debug → s.pwr.debugLevel = 2
  block : s.flt.resetting.contains (blockOf a) = false
  power : blockOff s (blockOf a) = false
  free : ∀ r i j, regAt a = some (r, i, j) → (holdFlags (blockOf a) r i v).all (fun f => !fbit s f.1 f.2) = true
  swap : ∀ r i j, regAt a = some (r, i, j) → (blockOf a == LOOP && r.off == 0x10000 && s.loop.swapHeld.contains i) = false

/-- A read by a port reaches the register at an address: the debug port has a session (R509). -/
structure Readable (s : State) (port : Port) (a : Nat) : Prop where
  awake : Awake s
  port : port = .debug → s.pwr.debugLevel ≠ 0
  block : s.flt.resetting.contains (blockOf a) = false
  power : blockOff s (blockOf a) = false

/-! ### What an event may change -/

/-- The registers in which events report: the fault groups, the suppressed count, the region stop, and the place and the losses
of the event ring. -/
def reportReg (a : Nat) : Bool :=
  (0xF000 ≤ a % 0x100000 && a % 0x100000 < 0xF0C0) ||
    [Reg.FPM_SUPPRESS_CNT, Reg.FPM_STATUS, Reg.HOST_EVQ_TAIL, Reg.HOST_EVT_LOST_CNT].contains a

/-- From s to t nothing changed but what raising events may change: the fault bookkeeping and its registers, the event ring and
the subscriptions, what is given out, and the stops that a region stop asks for (R455-R460, R464, R531, R536). -/
structure OnlyReports (s t : State) : Prop where
  pending : t.pending = s.pending
  raw : t.raw = s.raw
  mem : t.mem = s.mem
  act : t.act = s.act
  bus : t.bus = s.bus
  cyc : t.cyc = s.cyc
  time : t.time = s.time
  pwr : t.pwr = s.pwr
  ring : t.ring = s.ring
  axes : t.prof = { s.prof with requests := t.prof.requests }
  sched : t.sched = s.sched
  mbx : t.mbx = s.mbx
  twin : t.twin = s.twin
  flows : t.host = { s.host with rings := t.host.rings, subs := t.host.subs }
  hem : t.hem = s.hem
  loop : t.loop = s.loop
  fbc : t.fbc = s.fbc
  acq : t.acq = s.acq
  safe : t.safe = s.safe
  fio : t.fio = s.fio
  sec : t.sec = s.sec
  part : t.part = s.part
  evts : t.evts = s.evts
  evtsPrev : t.evtsPrev = s.evtsPrev
  free : t.free = s.free
  regs : ∀ a, reportReg a = false → rd t a = rd s a
  flt : t.flt = { s.flt with hist := t.flt.hist, suppressed := t.flt.suppressed, marks := t.flt.marks,
                             climbs := t.flt.climbs, stopRaw := t.flt.stopRaw, stoSent := t.flt.stoSent }
  status : ∀ i, i ≠ 0 → fbit t Reg.FPM_STATUS i = fbit s Reg.FPM_STATUS i
  stop : fbit s Reg.FPM_STATUS 0 = true → fbit t Reg.FPM_STATUS 0 = true
  out : ∃ more, t.out = s.out ++ more

/-! ### Motion commands -/

/-- PROF takes a command of a port (R196): nothing is pending, and the port reaches the block. -/
structure CommandFree (s : State) (port : Port) : Prop where
  awake : Awake s
  solo : Solo s
  port : port = .debug → s.pwr.debugLevel = 2
  block : s.flt.resetting.contains PROF = false
  free : fbit s Reg.PROF_CMD_STATUS 0 = false

/-- A command stands pending in PROF with its arguments, and nothing else changed but its registers (R196). -/
structure Posted (s : State) (op index : Nat) (args : List Word) (t : State) : Prop where
  cmd : t.prof = { s.prof with cmd := some (op, index, args.getD 0 (rd s (Reg.PROF_CMD_ARG 0)),
    args.getD 1 (rd s (Reg.PROF_CMD_ARG 1)), rd s (Reg.PROF_CMD_ARG 2), rd s (Reg.PROF_CMD_ARG 3)) }
  busy : fbit t Reg.PROF_CMD_STATUS 0 = true
  opcode : fld t Reg.PROF_CMD_STATUS 15 8 = op
  index : fld t Reg.PROF_CMD_STATUS 23 16 = index
  bus : t.bus.err = false
  regs : ∀ a, a ≠ Reg.PROF_CMD_STATUS → (∀ i, i < args.length → a ≠ Reg.PROF_CMD_ARG i) → rd t a = rd s a
  mem : t.mem = s.mem
  ring : t.ring = s.ring

/-! ### Hem cores -/

/-- A Hem core issues an instruction (R248-R253): it runs a task and is not clock-gated (R34), the word at its pc has no error (R242) and
is that instruction, the encoding admits it, it may stand there, and no prepared task waits to take the core over. -/
structure Issues (s : State) (c : Nat) (i : HemInstr) : Prop where
  awake : Awake s
  running : (hemCore s c).running = true
  woken : asleep s (hemCore s c) = false
  good : (hemCore s c).badProg.contains (hemCore s c).bank.pc.toNat = false
  clean : (hemCore s c).softProg.contains (hemCore s c).bank.pc.toNat = false
  word : (hemCore s c).fetch = hemEncode i
  legal : hemLegal i = true
  slot : ((hemCore s c).bank.slot && noSlot i) = false
  rep : ((hemCore s c).bank.rep.isSome && noRep i) = false
  alone : (hemCore s c).prepared = false

/-- The bank after an instruction that found it as b and whose operation left it as now: control moves on, a load that was in its
delay slot lands, and the load that the instruction starts enters its own (R249, R250, R256, R262). -/
def moved (b now : HemBank) (load : Option (Nat × BitVec 40) := none) (stall : Nat := 0) : HemBank :=
  { (b.advance now).landLoad b.load with
    load := load
    cycles := b.cycles + 1 + stall
    issued := true
    stalled := false }

/-- An instruction of a core completes with its bank as computed from the one before, and nothing but the core's bank and its latency
register changed. -/
def HemCompletes (s : State) (c : Fin 16) (i : Instr) (now : HemBank → HemBank) : Prop :=
  Completes i s fun t => t.hem.cores = tput (fun _ => {}) s.hem.cores c.val
      ((hemCore s c.val).setBank (moved (hemCore s c.val).bank (now (hemCore s c.val).bank))) ∧
    t.mem = s.mem ∧ t.sched = s.sched ∧ t.ring = s.ring ∧ ∀ a, a ≠ Reg.HEM_CORE_LAT_MAX c.val → rd t a = rd s a

/-- A number kept within bounds. -/
def within (lo hi r : Int) : Int := max lo (min hi r)

/-- The exact result of a multiplication: signs by mm, doubled for fr (R243). -/
def productOf (mm : BitVec 2) (fr : BitVec 1) (x y : Half) : Int :=
  (if mm = 0 ∨ mm = 2 then x.toInt else x.toNat) * (if mm = 0 ∨ mm = 3 then y.toInt else y.toNat) * (if fr = 1 then 2 else 1)

/-- The accumulator takes an exact result (R244). -/
def HemBank.takes (b : HemBank) (a : BitVec 1) (r : Int) : HemBank :=
  { b.setAcc a (BitVec.ofInt 40 r) with st := stOr b.st false (r < -2 ^ 39 || 2 ^ 39 ≤ r) }

/-- A data register takes a saturated result (R246). -/
def HemBank.takesSat (b : HemBank) (d : BitVec 3) (r : Int) : HemBank :=
  { b.setD d (BitVec.ofInt 16 (within (-32768) 32767 r)) with
    st := stOr (stNz b.st (within (-32768) 32767 r)) (r < -32768 || 32767 < r) false }

/-- A data register takes a bit pattern (R246). -/
def HemBank.takesBits (b : HemBank) (d : BitVec 3) (v : Half) : HemBank := { b.setD d v with st := stNz b.st v.toInt }

/-- Every byte of every core's data memory, but n bytes of one core from an offset on, is as before. -/
def DataKept (s t : State) (owner offset n : Nat) : Prop :=
  ∀ k o, k ≠ owner ∨ o < offset ∨ offset + n ≤ o →
    tget memDefault (hemCore t k).data o = tget memDefault (hemCore s k).data o

/-- The status keeps that a store saturated (R245). -/
def HemBank.sticky (b : HemBank) (sat : Bool) : HemBank := { b with st := stOr b.st sat false }

/-- A load completes (R239, R249): its register takes the value behind the delay slot; the cluster window costs 4 to 12 cycles. -/
def LoadCompletes (s : State) (c : Fin 16) (i : Instr) (p am : BitVec 2) (off : BitVec 12) (size reg : Nat)
    (now : HemBank → HemBank) : Prop :=
  ∀ x v, hemPlace c.val ((hemCore s c.val).bank.address p am off size).1 size (hemCore s c.val).bank.rep.isSome = .ok x →
    hemRead s x size = .ok v → Completes i s fun t => ∃ k, (if x.window then 4 ≤ k ∧ k ≤ 12 else k = 0) ∧
      (hemCore t c.val).bank = moved (hemCore s c.val).bank (now ((hemCore s c.val).bank.address p am off size).2)
        (some (reg, BitVec.ofInt 40 (sgn (8 * size) v))) k ∧ DataKept s t 0 0 0 ∧ t.mem = s.mem

/-- A store completes (R239, R245): the bytes at its place hold the value, every other byte of every core is as before. -/
def StoreCompletes (s : State) (c : Fin 16) (i : Instr) (p am : BitVec 2) (off : BitVec 12) (size : Nat) (v : HemBank → Int)
    (bound : Int) : Prop :=
  ∀ x, hemPlace c.val ((hemCore s c.val).bank.address p am off size).1 size (hemCore s c.val).bank.rep.isSome = .ok x →
    Completes i s fun t => ∃ k, (if x.window then 4 ≤ k ∧ k ≤ 12 else k = 0) ∧
      (hemCore t c.val).bank = moved (hemCore s c.val).bank
        (((hemCore s c.val).bank.address p am off size).2.sticky
          (v (hemCore s c.val).bank < -bound || bound ≤ v (hemCore s c.val).bank)) none k ∧
      (hemCore t x.owner).bytes x.offset size =
        leBytes size (unsg (8 * size) (within (-bound) (bound - 1) (v (hemCore s c.val).bank))) ∧
      DataKept s t x.owner x.offset size ∧ t.mem = s.mem

/-- The instruction of a core that a command is, for the rows of the Hem instruction set (R254). -/
def hemCommand : Instr → Option (Fin 16 × HemInstr)
  | .nop core => some (core, .nop)
  | .ldi core dd imm => some (core, .ldi dd imm)
  | .mov core dd ds => some (core, .mov dd ds)
  | .ld core dd p am off => some (core, .ld dd p am off)
  | .st core ds p am off => some (core, .st ds p am off)
  | .lda core a p am off => some (core, .lda a p am off)
  | .staH core a p am off => some (core, .staH a p am off)
  | .staW core a p am off => some (core, .staW a p am off)
  | .mvh core dd a => some (core, .mvh dd a)
  | .mva core a ds => some (core, .mva a ds)
  | .clr core a => some (core, .clr a)
  | .ldp core pa imm => some (core, .ldp pa imm)
  | .setb core pa imm => some (core, .setb pa imm)
  | .setl core pa imm => some (core, .setl pa imm)
  | .addp core pa imm => some (core, .addp pa imm)
  | .mpy core a ds dt mm fr => some (core, .mpy a ds dt mm fr)
  | .mac core a ds dt mm fr => some (core, .mac a ds dt mm fr)
  | .msu core a ds dt mm fr => some (core, .msu a ds dt mm fr)
  | .macl core a dd ds dt p am mm fr => some (core, .macl a dd ds dt p am mm fr)
  | .mpyl core a dd ds dt p am mm fr => some (core, .mpyl a dd ds dt p am mm fr)
  | .adda core a => some (core, .adda a)
  | .asl core a sh => some (core, .asl a sh)
  | .sata core a => some (core, .sata a)
  | .add core dd ds dt => some (core, .add dd ds dt)
  | .sub core dd ds dt => some (core, .sub dd ds dt)
  | .addi core dd imm => some (core, .addi dd imm)
  | .and core dd ds dt => some (core, .and dd ds dt)
  | .or core dd ds dt => some (core, .or dd ds dt)
  | .shl core dd ds sh => some (core, .shl dd ds sh)
  | .cmp core ds dt => some (core, .cmp ds dt)
  | .b core cond addr => some (core, .b cond addr)
  | .call core addr => some (core, .call addr)
  | .ret core => some (core, .ret)
  | .rep core n => some (core, .rep n)
  | .rdoD core dd k => some (core, .rdoD dd k)
  | .rdoA core a k => some (core, .rdoA a k)
  | .postD core ds j => some (core, .postD ds j)
  | .postA core a j => some (core, .postA a j)
  | .end_ core => some (core, .end_)
  | .mfs core dd => some (core, .mfs dd)
  | _ => none

/-- The rounded and saturated high half of an accumulator, and whether it saturates (R245). -/
def HighOf (acc : BitVec 40) (v : Half) (sat : Bool) : Prop :=
  (0x7FFFFFFF < acc.toInt + 0x8000 → v = 0x7FFF ∧ sat = true) ∧
  (acc.toInt + 0x8000 < -0x80000000 → v = 0x8000 ∧ sat = true) ∧
  (-0x80000000 ≤ acc.toInt + 0x8000 → acc.toInt + 0x8000 ≤ 0x7FFFFFFF →
    v = (BitVec.ofInt 41 (acc.toInt + 0x8000)).extractLsb' 16 16 ∧ sat = false)

/-- An accumulator limited to 32 bits, and whether the limit acts (R245). -/
def LimitOf (acc : BitVec 40) (v : Word) (sat : Bool) : Prop :=
  (0x7FFFFFFF < acc.toInt → v = 0x7FFFFFFF ∧ sat = true) ∧
  (acc.toInt < -0x80000000 → v = 0x80000000 ∧ sat = true) ∧
  (-0x80000000 ≤ acc.toInt → acc.toInt ≤ 0x7FFFFFFF → v = acc.extractLsb' 0 32 ∧ sat = false)

/-- The load that is about to land in a bank is for none of the registers 0-7 for d, 8 and 9 for a, that a predicate names (R249). -/
def LoadElsewhere (b : HemBank) (here : Nat → Prop) : Prop := ∀ r v, b.load = some (r, v) → r < 10 ∧ ¬ here r

/-- After an operation of core c its accumulator holds an exact result modulo 2^40; ovf is set where the result lies outside the
40 bits, and the rest of st is as before (R244). -/
def AccIs (s : State) (c : Nat) (a : BitVec 1) (exact : Int) (t : State) : Prop :=
  (hemCore t c).bank.acc a = BitVec.ofInt 40 exact ∧ (hemCore t c).bank.st =
    (hemCore s c).bank.st ||| if exact < -2 ^ 39 ∨ 2 ^ 39 - 1 < exact then 8 else 0

/-! ### The twin -/

/-- A head of a pair may send on the twin link (R353). -/
def TwinSends (s : State) : Prop := s.twin.pair = true ∧ fbit s Reg.TWIN_STATE 3 = true ∧ transmits s = true

/-- A frame of the twin is used by a head of a pair (R354). -/
def TwinHears (s : State) (f : List Byte) (fcsOk : Bool) : Prop := s.twin.pair = true ∧ twinOk s f fcsOk = true

/-- A frame with a body goes out on the twin link; one that would delay RETURN waits for the returning shuttle (R353). -/
def FrameGoes (s t : State) (ft : Nat) (body : List Byte) : Prop :=
  if delaysReturn s (58 + body.length) = true then
    t.out = s.out ∧ t.twin.delayed = s.twin.delayed ++ [(ft, body)] ∧ t.twin.seq = s.twin.seq
  else (∃ g, t.out = s.out ++ [.twin g]) ∧ t.twin.delayed = s.twin.delayed ∧ t.twin.seq = (s.twin.seq + 1) % 65536

/-- A TWIN_CTRL action is in progress (R390). -/
def Acting (s : State) (action : Nat) : Prop := fbit s Reg.TWIN_CTRL_STATUS 0 = true ∧ fld s Reg.TWIN_CTRL_STATUS 6 4 = action

/-! ### Host ports -/

/-- An untimed frame leaves a host port, or waits behind a launch time (R148). -/
def EthGoes (s t : State) (port : Fin 2) (f : List Byte) : Prop :=
  if txBlocked s port = true then t.out = s.out ∧ heldTx t port = heldTx s port ++ [f]
  else t.out = s.out ++ [.eth port f] ∧ heldTx t port = heldTx s port

/-! ### Safety connections -/

/-- Bits of a cyclic redundancy check with the reflected Castagnoli polynomial, least significant bit first (R399). -/
def castagnoli : Nat → Nat → Nat
  | 0, c => c
  | n + 1, c => castagnoli n (if c % 2 = 1 then Nat.xor (c / 2) 0x82F63B78 else c / 2)


/-- A datagram of the peer of host-side connection h for a head that takes it (R408, R422). -/
structure FromPeer (s : State) (h ip : Nat) (port : Half) (b : List Byte) : Prop where
  few : h < 8
  alone : Solo s
  host : s.pwr.off.contains .host = false
  length : b.length = 24
  version : byteAt b 0 = 0x10
  number : byteAt b 2 = h
  named : (conn s (126 + h)).named = true
  inUse : (conn s (126 + h)).off = false
  address : (conn s (126 + h)).peerIp = ip
  port : (conn s (126 + h)).peerPort = port.toNat
  runs : islandSt s = 1

/-! ### Requests of the command protocol -/

/-- A request is the next of its flow: its sender owns the flow, or the flow is a legacy queue's, nothing of the head waits, and
nothing stands before it (R517-R520). The head is in host recovery (R485) or not. -/
structure Requests (s : State) (q : Req) (recovery : Bool := false) : Prop where
  awake : Awake s
  boot : (fld s Reg.SEC_STATUS 2 0 == 5) = recovery
  quiet : NoRequests s
  alone : s.host.waiting = []
  flow : match q.ep with
    | .legacy l => q.flow.toNat = 240 + l.val
    | _ => q.flow.toNat < 240 ∧ (flow s q.flow.toNat).owner = some q.ep ∧ (flow s q.flow.toNat).expected = q.seq

/-- The state in which an accepted request is executed: its flow expects the next number, and the request is counted (R519, R544). -/
def accepted (s : State) (q : Req) : State :=
  let t := match q.ep with
    | .legacy _ => s
    | _ => setFlow s q.flow.toNat { flow s q.flow.toNat with last := s.raw, expected := q.seq + 1 }
  bump { t with host := { t.host with nextId := t.host.nextId + 1 } } Reg.HOST_MSG_CNT

/-- A command of the protocol is executed and answered with a status and a payload, its other effect being P (R515, R519). -/
def Replies (i : Instr) (s : State) (q : Req) (op status : Nat) (payload : List Byte) (P : State → Prop) : Prop :=
  ∃ u, exec i s = .next (finish u (waitingOf s op q) status payload) ∧ P u

/-- Its response waits for something (R521), its effect so far being P. -/
def Waits (i : Instr) (s : State) (q : Req) (op : Nat) (wait : WaitFor) (res : Nat) (P : State → Prop) : Prop :=
  Completes i s fun t => t.host.waiting = [{ waitingOf s op q with wait := wait, res := res }] ∧ t.out = s.out ∧ P t

/-- The head works alone and its journal is empty (R348, R364). -/
structure Direct (s : State) : Prop where
  solo : Solo s
  state : twinSt s = 0
  held : s.twin.held = []
  entries : s.twin.entries = []

/-- What registers show, as the words of a response. -/
def shown (s : State) (as : List Nat) : List Byte := as.flatMap fun a => leBytes 4 (look s a).toNat


/-- A block takes accesses: it is not under a block reset and its domain is on (R49, R462). -/
def BlockOn (s : State) (blk : Nat) : Prop := s.flt.resetting.contains blk = false ∧ blockOff s blk = false

/-- The registers whose writes only store by the access type (R10): the plain ones of SYS, RING, FBC, TWIN, FIO, SEC and HOST, and
those of the fault groups but the two that act. -/
def storesOnly (blk off : Nat) : Bool :=
  if 0xF000 ≤ off && off < 0xF0C0 then off != 0xF014 && off != 0xF020
  else
    match blk with
    | 0 => off != 0x14
    | 1 => not ([0x10, 0x18, 0x84, 0x9C].contains off)
    | 8 => off < 0x1000 && off != 0x4 && off != 0x128
    | 10 => off != 0x4 && off != 0xC
    | 12 => off != 0x4 && off != 0x20 && off != 0x28
    | 14 => off != 0x64 && off != 0x70
    | 15 => off < 0x1000
    | _ => false

/-- A request message (R514). -/
def requestMsg (op flow : Nat) (seq : Word) (payload : List Byte) : List Byte :=
  msgHeader 0 op flow payload.length seq 0 0 ++ payload

/-- The state in which a submission entry has been fetched: the ring's head and its outstanding requests advance (R534). -/
def fetchedEntry (s : State) (r : Nat) : State :=
  bumpF (setF s (Reg.HOST_SQ_HEAD r) 11 0 ((fld s (Reg.HOST_SQ_HEAD r) 11 0 + 1) % ringLen s (Reg.HOST_SQ_SIZE r)))
    (Reg.HOST_RING_STATUS r) 31 16

/-- A submission entry in its form (R535). -/
def goodEntry (e : List Byte) : Prop :=
  16 ≤ field e 8 4 ∧ field e 8 4 ≤ 8208 ∧ 16 ≤ field e 24 4 ∧ field e 24 4 ≤ 8208 ∧ field e 0 8 % 4 = 0 ∧ field e 16 8 % 4 = 0 ∧
    field e 12 2 = 0 ∧ field e 28 4 = 0

/-! ### Memory -/

/-- The commands whose effect may reach a memory, or with which the raw counter starts again. Every other command stores to no
memory and lets no time pass. -/
def mayStore : Instr → Bool
  | .registerWrite _ _ _ | .latchInstant | .returnMissing | .shuttleTurnaround _ _ | .timeRateWrite _ _ | .timeCommit _ _
    | .timeStepApplyUnled | .snap _ | .forceHoldover _ | .domainStep _ _ _ | .launchAtTime _ _ _ | .syncInEdge
    | .queuePush _ _ _ | .spoolSample | .spoolDump _ _ | .archiveBurst _ | .hello _ _ | .cycleA _ _ | .return_ _ | .sync _ _
    | .takeoverDecision _ | .islandStartDone _ | .islandFault _ | .islandSafeStateEntry | .fioDownlinkFrame
    | .fioUplinkFrame _ _ | .leaveGrant _ | .resyncPhaseDone | .graceExpiry _ _ | .safeState _ | .temperatureRefresh _ | .supplyOutOfRange _ | .supplyFall _
    | .clockLoss _ | .resetAssert | .resetRelease _ _ _ _ _ | .longReset | .configurationApply | .updManifest _ | .updBlock _
    | .updStatus _ | .updActivate _ | .activationCheck | .activationReset | .healthConfirm | .healthTimeout | .revert _
    | .softwareReset _ | .protRequest _ | .protConfirm _ | .protObject _ | .flowOpen _ | .flowClose _ | .echo _ | .regRead _
    | .regWrite _ | .boltRead _ | .boltWrite _ | .archRead _ | .axisParamSet _ | .axisParamGet _ | .axisCoefSet _
    | .axisCoefGet _ | .groupQueueSet _ | .guardSet _ | .axisCmd _ | .segAppend _ | .groupRate _ | .segStatus _ | .cmpAppend _
    | .cmpArm _ | .cmpStatus _ | .wparamRead _ | .wparamWrite _ | .wmbxSend _ | .wmbxFetch _ | .widentify _ | .spoolCtrl _
    | .spoolState _ | .spoolRead _ | .maintReq _ | .nonceGet _ | .statusGet _ | .axisStatus _ | .evtSubscribe _ | .histRead _
    | .timedFrame _ | .requestComplete _ | .sqEntryFetch _ _ _ _ | .cqDoorbell _ _ | .udpCommand _ _ _ _ | .pcieBarAccess _ => true
  | _ => false

end Sys2Proof.Machine
end

