-- ==== Sys2Proof/Certificates/Slice0/Obligations.lean ====
section
/-! DEFINITION. The statements for the provers: what each command does where it completes, what commands leave alone, and what holds
of every state or encoding. -/

open Sys2Proof Sys2Proof.Machine

/-- A step with a command in front is that command's meaning on the state with the rest of the queue. -/
def Obligations.StepRunsTheFrontCommand : Prop :=
  ∀ (c : Instr) (rest : List Instr) (s : State), s.pending = c :: rest → step s = exec c { s with pending := rest }

/-- With no command waiting, one nanosecond of CK_TIME passes (R129), and a head held in reset stays as it is: the model's choice
(log entry 1). -/
def Obligations.EmptyQueueLetsTimePass : Prop :=
  ∀ s : State, s.pending = [] →
    (Awake s → step s = .next { s with raw := s.raw + 1 }) ∧ (s.sec.inReset = true → step s = .next s)

/-- After reset the registers hold the values of the register summaries, the raw counter is 0, the ring is DOWN, no axis is
enabled and no command waits (R44, R91, R126, R153, R196, R235, R270, R299, R300, R332, R349, R390). -/
def Obligations.ResetValues : Prop :=
  (∀ e ∈ [(Reg.SYS_DEVICE_ID, 0x00002560), (Reg.SYS_STEPPING, 1), (Reg.SYS_ORDER_CODE, 0), (Reg.SYS_CYCLE_PERIOD, 0x1F40),
      (Reg.SYS_CYCLE_ACTIVE, 0x1F40), (Reg.SYS_CYCLE_MARGIN, 0x7FFFFFFF), (Reg.RING_LINK_CFG, 8), (Reg.RING_AGE_CFG, 3),
      (Reg.RING_SVC_CFG, 0x3E8), (Reg.RING_XT_STAMP0, 0xFF), (Reg.RING_START_CFG, 0x00FA0000), (Reg.RING_STATE, 0),
      (Reg.TIME_SRC_CFG, 0x1E0), (Reg.TIME_SYNC_CFG, 0x00017D01), (Reg.TIME_PTP_CFG, 0x00FA0011), (Reg.TIME_STATE, 4),
      (Reg.PROF_BASTE_VMAX, 0x49742400), (Reg.PROF_BASTE_ACC, 0x4B189680), (Reg.PROF_BASTE_DEC, 0x4B189680),
      (Reg.PROF_BASTE_JERK, 0x4E6E6B28), (Reg.PROF_BASTE_QSDEC, 0x4C189680), (Reg.PROF_BASTE_STEPCFG, 0x80),
      (Reg.PROF_BASTE_STILL, 0x41200000), (Reg.HEM_OP_SRC, 0x05800000), (Reg.SCHED_AFF_HOLD, 0xC8641900),
      (Reg.FBC_PIN_CFG, 0xFFFF), (Reg.TWIN_CFG, 0x4022), (Reg.TWIN_ACTIVE_AGE, 0xFFFFFFFF)], rd State.reset e.1 = word e.2) ∧
  (∀ i, i < 4 → rd State.reset (Reg.LOOP_INJ_CFG i) = 0xE000 ∧ rd State.reset (Reg.LOOP_INJ_F0 i) = 0x3F800000 ∧
    rd State.reset (Reg.ACQ_SP_BASE i) = word (0x03000000 + 0x600000 * i) ∧ rd State.reset (Reg.ACQ_SP_LEN i) = 0x600000) ∧
  (∀ c, c < 16 → rd State.reset (Reg.HEM_CORE_BUDGET c) = 0x400) ∧
  (∀ m, m < 64 → rd State.reset (Reg.MBX_CFG m) = 0x03E80000) ∧
  (∀ a, a < 256 → par State.reset a 0 = 0x49742400 ∧ enabled State.reset a = false) ∧
  State.reset.raw = 0 ∧ State.reset.pending = [] ∧ Awake State.reset ∧ ringSt State.reset = 0

/-- The memories have their canonical form after reset. -/
def Obligations.ResetMemoryIsCanonical : Prop := State.reset.mem.wf = true

/-- Every step keeps the canonical form of the memories. -/
def Obligations.MemoryStaysCanonical : Prop :=
  ∀ s t : State, s.mem.wf = true → step s = .next t → t.mem.wf = true

/-- A word stands for an instruction of the Hem cores exactly when it is the encoding of that instruction with a form that the
encoding admits (R252-R255): no bit of an encoding is dropped, and no two instructions share a word. -/
def Obligations.HemEncodingRoundTrip : Prop :=
  ∀ (w : Word) (i : HemInstr), hemDecode w = some i ↔ hemLegal i = true ∧ hemEncode i = w

/-- The frame of the commands that store to no memory: every byte of every memory reads as before, no time passes, and the rest
of the queue is kept. -/
def Obligations.QuietCommandsKeepMemory : Prop :=
  ∀ (c : Instr) (s t : State), mayStore c = false → exec c s = .next t →
    (∀ r a, t.mem.read r a = s.mem.read r a) ∧ t.raw = s.raw ∧ t.pending = s.pending

/-- The frame of the Hem instructions: whatever a core issues, and also where it aborts, no memory of the chip, no program, no
bank of another core, no staged or active register of another block and no state of another block but the scheduler changes
(R237-R239, R253, R254, R263, R264). -/
def Obligations.HemInstructionsStayInTheirBlock : Prop :=
  ∀ (s t : State) (ins : Instr) (c : Fin 16) (i : HemInstr), hemCommand ins = some (c, i) → exec ins s = .next t →
    t.mem = s.mem ∧ t.raw = s.raw ∧ t.act = s.act ∧ t.ring = s.ring ∧ t.time = s.time ∧ t.loop = s.loop ∧ t.mbx = s.mbx ∧
    t.fbc = s.fbc ∧ t.acq = s.acq ∧ t.twin = s.twin ∧ t.safe = s.safe ∧ t.fio = s.fio ∧ t.sec = s.sec ∧ t.pwr = s.pwr ∧
    t.cyc = s.cyc ∧ t.bus = s.bus ∧ t.hem.patch = s.hem.patch ∧ t.sched.ports = s.sched.ports ∧ t.sched.delays = s.sched.delays ∧
    (∀ k, (hemCore t k).prog = (hemCore s k).prog ∧ (hemCore t k).loaded = (hemCore s k).loaded) ∧
    (∀ k, k ≠ c.val → (hemCore t k).bank0 = (hemCore s k).bank0 ∧ (hemCore t k).bank1 = (hemCore s k).bank1 ∧
      (hemCore t k).running = (hemCore s k).running ∧ (hemCore t k).posts = (hemCore s k).posts) ∧
    (∀ a, reportReg a = false → a ≠ Reg.HEM_CORE_LAT_MAX c.val → a ≠ Reg.HEM_CORE_RUN_MAX c.val →
      a ≠ Reg.HEM_CORE_DONE_CNT c.val → a ≠ Reg.HEM_ABORT_CNT → a ≠ Reg.HEM_ABORT_LAST → a ≠ Reg.HEM_ECC_CORR_CNT →
      rd t a = rd s a)

/-- MPY, MAC, MSU, MACL, MPYL, ADDA and ASL (R243, R244): the accumulator takes the exact result modulo 2^40, ovf is set exactly
when that result lies outside -2^39 to 2^39 - 1, and sat stays. -/
def Obligations.AccumulatorsWrapModulo2To40 : Prop :=
  ∀ (s : State) (c : Fin 16) (a : BitVec 1), LoadElsewhere (hemCore s c).bank (· = 8 + a.toNat) →
    (∀ ds dt mm fr, Issues s c (.mpy a ds dt mm fr) → Completes (.mpy c a ds dt mm fr) s (AccIs s c a
      (productOf mm fr ((hemCore s c).bank.dr ds) ((hemCore s c).bank.dr dt)))) ∧
    (∀ ds dt mm fr, Issues s c (.mac a ds dt mm fr) → Completes (.mac c a ds dt mm fr) s (AccIs s c a
      (((hemCore s c).bank.acc a).toInt + productOf mm fr ((hemCore s c).bank.dr ds) ((hemCore s c).bank.dr dt)))) ∧
    (∀ ds dt mm fr, Issues s c (.msu a ds dt mm fr) → Completes (.msu c a ds dt mm fr) s (AccIs s c a
      (((hemCore s c).bank.acc a).toInt - productOf mm fr ((hemCore s c).bank.dr ds) ((hemCore s c).bank.dr dt)))) ∧
    (∀ dd ds dt p am mm fr x v, Issues s c (.macl a dd ds dt p am mm fr) →
      hemPlace c ((hemCore s c).bank.address p am 0 2).1 2 (hemCore s c).bank.rep.isSome = .ok x → hemRead s x 2 = .ok v →
      Completes (.macl c a dd ds dt p am mm fr) s (AccIs s c a
        (((hemCore s c).bank.acc a).toInt + productOf mm fr ((hemCore s c).bank.dr ds) ((hemCore s c).bank.dr dt)))) ∧
    (∀ dd ds dt p am mm fr x v, Issues s c (.mpyl a dd ds dt p am mm fr) →
      hemPlace c ((hemCore s c).bank.address p am 0 2).1 2 (hemCore s c).bank.rep.isSome = .ok x → hemRead s x 2 = .ok v →
      Completes (.mpyl c a dd ds dt p am mm fr) s (AccIs s c a
        (productOf mm fr ((hemCore s c).bank.dr ds) ((hemCore s c).bank.dr dt)))) ∧
    (Issues s c (.adda a) → Completes (.adda c a) s (AccIs s c a
      ((hemCore s c).bank.a0.toInt + (hemCore s c).bank.a1.toInt))) ∧
    (∀ sh, Issues s c (.asl a sh) → 0 ≤ sh.toInt → Completes (.asl c a sh) s (AccIs s c a
      (((hemCore s c).bank.acc a).toInt * 2 ^ sh.toInt.toNat))) ∧
    (∀ sh, Issues s c (.asl a sh) → sh.toInt < 0 → Completes (.asl c a sh) s (AccIs s c a
      (Int.fdiv ((hemCore s c).bank.acc a).toInt (2 ^ (-sh.toInt).toNat)))) ∧
    productOf 0 1 0x8000 0x8000 = 0x80000000

/-- MVH, STA.H, STA.W, SATA and POST from an accumulator (R245). -/
def Obligations.StoresRoundAndSaturate : Prop :=
  ∀ (s : State) (c : Fin 16) (a : BitVec 1), ∃ high satHigh limit satLimit,
    HighOf ((hemCore s c).bank.acc a) high satHigh ∧ LimitOf ((hemCore s c).bank.acc a) limit satLimit ∧
    (∀ dd, Issues s c (.mvh dd a) → LoadElsewhere (hemCore s c).bank (· = dd.toNat) → Completes (.mvh c dd a) s fun t =>
      (hemCore t c).bank.dr dd = high ∧ (hemCore t c).bank.st = (hemCore s c).bank.st ||| if satHigh then 4 else 0) ∧
    (∀ p am off x, Issues s c (.staH a p am off) →
      hemPlace c ((hemCore s c).bank.address p am off 2).1 2 (hemCore s c).bank.rep.isSome = .ok x →
      Completes (.staH c a p am off) s fun t => (hemCore t x.owner).bytes x.offset 2 = leBytes 2 high.toNat ∧
        DataKept s t x.owner x.offset 2 ∧ (hemCore t c).bank.st = (hemCore s c).bank.st ||| if satHigh then 4 else 0) ∧
    (∀ p am off x, Issues s c (.staW a p am off) →
      hemPlace c ((hemCore s c).bank.address p am off 4).1 4 (hemCore s c).bank.rep.isSome = .ok x →
      Completes (.staW c a p am off) s fun t => (hemCore t x.owner).bytes x.offset 4 = leBytes 4 limit.toNat ∧
        DataKept s t x.owner x.offset 4 ∧ (hemCore t c).bank.st = (hemCore s c).bank.st ||| if satLimit then 4 else 0) ∧
    (Issues s c (.sata a) → LoadElsewhere (hemCore s c).bank (· = 8 + a.toNat) → Completes (.sata c a) s fun t =>
      (hemCore t c).bank.acc a = limit.signExtend 40 ∧
        (hemCore t c).bank.st = (hemCore s c).bank.st ||| if satLimit then 4 else 0) ∧
    (∀ j, Issues s c (.postA a j) → (hemCore s c).posts.length < 4 → Completes (.postA c a j) s fun t =>
      (hemCore t c).posts = (hemCore s c).posts ++
          [⟨(hemCore s c).bank.task, (hemCore s c).bank.dests.getD j.toNat 0, limit⟩] ∧
        (hemCore t c).bank.st = (hemCore s c).bank.st ||| if satLimit then 4 else 0)

/-- A host write of a journaled register on the head that holds the journal of a pair is stamped with journal_lead and the next
journal number, and is not applied (R364). -/
def Obligations.HostWritesOfAPairAreStamped : Prop :=
  ∀ (s : State) (port : Port) (a v : Word) (e : JEntry), Awake s → NoRequests s → (∀ f, port ≠ .fw f) → port ≠ .debug →
    port ≠ .island → stamps s = true → refusesWrites s = false → journaled s a.toNat = true →
    (landWrite s port a.toNat v).bus.err = false → enableRefused s a.toNat v = none → s.twin.held = [] →
    (∀ r i j, regAt a.toNat = some (r, i, j) → markFlag (blockOf a.toNat) r i v = none) →
    swapHolds s = false → splitWrite s { kind := 1, target := a, data := leBytes 4 v.toNat } = [e] → e.bytes.length ≤ s.twin.room →
    Completes (.registerWrite port a v) s fun t =>
      t.twin.entries = s.twin.entries ++ [{ e with seq := rd s Reg.TWIN_JSEQ + 1, cycle := s.cyc.count + word (jourLead s) }] ∧
      t.twin.held = [] ∧ rd t Reg.TWIN_JSEQ = rd s Reg.TWIN_JSEQ + 1 ∧ t.bus.err = false ∧ t.mem = s.mem ∧ t.act = s.act ∧
      ∀ b, b ≠ Reg.TWIN_JSEQ → b ≠ Reg.TWIN_JOURNAL_LEVEL → rd t b = rd s b

/-- The check value of a PDU (R399), and the place of its parts (R398): the cyclic redundancy check runs bit by bit, least
significant bit first, with the Castagnoli polynomial in that order, from all ones and complemented at the end. -/
def Obligations.PduCheckValue : Prop :=
  (∀ bs, crc32c bs = Nat.xor (bs.foldl (fun c b => castagnoli 8 (Nat.xor c b.toNat)) 0xFFFFFFFF) 0xFFFFFFFF) ∧
  revBits 32 0x1EDC6F41 = 0x82F63B78 ∧
  crc32c [0x31, 0x32, 0x33, 0x34, 0x35, 0x36, 0x37, 0x38, 0x39] = 0xE3069283 ∧
  ∀ ident data seq flags,
    (makePdu ident data seq flags).length = 16 ∧ slice (makePdu ident data seq flags) 0 8 = leBytes 8 data ∧
    slice (makePdu ident data seq flags) 8 2 = leBytes 2 seq ∧ slice (makePdu ident data seq flags) 10 2 = leBytes 2 flags ∧
    field (makePdu ident data seq flags) 12 4 =
      crc32c (leBytes 4 ident ++ leBytes 2 seq ++ leBytes 2 flags ++ leBytes 8 data) ∧
    pduOk ident (makePdu ident data seq flags) = true

/-- A reading of the calculator (R129), and a change of the effective rate, which never makes machine time jump. -/
def Obligations.RateChangesNeverMakeTimeJump : Prop :=
  (∀ (c : Calc) (x : Nat), c.baseRaw ≤ x → 0 ≤ c.rate → c.read x =
    c.base + (x - c.baseRaw) * 65536 + (x - c.baseRaw) * c.rate.toNat / 65536) ∧
  (∀ (c : Calc) (x : Nat) (d : Int), d = (x : Int) - c.baseRaw →
    0 ≤ (c.base : Int) + d * 65536 + Int.fdiv (d * c.rate) 65536 →
    (c.read x : Int) = c.base + d * 65536 + Int.fdiv (d * c.rate) 65536) ∧
  (∀ (s : State) (r : Int), mtime (setRate s r) = mtime s ∧ (setRate s r).time.main.rate = r ∧
    (setRate s r).time.main.baseRaw = s.raw ∧ rd (setRate s r) Reg.TIME_RATE_ACTIVE = BitVec.ofInt 32 r)

/-- LATCH_INSTANT, LANE_WAKE, PROFILE_LANE_WAKE, REGION_WAKE_DONE, SHUTTLE_LAUNCH, SHUTTLE_RETURN, RETURN_MISSING, SHUTTLE_TURNAROUND,
FRAME_FORWARD (R20, R22, R34, R37, R54, R72, R75, R89, R123). -/
def Obligations.CycleCommandsComplete : Prop :=
  ∀ s : State, Awake s →
    (Completes .latchInstant s fun t => t.cyc.lanesAwake = false ∧ t.cyc.profAwake = false) ∧
    (laneWakeTime s ≤ mtime s → exec .laneWake s = .next { s with
      cyc := { s.cyc with lanesAwake := true }
      hem := { s.hem with cores := s.hem.cores.map fun c => (c.1, { c.2 with gated := false }) } }) ∧
    (nextLatch s ≤ mtime s + 200 * nsU → exec .profileLaneWake s = .next { s with cyc := { s.cyc with profAwake := true } }) ∧
    (s.cyc.wakePending = true → wakeGranted s = true → Completes .regionWakeDone s fun t =>
      t.cyc = { s.cyc with wakePending := false } ∧ t.pwr.off = s.pwr.off.filter (fun d => d != .mot && d != .hem) ∧
        t.mem = s.mem ∧ ∀ a, a ≠ Reg.FPM_RAIL_GRANT 0 → a ≠ Reg.FPM_LEAVE_QLEN →
          (∀ g ∈ s.pwr.granted, a ≠ Reg.FPM_RAIL_GRANT g.rail) → rd t a = rd s a) ∧
    (Leads s → s.ring.launched = false → s.flt.resetting.contains RING = false → leadTime s ≤ mtime s →
      Completes .shuttleLaunch s fun t => t.mem = s.mem ∧ t.raw = s.raw ∧ t.ring.launched = true ∧ t.ring.returned = false ∧
        t.ring.xt = 0 ∧ t.ring.fresh = []) ∧
    (Leads s → s.ring.launched = true → s.ring.returned = false → mtime s ≤ returnDeadline s → ∀ bytes ok,
      Completes (.shuttleReturn bytes ok) s fun t => t.mem = s.mem ∧ t.raw = s.raw ∧ t.ring.returned = true) ∧
    (Leads s → s.ring.launched = true → s.ring.returned = false → returnDeadline s < mtime s →
      Completes .returnMissing s fun t => t.ring.returned = true) ∧
    (ringSt s = 3 → ∀ bytes ok, slice bytes 0 6 = ringDest → beField bytes 12 2 = 0x88B5 → byteAt bytes 14 = 1 →
      Completes (.shuttleTurnaround bytes ok) s fun t => t.ring.forward = bytes.drop 14 ∧
        t.ring.errSeen = (!ok || (s.ring.errSeen &&
          !(decide (field (bytes.drop 14) 34 2 + 28 ≤ (bytes.drop 14).length) && headerOk (bytes.drop 14))))) ∧
    (∀ bytes ok, slice bytes 0 6 = ringDest → beField bytes 12 2 = 0x88B5 → chipSafe s = false →
      exec (.frameForward bytes ok) s = .next { s with
        ring := { s.ring with errSeen := s.ring.errSeen || !ok, heardRaw := s.raw }
        out := s.out ++ [.ring (bytes ++ fcsBytes bytes)] })

/-- LINK_LOCK_GAINED, LINK_LOST, LISTEN_TIMEOUT, CLAIM_SEND, CLAIM_HOLD_EXPIRY, CLAIM, FOREIGN_SHUTTLE, YIELD, RING_STOP,
DEFERRED_WITHDRAW, FOLLOW_SILENCE_TIMEOUT (R93, R97, R101, R102, R103, R120). -/
def Obligations.RingStartCommandsComplete : Prop :=
  ∀ s : State, Awake s →
    (ringSt s = 0 → s.sec.applied = true → ∀ port, (s.ring.lineFound = true → port = s.ring.lineB) →
      Completes (.linkLockGained port) s fun t => ringSt t = 1 ∧ t.ring.lineB = port ∧ t.ring.lineFound = true ∧
        t.mem = s.mem ∧ t.raw = s.raw) ∧
    (s.ring.lineFound = true → ringSt s = 1 ∨ ringSt s = 2 → Completes (.linkLost s.ring.lineB) s fun t =>
      ringSt t = 0 ∧ t.ring = s.ring) ∧
    (s.ring.lineFound = true → ringSt s = 3 → Completes (.linkLost s.ring.lineB) s fun t => ringSt t = 0 ∧
      t.ring = { s.ring with lineLost := true, lastMark := some s.raw } ∧
        fld t Reg.RING_BREAK 7 0 = (if s.ring.farEnd then 0x7F else 0x80) ∧ fbit t Reg.RING_BREAK 31 = true) ∧
    (s.ring.lineFound = true → Leads s → Completes (.linkLost s.ring.lineB) s fun t => ringSt t = ringSt s ∧
      t.ring = { s.ring with lineLost := true, lastMark := some s.raw } ∧
        fld t Reg.RING_BREAK 7 0 = (if s.ring.farEnd then 0x7F else 0x80) ∧ fbit t Reg.RING_BREAK 31 = true) ∧
    (ringSt s = 1 → listenNs s ≤ s.raw - s.ring.listenRaw → Completes .listenTimeout s fun t =>
      ringSt t = 2 ∧ t.ring.claims = 1) ∧
    (ringSt s = 2 → 250000 ≤ s.raw - s.ring.claimRaw → chipSafe s = false → Completes .claimSend s fun t =>
      t.ring.claims = s.ring.claims + 1 ∧ t.ring.claimRaw = s.raw ∧ ringSt t = 2 ∧ ∃ f, t.out = s.out ++ [.ring f]) ∧
    (ringSt s = 2 → 2000000 ≤ s.raw - s.ring.claimFirst → Completes .claimHoldExpiry s fun t => ringSt t = 4 ∧ t.ring.integ = 0 ∧ t.ring.farEnd = false) ∧
    (ringSt s = 1 → ∀ f, mgmtOk s f = true → field (mgmtBody f) 0 4 = s.ring.cfgHash.toNat →
      Completes (.claim f) s fun t =>
        ringSt t = if superior (byteAt f 3 % 8) (field f 4 8) (rank s) (serial s) then 3 else 2) ∧
    (ringSt s = 2 → ∀ f, mgmtOk s f = true → field (mgmtBody f) 0 4 = s.ring.cfgHash.toNat →
      superior (byteAt f 3 % 8) (field f 4 8) (rank s) (serial s) = true →
      Completes (.claim f) s fun t => ringSt t = 3) ∧
    (ringSt s = 1 → ∀ f, Completes (.foreignShuttle f) s fun t => ringSt t = 3) ∧
    (∀ f, mgmtOk s f = true → exec (.yield_ f) s = .next { s with ring := { s.ring with
      heardRaw := s.raw
      yielded := BitVec.ofNat 64 (field (mgmtBody f) 0 8) } }) ∧
    (ringSt s = 3 → ∀ f, mgmtOk s f = true → field f 4 8 % 2 ^ 32 = s.ring.leader.toNat % 2 ^ 32 →
      Completes (.ringStop f) s fun t => ringSt t = 1) ∧
    (Leads s → s.ring.mustWithdraw = true → anyEnabled s = false → Completes .deferredWithdraw s fun t => ringSt t = 1) ∧
    (ringSt s = 3 → listenNs s ≤ s.raw - s.ring.heardRaw → Completes .followSilenceTimeout s fun t => ringSt t = 1)

/-- SYS_COMMIT, RING_COMMIT, XT_OUT, SERVICE_REQUEST_START, SERVICE_TIMEOUT, ENUMERATE, DELAY, INTEGRATION_TIMEOUT, TOPOLOGY_RECHECK,
HEAL, AUTO_HEAL, DELAY_RECAL, RECAL_TIMEOUT, RESTART, FOREIGN_MANAGEMENT_FRAME (R45, R80, R82, R91, R98, R103, R105, R107, R110, R113,
R124, R126). -/
def Obligations.RingCommandsComplete : Prop :=
  ∀ s : State, Awake s →
    (∀ port v, Reaches s port Reg.SYS_BASTE_COMMIT v → wbit v 0 = true → 80 ≤ fld s Reg.SYS_CYCLE_PERIOD 12 0 →
      fld s Reg.SYS_CYCLE_PERIOD 12 0 ≤ 8000 → anyEnabled s = false → cycleValid s (fld s Reg.SYS_CYCLE_PERIOD 12 0) = true →
      exec (.sysCommit port v) s = .next (okBus (setBit s Reg.SYS_BASTE_STATUS 0 true))) ∧
    (∀ port v, Reaches s port Reg.RING_BASTE_COMMIT v → wbit v 0 = true → 1 ≤ fld s Reg.RING_AGE_CFG 2 0 →
      fld s Reg.RING_AGE_CFG 2 0 ≤ 6 → fld s Reg.RING_SVC_CFG 15 0 ≠ 0 →
      exec (.ringCommit port v) s = .next (okBus (setBit s Reg.RING_BASTE_STATUS 0 true))) ∧
    (∀ port v, Reaches s port Reg.RING_XT_OUT v →
      exec (.xtOut port v) s = .next { s with
        bus := { err := false, data := 0 }
        ring := { s.ring with xt := s.ring.xt ||| v.setWidth 16 } }) ∧
    (∀ target code index data i, freeSlot s = some i → slotFor s target.toNat = none →
      (target.toNat = broadcast → broadcastable code.toNat = true) →
      exec (.serviceRequestStart target code index data) s = .next (setSlot
        { s with ring := { s.ring with tag := (s.ring.tag + 1) % 256 } } i
        { req := some ⟨target.toNat, code.toNat, index.toNat, data.take 54, .firmware⟩, tag := s.ring.tag })) ∧
    (∀ i : Fin 16, (slot s i).req.isSome = true → (slot s i).sent = true → actF s Reg.RING_SVC_CFG 15 0 ≤ (slot s i).awaits →
      Completes (.serviceTimeout i) s fun t => slot t i = { idle := true } ∧
        (rd t Reg.RING_SVC_TIMEOUT_CNT).toNat = min ((rd s Reg.RING_SVC_TIMEOUT_CNT).toNat + 1) (2 ^ 32 - 1)) ∧
    (∀ f, ringSt s = 4 → field f 4 8 = serial s → s.ring.integ ≤ 3 → s.ring.enums.length < 3 →
      exec (.enumerate f) s = .next { s with ring := { s.ring with enums := s.ring.enums ++ [slice f 20 3072] } }) ∧
    (∀ f q0 es, ringSt s = 4 → field f 4 8 = serial s → s.ring.delaySets.length < 15 →
      delayEntries s.ring.agreedN s.ring.agreedTwin q0.toNat f = some es →
      exec (.delay f q0) s = .next { s with ring := { s.ring with
        delaySets := s.ring.delaySets ++ [tableOf (es.map fun e => (e.1, e.2.1))]
        tf := tableOf (es.map fun e => (e.1, e.2.2.1))
        tr := tableOf (es.map fun e => (e.1, e.2.2.2)) } }) ∧
    (ringSt s = 4 → 4096 ≤ s.ring.integCycles → Completes .integrationTimeout s fun t => t.ring.integ = 0 ∧ ringSt t = 4 ∧
      (rd t Reg.RING_INTEG_FAIL_CNT).toNat = min ((rd s Reg.RING_INTEG_FAIL_CNT).toNat + 1) (2 ^ 32 - 1)) ∧
    (ringSt s = 4 → s.ring.mismatch = true → 1024 ≤ s.ring.integCycles - s.ring.enumAt → exec .topologyRecheck s = .next { s with
      ring := { s.ring with mismatch := false, integ := 0, enums := [], enumAt := s.ring.integCycles } }) ∧
    (∀ port, Reaches s port Reg.RING_CTRL 1 → fbit s Reg.RING_CTRL_STATUS 0 = false → ringSt s = 5 ∨ ringSt s = 6 →
      s.ring.breakPos ≠ 0 → twinSt s ≠ 5 → s.ring.lineLost = false → s.ring.lockRaw + 10000000 ≤ s.raw →
      Completes (.heal port) s fun t => fld t Reg.RING_CTRL_STATUS 5 4 = 1 ∧
        (fbit t Reg.RING_CTRL_STATUS 0 = true ∧ t.ring = { s.ring with rejoin := [s.ring.breakPos % 128] } ∨
         fbit t Reg.RING_CTRL_STATUS 0 = false ∧ fld t Reg.RING_CTRL_STATUS 3 1 = 4 ∧ t.ring = s.ring)) ∧
    (∀ m, s.ring.lastMark = some m → m + 100000000 ≤ s.raw → wbit s.ring.startCfg 4 = true → s.ring.breakPos ≠ 0 →
      s.ring.lineLost = false → ringSt s = 5 ∨ ringSt s = 6 → exec .autoHeal s = .next { s with
        ring := { s.ring with rejoin := [s.ring.breakPos % 128] } }) ∧
    (∀ port, Reaches s port Reg.RING_CTRL 2 → fbit s Reg.RING_CTRL_STATUS 0 = false → ringSt s = 5 ∨ ringSt s = 6 →
      (holders s).all (compat 4) = true → Completes (.delayRecal port) s fun t =>
        t.ring.recal = some { start := s.cyc.count } ∧ fbit t Reg.RING_CTRL_STATUS 0 = true ∧
          fld t Reg.RING_CTRL_STATUS 5 4 = 2 ∧ fbit t Reg.FPM_MAINT_STATUS 4 = true) ∧
    (∀ rc, s.ring.recal = some rc → 4096 ≤ (s.cyc.count - rc.start).toNat →
      Completes .recalTimeout s fun t => t.ring.recal = none ∧ fbit t Reg.FPM_MAINT_STATUS 4 = false) ∧
    (∀ port, Reaches s port Reg.RING_CTRL 4 → fbit s Reg.RING_CTRL_STATUS 0 = false → anyEnabled s = false →
      Completes (.restart port) s fun t => fld t Reg.RING_CTRL_STATUS 5 4 = 3 ∧
        fld t Reg.RING_CTRL_STATUS 3 1 = 1 ∧ t.ring.startCfg = rd s Reg.RING_START_CFG ∧ t.ring.linkCfg = rd s Reg.RING_LINK_CFG ∧
        ringSt t = if fbit s Reg.RING_LINK_STATUS (lockBit t.ring.lineB) then 1 else 0) ∧
    (∀ f q, mgmtOk s f = true → leads s = false → byteAt f 0 = 3 → byteAt f 2 = 0 → 3092 ≤ f.length → chipSafe s = false →
      ∃ g, exec (.foreignManagementFrame f q) s = .next { s with
        ring := { s.ring with heardRaw := s.raw }
        out := s.out ++ [.ring g] } ∧ slice g (14 + 20 + 24 * 127) 24 = ownEntry s true)

/-- The commands of machine time, TIME_RATE_WRITE to PTP_GENERAL_MESSAGE (R130-R152). -/
def Obligations.TimeCommandsComplete : Prop :=
  ∀ s : State, Awake s →
    (∀ port v, Reaches s port Reg.TIME_RATE v → ringSt s ≠ 3 → Completes (.timeRateWrite port v) s fun t =>
      rd t Reg.TIME_RATE = BitVec.ofInt 32 (clampI (-rateLimit) rateLimit v.toInt) ∧ t.time.rateRaw = s.raw ∧ t.mem = s.mem) ∧
    (∀ port v, Reaches s port Reg.TIME_RATE v → ringSt s = 3 →
      exec (.timeRateWrite port v) s = .next (okBus { s with time := { s.time with heldRate := some v } })) ∧
    (ringSt s = 6 → timeSt s ≠ 3 → s.time.slewRaw + 1000000000 ≤ s.raw * 2147 →
      (rd s Reg.TIME_RATE_ACTIVE).toInt < (rd s Reg.TIME_RATE).toInt → Completes .rateSlewStep s fun t =>
        rd t Reg.TIME_RATE_ACTIVE = rd s Reg.TIME_RATE_ACTIVE + 1 ∧ ∀ a, a ≠ Reg.TIME_RATE_ACTIVE → rd t a = rd s a) ∧
    (∀ port v, Reaches s port Reg.TIME_BASTE_COMMIT v → wbit v 0 = true → timeCommitResult s = 1 →
      Completes (.timeCommit port v) s fun t => fbit t Reg.TIME_BASTE_STATUS 0 = true ∧ rd t Reg.TIME_STEP_LO = 0 ∧
        rd t Reg.TIME_STEP_HI = 0 ∧ t.time.carried = (if s.time.stepWritten then some (stagedStep s) else none)) ∧
    (ringSt s ≠ 3 → leads s = false → fbit s Reg.TIME_BASTE_STATUS 0 = true → s.time.commitRaw + 1000 ≤ s.raw →
      Completes .timeStepApplyUnled s fun t =>
      fbit t Reg.TIME_BASTE_STATUS 0 = false ∧ fld t Reg.TIME_BASTE_STATUS 3 1 = 1 ∧ t.time.carried = none ∧ t.mem = s.mem) ∧
    (∀ port, Reaches s port Reg.TIME_CTRL 1 → Completes (.snap port) s fun t =>
      rd t Reg.TIME_SNAP_NS = word (nsOf (mtime s)) ∧ rd t Reg.TIME_SNAP_FRAC = word (fracOf (mtime s)) ∧
        rd t Reg.TIME_SNAP_S_LO = word (secOf (mtime s)) ∧ t.time = s.time ∧ t.mem = s.mem) ∧
    (∀ port, Reaches s port Reg.TIME_CTRL 2 → timeSt s = 2 → Completes (.forceHoldover port) s fun t =>
      timeSt t = 3 ∧ t.time.holdRaw = s.raw) ∧
    (timeSt s = 2 → fld s Reg.TIME_STATE 5 4 = 1 →
      s.time.rateRaw + actF s Reg.TIME_SRC_CFG 11 4 * 100000000 ≤ s.raw → Completes .holdoverTimeout s fun t =>
        timeSt t = 3 ∧ t.time.holdRaw = s.raw) ∧
    (s.time.main.read s.raw + 4 * nsU < (domc s 0).read s.raw ∨ (domc s 0).read s.raw + 4 * nsU < s.time.main.read s.raw →
      exec .calculatorCompare s = .next { event s TIME 5 with pending := s.pending }) ∧
    (∀ port k v, Reaches s port (Reg.TIME_DOM_STEP_HI k.val) v → k ≠ 0 → exec (.domainStep port k v) s = .next (okBus
      (setDom s k ((domc s k).step s.raw (sgn 64 ((rd s (Reg.TIME_DOM_STEP_LO k)).toNat + v.toNat * 2 ^ 32)))))) ∧
    (∀ port v, Reaches s port (Reg.TIME_DOM_STEP_HI 0) v → exec (.domainStep port 0 v) s = .next (okBus s)) ∧
    (∀ eth f o ck, ptpAt f = some (o, ck) → actF s Reg.TIME_PTP_CFG 1 0 = 1 → byteAt f (o + 4) = actF s Reg.TIME_PTP_CFG 15 8 →
      (byteAt f o % 16 = 0 → exec (.ptpEventRx eth f) s = .next { s with
        time := { s.time with syncPort := eth }
        out := s.out ++ [.ptp eth (mtime s) f] }) ∧
      (byteAt f o % 16 = 1 → fbit s Reg.TIME_STATE 6 = true → exec (.ptpEventRx eth f) s =
        .next (delayResp { s with out := s.out ++ [.ptp eth (mtime s) f] } eth f o (mtime s))) ∧
      (byteAt f o % 16 ≠ 0 → byteAt f o % 16 ≠ 1 ∨ fbit s Reg.TIME_STATE 6 = false →
        exec (.ptpEventRx eth f) s = .next { s with out := s.out ++ [.ptp eth (mtime s) f] })) ∧
    (∀ eth f r, (ptpAt f).isSome = true → actF s Reg.TIME_PTP_CFG 1 0 = 1 → actF s Reg.TIME_PTP_CFG 4 4 = 1 →
      txBlocked s (if eth = 0 then 1 else 0) = false →
      Completes (.transparentClockForward eth f r) s fun t =>
        t.out = s.out ++ [.eth (if eth = 0 then 1 else 0) (addCorrection f r.toNat)] ∧
          (rd t Reg.TIME_TC_RES_MAX).toNat = max (rd s Reg.TIME_TC_RES_MAX).toNat (min (r.toNat / nsU) 0xFFFFFFFF)) ∧
    (∀ (eth : Fin 2) f o ck, ptpAt f = some (o, ck) → fbit s Reg.TIME_STATE 6 = true → ptpTakes s eth ck.isSome = true →
      txBlocked s eth = false → exec (.syncSend eth f) s = .next { s with out := s.out ++ [.eth eth (addCorrection
        (patch f (o + 34) (beBytes 6 (secOf (mtime s)) ++ beBytes 4 (nsOf (mtime s)))) (fracOf (mtime s)))] }) ∧
    (∀ eth queue err e rest, tqueue s eth.val queue.val = e :: rest → e.req = none → NoRequests s → e.time ≤ mtime s →
      mtime s ≤ e.time + 1000 * nsU → goesFirst s eth.val queue.val e = false →
      Completes (.launchAtTime eth queue err) s fun t => tqueue t eth.val queue.val = rest ∧
        ∃ more, t.out = s.out ++ [.timed eth (if e.ptp = 1 then addCorrection e.frame err.toInt else e.frame) err] ++ more ∧
          (heldTx s eth.val = [] → more = [])) ∧
    (leads s = true → chipSafe s = false → actF s Reg.TIME_SYNC_CFG 1 0 = 2 →
      s.time.syncEdge ≠ some (secOf (mtime s) * secU) → exec .syncOutEdge s = .next { s with
        time := { s.time with syncEdge := some (secOf (mtime s) * secU) }
        out := s.out ++ [.pin "SYNC_OUT" true (secOf (mtime s) * secU),
          .pin "SYNC_OUT" false (secOf (mtime s) * secU + actF s Reg.TIME_SYNC_CFG 15 8 * 8 * nsU)] }) ∧
    (leads s = true → chipSafe s = false → actF s Reg.TIME_SYNC_CFG 1 0 = 1 → actF s Reg.TIME_SYNC_CFG 31 16 ≠ 0 →
      s.cyc.count.toNat % actF s Reg.TIME_SYNC_CFG 31 16 = 0 → s.raw = s.cyc.instant → s.time.syncEdge ≠ some s.cyc.latch →
      actF s Reg.TIME_SYNC_CFG 15 8 * 8 < actF s Reg.TIME_SYNC_CFG 31 16 * cycleNs s → exec .syncOutEdge s = .next { s with
        time := { s.time with syncEdge := some s.cyc.latch }
        out := s.out ++ [.pin "SYNC_OUT" true s.cyc.latch,
          .pin "SYNC_OUT" false (s.cyc.latch + actF s Reg.TIME_SYNC_CFG 15 8 * 8 * nsU)] }) ∧
    (actF s Reg.TIME_SYNC_CFG 3 2 = 1 → Completes .syncInEdge s fun t =>
      rd t Reg.TIME_SYNCIN_TS_NS = word (nsOf (mtime s)) ∧ t.time = { s.time with misses := 0 } ∧ t.mem = s.mem) ∧
    (actF s Reg.TIME_SYNC_CFG 3 2 = 2 → actF s Reg.TIME_SRC_CFG 1 0 = 2 → Completes .syncInMissing s fun t =>
      t.time.misses = s.time.misses + 1 ∧
        (rd t Reg.TIME_SYNCIN_MISS_CNT).toNat = min ((rd s Reg.TIME_SYNCIN_MISS_CNT).toNat + 1) (2 ^ 32 - 1) ∧
        (2 ≤ s.time.misses → fld s Reg.TIME_STATE 5 4 = 2 → timeSt s = 2 → timeSt t = 3)) ∧
    (∀ (eth : Fin 2) f o ck, ptpAt f = some (o, ck) → ptpTakes s eth ck.isSome = true →
      Completes (.ptpGeneralMessage eth f) s fun t =>
        t.out = s.out ++ [.ptp eth (mtime s) f] ∧ (∀ a, a ≠ Reg.TIME_STATE → rd t a = rd s a) ∧
        fbit t Reg.TIME_STATE 6 =
          if byteAt f o % 16 = 0xB ∧ byteAt f (o + 4) = actF s Reg.TIME_PTP_CFG 15 8 then
            !better (announceSet f o) (ownSet s) && actF s Reg.TIME_PTP_CFG 2 2 != 1
          else fbit s Reg.TIME_STATE 6)

/-- MOVE_ABS, MOVE_REL, JOG, STOP, QUICK_STOP, FOLLOW, ENABLE, DISABLE, SET_REF, CLEAR_GUARD, STREAM_START, GROUP_STOP, GROUP_QSTOP and
FLUSH (R157-R189, R196). -/
def Obligations.MotionCommandsArePosted : Prop :=
  ∀ (s : State) (port : Port), CommandFree s port → ∀ (ix : Byte) (x : Long) (w : Word),
    Completes (.enable port ix) s (Posted s 7 ix.toNat []) ∧
    (blockOff s PROF = false →
    Completes (.moveAbs port ix x) s (Posted s 1 ix.toNat [lowWord x, highWord x]) ∧
    Completes (.moveRel port ix x) s (Posted s 2 ix.toNat [lowWord x, highWord x]) ∧
    Completes (.jog port ix w) s (Posted s 3 ix.toNat [w]) ∧
    Completes (.stop port ix) s (Posted s 4 ix.toNat []) ∧
    Completes (.quickStop port ix) s (Posted s 5 ix.toNat []) ∧
    Completes (.follow port ix) s (Posted s 6 ix.toNat []) ∧
    Completes (.disable port ix) s (Posted s 8 ix.toNat []) ∧
    Completes (.setRef port ix x) s (Posted s 9 ix.toNat [lowWord x, highWord x]) ∧
    Completes (.clearGuard port ix) s (Posted s 10 ix.toNat []) ∧
    Completes (.streamStart port ix) s (Posted s 16 ix.toNat []) ∧
    Completes (.groupStop port ix) s (Posted s 17 ix.toNat []) ∧
    Completes (.groupQstop port ix) s (Posted s 18 ix.toNat []) ∧
    Completes (.flush port ix) s (Posted s 19 ix.toNat []))

/-- PARAM_COMMIT, PARAM_LOAD, PHASE_RESTORE_RESPONSE, HOMING_STEP_TIMEOUT (R164, R168, R169, R193, R495). -/
def Obligations.ProfileCommandsComplete : Prop :=
  ∀ s : State, Awake s →
    (∀ port axis now, Reaches s port Reg.PROF_BASTE_COMMIT (commitWord axis now) →
      Completes (.paramCommit port axis now) s fun t => t.prof = { s.prof with commit := some (axis.toNat, now) } ∧
        fbit t Reg.PROF_BASTE_STATUS 0 = true ∧ fld t Reg.PROF_BASTE_STATUS 15 8 = axis.toNat ∧
        ∀ a, a ≠ Reg.PROF_BASTE_STATUS → rd t a = rd s a) ∧
    (∀ port axis, Reaches s port Reg.PROF_BASTE_COMMIT (loadWord axis) → Completes (.paramLoad port axis) s fun t =>
      (∀ i, i < 16 → rd t (Reg.PROF_BASTE_VMAX + 4 * i) = actv s (Reg.PROF_AX_PARAM axis.toNat i)) ∧
        fld t Reg.PROF_BASTE_STATUS 3 1 = 5 ∧ t.prof = s.prof) ∧
    (∀ (axis result : Byte) data i q, i < 16 → (slot s i).req = some q → q.origin = .phase axis.toNat → (slot s i).sent = true →
      (∀ j p, j < i → (slot s j).req = some p → p.origin ≠ .phase axis.toNat) → s.ring.done = [] → result ≠ 0 →
      Completes (.phaseRestoreResponse axis result data) s fun t =>
        slot t i = {} ∧ t.ring.done = [] ∧ (Machine.axis t axis.toNat).referenced = false) ∧
    (∀ (a : Byte) k h b, s.sec.running.find? (fun e => e.1 == a.toNat) = some (k, h) →
      homingStep (tget (fun _ => []) s.sec.homing a.toNat) h.step = some b → h.issued = true →
      h.since + field b 20 4 * 1000000 ≤ s.raw → Completes (.homingStepTimeout a) s fun t =>
        t.prof = { s.prof with requests := s.prof.requests ++ [.quick a.toNat] } ∧
          t.sec.running = s.sec.running.filter fun e => e.1 != a.toNat)

/-- LOOP_SAMPLE, LOOP_OUTPUT_STAGE, COEF_COMMIT, COEF_LOAD, COEF_COMMIT_APPLY, BANK_SWAP, BANK_SWAP_APPLY, COPY_BACK_DONE,
INJECTOR_START, INJECTOR_STOP, INJECTOR_END (R198, R206, R211, R224, R226, R230, R231, R233). -/
def Obligations.LoopCommandsComplete : Prop :=
  ∀ s : State, Awake s →
    (∀ (lane : Fin 16) a, s.ring.late = [] → s.ring.waiting = [a] → a % 16 = lane.val → s.ring.launched = true →
      lanesReady s = true → s.flt.cellsOff.contains (LOOP, lane.val) = false → laneOp s lane.val = none → enabled s a = false →
      (tget (fun _ => none) s.ring.replace a : Option Half) = none → Completes (.loopSample ⟨lane, []⟩) s fun t => t.ring.waiting = [] ∧ t.ring.fresh.contains a = true ∧
        (tget (fun _ => {}) t.ring.image a : OutRec) =
          ⟨BitVec.ofInt 64 (axis s a).sp2.pos, 0, 0, control 0 false (recMode (wbits (coef s a 0) 2 0)) 0⟩ ∧ t.mem = s.mem) ∧
    (∀ (lane : Fin 16) a, s.ring.late = [] → s.ring.waiting = [a] → a % 16 = lane.val → s.ring.launched = true →
      lanesReady s = true → s.flt.cellsOff.contains (LOOP, lane.val) = false → laneOp s lane.val = none → enabled s a = true →
      injection s a = none → isStepper s a = false → wbits (coef s a 0) 2 0 ≤ 3 → wbit (coef s a 0) 6 = false →
      Completes (.loopSample ⟨lane, []⟩) s fun t => t.ring.waiting = [] ∧ t.ring.fresh.contains a = true ∧
        (tget (fun _ => {}) t.ring.image a : OutRec).pos = BitVec.ofInt 64 (axis s a).sp2.pos ∧
        (tget (fun _ => {}) t.ring.image a : OutRec).slope = (slopeOf (axis s a).sp2.vel).1 ∧
        (bits (tget (fun _ => {}) t.ring.image a : OutRec).control.toNat 2 0 = 0 ∨
          (tget (fun _ => {}) t.ring.image a : OutRec).control = control 7 false (recMode (wbits (coef s a 0) 2 0)) 0) ∧
        t.mem = s.mem) ∧
    (∀ (lane : Fin 16) (w : CoefWrite) t,
      (w.before.val ≤ w.word.val / 32 → Reaches s w.port (Reg.LOOP_AX_COEF w.axis.toNat w.word) w.value →
        exec (.loopSample ⟨lane, [w]⟩) s =
          exec (.loopSample ⟨lane, []⟩) (hostWrite s w.port (Reg.LOOP_AX_COEF w.axis.toNat w.word) w.value)) ∧
      (w.word.val / 32 < w.before.val → exec (.loopSample ⟨lane, []⟩) s = .next t →
        Reaches t w.port (Reg.LOOP_AX_COEF w.axis.toNat w.word) w.value →
        exec (.loopSample ⟨lane, [w]⟩) s = .next (hostWrite t w.port (Reg.LOOP_AX_COEF w.axis.toNat w.word) w.value))) ∧
    (∀ (a : Byte) r cb lo hi h, (loopAx s a.toNat).hem = some (r, cb, lo, hi) →
      (tget (fun _ => none) s.loop.results a.toNat : Option Half) = some h →
      bit (loopAx s a.toNat).flags 6 = false → Completes (.loopOutputStage a) s fun t => (loopAx t a.toNat).hem = none ∧
        (tget (fun _ => none) t.loop.results a.toNat : Option Half) = none ∧
        (tget (fun _ => {}) t.ring.image a.toNat : OutRec).pos = r.pos ∧ t.ring.fresh.contains a.toNat = true) ∧
    (∀ port (axis : Byte) clear, Reaches s port Reg.LOOP_BASTE_COMMIT (word (axis.toNat + flag clear * 512)) →
      laneOp s (axis.toNat % 16) = none → configured s axis.toNat = true →
      Completes (.coefCommit port axis clear) s fun t => laneOp t (axis.toNat % 16) = some ⟨0, axis.toNat, clear, false⟩ ∧
        fbit t Reg.LOOP_BASTE_STATUS (axis.toNat % 16) = true ∧ ∀ a, a ≠ Reg.LOOP_BASTE_STATUS → rd t a = rd s a) ∧
    (∀ port (axis : Byte), Reaches s port Reg.LOOP_BASTE_COMMIT (word (axis.toNat + 256)) →
      laneOp s (axis.toNat % 16) = none → configured s axis.toNat = true → Completes (.coefLoad port axis) s fun t =>
        (∀ i, i < 128 → rd t (Reg.LOOP_LANE_BASTE (axis.toNat % 16) i) = coef s axis.toNat i) ∧
          fld t Reg.LOOP_BASTE_STATUS 18 16 = 5 ∧ fld t Reg.LOOP_BASTE_STATUS 31 24 = axis.toNat) ∧
    (∀ (lane : Fin 16) o, laneOp s lane.val = some o → o.kind = 0 →
      coefCheck s o.axis (fun i => rd s (Reg.LOOP_LANE_BASTE lane.val i)) = 1 → Completes (.coefCommitApply lane) s fun t =>
        (∀ i, i < 128 → coef t o.axis i = rd s (Reg.LOOP_LANE_BASTE lane.val i)) ∧ laneOp t lane.val = none ∧
          fld t Reg.LOOP_BASTE_STATUS 18 16 = 1) ∧
    (∀ port (axis : Byte) cb, Reaches s port Reg.LOOP_BANK_SWAP (word (axis.toNat + flag cb * 256)) → doubleBank s = true →
      laneOp s (axis.toNat % 16) = none → configured s axis.toNat = true → Completes (.bankSwap port axis cb) s fun t =>
        laneOp t (axis.toNat % 16) = some ⟨2, axis.toNat, false, cb⟩ ∧ fbit t Reg.LOOP_BANK_STATUS (axis.toNat % 16) = true) ∧
    (∀ (lane : Fin 16) o, laneOp s lane.val = some o → o.kind = 2 → doubleBank s = true →
      coefCheck s o.axis (bankWord s (!activeBank s o.axis) o.axis) = 1 → Completes (.bankSwapApply lane) s fun t =>
        activeBank t o.axis = !activeBank s o.axis ∧
          laneOp t lane.val = if o.copyBack then some { o with kind := 3 } else none) ∧
    (∀ (lane : Fin 16) o, laneOp s lane.val = some o → o.kind = 3 → Completes (.copyBackDone lane) s fun t =>
      (∀ i, i < 128 → bankWord t (!activeBank s o.axis) o.axis i = coef s o.axis i) ∧ laneOp t lane.val = none ∧
        fld t Reg.LOOP_BANK_STATUS 18 16 = 2) ∧
    (∀ port (i : Fin 4), Reaches s port (Reg.LOOP_INJ_CTRL i.val) 1 →
      (∀ j, j < 4 → fld s (Reg.LOOP_INJ_STATUS j) 1 0 ≠ 1 ∧ fld s (Reg.LOOP_INJ_STATUS j) 1 0 ≠ 2) →
      enabled s (fld s (Reg.LOOP_INJ_CFG i.val) 7 0) = true →
      injPoint (wbits (coef s (fld s (Reg.LOOP_INJ_CFG i.val) 7 0) 0) 2 0) (fld s (Reg.LOOP_INJ_CFG i.val) 9 8) = true →
      injValid s i.val = true → Completes (.injectorStart port i) s fun t =>
        fld t (Reg.LOOP_INJ_STATUS i.val) 1 0 = 1 ∧ fld t (Reg.LOOP_INJ_STATUS i.val) 6 4 = 1 ∧ injector t i.val = {}) ∧
    (∀ port (i : Fin 4), Reaches s port (Reg.LOOP_INJ_CTRL i.val) 2 →
      fld s (Reg.LOOP_INJ_STATUS i.val) 1 0 = 1 ∨ fld s (Reg.LOOP_INJ_STATUS i.val) 1 0 = 2 →
      Completes (.injectorStop port i) s fun t => fld t (Reg.LOOP_INJ_STATUS i.val) 1 0 = 3 ∧ injector t i.val = {}) ∧
    (∀ i : Fin 4, fld s (Reg.LOOP_INJ_STATUS i.val) 1 0 = 2 → wbits (rd s (Reg.LOOP_INJ_CFG i.val)) 12 10 = 2 →
      (rd s (Reg.LOOP_INJ_LEN i.val)).toNat ≤ (injector s i.val).k → Completes (.injectorEnd i) s fun t =>
        fld t (Reg.LOOP_INJ_STATUS i.val) 1 0 = 0 ∧ injector t i.val = {})

/-- NOP, LDI, MOV, MVH, MVA, CLR, LDP, SETB, SETL, ADDP, SATA, RDO and MFS (R245-R248, R254). -/
def Obligations.HemMovesComplete : Prop :=
  ∀ (s : State) (c : Fin 16),
    (Issues s c .nop → HemCompletes s c (.nop c) id) ∧
    (∀ dd imm, Issues s c (.ldi dd imm) → HemCompletes s c (.ldi c dd imm) fun b => b.setD dd imm) ∧
    (∀ dd ds, Issues s c (.mov dd ds) → HemCompletes s c (.mov c dd ds) fun b => b.setD dd (b.dr ds)) ∧
    (∀ dd a, Issues s c (.mvh dd a) → HemCompletes s c (.mvh c dd a) fun b =>
      { b.setD dd (BitVec.ofInt 16 (within (-32768) 32767 (((b.acc a).toInt + 0x8000) / 65536))) with
        st := stOr b.st (((b.acc a).toInt + 0x8000) / 65536 < -32768 || 32767 < ((b.acc a).toInt + 0x8000) / 65536) false }) ∧
    (∀ a ds, Issues s c (.mva a ds) → HemCompletes s c (.mva c a ds) fun b => b.setAcc a (BitVec.ofInt 40 ((b.dr ds).toInt * 65536))) ∧
    (∀ a, Issues s c (.clr a) → HemCompletes s c (.clr c a) fun b => b.setAcc a 0) ∧
    (∀ p imm, Issues s c (.ldp p imm) → HemCompletes s c (.ldp c p imm) fun b => b.setP p imm) ∧
    (∀ p imm, Issues s c (.setb p imm) → HemCompletes s c (.setb c p imm) fun b => b.setB p imm) ∧
    (∀ p imm, Issues s c (.setl p imm) → imm.toNat % 2 = 0 → imm.toNat ≤ 32768 →
      HemCompletes s c (.setl c p imm) fun b => b.setL p imm) ∧
    (∀ p imm, Issues s c (.addp p imm) → HemCompletes s c (.addp c p imm) fun b =>
      b.setP p (wrapP (b.br p) (b.lr p) ((b.pr p).toNat + imm.toInt))) ∧
    (∀ a, Issues s c (.sata a) → HemCompletes s c (.sata c a) fun b =>
      { b.setAcc a (BitVec.ofInt 40 (within (-2 ^ 31) (2 ^ 31 - 1) (b.acc a).toInt)) with
        st := stOr b.st ((b.acc a).toInt < -2 ^ 31 || 2 ^ 31 ≤ (b.acc a).toInt) false }) ∧
    (∀ dd k, Issues s c (.rdoD dd k) → HemCompletes s c (.rdoD c dd k) fun b => b.setD dd ((b.op k).setWidth 16)) ∧
    (∀ a k, Issues s c (.rdoA a k) → HemCompletes s c (.rdoA c a k) fun b => b.setAcc a (BitVec.ofInt 40 (b.op k).toInt)) ∧
    (∀ dd, Issues s c (.mfs dd) → HemCompletes s c (.mfs c dd) fun b =>
      { b.setD dd (b.st.setWidth 16) with st := b.st &&& 3 })

/-- MPY, MAC, MSU, ADDA, ASL, ADD, SUB, ADDI, AND, OR, SHL and CMP (R243, R244, R246, R254). -/
def Obligations.HemArithmeticCompletes : Prop :=
  ∀ (s : State) (c : Fin 16),
    (∀ a ds dt mm fr, Issues s c (.mpy a ds dt mm fr) → HemCompletes s c (.mpy c a ds dt mm fr) fun b =>
      b.takes a (productOf mm fr (b.dr ds) (b.dr dt))) ∧
    (∀ a ds dt mm fr, Issues s c (.mac a ds dt mm fr) → HemCompletes s c (.mac c a ds dt mm fr) fun b =>
      b.takes a ((b.acc a).toInt + productOf mm fr (b.dr ds) (b.dr dt))) ∧
    (∀ a ds dt mm fr, Issues s c (.msu a ds dt mm fr) → HemCompletes s c (.msu c a ds dt mm fr) fun b =>
      b.takes a ((b.acc a).toInt - productOf mm fr (b.dr ds) (b.dr dt))) ∧
    (∀ a, Issues s c (.adda a) → HemCompletes s c (.adda c a) fun b => b.takes a (b.a0.toInt + b.a1.toInt)) ∧
    (∀ a sh, Issues s c (.asl a sh) → HemCompletes s c (.asl c a sh) fun b => b.takes a
      (if 0 ≤ sh.toInt then (b.acc a).toInt * 2 ^ sh.toInt.toNat else Int.fdiv (b.acc a).toInt (2 ^ sh.toInt.natAbs))) ∧
    (∀ dd ds dt, Issues s c (.add dd ds dt) → HemCompletes s c (.add c dd ds dt) fun b =>
      b.takesSat dd ((b.dr ds).toInt + (b.dr dt).toInt)) ∧
    (∀ dd ds dt, Issues s c (.sub dd ds dt) → HemCompletes s c (.sub c dd ds dt) fun b =>
      b.takesSat dd ((b.dr ds).toInt - (b.dr dt).toInt)) ∧
    (∀ dd imm, Issues s c (.addi dd imm) → HemCompletes s c (.addi c dd imm) fun b =>
      b.takesSat dd ((b.dr dd).toInt + imm.toInt)) ∧
    (∀ dd ds dt, Issues s c (.and dd ds dt) → HemCompletes s c (.and c dd ds dt) fun b => b.takesBits dd (b.dr ds &&& b.dr dt)) ∧
    (∀ dd ds dt, Issues s c (.or dd ds dt) → HemCompletes s c (.or c dd ds dt) fun b => b.takesBits dd (b.dr ds ||| b.dr dt)) ∧
    (∀ dd ds sh, Issues s c (.shl dd ds sh) → HemCompletes s c (.shl c dd ds sh) fun b =>
      if 0 ≤ sh.toInt then b.takesSat dd ((b.dr ds).toInt * 2 ^ sh.toInt.toNat)
      else b.takesBits dd (BitVec.ofInt 16 (Int.fdiv (b.dr ds).toInt (2 ^ sh.toInt.natAbs)))) ∧
    (∀ ds dt, Issues s c (.cmp ds dt) → HemCompletes s c (.cmp c ds dt) fun b =>
      { b with st := stNz b.st ((b.dr ds).toInt - (b.dr dt).toInt) })

/-- LD, LDA, MACL, MPYL, ST, STA.H and STA.W (R239, R245, R247, R249, R254). -/
def Obligations.HemMemoryAccessesComplete : Prop :=
  ∀ (s : State) (c : Fin 16),
    (∀ dd p am off, Issues s c (.ld dd p am off) → LoadCompletes s c (.ld c dd p am off) p am off 2 dd.toNat id) ∧
    (∀ a p am off, Issues s c (.lda a p am off) → LoadCompletes s c (.lda c a p am off) p am off 4 (8 + a.toNat) id) ∧
    (∀ a dd ds dt p am mm fr, Issues s c (.macl a dd ds dt p am mm fr) →
      LoadCompletes s c (.macl c a dd ds dt p am mm fr) p am 0 2 dd.toNat fun b => b.takes a
        (((hemCore s c).bank.acc a).toInt + productOf mm fr ((hemCore s c).bank.dr ds) ((hemCore s c).bank.dr dt))) ∧
    (∀ a dd ds dt p am mm fr, Issues s c (.mpyl a dd ds dt p am mm fr) →
      LoadCompletes s c (.mpyl c a dd ds dt p am mm fr) p am 0 2 dd.toNat fun b => b.takes a
        (productOf mm fr ((hemCore s c).bank.dr ds) ((hemCore s c).bank.dr dt))) ∧
    (∀ ds p am off, Issues s c (.st ds p am off) →
      StoreCompletes s c (.st c ds p am off) p am off 2 (fun b => (b.dr ds).toInt) (2 ^ 15)) ∧
    (∀ a p am off, Issues s c (.staH a p am off) →
      StoreCompletes s c (.staH c a p am off) p am off 2 (fun b => Int.fdiv ((b.acc a).toInt + 0x8000) 65536) (2 ^ 15)) ∧
    (∀ a p am off, Issues s c (.staW a p am off) →
      StoreCompletes s c (.staW c a p am off) p am off 4 (fun b => (b.acc a).toInt) (2 ^ 31))

/-- B, CALL, RET, REP, POST and END (R250, R254, R255, R256, R260). -/
def Obligations.HemControlCompletes : Prop :=
  ∀ (s : State) (c : Fin 16),
    (∀ cond addr, Issues s c (.b cond addr) → HemCompletes s c (.b c cond addr) fun b =>
      { b with slot := true, target := some (if hemCond cond b.st then addr else b.pc + 2) }) ∧
    (∀ addr, Issues s c (.call addr) → (hemCore s c).bank.stack.length < 4 → HemCompletes s c (.call c addr) fun b =>
      { b with slot := true, target := some addr, stack := (b.pc + 2) :: b.stack }) ∧
    (∀ top rest, Issues s c .ret → (hemCore s c).bank.stack = top :: rest → HemCompletes s c (.ret c) fun b =>
      { b with slot := true, target := some top, stack := rest }) ∧
    (∀ n, Issues s c (.rep n) → HemCompletes s c (.rep c n) fun b => { b with rep := some n.toNat }) ∧
    (∀ ds j, Issues s c (.postD ds j) → (hemCore s c).posts.length < 4 → Completes (.postD c ds j) s fun t =>
      (hemCore t c).posts = (hemCore s c).posts ++ [⟨(hemCore s c).bank.task, (hemCore s c).bank.dests.getD j.toNat 0,
        ((hemCore s c).bank.dr ds).signExtend 32⟩] ∧
      (hemCore t c).bank = moved (hemCore s c).bank (hemCore s c).bank ∧ t.mem = s.mem) ∧
    (∀ a j, Issues s c (.postA a j) → (hemCore s c).posts.length < 4 → Completes (.postA c a j) s fun t =>
      (hemCore t c).posts = (hemCore s c).posts ++ [⟨(hemCore s c).bank.task, (hemCore s c).bank.dests.getD j.toNat 0,
        BitVec.ofInt 32 (within (-2 ^ 31) (2 ^ 31 - 1) ((hemCore s c).bank.acc a).toInt)⟩] ∧ t.mem = s.mem) ∧
    (Issues s c .end_ → (hemCore s c).held = false → (hemCore s c).posts = [] → Completes (.end_ c) s fun t =>
      (hemCore t c).running = false ∧ (task t (hemCore s c).bank.task).running = none ∧
        (rd t (Reg.HEM_CORE_DONE_CNT c)).toNat = min ((rd s (Reg.HEM_CORE_DONE_CNT c)).toNat + 1) (2 ^ 32 - 1) ∧ t.mem = s.mem)

/-- TASK_BUDGET_EXPIRY, ILLEGAL_INSTRUCTION, POST_BUFFER_DRAIN, CORE_CTRL, CORE_OFFLINE_DONE, HEM_IDLE_SCRUB, and an instruction in a
form that its encoding does not admit (R242, R253, R254, R259, R262, R263, R267). -/
def Obligations.HemCoreEventsComplete : Prop :=
  ∀ (s : State), Awake s → ∀ c : Fin 16,
    ((hemCore s c).running = true → (hemCore s c).bank.rep = none →
      max 16 (fld s (Reg.HEM_CORE_BUDGET c) 15 0) ≤ (hemCore s c).bank.cycles → Completes (.taskBudgetExpiry c) s fun t =>
        rd t Reg.HEM_ABORT_LAST = word (c.val + 5 * 2 ^ 4 + (hemCore s c).bank.pc.toNat * 2 ^ 8) ∧
          (rd t Reg.HEM_ABORT_CNT).toNat = min ((rd s Reg.HEM_ABORT_CNT).toNat + 1) (2 ^ 32 - 1) ∧
          (hemCore t c).running = ((hemCore s c).held || (hemCore s c).prepared)) ∧
    ((hemCore s c).running = true → asleep s (hemCore s c) = false →
      (hemCore s c).badProg.contains (hemCore s c).bank.pc.toNat = false → hemDecode (hemCore s c).fetch = none → Completes (.illegalInstruction c) s fun t =>
        rd t Reg.HEM_ABORT_LAST = word (c.val + 1 * 2 ^ 4 + (hemCore s c).bank.pc.toNat * 2 ^ 8) ∧
          (rd t Reg.HEM_ABORT_CNT).toNat = min ((rd s Reg.HEM_ABORT_CNT).toNat + 1) (2 ^ 32 - 1) ∧
          (hemCore t c).running = ((hemCore s c).held || (hemCore s c).prepared)) ∧
    (∀ ins i, hemCommand ins = some (c, i) → (hemCore s c).running = true → asleep s (hemCore s c) = false →
      (hemCore s c).badProg.contains (hemCore s c).bank.pc.toNat = true → Completes ins s fun t =>
        rd t Reg.HEM_ABORT_LAST = word (c.val + 6 * 2 ^ 4 + (hemCore s c).bank.pc.toNat * 2 ^ 8) ∧
        (hemCore t c).running = ((hemCore s c).held || (hemCore s c).prepared)) ∧
    (∀ ins i, hemCommand ins = some (c, i) → (hemCore s c).running = true → asleep s (hemCore s c) = true → exec ins s = .next s) ∧
    (∀ ins i, hemCommand ins = some (c, i) → hemLegal i = false → (hemCore s c).running = true → asleep s (hemCore s c) = false →
      (hemCore s c).badProg.contains (hemCore s c).bank.pc.toNat = false → (hemCore s c).fetch = hemEncode i →
      Completes ins s fun t => rd t Reg.HEM_ABORT_LAST = word (c.val + 1 * 2 ^ 4 + (hemCore s c).bank.pc.toNat * 2 ^ 8) ∧
        (rd t Reg.HEM_ABORT_CNT).toNat = min ((rd s Reg.HEM_ABORT_CNT).toNat + 1) (2 ^ 32 - 1) ∧
        (hemCore t c).running = ((hemCore s c).held || (hemCore s c).prepared)) ∧
    (∀ p rest, (hemCore s c).posts = p :: rest → wbits p.dest 31 28 = 1 →
      (tget (fun _ => []) s.sched.ports 2 : List Token).length < 16 → (tget (fun _ => []) s.sched.stalled 2 : List Token) = [] →
      Completes (.postBufferDrain c) s fun t => (hemCore t c).posts = rest ∧
        (tget (fun _ => []) t.sched.ports 2 : List Token) = (tget (fun _ => []) s.sched.ports 2 : List Token) ++
          [mkTok s 5 (wbits p.dest 9 0) (wbits p.dest 11 10) p.value]) ∧
    (∀ p rest, (hemCore s c).posts = p :: rest → wbits p.dest 31 28 = 2 → Completes (.postBufferDrain c) s fun t =>
      (hemCore t c).posts = rest ∧ (tget (fun _ => none) t.loop.results (wbits p.dest 7 0) : Option Half) = some (p.value.setWidth 16)) ∧
    (∀ port v, Reaches s port (Reg.HEM_CORE_CTRL c) v → wbit v 0 = true → (hemCore s c).loaded = true →
      Completes (.coreCtrl port c v) s fun t => rd t (Reg.HEM_CORE_CTRL c) = 1 ∧ (hemCore t c).offline = false) ∧
    (fbit s (Reg.HEM_CORE_CTRL c) 0 = false → (hemCore s c).running = false → (hemCore s c).prepared = false →
      exec (.coreOfflineDone c) s = .next (setHemCore s c { hemCore s c with offline := true })) ∧
    (∀ (addr : BitVec 13) err, (hemCore s c).running = false → err ≠ 2 →
      err = 1 ∨ (hemCore s c).softProg.contains (addr.toNat % 4096) = true → Completes (.hemIdleScrub c true addr err) s fun t =>
        (rd t Reg.HEM_ECC_CORR_CNT).toNat = min ((rd s Reg.HEM_ECC_CORR_CNT).toNat + 1) (2 ^ 32 - 1) ∧
        (hemCore t c).softProg = (hemCore s c).softProg.filter (· != addr.toNat % 4096) ∧
        (hemCore t c).prog = (hemCore s c).prog) ∧
    (∀ (addr : BitVec 13) err, (hemCore s c).running = false → err ≠ 2 →
      err = 1 ∨ (hemCore s c).softData.contains addr.toNat = true → Completes (.hemIdleScrub c false addr err) s fun t =>
        (rd t Reg.HEM_ECC_CORR_CNT).toNat = min ((rd s Reg.HEM_ECC_CORR_CNT).toNat + 1) (2 ^ 32 - 1) ∧
        (hemCore t c).softData = (hemCore s c).softData.filter (· != addr.toNat) ∧
        (hemCore t c).data = (hemCore s c).data) ∧
    (∀ addr : BitVec 13, (hemCore s c).running = false → (hemCore s c).softProg.contains (addr.toNat % 4096) = false →
      Completes (.hemIdleScrub c true addr 2) s fun t =>
        (hemCore t c).badProg.contains (addr.toNat % 4096) = true ∧ ∀ a, rd t a = rd s a)

/-- HEM_LOAD, HEM_PATCH, PATCH_APPLY (R266-R268). -/
def Obligations.HemLoadAndPatchComplete : Prop :=
  ∀ (s : State),
    (∀ port hdr len body, Reaches s port Reg.HEM_OP 0 → Reaches s port Reg.HEM_BASTE_COMMIT 1 →
      hdr = readMem s .bolt (rd s Reg.HEM_OP_SRC).toNat 16 → len = 4 * field hdr 6 2 + field hdr 8 2 →
      body = readMem s .bolt ((rd s Reg.HEM_OP_SRC).toNat + 16) len → maskCores (fld s Reg.HEM_OP_MASK 15 0) ≠ [] →
      (maskCores (fld s Reg.HEM_OP_MASK 15 0)).all (fun c => (hemCore s c).offline) = true →
      (rd s Reg.HEM_OP_SRC).toNat % 4 = 0 → inPart s 4 (rd s Reg.HEM_OP_SRC).toNat (16 + len) = true →
      inPart s 4 (rd s Reg.HEM_OP_SRC).toNat 16 = true → imageCheck hdr body = 1 →
      Completes (.hemLoad port) s fun t => fld t Reg.HEM_BASTE_STATUS 3 1 = 1 ∧
        ∀ c ∈ maskCores (fld s Reg.HEM_OP_MASK 15 0), (hemCore t c).loaded = true ∧
          ∀ k, k < field hdr 6 2 → tget (fun _ => 0) (hemCore t c).prog k = word (field body (4 * k) 4)) ∧
    (∀ port len, Reaches s port Reg.HEM_OP 1 → Reaches s port Reg.HEM_BASTE_COMMIT 1 → len = (rd s Reg.HEM_OP_LEN).toNat →
      fld s Reg.HEM_OP_MASK 15 0 ≠ 0 → 4 ≤ len → len ≤ 4096 → len % 4 = 0 → (rd s Reg.HEM_OP_DST).toNat + len ≤ 32768 →
      inPart s 4 (rd s Reg.HEM_OP_SRC).toNat len = true → Completes (.hemPatch port) s fun t =>
        fbit t Reg.HEM_BASTE_STATUS 0 = true ∧ t.hem.patch = some ⟨fld s Reg.HEM_OP_MASK 15 0, (rd s Reg.HEM_OP_DST).toNat,
          readMem s .bolt (rd s Reg.HEM_OP_SRC).toNat len, false⟩) ∧
    (∀ p, Awake s → s.hem.patch = some p → p.latched = true →
      (∀ c ∈ maskCores p.mask, (hemCore s c).running = false ∧ (hemCore s c).prepared = false) →
      Completes .patchApply s fun t => t.hem.patch = none ∧ fld t Reg.HEM_BASTE_STATUS 3 1 = 1 ∧
        ∀ c ∈ maskCores p.mask, (hemCore t c).bytes p.dst p.bytes.length = p.bytes)

/-- TOKEN_ARRIVAL, TASK_DISPATCH, AFFINITY_HOLD_EXPIRY, DESCRIPTOR_WRITE, CANCEL, POST_TOKEN, DELAY_INSERT, DELAY_REMOVE,
DELAY_ENTRY_FIRE (R261, R272, R275, R278, R280-R282, R285). -/
def Obligations.SchedulerCommandsComplete : Prop :=
  ∀ s : State, Awake s →
    (∀ (port : Fin 7) k rest, (tget (fun _ => []) s.sched.ports port.val : List Token) = k :: rest → taskValid s k.task = true →
      k.operand < 4 → Completes (.tokenArrival port) s fun t =>
        (task t k.task).op k.operand = k.value ∧ bit (task t k.task).present k.operand = true ∧
          (tget (fun _ => []) t.sched.ports port.val : List Token) =
            rest ++ (tget (fun _ => []) s.sched.stalled port.val : List Token).take 1 ∧ t.mem = s.mem) ∧
    (∀ t c p, pick s = some (t, c, p) → taskFw s t = false → (hemCore s c).running = false →
      Completes (.taskDispatch []) s fun u => (hemCore u c).running = true ∧ (hemCore u c).bank = prepareBank s t ∧
        (hemCore u c).active = !(hemCore s c).active ∧ (task u t).running = some c ∧ (task u t).last = some c) ∧
    (∀ t c p, pick s = some (t, c, p) → taskFw s t = false → (hemCore s c).running = true →
      Completes (.taskDispatch []) s fun u => (task u t).running = some c ∧
        if (hemCore s c).bank.rep = none ∧ (hemCore s c).bank.slot = false ∧ (hemCore s c).bank.stalled = false ∧
            (hemCore s c).bank.load = none then
          (hemCore u c).bank = prepareBank s t ∧ (hemCore u c).held = true
        else (hemCore u c).bank = (hemCore s c).bank ∧ (hemCore u c).prepared = true) ∧
    (∀ t c p, pick s = some (t, c, p) → taskFw s t = true → Completes (.taskDispatch []) s fun u =>
      (task u t).running = some c ∧ (task u t).last = some c ∧ fwTasks u c = t :: fwTasks s c ∧ u.hem = s.hem) ∧
    (∀ (c : Fin 8) t rest, fwTasks s c = t :: rest → pick (fwEnded s c) = none → Completes (.taskDispatch [c]) s fun u =>
      fwTasks u c = rest ∧ (task u t).running = none) ∧
    (∀ n : BitVec 10, (task s n.toNat).ready = true → (task s n.toNat).readyRaw + holdNs s n.toNat < s.raw →
      exec (.affinityHoldExpiry n) s = .next (setTask s n.toNat { task s n.toNat with holdOver := true })) ∧
    (∀ port (n : BitVec 10) (w : BitVec 3) v, Reaches s port (Reg.SCHED_TASK_DESC n.toNat w.toNat) v → taskValid s n.toNat = false →
      isFwPort port = true → w ≠ 0 → Completes (.descriptorWrite port n w v) s fun t => t.bus.err = false ∧
        rd t (Reg.SCHED_TASK_DESC n.toNat w.toNat) = v ∧
        (∀ a, a ≠ Reg.SCHED_TASK_DESC n.toNat w.toNat → rd t a = rd s a) ∧ t.mem = s.mem) ∧
    (∀ port (n : BitVec 10) del, Reaches s port Reg.SCHED_CANCEL (word (n.toNat + flag del * 1024)) →
      Completes (.cancel port n del) s fun t => (task t n.toNat).present = 0 ∧ (task t n.toNat).ready = false ∧
        t.sched.delays = (if del then s.sched.delays.filter fun e => e.task != n.toNat else s.sched.delays) ∧
        t.bus.err = false) ∧
    (∀ port v p tok, Reaches s port Reg.SCHED_POST_HI v → p = (if isFwPort port then 4 else 6) →
      tok = mkTok s (if isFwPort port then 6 else 3) (wbits v 9 0) (wbits v 11 10) (rd s Reg.SCHED_POST_LO) →
      ((tget (fun _ => []) s.sched.ports p : List Token).length < 16 → (tget (fun _ => []) s.sched.stalled p : List Token) = [] →
        exec (.postToken port v) s = .next (okBus { s with sched := { s.sched with
          ports := tmod (fun _ => []) s.sched.ports p (· ++ [tok]) } })) ∧
      (16 ≤ (tget (fun _ => []) s.sched.ports p : List Token).length ∨ (tget (fun _ => []) s.sched.stalled p : List Token) ≠ [] →
        Completes (.postToken port v) s fun t => t.bus.waits = true ∧ t.sched.ports = s.sched.ports ∧
          (tget (fun _ => []) t.sched.stalled p : List Token) = (tget (fun _ => []) s.sched.stalled p : List Token) ++ [tok])) ∧
    (∀ port, Reaches s port Reg.SCHED_BASTE_COMMIT 1 → taskValid s (wbits (rd s Reg.SCHED_DLY_TARGET) 9 0) = true →
      wbits (rd s Reg.SCHED_DLY_TARGET) 31 12 = 0 → s.sched.delays.length < 1024 → Completes (.delayInsert port) s fun t =>
        t.sched = { s.sched with delays := s.sched.delays ++ [{ value := rd s Reg.SCHED_DLY_VALUE, task := wbits (rd s Reg.SCHED_DLY_TARGET) 9 0, operand := wbits (rd s Reg.SCHED_DLY_TARGET) 11 10, wake := rd s Reg.SCHED_DLY_WAKE, period := rd s Reg.SCHED_DLY_PERIOD }] } ∧
        fld t Reg.SCHED_BASTE_STATUS 3 1 = 1 ∧ fld t Reg.SCHED_BASTE_STATUS 26 16 = s.sched.delays.length + 1) ∧
    (∀ port, Reaches s port Reg.SCHED_BASTE_COMMIT 2 → Completes (.delayRemove port) s fun t =>
      t.sched = { s.sched with delays := s.sched.delays.filter fun e => e.task != fld s Reg.SCHED_DLY_TARGET 9 0 } ∧
        fld t Reg.SCHED_BASTE_STATUS 3 1 = 1) ∧
    (∀ e, nextDue s (tick s) (fun e => !s.twin.pair || taskFw s e.task || e.released) = some e → delayRoom s = true →
      (tget (fun _ => []) s.sched.stalled 3 : List Token) = [] → Completes .delayEntryFire s fun t =>
      t.sched.delays = (if e.period = 0 then s.sched.delays.erase e
        else s.sched.delays.erase e ++ [{ e with wake := e.wake + e.period, released := false }]) ∧
      (tget (fun _ => []) t.sched.ports 3 : List Token) = (tget (fun _ => []) s.sched.ports 3 : List Token) ++
        [mkTok s 2 e.task e.operand e.value])

/-- MAILBOX_WRITE, MAILBOX_READ, MAILBOX_STALL, LOCK_READ, LOCK_RELEASE, QUEUE_PUSH, QUEUE_POP (R288, R289, R292, R294, R295). -/
def Obligations.MailboxCommandsComplete : Prop :=
  ∀ s : State, Awake s →
    (∀ port (m : BitVec 6) v, Reaches s port (Reg.MBX_DATA m.toNat) v → masterId port = fld s (Reg.MBX_CFG m.toNat) 7 0 →
      mbxFull s m.toNat = false → receiverOff s m.toNat = false → s.flt.cellsOff.contains (MBX, m.toNat) = false →
      Completes (.mailboxWrite port m v) s fun t =>
        rd t (Reg.MBX_DATA m.toNat) = v ∧ mbxFull t m.toNat = true ∧ t.bus.err = false ∧ t.mem = s.mem ∧
          (∀ a, a ≠ Reg.MBX_DATA m.toNat → a ≠ (mbxBit Reg.MBX_FULL_LO m.toNat).1 → rd t a = rd s a)) ∧
    (∀ port (m : BitVec 6), Readable s port (Reg.MBX_DATA m.toNat) → masterId port = fld s (Reg.MBX_CFG m.toNat) 15 8 →
      mbxFull s m.toNat = true → Completes (.mailboxRead port m) s fun t => t.bus = { err := false, data := rd s (Reg.MBX_DATA m.toNat) } ∧
        mbxFull t m.toNat = false ∧ t.mem = s.mem ∧
          (∀ a, a ≠ (mbxBit Reg.MBX_FULL_LO m.toNat).1 → rd t a = rd s a)) ∧
    (∀ m : BitVec 6, mbxFull s m.toNat = true → s.mbx.stalled.contains m.toNat = false →
      tget (fun _ => 0) s.mbx.filled m.toNat + stallNs s m.toNat ≤ s.raw → Completes (.mailboxStall m) s fun t =>
      fbit t (mbxBit Reg.MBX_STALL_LO m.toNat).1 (mbxBit Reg.MBX_STALL_LO m.toNat).2 = true ∧ t.mbx.stalled.contains m.toNat = true ∧
        mbxFull t m.toNat = true) ∧
    (∀ port (k : BitVec 6), Readable s port (Reg.MBX_LOCK k.toNat) → lockOwner s k.toNat = 0 → exec (.lockRead port k) s =
      .next (okBus (setLock s k.toNat (masterId port)) (word (masterId port)))) ∧
    (∀ port (k : BitVec 6), Reaches s port (Reg.MBX_LOCK k.toNat) 0 → lockOwner s k.toNat = masterId port →
      exec (.lockRelease port k 0) s = .next (okBus (setLock s k.toNat 0))) ∧
    (∀ port (q : BitVec 3) v, Reaches s port (Reg.MBXQ_H2D q.toNat) v → s.mbx.legacyMode = true → s.host.queued = [] →
      s.host.waiting = [] → (∀ k, (legacy s k).h2d = []) → (∀ k, k < 8 → fbit s (Reg.MBXQ_STAT k) 0 = false) →
      (legacy s q.toNat).msg.length < 3 → Completes (.queuePush port q v) s fun t =>
        (legacy t q.toNat).msg = (legacy s q.toNat).msg ++ [v] ∧ (legacy t q.toNat).h2d = [] ∧ t.bus.err = false ∧
        (∀ a, rd t a = rd s a) ∧ t.mem = s.mem) ∧
    (∀ port (q : BitVec 3) v rest, Readable s port (Reg.MBXQ_D2H q.toNat) → s.mbx.legacyMode = true →
      (legacy s q.toNat).d2h = v :: rest → Completes (.queuePop port q) s fun t => t.bus = { err := false, data := v } ∧
        (legacy t q.toNat).d2h = rest ++ (legacy s q.toNat).reply.take (16 - rest.length) ∧
        (legacy t q.toNat).reply = (legacy s q.toNat).reply.drop (16 - rest.length) ∧ (∀ a, rd t a = rd s a) ∧ t.mem = s.mem)

/-- ENCODER_TRANSITION, STEP_EDGE, INDEX_EDGE, SSI_TRANSFER_END, ENC_FAULT_CLEAR, FBC_COMMIT (R304, R306, R308, R310, R311, R332). -/
def Obligations.FeedbackCommandsComplete : Prop :=
  ∀ s : State, Awake s → ∀ c : Fin 8,
    (∀ a b d, encMode s c = 1 → quadStep (encoder s c).a (encoder s c).b a b = some d → d ≠ 0 →
      Completes (.encoderTransition c a b) s fun t => (encoder t c).a = a ∧ (encoder t c).b = b ∧
        (encoder t c).count = sgn 48 (unsg 48 ((encoder s c).count + if actF s (Reg.FBC_ENC_CFG c) 16 16 = 1 then -d else d))) ∧
    (∀ a b, encMode s c = 1 → quadStep (encoder s c).a (encoder s c).b a b = none →
      Completes (.encoderTransition c a b) s fun t => (encoder t c).count = (encoder s c).count ∧
        (encoder t c).dts = (encoder s c).dts + 1 ∧
        (rd t (Reg.FBC_ENC_DT_CNT c)).toNat = min ((rd s (Reg.FBC_ENC_DT_CNT c)).toNat + 1) (2 ^ 32 - 1)) ∧
    (∀ dir, encMode s c = 3 → Completes (.stepEdge c dir) s fun t => (encoder t c).count = sgn 48 (unsg 48
      ((encoder s c).count + if dir = (actF s (Reg.FBC_ENC_CFG c) 16 16 == 1) then -1 else 1))) ∧
    (encMode s c = 1 ∨ encMode s c = 3 → Completes (.indexEdge c) s fun t => (encoder t c).index = some (encoder s c).count ∧
      rd t (Reg.FBC_ENC_IDX_LO c) = word (unsg 48 (encoder s c).count) ∧
      rd t (Reg.FBC_ENC_IDX_HI c) = word (unsg 48 (encoder s c).count / 2 ^ 32) ∧
      rd t (Reg.FBC_ENC_IDX_TS c) = word (mtime s / nsU) ∧ fbit t (Reg.FBC_ENC_STATUS c) 2 = true) ∧
    (∀ (data : Long) parity n, encMode s c = 2 → (encoder s c).busy = true → n = actF s (Reg.FBC_ENC_SSI c) 5 0 →
      actF s (Reg.FBC_ENC_SSI c) 9 8 = 0 → actF s (Reg.FBC_ENC_SSI c) 15 10 = 0 → actF s (Reg.FBC_ENC_SSI c) 6 6 = 0 →
      actF s (Reg.FBC_ENC_SSI c) 7 7 = 0 → Completes (.ssiTransferEnd c data parity) s fun t =>
        (encoder t c).count = (data.toNat % 2 ^ n : Nat) ∧ (encoder t c).busy = false ∧
          (encoder t c).age = min 7 (encoder s c).since) ∧
    (∀ port, Reaches s port (Reg.FBC_ENC_STATUS c) 1 → cellOff s FBC c = false → encCause s c = false →
      Completes (.encFaultClear port c) s fun t => rd t (Reg.FBC_ENC_STATUS c) = rd s (Reg.FBC_ENC_STATUS c) &&& ~~~1 ∧
        t.bus.err = false ∧ t.mem = s.mem) ∧
    (∀ port v, Reaches s port Reg.FBC_BASTE_COMMIT v → wbit v 0 = true → fbcResult s = 1 →
      exec (.fbcCommit port v) s = .next (okBus (setBit s Reg.FBC_BASTE_STATUS 0 true)))

/-- COMPARE_FIRE, PULSE_END, COMPARE_ARM, COMPARE_DISARM (R320, R324, R327, R332). -/
def Obligations.CompareCommandsComplete : Prop :=
  ∀ s : State, Awake s → ∀ k : Fin 32,
    (∀ f, earliest (s.fbc.fires.filter (·.chan == k.val)) = some f → actionDue s f false = true → Completes (.compareFire k) s fun t =>
      t.fbc.fires = s.fbc.fires.filter (· != f) ∧ rd t (Reg.FBC_CMP_LAST_TS k) = word (f.time.toNat % 1000000000) ∧
        fld t (Reg.FBC_CMP_STATUS k) 31 16 = min (fld s (Reg.FBC_CMP_STATUS k) 31 16 + 1) 65535 ∧
        t.fbc.pins.contains f.pin = (match f.action with
          | 1 => false
          | 2 => !s.fbc.pins.contains f.pin
          | _ => true) ∧ (∀ p, p ≠ f.pin → t.fbc.pins.contains p = s.fbc.pins.contains p) ∧
        t.fbc.pulses = (if f.action = 3 then s.fbc.pulses ++ [{ f with time := f.time + 10 * (f.width : Int) }] else s.fbc.pulses) ∧
        t.mem = s.mem) ∧
    (∀ f, earliest (s.fbc.pulses.filter (·.chan == k.val)) = some f → actionDue s f true = true → Completes (.pulseEnd k) s fun t =>
      t.fbc.pulses = s.fbc.pulses.filter (· != f) ∧ t.fbc.pins.contains f.pin = false ∧
        (∀ p, p ≠ f.pin → t.fbc.pins.contains p = s.fbc.pins.contains p) ∧ t.mem = s.mem) ∧
    (∀ port, Reaches s port (Reg.FBC_CMP_CTRL k) 1 → cellOff s FBC (16 + k.val) = false → exec (.compareArm port k) s =
      .next (okBus (setBit s (Reg.FBC_CMP_STATUS k) 1 true))) ∧
    (∀ port, Reaches s port (Reg.FBC_CMP_CTRL k) 2 → Completes (.compareDisarm port k) s fun t =>
      (compare t k).armed = false ∧ (compare t k).entry = none ∧ t.fbc.fires = s.fbc.fires.filter (·.chan != k.val) ∧
        fbit t (Reg.FBC_CMP_STATUS k) 0 = false ∧ fbit t Reg.FBC_CMP_ARMED k = false)

/-- SPOOL_SAMPLE, AUTO_TRIGGER_TIMEOUT, ACQ_COMMIT, SPOOL_ARM, SPOOL_STOP, SPOOL_FORCE, SPOOL_RELEASE, SPOOL_DUMP, ARCHIVE_BURST (R335,
R339, R341-R343, R349). -/
def Obligations.SpoolCommandsComplete : Prop :=
  ∀ s : State, Awake s → ∀ i : Fin 4,
    (spMode s i = 0 → spArch s i = false → spTakes s i = true → (∀ j, j < 4 → j ≠ i.val → spBusy s j = false) →
      actF s Reg.ACQ_GROUP 3 0 = 0 → s.evts.drop s.acq.seen = [] → s.acq.left = [] → actF s (Reg.ACQ_SP_CFG i) 3 3 = 0 →
      actF s (Reg.ACQ_SP_CFG i) 31 16 ≠ 0 → s.cyc.count.toNat % actF s (Reg.ACQ_SP_CFG i) 31 16 = 0 →
      actF s (Reg.ACQ_SP_TRIG i) 3 0 = 0 → maskChannels s i = [] → (spool s i).trig = none → (spool s i).pendingTrig = none →
      Completes .spoolSample s fun t => (spool t i).written = (spool s i).written + 1 ∧
        readMem t .bolt ((actv s (Reg.ACQ_SP_BASE i)).toNat + (spool s i).slot * recordLen s i + 32 +
            (spool s i).written % max 1 (spDepth s i) * sampleLen s i) (sampleLen s i) =
          stamp s.cyc.count 0 (spool s i).gap false false false ++
            (sampleValues s i (latchedCounts s)).flatMap (fun v => leBytes 4 v.toNat) ∧
        ∀ a, a ≠ Reg.ACQ_SP_WR_PTR i → a ≠ Reg.ACQ_SP_STATE i → rd t a = rd s a) ∧
    (spMode s i = 2 → spSt s i = 1 → (spool s i).trig = none →
      (actv s (Reg.ACQ_SP_TIMEOUT i)).toNat * 1000000 ≤ s.raw - (spool s i).startRaw → Completes (.autoTriggerTimeout i) s fun t =>
      (spool t i).pendingTrig = some { time := nowNs s, forced := true } ∧ t.mem = s.mem) ∧
    (∀ port v, Reaches s port Reg.ACQ_BASTE_COMMIT v → wbit v 0 = true → acqResult s = 1 →
      exec (.acqCommit port v) s = .next (okBus (setBit s Reg.ACQ_BASTE_STATUS 0 true))) ∧
    (∀ port, Reaches s port (Reg.ACQ_SP_CTRL i) 1 → grpMember s i = false → spBusy s i = false → cellOff s ACQ i = false →
      Completes (.spoolArm port i) s fun t => (spool t i) = { spool s i with arm := true } ∧
        fld t (Reg.ACQ_SP_STATE i) 19 16 = 1 ∧ (∀ j, j ≠ i.val → spool t j = spool s j) ∧ t.mem = s.mem) ∧
    (∀ port, Reaches s port (Reg.ACQ_SP_CTRL i) 2 → spBusy s i = true → Completes (.spoolStop port i) s fun t =>
      (spool t i) = { spool s i with stop := true } ∧ fld t (Reg.ACQ_SP_STATE i) 19 16 = 1 ∧
        (∀ j, j ≠ i.val → spool t j = spool s j) ∧ t.mem = s.mem) ∧
    (∀ port, Reaches s port (Reg.ACQ_SP_CTRL i) 4 → spSt s i = 1 ∨ spSt s i = 5 → Completes (.spoolForce port i) s fun t =>
      (spool t i).pendingTrig = some { time := nowNs s, forced := true } ∧ fld t (Reg.ACQ_SP_STATE i) 19 16 = 1) ∧
    (∀ port k rest, Reaches s port (Reg.ACQ_SP_CTRL i) 8 → (spool s i).full = k :: rest →
      Completes (.spoolRelease port i) s fun t => (spool t i).full = rest ∧ fld t (Reg.ACQ_SP_STATE i) 19 16 = 1 ∧ t.mem = s.mem) ∧
    (∀ port a n, Reaches s port (Reg.ACQ_SP_CTRL i) 16 → (spool s i).last = some (a, n) → s.pwr.off.contains .mem = false →
      (holders s).all (compat 7) = true → Completes (.spoolDump port i) s fun t => fld t (Reg.ACQ_SP_STATE i) 19 16 = 0 ∧
        (spool t i).dump = some (a, (actv s (Reg.ACQ_SP_ARCH_BASE i)).toNat, n) ∧ fbit t Reg.FPM_MAINT_STATUS 7 = true ∧
        (hasLeave t (dumpRequester i) = true ∨ waitsLeave t (dumpRequester i) = true) ∧ t.mem = s.mem) ∧
    (∀ a bs, (spool s i).fifo = [(a, bs)] → (spool s i).owed = [] → bs.length ≤ leaveBytes →
      hasLeave s (burstRequester i) = true → s.pwr.off.contains .mem = false →
      Completes (.archiveBurst i) s fun t => (spool t i) = { spool s i with fifo := [] } ∧ readMem t .arch a bs.length = bs ∧
        (∀ g, s.pwr.granted.find? (fun g => g.requester == burstRequester i) = some g → t.pwr.granted = s.pwr.granted.erase g) ∧
        ∀ r x, r ≠ .arch ∨ x < a ∨ a + bs.length ≤ x → t.mem.read r x = s.mem.read r x)

/-- HELLO_SEND, HELLO, TWIN_CYCLE_SEND, CYCLE_A, CYCLE_S, RETURN, JOURNAL, SYNC (R353, R354, R356, R360, R366, R370, R381). -/
def Obligations.TwinFramesComplete : Prop :=
  ∀ s : State, Awake s →
    (s.twin.formed = false → TwinSends s → (∀ r, s.twin.helloRaw = some r → r + 1000000 ≤ s.raw) → Completes .helloSend s fun t =>
      FrameGoes s t 0x20 (leBytes 4 s.twin.cfgSetHash.toNat ++ leBytes 4 s.twin.manifestHash.toNat ++ leBytes 4 s.ring.cfgHash.toNat ++
        zeros 4) ∧ t.twin.helloRaw = some s.raw ∧ (∀ a, rd t a = rd s a)) ∧
    (∀ f ok, TwinHears s f ok → field (twinBody f) 0 4 = s.twin.cfgSetHash.toNat →
      field (twinBody f) 4 4 = s.twin.manifestHash.toNat → field (twinBody f) 8 4 = s.ring.cfgHash.toNat →
      Completes (.hello f ok) s fun t => t.twin.formed = true ∧ fbit t Reg.TWIN_STATE 4 = true ∧ t.mem = s.mem) ∧
    (∀ f ok, TwinHears s f ok → field (twinBody f) 0 4 ≠ s.twin.cfgSetHash.toNat → leads s = true → onTrial s = false →
      Completes (.hello f ok) s fun t => t.twin.formed = false ∧ fld t Reg.TWIN_STATE 11 8 = 4) ∧
    (TwinSends s → fbit s Reg.TWIN_STATE 5 = true → s.twin.frozen = [] → s.twin.pages = [] → s.twin.snapshot = [] →
      Completes .twinCycleSend s fun t => (∃ body, body.take 8 = leBytes 8 (rd64 s Reg.TWIN_DIGEST_LO) ∧ FrameGoes s t 0x21 body) ∧
        t.twin.kind3Lost = [] ∧ (∀ a, rd t a = rd s a)) ∧
    (TwinSends s → fbit s Reg.TWIN_STATE 5 = false → 2 ≤ twinSt s → Completes .twinCycleSend s fun t =>
      (∃ body, body.length = 24 ∧ FrameGoes s t 0x22 body) ∧ (∀ a, rd t a = rd s a)) ∧
    (∀ f ok, TwinHears s f ok → mirrors s = true → field f 4 4 = s.cyc.count.toNat → s.twin.motionDue = false →
      s.ring.launched = true → Completes (.cycleA f ok) s fun t => t.twin.cycleA = some (twinBody f) ∧
        t.twin.fieldIn = word (field (twinBody f) 72 4)) ∧
    (∀ f ok, TwinHears s f ok → stamps s = true → Completes (.cycleS f ok) s fun t =>
      t.twin.ackHi = field (twinBody f) 8 4 ∧ t.twin.gotFirst = true ∧ t.mem = s.mem) ∧
    (∀ f, TwinHears s f true → field f 4 4 = s.cyc.count.toNat → twinSt s = 1 → s.twin.ownRet = none → Completes (.return_ f) s fun t =>
      twinSt t = 5 ∧ t.twin.twinRet = some ((twinBody f).take (svcOffset s + 1052))) ∧
    (∀ f, TwinHears s f true → field f 4 4 = s.cyc.count.toNat → twinSt s = 3 → ringSt s = 3 → s.ring.returned = false → Completes (.return_ f) s fun t =>
      t.ring.returned = true) ∧
    (∀ f ok e, TwinHears s f ok → mirrors s = true → parseEntries (twinBody f).length (twinBody f) = [e] →
      Completes (.journal f ok) s fun t => t.twin.entries =
        if s.twin.entries.any (fun x => x.seq == e.seq) then s.twin.entries else s.twin.entries ++ [e]) ∧
    (∀ f ok, TwinHears s f ok → twinSt s = 2 → field (twinBody f) 0 4 ≠ 0xFFFFFFFF → Completes (.sync f ok) s fun t =>
      readMem t .bolt (field (twinBody f) 0 4) ((twinBody f).length - 4) = (twinBody f).drop 4 ∧
        ∀ r x, r ≠ .bolt ∨ x < field (twinBody f) 0 4 ∨ field (twinBody f) 0 4 + ((twinBody f).length - 4) ≤ x →
          t.mem.read r x = s.mem.read r x)

/-- JOURNAL_STAMP, JOURNAL_STAMP_CONTINUE, TAKEOVER_DECISION, TWIN_LINK_LOST, TWIN_LINK_LOCK_GAINED, TWIN_COMMIT,
FIELD_INPUT_DISCREPANCY (R356, R364, R367, R372, R388, R390). -/
def Obligations.TwinRolesComplete : Prop :=
  ∀ s : State, Awake s →
    (∀ (kind source : Byte) target data e, stamps s = true → s.twin.held = [] → swapHolds s = false →
      splitWrite s { kind := kind.toNat, source := source.toNat, target := target, data := data } = [e] →
      e.bytes.length ≤ s.twin.room → Completes (.journalStamp kind source target data) s fun t =>
        t.twin.entries = s.twin.entries ++ [{ e with seq := rd s Reg.TWIN_JSEQ + 1, cycle := s.cyc.count + word (jourLead s) }] ∧
          rd t Reg.TWIN_JSEQ = rd s Reg.TWIN_JSEQ + 1 ∧ t.twin.held = []) ∧
    (∀ h e, s.twin.held = [h] → h.writes = [] → h.rest = [e] → h.req = none → swapHolds s = false →
      e.bytes.length ≤ s.twin.room → Completes .journalStampContinue s fun t =>
        t.twin.entries = s.twin.entries ++ [{ e with seq := rd s Reg.TWIN_JSEQ + 1 }] ∧ t.twin.held = []) ∧
    (∀ arrived, decisionTime s ≤ mtime s → decision s arrived = 1 → Completes (.takeoverDecision arrived) s fun t =>
      twinSt t = 5 ∧ t.twin.formerStandby = true ∧ ringSt t = if s.cyc.nextIdle then 5 else 6) ∧
    (∀ arrived, decisionTime s ≤ mtime s → decision s arrived = 2 → Completes (.takeoverDecision arrived) s fun t =>
      twinSt t = 1 ∧ t.twin.takenOver = true ∧ (ringSt t = 5 ∨ ringSt t = 6)) ∧
    (∀ lock, s.twin.pair = true → lock = true ∨ 3 ≤ s.twin.silent → twinSt s = 3 → Completes (.twinLinkLost lock) s fun t =>
      twinSt t = 4 ∧ fld t Reg.TWIN_STATE 11 8 = 3 ∧ t.twin.formed = false) ∧
    (∀ lock, s.twin.pair = true → lock = true ∨ 3 ≤ s.twin.silent → twinSt s = 5 → Completes (.twinLinkLost lock) s fun t =>
      twinSt t = 1 ∧ fbit t Reg.FPM_STATUS 0 = true) ∧
    (s.twin.pair = true → Completes .twinLinkLockGained s fun t => fbit t Reg.TWIN_STATE 3 = true ∧ t.mem = s.mem) ∧
    (∀ port v, Reaches s port Reg.TWIN_BASTE_COMMIT v → wbit v 0 = true →
      exec (.twinCommit port v) s = .next (okBus (setBit s Reg.TWIN_BASTE_STATUS 0 true))) ∧
    (∀ i : Fin 32, tget (fun _ => 0) s.twin.diffSince i.val ≠ 0 →
      tget (fun _ => 0) s.twin.diffSince i.val + 10000000 ≤ s.raw + 1 → (motionInputBits s).contains i.val = true →
      exec (.fieldInputDiscrepancy i) s = .next (event s FIO 5 i.val))

/-- RESYNC, SWAP, REJOIN, RELEASE, AUTO_RESYNC, AUTO_REJOIN, RESYNC_PHASE_DONE, RESYNC_TIMEOUT, ACTION_ACK_TIMEOUT (R379-R381, R384,
R386, R390). -/
def Obligations.TwinActionsComplete : Prop :=
  ∀ s : State, Awake s →
    (∀ port, Reaches s port Reg.TWIN_CTRL 1 → fbit s Reg.TWIN_CTRL_STATUS 0 = false → twinSt s = 4 →
      fld s Reg.TWIN_STATE 11 8 ≠ 4 → s.twin.formed = true → (holders s).all (compat 3) = true →
      Completes (.resync port) s fun t => twinSt t = 2 ∧ rd t Reg.TWIN_RESYNC_STATUS = 1 ∧ Acting t 1) ∧
    (∀ port, Reaches s port Reg.TWIN_CTRL 2 → fbit s Reg.TWIN_CTRL_STATUS 0 = false → twinSt s = 1 →
      fld s Reg.TWIN_STATE 18 16 = 3 → 1024 ≤ s.twin.matched → (holders s).all (compat 2) = true →
      Completes (.swap port) s fun t => t.twin.action = 1 ∧ t.twin.actionCycle = s.cyc.count + 16 ∧ Acting t 2) ∧
    (∀ port, Reaches s port Reg.TWIN_CTRL 4 → fbit s Reg.TWIN_CTRL_STATUS 0 = false → rejoinReady s = true →
      Completes (.rejoin port) s fun t => t.twin.action = 2 ∧ t.twin.actionCycle = s.cyc.count + 16 ∧ Acting t 3) ∧
    (∀ port, Reaches s port Reg.TWIN_CTRL 8 → fbit s Reg.TWIN_CTRL_STATUS 0 = false → twinSt s = 4 →
      fld s Reg.TWIN_STATE 11 8 = 7 → s.twin.formed = true → (holders s).all (compat 3) = true →
      Completes (.release port) s fun t => twinSt t = 2 ∧ t.twin.resyncs = [] ∧ Acting t 4) ∧
    (twinSt s = 2 → s.twin.formed = true → fld s Reg.TWIN_RESYNC_STATUS 2 0 = 0 →
      (∀ r, s.twin.retryRaw = some r → r + 1000000000 ≤ s.raw) → (holders s).all (compat 3) = true →
      Completes .autoResync s fun t => rd t Reg.TWIN_RESYNC_STATUS = 1 ∧ twinSt t = 2 ∧ t.twin.resyncRaw = s.raw) ∧
    (∀ r, s.twin.rejoinRaw = some r → r + 100000000 ≤ s.raw → actF s Reg.TWIN_CFG 6 6 = 1 → s.twin.action = 0 →
      rejoinReady s = true → exec .autoRejoin s = .next { s with
        twin := { s.twin with action := 2, actionCycle := s.cyc.count + 16, acked := false, rejoinRaw := none } }) ∧
    (fld s Reg.TWIN_RESYNC_STATUS 2 0 = 1 → s.twin.pages = [] → Completes .resyncPhaseDone s fun t =>
      fld t Reg.TWIN_RESYNC_STATUS 2 0 = 2 ∧ t.twin = s.twin) ∧
    (fld s Reg.TWIN_RESYNC_STATUS 2 0 = 2 → s.twin.pages.length ≤ 1024 → twinSt s = 1 → Completes .resyncPhaseDone s fun t =>
      fld t Reg.TWIN_RESYNC_STATUS 2 0 = 3 ∧
        t.twin = { s.twin with action := 3, actionCycle := s.cyc.count + 16, acked := false }) ∧
    (fld s Reg.TWIN_RESYNC_STATUS 2 0 = 5 → 32 ≤ s.twin.matched → twinSt s = 2 → Completes .resyncPhaseDone s fun t =>
      twinSt t = 3 ∧ rd t Reg.TWIN_RESYNC_STATUS = 0 ∧ fbit t Reg.FPM_MAINT_STATUS 3 = false) ∧
    (fld s Reg.TWIN_RESYNC_STATUS 2 0 ≠ 0 → s.twin.resyncRaw + 2000000000 ≤ s.raw → twinSt s = 2 →
      Completes .resyncTimeout s fun t => twinSt t = 4 ∧ rd t Reg.TWIN_RESYNC_STATUS = 0 ∧ fbit t Reg.FPM_MAINT_STATUS 3 = false) ∧
    (s.twin.action = 1 ∨ s.twin.action = 2 → s.twin.acked = false → (s.twin.actionCycle - s.cyc.count).toNat ≤ 8 →
      Completes .actionAckTimeout s fun t => t.twin = { s.twin with action := 0, acked := false } ∧ t.mem = s.mem)

/-- SAFETY_CYCLE_START, SAFETY_OUTPUT_INSTANT, PDU_ISSUE (R396, R401, R404). -/
def Obligations.SafetyCycleCompletes : Prop :=
  ∀ s : State, Awake s → islandSt s = 1 →
    (startDue s = true → Completes .safetyCycleStart s fun t => t.safe.startRaw = s.raw ∧ t.safe.startCount = s.cyc.count ∧
      t.safe.since = 0 ∧ t.safe.outDue = true ∧ t.safe.pduDue = true ∧ (s.safe.conns = [] → t.safe.terms = s.safe.terms.map (evalTerm s)) ∧ t.mem = s.mem) ∧
    (s.safe.outDue = true → sEff s ≤ sinceStart s * 2 → Completes .safetyOutputInstant s fun t => t.safe.outDue = false ∧ t.safe.conns = s.safe.conns ∧
      t.safe.terms = s.safe.terms ∧ (s.safe.groups = [] → s.safe.axes = [] → ∀ k, (safeOut t k).on = false) ∧ t.mem = s.mem) ∧
    (s.safe.pduDue = true → atInstant s = true → sEff s ≤ sinceStart s * 2 → Completes .pduIssue s fun t => t.safe.pduDue = false ∧ t.mem = s.mem ∧
      ∀ c x, c < 126 → s.safe.conns = [(c, x)] → x.named = true → x.off = false → connSt s c = 2 →
        tget (fun _ => []) t.ring.pdus (c + 1) =
          makePdu x.ident (driveData s c) (fld s (Reg.SAFE_CONN_TXSEQ c) 15 0 % 65535 + 1) 0 ∧
        rd t (Reg.SAFE_CONN_TXSEQ c) = word (fld s (Reg.SAFE_CONN_TXSEQ c) 15 0 % 65535 + 1))

/-- SELVEDGE_DATAGRAM, SELVEDGE_WATCHDOG (R402, R403, R404). -/
def Obligations.SelvedgeCommandsComplete : Prop :=
  ∀ s : State, Awake s →
    (∀ (ip : Word) (port : Half) (b : List Byte) (h : Nat), FromPeer s h ip.toNat port b → connSt s (126 + h) = 2 →
      b.drop 8 ≠ List.replicate 16 0xFF → pduOk (conn s (126 + h)).ident (b.drop 8) = true → (conn s (126 + h)).lastSeq ≠ 0 →
      field (b.drop 8) 8 2 ≠ 0 →
      1 ≤ seqAhead (conn s (126 + h)).lastSeq (field (b.drop 8) 8 2) →
      seqAhead (conn s (126 + h)).lastSeq (field (b.drop 8) 8 2) ≤ (conn s (126 + h)).window →
      field (b.drop 8) 8 2 ≠ (conn s (126 + h)).lastSeq →
      Completes (.selvedgeDatagram ip port b) s fun t => (conn t (126 + h)).pdu = b.drop 8 ∧
        (conn t (126 + h)).lastSeq = field (b.drop 8) 8 2 ∧ (conn t (126 + h)).wdRaw = some s.raw ∧
        (conn t (126 + h)).newPdu = true ∧ connSt t (126 + h) = 2 ∧ t.mem = s.mem) ∧
    (∀ (ip : Word) (port : Half) (b : List Byte) (h : Nat), FromPeer s h ip.toNat port b → connSt s (126 + h) = 2 →
      pduOk (conn s (126 + h)).ident (b.drop 8) = true → (conn s (126 + h)).lastSeq ≠ 0 →
      field (b.drop 8) 8 2 = (conn s (126 + h)).lastSeq → b.drop 8 = (conn s (126 + h)).pdu →
      exec (.selvedgeDatagram ip port b) s = .next s) ∧
    (∀ (ip : Word) (port : Half) (b : List Byte) (h : Nat), FromPeer s h ip.toNat port b → connSt s (126 + h) = 2 →
      b.drop 8 ≠ List.replicate 16 0xFF → pduOk (conn s (126 + h)).ident (b.drop 8) = false → (conn s (126 + h)).crcRaws = [] → 1 ≤ (conn s (126 + h)).crcMax →
      Completes (.selvedgeDatagram ip port b) s fun t => (conn t (126 + h)).pdu = (conn s (126 + h)).pdu ∧
        (conn t (126 + h)).crcRaws = [s.raw] ∧ connSt t (126 + h) = 2 ∧ rd t (Reg.SAFE_CONN_CRC_CNT (126 + h)) =
          word (min ((rd s (Reg.SAFE_CONN_CRC_CNT (126 + h))).toNat + 1) (2 ^ 32 - 1))) ∧
    (∀ (ip : Word) (port : Half) (b : List Byte) (h : Nat), FromPeer s h ip.toNat port b → b.drop 8 = List.replicate 16 0xFF →
      exec (.selvedgeDatagram ip port b) s = .next s) ∧
    (∀ (c : Byte) r, c.toNat < 134 → islandSt s = 1 → connSt s c.toNat = 2 → (conn s c.toNat).wdRaw = some r →
      (conn s c.toNat).watchdog * 1000000 ≤ s.raw - r → Completes (.selvedgeWatchdog c) s fun t => connSt t c.toNat = 3 ∧
        fld t (Reg.SAFE_CONN_STATE c.toNat) 6 4 = 3 ∧ (conn t c.toNat).wdRaw = none ∧ connData t c.toNat = 0 ∧
        rd t (Reg.SAFE_CONN_ERR_CNT c.toNat) = word (min ((rd s (Reg.SAFE_CONN_ERR_CNT c.toNat)).toNat + 1) (2 ^ 32 - 1)) ∧
        t.mem = s.mem)

/-- DISCREPANCY_TIMEOUT, SS1_TIME_EXPIRY, STO_AFTER_BRAKE, SLO_FEEDBACK_TIMEOUT (R411, R414, R415, R416). -/
def Obligations.SafetyTimersComplete : Prop :=
  ∀ s : State, Awake s →
    (∀ (i : Byte) (x : DemandTerm) r, s.safe.terms[i.toNat]? = some x → x.differ = some r → x.held = false →
      x.disc * 1000000 < s.raw - r → Completes (.discrepancyTimeout i) s fun t =>
        t.safe = { s.safe with terms := s.safe.terms.set i.toNat { x with held := true, present := true } } ∧ t.mem = s.mem) ∧
    (∀ (a : Byte) r v, islandSt s = 1 → (safeAxis s a.toNat).ss1 = some (r, v) →
      (safeAxis s a.toNat).ss1Time * 1000000 ≤ s.raw - r → demanded s 2 a.toNat = true → demanded s 1 a.toNat = false →
      (safeAxis s a.toNat).sbc = false → Completes (.ss1TimeExpiry a) s fun t => (safeAxis t a.toNat).ssDone = true ∧
        (safeAxis t a.toNat).sto = true ∧ (∀ b, b ≠ a.toNat → safeAxis t b = safeAxis s b) ∧ t.mem = s.mem) ∧
    (∀ (a : Byte) r, islandSt s = 1 → (safeAxis s a.toNat).brakeRaw = some r →
      (safeAxis s a.toNat).stoAfter * 1000000 ≤ s.raw - r → (safeAxis s a.toNat).sto = false →
      Completes (.stoAfterBrake a) s fun t => safeAxis t a.toNat = { safeAxis s a.toNat with sto := true } ∧
        t.prof.requests = s.prof.requests ++ [.disable a.toNat] ∧ 
        ((safeAxis s a.toNat).demands < 512 → fbit t (Reg.SAFE_AX_STATE a.toNat) 12 = true) ∧ t.mem = s.mem) ∧
    (∀ g : Fin 8, islandSt s = 1 → (sloGroup s g).isOff = true → (sloGroup s g).outs ≠ [] → (sloGroup s g).latched = false →
      (sloGroup s g).shown = true ∨ (sloGroup s g).fbTime * 1000000 ≤ s.raw - (sloGroup s g).offRaw → fbSafe s (sloGroup s g) = false →
      Completes (.sloFeedbackTimeout g) s fun t => sloGroup t g = { sloGroup s g with latched := true, acked := false } ∧
        t.mem = s.mem)

/-- EDM_TIMEOUT, TEST_PULSE_START, TEST_PULSE_END (R417, R418). -/
def Obligations.SafeOutputCommandsComplete : Prop :=
  ∀ s : State, Awake s → ∀ k : Fin 16,
    (∀ r, islandSt s = 1 → (safeOut s k).switched = some r → edmShows s (safeOut s k) (safeOut s k).on = false →
      (safeOut s k).latched = false → (safeOut s k).edmTime * 1000000 ≤ s.raw - r → Completes (.edmTimeout k) s fun t =>
        safeOut t k = { safeOut s k with latched := true, on := false, switched := none, pulsing := false } ∧
          (∀ a ∈ outBrakes s k, (safeAxis t a).forced = true ∧ (safeAxis t a).sto = true) ∧ t.mem = s.mem) ∧
    (islandSt s = 1 → (safeOut s k).on = true → (safeOut s k).pulsing = false → outGroups s k = [] →
      (safeOut s k).pulsePeriod * 1000000 ≤ s.raw - (safeOut s k).pulseRaw →
      Completes (.testPulseStart k) s fun t => safeOut t k = { safeOut s k with pulsing := true, pulseRaw := s.raw } ∧
        t.fio = { s.fio with pulses := s.fio.pulses + 2 ^ k.val } ∧ t.mem = s.mem) ∧
    ((safeOut s k).pulsing = true → (safeOut s k).pulseW * 1000 ≤ s.raw - (safeOut s k).pulseRaw → bit s.fio.pulses k = true →
      Completes (.testPulseEnd k true true) s fun t =>
      safeOut t k = { safeOut s k with pulsing := false } ∧ t.fio = { s.fio with pulses := s.fio.pulses - 2 ^ k.val } ∧
        t.mem = s.mem) ∧
    ((safeOut s k).pulsing = true → (safeOut s k).pulseW * 1000 ≤ s.raw - (safeOut s k).pulseRaw → (safeOut s k).latched = false → ∀ sawOff backOn, (sawOff && backOn) = false →
      Completes (.testPulseEnd k sawOff backOn) s fun t => safeOut t k =
        { safeOut s k with latched := true, on := false, switched := none, pulsing := false })

/-- ISLAND_START_DONE, ISLAND_FAULT, ISLAND_SAFE_STATE_ENTRY (R394, R424, R465). -/
def Obligations.IslandCommandsComplete : Prop :=
  ∀ s : State, Awake s →
    (∀ bs f, islandSt s = 0 → s.safe.tested = false → fld s Reg.SEC_STATUS 2 0 < 4 → paramSet s (fld s Reg.SEC_STATUS 5 5) = some bs →
      parseSet bs = some f → Completes (.islandStartDone true) s fun t => islandSt t = 1 ∧
        rd t Reg.SAFE_PARAM_SIG = word (crc32c bs) ∧ fbit t Reg.SAFE_STATUS 4 = true ∧ t.safe.period = f.period ∧
        t.sec.paramHash = Config.sha256 bs) ∧
    (islandSt s = 0 → s.safe.tested = false → fld s Reg.SEC_STATUS 2 0 < 4 → Completes (.islandStartDone false) s fun t => islandSt t = 2 ∧
      rd t Reg.SAFE_FAULT_CAUSE = 8) ∧
    (islandSt s = 0 → s.safe.tested = false → fld s Reg.SEC_STATUS 2 0 < 4 →
      (∀ bs, paramSet s (fld s Reg.SEC_STATUS 5 5) = some bs → parseSet bs = none) →
      Completes (.islandStartDone true) s fun t => islandSt t = 0 ∧ t.safe = { s.safe with tested := true } ∧ t.mem = s.mem) ∧
    (∀ cause : Byte, islandSt s ≠ 2 → twinReady s = false → Completes (.islandFault cause) s fun t => islandSt t = 2 ∧
      rd t Reg.SAFE_FAULT_CAUSE = cause.setWidth 32 ∧ t.safe = { s.safe with zeroed := true, zeroShuttles := 0 } ∧
      t.ring = { s.ring with pdus := [] } ∧ readMem t .ret 8324 4 = leBytes 4 cause.toNat ∧ chipSafe t = chipSafe s) ∧
    (∀ cause : Byte, islandSt s ≠ 2 → twinReady s = true → Completes (.islandFault cause) s fun t => islandSt t = 2 ∧
      chipSafe t = true ∧ t.ring = s.ring) ∧
    (s.safe.zeroed = true → 2 ≤ s.safe.zeroShuttles ∨ leads s = false → chipSafe s = false → Completes .islandSafeStateEntry s fun t =>
      chipSafe t = true ∧ fbit t Reg.FPM_ALIVE 1 = true ∧ rd t Reg.FPM_CAUSE = word (2 + 11 * 2 ^ 8 + 11 * 2 ^ 16) ∧
        t.safe = s.safe)

/-- FIO_DOWNLINK_FRAME, FIO_DOWNLINK_RECEIVE, FIO_UPLINK_FRAME, FIO_LINK_TIMEOUT (R431-R434, R442), and the filter of an input: it takes
a level once n samples in a row agree on it, and no sooner (R436). -/
def Obligations.FieldLinkCommandsComplete : Prop :=
  ∀ s : State, Awake s →
    ((∀ r, s.fio.sentRaw = some r → r + 10000 ≤ s.raw) → s.fio.await = false → Completes .fioDownlinkFrame s fun t =>
      ∃ d, t.fio = { s.fio with sentRaw := some s.raw, down := some d, await := true } ∧
      d.safe = islandSafe s ∧ d.pulses = s.fio.pulses ∧ d.resume = s.fio.resume ∧ t.mem = s.mem ∧
      ∀ k, k < 16 → bit d.outs k = if safeOutput s k then bit s.fio.safeOn k else bit s.fio.standard k) ∧
    ((∀ r, s.fio.sentRaw = some r → r + 10000 ≤ s.raw) → s.fio.await = true → islandSt s = 1 →
      Completes .fioDownlinkFrame s fun t => islandSt t = 2 ∧ rd t Reg.SAFE_FAULT_CAUSE = 7 ∧
        ∃ d, t.fio.down = some d ∧ d.safe = true) ∧
    (∀ d samples, s.fio.down = some d → Completes (.fioDownlinkReceive ⟨true, samples⟩) s fun t => t.fio.down = none ∧ t.fio.die = d ∧
      t.fio.downRaw = s.raw ∧ t.fio.tripped = (s.fio.tripped && !d.resume) ∧
      (∃ u, t.fio.up = some u ∧ u.sampled = mtime s) ∧
      (∀ k, k < 16 → bit t.fio.applied k = appliedTo t k) ∧ t.mem = s.mem) ∧
    (∀ arrival, s.fio.down = none ∨ arrival.crcOk = false → Completes (.fioDownlinkReceive arrival) s fun t =>
      t.fio = { s.fio with down := none, ins := arrival.samples.foldl (dieTick (dieCfg s)) s.fio.ins }) ∧
    (∀ up report, s.fio.up = some up → up.broken = 0 → up.failed = 0 → s.fio.blocked = 0 → Completes (.fioUplinkFrame report true) s fun t =>
      t.fio.inputs = up.inputs ∧ t.fio.await = false ∧ t.fio.up = none ∧ rd t Reg.FIO_IN_RAW = up.raw ∧ rd t Reg.FIO_IN_WB = 0 ∧
      rd t Reg.FIO_IN_FLT = rd s Reg.FIO_IN_FLT ∧ rd t Reg.FIO_VFIELD = report.vfield.setWidth 32 ∧
      rd t Reg.FIO_TEMP = report.temp.setWidth 32 ∧ fbit t Reg.FIO_STATUS 0 = true ∧
      fbit t Reg.FIO_STATUS 1 = !s.fio.tripped ∧ t.mem = s.mem) ∧
    (∀ up report, s.fio.up = some up → Completes (.fioUplinkFrame report false) s fun t => fbit t Reg.FIO_STATUS 0 = false ∧
      t.fio.validRaw = none ∧ t.fio.up = none ∧
      rd t Reg.FIO_LINK_ERR_CNT = word (min ((rd s Reg.FIO_LINK_ERR_CNT).toNat + 1) (2 ^ 32 - 1)) ∧
      t.fio.inputs = s.fio.inputs ∧ (islandSt s = 1 → islandSt t = 2)) ∧
    (s.fio.tripped = false → actF s Reg.FIO_LINK_CFG 12 0 * 10000 < s.raw - s.fio.downRaw →
      Completes .fioLinkTimeout s fun t => t.fio.tripped = true ∧ t.fio.report = true ∧
        (s.fio.die.safe = false → t.fio.hold = s.fio.applied) ∧ (∀ k, k < 16 → bit t.fio.applied k =
          if s.fio.dead then false else safeLevel t k) ∧ t.mem = s.mem) ∧
    (∀ (x : DieInput) n c m, 1 ≤ n → n ≤ m → ((List.replicate m c).foldl (fun y k => y.filter n k) x).cls = c) ∧
    (∀ (x : DieInput) n ks k, x.run = 0 →
      (((ks ++ [k]).foldl (fun y k => y.filter n k) x).cls ≠ (ks.foldl (fun y k => y.filter n k) x).cls →
        ((ks ++ [k]).foldl (fun y k => y.filter n k) x).cls = k ∧ n ≤ ks.length + 1 ∧ ∀ j ∈ (ks ++ [k]).reverse.take n, j = k))

/-- OUTPUT_OVERLOAD, OVERLOAD_RETRY, READBACK_MISMATCH, FIO_COMMIT, FIO_OUT_WRITE (R441, R443, R444). -/
def Obligations.FieldOutputCommandsComplete : Prop :=
  ∀ s : State, Awake s →
    (∀ k : Fin 16, bit s.fio.latched k = false → Completes (.outputOverload k) s fun t =>
      bit t.fio.latched k = true ∧ fbit t Reg.FIO_OUT_FLT k = true ∧ tget (fun _ => 0) t.fio.latchRaw k.val = s.raw ∧
        (s.fio.tripped = false → s.fio.die.safe = false → bit t.fio.applied k = false) ∧ t.mem = s.mem) ∧
    (∀ k : Fin 16, bit s.fio.latched k = true → actF s (Reg.FIO_OUT_CFG k) 16 16 = 1 →
      tget (fun _ => 0) s.fio.latchRaw k.val + 100000000 ≤ s.raw → Completes (.overloadRetry k) s fun t =>
      bit t.fio.latched k = false ∧ rd t Reg.FIO_OUT_FLT = rd s Reg.FIO_OUT_FLT ∧
        bit t.fio.applied k = appliedTo t k ∧ t.mem = s.mem) ∧
    (∀ (k : Fin 16) e, s.fio.differs.find? (fun e => e.1 == k.val) = some e → e.2 + 1000000 ≤ s.raw → safeOutput s k = false →
      Completes (.readbackMismatch k) s fun t =>
      fbit t Reg.FIO_OUT_FLT (16 + k) = true ∧ t.fio = s.fio ∧ t.mem = s.mem) ∧
    (∀ port v, Reaches s port Reg.FIO_BASTE_COMMIT v → wbit v 0 = true →
      exec (.fioCommit port v) s = .next (okBus (setBit s Reg.FIO_BASTE_STATUS 0 true))) ∧
    (∀ port v, Reaches s port Reg.FIO_OUT v → Completes (.fioOutWrite port v) s fun t => t.bus.err = false ∧
      (∀ k, k < 16 → fbit t Reg.FIO_OUT k = if safeOutput s k || actF s (Reg.FIO_OUT_CFG k) 3 2 != 0 then fbit s Reg.FIO_OUT k
        else wbit v k) ∧ t.fio = s.fio ∧ ∀ a, a ≠ Reg.FIO_OUT → rd t a = rd s a)

/-- GRACE_EXPIRY, FAULT_ACK, HIST_CLEAR, BLOCK_RESET_DONE, DEFERRED_BLOCK_RESET, QUIESCE_END (R456, R459-R463). -/
def Obligations.LadderCommandsComplete : Prop :=
  ∀ s : State, Awake s → ∀ blk : Fin 16,
    (∀ (ev : Fin 32) c, (s.flt.climbs.find? fun c => c.blk == blk.val && c.ev == ev.val && c.due ≤ s.raw) = some c →
      Completes (.graceExpiry blk ev) s fun t =>
        (c.rung = 1 → cellOff t blk (c.cell.getD 0) = true) ∧
        (c.rung = 2 → neverAlone.contains blk.val = false → (holdsAxes.contains blk.val = false ∨ anyEnabled s = false) →
          t.flt.resetting.contains blk.val = true) ∧
        (c.rung = 2 → neverAlone.contains blk.val = true → fbit t Reg.FPM_STATUS 0 = true) ∧
        (c.rung = 2 → neverAlone.contains blk.val = false → holdsAxes.contains blk.val = true → anyEnabled s = true →
          fbit t Reg.FPM_STATUS 0 = true ∧ t.flt.deferred.contains blk.val = true) ∧
        (c.rung = 3 → fbit t Reg.FPM_STATUS 0 = true) ∧ (c.rung = 4 → chipSafe t = true)) ∧
    (∀ port v, Reaches s port (ackReg blk) v → Completes (.faultAck port blk v) s fun t => t.bus.err = false ∧
      t.flt = { s.flt with climbs := s.flt.climbs.filter fun c => !(c.blk == blk.val && c.ev == wbits v 4 0) } ∧
        ∀ a, a ≠ Reg.FLT_RUNG blk → rd t a = rd s a) ∧
    (∀ port v, blk.val ≠ SAFE → Reaches s port (Reg.FLT_HIST_CLR blk) v → wbit v 0 = true →
      Completes (.histClear port blk v) s fun t => t.bus.err = false ∧ history t blk = [] ∧
        (∀ b, b ≠ blk.val → history t b = history s b) ∧ rd t (Reg.FLT_HIST_CNT blk) = 0 ∧
        ∀ a, a ≠ Reg.FLT_HIST_CNT blk → rd t a = rd s a) ∧
    (∀ us, s.flt.resetting.contains blk.val = true → Completes (.blockResetDone blk us) s fun t =>
      t.flt.resetting.contains blk.val = false ∧ rd t Reg.FPM_RESET_TIME = word (us.toNat + blk.val * 65536) ∧ t.mem = s.mem) ∧
    (s.flt.deferred.contains blk.val = true → anyEnabled s = false → onInstant s = true → Completes (.deferredBlockReset blk) s fun t =>
      t.flt.resetting.contains blk.val = true ∧ t.flt.deferred.contains blk.val = false) ∧
    (s.flt.resetting.contains blk.val = false → tget (fun _ => 0) s.flt.resetRaw blk.val + 64 * cycleNs s ≤ s.raw →
      exec (.quiesceEnd blk) s = .next { s with flt := { s.flt with
      quiesce := s.flt.quiesce.filter (· != blk.val), suppressed := s.flt.suppressed.filter (· != blk.val) } })

/-- REGION_STOP_STO_REQUEST, CLEAR_STOP, SAFE_STATE, INJECT, ALIVE_TOGGLE, TEMPERATURE_REFRESH (R464-R469, R564). -/
def Obligations.StopCommandsComplete : Prop :=
  ∀ s : State, Awake s →
    (∀ r, s.flt.stopRaw = some r → fbit s Reg.FPM_STATUS 0 = true → s.flt.stoSent = false → onInstant s = true →
      (atRest s = true ∨ fld s Reg.FPM_CFG 13 0 * 1000000 ≤ s.raw - r) → Completes .regionStopStoRequest s fun t =>
        t.flt = { s.flt with stoSent := true, disableAfter := false } ∧
          t.prof.requests = s.prof.requests ++ (if s.flt.disableAfter then (enabledAxes s).map .disable else []) ∧
          (∀ a ∈ safeAxes s, safeAxis t a = { safeAxis s a with forced := true }) ∧ t.mem = s.mem) ∧
    (∀ port, Reaches s port Reg.FPM_CTRL 1 → s.flt.climbs = [] → Completes (.clearStop port) s fun t =>
      fbit t Reg.FPM_STATUS 0 = false ∧ fld t Reg.FPM_CTRL_STATUS 3 1 = 1 ∧ t.flt.stopRaw = none ∧ t.bus.err = false) ∧
    (∀ port, Reaches s port Reg.FPM_CTRL 1 → s.flt.climbs ≠ [] → Completes (.clearStop port) s fun t =>
      rd t Reg.FPM_STATUS = rd s Reg.FPM_STATUS ∧ fld t Reg.FPM_CTRL_STATUS 3 1 = 2 ∧ t.flt = s.flt) ∧
    (∀ port, Reaches s port Reg.FPM_CTRL 2 → chipSafe s = false → Completes (.safeState port) s fun t => chipSafe t = true ∧
      rd t Reg.FPM_CAUSE = 3 ∧ fbit t Reg.FPM_ALIVE 1 = true ∧ fld t Reg.FPM_CTRL_STATUS 3 1 = 1 ∧
      readMem t .ret 8320 4 = leBytes 4 3 ∧ bit t.pwr.txdis 0 = true ∧ bit t.pwr.txdis 1 = true) ∧
    (∀ port blk ev, Reaches s port Reg.FPM_INJ_CTRL 1 → s.pwr.factory = true → s.pwr.debugLevel = 2 → s.sec.fuseLock = false →
      fld s Reg.FPM_INJ_TARGET 15 8 = blk → fld s Reg.FPM_INJ_TARGET 4 0 = ev → blk < 13 → severity s blk ev ≤ 1 →
      masker s blk ev = none → Completes (.inject port) s fun t => ∃ h, history t blk = (h :: history s blk).take 8 ∧
        wbits h.w0 4 0 = ev ∧ wbit h.w0 7 = true ∧ wbit h.w0 8 = false ∧ h.w1 = rd s Reg.FPM_INJ_CONTEXT) ∧
    (s.pwr.aliveOn = true → fbit s Reg.FPM_ALIVE 1 = false → s.pwr.lost.contains 0 = false → s.pwr.aliveAt ≤ s.raw + 30500 →
      Completes .aliveToggle s fun t =>
      fbit t Reg.FPM_ALIVE 0 = !fbit s Reg.FPM_ALIVE 0 ∧ t.out = s.out ++ [.pin "ALIVE" (!fbit s Reg.FPM_ALIVE 0) s.raw] ∧
        ∀ a, a ≠ Reg.FPM_ALIVE → rd t a = rd s a) ∧
    (∀ readings, readings ≠ [] → s.pwr.tempSeen = false ∨ 1000000 ≤ s.raw - s.pwr.tempRaw → Completes (.temperatureRefresh readings) s fun t =>
      (∃ r ∈ readings, fld t Reg.SYS_TJ 15 0 = r.toNat) ∧ (∀ r ∈ readings, r.toInt ≤ sgn 16 (fld t Reg.SYS_TJ 15 0)) ∧
        (s.pwr.tempSeen = true → sgn 16 (fld t Reg.SYS_TJ 31 16) =
          max (sgn 16 (fld t Reg.SYS_TJ 15 0)) (sgn 16 (fld s Reg.SYS_TJ 31 16))) ∧
        (fld s Reg.SYS_ORDER_CODE 0 0 = 0 → 920 < sgn 16 (fld t Reg.SYS_TJ 15 0) → islandSt t = 2))

/-- LEAVE_REQUEST, LEAVE_GRANT, LEAVE_END, MAINT_REQUEST, MAINT_RELEASE (R470-R475). -/
def Obligations.PowerCommandsComplete : Prop :=
  ∀ s : State, Awake s →
    (∀ (requester : Byte) cls (rail : Fin 5) current duration, 1 ≤ cls.toNat → cls.toNat ≤ 8 → (s.pwr.queue.any fun x => x.requester == requester.toNat) = false →
      Completes (.leaveRequest requester cls rail current duration) s fun t =>
        t.pwr = { s.pwr with queue := s.pwr.queue ++
          [⟨requester.toNat, cls.toNat, rail, current.toNat, min duration.toNat 1000, s.raw⟩] } ∧
        rd t Reg.FPM_LEAVE_QLEN = word (s.pwr.queue.length + 1)) ∧
    (∀ (requester : Byte) cls (rail : Fin 5) current duration, cls.toNat = 0 ∨ 8 < cls.toNat →
      exec (.leaveRequest requester cls rail current duration) s = .next s) ∧
    (∀ (rail : Fin 5) q, nextLeave s rail = some q → leaveFits s q = true → (∀ i, i < 4 → (spool s i).dump = none) →
      Completes (.leaveGrant rail) s fun t =>
      t.pwr.queue = s.pwr.queue.erase q ∧ t.pwr.granted = s.pwr.granted ++ [{ q with raw := s.raw }] ∧
        rd t (Reg.FPM_RAIL_GRANT rail) = word (railGrant s rail + q.current)) ∧
    (∀ (rail : Fin 5) q (i : Fin 4) a dst n, nextLeave s rail = some q → leaveFits s q = true → q.requester = dumpRequester i →
      (spool s i).dump = some (a, dst, n) → n ≤ leaveBytes → s.pwr.off.contains .mem = false →
      (∀ j, j < 4 → j ≠ i.val → (spool s j).dump = none) → Completes (.leaveGrant rail) s fun t =>
        (spool t i).dump = none ∧ readMem t .arch dst n = readMem s .bolt a n ∧ fld t (Reg.ACQ_SP_STATE i) 19 16 = 1 ∧
        fbit t Reg.FPM_MAINT_STATUS 7 = false ∧
        ∀ r x, r ≠ .arch ∨ x < dst ∨ dst + n ≤ x → t.mem.read r x = s.mem.read r x) ∧
    (∀ (rail : Fin 5) q, nextLeave s rail = some q → leaveFits s q = false → (∀ i, i < 4 → (spool s i).dump = none) →
      exec (.leaveGrant rail) s = .next s) ∧
    (∀ (requester : Byte) g, (s.pwr.granted.find? fun g => g.requester == requester.toNat) = some g → g.rail < 5 →
      g.duration * 1000 ≤ s.raw - g.raw →
      Completes (.leaveEnd requester false) s fun t => t.pwr = { s.pwr with granted := s.pwr.granted.erase g } ∧
        t.flt = s.flt ∧ rd t (Reg.FPM_RAIL_GRANT g.rail) = word (railGrant t g.rail)) ∧
    (∀ port (act : BitVec 4), act.toNat < 9 → Reaches s port Reg.FPM_MAINT_REQ (word act.toNat) →
      (∀ h ∈ holders s, compat act.toNat h = true) → Completes (.maintRequest port act) s fun t =>
        fbit t Reg.FPM_MAINT_STATUS act.toNat = true ∧ fld t Reg.FPM_MAINT_STATUS 22 20 = 1 ∧
        fld t Reg.FPM_MAINT_STATUS 19 16 = act.toNat ∧ ∀ a, a ≠ Reg.FPM_MAINT_STATUS → rd t a = rd s a) ∧
    (∀ port (act : BitVec 4), act.toNat < 9 → Reaches s port Reg.FPM_MAINT_REQ (word act.toNat) →
      (∃ h ∈ holders s, compat act.toNat h = false) → Completes (.maintRequest port act) s fun t =>
        holders t = holders s ∧ fld t Reg.FPM_MAINT_STATUS 22 20 = 3 ∧ fld t Reg.FPM_MAINT_STATUS 19 16 = act.toNat) ∧
    (∀ port (act : BitVec 4), act.toNat < 9 → Reaches s port Reg.FPM_MAINT_REQ (word (act.toNat + 256)) →
      Completes (.maintRelease port act) s fun t => holders t = (holders s).filter (· != act.toNat) ∧
        fld t Reg.FPM_MAINT_STATUS 22 20 = 2 ∧ fld t Reg.FPM_MAINT_STATUS 19 16 = act.toNat ∧ t.bus.err = false)

/-- SUPPLY_OUT_OF_RANGE, SUPPLY_FALL, CLOCK_LOSS, CLOCK_RESTORED (R551, R552, R556). -/
def Obligations.SupplyCommandsComplete : Prop :=
  ∀ s : State,
    (∀ k : Fin 13, Awake s → Completes (.supplyOutOfRange k) s fun t => t.pwr.bad.contains k.val = true ∧
      (k.val < 2 → chipSafe t = true) ∧ (k.val = 2 ∨ k.val = 3 ∨ k.val = 12 → islandSt t = 2) ∧
      (k.val = 11 → t.fio.dead = true ∧ t.fio.tripped = true ∧ ∀ i, i < 16 → bit t.fio.applied i = false) ∧
      (6 ≤ k.val → k.val < 11 → t.regs = s.regs)) ∧
    (∀ k : Fin 13, Completes (.supplyFall k) s fun t => (k.val = 0 → t.sec.inReset = true ∧ t.mem.ret = s.mem.ret) ∧
      (k.val = 2 → t.sec.inReset = true ∧ t.mem.ret = []) ∧
      (k.val = 11 → t.fio.dead = true ∧ ∀ i, i < 16 → bit t.fio.applied i = false) ∧
      (k.val ≠ 0 → k.val ≠ 2 → k.val ≠ 11 → t = s)) ∧
    (∀ k : Fin 3, Awake s → Completes (.clockLoss k) s fun t => t.pwr.lost.contains k.val = true ∧ (k.val = 1 → islandSt t = 2) ∧
      (k.val = 0 → t.regs = s.regs) ∧ (k.val = 2 → fld t Reg.HOST_STATUS 7 0 = 0 ∧ fld t Reg.HOST_STATUS 9 8 = 0)) ∧
    (∀ k : Fin 3, Awake s → exec (.clockRestored k) s =
      .next { s with pwr := { s.pwr with lost := s.pwr.lost.filter (· != k.val) } })

/-- RESET_ASSERT, RESET_RELEASE, LONG_RESET, BOOT_LOAD_DONE (R480-R484). -/
def Obligations.ResetCommandsComplete : Prop :=
  ∀ s : State,
    (Awake s → Completes .resetAssert s fun t => t.sec.inReset = true ∧ t.mem = { s.mem with bolt := [] } ∧ t.raw = s.raw ∧
      (∃ more, t.out = s.out ++ .pin "ALIVE" false s.raw :: more) ∧ (∀ p, p < 4 → bit t.pwr.txdis p = true) ∧ ringSt t = 0 ∧ t.prof = State.reset.prof ∧ t.fio.die = s.fio.die ∧
      t.fio.applied = s.fio.applied) ∧
    (∀ duration aon boot rank, s.sec.inReset = true → s.sec.powerFell = false → s.sec.longReset = false → duration.toNat ≤ 30000 →
      Completes (.resetRelease false duration aon boot rank) s fun t => t.sec.inReset = false ∧ t.raw = 0 ∧
        rd t Reg.SEC_RESET_INFO = 2 ∧ rd t Reg.SEC_RESET_DUR = duration ∧ t.sec.bootSel = boot.val ∧
        t.ring.rankPins = rank.val ∧ t.mem.arch = s.mem.arch) ∧
    (∀ duration aon boot rank, s.sec.inReset = true → s.sec.powerFell = false → 30000 < duration.toNat →
      Completes (.resetRelease false duration aon boot rank) s fun t => t.sec.inReset = false ∧ t.raw = 0 ∧
        rd t Reg.SEC_RESET_INFO = 51 ∧ t.mem.arch = [] ∧ t.sec.lockout = false) ∧
    (∀ duration aon boot rank, s.sec.inReset = true → Completes (.resetRelease true duration aon boot rank) s fun t =>
      t.sec.inReset = false ∧ t.raw = 0 ∧ rd t Reg.SEC_RESET_INFO = 17 ∧ t.mem.arch = [] ∧ t.sec.powerFell = false) ∧
    (s.sec.inReset = true → Completes .longReset s fun t => t.mem = { s.mem with arch := [] } ∧
      t.sec = { s.sec with longReset := true }) ∧
    (Awake s → fld s Reg.SEC_STATUS 2 0 = 1 → Completes .bootLoadDone s fun t => fld t Reg.SEC_STATUS 2 0 = 2 ∧
      rd t Reg.SEC_MANIFEST_VER = word (field (manifestNow s) 8 4) ∧ t.twin.manifestHash = word (crc32c (manifestNow s)) ∧
      t.pwr.off.contains .mem = false ∧
      ∀ a, a ≠ Reg.SEC_STATUS → a ≠ Reg.SEC_MANIFEST_VER → rd t a = rd s a)

/-- CONFIGURATION_APPLY (R492). -/
def Obligations.ConfigurationApplyCompletes : Prop :=
  ∀ s : State, Awake s → fld s Reg.SEC_STATUS 2 0 = 2 → onTrial s = false →
    (cfgSet (areaBytes s (fld s Reg.SEC_STATUS 5 5)) = none → Completes .configurationApply s fun t =>
      fld t Reg.SEC_STATUS 2 0 = 4 ∧ rd t Reg.SEC_CFG_REFUSED = 0xFFFF ∧ islandSt t = 0 ∧ t.mem = s.mem) ∧
    (∀ rs r, cfgSet (areaBytes s (fld s Reg.SEC_STATUS 5 5)) = some rs → unreadable rs = some r → Completes .configurationApply s
      fun t => fld t Reg.SEC_STATUS 2 0 = 4 ∧ rd t Reg.SEC_CFG_REFUSED = word (r.type % 65536 + r.inst % 65536 * 65536)) ∧
    (∀ rs u, cfgSet (areaBytes s (fld s Reg.SEC_STATUS 5 5)) = some rs → unreadable rs = none →
      miscounted rs = none →
      applyAll (areaBytes s (fld s Reg.SEC_STATUS 5 5)) (rs.any fun r => r.type == 5) s (inOrder rs) = .ok u →
      Completes .configurationApply s fun t => fld t Reg.SEC_STATUS 2 0 = 3 ∧ t.sec.applied = true ∧
        rd t Reg.SEC_CFG_SET_HASH = word (crc32c (areaBytes s (fld s Reg.SEC_STATUS 5 5))) ∧
        t.twin.cfgSetHash = word (crc32c (areaBytes s (fld s Reg.SEC_STATUS 5 5))))

/-- ACTIVATION_REQUEST, ACTIVATION_CHECK, ACTIVATION_RESET, HEALTH_CONFIRM, HEALTH_TIMEOUT (R502-R504). -/
def Obligations.ActivationCommandsComplete : Prop :=
  ∀ s : State, Awake s → Solo s →
    (fbit s Reg.SEC_BASTE_STATUS 0 = true → actRefusal s = 0 → onInstant s = true → (∀ h ∈ holders s, compat 1 h = true) →
      Completes .activationRequest s fun t => t.sec.actCycle = some (s.cyc.count + 64) ∧ t.sec.ready = false ∧
        fbit t Reg.SEC_BASTE_STATUS 0 = false ∧ fld t Reg.SEC_BASTE_STATUS 3 1 = 1 ∧ fbit t Reg.FPM_MAINT_STATUS 1 = true ∧
        t.mem = s.mem) ∧
    (fbit s Reg.SEC_BASTE_STATUS 0 = true → actRefusal s ≠ 0 → onInstant s = true → Completes .activationRequest s fun t => t.sec = s.sec ∧
      fbit t Reg.SEC_BASTE_STATUS 0 = false ∧ fld t Reg.SEC_BASTE_STATUS 3 1 = actRefusal s ∧ holders t = holders s) ∧
    (∀ a, s.sec.actCycle = some a → s.sec.ready = false → (a - s.cyc.count).toNat ≤ 8 →
      (s.sec.asked.all fun w => s.sec.answered.contains w) = true → Completes .activationCheck s fun t =>
        t.sec = { s.sec with ready := true } ∧ readMem t .nvm (0x1000 * (1 - (descNow s).2)) 64 =
          { (descNow s).1 with
              seq := ((descNow s).1.seq + 1) % 2 ^ 32, trial := true, tried := false
              migrate := !((partsOf s.sec.manifest).any fun p => p.cls == 5), health := fld s Reg.SEC_ACT_CFG 9 0
              hash := digestOf (Config.sha256 s.sec.manifest) : Desc }.bytes ∧ t.regs = s.regs) ∧
    (∀ a, s.sec.actCycle = some a → s.sec.ready = false → (a - s.cyc.count).toNat ≤ 8 →
      (s.sec.asked.all fun w => s.sec.answered.contains w) = false → Completes .activationCheck s fun t =>
        t.sec.actCycle = none ∧ fld t Reg.SEC_BASTE_STATUS 3 1 = 6 ∧ t.mem = s.mem) ∧
    (∀ a, s.sec.actCycle = some a → s.sec.ready = true → after a s.cyc.count = false → s.sec.follow = false →
      Completes .activationReset s fun t => rd t Reg.SEC_RESET_INFO = 5 ∧ t.raw = 0 ∧ t.sec.inReset = false ∧
        t.sec.actCycle = none ∧ enabledAxes t = []) ∧
    (onTrial s = true → s.sec.healthRaw.isSome = true → healthy s = true →
      ((if leads s then manifestWorkers s (manifestNow s) else []).all fun w => s.sec.workersOk.contains w) = true →
      Completes .healthConfirm s fun t => onTrial t = false ∧ t.sec.healthRaw = none ∧ t.sec.agreed = none ∧
        readMem t .nvm (0x1000 * (1 - (descNow s).2)) 64 =
          { (descNow s).1 with
              seq := ((descNow s).1.seq + 1) % 2 ^ 32, slot := fld s Reg.SEC_STATUS 4 4, area := fld s Reg.SEC_STATUS 5 5
              trial := false, tried := false, migrate := false : Desc }.bytes) ∧
    (∀ r, onTrial s = true → s.sec.healthRaw = some r → s.sec.healthS * 1000000000 ≤ s.raw - r →
      Completes .healthTimeout s fun t => rd t Reg.SEC_RESET_INFO = 5 ∧ t.raw = 0 ∧ t.sec.inReset = false ∧ t.sec.agreed = none)

/-- CONFIRM, REVERT, ABORT_STAGING, NEW_NONCE, SOFTWARE_RESET (R505, R507, R512). -/
def Obligations.SecControlsComplete : Prop :=
  ∀ (s : State) (port : Port),
    (Reaches s port Reg.SEC_CTRL 1 → Completes (.confirm port) s fun t => fld t Reg.SEC_CTRL_STATUS 2 0 = 1 ∧
      fld t Reg.SEC_CTRL_STATUS 5 3 = (if onTrial s then 1 else 2) ∧ (onTrial s = true → t.sec.hostConfirmed = true) ∧
      (onTrial s = false → t.sec = s.sec) ∧ t.mem = s.mem) ∧
    (Reaches s port Reg.SEC_CTRL 2 → anyEnabled s = true → Completes (.revert port) s fun t => t.mem = s.mem ∧
      fld t Reg.SEC_CTRL_STATUS 2 0 = 2 ∧ fld t Reg.SEC_CTRL_STATUS 5 3 = 3) ∧
    (Reaches s port Reg.SEC_CTRL 2 → anyEnabled s = false → ringSt s = 5 → onTrial s = false →
      epochLow s (slotManifest s (1 - fld s Reg.SEC_STATUS 4 4)) = false → (∀ h ∈ holders s, compat 1 h = true) →
      Completes (.revert port) s fun t => fld t Reg.SEC_CTRL_STATUS 2 0 = 2 ∧ fld t Reg.SEC_CTRL_STATUS 5 3 = 1 ∧
        fbit t Reg.FPM_MAINT_STATUS 1 = false ∧ readMem t .nvm (0x1000 * (1 - (descNow s).2)) 64 =
          { (descNow s).1 with
              seq := ((descNow s).1.seq + 1) % 2 ^ 32, trial := true, tried := false, migrate := false
              health := fld s Reg.SEC_ACT_CFG 9 0
              hash := digestOf (Config.sha256 (slotManifest s (1 - fld s Reg.SEC_STATUS 4 4))) : Desc }.bytes) ∧
    (Reaches s port Reg.SEC_CTRL 4 → Completes (.abortStaging port) s fun t => rd t Reg.SEC_STAGE_STATUS = 0 ∧
      t.sec = { s.sec with manifest := [], blocks := [] } ∧ (∀ i, i < 8 → rd t (Reg.SEC_STAGED_HASH i) = 0) ∧
      fld t Reg.SEC_CTRL_STATUS 2 0 = 3 ∧ fld t Reg.SEC_CTRL_STATUS 5 3 = 1) ∧
    (Reaches s port Reg.SEC_CTRL 8 → Completes (.newNonce port) s fun t => t.sec = { s.sec with nonceValid := true } ∧
      t.free = s.free + 1 ∧ (∀ i, i < 8 → rd t (Reg.SEC_NONCE i) = word ((freeVal 256 s).toNat / 2 ^ (32 * i))) ∧
      fld t Reg.SEC_CTRL_STATUS 2 0 = 4 ∧ fld t Reg.SEC_CTRL_STATUS 5 3 = 1) ∧
    (Reaches s port Reg.SEC_CTRL 16 → anyEnabled s = true → Completes (.softwareReset port) s fun t => t.raw = s.raw ∧
      fld t Reg.SEC_CTRL_STATUS 2 0 = 5 ∧ fld t Reg.SEC_CTRL_STATUS 5 3 = 3 ∧ t.mem = s.mem) ∧
    (Reaches s port Reg.SEC_CTRL 16 → anyEnabled s = false → Completes (.softwareReset port) s fun t => t.raw = 0 ∧
      rd t Reg.SEC_RESET_INFO = 4 ∧ t.sec.inReset = false ∧ fld t Reg.SEC_CTRL_STATUS 2 0 = 5 ∧
      fld t Reg.SEC_CTRL_STATUS 5 3 = 1)

/-- LOCAL_CONFIRMATION, PROTECTION_EXPIRY, DEBUG_OPEN, DEBUG_SESSION_END (R507-R509). -/
def Obligations.ProtectionCommandsComplete : Prop :=
  ∀ s : State, Awake s →
    (∀ p i hold r, protNow s = some p → s.sec.localInput = some (i, hold) → s.sec.localSince = some r →
      hold * 1000000000 ≤ s.raw - r → p.raw ≤ s.raw - hold * 1000000000 → Completes .localConfirmation s fun t =>
        t.sec = { s.sec with prot := none, agreed := some (p.kind, p.object) } ∧
          rd t Reg.SEC_PROT_STATUS = word (2 + p.kind % 4 * 16) ∧ t.mem = s.mem) ∧
    (∀ p, s.sec.prot = some p → p.expiry * 1000000000 ≤ s.raw - p.raw → Completes .protectionExpiry s fun t =>
      t.sec = { s.sec with prot := none } ∧ rd t Reg.SEC_PROT_STATUS = word (4 + p.kind % 4 * 16)) ∧
    (∀ q k, keysInForce s = some k → q.level.val = 1 → k.l1 = true → s.sec.lockout = false → 1 ≤ q.minutes.toNat →
      q.minutes.toNat ≤ k.maxMinutes → Config.sha256 (leBytes 8 (serial s) ++ q.password) = k.passHash →
      (∀ h ∈ holders s, compat 8 h = true) → Completes (.debugOpen q) s fun t => t.pwr.debugLevel = 1 ∧
        t.sec = { s.sec with debugEnd := s.raw + q.minutes.toNat * 60000000000 } ∧ fld t Reg.SEC_STATUS 17 16 = 1 ∧
        fbit t Reg.FPM_MAINT_STATUS 8 = true ∧ t.mem = s.mem) ∧
    (∀ q k, keysInForce s = some k → q.level.val = 1 → k.l1 = true → s.sec.lockout = false → 1 ≤ q.minutes.toNat →
      q.minutes.toNat ≤ k.maxMinutes → Config.sha256 (leBytes 8 (serial s) ++ q.password) ≠ k.passHash →
      Completes (.debugOpen q) s fun t => t.pwr = s.pwr ∧
        fld t Reg.SEC_DEBUG_STATUS 11 4 = min (fld s Reg.SEC_DEBUG_STATUS 11 4 + 1) 255 ∧
        t.sec.lockout = (fld s Reg.SEC_DEBUG_STATUS 11 4 == 4)) ∧
    (s.pwr.debugLevel ≠ 0 → Completes .debugSessionEnd s fun t => t.pwr = { s.pwr with debugLevel := 0 } ∧
      fld t Reg.SEC_STATUS 17 16 = 0 ∧ fld t Reg.SEC_DEBUG_STATUS 1 0 = 0 ∧ holders t = (holders s).filter (· != 8) ∧ t.mem = s.mem)

/-- ECHO, REG_READ, BOLT_READ, ARCH_READ, AXIS_PARAM_GET, AXIS_COEF_GET, SEG_STATUS, CMP_STATUS, SPOOL_STATE, SPOOL_READ (R526, R527). -/
def Obligations.ReadRequestsComplete : Prop :=
  ∀ (s : State) (q : Req), Requests s q →
    Replies (.echo q) s q 0x0003 0 q.payload (· = accepted s q) ∧
    (∀ a r i j, q.payload = leBytes 4 a ++ leBytes 4 1 → 0x20000000 ≤ a → a < 0x21000000 → a % 4 = 0 → Readable s .proto a →
      regAt a = some (r, i, j) → blockOf a ≠ MBX → r.acc ≠ .wo → r.acc ≠ .w1p → r.acc ≠ .rc →
      4 ≤ rspLimit (accepted s q) q.ep q.flow.toNat → Replies (.regRead q) s q 0x0101 0
        (leBytes 4 (regView (accepted s q) (blockOf a) a r i j).toNat) fun u => u.regs = (accepted s q).regs ∧ u.mem = s.mem) ∧
    (∀ a r i j, q.payload = leBytes 4 a ++ leBytes 4 1 → 0x20000000 ≤ a → a < 0x21000000 → a % 4 = 0 → Readable s .proto a →
      regAt a = some (r, i, j) → blockOf a ≠ MBX → r.acc = .rc → 4 ≤ rspLimit (accepted s q) q.ep q.flow.toNat →
      Replies (.regRead q) s q 0x0101 0 (leBytes 4 (rd (accepted s q) a).toNat) fun u => rd u a = 0 ∧
        ∀ b, b ≠ a → rd u b = rd (accepted s q) b) ∧
    (∀ a n, q.payload = leBytes 4 a ++ leBytes 4 n → 4 ≤ n → n ≤ 8192 → n % 4 = 0 → a + n ≤ boltEnd →
      Replies (.boltRead q) s q 0x0103 0 (readMem s .bolt a n) (· = accepted s q)) ∧
    (∀ a n, q.payload = leBytes 4 a ++ leBytes 4 n → 4 ≤ n → n ≤ 8192 → n % 4 = 0 → 0x80000000 ≤ a → a + n ≤ archEnd →
      s.pwr.off.contains .mem = false → Replies (.archRead q) s q 0x0105 0 (readMem s .arch a n) (· = accepted s q)) ∧
    (∀ a, q.payload = leBytes 4 a → a < 256 → Replies (.axisParamGet q) s q 0x0202 0
      ((List.range 16).flatMap fun i => leBytes 4 (par s a i).toNat) (· = accepted s q)) ∧
    (∀ a, q.payload = leBytes 4 a → a < 256 → Replies (.axisCoefGet q) s q 0x0204 0
      ((List.range 128).flatMap fun i => leBytes 4 (coef s a i).toNat) (· = accepted s q)) ∧
    (∀ g, q.payload = leBytes 4 g → g < 64 → Replies (.segStatus q) s q 0x0304 0
      (shown (accepted s q) [Reg.PROF_GRP_STATE g, Reg.PROF_GRP_SEG_ID g, Reg.PROF_GRP_RD_PTR g, Reg.PROF_GRP_WR_PTR g] ++
        leBytes 4 (word (queueFree (rd s (Reg.PROF_GRP_QLEN g)).toNat (look (accepted s q) (Reg.PROF_GRP_RD_PTR g)).toNat
          (look (accepted s q) (Reg.PROF_GRP_WR_PTR g)).toNat)).toNat) (· = accepted s q)) ∧
    (∀ k, q.payload = leBytes 4 k → k < 32 → Replies (.cmpStatus q) s q 0x0403 0 (shown (accepted s q)
      [Reg.FBC_CMP_STATUS k, Reg.FBC_CMP_LAST_TS k, Reg.FBC_CMP_LAST_ID k, Reg.FBC_CMP_RD_PTR k, Reg.FBC_CMP_WR_PTR k])
      (· = accepted s q)) ∧
    (∀ i, q.payload = leBytes 4 i → i < 4 → Replies (.spoolState q) s q 0x0602 0 (shown (accepted s q)
      [Reg.ACQ_SP_STATE i, Reg.ACQ_SP_WR_PTR i, Reg.ACQ_SP_TRIG_TS_LO i, Reg.ACQ_SP_TRIG_TS_HI i, Reg.ACQ_SP_LOST_CNT i,
        Reg.ACQ_SP_EVT_DROP_CNT i, Reg.ACQ_SP_HOLDOFF_CNT i]) (· = accepted s q)) ∧
    (∀ i off n, q.payload = leBytes 4 i ++ leBytes 4 0xFFFFFFFF ++ leBytes 4 off ++ leBytes 4 n → i < 4 → 4 ≤ n → n ≤ 8192 →
      n % 4 = 0 → off + n ≤ (spArea s i).2 → off < 2 ^ 32 → (spArch s i = true → s.pwr.off.contains .mem = false) →
      Replies (.spoolRead q) s q 0x0603 0
        (readMem s (if spArch s i then .arch else .bolt) ((spArea s i).1 + off) n) (· = accepted s q))

/-- UPD_STATUS, STATUS_GET, AXIS_STATUS, HIST_READ, EVT_SUBSCRIBE, WMBX_FETCH, NONCE_GET, MAINT_REQ (R475, R526, R529, R531). -/
def Obligations.StatusRequestsComplete : Prop :=
  ∀ (s : State) (q : Req), Requests s q →
    (q.payload = [] → Replies (.updStatus q) s q 0x0704 0 (shown (accepted s q) (Reg.SEC_STAGE_STATUS ::
      (List.range 8).map Reg.SEC_STAGED_HASH)) (· = accepted s q)) ∧
    (q.payload = [] → Replies (.statusGet q) s q 0x0801 0
      (shown (accepted s q) [Reg.RING_STATE, Reg.TWIN_STATE, Reg.TIME_STATE] ++ leBytes 8 (secOf (mtime s)) ++
        leBytes 4 (nsOf (mtime s)) ++ leBytes 4 s.cyc.count.toNat ++ shown (accepted s q)
          [Reg.SYS_CYCLE_ACTIVE, Reg.PROF_STATUS, Reg.FPM_STATUS, Reg.SAFE_STATUS, Reg.SEC_STATUS] ++ leBytes 8 (serial s))
      (· = accepted s q)) ∧
    (∀ a, q.payload = leBytes 4 a ++ leBytes 4 1 → a < 256 → Replies (.axisStatus q) s q 0x0802 0
      (shown (accepted s q) [Reg.PROF_AX_STATE a] ++ leBytes 8 (unsg 64 (axis s a).sp2.pos) ++
        leBytes 8 (unsg 64 (axis s a).sp2.vel) ++ leBytes 8 (unsg 64 (input s a).ext) ++
        shown (accepted s q) [Reg.LOOP_AX_FLAGS a]) (· = accepted s q)) ∧
    (∀ k, q.payload = leBytes 4 k → k < 16 → Replies (.histRead q) s q 0x0805 0
      (shown (accepted s q) [Reg.FLT_HIST_CNT k] ++ padTo 128 ((history s k).map HistEntry.bytes).flatten) (· = accepted s q)) ∧
    (∀ (mask : Word) sev slot, q.payload = leBytes 4 mask.toNat ++ leBytes 4 (sev + 16 * slot + 256) → sev < 4 → slot < 4 →
      (∀ l, q.ep ≠ .legacy l) → Replies (.evtSubscribe q) s q 0x0803 0 (genericG s.cyc.count 0) fun u =>
        (tget (fun _ => {}) u.host.subs slot : Subscription) =
            { on := true, flow := q.flow.toNat, mask := mask, minSev := sev, seq := 0, lost := 0 } ∧
          ∀ k, k ≠ slot → (tget (fun _ => {}) u.host.subs k : Subscription) = tget (fun _ => {}) s.host.subs k) ∧
    (∀ p, q.payload = leBytes 4 p → 1 ≤ p → p ≤ 126 → (tget (fun _ => []) s.ring.wmbx p : List (List Byte)) = [] →
      Replies (.wmbxFetch q) s q 0x0504 0 (leBytes 4 0) (· = accepted s q)) ∧
    (∀ p m rest, q.payload = leBytes 4 p → 1 ≤ p → p ≤ 126 → (tget (fun _ => []) s.ring.wmbx p : List (List Byte)) = m :: rest →
      4 + (padMul 4 m).length ≤ rspLimit (accepted s q) q.ep q.flow.toNat → Replies (.wmbxFetch q) s q 0x0504 0
        (leBytes 4 m.length ++ padMul 4 m) fun u => (tget (fun _ => []) u.ring.wmbx p : List (List Byte)) = rest ∧
          ∀ k, k ≠ p → (tget (fun _ => []) u.ring.wmbx k : List (List Byte)) = tget (fun _ => []) s.ring.wmbx k) ∧
    (q.payload = [] → Replies (.nonceGet q) s q 0x0706 0
      ((List.range 8).flatMap fun i => leBytes 4 (word ((freeVal 256 s).toNat / 2 ^ (32 * i))).toNat) fun u =>
        u.sec = { s.sec with nonceValid := true } ∧ u.free = s.free + 1) ∧
    (∀ act, q.payload = leBytes 4 act → act < 9 → s.flt.resetting.contains FPM = false →
      (∀ h ∈ holders s, compat act h = true) → Replies (.maintReq q) s q 0x0701 0 (genericG s.cyc.count 1) fun u =>
        fbit u Reg.FPM_MAINT_STATUS act = true ∧ u.mem = s.mem) ∧
    (∀ act, q.payload = leBytes 4 act → act < 9 → s.flt.resetting.contains FPM = false →
      (∃ h ∈ holders s, compat act h = false) → Replies (.maintReq q) s q 0x0701 5 (genericG s.cyc.count 3) fun u =>
        holders u = holders s ∧ u.mem = s.mem)

/-- REG_WRITE, BOLT_WRITE, GROUP_QUEUE_SET, GUARD_SET, GROUP_RATE, SEG_APPEND, CMP_APPEND, CMP_ARM, SPOOL_CTRL (R526-R528). -/
def Obligations.WriteRequestsComplete : Prop :=
  ∀ (s : State) (q : Req), Requests s q → Direct s →
    (∀ a (v : Word) r i j, q.payload = leBytes 4 a ++ leBytes 4 v.toNat → 0x20000000 ≤ a → a < 0x21000000 → a % 4 = 0 →
      blockOf a ≠ SAFE → Reaches s .proto a v → regAt a = some (r, i, j) → storesOnly (blockOf a) r.off = true →
      Replies (.regWrite q) s q 0x0102 0 (genericG s.cyc.count 1) (· = okBus (storeRow (accepted s q) a r v))) ∧
    (∀ a d, q.payload = leBytes 4 a ++ d → 4 ≤ d.length → a + d.length ≤ boltEnd → (boltParts s a d.length).contains 5 = false →
      Replies (.boltWrite q) s q 0x0104 0 (genericG s.cyc.count 0) fun u => readMem u .bolt a d.length = d ∧
        u.regs = (accepted s q).regs ∧ ∀ r x, r ≠ .bolt ∨ x < a ∨ a + d.length ≤ x → u.mem.read r x = s.mem.read r x) ∧
    (BlockOn s PROF → ∀ g base len, q.payload = leBytes 4 g ++ leBytes 4 base ++ leBytes 4 len → g < 64 → base % 8 = 0 →
      inPart s 0 base 1 = true → len % 8 = 0 → 1024 ≤ len → len ≤ 0x3000000 → (group s g).state = 0 →
      Replies (.groupQueueSet q) s q 0x0205 0 (genericG s.cyc.count 0) fun u => (rd u (Reg.PROF_GRP_QBASE g)).toNat = base ∧
        (rd u (Reg.PROF_GRP_QLEN g)).toNat = len ∧ u.prof = s.prof ∧ u.mem = s.mem) ∧
    (BlockOn s PROF → ∀ p (cfg lo hi clear : Word), q.payload = leBytes 4 p ++ leBytes 4 cfg.toNat ++ leBytes 4 lo.toNat ++
      leBytes 4 hi.toNat ++ leBytes 4 clear.toNat → p < 32 → wbits cfg 31 25 = 0 → wbits cfg 23 19 = 0 →
      (guardOn s p && (enabled s (guardAxes s p).1 || enabled s (guardAxes s p).2)) = false →
      Replies (.guardSet q) s q 0x0206 0 (genericG s.cyc.count 0) fun u => rd u (Reg.PROF_GRD_CFG p) &&& 0x7FFFF = cfg &&& 0x7FFFF ∧
        rd u (Reg.PROF_GRD_OFS_LO p) = lo ∧ rd u (Reg.PROF_GRD_OFS_HI p) = hi ∧ rd u (Reg.PROF_GRD_CLEAR p) = clear ∧
        u.prof = s.prof) ∧
    (BlockOn s PROF → ∀ p, q.payload.length = 20 → field q.payload 0 4 = p → p < 32 → bits (field q.payload 4 4) 31 25 = 0 →
      bits (field q.payload 4 4) 23 19 = 0 →
      (guardOn s p && (enabled s (guardAxes s p).1 || enabled s (guardAxes s p).2)) = true →
      Replies (.guardSet q) s q 0x0206 10 [] (· = accepted s q)) ∧
    (BlockOn s PROF → ∀ g (v : Word), q.payload = leBytes 4 g ++ leBytes 4 v.toNat → g < 64 →
      Replies (.groupRate q) s q 0x0303 0 (genericG s.cyc.count 0) fun u => rd u (Reg.PROF_GRP_RATE g) = v ∧
        ∀ a, a ≠ Reg.PROF_GRP_RATE g → rd u a = rd (accepted s q) a) ∧
    (BlockOn s PROF → ∀ g b wp base len rp, q.payload = leBytes 4 g ++ b → g < 64 → segRecords b.length b = some [b] →
      (rd s (Reg.PROF_GRP_WR_PTR g)).toNat = wp → (rd s (Reg.PROF_GRP_QBASE g)).toNat = base →
      (rd s (Reg.PROF_GRP_QLEN g)).toNat = len → (rd s (Reg.PROF_GRP_RD_PTR g)).toNat = rp → wp + b.length < len →
      b.length + 8 ≤ queueFree len rp wp → base + len ≤ boltEnd → Replies (.segAppend q) s q 0x0302 0
        (genericG s.cyc.count (queueFree len rp wp - b.length)) fun u => readMem u .bolt (base + wp) b.length = b ∧
          (rd u (Reg.PROF_GRP_WR_PTR g)).toNat = wp + b.length ∧ u.prof = s.prof) ∧
    (BlockOn s FBC → fbit s Reg.FBC_BASTE_STATUS 0 = false → ∀ k b wp base len rp, q.payload = leBytes 4 k ++ b → k < 32 →
      b.length = 16 → fbit s (Reg.FBC_CMP_STATUS k) 1 = false → (rd s (Reg.FBC_CMP_WR_PTR k)).toNat = wp →
      (rd s (Reg.FBC_CMP_QBASE k)).toNat = base → (rd s (Reg.FBC_CMP_QLEN k)).toNat = len →
      (rd s (Reg.FBC_CMP_RD_PTR k)).toNat = rp → wp + 16 < len → 32 ≤ queueFree len rp wp → base + len ≤ boltEnd →
      Replies (.cmpAppend q) s q 0x0401 0 (genericG s.cyc.count (queueFree len rp wp - 16)) fun u =>
        readMem u .bolt (base + wp) 16 = b ∧ (rd u (Reg.FBC_CMP_WR_PTR k)).toNat = wp + 16 ∧ u.fbc = s.fbc) ∧
    (BlockOn s FBC → ∀ k, q.payload = leBytes 4 k ++ leBytes 4 1 → k < 32 → fbit s (Reg.FBC_CMP_STATUS k) 1 = false →
      cellOff s FBC (16 + k) = false → Replies (.cmpArm q) s q 0x0402 0 (genericG s.cyc.count 0) fun u =>
        fbit u (Reg.FBC_CMP_STATUS k) 1 = true ∧ u.fbc = s.fbc) ∧
    (BlockOn s ACQ → ∀ i, q.payload = leBytes 4 i ++ leBytes 4 1 → i < 4 → grpMember s i = false → spBusy s i = false →
      cellOff s ACQ i = false → Replies (.spoolCtrl q) s q 0x0601 0 (genericG s.cyc.count 1) fun u => spool u i = { spool s i with arm := true } ∧
        ∀ j, j ≠ i → spool u j = spool s j)

/-- AXIS_PARAM_SET, AXIS_COEF_SET, AXIS_CMD, UPD_ACTIVATE, TIMED_FRAME and the service-lane requests (R80, R148, R521, R526, R529). -/
def Obligations.WaitingRequestsComplete : Prop :=
  ∀ (s : State) (q : Req), Requests s q → Direct s →
    (BlockOn s PROF → fbit s Reg.PROF_BASTE_STATUS 0 = false → q.payload.length = 68 → byteAt q.payload 1 < 2 →
      field q.payload 2 2 = 0 → Waits (.axisParamSet q) s q 0x0201 (.result Reg.PROF_BASTE_STATUS 3 1 1 0) 1 fun t =>
        t.prof = { s.prof with commit := some (byteAt q.payload 0, byteAt q.payload 1 == 1) } ∧
          fbit t Reg.PROF_BASTE_STATUS 0 = true ∧ ∀ i, i < 16 → i ≠ 10 → i ≠ 11 → i ≠ 15 →
            (rd t (Reg.PROF_BASTE_VMAX + 4 * i)).toNat = field q.payload (4 + 4 * i) 4) ∧
    (BlockOn s LOOP → ∀ a first n, q.payload.length = 4 + 4 * n → 1 ≤ n → byteAt q.payload 0 = a → byteAt q.payload 1 = 0 →
      field q.payload 2 2 = first → first + n ≤ 128 → configured s a = true → laneOp s (a % 16) = none →
      fbit s Reg.LOOP_BASTE_STATUS (a % 16) = false → fbit s Reg.LOOP_BANK_STATUS (a % 16) = false →
      Waits (.axisCoefSet q) s q 0x0203 (.result Reg.LOOP_BASTE_STATUS 18 16 1 0) (16 + a % 16) fun t =>
        laneOp t (a % 16) = some ⟨0, a, false, false⟩ ∧ ∀ i, i < 128 → rd t (Reg.LOOP_LANE_BASTE (a % 16) i) =
          if first ≤ i ∧ i < first + n then word (field q.payload (4 + 4 * (i - first)) 4) else coef s a i) ∧
    (BlockOn s PROF → fbit s Reg.PROF_CMD_STATUS 0 = false → q.payload.length = 20 →
      field q.payload 2 2 = 0 → Waits (.axisCmd q) s q 0x0301 (.result Reg.PROF_CMD_STATUS 4 1 1 0) 2 fun t =>
        t.prof = { s.prof with cmd := some (byteAt q.payload 0, byteAt q.payload 1, word (field q.payload 4 4),
          word (field q.payload 8 4), word (field q.payload 12 4), word (field q.payload 16 4)) } ∧
        fbit t Reg.PROF_CMD_STATUS 0 = true ∧ t.mem = s.mem) ∧
    (s.flt.resetting.contains PROF = false → blockOff s PROF = true → fbit s Reg.PROF_CMD_STATUS 0 = false →
      q.payload.length = 20 → byteAt q.payload 0 = 7 → field q.payload 2 2 = 0 →
      Waits (.axisCmd q) s q 0x0301 (.result Reg.PROF_CMD_STATUS 4 1 1 0) 2 fun t =>
        t.prof = { s.prof with cmd := some (7, byteAt q.payload 1, rd s (Reg.PROF_CMD_ARG 0), rd s (Reg.PROF_CMD_ARG 1),
          rd s (Reg.PROF_CMD_ARG 2), rd s (Reg.PROF_CMD_ARG 3)) } ∧ fbit t Reg.PROF_CMD_STATUS 0 = true ∧ t.mem = s.mem) ∧
    (s.flt.resetting.contains SEC = false → fbit s Reg.SEC_BASTE_STATUS 0 = false → q.payload.length = 36 →
      Waits (.updActivate q) s q 0x0705 (.result Reg.SEC_BASTE_STATUS 3 1 1 0) 5 fun t =>
        fbit t Reg.SEC_BASTE_STATUS 0 = true ∧ actHash t = q.payload.take 32) ∧
    (∀ p e f, p < 2 → e < 2 → q.payload.take 4 = [BitVec.ofNat 8 p, BitVec.ofNat 8 e, 0, 0] → q.payload.drop 16 = f →
      60 ≤ f.length → f.length ≤ 1518 → field q.payload 12 4 ≤ 999999999 → tqueue s p e = [] →
      Waits (.timedFrame q) s q 0x0901 .timed 0 fun t => tqueue t p e =
        [{ time := field q.payload 4 8 * secU + field q.payload 12 4 * nsU, frame := f, drop := false,
           ptp := ptpKind f, req := some s.host.nextId : TimedEntry }]) ∧
    (∀ p sub index i, q.payload = [BitVec.ofNat 8 p, sub] ++ leBytes 2 index → 1 ≤ p → p ≤ 126 → index < 65536 →
      freeSlot s = some i → slotFor s p = none → Waits (.wparamRead q) s q 0x0501 (.service 0x0501) 0 fun t =>
        slot t i = { req := some ⟨p, 0x01, index, [sub], .host s.host.nextId⟩, tag := s.ring.tag } ∧
          t.ring.tag = (s.ring.tag + 1) % 256) ∧
    (∀ p sub index i d, q.payload = [BitVec.ofNat 8 p, sub] ++ leBytes 2 index ++ leBytes 4 d.length ++ padMul 4 d → 1 ≤ p → p ≤ 126 →
      index < 65536 → 1 ≤ d.length → d.length ≤ 53 → freeSlot s = some i → slotFor s p = none →
      Waits (.wparamWrite q) s q 0x0502 (.service 0x0502) 0 fun t =>
        slot t i = { req := some ⟨p, 0x02, index, sub :: d, .host s.host.nextId⟩, tag := s.ring.tag }) ∧
    (∀ p i d, q.payload = leBytes 4 p ++ leBytes 4 d.length ++ padMul 4 d → 1 ≤ p → p ≤ 126 → 1 ≤ d.length → d.length ≤ 54 →
      freeSlot s = some i → slotFor s p = none → Waits (.wmbxSend q) s q 0x0503 (.service 0x0503) 0 fun t =>
        slot t i = { req := some ⟨p, 0x05, 0, d, .host s.host.nextId⟩, tag := s.ring.tag }) ∧
    (∀ p i, q.payload = leBytes 4 p → 1 ≤ p → p ≤ 126 → freeSlot s = some i → slotFor s p = none →
      Waits (.widentify q) s q 0x0505 (.service 0x0505) 0 fun t =>
        slot t i = { req := some ⟨p, 0x08, 0, [], .host s.host.nextId⟩, tag := s.ring.tag })

/-- UPD_MANIFEST, UPD_BLOCK, PROT_REQUEST, PROT_CONFIRM, PROT_OBJECT (R500, R507, R508), and requests in host recovery (R485): a
manifest is taken; that flows, reads and status are answered too and the other opcodes get STATE is the model's reading (log entry 104). -/
def Obligations.UpdateRequestsComplete : Prop :=
  ∀ (s : State) (q : Req), (Requests s q true → Replies (.echo q) s q 0x0003 0 q.payload (· = accepted s q) ∧
      Replies (.axisCmd q) s q 0x0301 10 [] (· = accepted s q) ∧ Replies (.updActivate q) s q 0x0705 10 [] (· = accepted s q) ∧
      (manifestForm s q.payload = true → manifestSigned s q.payload = true → epochLow s q.payload = false →
        ((partsOf q.payload).any fun p => (if p.cls == 5 then 0x300000 else slotSize s) <
          (if p.cls == 5 then 0 else p.offset) + p.length) = false → holders s = [] →
        Replies (.updManifest q) s q 0x0702 0 (genericG s.cyc.count 0) fun u =>
          u.sec = { s.sec with manifest := q.payload, blocks := [] } ∧ fld u Reg.SEC_STAGE_STATUS 1 0 = 1)) ∧
    (Requests s q →
    (manifestForm s q.payload = true → manifestSigned s q.payload = true → epochLow s q.payload = false →
      ((partsOf q.payload).any fun p => (if p.cls == 5 then 0x300000 else slotSize s) <
        (if p.cls == 5 then 0 else p.offset) + p.length) = false → (∀ h ∈ holders s, h ≠ 0 → compat 0 h = true) →
      (0 ∈ holders s → fld s Reg.SEC_STAGE_STATUS 1 0 = 1) → Replies (.updManifest q) s q 0x0702 0 (genericG s.cyc.count 0) fun u =>
        u.sec = { s.sec with manifest := q.payload, blocks := [] } ∧ fld u Reg.SEC_STAGE_STATUS 1 0 = 1 ∧
          fbit u Reg.FPM_MAINT_STATUS 0 = true ∧
          readMem u .nvm (0x10000 + 0x10000 * stageSlot s) q.payload.length = q.payload) ∧
    (manifestForm s q.payload = false → (∀ h ∈ holders s, h ≠ 0 → compat 0 h = true) →
      (0 ∈ holders s → fld s Reg.SEC_STAGE_STATUS 1 0 = 1) → Replies (.updManifest q) s q 0x0702 3 [] fun u =>
        rd u Reg.SEC_STAGE_STATUS = 3 ∧ u.sec = { s.sec with manifest := [], blocks := [] } ∧ u.mem = s.mem) ∧
    (∀ index offset hash block, q.payload = leBytes 4 index ++ leBytes 4 offset ++ hash ++ block → hash.length = 32 →
      block.length = 4096 → fld s Reg.SEC_STAGE_STATUS 1 0 = 1 → index < (partsOf s.sec.manifest).length → offset % 4096 = 0 →
      offset < (partAt s.sec.manifest index).length → digestOf (Config.sha256 block) = hash →
      s.sec.blocks.contains (index, offset) = false → 2 ≤ blocksMissing s →
      ((partAt s.sec.manifest index).cls = 4 → s.sec.blocks = [] ∧ 2 ≤ blocksOf (partAt s.sec.manifest index)) →
      Replies (.updBlock q) s q 0x0703 0 (genericG s.cyc.count (blocksMissing s - 1)) fun u =>
        u.sec = { s.sec with blocks := (index, offset) :: s.sec.blocks } ∧ readMem u .nvm
          (partAddr s (stageSlot s) (stageArea s) (partAt s.sec.manifest index) + offset) 4096 = block) ∧
    (∀ key, q.payload.length = 148 → 1 ≤ field q.payload 0 4 → field q.payload 0 4 ≤ 3 → 60 ≤ field q.payload 44 4 →
      field q.payload 44 4 ≤ 3600 → field q.payload 4 8 = serial s → s.sec.nonceValid = true →
      slice q.payload 12 32 = nonceBytes s → keyOf s (field q.payload 80 4) 1 = some key →
      Config.ecdsaOk key (Config.sha256 (q.payload.take 80)) (slice q.payload 84 64) = true →
      Replies (.protRequest q) s q 0x0707 0 (genericG s.cyc.count 0) fun u => u.sec.nonceValid = false ∧
        u.sec.prot = some { kind := field q.payload 0 4, object := BitVec.ofNat 256 (beVal (slice q.payload 48 32))
                            digest := Config.sha256 q.payload, raw := s.raw, expiry := field q.payload 44 4 } ∧
        rd u Reg.SEC_PROT_STATUS = word (1 + field q.payload 0 4 * 16)) ∧
    (∀ p key, q.payload.length = 68 → protNow s = some p → keyOf s (field q.payload 0 4) 2 = some key →
      Config.ecdsaOk key p.digest (slice q.payload 4 64) = true → Replies (.protConfirm q) s q 0x0708 0 (genericG s.cyc.count 0)
        fun u => u.sec = { s.sec with prot := none, agreed := some (p.kind, p.object) } ∧
          rd u Reg.SEC_PROT_STATUS = word (2 + p.kind % 4 * 16)) ∧
    (q.payload.length = 68 → protNow s = none → Replies (.protConfirm q) s q 0x0708 10 [] (· = accepted s q)) ∧
    (∀ h, 8 ≤ q.payload.length → field q.payload 0 4 = 3 → s.sec.agreed = some (3, h) → Config.sha256 (q.payload.drop 4) = h →
      keysStored s = none → 0x4000 ≤ (Config.withSeq (q.payload.drop 4) 1).length →
      Replies (.protObject q) s q 0x0709 0 (genericG s.cyc.count 0) fun u => u.sec = { s.sec with agreed := none } ∧
        readMem u .nvm 0x4000 0x4000 = (Config.withSeq (q.payload.drop 4) 1).take 0x4000))

/-- REGISTER_WRITE, READ_CLEAR (R10, R11). -/
def Obligations.RegisterAccessCompletes : Prop :=
  ∀ s : State,
    (∀ port (a v : Word) r i j, NoRequests s → Reaches s port a.toNat v → 0x20000000 ≤ a.toNat → a.toNat < 0x21000000 →
      a.toNat % 4 = 0 → blockOf a.toNat ≠ SAFE → regAt a.toNat = some (r, i, j) → storesOnly (blockOf a.toNat) r.off = true →
      Completes (.registerWrite port a v) s fun t => t.bus.err = false ∧ rd t a.toNat = (match r.acc with
        | .rw => (rd s a.toNat &&& ~~~r.mask) ||| (v &&& r.mask)
        | .wo => v &&& r.mask
        | .w1c => rd s a.toNat &&& ~~~(v &&& r.mask)
        | _ => rd s a.toNat) ∧ (∀ b, b ≠ a.toNat → rd t b = rd s b) ∧ t.mem = s.mem ∧ t.act = s.act) ∧
    (∀ port (a : Word) r i j, Readable s port a.toNat → 0x20000000 ≤ a.toNat → a.toNat < 0x21000000 → a.toNat % 4 = 0 →
      blockOf a.toNat ≠ MBX → regAt a.toNat = some (r, i, j) → r.acc = .rc →
      exec (.readClear port a) s = .next (okBus (wr s a.toNat 0) (rd s a.toNat)))

/-- What a response is and where it goes (R514, R515, R519, R522, R536). -/
def Obligations.ResponsesGoOut : Prop :=
  ∀ (s : State) (w : Waiting) (st : Nat) (p : List Byte),
    (∀ ip port e, w.ep = .udp ip port e → p.length ≤ (flow s w.flow).limit → (finish s w st p).out =
      s.out ++ [.response w.ep (msgHeader 1 w.opcode w.flow p.length w.seq st 0 ++ p)] ∧ (finish s w st p).regs = s.regs) ∧
    (∀ ip port e, w.ep = .udp ip port e → (flow s w.flow).limit < p.length → (finish s w st p).out =
      s.out ++ [.response w.ep (msgHeader 1 w.opcode w.flow 0 w.seq 2 0)]) ∧
    (∀ ip port e, w.ep = .udp ip port e → (flow s w.flow).owner = some w.ep → p.length ≤ (flow s w.flow).limit →
      (flow (finish s w st p) w.flow).stored =
        ((w.seq, msgHeader 1 w.opcode w.flow p.length w.seq st 0 ++ p) :: (flow s w.flow).stored).take 8) ∧
    (∀ r, w.ep = .ring r → p.length ≤ 8192 → (ringOf s r.val).backlog = [] → cqFull s r.val = false →
      1 < fld s (Reg.HOST_RING_STATUS r.val) 31 16 → ∃ more, (finish s w st p).out = s.out ++
        ([.hostMem w.rspAddr ((rspMsg w.opcode w.flow w.seq st p).take (min w.rspCap (16 + p.length)))] : List Out).filter
            (fun _ => w.rspCap ≠ 0) ++
          [.hostMem (rd64 s (Reg.HOST_CQ_BASE_LO r.val) + 16 * fld s (Reg.HOST_CQ_TAIL r.val) 11 0)
            (leBytes 2 w.tag ++ leBytes 2 w.sqIndex ++ leBytes 4 (min w.rspCap (16 + p.length)) ++ leBytes 2 st ++
              [BitVec.ofNat 8 (2 * flag (w.rspCap < 16 + p.length) + flag (ringOf s r.val).phase), 0] ++ leBytes 4 w.seq.toNat)] ++
          more ∧
        fld (finish s w st p) (Reg.HOST_RING_STATUS r.val) 31 16 = fld s (Reg.HOST_RING_STATUS r.val) 31 16 - 1)

/-- REQUEST_COMPLETE, FLOW_OPEN, FLOW_CLOSE, FLOW_TIMEOUT, UDP_COMMAND (R517-R521, R541). -/
def Obligations.FlowCommandsComplete : Prop :=
  ∀ s : State, Awake s →
    (∀ w st p, NoRequests s → s.host.waiting = [w] → w.wait = .ready st p →
      exec (.requestComplete w.id) s = .next (finish (unwait s w.id) w st p)) ∧
    (∀ w reg hi lo ok extra, NoRequests s → s.host.waiting = [w] → w.wait = .result reg hi lo ok extra → w.opcode ≠ 0x0302 →
      unapplied s w = false → opPending s w reg = false → exec (.requestComplete w.id) s = .next (finish (unwait s w.id) w
        (if fld s reg hi lo = ok then 0 else 4) (genericG w.land (fld s reg hi lo)))) ∧
    (∀ w op d, NoRequests s → s.host.waiting = [w] → w.wait = .service op → s.ring.done = [d] → d.origin = .host w.id →
      d.result ≠ 0 → exec (.requestComplete w.id) s = .next (finish
        (unwait { s with ring := { s.ring with done := [] } } w.id) w 13 (genericG w.land d.result))) ∧
    (∀ q limit, NoRequests s → s.host.waiting = [] → q.flow.toNat < 240 → (flow s q.flow.toNat).owner = none →
      (∃ ip port e, q.ep = .udp ip port e) → q.payload = leBytes 4 0 ++ leBytes 4 limit → 256 ≤ limit → limit ≤ 8192 →
      Completes (.flowOpen q) s fun t => (flow t q.flow.toNat).owner = some q.ep ∧ (flow t q.flow.toNat).expected = q.seq + 1 ∧
        (flow t q.flow.toNat).limit = limit ∧
        t.out = s.out ++ [.response q.ep (rspMsg 1 q.flow.toNat q.seq 0 (leBytes 4 (q.seq + 1).toNat))]) ∧
    (∀ q, Requests s q → (∀ l, q.ep ≠ .legacy l) → q.payload = [] → exec (.flowClose q) s =
      .next (freeFlow (finish (accepted s q) (waitingOf s 2 q) 0 []) q.flow.toNat)) ∧
    (∀ (n : Half) ip port e, (flow s n.toNat).owner = some (.udp ip port e) →
      (flow s n.toNat).last + max 1 (min 600 (fld s Reg.HOST_CFG 9 0)) * 1000000000 ≤ s.raw →
      Completes (.flowTimeout n) s fun t => flow t n.toNat = {} ∧ (∀ k, k ≠ n.toNat → flow t k = flow s k) ∧ t.mem = s.mem) ∧
    (∀ ip port eth (n : Half) (seq : Word) payload, payload.length % 4 = 0 → payload.length ≤ 8192 →
      Requests s { ep := .udp ip port eth, flow := n, seq := seq, payload := payload } →
      exec (.udpCommand ip port eth (requestMsg 3 n.toNat seq payload)) s = .next (finish
        (accepted s { ep := .udp ip port eth, flow := n, seq := seq, payload := payload })
        (waitingOf s 3 { ep := .udp ip port eth, flow := n, seq := seq, payload := payload }) 0 payload)) ∧
    (∀ ip port eth m, NoRequests s → msgOk m 8192 = false → Completes (.udpCommand ip port eth m) s fun t => t.host.flows = s.host.flows ∧
      (rd t Reg.HOST_MSG_ERR_CNT).toNat = min ((rd s Reg.HOST_MSG_ERR_CNT).toNat + 1) (2 ^ 32 - 1))

/-- SQ_DOORBELL, SQ_ENTRY_FETCH, CQ_DOORBELL, EVQ_DOORBELL, RING_PAIR_CTRL, MSIX_COALESCE_TIMEOUT, PCIE_LINK_RESET (R534-R538, R544). -/
def Obligations.RingPairCommandsComplete : Prop :=
  ∀ s : State, Awake s → ∀ r : Fin 8,
    (∀ v, Reaches s .pcie (Reg.HOST_SQ_TAIL r.val) v → (v &&& 0xFFF).toNat < ringLen s (Reg.HOST_SQ_SIZE r.val) →
      exec (.sqDoorbell r v) s = .next (okBus (wr s (Reg.HOST_SQ_TAIL r.val) (v &&& 0xFFF)))) ∧
    (∀ v, Reaches s .pcie (Reg.HOST_SQ_TAIL r.val) v → ringLen s (Reg.HOST_SQ_SIZE r.val) ≤ (v &&& 0xFFF).toNat →
      Completes (.sqDoorbell r v) s fun t => fld t (Reg.HOST_RING_STATUS r.val) 1 0 = 2 ∧
        fld t (Reg.HOST_RING_STATUS r.val) 7 4 = 1) ∧
    (∀ entry request, fbit s (Reg.HOST_RING_STATUS r.val) 0 = true →
      fld s (Reg.HOST_SQ_HEAD r.val) 11 0 ≠ fld s (Reg.HOST_SQ_TAIL r.val) 11 0 → Completes (.sqEntryFetch r entry request false) s
        fun t => fld t (Reg.HOST_RING_STATUS r.val) 1 0 = 2 ∧ fld t (Reg.HOST_RING_STATUS r.val) 7 4 = 2 ∧
          fld t (Reg.HOST_SQ_HEAD r.val) 11 0 = fld s (Reg.HOST_SQ_HEAD r.val) 11 0) ∧
    (∀ entry (q : Req), fbit s (Reg.HOST_RING_STATUS r.val) 0 = true →
      fld s (Reg.HOST_SQ_HEAD r.val) 11 0 ≠ fld s (Reg.HOST_SQ_TAIL r.val) 11 0 → goodEntry entry →
      field entry 8 4 = 16 + q.payload.length → q.payload.length % 4 = 0 → q.payload.length ≤ 8192 → q.ep = .ring r →
      q.tag.toNat = field entry 14 2 → q.sqIndex.toNat = fld s (Reg.HOST_SQ_HEAD r.val) 11 0 →
      q.rspAddr.toNat = field entry 16 8 → q.rspCap.toNat = field entry 24 4 → Requests (fetchedEntry s r.val) q →
      exec (.sqEntryFetch r entry (requestMsg 3 q.flow.toNat q.seq q.payload) true) s = .next (finish
        (accepted (fetchedEntry s r.val) q) (waitingOf (fetchedEntry s r.val) 3 q) 0 q.payload)) ∧
    (∀ v, NoRequests s → Reaches s .pcie (Reg.HOST_CQ_HEAD r.val) v → (ringOf s r.val).backlog = [] →
      Completes (.cqDoorbell r v) s fun t => rd t (Reg.HOST_CQ_HEAD r.val) = v &&& 0xFFF ∧
        ringOf t r.val = { ringOf s r.val with count := 0, stalled := false } ∧ t.bus.err = false) ∧
    (∀ v, Reaches s .pcie Reg.HOST_EVQ_HEAD v → Completes (.evqDoorbell v) s fun t => rd t Reg.HOST_EVQ_HEAD = v &&& 0xFFF ∧
      ringOf t 8 = { ringOf s 8 with count := 0 } ∧ t.bus.err = false) ∧
    (∀ v, Reaches s .pcie (Reg.HOST_RING_CTRL r.val) v → wbit v 0 = true → fbit s (Reg.HOST_RING_CTRL r.val) 0 = false →
      Completes (.ringPairCtrl r v) s fun t => rd t (Reg.HOST_RING_CTRL r.val) = v &&& 0xFFFFFF03 ∧
        fld t (Reg.HOST_RING_STATUS r.val) 1 0 = 1 ∧ fld t (Reg.HOST_RING_STATUS r.val) 7 4 = 0) ∧
    (∀ v, Reaches s .pcie (Reg.HOST_RING_CTRL r.val) v → wbit v 0 = false → fbit s (Reg.HOST_RING_CTRL r.val) 0 = true →
      fld s (Reg.HOST_RING_STATUS r.val) 31 16 = 0 → Completes (.ringPairCtrl r v) s fun t =>
        fbit t (Reg.HOST_RING_STATUS r.val) 0 = false ∧ ∀ n, (flow t n).owner ≠ some (.ring r)) ∧
    (∀ vec : Fin 10, vec.val < 9 → (ringOf s vec.val).count ≠ 0 → fld s (vecCtrl vec.val) 31 16 ≠ 0 →
      fbit s (vecCtrl vec.val) 1 = true → (ringOf s vec.val).firstRaw + 1000 * fld s (vecCtrl vec.val) 31 16 ≤ s.raw →
      Completes (.msixCoalesceTimeout vec) s fun t => t.out = s.out ++ [.msix vec.val] ∧
        ringOf t vec.val = { ringOf s vec.val with count := 0 } ∧ t.regs = s.regs) ∧
    Completes .pcieLinkReset s fun t => fbit t (Reg.HOST_RING_CTRL r.val) 0 = false ∧
      fbit t (Reg.HOST_RING_STATUS r.val) 0 = false ∧ t.mbx.queues = [] ∧ (∀ n, (flow t n).owner ≠ some (.ring r)) ∧
      t.host.waiting = s.host.waiting.filter (fun w => match w.ep with | .udp _ _ _ => true | _ => false) ∧ t.mem = s.mem

/-- SWITCH_FRAME_FORWARD, ADDRESS_AGEOUT, ARP_REQUEST, ICMP_ECHO, HOST_LINK_CHANGE, PCIE_BAR_ACCESS (R49, R533, R539, R540). -/
def Obligations.NetworkCommandsComplete : Prop :=
  ∀ s : State, Awake s →
    (∀ (ingress : Fin 3) f p since, s.pwr.off.contains .host = false → 14 ≤ f.length → f.length ≤ 9022 →
      byteAt f 0 % 2 = 0 → slice f 0 6 ≠ stationAddr s → (s.host.stations.find? fun e => e.1 == beField f 0 6) =
        some (beField f 0 6, p, since) → beField f 6 6 ≠ beField f 0 6 → p ≠ ingress.val → ∀ h : p < 2,
      fbit s Reg.HOST_STATUS (8 + p) = true → Completes (.switchFrameForward ingress f) s fun t =>
        EthGoes s t ⟨p, h⟩ f ∧ t.regs = s.regs ∧ (s.host.stations.length < 1024 →
          (beField f 6 6, ingress.val, s.raw) ∈ t.host.stations)) ∧
    (∀ addr : BitVec 48, Completes (.addressAgeout addr) s fun t => t.host.stations =
      s.host.stations.filter (fun e => e.1 != addr.toNat || s.raw < e.2.2 + 300000000000) ∧ t.regs = s.regs ∧ t.out = s.out) ∧
    (∀ eth f, 42 ≤ f.length → beField f 12 2 = 0x0806 → slice f 14 6 = [0, 1, 8, 0, 6, 4] → beField f 20 2 = 1 →
      ownIp s (beField f 38 4) = true → Completes (.arpRequest eth f) s fun t => ∃ a, EthGoes s t eth a ∧
        slice a 0 6 = slice f 6 6 ∧ slice a 6 6 = stationAddr s ∧ slice a 20 2 = [0, 2] ∧ slice a 22 6 = stationAddr s ∧
        slice a 28 4 = slice f 38 4 ∧ slice a 32 10 = slice f 22 10 ∧ 60 ≤ a.length ∧ t.regs = s.regs) ∧
    (∀ eth f n, served s f = true → beField f 12 2 = 0x0800 → byteAt f 23 = 1 → ownIp s (beField f 30 4) = true →
      beField f 16 2 = n → 14 + n ≤ f.length → 28 ≤ n → Completes (.icmpEcho eth f) s fun t => t.free = s.free + 2 ∧
        ∃ a, EthGoes s t eth a ∧ slice a 0 6 = slice f 6 6 ∧ slice a 26 4 = slice f 30 4 ∧
          slice a 30 4 = slice f 26 4 ∧ byteAt a 34 = 0 ∧ slice a 38 (n - 24) = slice f 38 (n - 24)) ∧
    (∀ p up, Completes (.hostLinkChange (.eth p up)) s fun t => fbit t Reg.HOST_STATUS (8 + p.val) = up ∧
      ∀ a, a ≠ Reg.HOST_STATUS → rd t a = rd s a) ∧
    (∀ speed width, speed.val ≠ 0 → Completes (.hostLinkChange (.pcie speed width)) s fun t => fbit t Reg.HOST_STATUS 0 = true ∧
      fld t Reg.HOST_STATUS 3 1 = speed.val ∧ fld t Reg.HOST_STATUS 7 4 = [0, 1, 2, 4, 4].getD width.val 0) ∧
    (∀ o (v : Word) r i j, NoRequests s → o < 0x1000000 → o % 4 = 0 → Reaches s .pcie (0x20000000 + o) v →
      blockOf (0x20000000 + o) ≠ SAFE → regAt (0x20000000 + o) = some (r, i, j) →
      storesOnly (blockOf (0x20000000 + o)) r.off = true → exec (.pcieBarAccess
        { bar := 0, offset := BitVec.ofNat 64 o, write := true, bytes := leBytes 4 v.toNat }) s =
          .next (okBus (storeRow s (0x20000000 + o) r v))) ∧
    (∀ o d, o + d.length ≤ boltEnd → 1 ≤ d.length → (boltParts s o d.length).contains 5 = false → twinSt s = 0 →
      Completes (.pcieBarAccess { bar := 1, offset := BitVec.ofNat 64 o, write := true, bytes := d }) s fun t =>
        readMem t .bolt o d.length = d ∧ t.bus.err = false ∧
          ∀ r x, r ≠ .bolt ∨ x < o ∨ o + d.length ≤ x → t.mem.read r x = s.mem.read r x) ∧
    (∀ o, o + 4 ≤ 0x80000000 → s.pwr.off.contains .mem = false →
      exec (.pcieBarAccess { bar := 2, offset := BitVec.ofNat 64 o, write := false }) s =
        .next (okBus s (word (leVal (readMem s .arch (0x80000000 + o) 4)))))
end

