-- ==== Sys2Proof/Laws/State.lean ====
section
/-! SUPPORT. What each shared update leaves as it is: one lemma per field of the state and update, true by rfl, so that no proof
unfolds a record update. -/

namespace Sys2Proof.Machine

variable (s : State)

/-! ### wr -/

@[simp] theorem wr_pending (a : Nat) (v : Word) : (wr s a v).pending = s.pending := (rfl)
@[simp] theorem wr_raw (a : Nat) (v : Word) : (wr s a v).raw = s.raw := (rfl)
@[simp] theorem wr_mem (a : Nat) (v : Word) : (wr s a v).mem = s.mem := (rfl)
@[simp] theorem wr_act (a : Nat) (v : Word) : (wr s a v).act = s.act := (rfl)
@[simp] theorem wr_bus (a : Nat) (v : Word) : (wr s a v).bus = s.bus := (rfl)
@[simp] theorem wr_out (a : Nat) (v : Word) : (wr s a v).out = s.out := (rfl)
@[simp] theorem wr_cyc (a : Nat) (v : Word) : (wr s a v).cyc = s.cyc := (rfl)
@[simp] theorem wr_time (a : Nat) (v : Word) : (wr s a v).time = s.time := (rfl)
@[simp] theorem wr_flt (a : Nat) (v : Word) : (wr s a v).flt = s.flt := (rfl)
@[simp] theorem wr_pwr (a : Nat) (v : Word) : (wr s a v).pwr = s.pwr := (rfl)
@[simp] theorem wr_ring (a : Nat) (v : Word) : (wr s a v).ring = s.ring := (rfl)
@[simp] theorem wr_prof (a : Nat) (v : Word) : (wr s a v).prof = s.prof := (rfl)
@[simp] theorem wr_sched (a : Nat) (v : Word) : (wr s a v).sched = s.sched := (rfl)
@[simp] theorem wr_mbx (a : Nat) (v : Word) : (wr s a v).mbx = s.mbx := (rfl)
@[simp] theorem wr_twin (a : Nat) (v : Word) : (wr s a v).twin = s.twin := (rfl)
@[simp] theorem wr_host (a : Nat) (v : Word) : (wr s a v).host = s.host := (rfl)
@[simp] theorem wr_hem (a : Nat) (v : Word) : (wr s a v).hem = s.hem := (rfl)
@[simp] theorem wr_loop (a : Nat) (v : Word) : (wr s a v).loop = s.loop := (rfl)
@[simp] theorem wr_fbc (a : Nat) (v : Word) : (wr s a v).fbc = s.fbc := (rfl)
@[simp] theorem wr_acq (a : Nat) (v : Word) : (wr s a v).acq = s.acq := (rfl)
@[simp] theorem wr_safe (a : Nat) (v : Word) : (wr s a v).safe = s.safe := (rfl)
@[simp] theorem wr_fio (a : Nat) (v : Word) : (wr s a v).fio = s.fio := (rfl)
@[simp] theorem wr_sec (a : Nat) (v : Word) : (wr s a v).sec = s.sec := (rfl)
@[simp] theorem wr_part (a : Nat) (v : Word) : (wr s a v).part = s.part := (rfl)
@[simp] theorem wr_evts (a : Nat) (v : Word) : (wr s a v).evts = s.evts := (rfl)
@[simp] theorem wr_evtsPrev (a : Nat) (v : Word) : (wr s a v).evtsPrev = s.evtsPrev := (rfl)
@[simp] theorem wr_free (a : Nat) (v : Word) : (wr s a v).free = s.free := (rfl)

/-! ### setF -/

@[simp] theorem setF_pending (a hi lo v : Nat) : (setF s a hi lo v).pending = s.pending := (rfl)
@[simp] theorem setF_raw (a hi lo v : Nat) : (setF s a hi lo v).raw = s.raw := (rfl)
@[simp] theorem setF_mem (a hi lo v : Nat) : (setF s a hi lo v).mem = s.mem := (rfl)
@[simp] theorem setF_act (a hi lo v : Nat) : (setF s a hi lo v).act = s.act := (rfl)
@[simp] theorem setF_bus (a hi lo v : Nat) : (setF s a hi lo v).bus = s.bus := (rfl)
@[simp] theorem setF_out (a hi lo v : Nat) : (setF s a hi lo v).out = s.out := (rfl)
@[simp] theorem setF_cyc (a hi lo v : Nat) : (setF s a hi lo v).cyc = s.cyc := (rfl)
@[simp] theorem setF_time (a hi lo v : Nat) : (setF s a hi lo v).time = s.time := (rfl)
@[simp] theorem setF_flt (a hi lo v : Nat) : (setF s a hi lo v).flt = s.flt := (rfl)
@[simp] theorem setF_pwr (a hi lo v : Nat) : (setF s a hi lo v).pwr = s.pwr := (rfl)
@[simp] theorem setF_ring (a hi lo v : Nat) : (setF s a hi lo v).ring = s.ring := (rfl)
@[simp] theorem setF_prof (a hi lo v : Nat) : (setF s a hi lo v).prof = s.prof := (rfl)
@[simp] theorem setF_sched (a hi lo v : Nat) : (setF s a hi lo v).sched = s.sched := (rfl)
@[simp] theorem setF_mbx (a hi lo v : Nat) : (setF s a hi lo v).mbx = s.mbx := (rfl)
@[simp] theorem setF_twin (a hi lo v : Nat) : (setF s a hi lo v).twin = s.twin := (rfl)
@[simp] theorem setF_host (a hi lo v : Nat) : (setF s a hi lo v).host = s.host := (rfl)
@[simp] theorem setF_hem (a hi lo v : Nat) : (setF s a hi lo v).hem = s.hem := (rfl)
@[simp] theorem setF_loop (a hi lo v : Nat) : (setF s a hi lo v).loop = s.loop := (rfl)
@[simp] theorem setF_fbc (a hi lo v : Nat) : (setF s a hi lo v).fbc = s.fbc := (rfl)
@[simp] theorem setF_acq (a hi lo v : Nat) : (setF s a hi lo v).acq = s.acq := (rfl)
@[simp] theorem setF_safe (a hi lo v : Nat) : (setF s a hi lo v).safe = s.safe := (rfl)
@[simp] theorem setF_fio (a hi lo v : Nat) : (setF s a hi lo v).fio = s.fio := (rfl)
@[simp] theorem setF_sec (a hi lo v : Nat) : (setF s a hi lo v).sec = s.sec := (rfl)
@[simp] theorem setF_part (a hi lo v : Nat) : (setF s a hi lo v).part = s.part := (rfl)
@[simp] theorem setF_evts (a hi lo v : Nat) : (setF s a hi lo v).evts = s.evts := (rfl)
@[simp] theorem setF_evtsPrev (a hi lo v : Nat) : (setF s a hi lo v).evtsPrev = s.evtsPrev := (rfl)
@[simp] theorem setF_free (a hi lo v : Nat) : (setF s a hi lo v).free = s.free := (rfl)

/-! ### setBit -/

@[simp] theorem setBit_pending (a i : Nat) (b : Bool) : (setBit s a i b).pending = s.pending := (rfl)
@[simp] theorem setBit_raw (a i : Nat) (b : Bool) : (setBit s a i b).raw = s.raw := (rfl)
@[simp] theorem setBit_mem (a i : Nat) (b : Bool) : (setBit s a i b).mem = s.mem := (rfl)
@[simp] theorem setBit_act (a i : Nat) (b : Bool) : (setBit s a i b).act = s.act := (rfl)
@[simp] theorem setBit_bus (a i : Nat) (b : Bool) : (setBit s a i b).bus = s.bus := (rfl)
@[simp] theorem setBit_out (a i : Nat) (b : Bool) : (setBit s a i b).out = s.out := (rfl)
@[simp] theorem setBit_cyc (a i : Nat) (b : Bool) : (setBit s a i b).cyc = s.cyc := (rfl)
@[simp] theorem setBit_time (a i : Nat) (b : Bool) : (setBit s a i b).time = s.time := (rfl)
@[simp] theorem setBit_flt (a i : Nat) (b : Bool) : (setBit s a i b).flt = s.flt := (rfl)
@[simp] theorem setBit_pwr (a i : Nat) (b : Bool) : (setBit s a i b).pwr = s.pwr := (rfl)
@[simp] theorem setBit_ring (a i : Nat) (b : Bool) : (setBit s a i b).ring = s.ring := (rfl)
@[simp] theorem setBit_prof (a i : Nat) (b : Bool) : (setBit s a i b).prof = s.prof := (rfl)
@[simp] theorem setBit_sched (a i : Nat) (b : Bool) : (setBit s a i b).sched = s.sched := (rfl)
@[simp] theorem setBit_mbx (a i : Nat) (b : Bool) : (setBit s a i b).mbx = s.mbx := (rfl)
@[simp] theorem setBit_twin (a i : Nat) (b : Bool) : (setBit s a i b).twin = s.twin := (rfl)
@[simp] theorem setBit_host (a i : Nat) (b : Bool) : (setBit s a i b).host = s.host := (rfl)
@[simp] theorem setBit_hem (a i : Nat) (b : Bool) : (setBit s a i b).hem = s.hem := (rfl)
@[simp] theorem setBit_loop (a i : Nat) (b : Bool) : (setBit s a i b).loop = s.loop := (rfl)
@[simp] theorem setBit_fbc (a i : Nat) (b : Bool) : (setBit s a i b).fbc = s.fbc := (rfl)
@[simp] theorem setBit_acq (a i : Nat) (b : Bool) : (setBit s a i b).acq = s.acq := (rfl)
@[simp] theorem setBit_safe (a i : Nat) (b : Bool) : (setBit s a i b).safe = s.safe := (rfl)
@[simp] theorem setBit_fio (a i : Nat) (b : Bool) : (setBit s a i b).fio = s.fio := (rfl)
@[simp] theorem setBit_sec (a i : Nat) (b : Bool) : (setBit s a i b).sec = s.sec := (rfl)
@[simp] theorem setBit_part (a i : Nat) (b : Bool) : (setBit s a i b).part = s.part := (rfl)
@[simp] theorem setBit_evts (a i : Nat) (b : Bool) : (setBit s a i b).evts = s.evts := (rfl)
@[simp] theorem setBit_evtsPrev (a i : Nat) (b : Bool) : (setBit s a i b).evtsPrev = s.evtsPrev := (rfl)
@[simp] theorem setBit_free (a i : Nat) (b : Bool) : (setBit s a i b).free = s.free := (rfl)

/-! ### bumpF -/

@[simp] theorem bumpF_pending (a hi lo n : Nat) : (bumpF s a hi lo n).pending = s.pending := (rfl)
@[simp] theorem bumpF_raw (a hi lo n : Nat) : (bumpF s a hi lo n).raw = s.raw := (rfl)
@[simp] theorem bumpF_mem (a hi lo n : Nat) : (bumpF s a hi lo n).mem = s.mem := (rfl)
@[simp] theorem bumpF_act (a hi lo n : Nat) : (bumpF s a hi lo n).act = s.act := (rfl)
@[simp] theorem bumpF_bus (a hi lo n : Nat) : (bumpF s a hi lo n).bus = s.bus := (rfl)
@[simp] theorem bumpF_out (a hi lo n : Nat) : (bumpF s a hi lo n).out = s.out := (rfl)
@[simp] theorem bumpF_cyc (a hi lo n : Nat) : (bumpF s a hi lo n).cyc = s.cyc := (rfl)
@[simp] theorem bumpF_time (a hi lo n : Nat) : (bumpF s a hi lo n).time = s.time := (rfl)
@[simp] theorem bumpF_flt (a hi lo n : Nat) : (bumpF s a hi lo n).flt = s.flt := (rfl)
@[simp] theorem bumpF_pwr (a hi lo n : Nat) : (bumpF s a hi lo n).pwr = s.pwr := (rfl)
@[simp] theorem bumpF_ring (a hi lo n : Nat) : (bumpF s a hi lo n).ring = s.ring := (rfl)
@[simp] theorem bumpF_prof (a hi lo n : Nat) : (bumpF s a hi lo n).prof = s.prof := (rfl)
@[simp] theorem bumpF_sched (a hi lo n : Nat) : (bumpF s a hi lo n).sched = s.sched := (rfl)
@[simp] theorem bumpF_mbx (a hi lo n : Nat) : (bumpF s a hi lo n).mbx = s.mbx := (rfl)
@[simp] theorem bumpF_twin (a hi lo n : Nat) : (bumpF s a hi lo n).twin = s.twin := (rfl)
@[simp] theorem bumpF_host (a hi lo n : Nat) : (bumpF s a hi lo n).host = s.host := (rfl)
@[simp] theorem bumpF_hem (a hi lo n : Nat) : (bumpF s a hi lo n).hem = s.hem := (rfl)
@[simp] theorem bumpF_loop (a hi lo n : Nat) : (bumpF s a hi lo n).loop = s.loop := (rfl)
@[simp] theorem bumpF_fbc (a hi lo n : Nat) : (bumpF s a hi lo n).fbc = s.fbc := (rfl)
@[simp] theorem bumpF_acq (a hi lo n : Nat) : (bumpF s a hi lo n).acq = s.acq := (rfl)
@[simp] theorem bumpF_safe (a hi lo n : Nat) : (bumpF s a hi lo n).safe = s.safe := (rfl)
@[simp] theorem bumpF_fio (a hi lo n : Nat) : (bumpF s a hi lo n).fio = s.fio := (rfl)
@[simp] theorem bumpF_sec (a hi lo n : Nat) : (bumpF s a hi lo n).sec = s.sec := (rfl)
@[simp] theorem bumpF_part (a hi lo n : Nat) : (bumpF s a hi lo n).part = s.part := (rfl)
@[simp] theorem bumpF_evts (a hi lo n : Nat) : (bumpF s a hi lo n).evts = s.evts := (rfl)
@[simp] theorem bumpF_evtsPrev (a hi lo n : Nat) : (bumpF s a hi lo n).evtsPrev = s.evtsPrev := (rfl)
@[simp] theorem bumpF_free (a hi lo n : Nat) : (bumpF s a hi lo n).free = s.free := (rfl)

/-! ### bump -/

@[simp] theorem bump_pending (a n : Nat) : (bump s a n).pending = s.pending := (rfl)
@[simp] theorem bump_raw (a n : Nat) : (bump s a n).raw = s.raw := (rfl)
@[simp] theorem bump_mem (a n : Nat) : (bump s a n).mem = s.mem := (rfl)
@[simp] theorem bump_act (a n : Nat) : (bump s a n).act = s.act := (rfl)
@[simp] theorem bump_bus (a n : Nat) : (bump s a n).bus = s.bus := (rfl)
@[simp] theorem bump_out (a n : Nat) : (bump s a n).out = s.out := (rfl)
@[simp] theorem bump_cyc (a n : Nat) : (bump s a n).cyc = s.cyc := (rfl)
@[simp] theorem bump_time (a n : Nat) : (bump s a n).time = s.time := (rfl)
@[simp] theorem bump_flt (a n : Nat) : (bump s a n).flt = s.flt := (rfl)
@[simp] theorem bump_pwr (a n : Nat) : (bump s a n).pwr = s.pwr := (rfl)
@[simp] theorem bump_ring (a n : Nat) : (bump s a n).ring = s.ring := (rfl)
@[simp] theorem bump_prof (a n : Nat) : (bump s a n).prof = s.prof := (rfl)
@[simp] theorem bump_sched (a n : Nat) : (bump s a n).sched = s.sched := (rfl)
@[simp] theorem bump_mbx (a n : Nat) : (bump s a n).mbx = s.mbx := (rfl)
@[simp] theorem bump_twin (a n : Nat) : (bump s a n).twin = s.twin := (rfl)
@[simp] theorem bump_host (a n : Nat) : (bump s a n).host = s.host := (rfl)
@[simp] theorem bump_hem (a n : Nat) : (bump s a n).hem = s.hem := (rfl)
@[simp] theorem bump_loop (a n : Nat) : (bump s a n).loop = s.loop := (rfl)
@[simp] theorem bump_fbc (a n : Nat) : (bump s a n).fbc = s.fbc := (rfl)
@[simp] theorem bump_acq (a n : Nat) : (bump s a n).acq = s.acq := (rfl)
@[simp] theorem bump_safe (a n : Nat) : (bump s a n).safe = s.safe := (rfl)
@[simp] theorem bump_fio (a n : Nat) : (bump s a n).fio = s.fio := (rfl)
@[simp] theorem bump_sec (a n : Nat) : (bump s a n).sec = s.sec := (rfl)
@[simp] theorem bump_part (a n : Nat) : (bump s a n).part = s.part := (rfl)
@[simp] theorem bump_evts (a n : Nat) : (bump s a n).evts = s.evts := (rfl)
@[simp] theorem bump_evtsPrev (a n : Nat) : (bump s a n).evtsPrev = s.evtsPrev := (rfl)
@[simp] theorem bump_free (a n : Nat) : (bump s a n).free = s.free := (rfl)

/-! ### wr64 -/

@[simp] theorem wr64_pending (a v : Nat) : (wr64 s a v).pending = s.pending := (rfl)
@[simp] theorem wr64_raw (a v : Nat) : (wr64 s a v).raw = s.raw := (rfl)
@[simp] theorem wr64_mem (a v : Nat) : (wr64 s a v).mem = s.mem := (rfl)
@[simp] theorem wr64_act (a v : Nat) : (wr64 s a v).act = s.act := (rfl)
@[simp] theorem wr64_bus (a v : Nat) : (wr64 s a v).bus = s.bus := (rfl)
@[simp] theorem wr64_out (a v : Nat) : (wr64 s a v).out = s.out := (rfl)
@[simp] theorem wr64_cyc (a v : Nat) : (wr64 s a v).cyc = s.cyc := (rfl)
@[simp] theorem wr64_time (a v : Nat) : (wr64 s a v).time = s.time := (rfl)
@[simp] theorem wr64_flt (a v : Nat) : (wr64 s a v).flt = s.flt := (rfl)
@[simp] theorem wr64_pwr (a v : Nat) : (wr64 s a v).pwr = s.pwr := (rfl)
@[simp] theorem wr64_ring (a v : Nat) : (wr64 s a v).ring = s.ring := (rfl)
@[simp] theorem wr64_prof (a v : Nat) : (wr64 s a v).prof = s.prof := (rfl)
@[simp] theorem wr64_sched (a v : Nat) : (wr64 s a v).sched = s.sched := (rfl)
@[simp] theorem wr64_mbx (a v : Nat) : (wr64 s a v).mbx = s.mbx := (rfl)
@[simp] theorem wr64_twin (a v : Nat) : (wr64 s a v).twin = s.twin := (rfl)
@[simp] theorem wr64_host (a v : Nat) : (wr64 s a v).host = s.host := (rfl)
@[simp] theorem wr64_hem (a v : Nat) : (wr64 s a v).hem = s.hem := (rfl)
@[simp] theorem wr64_loop (a v : Nat) : (wr64 s a v).loop = s.loop := (rfl)
@[simp] theorem wr64_fbc (a v : Nat) : (wr64 s a v).fbc = s.fbc := (rfl)
@[simp] theorem wr64_acq (a v : Nat) : (wr64 s a v).acq = s.acq := (rfl)
@[simp] theorem wr64_safe (a v : Nat) : (wr64 s a v).safe = s.safe := (rfl)
@[simp] theorem wr64_fio (a v : Nat) : (wr64 s a v).fio = s.fio := (rfl)
@[simp] theorem wr64_sec (a v : Nat) : (wr64 s a v).sec = s.sec := (rfl)
@[simp] theorem wr64_part (a v : Nat) : (wr64 s a v).part = s.part := (rfl)
@[simp] theorem wr64_evts (a v : Nat) : (wr64 s a v).evts = s.evts := (rfl)
@[simp] theorem wr64_evtsPrev (a v : Nat) : (wr64 s a v).evtsPrev = s.evtsPrev := (rfl)
@[simp] theorem wr64_free (a v : Nat) : (wr64 s a v).free = s.free := (rfl)

/-! ### setAct -/

@[simp] theorem setAct_pending (a : Nat) (v : Word) : (setAct s a v).pending = s.pending := (rfl)
@[simp] theorem setAct_raw (a : Nat) (v : Word) : (setAct s a v).raw = s.raw := (rfl)
@[simp] theorem setAct_mem (a : Nat) (v : Word) : (setAct s a v).mem = s.mem := (rfl)
@[simp] theorem setAct_regs (a : Nat) (v : Word) : (setAct s a v).regs = s.regs := (rfl)
@[simp] theorem setAct_bus (a : Nat) (v : Word) : (setAct s a v).bus = s.bus := (rfl)
@[simp] theorem setAct_out (a : Nat) (v : Word) : (setAct s a v).out = s.out := (rfl)
@[simp] theorem setAct_cyc (a : Nat) (v : Word) : (setAct s a v).cyc = s.cyc := (rfl)
@[simp] theorem setAct_time (a : Nat) (v : Word) : (setAct s a v).time = s.time := (rfl)
@[simp] theorem setAct_flt (a : Nat) (v : Word) : (setAct s a v).flt = s.flt := (rfl)
@[simp] theorem setAct_pwr (a : Nat) (v : Word) : (setAct s a v).pwr = s.pwr := (rfl)
@[simp] theorem setAct_ring (a : Nat) (v : Word) : (setAct s a v).ring = s.ring := (rfl)
@[simp] theorem setAct_prof (a : Nat) (v : Word) : (setAct s a v).prof = s.prof := (rfl)
@[simp] theorem setAct_sched (a : Nat) (v : Word) : (setAct s a v).sched = s.sched := (rfl)
@[simp] theorem setAct_mbx (a : Nat) (v : Word) : (setAct s a v).mbx = s.mbx := (rfl)
@[simp] theorem setAct_twin (a : Nat) (v : Word) : (setAct s a v).twin = s.twin := (rfl)
@[simp] theorem setAct_host (a : Nat) (v : Word) : (setAct s a v).host = s.host := (rfl)
@[simp] theorem setAct_hem (a : Nat) (v : Word) : (setAct s a v).hem = s.hem := (rfl)
@[simp] theorem setAct_loop (a : Nat) (v : Word) : (setAct s a v).loop = s.loop := (rfl)
@[simp] theorem setAct_fbc (a : Nat) (v : Word) : (setAct s a v).fbc = s.fbc := (rfl)
@[simp] theorem setAct_acq (a : Nat) (v : Word) : (setAct s a v).acq = s.acq := (rfl)
@[simp] theorem setAct_safe (a : Nat) (v : Word) : (setAct s a v).safe = s.safe := (rfl)
@[simp] theorem setAct_fio (a : Nat) (v : Word) : (setAct s a v).fio = s.fio := (rfl)
@[simp] theorem setAct_sec (a : Nat) (v : Word) : (setAct s a v).sec = s.sec := (rfl)
@[simp] theorem setAct_part (a : Nat) (v : Word) : (setAct s a v).part = s.part := (rfl)
@[simp] theorem setAct_evts (a : Nat) (v : Word) : (setAct s a v).evts = s.evts := (rfl)
@[simp] theorem setAct_evtsPrev (a : Nat) (v : Word) : (setAct s a v).evtsPrev = s.evtsPrev := (rfl)
@[simp] theorem setAct_free (a : Nat) (v : Word) : (setAct s a v).free = s.free := (rfl)

/-! ### okBus -/

@[simp] theorem okBus_pending (d : Word) : (okBus s d).pending = s.pending := (rfl)
@[simp] theorem okBus_raw (d : Word) : (okBus s d).raw = s.raw := (rfl)
@[simp] theorem okBus_mem (d : Word) : (okBus s d).mem = s.mem := (rfl)
@[simp] theorem okBus_regs (d : Word) : (okBus s d).regs = s.regs := (rfl)
@[simp] theorem okBus_act (d : Word) : (okBus s d).act = s.act := (rfl)
@[simp] theorem okBus_out (d : Word) : (okBus s d).out = s.out := (rfl)
@[simp] theorem okBus_cyc (d : Word) : (okBus s d).cyc = s.cyc := (rfl)
@[simp] theorem okBus_time (d : Word) : (okBus s d).time = s.time := (rfl)
@[simp] theorem okBus_flt (d : Word) : (okBus s d).flt = s.flt := (rfl)
@[simp] theorem okBus_pwr (d : Word) : (okBus s d).pwr = s.pwr := (rfl)
@[simp] theorem okBus_ring (d : Word) : (okBus s d).ring = s.ring := (rfl)
@[simp] theorem okBus_prof (d : Word) : (okBus s d).prof = s.prof := (rfl)
@[simp] theorem okBus_sched (d : Word) : (okBus s d).sched = s.sched := (rfl)
@[simp] theorem okBus_mbx (d : Word) : (okBus s d).mbx = s.mbx := (rfl)
@[simp] theorem okBus_twin (d : Word) : (okBus s d).twin = s.twin := (rfl)
@[simp] theorem okBus_host (d : Word) : (okBus s d).host = s.host := (rfl)
@[simp] theorem okBus_hem (d : Word) : (okBus s d).hem = s.hem := (rfl)
@[simp] theorem okBus_loop (d : Word) : (okBus s d).loop = s.loop := (rfl)
@[simp] theorem okBus_fbc (d : Word) : (okBus s d).fbc = s.fbc := (rfl)
@[simp] theorem okBus_acq (d : Word) : (okBus s d).acq = s.acq := (rfl)
@[simp] theorem okBus_safe (d : Word) : (okBus s d).safe = s.safe := (rfl)
@[simp] theorem okBus_fio (d : Word) : (okBus s d).fio = s.fio := (rfl)
@[simp] theorem okBus_sec (d : Word) : (okBus s d).sec = s.sec := (rfl)
@[simp] theorem okBus_part (d : Word) : (okBus s d).part = s.part := (rfl)
@[simp] theorem okBus_evts (d : Word) : (okBus s d).evts = s.evts := (rfl)
@[simp] theorem okBus_evtsPrev (d : Word) : (okBus s d).evtsPrev = s.evtsPrev := (rfl)
@[simp] theorem okBus_free (d : Word) : (okBus s d).free = s.free := (rfl)

/-! ### slverr -/

@[simp] theorem slverr_pending : (slverr s).pending = s.pending := (rfl)
@[simp] theorem slverr_raw : (slverr s).raw = s.raw := (rfl)
@[simp] theorem slverr_mem : (slverr s).mem = s.mem := (rfl)
@[simp] theorem slverr_regs : (slverr s).regs = s.regs := (rfl)
@[simp] theorem slverr_act : (slverr s).act = s.act := (rfl)
@[simp] theorem slverr_out : (slverr s).out = s.out := (rfl)
@[simp] theorem slverr_cyc : (slverr s).cyc = s.cyc := (rfl)
@[simp] theorem slverr_time : (slverr s).time = s.time := (rfl)
@[simp] theorem slverr_flt : (slverr s).flt = s.flt := (rfl)
@[simp] theorem slverr_pwr : (slverr s).pwr = s.pwr := (rfl)
@[simp] theorem slverr_ring : (slverr s).ring = s.ring := (rfl)
@[simp] theorem slverr_prof : (slverr s).prof = s.prof := (rfl)
@[simp] theorem slverr_sched : (slverr s).sched = s.sched := (rfl)
@[simp] theorem slverr_mbx : (slverr s).mbx = s.mbx := (rfl)
@[simp] theorem slverr_twin : (slverr s).twin = s.twin := (rfl)
@[simp] theorem slverr_host : (slverr s).host = s.host := (rfl)
@[simp] theorem slverr_hem : (slverr s).hem = s.hem := (rfl)
@[simp] theorem slverr_loop : (slverr s).loop = s.loop := (rfl)
@[simp] theorem slverr_fbc : (slverr s).fbc = s.fbc := (rfl)
@[simp] theorem slverr_acq : (slverr s).acq = s.acq := (rfl)
@[simp] theorem slverr_safe : (slverr s).safe = s.safe := (rfl)
@[simp] theorem slverr_fio : (slverr s).fio = s.fio := (rfl)
@[simp] theorem slverr_sec : (slverr s).sec = s.sec := (rfl)
@[simp] theorem slverr_part : (slverr s).part = s.part := (rfl)
@[simp] theorem slverr_evts : (slverr s).evts = s.evts := (rfl)
@[simp] theorem slverr_evtsPrev : (slverr s).evtsPrev = s.evtsPrev := (rfl)
@[simp] theorem slverr_free : (slverr s).free = s.free := (rfl)

/-! ### emit -/

@[simp] theorem emit_pending (o : Out) : (emit s o).pending = s.pending := (rfl)
@[simp] theorem emit_raw (o : Out) : (emit s o).raw = s.raw := (rfl)
@[simp] theorem emit_mem (o : Out) : (emit s o).mem = s.mem := (rfl)
@[simp] theorem emit_regs (o : Out) : (emit s o).regs = s.regs := (rfl)
@[simp] theorem emit_act (o : Out) : (emit s o).act = s.act := (rfl)
@[simp] theorem emit_bus (o : Out) : (emit s o).bus = s.bus := (rfl)
@[simp] theorem emit_cyc (o : Out) : (emit s o).cyc = s.cyc := (rfl)
@[simp] theorem emit_time (o : Out) : (emit s o).time = s.time := (rfl)
@[simp] theorem emit_flt (o : Out) : (emit s o).flt = s.flt := (rfl)
@[simp] theorem emit_pwr (o : Out) : (emit s o).pwr = s.pwr := (rfl)
@[simp] theorem emit_ring (o : Out) : (emit s o).ring = s.ring := (rfl)
@[simp] theorem emit_prof (o : Out) : (emit s o).prof = s.prof := (rfl)
@[simp] theorem emit_sched (o : Out) : (emit s o).sched = s.sched := (rfl)
@[simp] theorem emit_mbx (o : Out) : (emit s o).mbx = s.mbx := (rfl)
@[simp] theorem emit_twin (o : Out) : (emit s o).twin = s.twin := (rfl)
@[simp] theorem emit_host (o : Out) : (emit s o).host = s.host := (rfl)
@[simp] theorem emit_hem (o : Out) : (emit s o).hem = s.hem := (rfl)
@[simp] theorem emit_loop (o : Out) : (emit s o).loop = s.loop := (rfl)
@[simp] theorem emit_fbc (o : Out) : (emit s o).fbc = s.fbc := (rfl)
@[simp] theorem emit_acq (o : Out) : (emit s o).acq = s.acq := (rfl)
@[simp] theorem emit_safe (o : Out) : (emit s o).safe = s.safe := (rfl)
@[simp] theorem emit_fio (o : Out) : (emit s o).fio = s.fio := (rfl)
@[simp] theorem emit_sec (o : Out) : (emit s o).sec = s.sec := (rfl)
@[simp] theorem emit_part (o : Out) : (emit s o).part = s.part := (rfl)
@[simp] theorem emit_evts (o : Out) : (emit s o).evts = s.evts := (rfl)
@[simp] theorem emit_evtsPrev (o : Out) : (emit s o).evtsPrev = s.evtsPrev := (rfl)
@[simp] theorem emit_free (o : Out) : (emit s o).free = s.free := (rfl)

/-! ### drawn -/

@[simp] theorem drawn_pending : (drawn s).pending = s.pending := (rfl)
@[simp] theorem drawn_raw : (drawn s).raw = s.raw := (rfl)
@[simp] theorem drawn_mem : (drawn s).mem = s.mem := (rfl)
@[simp] theorem drawn_regs : (drawn s).regs = s.regs := (rfl)
@[simp] theorem drawn_act : (drawn s).act = s.act := (rfl)
@[simp] theorem drawn_bus : (drawn s).bus = s.bus := (rfl)
@[simp] theorem drawn_out : (drawn s).out = s.out := (rfl)
@[simp] theorem drawn_cyc : (drawn s).cyc = s.cyc := (rfl)
@[simp] theorem drawn_time : (drawn s).time = s.time := (rfl)
@[simp] theorem drawn_flt : (drawn s).flt = s.flt := (rfl)
@[simp] theorem drawn_pwr : (drawn s).pwr = s.pwr := (rfl)
@[simp] theorem drawn_ring : (drawn s).ring = s.ring := (rfl)
@[simp] theorem drawn_prof : (drawn s).prof = s.prof := (rfl)
@[simp] theorem drawn_sched : (drawn s).sched = s.sched := (rfl)
@[simp] theorem drawn_mbx : (drawn s).mbx = s.mbx := (rfl)
@[simp] theorem drawn_twin : (drawn s).twin = s.twin := (rfl)
@[simp] theorem drawn_host : (drawn s).host = s.host := (rfl)
@[simp] theorem drawn_hem : (drawn s).hem = s.hem := (rfl)
@[simp] theorem drawn_loop : (drawn s).loop = s.loop := (rfl)
@[simp] theorem drawn_fbc : (drawn s).fbc = s.fbc := (rfl)
@[simp] theorem drawn_acq : (drawn s).acq = s.acq := (rfl)
@[simp] theorem drawn_safe : (drawn s).safe = s.safe := (rfl)
@[simp] theorem drawn_fio : (drawn s).fio = s.fio := (rfl)
@[simp] theorem drawn_sec : (drawn s).sec = s.sec := (rfl)
@[simp] theorem drawn_part : (drawn s).part = s.part := (rfl)
@[simp] theorem drawn_evts : (drawn s).evts = s.evts := (rfl)
@[simp] theorem drawn_evtsPrev : (drawn s).evtsPrev = s.evtsPrev := (rfl)

/-! ### writeMem -/

@[simp] theorem writeMem_pending (r : Region) (a : Nat) (bs : List Byte) : (writeMem s r a bs).pending = s.pending := (rfl)
@[simp] theorem writeMem_raw (r : Region) (a : Nat) (bs : List Byte) : (writeMem s r a bs).raw = s.raw := (rfl)
@[simp] theorem writeMem_regs (r : Region) (a : Nat) (bs : List Byte) : (writeMem s r a bs).regs = s.regs := (rfl)
@[simp] theorem writeMem_act (r : Region) (a : Nat) (bs : List Byte) : (writeMem s r a bs).act = s.act := (rfl)
@[simp] theorem writeMem_bus (r : Region) (a : Nat) (bs : List Byte) : (writeMem s r a bs).bus = s.bus := (rfl)
@[simp] theorem writeMem_out (r : Region) (a : Nat) (bs : List Byte) : (writeMem s r a bs).out = s.out := (rfl)
@[simp] theorem writeMem_cyc (r : Region) (a : Nat) (bs : List Byte) : (writeMem s r a bs).cyc = s.cyc := (rfl)
@[simp] theorem writeMem_time (r : Region) (a : Nat) (bs : List Byte) : (writeMem s r a bs).time = s.time := (rfl)
@[simp] theorem writeMem_flt (r : Region) (a : Nat) (bs : List Byte) : (writeMem s r a bs).flt = s.flt := (rfl)
@[simp] theorem writeMem_pwr (r : Region) (a : Nat) (bs : List Byte) : (writeMem s r a bs).pwr = s.pwr := (rfl)
@[simp] theorem writeMem_ring (r : Region) (a : Nat) (bs : List Byte) : (writeMem s r a bs).ring = s.ring := (rfl)
@[simp] theorem writeMem_prof (r : Region) (a : Nat) (bs : List Byte) : (writeMem s r a bs).prof = s.prof := (rfl)
@[simp] theorem writeMem_sched (r : Region) (a : Nat) (bs : List Byte) : (writeMem s r a bs).sched = s.sched := (rfl)
@[simp] theorem writeMem_mbx (r : Region) (a : Nat) (bs : List Byte) : (writeMem s r a bs).mbx = s.mbx := (rfl)
@[simp] theorem writeMem_twin (r : Region) (a : Nat) (bs : List Byte) : (writeMem s r a bs).twin = s.twin := (rfl)
@[simp] theorem writeMem_host (r : Region) (a : Nat) (bs : List Byte) : (writeMem s r a bs).host = s.host := (rfl)
@[simp] theorem writeMem_hem (r : Region) (a : Nat) (bs : List Byte) : (writeMem s r a bs).hem = s.hem := (rfl)
@[simp] theorem writeMem_loop (r : Region) (a : Nat) (bs : List Byte) : (writeMem s r a bs).loop = s.loop := (rfl)
@[simp] theorem writeMem_fbc (r : Region) (a : Nat) (bs : List Byte) : (writeMem s r a bs).fbc = s.fbc := (rfl)
@[simp] theorem writeMem_acq (r : Region) (a : Nat) (bs : List Byte) : (writeMem s r a bs).acq = s.acq := (rfl)
@[simp] theorem writeMem_safe (r : Region) (a : Nat) (bs : List Byte) : (writeMem s r a bs).safe = s.safe := (rfl)
@[simp] theorem writeMem_fio (r : Region) (a : Nat) (bs : List Byte) : (writeMem s r a bs).fio = s.fio := (rfl)
@[simp] theorem writeMem_sec (r : Region) (a : Nat) (bs : List Byte) : (writeMem s r a bs).sec = s.sec := (rfl)
@[simp] theorem writeMem_part (r : Region) (a : Nat) (bs : List Byte) : (writeMem s r a bs).part = s.part := (rfl)
@[simp] theorem writeMem_evts (r : Region) (a : Nat) (bs : List Byte) : (writeMem s r a bs).evts = s.evts := (rfl)
@[simp] theorem writeMem_evtsPrev (r : Region) (a : Nat) (bs : List Byte) : (writeMem s r a bs).evtsPrev = s.evtsPrev := (rfl)
@[simp] theorem writeMem_free (r : Region) (a : Nat) (bs : List Byte) : (writeMem s r a bs).free = s.free := (rfl)

/-! ### setDom -/

@[simp] theorem setDom_pending (k : Nat) (c : Calc) : (setDom s k c).pending = s.pending := (rfl)
@[simp] theorem setDom_raw (k : Nat) (c : Calc) : (setDom s k c).raw = s.raw := (rfl)
@[simp] theorem setDom_mem (k : Nat) (c : Calc) : (setDom s k c).mem = s.mem := (rfl)
@[simp] theorem setDom_regs (k : Nat) (c : Calc) : (setDom s k c).regs = s.regs := (rfl)
@[simp] theorem setDom_act (k : Nat) (c : Calc) : (setDom s k c).act = s.act := (rfl)
@[simp] theorem setDom_bus (k : Nat) (c : Calc) : (setDom s k c).bus = s.bus := (rfl)
@[simp] theorem setDom_out (k : Nat) (c : Calc) : (setDom s k c).out = s.out := (rfl)
@[simp] theorem setDom_cyc (k : Nat) (c : Calc) : (setDom s k c).cyc = s.cyc := (rfl)
@[simp] theorem setDom_flt (k : Nat) (c : Calc) : (setDom s k c).flt = s.flt := (rfl)
@[simp] theorem setDom_pwr (k : Nat) (c : Calc) : (setDom s k c).pwr = s.pwr := (rfl)
@[simp] theorem setDom_ring (k : Nat) (c : Calc) : (setDom s k c).ring = s.ring := (rfl)
@[simp] theorem setDom_prof (k : Nat) (c : Calc) : (setDom s k c).prof = s.prof := (rfl)
@[simp] theorem setDom_sched (k : Nat) (c : Calc) : (setDom s k c).sched = s.sched := (rfl)
@[simp] theorem setDom_mbx (k : Nat) (c : Calc) : (setDom s k c).mbx = s.mbx := (rfl)
@[simp] theorem setDom_twin (k : Nat) (c : Calc) : (setDom s k c).twin = s.twin := (rfl)
@[simp] theorem setDom_host (k : Nat) (c : Calc) : (setDom s k c).host = s.host := (rfl)
@[simp] theorem setDom_hem (k : Nat) (c : Calc) : (setDom s k c).hem = s.hem := (rfl)
@[simp] theorem setDom_loop (k : Nat) (c : Calc) : (setDom s k c).loop = s.loop := (rfl)
@[simp] theorem setDom_fbc (k : Nat) (c : Calc) : (setDom s k c).fbc = s.fbc := (rfl)
@[simp] theorem setDom_acq (k : Nat) (c : Calc) : (setDom s k c).acq = s.acq := (rfl)
@[simp] theorem setDom_safe (k : Nat) (c : Calc) : (setDom s k c).safe = s.safe := (rfl)
@[simp] theorem setDom_fio (k : Nat) (c : Calc) : (setDom s k c).fio = s.fio := (rfl)
@[simp] theorem setDom_sec (k : Nat) (c : Calc) : (setDom s k c).sec = s.sec := (rfl)
@[simp] theorem setDom_part (k : Nat) (c : Calc) : (setDom s k c).part = s.part := (rfl)
@[simp] theorem setDom_evts (k : Nat) (c : Calc) : (setDom s k c).evts = s.evts := (rfl)
@[simp] theorem setDom_evtsPrev (k : Nat) (c : Calc) : (setDom s k c).evtsPrev = s.evtsPrev := (rfl)
@[simp] theorem setDom_free (k : Nat) (c : Calc) : (setDom s k c).free = s.free := (rfl)

/-! ### setAxis -/

@[simp] theorem setAxis_pending (a : Nat) (x : Axis) : (setAxis s a x).pending = s.pending := (rfl)
@[simp] theorem setAxis_raw (a : Nat) (x : Axis) : (setAxis s a x).raw = s.raw := (rfl)
@[simp] theorem setAxis_mem (a : Nat) (x : Axis) : (setAxis s a x).mem = s.mem := (rfl)
@[simp] theorem setAxis_regs (a : Nat) (x : Axis) : (setAxis s a x).regs = s.regs := (rfl)
@[simp] theorem setAxis_act (a : Nat) (x : Axis) : (setAxis s a x).act = s.act := (rfl)
@[simp] theorem setAxis_bus (a : Nat) (x : Axis) : (setAxis s a x).bus = s.bus := (rfl)
@[simp] theorem setAxis_out (a : Nat) (x : Axis) : (setAxis s a x).out = s.out := (rfl)
@[simp] theorem setAxis_cyc (a : Nat) (x : Axis) : (setAxis s a x).cyc = s.cyc := (rfl)
@[simp] theorem setAxis_time (a : Nat) (x : Axis) : (setAxis s a x).time = s.time := (rfl)
@[simp] theorem setAxis_flt (a : Nat) (x : Axis) : (setAxis s a x).flt = s.flt := (rfl)
@[simp] theorem setAxis_pwr (a : Nat) (x : Axis) : (setAxis s a x).pwr = s.pwr := (rfl)
@[simp] theorem setAxis_ring (a : Nat) (x : Axis) : (setAxis s a x).ring = s.ring := (rfl)
@[simp] theorem setAxis_sched (a : Nat) (x : Axis) : (setAxis s a x).sched = s.sched := (rfl)
@[simp] theorem setAxis_mbx (a : Nat) (x : Axis) : (setAxis s a x).mbx = s.mbx := (rfl)
@[simp] theorem setAxis_twin (a : Nat) (x : Axis) : (setAxis s a x).twin = s.twin := (rfl)
@[simp] theorem setAxis_host (a : Nat) (x : Axis) : (setAxis s a x).host = s.host := (rfl)
@[simp] theorem setAxis_hem (a : Nat) (x : Axis) : (setAxis s a x).hem = s.hem := (rfl)
@[simp] theorem setAxis_loop (a : Nat) (x : Axis) : (setAxis s a x).loop = s.loop := (rfl)
@[simp] theorem setAxis_fbc (a : Nat) (x : Axis) : (setAxis s a x).fbc = s.fbc := (rfl)
@[simp] theorem setAxis_acq (a : Nat) (x : Axis) : (setAxis s a x).acq = s.acq := (rfl)
@[simp] theorem setAxis_safe (a : Nat) (x : Axis) : (setAxis s a x).safe = s.safe := (rfl)
@[simp] theorem setAxis_fio (a : Nat) (x : Axis) : (setAxis s a x).fio = s.fio := (rfl)
@[simp] theorem setAxis_sec (a : Nat) (x : Axis) : (setAxis s a x).sec = s.sec := (rfl)
@[simp] theorem setAxis_part (a : Nat) (x : Axis) : (setAxis s a x).part = s.part := (rfl)
@[simp] theorem setAxis_evts (a : Nat) (x : Axis) : (setAxis s a x).evts = s.evts := (rfl)
@[simp] theorem setAxis_evtsPrev (a : Nat) (x : Axis) : (setAxis s a x).evtsPrev = s.evtsPrev := (rfl)
@[simp] theorem setAxis_free (a : Nat) (x : Axis) : (setAxis s a x).free = s.free := (rfl)

/-! ### request -/

@[simp] theorem request_pending (r : StopReq) : (request s r).pending = s.pending := (rfl)
@[simp] theorem request_raw (r : StopReq) : (request s r).raw = s.raw := (rfl)
@[simp] theorem request_mem (r : StopReq) : (request s r).mem = s.mem := (rfl)
@[simp] theorem request_regs (r : StopReq) : (request s r).regs = s.regs := (rfl)
@[simp] theorem request_act (r : StopReq) : (request s r).act = s.act := (rfl)
@[simp] theorem request_bus (r : StopReq) : (request s r).bus = s.bus := (rfl)
@[simp] theorem request_out (r : StopReq) : (request s r).out = s.out := (rfl)
@[simp] theorem request_cyc (r : StopReq) : (request s r).cyc = s.cyc := (rfl)
@[simp] theorem request_time (r : StopReq) : (request s r).time = s.time := (rfl)
@[simp] theorem request_flt (r : StopReq) : (request s r).flt = s.flt := (rfl)
@[simp] theorem request_pwr (r : StopReq) : (request s r).pwr = s.pwr := (rfl)
@[simp] theorem request_ring (r : StopReq) : (request s r).ring = s.ring := (rfl)
@[simp] theorem request_sched (r : StopReq) : (request s r).sched = s.sched := (rfl)
@[simp] theorem request_mbx (r : StopReq) : (request s r).mbx = s.mbx := (rfl)
@[simp] theorem request_twin (r : StopReq) : (request s r).twin = s.twin := (rfl)
@[simp] theorem request_host (r : StopReq) : (request s r).host = s.host := (rfl)
@[simp] theorem request_hem (r : StopReq) : (request s r).hem = s.hem := (rfl)
@[simp] theorem request_loop (r : StopReq) : (request s r).loop = s.loop := (rfl)
@[simp] theorem request_fbc (r : StopReq) : (request s r).fbc = s.fbc := (rfl)
@[simp] theorem request_acq (r : StopReq) : (request s r).acq = s.acq := (rfl)
@[simp] theorem request_safe (r : StopReq) : (request s r).safe = s.safe := (rfl)
@[simp] theorem request_fio (r : StopReq) : (request s r).fio = s.fio := (rfl)
@[simp] theorem request_sec (r : StopReq) : (request s r).sec = s.sec := (rfl)
@[simp] theorem request_part (r : StopReq) : (request s r).part = s.part := (rfl)
@[simp] theorem request_evts (r : StopReq) : (request s r).evts = s.evts := (rfl)
@[simp] theorem request_evtsPrev (r : StopReq) : (request s r).evtsPrev = s.evtsPrev := (rfl)
@[simp] theorem request_free (r : StopReq) : (request s r).free = s.free := (rfl)

/-! ### setRing -/

@[simp] theorem setRing_pending (r : Nat) (x : Ring) : (setRing s r x).pending = s.pending := (rfl)
@[simp] theorem setRing_raw (r : Nat) (x : Ring) : (setRing s r x).raw = s.raw := (rfl)
@[simp] theorem setRing_mem (r : Nat) (x : Ring) : (setRing s r x).mem = s.mem := (rfl)
@[simp] theorem setRing_regs (r : Nat) (x : Ring) : (setRing s r x).regs = s.regs := (rfl)
@[simp] theorem setRing_act (r : Nat) (x : Ring) : (setRing s r x).act = s.act := (rfl)
@[simp] theorem setRing_bus (r : Nat) (x : Ring) : (setRing s r x).bus = s.bus := (rfl)
@[simp] theorem setRing_out (r : Nat) (x : Ring) : (setRing s r x).out = s.out := (rfl)
@[simp] theorem setRing_cyc (r : Nat) (x : Ring) : (setRing s r x).cyc = s.cyc := (rfl)
@[simp] theorem setRing_time (r : Nat) (x : Ring) : (setRing s r x).time = s.time := (rfl)
@[simp] theorem setRing_flt (r : Nat) (x : Ring) : (setRing s r x).flt = s.flt := (rfl)
@[simp] theorem setRing_pwr (r : Nat) (x : Ring) : (setRing s r x).pwr = s.pwr := (rfl)
@[simp] theorem setRing_ring (r : Nat) (x : Ring) : (setRing s r x).ring = s.ring := (rfl)
@[simp] theorem setRing_prof (r : Nat) (x : Ring) : (setRing s r x).prof = s.prof := (rfl)
@[simp] theorem setRing_sched (r : Nat) (x : Ring) : (setRing s r x).sched = s.sched := (rfl)
@[simp] theorem setRing_mbx (r : Nat) (x : Ring) : (setRing s r x).mbx = s.mbx := (rfl)
@[simp] theorem setRing_twin (r : Nat) (x : Ring) : (setRing s r x).twin = s.twin := (rfl)
@[simp] theorem setRing_hem (r : Nat) (x : Ring) : (setRing s r x).hem = s.hem := (rfl)
@[simp] theorem setRing_loop (r : Nat) (x : Ring) : (setRing s r x).loop = s.loop := (rfl)
@[simp] theorem setRing_fbc (r : Nat) (x : Ring) : (setRing s r x).fbc = s.fbc := (rfl)
@[simp] theorem setRing_acq (r : Nat) (x : Ring) : (setRing s r x).acq = s.acq := (rfl)
@[simp] theorem setRing_safe (r : Nat) (x : Ring) : (setRing s r x).safe = s.safe := (rfl)
@[simp] theorem setRing_fio (r : Nat) (x : Ring) : (setRing s r x).fio = s.fio := (rfl)
@[simp] theorem setRing_sec (r : Nat) (x : Ring) : (setRing s r x).sec = s.sec := (rfl)
@[simp] theorem setRing_part (r : Nat) (x : Ring) : (setRing s r x).part = s.part := (rfl)
@[simp] theorem setRing_evts (r : Nat) (x : Ring) : (setRing s r x).evts = s.evts := (rfl)
@[simp] theorem setRing_evtsPrev (r : Nat) (x : Ring) : (setRing s r x).evtsPrev = s.evtsPrev := (rfl)
@[simp] theorem setRing_free (r : Nat) (x : Ring) : (setRing s r x).free = s.free := (rfl)

/-! ### postTok -/

@[simp] theorem postTok_pending (p : Nat) (t : Token) : (postTok s p t).pending = s.pending := (rfl)
@[simp] theorem postTok_raw (p : Nat) (t : Token) : (postTok s p t).raw = s.raw := (rfl)
@[simp] theorem postTok_mem (p : Nat) (t : Token) : (postTok s p t).mem = s.mem := (rfl)
@[simp] theorem postTok_regs (p : Nat) (t : Token) : (postTok s p t).regs = s.regs := (rfl)
@[simp] theorem postTok_act (p : Nat) (t : Token) : (postTok s p t).act = s.act := (rfl)
@[simp] theorem postTok_bus (p : Nat) (t : Token) : (postTok s p t).bus = s.bus := (rfl)
@[simp] theorem postTok_out (p : Nat) (t : Token) : (postTok s p t).out = s.out := (rfl)
@[simp] theorem postTok_cyc (p : Nat) (t : Token) : (postTok s p t).cyc = s.cyc := (rfl)
@[simp] theorem postTok_time (p : Nat) (t : Token) : (postTok s p t).time = s.time := (rfl)
@[simp] theorem postTok_flt (p : Nat) (t : Token) : (postTok s p t).flt = s.flt := (rfl)
@[simp] theorem postTok_pwr (p : Nat) (t : Token) : (postTok s p t).pwr = s.pwr := (rfl)
@[simp] theorem postTok_ring (p : Nat) (t : Token) : (postTok s p t).ring = s.ring := (rfl)
@[simp] theorem postTok_prof (p : Nat) (t : Token) : (postTok s p t).prof = s.prof := (rfl)
@[simp] theorem postTok_mbx (p : Nat) (t : Token) : (postTok s p t).mbx = s.mbx := (rfl)
@[simp] theorem postTok_twin (p : Nat) (t : Token) : (postTok s p t).twin = s.twin := (rfl)
@[simp] theorem postTok_host (p : Nat) (t : Token) : (postTok s p t).host = s.host := (rfl)
@[simp] theorem postTok_hem (p : Nat) (t : Token) : (postTok s p t).hem = s.hem := (rfl)
@[simp] theorem postTok_loop (p : Nat) (t : Token) : (postTok s p t).loop = s.loop := (rfl)
@[simp] theorem postTok_fbc (p : Nat) (t : Token) : (postTok s p t).fbc = s.fbc := (rfl)
@[simp] theorem postTok_acq (p : Nat) (t : Token) : (postTok s p t).acq = s.acq := (rfl)
@[simp] theorem postTok_safe (p : Nat) (t : Token) : (postTok s p t).safe = s.safe := (rfl)
@[simp] theorem postTok_fio (p : Nat) (t : Token) : (postTok s p t).fio = s.fio := (rfl)
@[simp] theorem postTok_sec (p : Nat) (t : Token) : (postTok s p t).sec = s.sec := (rfl)
@[simp] theorem postTok_part (p : Nat) (t : Token) : (postTok s p t).part = s.part := (rfl)
@[simp] theorem postTok_evts (p : Nat) (t : Token) : (postTok s p t).evts = s.evts := (rfl)
@[simp] theorem postTok_evtsPrev (p : Nat) (t : Token) : (postTok s p t).evtsPrev = s.evtsPrev := (rfl)
@[simp] theorem postTok_free (p : Nat) (t : Token) : (postTok s p t).free = s.free := (rfl)

/-! ### noteFrom -/

@[simp] theorem noteFrom_pending (c i : Nat) (ns : Int) (b : Bool) : (noteFrom s c i ns b).pending = s.pending := (rfl)
@[simp] theorem noteFrom_raw (c i : Nat) (ns : Int) (b : Bool) : (noteFrom s c i ns b).raw = s.raw := (rfl)
@[simp] theorem noteFrom_mem (c i : Nat) (ns : Int) (b : Bool) : (noteFrom s c i ns b).mem = s.mem := (rfl)
@[simp] theorem noteFrom_regs (c i : Nat) (ns : Int) (b : Bool) : (noteFrom s c i ns b).regs = s.regs := (rfl)
@[simp] theorem noteFrom_act (c i : Nat) (ns : Int) (b : Bool) : (noteFrom s c i ns b).act = s.act := (rfl)
@[simp] theorem noteFrom_bus (c i : Nat) (ns : Int) (b : Bool) : (noteFrom s c i ns b).bus = s.bus := (rfl)
@[simp] theorem noteFrom_out (c i : Nat) (ns : Int) (b : Bool) : (noteFrom s c i ns b).out = s.out := (rfl)
@[simp] theorem noteFrom_cyc (c i : Nat) (ns : Int) (b : Bool) : (noteFrom s c i ns b).cyc = s.cyc := (rfl)
@[simp] theorem noteFrom_time (c i : Nat) (ns : Int) (b : Bool) : (noteFrom s c i ns b).time = s.time := (rfl)
@[simp] theorem noteFrom_flt (c i : Nat) (ns : Int) (b : Bool) : (noteFrom s c i ns b).flt = s.flt := (rfl)
@[simp] theorem noteFrom_pwr (c i : Nat) (ns : Int) (b : Bool) : (noteFrom s c i ns b).pwr = s.pwr := (rfl)
@[simp] theorem noteFrom_ring (c i : Nat) (ns : Int) (b : Bool) : (noteFrom s c i ns b).ring = s.ring := (rfl)
@[simp] theorem noteFrom_prof (c i : Nat) (ns : Int) (b : Bool) : (noteFrom s c i ns b).prof = s.prof := (rfl)
@[simp] theorem noteFrom_sched (c i : Nat) (ns : Int) (b : Bool) : (noteFrom s c i ns b).sched = s.sched := (rfl)
@[simp] theorem noteFrom_mbx (c i : Nat) (ns : Int) (b : Bool) : (noteFrom s c i ns b).mbx = s.mbx := (rfl)
@[simp] theorem noteFrom_twin (c i : Nat) (ns : Int) (b : Bool) : (noteFrom s c i ns b).twin = s.twin := (rfl)
@[simp] theorem noteFrom_host (c i : Nat) (ns : Int) (b : Bool) : (noteFrom s c i ns b).host = s.host := (rfl)
@[simp] theorem noteFrom_hem (c i : Nat) (ns : Int) (b : Bool) : (noteFrom s c i ns b).hem = s.hem := (rfl)
@[simp] theorem noteFrom_loop (c i : Nat) (ns : Int) (b : Bool) : (noteFrom s c i ns b).loop = s.loop := (rfl)
@[simp] theorem noteFrom_fbc (c i : Nat) (ns : Int) (b : Bool) : (noteFrom s c i ns b).fbc = s.fbc := (rfl)
@[simp] theorem noteFrom_acq (c i : Nat) (ns : Int) (b : Bool) : (noteFrom s c i ns b).acq = s.acq := (rfl)
@[simp] theorem noteFrom_safe (c i : Nat) (ns : Int) (b : Bool) : (noteFrom s c i ns b).safe = s.safe := (rfl)
@[simp] theorem noteFrom_fio (c i : Nat) (ns : Int) (b : Bool) : (noteFrom s c i ns b).fio = s.fio := (rfl)
@[simp] theorem noteFrom_sec (c i : Nat) (ns : Int) (b : Bool) : (noteFrom s c i ns b).sec = s.sec := (rfl)
@[simp] theorem noteFrom_part (c i : Nat) (ns : Int) (b : Bool) : (noteFrom s c i ns b).part = s.part := (rfl)
@[simp] theorem noteFrom_evtsPrev (c i : Nat) (ns : Int) (b : Bool) : (noteFrom s c i ns b).evtsPrev = s.evtsPrev := (rfl)
@[simp] theorem noteFrom_free (c i : Nat) (ns : Int) (b : Bool) : (noteFrom s c i ns b).free = s.free := (rfl)

/-! ### fltMod -/

@[simp] theorem fltMod_pending (f : Faults → Faults) : (fltMod s f).pending = s.pending := (rfl)
@[simp] theorem fltMod_raw (f : Faults → Faults) : (fltMod s f).raw = s.raw := (rfl)
@[simp] theorem fltMod_mem (f : Faults → Faults) : (fltMod s f).mem = s.mem := (rfl)
@[simp] theorem fltMod_regs (f : Faults → Faults) : (fltMod s f).regs = s.regs := (rfl)
@[simp] theorem fltMod_act (f : Faults → Faults) : (fltMod s f).act = s.act := (rfl)
@[simp] theorem fltMod_bus (f : Faults → Faults) : (fltMod s f).bus = s.bus := (rfl)
@[simp] theorem fltMod_out (f : Faults → Faults) : (fltMod s f).out = s.out := (rfl)
@[simp] theorem fltMod_cyc (f : Faults → Faults) : (fltMod s f).cyc = s.cyc := (rfl)
@[simp] theorem fltMod_time (f : Faults → Faults) : (fltMod s f).time = s.time := (rfl)
@[simp] theorem fltMod_pwr (f : Faults → Faults) : (fltMod s f).pwr = s.pwr := (rfl)
@[simp] theorem fltMod_ring (f : Faults → Faults) : (fltMod s f).ring = s.ring := (rfl)
@[simp] theorem fltMod_prof (f : Faults → Faults) : (fltMod s f).prof = s.prof := (rfl)
@[simp] theorem fltMod_sched (f : Faults → Faults) : (fltMod s f).sched = s.sched := (rfl)
@[simp] theorem fltMod_mbx (f : Faults → Faults) : (fltMod s f).mbx = s.mbx := (rfl)
@[simp] theorem fltMod_twin (f : Faults → Faults) : (fltMod s f).twin = s.twin := (rfl)
@[simp] theorem fltMod_host (f : Faults → Faults) : (fltMod s f).host = s.host := (rfl)
@[simp] theorem fltMod_hem (f : Faults → Faults) : (fltMod s f).hem = s.hem := (rfl)
@[simp] theorem fltMod_loop (f : Faults → Faults) : (fltMod s f).loop = s.loop := (rfl)
@[simp] theorem fltMod_fbc (f : Faults → Faults) : (fltMod s f).fbc = s.fbc := (rfl)
@[simp] theorem fltMod_acq (f : Faults → Faults) : (fltMod s f).acq = s.acq := (rfl)
@[simp] theorem fltMod_safe (f : Faults → Faults) : (fltMod s f).safe = s.safe := (rfl)
@[simp] theorem fltMod_fio (f : Faults → Faults) : (fltMod s f).fio = s.fio := (rfl)
@[simp] theorem fltMod_sec (f : Faults → Faults) : (fltMod s f).sec = s.sec := (rfl)
@[simp] theorem fltMod_part (f : Faults → Faults) : (fltMod s f).part = s.part := (rfl)
@[simp] theorem fltMod_evts (f : Faults → Faults) : (fltMod s f).evts = s.evts := (rfl)
@[simp] theorem fltMod_evtsPrev (f : Faults → Faults) : (fltMod s f).evtsPrev = s.evtsPrev := (rfl)
@[simp] theorem fltMod_free (f : Faults → Faults) : (fltMod s f).free = s.free := (rfl)

/-! ### ringMod -/

@[simp] theorem ringMod_pending (f : RingState → RingState) : (ringMod s f).pending = s.pending := (rfl)
@[simp] theorem ringMod_raw (f : RingState → RingState) : (ringMod s f).raw = s.raw := (rfl)
@[simp] theorem ringMod_mem (f : RingState → RingState) : (ringMod s f).mem = s.mem := (rfl)
@[simp] theorem ringMod_regs (f : RingState → RingState) : (ringMod s f).regs = s.regs := (rfl)
@[simp] theorem ringMod_act (f : RingState → RingState) : (ringMod s f).act = s.act := (rfl)
@[simp] theorem ringMod_bus (f : RingState → RingState) : (ringMod s f).bus = s.bus := (rfl)
@[simp] theorem ringMod_out (f : RingState → RingState) : (ringMod s f).out = s.out := (rfl)
@[simp] theorem ringMod_cyc (f : RingState → RingState) : (ringMod s f).cyc = s.cyc := (rfl)
@[simp] theorem ringMod_time (f : RingState → RingState) : (ringMod s f).time = s.time := (rfl)
@[simp] theorem ringMod_flt (f : RingState → RingState) : (ringMod s f).flt = s.flt := (rfl)
@[simp] theorem ringMod_pwr (f : RingState → RingState) : (ringMod s f).pwr = s.pwr := (rfl)
@[simp] theorem ringMod_prof (f : RingState → RingState) : (ringMod s f).prof = s.prof := (rfl)
@[simp] theorem ringMod_sched (f : RingState → RingState) : (ringMod s f).sched = s.sched := (rfl)
@[simp] theorem ringMod_mbx (f : RingState → RingState) : (ringMod s f).mbx = s.mbx := (rfl)
@[simp] theorem ringMod_twin (f : RingState → RingState) : (ringMod s f).twin = s.twin := (rfl)
@[simp] theorem ringMod_host (f : RingState → RingState) : (ringMod s f).host = s.host := (rfl)
@[simp] theorem ringMod_hem (f : RingState → RingState) : (ringMod s f).hem = s.hem := (rfl)
@[simp] theorem ringMod_loop (f : RingState → RingState) : (ringMod s f).loop = s.loop := (rfl)
@[simp] theorem ringMod_fbc (f : RingState → RingState) : (ringMod s f).fbc = s.fbc := (rfl)
@[simp] theorem ringMod_acq (f : RingState → RingState) : (ringMod s f).acq = s.acq := (rfl)
@[simp] theorem ringMod_safe (f : RingState → RingState) : (ringMod s f).safe = s.safe := (rfl)
@[simp] theorem ringMod_fio (f : RingState → RingState) : (ringMod s f).fio = s.fio := (rfl)
@[simp] theorem ringMod_sec (f : RingState → RingState) : (ringMod s f).sec = s.sec := (rfl)
@[simp] theorem ringMod_part (f : RingState → RingState) : (ringMod s f).part = s.part := (rfl)
@[simp] theorem ringMod_evts (f : RingState → RingState) : (ringMod s f).evts = s.evts := (rfl)
@[simp] theorem ringMod_evtsPrev (f : RingState → RingState) : (ringMod s f).evtsPrev = s.evtsPrev := (rfl)
@[simp] theorem ringMod_free (f : RingState → RingState) : (ringMod s f).free = s.free := (rfl)

/-! ### twinMod -/

@[simp] theorem twinMod_pending (f : Twin → Twin) : (twinMod s f).pending = s.pending := (rfl)
@[simp] theorem twinMod_raw (f : Twin → Twin) : (twinMod s f).raw = s.raw := (rfl)
@[simp] theorem twinMod_mem (f : Twin → Twin) : (twinMod s f).mem = s.mem := (rfl)
@[simp] theorem twinMod_regs (f : Twin → Twin) : (twinMod s f).regs = s.regs := (rfl)
@[simp] theorem twinMod_act (f : Twin → Twin) : (twinMod s f).act = s.act := (rfl)
@[simp] theorem twinMod_bus (f : Twin → Twin) : (twinMod s f).bus = s.bus := (rfl)
@[simp] theorem twinMod_out (f : Twin → Twin) : (twinMod s f).out = s.out := (rfl)
@[simp] theorem twinMod_cyc (f : Twin → Twin) : (twinMod s f).cyc = s.cyc := (rfl)
@[simp] theorem twinMod_time (f : Twin → Twin) : (twinMod s f).time = s.time := (rfl)
@[simp] theorem twinMod_flt (f : Twin → Twin) : (twinMod s f).flt = s.flt := (rfl)
@[simp] theorem twinMod_pwr (f : Twin → Twin) : (twinMod s f).pwr = s.pwr := (rfl)
@[simp] theorem twinMod_ring (f : Twin → Twin) : (twinMod s f).ring = s.ring := (rfl)
@[simp] theorem twinMod_prof (f : Twin → Twin) : (twinMod s f).prof = s.prof := (rfl)
@[simp] theorem twinMod_sched (f : Twin → Twin) : (twinMod s f).sched = s.sched := (rfl)
@[simp] theorem twinMod_mbx (f : Twin → Twin) : (twinMod s f).mbx = s.mbx := (rfl)
@[simp] theorem twinMod_host (f : Twin → Twin) : (twinMod s f).host = s.host := (rfl)
@[simp] theorem twinMod_hem (f : Twin → Twin) : (twinMod s f).hem = s.hem := (rfl)
@[simp] theorem twinMod_loop (f : Twin → Twin) : (twinMod s f).loop = s.loop := (rfl)
@[simp] theorem twinMod_fbc (f : Twin → Twin) : (twinMod s f).fbc = s.fbc := (rfl)
@[simp] theorem twinMod_acq (f : Twin → Twin) : (twinMod s f).acq = s.acq := (rfl)
@[simp] theorem twinMod_safe (f : Twin → Twin) : (twinMod s f).safe = s.safe := (rfl)
@[simp] theorem twinMod_fio (f : Twin → Twin) : (twinMod s f).fio = s.fio := (rfl)
@[simp] theorem twinMod_sec (f : Twin → Twin) : (twinMod s f).sec = s.sec := (rfl)
@[simp] theorem twinMod_part (f : Twin → Twin) : (twinMod s f).part = s.part := (rfl)
@[simp] theorem twinMod_evts (f : Twin → Twin) : (twinMod s f).evts = s.evts := (rfl)
@[simp] theorem twinMod_evtsPrev (f : Twin → Twin) : (twinMod s f).evtsPrev = s.evtsPrev := (rfl)
@[simp] theorem twinMod_free (f : Twin → Twin) : (twinMod s f).free = s.free := (rfl)

/-! ### hostMod -/

@[simp] theorem hostMod_pending (f : HostIf → HostIf) : (hostMod s f).pending = s.pending := (rfl)
@[simp] theorem hostMod_raw (f : HostIf → HostIf) : (hostMod s f).raw = s.raw := (rfl)
@[simp] theorem hostMod_mem (f : HostIf → HostIf) : (hostMod s f).mem = s.mem := (rfl)
@[simp] theorem hostMod_regs (f : HostIf → HostIf) : (hostMod s f).regs = s.regs := (rfl)
@[simp] theorem hostMod_act (f : HostIf → HostIf) : (hostMod s f).act = s.act := (rfl)
@[simp] theorem hostMod_bus (f : HostIf → HostIf) : (hostMod s f).bus = s.bus := (rfl)
@[simp] theorem hostMod_out (f : HostIf → HostIf) : (hostMod s f).out = s.out := (rfl)
@[simp] theorem hostMod_cyc (f : HostIf → HostIf) : (hostMod s f).cyc = s.cyc := (rfl)
@[simp] theorem hostMod_time (f : HostIf → HostIf) : (hostMod s f).time = s.time := (rfl)
@[simp] theorem hostMod_flt (f : HostIf → HostIf) : (hostMod s f).flt = s.flt := (rfl)
@[simp] theorem hostMod_pwr (f : HostIf → HostIf) : (hostMod s f).pwr = s.pwr := (rfl)
@[simp] theorem hostMod_ring (f : HostIf → HostIf) : (hostMod s f).ring = s.ring := (rfl)
@[simp] theorem hostMod_prof (f : HostIf → HostIf) : (hostMod s f).prof = s.prof := (rfl)
@[simp] theorem hostMod_sched (f : HostIf → HostIf) : (hostMod s f).sched = s.sched := (rfl)
@[simp] theorem hostMod_mbx (f : HostIf → HostIf) : (hostMod s f).mbx = s.mbx := (rfl)
@[simp] theorem hostMod_twin (f : HostIf → HostIf) : (hostMod s f).twin = s.twin := (rfl)
@[simp] theorem hostMod_hem (f : HostIf → HostIf) : (hostMod s f).hem = s.hem := (rfl)
@[simp] theorem hostMod_loop (f : HostIf → HostIf) : (hostMod s f).loop = s.loop := (rfl)
@[simp] theorem hostMod_fbc (f : HostIf → HostIf) : (hostMod s f).fbc = s.fbc := (rfl)
@[simp] theorem hostMod_acq (f : HostIf → HostIf) : (hostMod s f).acq = s.acq := (rfl)
@[simp] theorem hostMod_safe (f : HostIf → HostIf) : (hostMod s f).safe = s.safe := (rfl)
@[simp] theorem hostMod_fio (f : HostIf → HostIf) : (hostMod s f).fio = s.fio := (rfl)
@[simp] theorem hostMod_sec (f : HostIf → HostIf) : (hostMod s f).sec = s.sec := (rfl)
@[simp] theorem hostMod_part (f : HostIf → HostIf) : (hostMod s f).part = s.part := (rfl)
@[simp] theorem hostMod_evts (f : HostIf → HostIf) : (hostMod s f).evts = s.evts := (rfl)
@[simp] theorem hostMod_evtsPrev (f : HostIf → HostIf) : (hostMod s f).evtsPrev = s.evtsPrev := (rfl)
@[simp] theorem hostMod_free (f : HostIf → HostIf) : (hostMod s f).free = s.free := (rfl)

/-! ### safeMod -/

@[simp] theorem safeMod_pending (f : Safe → Safe) : (safeMod s f).pending = s.pending := (rfl)
@[simp] theorem safeMod_raw (f : Safe → Safe) : (safeMod s f).raw = s.raw := (rfl)
@[simp] theorem safeMod_mem (f : Safe → Safe) : (safeMod s f).mem = s.mem := (rfl)
@[simp] theorem safeMod_regs (f : Safe → Safe) : (safeMod s f).regs = s.regs := (rfl)
@[simp] theorem safeMod_act (f : Safe → Safe) : (safeMod s f).act = s.act := (rfl)
@[simp] theorem safeMod_bus (f : Safe → Safe) : (safeMod s f).bus = s.bus := (rfl)
@[simp] theorem safeMod_out (f : Safe → Safe) : (safeMod s f).out = s.out := (rfl)
@[simp] theorem safeMod_cyc (f : Safe → Safe) : (safeMod s f).cyc = s.cyc := (rfl)
@[simp] theorem safeMod_time (f : Safe → Safe) : (safeMod s f).time = s.time := (rfl)
@[simp] theorem safeMod_flt (f : Safe → Safe) : (safeMod s f).flt = s.flt := (rfl)
@[simp] theorem safeMod_pwr (f : Safe → Safe) : (safeMod s f).pwr = s.pwr := (rfl)
@[simp] theorem safeMod_ring (f : Safe → Safe) : (safeMod s f).ring = s.ring := (rfl)
@[simp] theorem safeMod_prof (f : Safe → Safe) : (safeMod s f).prof = s.prof := (rfl)
@[simp] theorem safeMod_sched (f : Safe → Safe) : (safeMod s f).sched = s.sched := (rfl)
@[simp] theorem safeMod_mbx (f : Safe → Safe) : (safeMod s f).mbx = s.mbx := (rfl)
@[simp] theorem safeMod_twin (f : Safe → Safe) : (safeMod s f).twin = s.twin := (rfl)
@[simp] theorem safeMod_host (f : Safe → Safe) : (safeMod s f).host = s.host := (rfl)
@[simp] theorem safeMod_hem (f : Safe → Safe) : (safeMod s f).hem = s.hem := (rfl)
@[simp] theorem safeMod_loop (f : Safe → Safe) : (safeMod s f).loop = s.loop := (rfl)
@[simp] theorem safeMod_fbc (f : Safe → Safe) : (safeMod s f).fbc = s.fbc := (rfl)
@[simp] theorem safeMod_acq (f : Safe → Safe) : (safeMod s f).acq = s.acq := (rfl)
@[simp] theorem safeMod_fio (f : Safe → Safe) : (safeMod s f).fio = s.fio := (rfl)
@[simp] theorem safeMod_sec (f : Safe → Safe) : (safeMod s f).sec = s.sec := (rfl)
@[simp] theorem safeMod_part (f : Safe → Safe) : (safeMod s f).part = s.part := (rfl)
@[simp] theorem safeMod_evts (f : Safe → Safe) : (safeMod s f).evts = s.evts := (rfl)
@[simp] theorem safeMod_evtsPrev (f : Safe → Safe) : (safeMod s f).evtsPrev = s.evtsPrev := (rfl)
@[simp] theorem safeMod_free (f : Safe → Safe) : (safeMod s f).free = s.free := (rfl)

/-! ### fioMod -/

@[simp] theorem fioMod_pending (f : Fio → Fio) : (fioMod s f).pending = s.pending := (rfl)
@[simp] theorem fioMod_raw (f : Fio → Fio) : (fioMod s f).raw = s.raw := (rfl)
@[simp] theorem fioMod_mem (f : Fio → Fio) : (fioMod s f).mem = s.mem := (rfl)
@[simp] theorem fioMod_regs (f : Fio → Fio) : (fioMod s f).regs = s.regs := (rfl)
@[simp] theorem fioMod_act (f : Fio → Fio) : (fioMod s f).act = s.act := (rfl)
@[simp] theorem fioMod_bus (f : Fio → Fio) : (fioMod s f).bus = s.bus := (rfl)
@[simp] theorem fioMod_out (f : Fio → Fio) : (fioMod s f).out = s.out := (rfl)
@[simp] theorem fioMod_cyc (f : Fio → Fio) : (fioMod s f).cyc = s.cyc := (rfl)
@[simp] theorem fioMod_time (f : Fio → Fio) : (fioMod s f).time = s.time := (rfl)
@[simp] theorem fioMod_flt (f : Fio → Fio) : (fioMod s f).flt = s.flt := (rfl)
@[simp] theorem fioMod_pwr (f : Fio → Fio) : (fioMod s f).pwr = s.pwr := (rfl)
@[simp] theorem fioMod_ring (f : Fio → Fio) : (fioMod s f).ring = s.ring := (rfl)
@[simp] theorem fioMod_prof (f : Fio → Fio) : (fioMod s f).prof = s.prof := (rfl)
@[simp] theorem fioMod_sched (f : Fio → Fio) : (fioMod s f).sched = s.sched := (rfl)
@[simp] theorem fioMod_mbx (f : Fio → Fio) : (fioMod s f).mbx = s.mbx := (rfl)
@[simp] theorem fioMod_twin (f : Fio → Fio) : (fioMod s f).twin = s.twin := (rfl)
@[simp] theorem fioMod_host (f : Fio → Fio) : (fioMod s f).host = s.host := (rfl)
@[simp] theorem fioMod_hem (f : Fio → Fio) : (fioMod s f).hem = s.hem := (rfl)
@[simp] theorem fioMod_loop (f : Fio → Fio) : (fioMod s f).loop = s.loop := (rfl)
@[simp] theorem fioMod_fbc (f : Fio → Fio) : (fioMod s f).fbc = s.fbc := (rfl)
@[simp] theorem fioMod_acq (f : Fio → Fio) : (fioMod s f).acq = s.acq := (rfl)
@[simp] theorem fioMod_safe (f : Fio → Fio) : (fioMod s f).safe = s.safe := (rfl)
@[simp] theorem fioMod_sec (f : Fio → Fio) : (fioMod s f).sec = s.sec := (rfl)
@[simp] theorem fioMod_part (f : Fio → Fio) : (fioMod s f).part = s.part := (rfl)
@[simp] theorem fioMod_evts (f : Fio → Fio) : (fioMod s f).evts = s.evts := (rfl)
@[simp] theorem fioMod_evtsPrev (f : Fio → Fio) : (fioMod s f).evtsPrev = s.evtsPrev := (rfl)
@[simp] theorem fioMod_free (f : Fio → Fio) : (fioMod s f).free = s.free := (rfl)

/-! ### secMod -/

@[simp] theorem secMod_pending (f : Sec → Sec) : (secMod s f).pending = s.pending := (rfl)
@[simp] theorem secMod_raw (f : Sec → Sec) : (secMod s f).raw = s.raw := (rfl)
@[simp] theorem secMod_mem (f : Sec → Sec) : (secMod s f).mem = s.mem := (rfl)
@[simp] theorem secMod_regs (f : Sec → Sec) : (secMod s f).regs = s.regs := (rfl)
@[simp] theorem secMod_act (f : Sec → Sec) : (secMod s f).act = s.act := (rfl)
@[simp] theorem secMod_bus (f : Sec → Sec) : (secMod s f).bus = s.bus := (rfl)
@[simp] theorem secMod_out (f : Sec → Sec) : (secMod s f).out = s.out := (rfl)
@[simp] theorem secMod_cyc (f : Sec → Sec) : (secMod s f).cyc = s.cyc := (rfl)
@[simp] theorem secMod_time (f : Sec → Sec) : (secMod s f).time = s.time := (rfl)
@[simp] theorem secMod_flt (f : Sec → Sec) : (secMod s f).flt = s.flt := (rfl)
@[simp] theorem secMod_pwr (f : Sec → Sec) : (secMod s f).pwr = s.pwr := (rfl)
@[simp] theorem secMod_ring (f : Sec → Sec) : (secMod s f).ring = s.ring := (rfl)
@[simp] theorem secMod_prof (f : Sec → Sec) : (secMod s f).prof = s.prof := (rfl)
@[simp] theorem secMod_sched (f : Sec → Sec) : (secMod s f).sched = s.sched := (rfl)
@[simp] theorem secMod_mbx (f : Sec → Sec) : (secMod s f).mbx = s.mbx := (rfl)
@[simp] theorem secMod_twin (f : Sec → Sec) : (secMod s f).twin = s.twin := (rfl)
@[simp] theorem secMod_host (f : Sec → Sec) : (secMod s f).host = s.host := (rfl)
@[simp] theorem secMod_hem (f : Sec → Sec) : (secMod s f).hem = s.hem := (rfl)
@[simp] theorem secMod_loop (f : Sec → Sec) : (secMod s f).loop = s.loop := (rfl)
@[simp] theorem secMod_fbc (f : Sec → Sec) : (secMod s f).fbc = s.fbc := (rfl)
@[simp] theorem secMod_acq (f : Sec → Sec) : (secMod s f).acq = s.acq := (rfl)
@[simp] theorem secMod_safe (f : Sec → Sec) : (secMod s f).safe = s.safe := (rfl)
@[simp] theorem secMod_fio (f : Sec → Sec) : (secMod s f).fio = s.fio := (rfl)
@[simp] theorem secMod_part (f : Sec → Sec) : (secMod s f).part = s.part := (rfl)
@[simp] theorem secMod_evts (f : Sec → Sec) : (secMod s f).evts = s.evts := (rfl)
@[simp] theorem secMod_evtsPrev (f : Sec → Sec) : (secMod s f).evtsPrev = s.evtsPrev := (rfl)
@[simp] theorem secMod_free (f : Sec → Sec) : (secMod s f).free = s.free := (rfl)

/-! ### mbxMod -/

@[simp] theorem mbxMod_pending (f : Mbx → Mbx) : (mbxMod s f).pending = s.pending := (rfl)
@[simp] theorem mbxMod_raw (f : Mbx → Mbx) : (mbxMod s f).raw = s.raw := (rfl)
@[simp] theorem mbxMod_mem (f : Mbx → Mbx) : (mbxMod s f).mem = s.mem := (rfl)
@[simp] theorem mbxMod_regs (f : Mbx → Mbx) : (mbxMod s f).regs = s.regs := (rfl)
@[simp] theorem mbxMod_act (f : Mbx → Mbx) : (mbxMod s f).act = s.act := (rfl)
@[simp] theorem mbxMod_bus (f : Mbx → Mbx) : (mbxMod s f).bus = s.bus := (rfl)
@[simp] theorem mbxMod_out (f : Mbx → Mbx) : (mbxMod s f).out = s.out := (rfl)
@[simp] theorem mbxMod_cyc (f : Mbx → Mbx) : (mbxMod s f).cyc = s.cyc := (rfl)
@[simp] theorem mbxMod_time (f : Mbx → Mbx) : (mbxMod s f).time = s.time := (rfl)
@[simp] theorem mbxMod_flt (f : Mbx → Mbx) : (mbxMod s f).flt = s.flt := (rfl)
@[simp] theorem mbxMod_pwr (f : Mbx → Mbx) : (mbxMod s f).pwr = s.pwr := (rfl)
@[simp] theorem mbxMod_ring (f : Mbx → Mbx) : (mbxMod s f).ring = s.ring := (rfl)
@[simp] theorem mbxMod_prof (f : Mbx → Mbx) : (mbxMod s f).prof = s.prof := (rfl)
@[simp] theorem mbxMod_sched (f : Mbx → Mbx) : (mbxMod s f).sched = s.sched := (rfl)
@[simp] theorem mbxMod_twin (f : Mbx → Mbx) : (mbxMod s f).twin = s.twin := (rfl)
@[simp] theorem mbxMod_host (f : Mbx → Mbx) : (mbxMod s f).host = s.host := (rfl)
@[simp] theorem mbxMod_hem (f : Mbx → Mbx) : (mbxMod s f).hem = s.hem := (rfl)
@[simp] theorem mbxMod_loop (f : Mbx → Mbx) : (mbxMod s f).loop = s.loop := (rfl)
@[simp] theorem mbxMod_fbc (f : Mbx → Mbx) : (mbxMod s f).fbc = s.fbc := (rfl)
@[simp] theorem mbxMod_acq (f : Mbx → Mbx) : (mbxMod s f).acq = s.acq := (rfl)
@[simp] theorem mbxMod_safe (f : Mbx → Mbx) : (mbxMod s f).safe = s.safe := (rfl)
@[simp] theorem mbxMod_fio (f : Mbx → Mbx) : (mbxMod s f).fio = s.fio := (rfl)
@[simp] theorem mbxMod_sec (f : Mbx → Mbx) : (mbxMod s f).sec = s.sec := (rfl)
@[simp] theorem mbxMod_part (f : Mbx → Mbx) : (mbxMod s f).part = s.part := (rfl)
@[simp] theorem mbxMod_evts (f : Mbx → Mbx) : (mbxMod s f).evts = s.evts := (rfl)
@[simp] theorem mbxMod_evtsPrev (f : Mbx → Mbx) : (mbxMod s f).evtsPrev = s.evtsPrev := (rfl)
@[simp] theorem mbxMod_free (f : Mbx → Mbx) : (mbxMod s f).free = s.free := (rfl)

/-! ### setFlow -/

@[simp] theorem setFlow_pending (n : Nat) (x : Flow) : (setFlow s n x).pending = s.pending := (rfl)
@[simp] theorem setFlow_raw (n : Nat) (x : Flow) : (setFlow s n x).raw = s.raw := (rfl)
@[simp] theorem setFlow_mem (n : Nat) (x : Flow) : (setFlow s n x).mem = s.mem := (rfl)
@[simp] theorem setFlow_regs (n : Nat) (x : Flow) : (setFlow s n x).regs = s.regs := (rfl)
@[simp] theorem setFlow_act (n : Nat) (x : Flow) : (setFlow s n x).act = s.act := (rfl)
@[simp] theorem setFlow_bus (n : Nat) (x : Flow) : (setFlow s n x).bus = s.bus := (rfl)
@[simp] theorem setFlow_out (n : Nat) (x : Flow) : (setFlow s n x).out = s.out := (rfl)
@[simp] theorem setFlow_cyc (n : Nat) (x : Flow) : (setFlow s n x).cyc = s.cyc := (rfl)
@[simp] theorem setFlow_time (n : Nat) (x : Flow) : (setFlow s n x).time = s.time := (rfl)
@[simp] theorem setFlow_flt (n : Nat) (x : Flow) : (setFlow s n x).flt = s.flt := (rfl)
@[simp] theorem setFlow_pwr (n : Nat) (x : Flow) : (setFlow s n x).pwr = s.pwr := (rfl)
@[simp] theorem setFlow_ring (n : Nat) (x : Flow) : (setFlow s n x).ring = s.ring := (rfl)
@[simp] theorem setFlow_prof (n : Nat) (x : Flow) : (setFlow s n x).prof = s.prof := (rfl)
@[simp] theorem setFlow_sched (n : Nat) (x : Flow) : (setFlow s n x).sched = s.sched := (rfl)
@[simp] theorem setFlow_mbx (n : Nat) (x : Flow) : (setFlow s n x).mbx = s.mbx := (rfl)
@[simp] theorem setFlow_twin (n : Nat) (x : Flow) : (setFlow s n x).twin = s.twin := (rfl)
@[simp] theorem setFlow_hem (n : Nat) (x : Flow) : (setFlow s n x).hem = s.hem := (rfl)
@[simp] theorem setFlow_loop (n : Nat) (x : Flow) : (setFlow s n x).loop = s.loop := (rfl)
@[simp] theorem setFlow_fbc (n : Nat) (x : Flow) : (setFlow s n x).fbc = s.fbc := (rfl)
@[simp] theorem setFlow_acq (n : Nat) (x : Flow) : (setFlow s n x).acq = s.acq := (rfl)
@[simp] theorem setFlow_safe (n : Nat) (x : Flow) : (setFlow s n x).safe = s.safe := (rfl)
@[simp] theorem setFlow_fio (n : Nat) (x : Flow) : (setFlow s n x).fio = s.fio := (rfl)
@[simp] theorem setFlow_sec (n : Nat) (x : Flow) : (setFlow s n x).sec = s.sec := (rfl)
@[simp] theorem setFlow_part (n : Nat) (x : Flow) : (setFlow s n x).part = s.part := (rfl)
@[simp] theorem setFlow_evts (n : Nat) (x : Flow) : (setFlow s n x).evts = s.evts := (rfl)
@[simp] theorem setFlow_evtsPrev (n : Nat) (x : Flow) : (setFlow s n x).evtsPrev = s.evtsPrev := (rfl)
@[simp] theorem setFlow_free (n : Nat) (x : Flow) : (setFlow s n x).free = s.free := (rfl)

/-! ### setHemCore -/

@[simp] theorem setHemCore_pending (c : Nat) (x : HemCore) : (setHemCore s c x).pending = s.pending := (rfl)
@[simp] theorem setHemCore_raw (c : Nat) (x : HemCore) : (setHemCore s c x).raw = s.raw := (rfl)
@[simp] theorem setHemCore_mem (c : Nat) (x : HemCore) : (setHemCore s c x).mem = s.mem := (rfl)
@[simp] theorem setHemCore_regs (c : Nat) (x : HemCore) : (setHemCore s c x).regs = s.regs := (rfl)
@[simp] theorem setHemCore_act (c : Nat) (x : HemCore) : (setHemCore s c x).act = s.act := (rfl)
@[simp] theorem setHemCore_bus (c : Nat) (x : HemCore) : (setHemCore s c x).bus = s.bus := (rfl)
@[simp] theorem setHemCore_out (c : Nat) (x : HemCore) : (setHemCore s c x).out = s.out := (rfl)
@[simp] theorem setHemCore_cyc (c : Nat) (x : HemCore) : (setHemCore s c x).cyc = s.cyc := (rfl)
@[simp] theorem setHemCore_time (c : Nat) (x : HemCore) : (setHemCore s c x).time = s.time := (rfl)
@[simp] theorem setHemCore_flt (c : Nat) (x : HemCore) : (setHemCore s c x).flt = s.flt := (rfl)
@[simp] theorem setHemCore_pwr (c : Nat) (x : HemCore) : (setHemCore s c x).pwr = s.pwr := (rfl)
@[simp] theorem setHemCore_ring (c : Nat) (x : HemCore) : (setHemCore s c x).ring = s.ring := (rfl)
@[simp] theorem setHemCore_prof (c : Nat) (x : HemCore) : (setHemCore s c x).prof = s.prof := (rfl)
@[simp] theorem setHemCore_sched (c : Nat) (x : HemCore) : (setHemCore s c x).sched = s.sched := (rfl)
@[simp] theorem setHemCore_mbx (c : Nat) (x : HemCore) : (setHemCore s c x).mbx = s.mbx := (rfl)
@[simp] theorem setHemCore_twin (c : Nat) (x : HemCore) : (setHemCore s c x).twin = s.twin := (rfl)
@[simp] theorem setHemCore_host (c : Nat) (x : HemCore) : (setHemCore s c x).host = s.host := (rfl)
@[simp] theorem setHemCore_loop (c : Nat) (x : HemCore) : (setHemCore s c x).loop = s.loop := (rfl)
@[simp] theorem setHemCore_fbc (c : Nat) (x : HemCore) : (setHemCore s c x).fbc = s.fbc := (rfl)
@[simp] theorem setHemCore_acq (c : Nat) (x : HemCore) : (setHemCore s c x).acq = s.acq := (rfl)
@[simp] theorem setHemCore_safe (c : Nat) (x : HemCore) : (setHemCore s c x).safe = s.safe := (rfl)
@[simp] theorem setHemCore_fio (c : Nat) (x : HemCore) : (setHemCore s c x).fio = s.fio := (rfl)
@[simp] theorem setHemCore_sec (c : Nat) (x : HemCore) : (setHemCore s c x).sec = s.sec := (rfl)
@[simp] theorem setHemCore_part (c : Nat) (x : HemCore) : (setHemCore s c x).part = s.part := (rfl)
@[simp] theorem setHemCore_evts (c : Nat) (x : HemCore) : (setHemCore s c x).evts = s.evts := (rfl)
@[simp] theorem setHemCore_evtsPrev (c : Nat) (x : HemCore) : (setHemCore s c x).evtsPrev = s.evtsPrev := (rfl)
@[simp] theorem setHemCore_free (c : Nat) (x : HemCore) : (setHemCore s c x).free = s.free := (rfl)

/-! ### setTask -/

@[simp] theorem setTask_pending (t : Nat) (x : Task) : (setTask s t x).pending = s.pending := (rfl)
@[simp] theorem setTask_raw (t : Nat) (x : Task) : (setTask s t x).raw = s.raw := (rfl)
@[simp] theorem setTask_mem (t : Nat) (x : Task) : (setTask s t x).mem = s.mem := (rfl)
@[simp] theorem setTask_regs (t : Nat) (x : Task) : (setTask s t x).regs = s.regs := (rfl)
@[simp] theorem setTask_act (t : Nat) (x : Task) : (setTask s t x).act = s.act := (rfl)
@[simp] theorem setTask_bus (t : Nat) (x : Task) : (setTask s t x).bus = s.bus := (rfl)
@[simp] theorem setTask_out (t : Nat) (x : Task) : (setTask s t x).out = s.out := (rfl)
@[simp] theorem setTask_cyc (t : Nat) (x : Task) : (setTask s t x).cyc = s.cyc := (rfl)
@[simp] theorem setTask_time (t : Nat) (x : Task) : (setTask s t x).time = s.time := (rfl)
@[simp] theorem setTask_flt (t : Nat) (x : Task) : (setTask s t x).flt = s.flt := (rfl)
@[simp] theorem setTask_pwr (t : Nat) (x : Task) : (setTask s t x).pwr = s.pwr := (rfl)
@[simp] theorem setTask_ring (t : Nat) (x : Task) : (setTask s t x).ring = s.ring := (rfl)
@[simp] theorem setTask_prof (t : Nat) (x : Task) : (setTask s t x).prof = s.prof := (rfl)
@[simp] theorem setTask_mbx (t : Nat) (x : Task) : (setTask s t x).mbx = s.mbx := (rfl)
@[simp] theorem setTask_twin (t : Nat) (x : Task) : (setTask s t x).twin = s.twin := (rfl)
@[simp] theorem setTask_host (t : Nat) (x : Task) : (setTask s t x).host = s.host := (rfl)
@[simp] theorem setTask_hem (t : Nat) (x : Task) : (setTask s t x).hem = s.hem := (rfl)
@[simp] theorem setTask_loop (t : Nat) (x : Task) : (setTask s t x).loop = s.loop := (rfl)
@[simp] theorem setTask_fbc (t : Nat) (x : Task) : (setTask s t x).fbc = s.fbc := (rfl)
@[simp] theorem setTask_acq (t : Nat) (x : Task) : (setTask s t x).acq = s.acq := (rfl)
@[simp] theorem setTask_safe (t : Nat) (x : Task) : (setTask s t x).safe = s.safe := (rfl)
@[simp] theorem setTask_fio (t : Nat) (x : Task) : (setTask s t x).fio = s.fio := (rfl)
@[simp] theorem setTask_sec (t : Nat) (x : Task) : (setTask s t x).sec = s.sec := (rfl)
@[simp] theorem setTask_part (t : Nat) (x : Task) : (setTask s t x).part = s.part := (rfl)
@[simp] theorem setTask_evts (t : Nat) (x : Task) : (setTask s t x).evts = s.evts := (rfl)
@[simp] theorem setTask_evtsPrev (t : Nat) (x : Task) : (setTask s t x).evtsPrev = s.evtsPrev := (rfl)
@[simp] theorem setTask_free (t : Nat) (x : Task) : (setTask s t x).free = s.free := (rfl)

/-! ### setEncoder -/

@[simp] theorem setEncoder_pending (c : Nat) (x : Encoder) : (setEncoder s c x).pending = s.pending := (rfl)
@[simp] theorem setEncoder_raw (c : Nat) (x : Encoder) : (setEncoder s c x).raw = s.raw := (rfl)
@[simp] theorem setEncoder_mem (c : Nat) (x : Encoder) : (setEncoder s c x).mem = s.mem := (rfl)
@[simp] theorem setEncoder_regs (c : Nat) (x : Encoder) : (setEncoder s c x).regs = s.regs := (rfl)
@[simp] theorem setEncoder_act (c : Nat) (x : Encoder) : (setEncoder s c x).act = s.act := (rfl)
@[simp] theorem setEncoder_bus (c : Nat) (x : Encoder) : (setEncoder s c x).bus = s.bus := (rfl)
@[simp] theorem setEncoder_out (c : Nat) (x : Encoder) : (setEncoder s c x).out = s.out := (rfl)
@[simp] theorem setEncoder_cyc (c : Nat) (x : Encoder) : (setEncoder s c x).cyc = s.cyc := (rfl)
@[simp] theorem setEncoder_time (c : Nat) (x : Encoder) : (setEncoder s c x).time = s.time := (rfl)
@[simp] theorem setEncoder_flt (c : Nat) (x : Encoder) : (setEncoder s c x).flt = s.flt := (rfl)
@[simp] theorem setEncoder_pwr (c : Nat) (x : Encoder) : (setEncoder s c x).pwr = s.pwr := (rfl)
@[simp] theorem setEncoder_ring (c : Nat) (x : Encoder) : (setEncoder s c x).ring = s.ring := (rfl)
@[simp] theorem setEncoder_prof (c : Nat) (x : Encoder) : (setEncoder s c x).prof = s.prof := (rfl)
@[simp] theorem setEncoder_sched (c : Nat) (x : Encoder) : (setEncoder s c x).sched = s.sched := (rfl)
@[simp] theorem setEncoder_mbx (c : Nat) (x : Encoder) : (setEncoder s c x).mbx = s.mbx := (rfl)
@[simp] theorem setEncoder_twin (c : Nat) (x : Encoder) : (setEncoder s c x).twin = s.twin := (rfl)
@[simp] theorem setEncoder_host (c : Nat) (x : Encoder) : (setEncoder s c x).host = s.host := (rfl)
@[simp] theorem setEncoder_hem (c : Nat) (x : Encoder) : (setEncoder s c x).hem = s.hem := (rfl)
@[simp] theorem setEncoder_loop (c : Nat) (x : Encoder) : (setEncoder s c x).loop = s.loop := (rfl)
@[simp] theorem setEncoder_acq (c : Nat) (x : Encoder) : (setEncoder s c x).acq = s.acq := (rfl)
@[simp] theorem setEncoder_safe (c : Nat) (x : Encoder) : (setEncoder s c x).safe = s.safe := (rfl)
@[simp] theorem setEncoder_fio (c : Nat) (x : Encoder) : (setEncoder s c x).fio = s.fio := (rfl)
@[simp] theorem setEncoder_sec (c : Nat) (x : Encoder) : (setEncoder s c x).sec = s.sec := (rfl)
@[simp] theorem setEncoder_part (c : Nat) (x : Encoder) : (setEncoder s c x).part = s.part := (rfl)
@[simp] theorem setEncoder_evts (c : Nat) (x : Encoder) : (setEncoder s c x).evts = s.evts := (rfl)
@[simp] theorem setEncoder_evtsPrev (c : Nat) (x : Encoder) : (setEncoder s c x).evtsPrev = s.evtsPrev := (rfl)
@[simp] theorem setEncoder_free (c : Nat) (x : Encoder) : (setEncoder s c x).free = s.free := (rfl)

/-! ### setLoopAx -/

@[simp] theorem setLoopAx_pending (a : Nat) (x : LoopAxis) : (setLoopAx s a x).pending = s.pending := (rfl)
@[simp] theorem setLoopAx_raw (a : Nat) (x : LoopAxis) : (setLoopAx s a x).raw = s.raw := (rfl)
@[simp] theorem setLoopAx_mem (a : Nat) (x : LoopAxis) : (setLoopAx s a x).mem = s.mem := (rfl)
@[simp] theorem setLoopAx_regs (a : Nat) (x : LoopAxis) : (setLoopAx s a x).regs = s.regs := (rfl)
@[simp] theorem setLoopAx_act (a : Nat) (x : LoopAxis) : (setLoopAx s a x).act = s.act := (rfl)
@[simp] theorem setLoopAx_bus (a : Nat) (x : LoopAxis) : (setLoopAx s a x).bus = s.bus := (rfl)
@[simp] theorem setLoopAx_out (a : Nat) (x : LoopAxis) : (setLoopAx s a x).out = s.out := (rfl)
@[simp] theorem setLoopAx_cyc (a : Nat) (x : LoopAxis) : (setLoopAx s a x).cyc = s.cyc := (rfl)
@[simp] theorem setLoopAx_time (a : Nat) (x : LoopAxis) : (setLoopAx s a x).time = s.time := (rfl)
@[simp] theorem setLoopAx_flt (a : Nat) (x : LoopAxis) : (setLoopAx s a x).flt = s.flt := (rfl)
@[simp] theorem setLoopAx_pwr (a : Nat) (x : LoopAxis) : (setLoopAx s a x).pwr = s.pwr := (rfl)
@[simp] theorem setLoopAx_ring (a : Nat) (x : LoopAxis) : (setLoopAx s a x).ring = s.ring := (rfl)
@[simp] theorem setLoopAx_prof (a : Nat) (x : LoopAxis) : (setLoopAx s a x).prof = s.prof := (rfl)
@[simp] theorem setLoopAx_sched (a : Nat) (x : LoopAxis) : (setLoopAx s a x).sched = s.sched := (rfl)
@[simp] theorem setLoopAx_mbx (a : Nat) (x : LoopAxis) : (setLoopAx s a x).mbx = s.mbx := (rfl)
@[simp] theorem setLoopAx_twin (a : Nat) (x : LoopAxis) : (setLoopAx s a x).twin = s.twin := (rfl)
@[simp] theorem setLoopAx_host (a : Nat) (x : LoopAxis) : (setLoopAx s a x).host = s.host := (rfl)
@[simp] theorem setLoopAx_hem (a : Nat) (x : LoopAxis) : (setLoopAx s a x).hem = s.hem := (rfl)
@[simp] theorem setLoopAx_fbc (a : Nat) (x : LoopAxis) : (setLoopAx s a x).fbc = s.fbc := (rfl)
@[simp] theorem setLoopAx_acq (a : Nat) (x : LoopAxis) : (setLoopAx s a x).acq = s.acq := (rfl)
@[simp] theorem setLoopAx_safe (a : Nat) (x : LoopAxis) : (setLoopAx s a x).safe = s.safe := (rfl)
@[simp] theorem setLoopAx_fio (a : Nat) (x : LoopAxis) : (setLoopAx s a x).fio = s.fio := (rfl)
@[simp] theorem setLoopAx_sec (a : Nat) (x : LoopAxis) : (setLoopAx s a x).sec = s.sec := (rfl)
@[simp] theorem setLoopAx_part (a : Nat) (x : LoopAxis) : (setLoopAx s a x).part = s.part := (rfl)
@[simp] theorem setLoopAx_evts (a : Nat) (x : LoopAxis) : (setLoopAx s a x).evts = s.evts := (rfl)
@[simp] theorem setLoopAx_evtsPrev (a : Nat) (x : LoopAxis) : (setLoopAx s a x).evtsPrev = s.evtsPrev := (rfl)
@[simp] theorem setLoopAx_free (a : Nat) (x : LoopAxis) : (setLoopAx s a x).free = s.free := (rfl)

/-! ### setConn -/

@[simp] theorem setConn_pending (c : Nat) (x : SafeConn) : (setConn s c x).pending = s.pending := (rfl)
@[simp] theorem setConn_raw (c : Nat) (x : SafeConn) : (setConn s c x).raw = s.raw := (rfl)
@[simp] theorem setConn_mem (c : Nat) (x : SafeConn) : (setConn s c x).mem = s.mem := (rfl)
@[simp] theorem setConn_regs (c : Nat) (x : SafeConn) : (setConn s c x).regs = s.regs := (rfl)
@[simp] theorem setConn_act (c : Nat) (x : SafeConn) : (setConn s c x).act = s.act := (rfl)
@[simp] theorem setConn_bus (c : Nat) (x : SafeConn) : (setConn s c x).bus = s.bus := (rfl)
@[simp] theorem setConn_out (c : Nat) (x : SafeConn) : (setConn s c x).out = s.out := (rfl)
@[simp] theorem setConn_cyc (c : Nat) (x : SafeConn) : (setConn s c x).cyc = s.cyc := (rfl)
@[simp] theorem setConn_time (c : Nat) (x : SafeConn) : (setConn s c x).time = s.time := (rfl)
@[simp] theorem setConn_flt (c : Nat) (x : SafeConn) : (setConn s c x).flt = s.flt := (rfl)
@[simp] theorem setConn_pwr (c : Nat) (x : SafeConn) : (setConn s c x).pwr = s.pwr := (rfl)
@[simp] theorem setConn_ring (c : Nat) (x : SafeConn) : (setConn s c x).ring = s.ring := (rfl)
@[simp] theorem setConn_prof (c : Nat) (x : SafeConn) : (setConn s c x).prof = s.prof := (rfl)
@[simp] theorem setConn_sched (c : Nat) (x : SafeConn) : (setConn s c x).sched = s.sched := (rfl)
@[simp] theorem setConn_mbx (c : Nat) (x : SafeConn) : (setConn s c x).mbx = s.mbx := (rfl)
@[simp] theorem setConn_twin (c : Nat) (x : SafeConn) : (setConn s c x).twin = s.twin := (rfl)
@[simp] theorem setConn_host (c : Nat) (x : SafeConn) : (setConn s c x).host = s.host := (rfl)
@[simp] theorem setConn_hem (c : Nat) (x : SafeConn) : (setConn s c x).hem = s.hem := (rfl)
@[simp] theorem setConn_loop (c : Nat) (x : SafeConn) : (setConn s c x).loop = s.loop := (rfl)
@[simp] theorem setConn_fbc (c : Nat) (x : SafeConn) : (setConn s c x).fbc = s.fbc := (rfl)
@[simp] theorem setConn_acq (c : Nat) (x : SafeConn) : (setConn s c x).acq = s.acq := (rfl)
@[simp] theorem setConn_fio (c : Nat) (x : SafeConn) : (setConn s c x).fio = s.fio := (rfl)
@[simp] theorem setConn_sec (c : Nat) (x : SafeConn) : (setConn s c x).sec = s.sec := (rfl)
@[simp] theorem setConn_part (c : Nat) (x : SafeConn) : (setConn s c x).part = s.part := (rfl)
@[simp] theorem setConn_evts (c : Nat) (x : SafeConn) : (setConn s c x).evts = s.evts := (rfl)
@[simp] theorem setConn_evtsPrev (c : Nat) (x : SafeConn) : (setConn s c x).evtsPrev = s.evtsPrev := (rfl)
@[simp] theorem setConn_free (c : Nat) (x : SafeConn) : (setConn s c x).free = s.free := (rfl)

/-! ### setSafeAxis -/

@[simp] theorem setSafeAxis_pending (a : Nat) (x : SafeAxis) : (setSafeAxis s a x).pending = s.pending := (rfl)
@[simp] theorem setSafeAxis_raw (a : Nat) (x : SafeAxis) : (setSafeAxis s a x).raw = s.raw := (rfl)
@[simp] theorem setSafeAxis_mem (a : Nat) (x : SafeAxis) : (setSafeAxis s a x).mem = s.mem := (rfl)
@[simp] theorem setSafeAxis_regs (a : Nat) (x : SafeAxis) : (setSafeAxis s a x).regs = s.regs := (rfl)
@[simp] theorem setSafeAxis_act (a : Nat) (x : SafeAxis) : (setSafeAxis s a x).act = s.act := (rfl)
@[simp] theorem setSafeAxis_bus (a : Nat) (x : SafeAxis) : (setSafeAxis s a x).bus = s.bus := (rfl)
@[simp] theorem setSafeAxis_out (a : Nat) (x : SafeAxis) : (setSafeAxis s a x).out = s.out := (rfl)
@[simp] theorem setSafeAxis_cyc (a : Nat) (x : SafeAxis) : (setSafeAxis s a x).cyc = s.cyc := (rfl)
@[simp] theorem setSafeAxis_time (a : Nat) (x : SafeAxis) : (setSafeAxis s a x).time = s.time := (rfl)
@[simp] theorem setSafeAxis_flt (a : Nat) (x : SafeAxis) : (setSafeAxis s a x).flt = s.flt := (rfl)
@[simp] theorem setSafeAxis_pwr (a : Nat) (x : SafeAxis) : (setSafeAxis s a x).pwr = s.pwr := (rfl)
@[simp] theorem setSafeAxis_ring (a : Nat) (x : SafeAxis) : (setSafeAxis s a x).ring = s.ring := (rfl)
@[simp] theorem setSafeAxis_prof (a : Nat) (x : SafeAxis) : (setSafeAxis s a x).prof = s.prof := (rfl)
@[simp] theorem setSafeAxis_sched (a : Nat) (x : SafeAxis) : (setSafeAxis s a x).sched = s.sched := (rfl)
@[simp] theorem setSafeAxis_mbx (a : Nat) (x : SafeAxis) : (setSafeAxis s a x).mbx = s.mbx := (rfl)
@[simp] theorem setSafeAxis_twin (a : Nat) (x : SafeAxis) : (setSafeAxis s a x).twin = s.twin := (rfl)
@[simp] theorem setSafeAxis_host (a : Nat) (x : SafeAxis) : (setSafeAxis s a x).host = s.host := (rfl)
@[simp] theorem setSafeAxis_hem (a : Nat) (x : SafeAxis) : (setSafeAxis s a x).hem = s.hem := (rfl)
@[simp] theorem setSafeAxis_loop (a : Nat) (x : SafeAxis) : (setSafeAxis s a x).loop = s.loop := (rfl)
@[simp] theorem setSafeAxis_fbc (a : Nat) (x : SafeAxis) : (setSafeAxis s a x).fbc = s.fbc := (rfl)
@[simp] theorem setSafeAxis_acq (a : Nat) (x : SafeAxis) : (setSafeAxis s a x).acq = s.acq := (rfl)
@[simp] theorem setSafeAxis_fio (a : Nat) (x : SafeAxis) : (setSafeAxis s a x).fio = s.fio := (rfl)
@[simp] theorem setSafeAxis_sec (a : Nat) (x : SafeAxis) : (setSafeAxis s a x).sec = s.sec := (rfl)
@[simp] theorem setSafeAxis_part (a : Nat) (x : SafeAxis) : (setSafeAxis s a x).part = s.part := (rfl)
@[simp] theorem setSafeAxis_evts (a : Nat) (x : SafeAxis) : (setSafeAxis s a x).evts = s.evts := (rfl)
@[simp] theorem setSafeAxis_evtsPrev (a : Nat) (x : SafeAxis) : (setSafeAxis s a x).evtsPrev = s.evtsPrev := (rfl)
@[simp] theorem setSafeAxis_free (a : Nat) (x : SafeAxis) : (setSafeAxis s a x).free = s.free := (rfl)

end Sys2Proof.Machine
end

