-- ==== Sys2Proof/Laws/Ops.lean ====
section
/-! SUPPORT. What the shared operations over tables, words, registers and memories give: reading after writing, and the
canonical forms they keep. -/

namespace Sys2Proof.Machine

/-! ### Tables -/

section tables
variable {α : Type} (d : Nat → α)

theorem tget_tdel (t : Table α) (k j : Nat) : tget d (tdel t k) j = if j = k then d j else tget d t j := by
  induction t with
  | nil => simp [tdel, tget]
  | cons e r ih =>
    obtain ⟨a, x⟩ := e
    by_cases h : a = k
    · subst h
      have : tdel ((a, x) :: r) a = tdel r a := by simp [tdel]
      rw [this, ih]
      by_cases hj : j = a
      · simp [hj]
      · simp [hj, tget, show ¬ a = j from fun e => hj e.symm]
    · have : tdel ((a, x) :: r) k = (a, x) :: tdel r k := by simp [tdel, h]
      rw [this]
      by_cases hj : a = j
      · subst hj; simp [tget, h]
      · simp [tget, hj, ih]

theorem tget_tins (t : Table α) (k j : Nat) (v : α) (h : ∀ e ∈ t, e.1 ≠ k) :
    tget d (tins t k v) j = if j = k then v else tget d t j := by
  induction t with
  | nil =>
    by_cases hj : j = k
    · simp [tins, tget, hj]
    · simp [tins, tget, hj, show ¬ k = j from fun e => hj e.symm]
  | cons e r ih =>
    obtain ⟨a, x⟩ := e
    have ha : a ≠ k := h (a, x) (by simp)
    by_cases hl : a < k
    · rw [show tins ((a, x) :: r) k v = (a, x) :: tins r k v by simp [tins, hl]]
      by_cases hj : a = j
      · subst hj; simp [tget, ha]
      · simp [tget, hj, ih (fun e he => h e (by simp [he]))]
    · rw [show tins ((a, x) :: r) k v = (k, v) :: (a, x) :: r by simp [tins, hl]]
      by_cases hj : j = k
      · simp [tget, hj]
      · simp [tget, hj, show ¬ k = j from fun e => hj e.symm]

variable [DecidableEq α]

/-- What a table holds after a put: the new value under its key, and every other key as before. -/
theorem tget_tput (t : Table α) (k j : Nat) (v : α) : tget d (tput d t k v) j = if j = k then v else tget d t j := by
  unfold tput
  split
  · next h => rw [tget_tdel]; split <;> simp_all
  · rw [tget_tins, tget_tdel]
    · split <;> simp_all
    · intro e he; simpa using (List.mem_filter.1 he).2

@[simp] theorem tget_tput_same (t : Table α) (k : Nat) (v : α) : tget d (tput d t k v) k = v := by simp [tget_tput]

omit [DecidableEq α] in
theorem tdel_tins (t : Table α) (k : Nat) (v : α) (h : ∀ e ∈ t, e.1 ≠ k) : tdel (tins t k v) k = t := by
  induction t with
  | nil => simp [tins, tdel]
  | cons e r ih =>
    obtain ⟨a, x⟩ := e
    have ha : a ≠ k := h (a, x) (by simp)
    have hr := ih (fun e he => h e (by simp [he]))
    have keep : r.filter (fun e => e.1 != k) = r := List.filter_eq_self.2 fun e he => by simpa using h e (by simp [he])
    by_cases hl : a < k
    · simp only [tins, hl, if_true]
      simp only [tdel, List.filter_cons] at hr ⊢
      simp [ha, hr]
    · simp [tins, hl, tdel, ha, keep]

/-- A second put under one key takes the place of the first. -/
theorem tput_tput (t : Table α) (k : Nat) (v w : α) : tput d (tput d t k v) k w = tput d t k w := by
  have h : ∀ e ∈ tdel t k, e.1 ≠ k := fun e he => by simpa using (List.mem_filter.1 he).2
  have e : tdel (tput d t k v) k = tdel t k := by
    unfold tput
    split
    · exact List.filter_eq_self.2 fun e he => by simpa using h e he
    · exact tdel_tins _ _ _ h
  unfold tput at e ⊢
  rw [e]

theorem tget_tput_ne (t : Table α) {k j : Nat} (v : α) (h : j ≠ k) : tget d (tput d t k v) j = tget d t j := by
  simp [tget_tput, h]

theorem twf_mono (t : Table α) {lo hi : Nat} (h : lo ≤ hi) (w : twf d hi t = true) : twf d lo t = true := by
  cases t with
  | nil => rfl
  | cons e r => obtain ⟨a, x⟩ := e; simp [twf] at w ⊢; exact ⟨⟨by omega, w.1.2⟩, w.2⟩

/-- A key below the bound of a canonical table is not listed. -/
theorem twf_le (t : Table α) {lo : Nat} (w : twf d lo t = true) : ∀ e ∈ t, lo ≤ e.1 := by
  induction t generalizing lo with
  | nil => simp
  | cons e r ih =>
    obtain ⟨a, x⟩ := e
    simp [twf] at w
    intro e he
    rcases List.mem_cons.1 he with rfl | he
    · exact w.1.1
    · have := ih w.2 e he; omega

theorem twf_filter (p : Nat × α → Bool) (t : Table α) {lo : Nat} (w : twf d lo t = true) : twf d lo (t.filter p) = true := by
  induction t generalizing lo with
  | nil => rfl
  | cons e r ih =>
    obtain ⟨a, x⟩ := e
    simp [twf] at w
    have hr := ih w.2
    by_cases hp : p (a, x)
    · simp [hp, twf, w.1, hr]
    · simp [hp]; exact twf_mono d _ (by omega) hr

theorem twf_tins (t : Table α) (k : Nat) (v : α) {lo : Nat} (hv : v ≠ d k) (hk : lo ≤ k) (h : ∀ e ∈ t, e.1 ≠ k)
    (w : twf d lo t = true) : twf d lo (tins t k v) = true := by
  induction t generalizing lo with
  | nil => simp [tins, twf, hv, hk]
  | cons e r ih =>
    obtain ⟨a, x⟩ := e
    have ha : a ≠ k := h (a, x) (by simp)
    simp [twf] at w
    by_cases hl : a < k
    · simp [tins, hl, twf, w.1]
      exact ih (by omega) (fun e he => h e (by simp [he])) w.2
    · simp [tins, hl, twf, hv, hk, w.1.2, w.2]; omega

/-- A put keeps the canonical form. -/
theorem twf_tput (t : Table α) (k : Nat) (v : α) (w : twf d 0 t = true) : twf d 0 (tput d t k v) = true := by
  unfold tput
  split
  · exact twf_filter d _ t w
  · next h =>
    refine twf_tins d _ k v h (Nat.zero_le _) ?_ (twf_filter d _ t w)
    intro e he; simpa using (List.mem_filter.1 he).2

end tables

/-! ### Words and fields -/

/-- The bits of a field read. -/
theorem testBit_bits (x hi lo i : Nat) : (bits x hi lo).testBit i = (decide (i < hi + 1 - lo) && x.testBit (i + lo)) := by
  simp [bits, Nat.testBit_mod_two_pow, Nat.testBit_div_two_pow]

/-- The bits of a word after a field was replaced. -/
theorem testBit_wset (w : Word) (hi lo v i : Nat) (h : lo ≤ hi) (h2 : hi < 32) :
    (wset w hi lo v).toNat.testBit i =
      if lo ≤ i ∧ i ≤ hi then v.testBit (i - lo) else w.toNat.testBit i := by
  have hs : 2 ^ (hi + 1) = 2 ^ lo * 2 ^ (hi + 1 - lo) := by rw [← Nat.pow_add]; congr 1; omega
  have e1 := Nat.div_add_mod w.toNat (2 ^ lo)
  have e2 := Nat.div_add_mod (w.toNat / 2 ^ lo) (2 ^ (hi + 1 - lo))
  have hL : w.toNat % 2 ^ lo < 2 ^ lo := Nat.mod_lt _ (Nat.two_pow_pos _)
  have hv : v % 2 ^ (hi + 1 - lo) < 2 ^ (hi + 1 - lo) := Nat.mod_lt _ (Nat.two_pow_pos _)
  have hn : w.toNat - wbits w hi lo * 2 ^ lo + v % 2 ^ (hi + 1 - lo) * 2 ^ lo =
      2 ^ (hi + 1) * (w.toNat / 2 ^ lo / 2 ^ (hi + 1 - lo)) + (2 ^ lo * (v % 2 ^ (hi + 1 - lo)) + w.toNat % 2 ^ lo) := by
    have e3 : w.toNat = 2 ^ (hi + 1) * (w.toNat / 2 ^ lo / 2 ^ (hi + 1 - lo)) + 2 ^ lo * (wbits w hi lo) + w.toNat % 2 ^ lo := by
      conv => lhs; rw [← e1, ← e2]
      rw [hs, Nat.mul_add, ← Nat.mul_assoc]; rfl
    have : w.toNat - wbits w hi lo * 2 ^ lo = 2 ^ (hi + 1) * (w.toNat / 2 ^ lo / 2 ^ (hi + 1 - lo)) + w.toNat % 2 ^ lo := by
      rw [Nat.mul_comm (wbits w hi lo)]; omega
    rw [this, Nat.mul_comm (v % _)]; omega
  have hm : 2 ^ lo * (v % 2 ^ (hi + 1 - lo)) + w.toNat % 2 ^ lo < 2 ^ (hi + 1) := by
    have : 2 ^ lo * (v % 2 ^ (hi + 1 - lo) + 1) ≤ 2 ^ lo * 2 ^ (hi + 1 - lo) := Nat.mul_le_mul_left _ hv
    rw [hs]; rw [Nat.mul_add] at this; omega
  have hb (j : Nat) : w.toNat.testBit (j + 32) = false :=
    Nat.testBit_lt_two_pow (Nat.lt_of_lt_of_le w.isLt (Nat.pow_le_pow_right (by decide) (by omega)))
  rw [wset, BitVec.toNat_ofNat, Nat.testBit_mod_two_pow, hn]
  by_cases hi32 : i < 32
  · rw [Nat.testBit_two_pow_mul_add _ hm]
    by_cases ha : i < hi + 1
    · rw [if_pos ha, Nat.testBit_two_pow_mul_add _ hL]
      by_cases hl : i < lo
      · rw [if_pos hl, if_neg (by omega)]; simp [hi32, Nat.testBit_mod_two_pow, hl]
      · rw [if_neg hl, if_pos (by omega)]; simp [hi32, Nat.testBit_mod_two_pow]; intro; omega
    · rw [if_neg ha, if_neg (by omega)]
      simp [hi32, Nat.testBit_div_two_pow]; congr 1; omega
  · have := hb (i - 32)
    rw [Nat.sub_add_cancel (by omega)] at this
    rw [if_neg (by omega), this]; simp [hi32]

/-- A field reads what was put into it. -/
theorem wbits_wset (w : Word) (hi lo v : Nat) (h : lo ≤ hi) (h2 : hi < 32) :
    wbits (wset w hi lo v) hi lo = v % 2 ^ (hi + 1 - lo) := by
  refine Nat.eq_of_testBit_eq fun i => ?_
  rw [wbits, testBit_bits, testBit_wset _ _ _ _ _ h h2, Nat.testBit_mod_two_pow]
  by_cases hi : i < hi + 1 - lo
  · simp [hi]; intro; omega
  · simp [hi]

/-- A field keeps what it reads while another is replaced. -/
theorem wbits_wset_ne (w : Word) (hi lo v hi2 lo2 : Nat) (h : lo ≤ hi) (h2 : hi < 32) (hd : hi2 < lo ∨ hi < lo2) :
    wbits (wset w hi lo v) hi2 lo2 = wbits w hi2 lo2 := by
  refine Nat.eq_of_testBit_eq fun i => ?_
  rw [wbits, wbits, testBit_bits, testBit_bits, testBit_wset _ _ _ _ _ h h2]
  by_cases hb : i < hi2 + 1 - lo2
  · rw [if_neg (by omega)]
  · simp [hb]

/-! ### Registers -/

/-- A register reads what was stored into it, and every other register what it read before. -/
theorem rd_wr (s : State) (a b : Nat) (v : Word) : rd (wr s a v) b = if b = a then v else rd s b := tget_tput _ _ _ _ _

@[simp] theorem rd_wr_same (s : State) (a : Nat) (v : Word) : rd (wr s a v) a = v := tget_tput_same _ _ _ _

theorem rd_wr_ne (s : State) {a b : Nat} (v : Word) (h : b ≠ a) : rd (wr s a v) b = rd s b := tget_tput_ne _ _ _ h

theorem rd_setF (s : State) (a hi lo v b : Nat) :
    rd (setF s a hi lo v) b = if b = a then wset (rd s a) hi lo v else rd s b := rd_wr _ _ _ _

theorem rd_setF_ne (s : State) {a b : Nat} (hi lo v : Nat) (h : b ≠ a) : rd (setF s a hi lo v) b = rd s b := rd_wr_ne _ _ h

theorem rd_setBit (s : State) (a i : Nat) (x : Bool) (b : Nat) :
    rd (setBit s a i x) b = if b = a then wset (rd s a) i i (flag x) else rd s b := rd_wr _ _ _ _

theorem rd_setBit_ne (s : State) {a b : Nat} (i : Nat) (x : Bool) (h : b ≠ a) : rd (setBit s a i x) b = rd s b :=
  rd_wr_ne _ _ h

theorem rd_bumpF_ne (s : State) {a b : Nat} (hi lo n : Nat) (h : b ≠ a) : rd (bumpF s a hi lo n) b = rd s b := rd_wr_ne _ _ h

theorem rd_bump_ne (s : State) {a b : Nat} (n : Nat) (h : b ≠ a) : rd (bump s a n) b = rd s b := rd_wr_ne _ _ h

/-- A field that was set reads the value set. -/
theorem fld_setF (s : State) (a hi lo v : Nat) (h : lo ≤ hi) (h2 : hi < 32) :
    fld (setF s a hi lo v) a hi lo = v % 2 ^ (hi + 1 - lo) := by
  rw [fld, rd_setF, if_pos rfl, wbits_wset _ _ _ _ h h2]

theorem fld_setF_ne (s : State) (a hi lo v hi2 lo2 : Nat) (h : lo ≤ hi) (h2 : hi < 32) (hd : hi2 < lo ∨ hi < lo2) :
    fld (setF s a hi lo v) a hi2 lo2 = fld s a hi2 lo2 := by
  rw [fld, rd_setF, if_pos rfl, wbits_wset_ne _ _ _ _ _ _ h h2 hd]; rfl

/-- A one-bit field that was set reads the value set. -/
theorem fbit_setBit (s : State) (a i : Nat) (b : Bool) (h : i < 32) : fbit (setBit s a i b) a i = b := by
  have e := fld_setF s a i i (flag b) (Nat.le_refl _) h
  have w (x : Word) : wbit x i = (wbits x i i == 1) := by simp [wbit, wbits, bit, bits]
  rw [fbit, w]
  change (fld (setF s a i i (flag b)) a i i == 1) = b
  rw [e]; cases b <;> simp [flag]

theorem fbit_setBit_ne (s : State) (a i j : Nat) (b : Bool) (h : i < 32) (hd : j ≠ i) : fbit (setBit s a i b) a j = fbit s a j := by
  have w (x : Word) (k : Nat) : wbit x k = (wbits x k k == 1) := by simp [wbit, wbits, bit, bits]
  rw [fbit, fbit, w, w]
  congr 1
  exact fld_setF_ne s a i i (flag b) j j (Nat.le_refl _) h (by omega)

/-- A counter counts up and stays at all ones. -/
theorem rd_bump_toNat (s : State) (a : Nat) : (rd (bump s a) a).toNat = min ((rd s a).toNat + 1) (2 ^ 32 - 1) := by
  have e := fld_setF s a 31 0 (min (fld s a 31 0 + 1) (2 ^ 32 - 1)) (by omega) (by omega)
  have w (x : Word) : wbits x 31 0 = x.toNat := by simp only [wbits, bits]; simp; exact x.isLt
  simp only [fld, w] at e
  have : bump s a = setF s a 31 0 (min ((rd s a).toNat + 1) (2 ^ 32 - 1)) := by simp [bump, bumpF, fld, w]
  rw [this, e]
  exact Nat.mod_eq_of_lt (by omega)

/-- A counter that is not full counts up by one. -/
theorem rd_bump (s : State) (a : Nat) (h : (rd s a).toNat < 2 ^ 32 - 1) : rd (bump s a) a = rd s a + 1 := by
  apply BitVec.eq_of_toNat_eq
  refine Nat.eq_of_testBit_eq fun i => ?_
  have e := fld_setF s a 31 0 (min (fld s a 31 0 + 1) (2 ^ 32 - 1)) (by omega) (by omega)
  have w (x : Word) : wbits x 31 0 = x.toNat := by simp only [wbits, bits]; simp; exact x.isLt
  have e' : (rd (bump s a) a).toNat = (rd s a).toNat + 1 := by
    rw [← w, ← w]
    change fld (setF s a 31 0 _) a 31 0 = _
    rw [e]; simp only [fld, w]; omega
  rw [e', BitVec.toNat_add]; congr 1; simp; omega

/-! ### Memories -/

/-- What a memory holds after a byte was written: the byte there, and every other byte of every region as before. -/
theorem read_write (m : Mem) (r q : Region) (a b : Nat) (x : Byte) :
    (m.write r a x).read q b = if q = r ∧ b = a then x else m.read q b := by
  cases r <;> cases q <;> simp [Mem.write, Mem.read, Mem.table, Mem.setTable, tget_tput]

/-- Bytes outside those written are as before. -/
theorem read_writes_out (m : Mem) (r q : Region) (a b : Nat) (bs : List Byte) (h : q ≠ r ∨ b < a ∨ a + bs.length ≤ b) :
    (m.writes r a bs).read q b = m.read q b := by
  induction bs generalizing m a with
  | nil => rfl
  | cons x xs ih =>
    have hl : (x :: xs).length = xs.length + 1 := rfl
    have h1 : q ≠ r ∨ b < a + 1 ∨ a + 1 + xs.length ≤ b := by
      rcases h with h | h | h
      · exact .inl h
      · exact .inr (.inl (by omega))
      · exact .inr (.inr (by omega))
    have h2 : ¬ (q = r ∧ b = a) := by
      rintro ⟨h1, h2⟩
      rcases h with h | h | h
      · exact h h1
      · omega
      · omega
    rw [Mem.writes, ih _ _ h1, read_write, if_neg h2]

/-- A byte written reads back. -/
theorem read_writes_in (m : Mem) (r : Region) (a i : Nat) (bs : List Byte) (h : i < bs.length) :
    (m.writes r a bs).read r (a + i) = bs[i] := by
  induction bs generalizing m a i with
  | nil => simp at h
  | cons x xs ih =>
    cases i with
    | zero => rw [Mem.writes, read_writes_out _ _ _ _ _ _ (by omega), read_write]; simp
    | succ i =>
      have := ih (m.write r a x) (a + 1) i (by simpa using h)
      rw [show a + (i + 1) = a + 1 + i by omega, Mem.writes, this]; rfl

/-- A byte written keeps the canonical form of every memory. -/
theorem wf_write (m : Mem) (r : Region) (a : Nat) (x : Byte) (w : m.wf = true) : (m.write r a x).wf = true := by
  simp only [Mem.wf, Bool.and_eq_true] at w ⊢
  cases r <;> simp only [Mem.write, Mem.setTable, Mem.table] <;> simp_all [regionDefault] <;> exact twf_tput _ _ _ _ (by simp_all)

/-- Writing bytes keeps the canonical form of every memory. -/
theorem wf_writes (m : Mem) (r : Region) (a : Nat) (bs : List Byte) (w : m.wf = true) : (m.writes r a bs).wf = true := by
  induction bs generalizing m a with
  | nil => exact w
  | cons x xs ih => exact ih _ _ (wf_write m r a x w)

/-- Erasing bytes keeps the canonical form of every memory. -/
theorem wf_erase (m : Mem) (r : Region) (a n : Nat) (w : m.wf = true) : (m.erase r a n).wf = true := by
  simp only [Mem.wf, Bool.and_eq_true] at w ⊢
  cases r <;> simp only [Mem.erase, Mem.setTable, Mem.table] <;> simp_all <;> exact twf_filter _ _ _ (by simp_all)

/-- The memories after reset are in canonical form. -/
theorem reset_mem_wf : State.reset.mem.wf = true := by decide

end Sys2Proof.Machine
end

