-- ==== Sys2Proof/Laws/Events.lean ====
section
/-! SUPPORT. What raising an event may change. -/

namespace Sys2Proof.Machine

theorem OnlyReports.refl (s : State) : OnlyReports s s := by
  constructor <;> first | rfl | exact fun _ _ => rfl | exact ⟨[], by simp⟩ | exact id

theorem OnlyReports.trans {s t u : State} (h : OnlyReports s t) (k : OnlyReports t u) : OnlyReports s u := by
  have ha := k.axes; rw [h.axes] at ha
  have hf := k.flows; rw [h.flows] at hf
  have he := k.flt; rw [h.flt] at he
  obtain ⟨m, hm⟩ := h.out
  obtain ⟨n, hn⟩ := k.out
  exact {
    pending := k.pending.trans h.pending, raw := k.raw.trans h.raw, mem := k.mem.trans h.mem, act := k.act.trans h.act
    bus := k.bus.trans h.bus, cyc := k.cyc.trans h.cyc, time := k.time.trans h.time, pwr := k.pwr.trans h.pwr
    ring := k.ring.trans h.ring, axes := ha, sched := k.sched.trans h.sched, mbx := k.mbx.trans h.mbx
    twin := k.twin.trans h.twin, flows := hf, hem := k.hem.trans h.hem, loop := k.loop.trans h.loop
    fbc := k.fbc.trans h.fbc, acq := k.acq.trans h.acq, safe := k.safe.trans h.safe, fio := k.fio.trans h.fio
    sec := k.sec.trans h.sec, part := k.part.trans h.part, evts := k.evts.trans h.evts
    evtsPrev := k.evtsPrev.trans h.evtsPrev, free := k.free.trans h.free
    regs := fun a r => (k.regs a r).trans (h.regs a r), flt := he
    status := fun i n => (k.status i n).trans (h.status i n), stop := fun x => k.stop (h.stop x)
    out := ⟨m ++ n, by rw [hn, hm, List.append_assoc]⟩ }

/-- Storing a register in which events report. -/
theorem only_wr (s : State) {a : Nat} (v : Word) (h : reportReg a = true) (n : a ≠ Reg.FPM_STATUS := by decide) :
    OnlyReports s (wr s a v) where
  pending := rfl
  raw := rfl
  mem := rfl
  act := rfl
  bus := rfl
  cyc := rfl
  time := rfl
  pwr := rfl
  ring := rfl
  axes := rfl
  sched := rfl
  mbx := rfl
  twin := rfl
  flows := rfl
  hem := rfl
  loop := rfl
  fbc := rfl
  acq := rfl
  safe := rfl
  fio := rfl
  sec := rfl
  part := rfl
  evts := rfl
  evtsPrev := rfl
  free := rfl
  regs := fun b hb => rd_wr_ne s v (by rintro rfl; rw [h] at hb; exact absurd hb (by decide))
  flt := rfl
  status := fun i _ => by rw [fbit, fbit, rd_wr_ne s v n.symm]
  stop := fun x => by rw [fbit, rd_wr_ne s v n.symm]; exact x
  out := ⟨[], by simp⟩

theorem only_setF (s : State) {a : Nat} (hi lo v : Nat) (h : reportReg a = true) (n : a ≠ Reg.FPM_STATUS := by decide) :
    OnlyReports s (setF s a hi lo v) := only_wr s _ h n

theorem only_setBit (s : State) {a : Nat} (i : Nat) (b : Bool) (h : reportReg a = true) (n : a ≠ Reg.FPM_STATUS := by decide) :
    OnlyReports s (setBit s a i b) := only_wr s _ h n

theorem only_bumpF (s : State) {a : Nat} (hi lo n : Nat) (h : reportReg a = true) (k : a ≠ Reg.FPM_STATUS := by decide) :
    OnlyReports s (bumpF s a hi lo n) := only_wr s _ h k

theorem only_bump (s : State) {a : Nat} (n : Nat) (h : reportReg a = true) (k : a ≠ Reg.FPM_STATUS := by decide) :
    OnlyReports s (bump s a n) := only_wr s _ h k

/-- The bookkeeping of the faults but for what concerns cells and block resets. -/
theorem only_flt (s : State) (f : Faults)
    (h : f = { s.flt with hist := f.hist, suppressed := f.suppressed, marks := f.marks, climbs := f.climbs, stopRaw := f.stopRaw,
                          stoSent := f.stoSent } := by rfl) : OnlyReports s { s with flt := f } := by
  constructor <;> first | rfl | exact fun _ _ => rfl | exact ⟨[], by simp⟩ | exact id | exact h

theorem only_emit (s : State) (o : Out) : OnlyReports s (emit s o) := by
  constructor <;> first | rfl | exact fun _ _ => rfl | exact ⟨[o], rfl⟩ | exact id

theorem only_request (s : State) (r : StopReq) : OnlyReports s (request s r) := by
  constructor <;> first | rfl | exact fun _ _ => rfl | exact ⟨[], by simp [request]⟩ | exact id

theorem only_rings (s : State) (r : Nat) (x : Ring) : OnlyReports s (setRing s r x) := by
  constructor <;> first | rfl | exact fun _ _ => rfl | exact ⟨[], by simp [setRing]⟩ | exact id

theorem only_subs (s : State) (x : Table Subscription) : OnlyReports s { s with host := { s.host with subs := x } } := by
  constructor <;> first | rfl | exact fun _ _ => rfl | exact ⟨[], by simp⟩ | exact id

/-- FPM_STATUS takes the mark of a region stop. -/
theorem only_stopBit (s : State) : OnlyReports s (setBit s Reg.FPM_STATUS 0 true) where
  pending := rfl
  raw := rfl
  mem := rfl
  act := rfl
  bus := rfl
  cyc := rfl
  time := rfl
  pwr := rfl
  ring := rfl
  axes := rfl
  sched := rfl
  mbx := rfl
  twin := rfl
  flows := rfl
  hem := rfl
  loop := rfl
  fbc := rfl
  acq := rfl
  safe := rfl
  fio := rfl
  sec := rfl
  part := rfl
  evts := rfl
  evtsPrev := rfl
  free := rfl
  flt := rfl
  regs := fun b hb => rd_wr_ne s _ (by rintro rfl; exact absurd hb (by decide))
  status := fun i n => by rw [fbit_setBit_ne s _ _ _ _ (by decide) n]
  stop := fun _ => fbit_setBit s _ _ _ (by decide)
  out := ⟨[], by simp⟩

/-- The registers of a fault group are report registers. -/
theorem report_flt (blk o : Nat) (h : 0xF000 ≤ o ∧ o < 0xF0C0) : reportReg (0x20000000 + o + 0x100000 * blk) = true := by
  have : (0x20000000 + o + 0x100000 * blk) % 0x100000 = o := by omega
  simp [reportReg, this, h.1, h.2]

/-- None of them is FPM_STATUS. -/
theorem flt_status (blk o : Nat) (h : 0xF000 ≤ o ∧ o < 0xF0C0) : 0x20000000 + o + 0x100000 * blk ≠ Reg.FPM_STATUS := by
  have : Reg.FPM_STATUS = 0x20D00000 := rfl
  omega

theorem report_status (b : Nat) : reportReg (Reg.FLT_STATUS b) = true := report_flt b 0xF000 (by decide)
theorem report_rung (b : Nat) : reportReg (Reg.FLT_RUNG b) = true := report_flt b 0xF018 (by decide)
theorem report_hist (b : Nat) : reportReg (Reg.FLT_HIST_CNT b) = true := report_flt b 0xF01C (by decide)

theorem only_pushHist (s : State) (b : Nat) (h : HistEntry) : OnlyReports s (pushHist s b h) := by
  unfold pushHist
  extract_lets q t
  have h1 := (only_flt s { s.flt with hist := tput (fun _ => []) s.flt.hist b ((h :: history s b).take 8) }).trans
    (only_setF _ 3 0 (min ((history s b).length + 1) 8) (report_hist b) (flt_status b 0xF01C (by decide)))
  split
  · exact h1.trans (only_bumpF _ _ _ _ (report_hist b) (flt_status b 0xF01C (by decide)))
  · exact h1

theorem only_if {s t u : State} {c : Prop} [Decidable c] (h : OnlyReports s t) (k : OnlyReports s u) :
    OnlyReports s (if c then t else u) := by
  split <;> assumption

theorem only_signalRing (s : State) (r ctrl : Nat) : OnlyReports s (signalRing s r ctrl) :=
  only_if (only_rings _ _ _)
    (only_if ((only_rings s _ _).trans ((only_emit _ _).trans (only_rings _ _ _))) (only_rings _ _ _))

theorem only_eventRing (s : State) (m : List Byte) : OnlyReports s (eventRing s m).2 := by
  unfold eventRing
  extract_lets
  split
  · exact OnlyReports.refl s
  · exact ((only_emit s _).trans (only_setF _ _ _ _ (by decide))).trans ((only_rings _ _ _).trans (only_signalRing _ _ _))

theorem only_carryEvent (s : State) (o : Option Endpoint) (m : List Byte) : OnlyReports s (carryEvent s o m).2 := by
  unfold carryEvent
  split
  · exact only_eventRing s m
  · exact only_emit s _
  · exact OnlyReports.refl s

theorem only_sendEvent (s : State) (k b : Nat) (h : HistEntry) : OnlyReports s (sendEvent s k b h).2 := by
  unfold sendEvent
  extract_lets sub fl took
  split
  · exact OnlyReports.refl s
  · split
    · exact (only_carryEvent s _ _).trans (only_subs _ _)
    · exact (only_subs s _).trans (only_bump _ _ (by decide))

theorem only_logEntry (s : State) (b : Nat) (h : HistEntry) : OnlyReports s (logEntry s b h).2 := by
  unfold logEntry
  simp only [List.foldl]
  exact (only_pushHist s b h).trans ((only_sendEvent _ _ _ _).trans
    ((only_sendEvent _ _ _ _).trans ((only_sendEvent _ _ _ _).trans (only_sendEvent _ _ _ _))))

theorem only_regionStop (s : State) : OnlyReports s (regionStop s) :=
  only_if (only_request s _) ((only_stopBit s).trans ((only_flt _ _).trans (only_request _ _)))

theorem only_showRung (s : State) (b r : Nat) : OnlyReports s (showRung s b r) := by
  unfold showRung
  have h := report_rung b
  have n : Reg.FLT_RUNG b ≠ Reg.FPM_STATUS := flt_status b 0xF018 (by decide)
  extract_lets
  split <;> exact (only_setF s _ _ _ h n).trans ((only_setBit _ _ _ h n).trans (only_setF _ _ _ _ h n))

section again
variable {again : State → Event → State} (ih : ∀ s e, OnlyReports s (again s e))
include ih

theorem only_logAgain (s : State) (b : Nat) (h : HistEntry) : OnlyReports s (logAgain again s b h) :=
  only_if ((only_logEntry s b h).trans (ih _ _)) (only_logEntry s b h)

theorem only_maskedEvent (s : State) (e : Event) (q : Nat) : OnlyReports s (maskedEvent again s e q) := by
  have h (k : HistEntry) := (only_logAgain ih s e.blk k).trans (only_bump _ 1 (show reportReg Reg.FPM_SUPPRESS_CNT = true by decide))
  exact only_if (h _) ((h _).trans ((only_flt _ _).trans (ih _ _)))

theorem only_startClimb (s : State) (e : Event) (sev : Nat) (fresh : Bool) : OnlyReports s (startClimb again s e sev fresh) := by
  have h (x : List Climb) (r : Nat) := (only_flt s { s.flt with climbs := x }).trans (only_showRung { s with flt := { s.flt with climbs := x } } e.blk r)
  exact only_if (OnlyReports.refl s) (only_if ((h _ _).trans ((only_regionStop _).trans (ih _ _))) (h _ _))

omit ih in
theorem only_showEvent (s : State) (e : Event) : OnlyReports s (showEvent s e) := by
  have h := only_setBit s e.ev true (report_status e.blk) (flt_status e.blk 0xF000 (by decide))
  exact only_if (h.trans (only_emit _ _)) h

theorem only_plainEvent (s : State) (e : Event) : OnlyReports s (plainEvent again s e) := by
  have h (k : HistEntry) (x : List EvMark) :=
    (only_logAgain ih s e.blk k).trans (only_flt _ { (logAgain again s e.blk k).flt with marks := x })
  exact only_if (h _ _) ((h _ _).trans ((only_showEvent _ e).trans (only_startClimb ih _ _ _ _)))

end again

theorem only_raiseN (n : Nat) (s : State) (e : Event) : OnlyReports s (raiseN n s e) := by
  induction n generalizing s e with
  | zero => exact OnlyReports.refl s
  | succ n ih =>
    unfold raiseN
    split
    · exact only_maskedEvent ih s e _
    · exact only_plainEvent ih s e

/-- Raising an event changes nothing but what events report in. -/
theorem only_event (s : State) (b e o d : Nat) : OnlyReports s (event s b e o d) := only_raiseN _ _ _

end Sys2Proof.Machine
end

