-- ==== Sys2Proof/Laws/Access.lean ====
section
/-! SUPPORT. Accesses that reach their registers, and the two ways in which a meaning is run. -/

namespace Sys2Proof.Machine

/-- A write that reaches its register lands in the block. -/
theorem hostWrite_reach {s : State} {port : Port} {a : Nat} {v : Word} (h : Reaches s port a v) :
    hostWrite s port a v = landWrite s port a v := by
  have h1 : s.sec.inReset = false := h.awake
  have h2 := h.direct
  have h3 := h.port
  have h4 (c : Fin 8) : fwWrite s (.fw c) a v = landWrite s (.fw c) a v := by
    unfold fwWrite
    split
    · rename_i hp
      have hp : a = Reg.SCHED_POST_HI := by simpa using hp
      subst hp
      have : s.twin.pair = false := by
        cases hq : s.twin.pair with
        | false => rfl
        | true => exact absurd (h2 hq) (by simp [journaled, blockOf, Reg.SCHED_POST_HI])
      simp [fwToken, this]
    · split
      · rename_i hp
        simp only [Bool.and_eq_true, beq_iff_eq, stamps] at hp
        exact absurd (h2 hp.2.1) (by simp [hp.1, journaled, blockOf, Reg.SCHED_BASTE_COMMIT])
      · split
        · rename_i hp
          simp only [Bool.and_eq_true, beq_iff_eq] at hp
          exact absurd (h2 hp.1.2) (by simp [hp.1.1, journaled, blockOf, Reg.SCHED_BASTE_COMMIT])
        · rfl
  cases port <;> simp_all [hostWrite]

/-- A write that reaches a register of a block other than SAFE takes effect in its block. -/
theorem landWrite_reach {s : State} {port : Port} {a : Nat} {v : Word} {r : RegRow} {i j : Nat} (h : Reaches s port a v)
    (hr : regAt a = some (r, i, j)) (ha : 0x20000000 ≤ a ∧ a < 0x21000000 ∧ a % 4 = 0) (hb : blockOf a ≠ SAFE) :
    landWrite s port a v = landReg s port (blockOf a) a r i j v := by
  have hf := h.free r i j hr
  have h1 := h.block
  have h2 := h.power
  have : (holdFlags (blockOf a) r i v).any (fun f => fbit s f.1 f.2) = false := by
    rw [List.any_eq_false]
    rw [List.all_eq_true] at hf
    intro f hm; have := hf f hm; simpa using this
  have hs := h.swap r i j hr
  unfold landWrite
  rw [hr]
  simp only [this, hs]
  rw [if_neg, if_neg]
  · simp
  · simp [h2, hb]
  · have h1' : ¬ blockOf a ∈ s.flt.resetting := by simpa using h1
    simp [h1']; omega

/-- A write by a port lands where the two facts above say. -/
theorem write_reach {s : State} {port : Port} {a : Nat} {v : Word} {r : RegRow} {i j : Nat} (h : Reaches s port a v)
    (hr : regAt a = some (r, i, j)) (ha : 0x20000000 ≤ a ∧ a < 0x21000000 ∧ a % 4 = 0) (hb : blockOf a ≠ SAFE) :
    hostWrite s port a v = landReg s port (blockOf a) a r i j v :=
  (hostWrite_reach h).trans (landWrite_reach h hr ha hb)

/-- A read that reaches its register. -/
theorem portRead_reach {s : State} {port : Port} {a : Nat} (h : Readable s port a) : portRead s port a = readReg s port a := by
  have h1 : s.sec.inReset = false := h.awake
  have h2 := h.port
  cases port <;> simp_all [portRead]

/-- A head that is awake takes an event. -/
theorem awake_eq {f : State → State} {s : State} (h : Awake s) : awake f s = f s := by
  have : s.sec.inReset = false := h
  simp [awake, this]

/-- What a quiet meaning answers. -/
theorem runQuiet_eq (f : State → State) (s : State) :
    runQuiet f s = .next { f s with pending := s.pending, mem := s.mem, raw := s.raw } := rfl

/-- Registers read the same whatever the queue, the memories and the raw counter hold. -/
@[simp] theorem rd_frame (t : State) (p : List Instr) (m : Mem) (r : Nat) (a : Nat) :
    rd { t with pending := p, mem := m, raw := r } a = rd t a := rfl
@[simp] theorem fld_frame (t : State) (p : List Instr) (m : Mem) (r : Nat) (a hi lo : Nat) :
    fld { t with pending := p, mem := m, raw := r } a hi lo = fld t a hi lo := rfl
@[simp] theorem fbit_frame (t : State) (p : List Instr) (m : Mem) (r : Nat) (a i : Nat) :
    fbit { t with pending := p, mem := m, raw := r } a i = fbit t a i := rfl
@[simp] theorem ringSt_frame (t : State) (p : List Instr) (m : Mem) (r : Nat) :
    ringSt { t with pending := p, mem := m, raw := r } = ringSt t := rfl
@[simp] theorem rd_queue (t : State) (p : List Instr) (a : Nat) : rd { t with pending := p } a = rd t a := rfl
@[simp] theorem fld_queue (t : State) (p : List Instr) (a hi lo : Nat) : fld { t with pending := p } a hi lo = fld t a hi lo := rfl
@[simp] theorem fbit_queue (t : State) (p : List Instr) (a i : Nat) : fbit { t with pending := p } a i = fbit t a i := rfl
@[simp] theorem ringSt_queue (t : State) (p : List Instr) : ringSt { t with pending := p } = ringSt t := rfl

/-- A quiet command of a head that is awake completes where its effect meets what is asked. -/
theorem completes_quiet {c : Instr} {f : State → State} {s : State} {P : State → Prop} (e : exec c s = runQuiet (awake f) s)
    (h : Awake s) (p : P { f s with pending := s.pending, mem := s.mem, raw := s.raw }) : Completes c s P :=
  ⟨_, e, rfl, by rw [awake_eq h]; exact p⟩

/-- A quiet command by a port completes where its effect meets what is asked. -/
theorem completes_port {c : Instr} {f : State → State} {s : State} {P : State → Prop} (e : exec c s = runQuiet f s)
    (p : P { f s with pending := s.pending, mem := s.mem, raw := s.raw }) : Completes c s P := ⟨_, e, rfl, p⟩

/-- What a meaning answers. -/
theorem run_eq (f : State → State) (s : State) : run f s = .next { f s with pending := s.pending } := rfl

end Sys2Proof.Machine
end

