-- ==== Sys2Proof/Laws/Ring.lean ====
section
/-! SUPPORT. What the ring's operations do to the ring state and what they leave. -/

namespace Sys2Proof.Machine

/-- A register in which no event reports reads the same after an event. -/
theorem rd_event (s : State) (b e o d : Nat) {a : Nat} (h : reportReg a = false) : rd (event s b e o d) a = rd s a :=
  (only_event s b e o d).regs a h

@[simp] theorem event_ring (s : State) (b e o d : Nat) : (event s b e o d).ring = s.ring := (only_event s b e o d).ring
@[simp] theorem event_cyc (s : State) (b e o d : Nat) : (event s b e o d).cyc = s.cyc := (only_event s b e o d).cyc
@[simp] theorem event_time (s : State) (b e o d : Nat) : (event s b e o d).time = s.time := (only_event s b e o d).time
@[simp] theorem event_raw (s : State) (b e o d : Nat) : (event s b e o d).raw = s.raw := (only_event s b e o d).raw
@[simp] theorem event_mem (s : State) (b e o d : Nat) : (event s b e o d).mem = s.mem := (only_event s b e o d).mem
@[simp] theorem event_act (s : State) (b e o d : Nat) : (event s b e o d).act = s.act := (only_event s b e o d).act
@[simp] theorem event_bus (s : State) (b e o d : Nat) : (event s b e o d).bus = s.bus := (only_event s b e o d).bus
@[simp] theorem event_pwr (s : State) (b e o d : Nat) : (event s b e o d).pwr = s.pwr := (only_event s b e o d).pwr
@[simp] theorem event_sched (s : State) (b e o d : Nat) : (event s b e o d).sched = s.sched := (only_event s b e o d).sched
@[simp] theorem event_mbx (s : State) (b e o d : Nat) : (event s b e o d).mbx = s.mbx := (only_event s b e o d).mbx
@[simp] theorem event_twin (s : State) (b e o d : Nat) : (event s b e o d).twin = s.twin := (only_event s b e o d).twin
@[simp] theorem event_hem (s : State) (b e o d : Nat) : (event s b e o d).hem = s.hem := (only_event s b e o d).hem
@[simp] theorem event_loop (s : State) (b e o d : Nat) : (event s b e o d).loop = s.loop := (only_event s b e o d).loop
@[simp] theorem event_fbc (s : State) (b e o d : Nat) : (event s b e o d).fbc = s.fbc := (only_event s b e o d).fbc
@[simp] theorem event_acq (s : State) (b e o d : Nat) : (event s b e o d).acq = s.acq := (only_event s b e o d).acq
@[simp] theorem event_safe (s : State) (b e o d : Nat) : (event s b e o d).safe = s.safe := (only_event s b e o d).safe
@[simp] theorem event_fio (s : State) (b e o d : Nat) : (event s b e o d).fio = s.fio := (only_event s b e o d).fio
@[simp] theorem event_sec (s : State) (b e o d : Nat) : (event s b e o d).sec = s.sec := (only_event s b e o d).sec
@[simp] theorem event_part (s : State) (b e o d : Nat) : (event s b e o d).part = s.part := (only_event s b e o d).part
@[simp] theorem event_evts (s : State) (b e o d : Nat) : (event s b e o d).evts = s.evts := (only_event s b e o d).evts
@[simp] theorem event_free (s : State) (b e o d : Nat) : (event s b e o d).free = s.free := (only_event s b e o d).free

/-- The ring state is the field of RING_STATE and nothing else. -/
theorem ringSt_congr {s t : State} (h : rd t Reg.RING_STATE = rd s Reg.RING_STATE) : ringSt t = ringSt s := by
  simp [ringSt, fld, h]

@[simp] theorem ringSt_event (s : State) (b e o d : Nat) : ringSt (event s b e o d) = ringSt s :=
  ringSt_congr (rd_event s b e o d (by decide))

theorem rd_setRate (s : State) (r : Int) {a : Nat} (h : a ≠ Reg.TIME_RATE_ACTIVE) : rd (setRate s r) a = rd s a :=
  rd_wr_ne _ _ h

theorem rd_syncRate (s : State) {a : Nat} (h : a ≠ Reg.TIME_RATE_ACTIVE) : rd (syncRate s) a = rd s a := by
  unfold syncRate
  split
  · rfl
  · extract_lets
    split
    · rfl
    · exact rd_setRate s _ h

theorem rd_setTimeSt (s : State) (st : Nat) (b : Bool) {a : Nat} (h : a ≠ Reg.TIME_STATE) : rd (setTimeSt s st b) a = rd s a :=
  (rd_wr_ne _ _ h).trans (rd_wr_ne _ _ h)

/-- A register that a takeover of TIME_RATE leaves. -/
def rateFree (a : Nat) : Prop :=
  a ≠ Reg.TIME_RATE_ACTIVE ∧ a ≠ Reg.TIME_RATE ∧ a ≠ Reg.TIME_STATE ∧ reportReg a = false

theorem rd_noteClamp (s : State) (v : Word) {a : Nat} (h : reportReg a = false) : rd (noteClamp s v) a = rd s a := by
  unfold noteClamp; split
  · rfl
  · exact rd_event _ _ _ _ _ h

theorem rd_endHoldover (s : State) {a : Nat} (h : reportReg a = false) (h3 : a ≠ Reg.TIME_STATE) :
    rd (endHoldover s) a = rd s a := by
  unfold endHoldover; split
  · split <;> exact (rd_event _ _ _ _ _ h).trans (rd_setTimeSt _ _ _ h3)
  · rfl

theorem rd_takeRate (s : State) (v : Word) {a : Nat} (h : rateFree a) : rd (takeRate s v) a = rd s a := by
  obtain ⟨h1, h2, h3, h4⟩ := h
  exact (rd_syncRate _ h1).trans ((rd_endHoldover _ h4 h3).trans ((rd_wr_ne _ _ h2).trans (rd_noteClamp _ _ h4)))

theorem rd_releaseRate (s : State) {a : Nat} (h : rateFree a) : rd (releaseRate s) a = rd s a := by
  unfold releaseRate
  split
  · rfl
  · exact rd_takeRate _ _ h

theorem rd_sourceFrom (s : State) (old st : Nat) {a : Nat} (h : rateFree a) : rd (sourceFrom s old st) a = rd s a := by
  unfold sourceFrom; split
  · exact rd_setF_ne _ _ _ _ h.2.2.1
  · split
    · exact (rd_syncRate _ h.1).trans ((rd_releaseRate _ h).trans (rd_setF_ne _ _ _ _ h.2.2.1))
    · exact rd_syncRate _ h.1

@[simp] theorem rd_idleFrom (s : State) (st a : Nat) : rd (idleFrom s st) a = rd s a := by
  unfold idleFrom firstIdle; split
  · split <;> rfl
  · rfl

@[simp] theorem rd_aliveFrom (s : State) (st a : Nat) : rd (aliveFrom s st) a = rd s a := by
  unfold aliveFrom; split <;> rfl

/-- Entering a ring state changes, of the registers in which no event reports, only RING_STATE and those of the time source. -/
theorem rd_enterRing (s : State) (st : Nat) {a : Nat} (h : rateFree a) :
    rd (enterRing s st) a = rd (setF s Reg.RING_STATE 2 0 st) a := by
  rw [enterRing, rd_sourceFrom _ _ _ h, rd_idleFrom, rd_aliveFrom]

theorem rateFree_ringState : rateFree Reg.RING_STATE := ⟨by decide, by decide, by decide, by decide⟩

/-- The ring state after entering one (R93). -/
@[simp] theorem ringSt_enterRing (s : State) (st : Nat) : ringSt (enterRing s st) = st % 8 := by
  rw [ringSt, fld, rd_enterRing s st rateFree_ringState]
  exact fld_setF s Reg.RING_STATE 2 0 st (by decide) (by decide)

@[simp] theorem syncRate_ring (s : State) : (syncRate s).ring = s.ring := by
  unfold syncRate; split
  · rfl
  · extract_lets; split <;> rfl

@[simp] theorem takeRate_ring (s : State) (v : Word) : (takeRate s v).ring = s.ring := by
  have e (s : State) : (endHoldover s).ring = s.ring := by
    unfold endHoldover; split
    · split <;> rw [event_ring] <;> rfl
    · rfl
  have c (s : State) : (noteClamp s v).ring = s.ring := by unfold noteClamp; split <;> simp
  rw [takeRate, syncRate_ring, e]
  exact c s

@[simp] theorem releaseRate_ring (s : State) : (releaseRate s).ring = s.ring := by
  unfold releaseRate; split
  · rfl
  · rw [takeRate_ring]

@[simp] theorem sourceFrom_ring (s : State) (old st : Nat) : (sourceFrom s old st).ring = s.ring := by
  unfold sourceFrom; split
  · rfl
  · split <;> simp

@[simp] theorem idleFrom_ring (s : State) (st : Nat) : (idleFrom s st).ring = s.ring := by
  unfold idleFrom firstIdle; split
  · split <;> rfl
  · rfl

@[simp] theorem aliveFrom_ring (s : State) (st : Nat) : (aliveFrom s st).ring = s.ring := by
  unfold aliveFrom; split <;> rfl

/-- Entering a ring state leaves the ring's own record as it is. -/
@[simp] theorem enterRing_ring (s : State) (st : Nat) : (enterRing s st).ring = s.ring := by
  simp [enterRing]

/-- Sending a frame or a management frame changes what is given out and the sequence number. -/
theorem sendRing_eq (s : State) (p : List Byte) : ∃ o, sendRing s p = { s with out := s.out ++ o } := by
  unfold sendRing
  split
  · exact ⟨_, rfl⟩
  · exact ⟨[], by simp⟩

theorem sendMgmt_eq (s : State) (ft sub : Nat) (body : List Byte) :
    ∃ o, sendMgmt s ft sub body = { s with out := s.out ++ o, ring := { s.ring with mseq := (s.ring.mseq + 1) % 65536 } } := by
  obtain ⟨o, h⟩ := sendRing_eq s (mgmtHeader s ft sub body.length ++ body)
  exact ⟨o, by simp [sendMgmt, ringMod, h]⟩

@[simp] theorem rd_sendMgmt (s : State) (ft sub : Nat) (body : List Byte) (a : Nat) : rd (sendMgmt s ft sub body) a = rd s a := by
  obtain ⟨o, h⟩ := sendMgmt_eq s ft sub body
  rw [h]; rfl

@[simp] theorem ringSt_sendMgmt (s : State) (ft sub : Nat) (body : List Byte) : ringSt (sendMgmt s ft sub body) = ringSt s :=
  ringSt_congr (rd_sendMgmt _ _ _ _ _)

@[simp] theorem ringSt_ringMod (s : State) (f : RingState → RingState) : ringSt (ringMod s f) = ringSt s :=
  ringSt_congr (s := s) (t := ringMod s f) rfl

@[simp] theorem ringSt_setBit (s : State) {a : Nat} (i : Nat) (b : Bool) (h : a ≠ Reg.RING_STATE) :
    ringSt (setBit s a i b) = ringSt s := ringSt_congr (rd_setBit_ne _ _ _ (Ne.symm h))

@[simp] theorem ringSt_setF (s : State) {a : Nat} (hi lo v : Nat) (h : a ≠ Reg.RING_STATE) :
    ringSt (setF s a hi lo v) = ringSt s := ringSt_congr (rd_setF_ne _ _ _ _ (Ne.symm h))

@[simp] theorem ringSt_wr (s : State) {a : Nat} (v : Word) (h : a ≠ Reg.RING_STATE) :
    ringSt (wr s a v) = ringSt s := ringSt_congr (rd_wr_ne _ _ (Ne.symm h))

@[simp] theorem ringSt_bump (s : State) {a : Nat} (n : Nat) (h : a ≠ Reg.RING_STATE) :
    ringSt (bump s a n) = ringSt s := ringSt_congr (rd_bump_ne _ _ (Ne.symm h))

@[simp] theorem ringSt_enterListen (s : State) : ringSt (enterListen s) = 1 := by simp [enterListen]
@[simp] theorem ringSt_withdraw (s : State) (r : Nat) : ringSt (withdraw s r) = 1 := by simp [withdraw]
@[simp] theorem ringSt_enterFollow (s : State) (n : Nat) : ringSt (enterFollow s n) = 3 := by simp [enterFollow]
@[simp] theorem ringSt_enterIntegrate (s : State) : ringSt (enterIntegrate s) = 4 := by simp [enterIntegrate]
@[simp] theorem ringSt_sendClaim (s : State) : ringSt (sendClaim s) = ringSt s := by simp [sendClaim]
@[simp] theorem ringSt_enterClaim (s : State) : ringSt (enterClaim s) = 2 := by simp [enterClaim]

/-- A CLAIM that goes out is counted. -/
theorem sendClaim_claims (s : State) : (sendClaim s).ring.claims = s.ring.claims + 1 := by
  obtain ⟨o, ho⟩ := sendMgmt_eq s 2 0 (leBytes 4 s.ring.cfgHash.toNat ++ leBytes 4 s.ring.claims)
  simp [sendClaim, ringMod, ho]

theorem orient_keep (s : State) : (orient s).ring.integ = s.ring.integ ∧ (orient s).ring.farEnd = s.ring.farEnd := by
  unfold orient
  extract_lets
  split <;> exact ⟨rfl, rfl⟩

/-- Integration begins at discovery, with this head at end 0 (R102, R104). -/
theorem enterIntegrate_ring (s : State) : (enterIntegrate s).ring.integ = 0 ∧ (enterIntegrate s).ring.farEnd = false := by
  unfold enterIntegrate
  simp only [enterRing_ring]
  exact ⟨(orient_keep _).1, (orient_keep _).2⟩

/-- A break is noted with its time (R121). -/
theorem recordBreak_ring (s : State) (m : Nat) : (recordBreak s m).ring = { s.ring with lastMark := some s.raw } := by
  unfold recordBreak
  rw [event_ring]
  simp only [ringMod, wr_ring, setBit_ring, setF_ring, wr_raw, setBit_raw, setF_raw]

theorem ringSt_recordBreak (s : State) (m : Nat) : ringSt (recordBreak s m) = ringSt s := by
  unfold recordBreak
  rw [ringSt_event, ringSt_ringMod, ringSt_wr _ _ (by decide), ringSt_setBit _ _ _ (by decide), ringSt_setF _ _ _ _ (by decide)]

theorem reportBreak_ring (s : State) (m : Nat) :
    (reportBreak s m).ring = { s.ring with breakPos := m, lastMark := some s.raw } := recordBreak_ring _ _

theorem ringSt_reportBreak (s : State) (m : Nat) : ringSt (reportBreak s m) = ringSt s := ringSt_recordBreak _ _

theorem lineBreak_ring (s : State) : (lineBreak s).ring = { s.ring with lineLost := true, lastMark := some s.raw } :=
  recordBreak_ring _ _

theorem ringSt_lineBreak (s : State) : ringSt (lineBreak s) = ringSt s := ringSt_recordBreak _ _

theorem ringSt_leads {s : State} (h : Leads s) : leads s = true := by rcases h with e | e | e <;> simp [leads, e]

end Sys2Proof.Machine
end

