-- ==== Sys2Proof/Laws/Hem.lean ====
section
/-! SUPPORT. What a Hem core does when it issues an instruction that only changes its bank. -/

namespace Sys2Proof.Machine

theorem rd_firstIssue (s : State) (c : Nat) (b : HemBank) {a : Nat} (h : a ≠ Reg.HEM_CORE_LAT_MAX c) :
    rd (firstIssue s c b) a = rd s a := by
  unfold firstIssue; split
  · rfl
  · exact rd_wr_ne _ _ h

/-- Noting the first issue of a task changes one register. -/
theorem firstIssue_keeps (s : State) (c : Nat) (b : HemBank) : (firstIssue s c b).hem = s.hem ∧ (firstIssue s c b).sched = s.sched ∧
    (firstIssue s c b).ring = s.ring ∧ (firstIssue s c b).mem = s.mem := by
  unfold firstIssue; split <;> exact ⟨rfl, rfl, rfl, rfl⟩

@[simp] theorem hemCore_setHemCore (s : State) (c : Nat) (x : HemCore) : hemCore (setHemCore s c x) c = x := by
  simp [hemCore, setHemCore]

theorem hemCore_setHemCore_ne (s : State) {c k : Nat} (x : HemCore) (h : k ≠ c) : hemCore (setHemCore s c x) k = hemCore s k := by
  unfold hemCore setHemCore; exact tget_tput_ne _ _ _ h

/-- A core that no prepared task waits for goes on with its own bank. -/
theorem preempt_alone (h : HemCore) (b : HemBank) (k : h.prepared = false) : preempt (h.setBank b) = h.setBank b := by
  have : (h.setBank b).prepared = false := by unfold HemCore.setBank; split <;> exact k
  simp [preempt, this]

/-- A core issues an instruction whose operation only changes its bank. -/
theorem hemIssue_bank (s : State) (c : Nat) (i : HemInstr) (now : HemBank → HemBank) (h : Issues s c i)
    (h0 : ∀ u, hemOp u c (hemCore s c).bank i = hemOk u (now (hemCore s c).bank)) :
    hemIssue s c i = setHemCore (firstIssue s c (hemCore s c).bank) c
      ((hemCore s c).setBank (moved (hemCore s c).bank (now (hemCore s c).bank))) := by
  obtain ⟨hh, -, -, -⟩ := firstIssue_keeps s c (hemCore s c).bank
  have hc : hemCore (firstIssue s c (hemCore s c).bank) c = hemCore s c := by unfold hemCore; unfold hemCore at hh; rw [hh]
  have twice : ∀ (u : State) (x : HemCore), setHemCore (setHemCore u c x) c x = setHemCore u c x := by
    intro u x; unfold setHemCore; simp only [tput_tput]
  have key : ∀ x, hemIssue s c i = setHemCore (setHemCore (firstIssue s c (hemCore s c).bank) c x) c x →
      hemIssue s c i = setHemCore (firstIssue s c (hemCore s c).bank) c x := fun x e => e.trans (twice _ _)
  apply key
  have clean : hemCorrect s c true (hemCore s c).bank.pc.toNat = s := by simp only [hemCorrect, h.clean, Bool.not_false, if_true]
  simp only [hemIssue, clean, h.woken, h.running, h.good, h.word, h.legal, hemExec, h.slot, h.rep, h0, hemOk, hc, bne_self_eq_false,
    Bool.not_true, Bool.false_eq_true, if_false, Bool.or_self, hemCore_setHemCore, moved, preempt_alone _ _ h.alone, Nat.add_zero]

/-- An instruction whose operation only changes its bank completes. -/
theorem hem_completes (s : State) (c : Fin 16) (i : HemInstr) (ins : Instr) (now : HemBank → HemBank) (h : Issues s c i)
    (e : exec ins s = runQuiet (awake fun s => hemIssue s c i) s)
    (h0 : ∀ u, hemOp u c (hemCore s c).bank i = hemOk u (now (hemCore s c).bank)) : HemCompletes s c ins now := by
  obtain ⟨hh, hs, hg, -⟩ := firstIssue_keeps s c (hemCore s c).bank
  refine completes_quiet e h.awake ?_
  rw [hemIssue_bank s c i now h h0]
  refine ⟨?_, rfl, hs, hg, fun a ha => rd_firstIssue s c _ ha⟩
  simp only [setHemCore, hh]

end Sys2Proof.Machine
end

