-- ==== Sys2Proof/Laws/Host.lean ====
section
/-! SUPPORT. What waits in the host interface, and how a request that comes next in its flow is taken and answered. -/

namespace Sys2Proof.Machine

theorem legacyDrop_idle {s : State} (h : s.mbx.legacyMode = false) : legacyDrop s = s := by
  unfold legacyDrop
  have : ∀ (l : List Nat) (t : State), t.mbx.legacyMode = false → l.foldl (fun s q =>
      if s.mbx.legacyMode && fbit s (Reg.MBXQ_STAT q) 0 then setLegacy s q { legacy s q with h2d := [], msg := [] } else s) t = t := by
    intro l
    induction l with
    | nil => intro t _; rfl
    | cons a l ih => intro t ht; simp only [List.foldl_cons, ht, Bool.false_and]; exact ih t ht
  exact this _ s h

theorem pumpN_idle {s : State} (n : Nat) (h : s.host.queued = []) (k : s.mbx.legacyMode = false) : pumpN n s = s := by
  cases n with
  | zero => rfl
  | succ n =>
    have e : ((List.finRange 8).find? fun q => legacyIdle s q.val && !(legacy s q.val).h2d.isEmpty) = none := by
      simp [List.find?_eq_none, legacyIdle, k]
    unfold pumpN
    rw [h]
    simp only [firstFree]
    rw [e]

theorem pump_idle {s : State} (h : s.host.queued = []) (k : s.mbx.legacyMode = false) : pump s = s := by
  unfold pump
  simp only [legacyDrop_idle k]
  exact pumpN_idle _ h k

theorem runOrHold_free {s : State} (op : Nat) (q : Req) (h : s.host.waiting = []) (k : s.host.queued = []) :
    runOrHold s op q = execRequest s op q := by
  simp [runOrHold, heldBack, h, k]

theorem take_request {s : State} {q : Req} (op : Nat) (h : Requests s q) (ho : (∀ l, q.ep ≠ .legacy l) ∨ (op ≠ 1 ∧ op ≠ 2)) :
    takeRequest s op q = pump (hostOp (accepted s q) (waitingOf s op q) q.payload) := by
  have h1 : s.sec.inReset = false := h.awake
  have h2 := h.flow
  unfold takeRequest
  rw [h1]
  simp only [Bool.false_eq_true, if_false]
  congr 1
  have own (hn : q.flow.toNat < 240) (hl : ∀ l, q.ep ≠ .legacy l) (h3 : (flow s q.flow.toNat).owner = some q.ep)
      (h4 : (flow s q.flow.toNat).expected = q.seq) :
      enterRequest s op q = hostOp (accepted s q) (waitingOf s op q) q.payload := by
    have e : flowOwner s q.flow.toNat = some q.ep := by rw [flowOwner, if_neg (by simp; omega)]; exact h3
    have el : (match q.ep with | .legacy _ => true | _ => false) = false := by
      cases hq : q.ep <;> simp; exact hl _ hq
    unfold enterRequest
    simp only [e, if_neg (show ¬ 248 ≤ q.flow.toNat by omega), if_neg (show ¬ 240 ≤ q.flow.toNat by omega),
      Bool.false_eq_true, if_false, beq_self_eq_true, if_true]
    unfold sequenced
    simp only [waitingOf, h4, BitVec.sub_self]
    have z : ((0#32).toNat == 0) = true := rfl
    rw [z]
    simp only [if_true]
    rw [runOrHold_free]
    · unfold execRequest accepted
      cases hq : q.ep with
      | legacy l => exact absurd hq (hl l)
      | ring r => simp [setFlow, hostMod, waitingOf, hq]
      | udp a b c => simp [setFlow, hostMod, waitingOf, hq]
    · simpa [setFlow, hostMod] using h.alone
    · simpa [setFlow, hostMod] using h.quiet.1
  cases e : q.ep with
  | legacy l =>
    rw [e] at h2
    simp only [] at h2
    have := l.isLt
    rcases ho with ho | ho
    · exact absurd e (ho l)
    · unfold enterRequest
      have n1 : ¬ 248 ≤ q.flow.toNat := by omega
      have n2 : 240 ≤ q.flow.toNat := by omega
      have n3 : (⟨(q.flow.toNat - 240) % 8, Nat.mod_lt _ (by decide)⟩ : Fin 8) = l := by ext; simp; omega
      simp only [n1, n2, if_false, if_true, n3, e, bne_self_eq_false, Bool.false_or]
      rw [if_neg (by simp [ho.1, ho.2]), runOrHold_free op q h.alone h.quiet.1]
      simp [execRequest, accepted, e, hostMod, waitingOf]
  | ring r => rw [e] at h2; exact own h2.1 (by simp [e]) (by simpa [e] using h2.2.1) h2.2.2
  | udp a b c => rw [e] at h2; exact own h2.1 (by simp [e]) (by simpa [e] using h2.2.1) h2.2.2
/-- What waits in the host interface is the same in two states. -/
def SameWork (s t : State) : Prop :=
  t.host.queued = s.host.queued ∧ t.host.waiting = s.host.waiting ∧ t.mbx.legacyMode = s.mbx.legacyMode ∧
    t.pending = s.pending

theorem SameWork.refl (s : State) : SameWork s s := ⟨rfl, rfl, rfl, rfl⟩
theorem SameWork.trans {s t u : State} (h : SameWork s t) (k : SameWork t u) : SameWork s u :=
  ⟨k.1.trans h.1, k.2.1.trans h.2.1, k.2.2.1.trans h.2.2.1, k.2.2.2.trans h.2.2.2⟩

theorem work_of_reports {s t : State} (h : OnlyReports s t) : SameWork s t := by
  refine ⟨?_, ?_, by rw [h.mbx], h.pending⟩ <;> rw [h.flows]

theorem work_fold {α : Type} (f : State → α → State) (hf : ∀ s a, SameWork s (f s a)) (l : List α) (s : State) :
    SameWork s (l.foldl f s) := by
  induction l generalizing s with
  | nil => exact SameWork.refl s
  | cons a l ih => exact (hf s a).trans (ih _)

theorem work_freeFlows (s : State) (p : Endpoint → Bool) : SameWork s (freeFlows s p) :=
  work_fold (fun s (e : Nat × Flow) => freeFlow s e.1) (fun _ _ => ⟨rfl, rfl, rfl, rfl⟩) _ _

theorem work_ringDone (s : State) (r : Fin 8) : SameWork s (ringDone s r) := by
  unfold ringDone
  extract_lets n t
  have h : SameWork s t := ⟨rfl, rfl, rfl, rfl⟩
  split
  · exact h.trans (SameWork.trans ⟨rfl, rfl, rfl, rfl⟩ (work_freeFlows _ _))
  · exact h

theorem work_emit (s : State) (o : Out) : SameWork s (emit s o) := ⟨rfl, rfl, rfl, rfl⟩
theorem work_wr (s : State) (a : Nat) (v : Word) : SameWork s (wr s a v) := ⟨rfl, rfl, rfl, rfl⟩

theorem work_cqWrite (s : State) (r : Nat) (e : Nat × List Byte × List Byte) : SameWork s (cqWrite s r e) := by
  have h : SameWork s (if e.2.1.isEmpty then s else emit s (.hostMem e.1 e.2.1)) := by
    split
    · exact SameWork.refl s
    · exact work_emit s _
  exact h.trans ((work_emit _ _).trans ((work_wr _ _ _).trans (work_of_reports ((only_rings _ _ _).trans (only_signalRing _ _ _)))))

theorem work_cqPost (s : State) (r : Nat) (e : Nat × List Byte × List Byte) : SameWork s (cqPost s r e) := by
  unfold cqPost
  extract_lets x t
  have h : SameWork s t := ⟨rfl, rfl, rfl, rfl⟩
  split
  · exact work_cqWrite s r e
  · split
    · exact h
    · exact h.trans (work_of_reports (only_event _ _ _ _ _))

theorem work_deliver (s : State) (w : Waiting) (st : Nat) (m : List Byte) : SameWork s (deliver s w st m) := by
  unfold deliver
  split
  · exact (work_cqPost s _ _).trans (work_ringDone _ _)
  · exact ⟨rfl, rfl, rfl, rfl⟩
  · unfold queueFill queueRefill queueIrq
    extract_lets
    split <;> exact ⟨rfl, rfl, rfl, rfl⟩

/-- An answer leaves what waits. -/
theorem work_finish (s : State) (w : Waiting) (st : Nat) (p : List Byte) : SameWork s (finish s w st p) := by
  unfold finish
  extract_lets r x t
  refine SameWork.trans ?_ (work_deliver _ _ _ _)
  show SameWork s (if _ then _ else _)
  split
  · exact ⟨rfl, rfl, rfl, rfl⟩
  · exact SameWork.refl s

/-- A request whose meaning answers it at once. -/
theorem replies_of {i : Instr} {s u : State} {q : Req} {op st : Nat} {p : List Byte} {P : State → Prop}
    (e : exec i s = run (fun s => takeRequest s op q) s) (h : Requests s q) (ho : (∀ l, q.ep ≠ .legacy l) ∨ (op ≠ 1 ∧ op ≠ 2))
    (k : hostOp (accepted s q) (waitingOf s op q) q.payload = finish u (waitingOf s op q) st p) (hw : SameWork (accepted s q) u)
    (hP : P u) : Replies i s q op st p P := by
  refine ⟨u, ?_, hP⟩
  have ha : SameWork s (accepted s q) := by unfold accepted; cases q.ep <;> exact ⟨rfl, rfl, rfl, rfl⟩
  have hf := ha.trans (hw.trans (work_finish u (waitingOf s op q) st p))
  rw [e, run_eq, take_request op h ho, k, pump_idle (hf.1.trans h.quiet.1) (hf.2.2.1.trans h.quiet.2), ← hf.2.2.2]


end Sys2Proof.Machine
end

