-- ==== Sys2Proof/Laws/Map.lean ====
section
/-! SUPPORT. Where a register stands in the map, for registers of many indices. -/

namespace Sys2Proof.Machine

/-- A row does not cover an offset beyond its last register. -/
theorem findRow_skip {r : RegRow} {rs : List RegRow} {o : Nat} (h : r.off + r.s1 * (r.n1 - 1) + r.s2 * (r.n2 - 1) < o)
    (h1 : 1 ≤ r.n1) (h2 : 1 ≤ r.n2) : findRow (r :: rs) o = findRow rs o := by
  have : r.index? o = none := by
    unfold RegRow.index?
    rw [if_neg (by omega)]
    extract_lets d i e j
    rw [if_neg]
    intro hc
    simp only [Bool.and_eq_true, decide_eq_true_eq, beq_iff_eq] at hc
    obtain ⟨⟨hi, hj⟩, he⟩ := hc
    have a1 : r.s1 * i ≤ r.s1 * (r.n1 - 1) := Nat.mul_le_mul_left _ (by omega)
    have a2 : r.s2 * j ≤ r.s2 * (r.n2 - 1) := Nat.mul_le_mul_left _ (by omega)
    have : r.s1 * i ≤ d := by
      by_cases h0 : r.s1 = 0
      · simp [h0]
      · simp [i, h0]; exact Nat.mul_div_le _ _
    omega
  simp [findRow, this]

/-- The words of a task's descriptor (R299). -/
theorem regAt_desc (t w : Nat) (ht : t < 1024) (hw : w < 8) :
    regAt (Reg.SCHED_TASK_DESC t w) = some (⟨0x10000, 0x20, 1024, 0x4, 8, .rw, 0x00000000, 0x0, 0xFFFFFFFF⟩, t, w) := by
  have e1 : Reg.SCHED_TASK_DESC t w % 0x100000 = 0x10000 + 0x20 * t + 4 * w := by unfold Reg.SCHED_TASK_DESC; omega
  have e2 : (Reg.SCHED_TASK_DESC t w - 0x20000000) / 0x100000 = 6 := by unfold Reg.SCHED_TASK_DESC; omega
  unfold regAt
  simp only [e1, e2]
  rw [if_neg (by unfold Reg.SCHED_TASK_DESC; simp <;> omega), if_neg (by simp <;> omega)]
  simp only [rowsOf, rowsSched]
  iterate 17 rw [findRow_skip (by simp <;> omega) (by simp) (by simp)]
  have hi : (RegRow.mk 0x10000 0x20 1024 0x4 8 .rw 0x00000000 0x0 0xFFFFFFFF).index? (0x10000 + 0x20 * t + 4 * w) = some (t, w) := by
    unfold RegRow.index?
    have q1 : 0x10000 + 0x20 * t + 4 * w - 0x10000 = 32 * t + 4 * w := by omega
    have q2 : (32 * t + 4 * w) / 32 = t := by omega
    have q3 : 32 * t + 4 * w - 32 * t = 4 * w := by omega
    have q4 : 4 * w / 4 = w := by omega
    simp [q1, q2, q3, q4, ht, hw] <;> omega
  unfold findRow
  rw [hi]

end Sys2Proof.Machine
end

