-- ==== Sys2Proof/Tests/Slice0.lean ====
section
/-! SUPPORT. Tests: ill-formed commands are refused by the well-formedness check, words of the Hem cores written out from the encoding
tables decode as they should, worked examples of spec/, and for the hypotheses of every statement states and operands that meet
them. -/

namespace Sys2Proof.Tests
open Sys2Proof Sys2Proof.Machine

set_option Elab.async false

/-! ### Deciding the hypotheses -/

/-- Whether a write reaches its register. -/
def reachesB (s : State) (port : Port) (a : Nat) (v : Word) : Bool :=
  !s.sec.inReset && (!s.twin.pair || !journaled s a) && (port != .debug || s.pwr.debugLevel == 2) &&
    !s.flt.resetting.contains (blockOf a) && !blockOff s (blockOf a) &&
    (match regAt a with
    | none => true
    | some (r, i, _) => (holdFlags (blockOf a) r i v).all (fun f => !fbit s f.1 f.2) &&
        !(blockOf a == LOOP && r.off == 0x10000 && s.loop.swapHeld.contains i))

theorem reaches_iff (s : State) (port : Port) (a : Nat) (v : Word) : Reaches s port a v ↔ reachesB s port a v = true := by
  unfold reachesB
  constructor
  · intro ⟨h1, h2, h3, h4, h5, h6, h7⟩
    unfold Awake at h1
    have e : (match regAt a with
        | none => true
        | some (r, i, _) => (holdFlags (blockOf a) r i v).all (fun f => !fbit s f.1 f.2) &&
            !(blockOf a == LOOP && r.off == 0x10000 && s.loop.swapHeld.contains i)) = true := by
      split
      · rfl
      · rename_i r i j hr; rw [h6 r i j hr, h7 r i j hr]; rfl
    rw [e, h1, h4, h5]
    cases hp : s.twin.pair
    · cases port <;> simp_all
    · cases port <;> simp_all
  · intro h
    simp only [Bool.and_eq_true, Bool.or_eq_true, Bool.not_eq_true', bne_iff_ne, beq_iff_eq] at h
    obtain ⟨⟨⟨⟨⟨h1, h2⟩, h3⟩, h4⟩, h5⟩, h6⟩ := h
    refine ⟨h1, fun hp => ?_, fun hp => ?_, h4, h5, fun r i j hr => ?_, fun r i j hr => ?_⟩
    · rcases h2 with h2 | h2
      · rw [hp] at h2; cases h2
      · exact h2
    · rcases h3 with h3 | h3
      · exact absurd hp h3
      · exact h3
    · rw [hr] at h6; exact (Bool.and_eq_true_iff.mp h6).1
    · rw [hr] at h6; exact (Bool.not_eq_true' _).mp (Bool.and_eq_true_iff.mp h6).2

/-- Whether a read reaches its register. -/
def readableB (s : State) (port : Port) (a : Nat) : Bool :=
  !s.sec.inReset && (port != .debug || s.pwr.debugLevel != 0) && !s.flt.resetting.contains (blockOf a) && !blockOff s (blockOf a)

theorem readable_iff (s : State) (port : Port) (a : Nat) : Readable s port a ↔ readableB s port a = true := by
  unfold readableB
  constructor
  · intro ⟨h1, h2, h3, h4⟩
    unfold Awake at h1
    rw [h1, h3, h4]
    cases port <;> simp_all
  · intro h
    simp only [Bool.and_eq_true, Bool.or_eq_true, Bool.not_eq_true', bne_iff_ne] at h
    obtain ⟨⟨⟨h1, h2⟩, h3⟩, h4⟩ := h
    exact ⟨h1, fun hp => h2.resolve_left fun k => k hp, h3, h4⟩

/-- Whether a request is the next of its flow, in host recovery or not. -/
def requestsB (s : State) (q : Req) (recovery : Bool := false) : Bool :=
  !s.sec.inReset && ((fld s Reg.SEC_STATUS 2 0 == 5) == recovery) && s.host.queued.isEmpty && !s.mbx.legacyMode && s.host.waiting.isEmpty &&
    match q.ep with
    | .legacy l => q.flow.toNat == 240 + l.val
    | _ => decide (q.flow.toNat < 240) && ((flow s q.flow.toNat).owner == some q.ep) && ((flow s q.flow.toNat).expected == q.seq)

theorem requests_of {s : State} {q : Req} {recovery : Bool} (h : requestsB s q recovery = true) : Requests s q recovery := by
  unfold requestsB at h
  simp only [Bool.and_eq_true, Bool.not_eq_true', List.isEmpty_iff] at h
  obtain ⟨⟨⟨⟨⟨h1, h0⟩, h2⟩, h3⟩, h4⟩, h5⟩ := h
  refine ⟨h1, eq_of_beq h0, ⟨h2, h3⟩, h4, ?_⟩
  cases e : q.ep <;> rw [e] at h5 <;> simp_all

/-! ### The cycle and the ring -/

/-- A head in a ring state. -/
def ringIn (st : Nat) : State := wr State.reset Reg.RING_STATE (word st)

/-- A management frame of another head with a good header and a body. -/
def mgmt (ft sub : Nat) (body : List Byte) : List Byte :=
  let h := [BitVec.ofNat 8 ft, 0x10, BitVec.ofNat 8 sub, 0] ++ leBytes 8 7 ++ zeros 4
  h ++ zeros 2 ++ leBytes 2 (crc16 h) ++ body

/-- A ring frame without its FCS. -/
def ringFrame (payload : List Byte) : List Byte := ringDest ++ zeros 6 ++ [0x88, 0xB5] ++ payload

/-- A head in a ring state at a raw time. -/
def ringAt (st raw : Nat) : State := { ringIn st with raw := raw }
/-- A head in IDLE whose shuttle is away. -/
def launchedRing : State := ringMod (ringIn 5) fun r => { r with launched := true, returned := false }
/-- A head whose sleeping regions have their leave to wake. -/
def wakingHead : State :=
  { State.reset with
    cyc := { State.reset.cyc with wakePending := true }
    pwr := { State.reset.pwr with off := [.mot, .hem], granted := [⟨256, 1, 0, 0, 1, 0⟩, ⟨257, 1, 0, 0, 1, 0⟩] } }
def breakRing : State :=
  { ringMod (ringIn 5) fun r => { r with breakPos := 3, lastMark := some 0, startCfg := 16 } with raw := 100000000 }

theorem wit_step : ({ State.reset with pending := [.latchInstant] } : State).pending = .latchInstant :: [] := rfl
theorem wit_idle : State.reset.pending = [] ∧ Awake State.reset ∧ ({ State.reset with sec := { inReset := true } } : State).sec.inReset = true :=
  ⟨rfl, rfl, rfl⟩
theorem wit_memory : State.reset.mem.wf = true ∧ ∃ t, step State.reset = .next t := ⟨by decide, _, rfl⟩
theorem wit_quiet : mayStore .laneWake = false ∧ ∃ t, exec .laneWake State.reset = .next t := ⟨rfl, _, rfl⟩
theorem wit_cycle :
    (Awake (ringAt 6 300) ∧ laneWakeTime (ringAt 6 300) ≤ mtime (ringAt 6 300)) ∧
    nextLatch (ringAt 6 999800) ≤ mtime (ringAt 6 999800) + 200 * nsU ∧
    (Awake wakingHead ∧ wakingHead.cyc.wakePending = true ∧ wakeGranted wakingHead = true) ∧
    (Leads (ringAt 4 500) ∧ Leads (ringAt 6 500) ∧ (ringAt 4 500).ring.launched = false ∧
      (ringAt 4 500).flt.resetting.contains RING = false ∧ leadTime (ringAt 4 500) ≤ mtime (ringAt 4 500)) ∧
    (Awake launchedRing ∧ Leads launchedRing ∧ launchedRing.ring.launched = true ∧ launchedRing.ring.returned = false ∧
      mtime { launchedRing with raw := 1500 } ≤ returnDeadline { launchedRing with raw := 1500 } ∧
      returnDeadline { launchedRing with raw := 1501 } < mtime { launchedRing with raw := 1501 }) ∧
    (ringSt (ringIn 3) = 3 ∧ slice (ringFrame [1]) 0 6 = ringDest ∧ beField (ringFrame [1]) 12 2 = 0x88B5 ∧
      byteAt (ringFrame [1]) 14 = 1) ∧ chipSafe State.reset = false := by
  simp only [Awake, Leads]; decide +kernel
theorem wit_ring_start :
    (ringSt State.reset = 0 ∧ ({ State.reset with sec := { applied := true } } : State).sec.applied = true ∧
      State.reset.ring.lineFound = false ∧
      (let s := ringMod State.reset fun r => { r with lineFound := true, lineB := true }
       ∃ port, s.ring.lineFound = true → port = s.ring.lineB)) ∧
    (∀ st, 1 ≤ st → st ≤ 6 → (ringMod (ringIn st) fun r => { r with lineFound := true }).ring.lineFound = true ∧
      ringSt (ringMod (ringIn st) fun r => { r with lineFound := true }) = st) ∧ Leads (ringIn 5) ∧
    (ringSt (ringAt 1 20000000) = 1 ∧ listenNs (ringAt 1 20000000) ≤ (ringAt 1 20000000).raw - (ringAt 1 20000000).ring.listenRaw) ∧
    (ringSt (ringAt 2 250000) = 2 ∧ 250000 ≤ (ringAt 2 250000).raw - (ringAt 2 250000).ring.claimRaw ∧
      chipSafe (ringAt 2 250000) = false ∧ 2000000 ≤ (ringAt 2 2000000).raw - (ringAt 2 2000000).ring.claimFirst) ∧
    (mgmtOk (ringIn 1) (mgmt 2 0 (zeros 4)) = true ∧
      field (mgmtBody (mgmt 2 0 (zeros 4))) 0 4 = (ringIn 1).ring.cfgHash.toNat) ∧
    (mgmtOk (ringIn 2) (mgmt 2 0 (zeros 4)) = true ∧ superior (byteAt (mgmt 2 0 (zeros 4)) 3 % 8) (field (mgmt 2 0 (zeros 4)) 4 8)
      7 (serial (ringIn 2)) = true ∧ rank { ringIn 2 with ring := { rankPins := 7 } } = 7) ∧
    (mgmtOk (ringIn 3) (mgmt 3 3 []) = true ∧ field (mgmt 3 3 []) 4 8 % 2 ^ 32 =
      (ringMod (ringIn 3) fun r => { r with leader := 7 }).ring.leader.toNat % 2 ^ 32) ∧
    ((ringMod (ringIn 4) fun r => { r with mustWithdraw := true }).ring.mustWithdraw = true ∧ anyEnabled (ringIn 4) = false) ∧
    (ringSt (ringAt 3 20000000) = 3 ∧ listenNs (ringAt 3 20000000) ≤ (ringAt 3 20000000).raw - (ringAt 3 20000000).ring.heardRaw) := by
  unfold Leads
  refine ⟨⟨by decide +kernel, rfl, rfl, true, fun _ => rfl⟩, fun st h1 h2 => ⟨rfl, ?_⟩, by decide +kernel, by decide +kernel,
    by decide +kernel, by decide +kernel, by decide +kernel, by decide +kernel, by decide +kernel, by decide +kernel⟩
  have c : st = 1 ∨ st = 2 ∨ st = 3 ∨ st = 4 ∨ st = 5 ∨ st = 6 := by omega
  rcases c with rfl | rfl | rfl | rfl | rfl | rfl <;> decide +kernel
theorem wit_ring :
    (Reaches State.reset .pcie Reg.SYS_BASTE_COMMIT 1 ∧ 80 ≤ fld State.reset Reg.SYS_CYCLE_PERIOD 12 0 ∧
      fld State.reset Reg.SYS_CYCLE_PERIOD 12 0 ≤ 8000 ∧ anyEnabled State.reset = false ∧
      cycleValid State.reset (fld State.reset Reg.SYS_CYCLE_PERIOD 12 0) = true) ∧
    (Reaches State.reset (.fw 3) Reg.RING_BASTE_COMMIT 1 ∧ 1 ≤ fld State.reset Reg.RING_AGE_CFG 2 0 ∧
      fld State.reset Reg.RING_AGE_CFG 2 0 ≤ 6 ∧ fld State.reset Reg.RING_SVC_CFG 15 0 ≠ 0) ∧
    Reaches State.reset .proto Reg.RING_XT_OUT 0xFFFFFFFF ∧ (freeSlot State.reset = some 0 ∧ slotFor State.reset 126 = none) ∧
    (slotFor State.reset broadcast = none ∧ broadcastable 5 = true) := by
  simp only [reaches_iff]; decide +kernel
theorem wit_service_timeout :
    let s := setSlot (wr State.reset Reg.RING_SVC_CFG 0) 15 { req := some ⟨1, 1, 0, [], .firmware⟩, sent := true, awaits := 1000 }
    (slot s (15 : Fin 16)).req.isSome = true ∧ (slot s (15 : Fin 16)).sent = true ∧
      actF s Reg.RING_SVC_CFG 15 0 ≤ (slot s (15 : Fin 16)).awaits := by decide +kernel
theorem wit_integration :
    let f := zeros 4 ++ leBytes 8 (serial (ringIn 4))
    (ringSt (ringIn 4) = 4 ∧ field f 4 8 = serial (ringIn 4) ∧ (ringIn 4).ring.integ ≤ 3 ∧ (ringIn 4).ring.enums.length < 3) ∧
    ((ringIn 4).ring.delaySets.length < 15 ∧
      delayEntries (ringIn 4).ring.agreedN (ringIn 4).ring.agreedTwin 5 f = some [(0, 5, 0, 0)]) ∧
    4096 ≤ (ringMod (ringIn 4) fun r => { r with integCycles := 4096 }).ring.integCycles ∧
    (let s := ringMod (ringIn 4) fun r => { r with mismatch := true, integCycles := 1030, enumAt := 6 }
     ringSt s = 4 ∧ s.ring.mismatch = true ∧ 1024 ≤ s.ring.integCycles - s.ring.enumAt) := by decide +kernel
theorem wit_ring_ctrl :
    (Reaches breakRing .pcie Reg.RING_CTRL 1 ∧ fbit breakRing Reg.RING_CTRL_STATUS 0 = false ∧
      (ringSt breakRing = 5 ∨ ringSt breakRing = 6) ∧ breakRing.ring.breakPos ≠ 0 ∧ twinSt breakRing ≠ 5 ∧
      breakRing.ring.lineLost = false ∧ breakRing.ring.lockRaw + 10000000 ≤ breakRing.raw) ∧
    (breakRing.ring.lastMark = some 0 ∧ 0 + 100000000 ≤ breakRing.raw ∧ wbit breakRing.ring.startCfg 4 = true) ∧
    (Reaches breakRing .debug Reg.RING_CTRL 2 ∨ Reaches breakRing .pcie Reg.RING_CTRL 2) ∧ (holders breakRing).all (compat 4) = true ∧
    (let s := ringMod { breakRing with cyc := { count := 4096 } } fun r => { r with recal := some { start := 0 } }
     s.ring.recal = some { start := 0 } ∧ 4096 ≤ (s.cyc.count - 0).toNat) ∧
    (Reaches breakRing .pcie Reg.RING_CTRL 4 ∧ anyEnabled breakRing = false) := by
  simp only [reaches_iff]; decide +kernel
theorem wit_enumerate_request : mgmtOk State.reset (mgmt 3 0 (zeros 3072)) = true ∧ leads State.reset = false ∧
    byteAt (mgmt 3 0 (zeros 3072)) 0 = 3 ∧ byteAt (mgmt 3 0 (zeros 3072)) 2 = 0 ∧ 3092 ≤ (mgmt 3 0 (zeros 3072)).length ∧
    chipSafe State.reset = false := by decide +kernel

/-! ### Machine time -/

/-- An Ethernet frame that carries a PTP message of a type. -/
def ptpFrame (type : Nat) : List Byte := zeros 12 ++ [0x88, 0xF7, BitVec.ofNat 8 type] ++ zeros 43

theorem wit_rate : (Reaches State.reset .pcie Reg.TIME_RATE 0x80000000 ∧ ringSt State.reset ≠ 3) ∧
    (Reaches (ringIn 3) .pcie Reg.TIME_RATE 0x7FFFFFFF ∧ ringSt (ringIn 3) = 3) ∧
    (let s := { wr (ringIn 6) Reg.TIME_RATE 1 with raw := 1000000000 }
     Awake s ∧ ringSt s = 6 ∧ timeSt s ≠ 3 ∧ s.time.slewRaw + 1000000000 ≤ s.raw * 2147 ∧
       (rd s Reg.TIME_RATE_ACTIVE).toInt < (rd s Reg.TIME_RATE).toInt) := by
  simp only [Awake, reaches_iff]; decide +kernel
theorem wit_time_commit : (Reaches State.reset .pcie Reg.TIME_BASTE_COMMIT 1 ∧ timeCommitResult State.reset = 1) ∧
    (let s := { wr State.reset Reg.TIME_BASTE_STATUS 1 with raw := 1000 }
     ringSt s ≠ 3 ∧ leads s = false ∧ fbit s Reg.TIME_BASTE_STATUS 0 = true ∧ s.time.commitRaw + 1000 ≤ s.raw) ∧
    Reaches State.reset .proto Reg.TIME_CTRL 1 ∧
    (let s := wr State.reset Reg.TIME_STATE 2
     Reaches s .pcie Reg.TIME_CTRL 2 ∧ timeSt s = 2) ∧
    (let s := { wr State.reset Reg.TIME_STATE 0x12 with raw := 3000000000 }
     timeSt s = 2 ∧ fld s Reg.TIME_STATE 5 4 = 1 ∧ s.time.rateRaw + actF s Reg.TIME_SRC_CFG 11 4 * 100000000 ≤ s.raw) ∧
    (let s := setDom State.reset 0 { base := 4 * nsU + 1 }
     s.time.main.read s.raw + 4 * nsU < (domc s 0).read s.raw) ∧
    Reaches State.reset .pcie (Reg.TIME_DOM_STEP_HI 3) 0x80000000 := by
  simp only [reaches_iff]; decide +kernel
theorem wit_ptp : (∀ type ∈ [0, 1, 3, 11], ptpAt (ptpFrame type) = some (14, none) ∧ byteAt (ptpFrame type) 14 % 16 = type ∧
      byteAt (ptpFrame type) (14 + 4) = actF State.reset Reg.TIME_PTP_CFG 15 8) ∧
    actF State.reset Reg.TIME_PTP_CFG 1 0 = 1 ∧ actF State.reset Reg.TIME_PTP_CFG 4 4 = 1 ∧
    fbit (wr State.reset Reg.TIME_STATE 0x40) Reg.TIME_STATE 6 = true ∧ fbit State.reset Reg.TIME_STATE 6 = false ∧
    txBlocked State.reset 0 = false ∧ txBlocked State.reset 1 = false ∧ ptpTakes State.reset 1 true = true ∧
    ptpTakes (setAct State.reset Reg.TIME_PTP_CFG 0xA) 1 false = true := by decide +kernel
theorem wit_timed :
    let s : State := { setTq State.reset 1 1 [{ time := 7 * nsU, frame := zeros 60 }] with raw := 7 }
    tqueue s 1 1 = [{ time := 7 * nsU, frame := zeros 60 }] ∧ NoRequests s ∧ 7 * nsU ≤ mtime s ∧ mtime s ≤ 7 * nsU + 1000 * nsU ∧
      goesFirst s 1 1 { time := 7 * nsU, frame := zeros 60 } = false ∧ heldTx s 1 = [] := by
  simp only [NoRequests]; decide +kernel
theorem wit_sync_pins :
    (let s := setAct (ringIn 5) Reg.TIME_SYNC_CFG 0x00010102
     leads s = true ∧ chipSafe s = false ∧ actF s Reg.TIME_SYNC_CFG 1 0 = 2 ∧ s.time.syncEdge ≠ some (secOf (mtime s) * secU)) ∧
    (let s := setAct (ringIn 5) Reg.TIME_SYNC_CFG 0x00020101
     leads s = true ∧ chipSafe s = false ∧ actF s Reg.TIME_SYNC_CFG 1 0 = 1 ∧ actF s Reg.TIME_SYNC_CFG 31 16 ≠ 0 ∧
       s.cyc.count.toNat % actF s Reg.TIME_SYNC_CFG 31 16 = 0 ∧ s.raw = s.cyc.instant ∧ s.time.syncEdge ≠ some s.cyc.latch ∧
       actF s Reg.TIME_SYNC_CFG 15 8 * 8 < actF s Reg.TIME_SYNC_CFG 31 16 * cycleNs s) ∧
    actF (setAct State.reset Reg.TIME_SYNC_CFG 4) Reg.TIME_SYNC_CFG 3 2 = 1 ∧
    (let s := wr (setAct (setAct State.reset Reg.TIME_SYNC_CFG 8) Reg.TIME_SRC_CFG 2) Reg.TIME_STATE 0x22
     actF s Reg.TIME_SYNC_CFG 3 2 = 2 ∧ actF s Reg.TIME_SRC_CFG 1 0 = 2 ∧ fld s Reg.TIME_STATE 5 4 = 2 ∧ timeSt s = 2) := by
  decide +kernel

/-! ### The profile engine -/

theorem wit_motion : CommandFree State.reset .proto ∧ blockOff State.reset PROF = false :=
  ⟨⟨rfl, rfl, nofun, by decide, by decide⟩, by decide⟩
theorem wit_profile : Reaches State.reset .pcie Reg.PROF_BASTE_COMMIT (commitWord 0xFF true) ∧
    Reaches State.reset .pcie Reg.PROF_BASTE_COMMIT (loadWord 0xFF) := by
  simp only [reaches_iff]; decide +kernel
theorem wit_phase :
    let s := setSlot State.reset 15 { req := some ⟨1, 1, 0, [], .phase 255⟩, sent := true }
    (slot s 15).req = some ⟨1, 1, 0, [], .phase 255⟩ ∧ (slot s 15).sent = true ∧ s.ring.done = [] ∧
      ∀ j, j < 15 → (slot s j).req = none := by decide +kernel
theorem wit_homing :
    let s : State := { State.reset with raw := 7000000, sec := { State.reset.sec with
      homing := [(255, zeros 4 ++ zeros 20 ++ leBytes 4 5)], running := [(255, { issued := true, since := 2000000 })] } }
    s.sec.running.find? (fun e => e.1 == 255) = some (255, { issued := true, since := 2000000 }) ∧
      homingStep (tget (fun _ => []) s.sec.homing 255) 0 = some (zeros 20 ++ leBytes 4 5) ∧
      2000000 + field (zeros 20 ++ leBytes 4 5) 20 4 * 1000000 ≤ s.raw := by decide +kernel

/-! ### The loop engine -/

/-- An axis of a configuration whose lane is free and awake. -/
def laneHead (a : Nat) (on : Bool) : State :=
  let s := setAxis (ringMod (ringIn 6) fun r => { r with launched := true, waiting := [a], sections := [{ axes := [a] }] }) a
    { mode := if on then 1 else 0 }
  { s with
    loop := { s.loop with bank0 := [(128 * a, 3)] }
    cyc := { s.cyc with lanesAwake := true } }
/-- A direct write of the last word of a record that lands before or behind the burst that reads it. -/
def lateWrite (before : Fin 5) : CoefWrite := ⟨before, .pcie, 255, 127, 5⟩

theorem wit_loop_sample : (let s := laneHead 255 false
     s.ring.late = [] ∧ s.ring.waiting = [255] ∧ s.ring.launched = true ∧ lanesReady s = true ∧
       s.flt.cellsOff.contains (LOOP, 15) = false ∧ laneOp s 15 = none ∧ enabled s 255 = false ∧
       (tget (fun _ => none) s.ring.replace 255 : Option Half) = none) ∧
    (let s := laneHead 0 true
     s.ring.late = [] ∧ s.ring.waiting = [0] ∧ s.ring.launched = true ∧ lanesReady s = true ∧
       s.flt.cellsOff.contains (LOOP, 0) = false ∧ laneOp s 0 = none ∧ enabled s 0 = true ∧ injection s 0 = none ∧
       isStepper s 0 = false ∧ wbits (coef s 0 0) 2 0 ≤ 3 ∧ wbit (coef s 0 0) 6 = false) ∧
    ((lateWrite 3).before.val ≤ (lateWrite 3).word.val / 32 ∧ (lateWrite 4).word.val / 32 < (lateWrite 4).before.val ∧
      Reaches (laneHead 255 false) .pcie (Reg.LOOP_AX_COEF 255 127) 5) := by
  simp only [reaches_iff]; decide +kernel
/-- The sample of a disabled axis goes on to a state that the write behind its last burst reaches. -/
theorem wit_loop_late : (match exec (.loopSample ⟨15, []⟩) (laneHead 255 false) with
    | .next t => reachesB t .pcie (Reg.LOOP_AX_COEF 255 127) 5
    | _ => false) = true := by decide +kernel
theorem wit_loop_output :
    let s : State := { State.reset with loop := { axes := [(7, { hem := some ({}, 1, 2, 3) })], results := [(7, some 5)] } }
    (loopAx s 7).hem = some ({}, 1, 2, 3) ∧ (tget (fun _ => none) s.loop.results 7 : Option Half) = some 5 ∧
      bit (loopAx s 7).flags 6 = false := by decide +kernel
theorem wit_coef : (let s := laneHead 255 false
      Reaches s .pcie Reg.LOOP_BASTE_COMMIT (word (255 + 512)) ∧ Reaches s .pcie Reg.LOOP_BASTE_COMMIT (word (255 + 256)) ∧
       laneOp s (255 % 16) = none ∧ configured s 255 = true) ∧
    (let s := setLaneOp (wr (laneHead 0 false) (Reg.LOOP_LANE_BASTE 0 86) 0) 0 (some ⟨0, 0, false, false⟩)
     laneOp s 0 = some ⟨0, 0, false, false⟩) ∧
    (let s := setLaneOp State.reset 5 (some ⟨3, 5, false, true⟩)
     laneOp s 5 = some ⟨3, 5, false, true⟩) ∧
    (let s := wr (laneHead 255 false) Reg.SYS_AXIS_CFG 0x200
     Reaches s .pcie Reg.LOOP_BANK_SWAP (word (255 + 256)) ∧ doubleBank s = true ∧ laneOp s (255 % 16) = none ∧
       configured s 255 = true) := by
  simp only [reaches_iff]; decide +kernel

/-- A lane whose staged record is all zeros but for a unit gain. -/
def recordHead : State :=
  setLaneOp (wr (laneHead 0 false) (Reg.LOOP_LANE_BASTE 0 70) 0x3F800000) 0 (some ⟨0, 0, false, false⟩)
def injectHead (st : Nat) : State :=
  wr (wr (laneHead 0 true) (Reg.LOOP_INJ_STATUS 3) (word st)) (Reg.LOOP_INJ_CFG 3) 0x800

theorem wit_record : coefCheck recordHead 0 (fun i => rd recordHead (Reg.LOOP_LANE_BASTE 0 i)) = 1 ∧
    (let s := wr recordHead Reg.SYS_AXIS_CFG 0x200
     let t := setLaneOp (setBank s true 0 70 0x3F800000) 0 (some ⟨2, 0, false, true⟩)
     laneOp t 0 = some ⟨2, 0, false, true⟩ ∧ doubleBank t = true ∧ coefCheck t 0 (bankWord t (!activeBank t 0) 0) = 1) := by
  decide +kernel
theorem wit_injector :
    (let s := wr (injectHead 0) (Reg.LOOP_INJ_LEN 3) 1
     Reaches s .pcie (Reg.LOOP_INJ_CTRL 3) 1 ∧ (∀ j, j < 4 → fld s (Reg.LOOP_INJ_STATUS j) 1 0 ≠ 1 ∧ fld s (Reg.LOOP_INJ_STATUS j) 1 0 ≠ 2) ∧
       enabled s (fld s (Reg.LOOP_INJ_CFG 3) 7 0) = true ∧
       injPoint (wbits (coef s (fld s (Reg.LOOP_INJ_CFG 3) 7 0) 0) 2 0) (fld s (Reg.LOOP_INJ_CFG 3) 9 8) = true ∧ injValid s 3 = true) ∧
    (Reaches (injectHead 2) .proto (Reg.LOOP_INJ_CTRL 3) 2 ∧ fld (injectHead 2) (Reg.LOOP_INJ_STATUS 3) 1 0 = 2) ∧
    (wbits (rd (injectHead 2) (Reg.LOOP_INJ_CFG 3)) 12 10 = 2 ∧
      (rd (injectHead 2) (Reg.LOOP_INJ_LEN 3)).toNat ≤ (injector (injectHead 2) 3).k) := by
  simp only [reaches_iff]; decide +kernel

/-! ### Hem cores -/

/-- A core that has fetched an instruction. -/
def hemAt (c : Nat) (i : HemInstr) (b : HemBank := {}) : State :=
  setHemCore State.reset c { running := true, loaded := true, offline := false, prog := [(0, hemEncode i)], bank0 := b }

/-- Whether an instruction issues. -/
def issuesB (s : State) (c : Nat) (i : HemInstr) : Bool :=
  !s.sec.inReset && (hemCore s c).running && !(hemCore s c).badProg.contains (hemCore s c).bank.pc.toNat &&
    !asleep s (hemCore s c) && !(hemCore s c).softProg.contains (hemCore s c).bank.pc.toNat &&
    ((hemCore s c).fetch == hemEncode i) && hemLegal i && !((hemCore s c).bank.slot && noSlot i) &&
    !((hemCore s c).bank.rep.isSome && noRep i) && !(hemCore s c).prepared

theorem issues_of {s : State} {c : Nat} {i : HemInstr} (h : issuesB s c i = true) : Issues s c i := by
  unfold issuesB at h
  simp only [Bool.and_eq_true, Bool.not_eq_true', beq_iff_eq] at h
  obtain ⟨⟨⟨⟨⟨⟨⟨⟨⟨h1, h2⟩, h3⟩, h9⟩, h10⟩, h4⟩, h5⟩, h6⟩, h7⟩, h8⟩ := h
  exact ⟨h1, h2, h9, h3, h10, h4, h5, h6, h7, h8⟩

theorem wit_hem_moves : ∀ i ∈ [HemInstr.nop, .ldi 7 0xFFFF, .mov 7 7, .mvh 7 1, .mva 1 7, .clr 1, .ldp 3 0xFFFFF, .setb 3 0xFFFFF,
    .setl 3 32768, .setl 0 0, .addp 3 0x8000, .sata 1, .rdoD 7 3, .rdoA 1 3, .mfs 7], Issues (hemAt 15 i) (15 : Fin 16) i :=
  have h : ([HemInstr.nop, .ldi 7 0xFFFF, .mov 7 7, .mvh 7 1, .mva 1 7, .clr 1, .ldp 3 0xFFFFF, .setb 3 0xFFFFF,
    .setl 3 32768, .setl 0 0, .addp 3 0x8000, .sata 1, .rdoD 7 3, .rdoA 1 3, .mfs 7].all fun i => issuesB (hemAt 15 i) 15 i) = true := by
    decide +kernel
  fun _ hi => issues_of (List.all_eq_true.mp h _ hi)
theorem wit_hem_arithmetic : ∀ i ∈ [HemInstr.mpy 1 7 7 3 1, .mac 1 7 7 3 1, .msu 0 0 0 0 0, .adda 1, .asl 1 0x20, .asl 1 0x1F,
    .add 7 7 7, .sub 7 7 7, .addi 7 0x8000, .and 7 7 7, .or 7 7 7, .shl 7 7 0xF, .shl 7 7 0x10, .cmp 7 7],
    Issues (hemAt 15 i) (15 : Fin 16) i ∧ LoadElsewhere (hemCore (hemAt 15 i) 15).bank (· = 8 + 1) :=
  have h : ([HemInstr.mpy 1 7 7 3 1, .mac 1 7 7 3 1, .msu 0 0 0 0 0, .adda 1, .asl 1 0x20, .asl 1 0x1F,
    .add 7 7 7, .sub 7 7 7, .addi 7 0x8000, .and 7 7 7, .or 7 7 7, .shl 7 7 0xF, .shl 7 7 0x10, .cmp 7 7].all fun i =>
      issuesB (hemAt 15 i) 15 i && (hemCore (hemAt 15 i) 15).bank.load.isNone) = true := by decide +kernel
  fun i hi => by
    have k := List.all_eq_true.mp h i hi
    simp only [Bool.and_eq_true, Option.isNone_iff_eq_none] at k
    exact ⟨issues_of k.1, fun r v hl => by rw [k.2] at hl; cases hl⟩
theorem wit_hem_memory : ∀ i ∈ [HemInstr.ld 7 3 0 0xFFC, .lda 1 3 1 0xFFC, .macl 1 7 7 7 3 1 3 1, .mpyl 1 7 7 7 3 2 3 1,
    .st 7 3 2 0xFFC, .staH 1 3 0 0xFFC, .staW 1 3 0 0xFFC], Issues (hemAt 15 i { p := [(3, 0x1004)] }) (15 : Fin 16) i :=
  have h : ([HemInstr.ld 7 3 0 0xFFC, .lda 1 3 1 0xFFC, .macl 1 7 7 7 3 1 3 1, .mpyl 1 7 7 7 3 2 3 1,
    .st 7 3 2 0xFFC, .staH 1 3 0 0xFFC, .staW 1 3 0 0xFFC].all fun i => issuesB (hemAt 15 i { p := [(3, 0x1004)] }) 15 i) = true := by
    decide +kernel
  fun _ hi => issues_of (List.all_eq_true.mp h _ hi)
/-- The last word of a core's memory, its cluster window, and what the last word of core 15 reads as. -/
theorem wit_hem_places : hemPlace 15 0x7FFC 4 true = .ok ⟨15, 0x7FFC, false⟩ ∧ hemPlace 0 0xFFFFC 4 false = .ok ⟨15, 0x7FFC, true⟩ ∧
    (∃ v, hemRead (hemAt 15 .nop) ⟨15, 0x7FFC, true⟩ 4 = .ok v) := ⟨rfl, rfl, _, rfl⟩
theorem wit_hem_control : (∀ i ∈ [HemInstr.b 8 0xFFF, .call 0xFFF, .rep 255, .postD 7 3, .postA 1 3, .end_],
      Issues (hemAt 15 i) (15 : Fin 16) i) ∧ (hemCore (hemAt 15 .nop) 15).bank.stack.length < 4 ∧
    (Issues (hemAt 15 .ret { stack := [0xFFF] }) (15 : Fin 16) .ret ∧
      (hemCore (hemAt 15 .ret { stack := [0xFFF] }) 15).bank.stack = 0xFFF :: []) ∧
    (hemCore (hemAt 15 .nop) 15).posts.length < 4 ∧ (hemCore (hemAt 15 .nop) 15).held = false ∧ (hemCore (hemAt 15 .nop) 15).posts = [] :=
  have h : ([HemInstr.b 8 0xFFF, .call 0xFFF, .rep 255, .postD 7 3, .postA 1 3, .end_].all fun i => issuesB (hemAt 15 i) 15 i) = true := by
    decide +kernel
  ⟨fun _ hi => issues_of (List.all_eq_true.mp h _ hi), by decide, ⟨issues_of (by decide +kernel), by decide⟩, by decide, by decide, rfl⟩
theorem wit_hem_events :
    (let s := hemAt 15 .nop { cycles := 16 }
     (hemCore s 15).running = true ∧ (hemCore s 15).bank.rep = none ∧
       max 16 (fld s (Reg.HEM_CORE_BUDGET 15) 15 0) ≤ (hemCore (hemAt 15 .nop { cycles := 65536 }) 15).bank.cycles) ∧
    (let s := setHemCore State.reset 15 { running := true, prog := [(0, 0xFFFFFFFF)] }
     hemDecode (hemCore s 15).fetch = none ∧ asleep s (hemCore s 15) = false ∧ (hemCore s 15).badProg.contains 0 = false) ∧
    (let s := setHemCore State.reset 15 { running := true, badProg := [4095], bank0 := { pc := 4095 } }
     (hemCore s 15).badProg.contains (hemCore s 15).bank.pc.toNat = true ∧ asleep s (hemCore s 15) = false) ∧
    (let s := setAxis (setHemCore State.reset 15 { running := true, gated := true }) 255 { mode := 1 }
     (hemCore s 15).running = true ∧ asleep s (hemCore s 15) = true) ∧
    (hemCommand (.macl 15 1 7 7 7 3 3 3 1) = some (15, .macl 1 7 7 7 3 3 3 1) ∧ hemLegal (.macl 1 7 7 7 3 3 3 1) = false ∧
      (hemCore (hemAt 15 (.macl 1 7 7 7 3 3 3 1)) 15).fetch = hemEncode (.macl 1 7 7 7 3 3 3 1)) ∧
    (let s := setHemCore State.reset 15 { posts := [⟨0, 0x200000FF, 1⟩] }
     (hemCore s 15).posts = ⟨0, 0x200000FF, 1⟩ :: [] ∧ wbits 0x200000FF 31 28 = 2) ∧
    (let s := setHemCore State.reset 15 { posts := [⟨0, 0x10000FFF, 1⟩] }
     (hemCore s 15).posts = ⟨0, 0x10000FFF, 1⟩ :: [] ∧ wbits 0x10000FFF 31 28 = 1 ∧
       (tget (fun _ => []) s.sched.ports 2 : List Token).length < 16 ∧ (tget (fun _ => []) s.sched.stalled 2 : List Token) = []) ∧
    (let s := setHemCore State.reset 15 { softProg := [4095], softData := [8191] }
     (hemCore s 15).running = false ∧ (hemCore s 15).softProg.contains ((8191 : BitVec 13).toNat % 4096) = true ∧
       (hemCore s 15).softData.contains (8191 : BitVec 13).toNat = true ∧
       (hemCore State.reset 15).softProg.contains ((8191 : BitVec 13).toNat % 4096) = false) ∧
    (let s := setHemCore State.reset 15 { loaded := true }
     Reaches s .pcie (Reg.HEM_CORE_CTRL 15) 1 ∧ (hemCore s 15).loaded = true) ∧
    (fbit State.reset (Reg.HEM_CORE_CTRL 15) 0 = false ∧ (hemCore State.reset 15).running = false ∧
      (hemCore State.reset 15).prepared = false) := by
  simp only [reaches_iff]; decide +kernel
/-- A firmware image of one word at the beginning of partition 4. -/
def imageHead : State :=
  let body : List Byte := [0, 0, 0, 0]
  let hdr : List Byte := leBytes 4 0x314D4548 ++ leBytes 2 0x0100 ++ leBytes 2 1 ++ zeros 4 ++ leBytes 4 (crc32c body)
  wr (wr (writeMem State.reset .bolt (rd State.reset Reg.HEM_OP_SRC).toNat (hdr ++ body))
    Reg.HEM_OP_MASK 0x8000) Reg.HEM_OP_LEN 4
theorem wit_hem_load :
    (let s := imageHead
     let hdr := readMem s .bolt (rd s Reg.HEM_OP_SRC).toNat 16
     let len := 4 * field hdr 6 2 + field hdr 8 2
     let body := readMem s .bolt ((rd s Reg.HEM_OP_SRC).toNat + 16) len
     Reaches s .pcie Reg.HEM_OP 0 ∧ Reaches s .pcie Reg.HEM_BASTE_COMMIT 1 ∧ maskCores (fld s Reg.HEM_OP_MASK 15 0) ≠ [] ∧
       (rd s Reg.HEM_OP_SRC).toNat % 4 = 0 ∧
       (maskCores (fld s Reg.HEM_OP_MASK 15 0)).all (fun c => (hemCore s c).offline) = true ∧
       inPart s 4 (rd s Reg.HEM_OP_SRC).toNat (16 + len) = true ∧ inPart s 4 (rd s Reg.HEM_OP_SRC).toNat 16 = true ∧
       imageCheck hdr body = 1) ∧
    (Reaches imageHead .pcie Reg.HEM_OP 1 ∧ Reaches imageHead .pcie Reg.HEM_BASTE_COMMIT 1 ∧ (rd imageHead Reg.HEM_OP_LEN).toNat = 4 ∧
      fld imageHead Reg.HEM_OP_MASK 15 0 ≠ 0 ∧ 4 % 4 = 0 ∧ (rd imageHead Reg.HEM_OP_DST).toNat + 4 ≤ 32768 ∧
      inPart imageHead 4 (rd imageHead Reg.HEM_OP_SRC).toNat 4 = true) ∧
    (let s : State := { State.reset with hem := { patch := some ⟨0x8000, 0, [1, 2, 3, 4], true⟩ } }
     Awake s ∧ s.hem.patch = some ⟨0x8000, 0, [1, 2, 3, 4], true⟩ ∧
       ∀ c ∈ maskCores 0x8000, (hemCore s c).running = false ∧ (hemCore s c).prepared = false) := by
  simp only [Awake, reaches_iff]; decide +kernel

/-! ### The scheduler, the mailboxes and feedback -/

/-- A head with a valid task. -/
def taskHead (t : Nat) : State :=
  wr (wr (setHemCore (wr State.reset (Reg.HEM_CORE_CTRL 15) 1) 15 { loaded := true, offline := false }) (Reg.SCHED_TASK_DESC t 0) 0x10000)
    (Reg.SCHED_TASK_DESC t 2) 0x8000

/-- A head with a valid task for firmware core 7. -/
def fwTask (t : Nat) : State :=
  wr (wr State.reset (Reg.SCHED_TASK_DESC t 0) 0x30000) (Reg.SCHED_TASK_DESC t 2) 0x80

theorem wit_scheduler :
    (let k : Token := { value := 7, task := 1023, operand := 3 }
     let s : State := { taskHead 1023 with sched := { ports := [(6, [k])] } }
     (tget (fun _ => []) s.sched.ports 6 : List Token) = k :: [] ∧ taskValid s 1023 = true ∧ k.operand < 4) ∧
    (let s := setTask (taskHead 1023) 1023 { ready := true }
     pick s = some (1023, 15, false) ∧ taskFw s 1023 = false ∧ (hemCore s 15).running = false) ∧
    (∀ b ∈ [({ task := 5 } : HemBank), { task := 5, rep := some 3 }],
      let s := setTask (setHemCore (wr (taskHead 1023) (Reg.SCHED_TASK_DESC 5 0) 0xD0000) 15
        { loaded := true, offline := false, running := true, bank0 := b }) 1023 { ready := true }
      pick s = some (1023, 15, true) ∧ taskFw s 1023 = false ∧ (hemCore s 15).running = true) ∧
    (let s := setTask (fwTask 1023) 1023 { ready := true }
     pick s = some (1023, 7, false) ∧ taskFw s 1023 = true) ∧
    (let s : State := { fwTask 1023 with sched := { fwTasks := [(7, [1023])] } }
     fwTasks s (7 : Fin 8) = 1023 :: [] ∧ pick (fwEnded s (7 : Fin 8)) = none) ∧
    (let s := { setTask (taskHead 1023) 1023 { ready := true } with raw := 2001 }
     (task s (1023 : BitVec 10).toNat).ready = true ∧
       (task s (1023 : BitVec 10).toNat).readyRaw + holdNs s (1023 : BitVec 10).toNat < s.raw) ∧
    (Reaches (taskHead 0) (.fw 7) (Reg.SCHED_TASK_DESC 1023 7) 5 ∧ taskValid (taskHead 0) 1023 = false ∧ isFwPort (.fw 7) = true) ∧
    Reaches (taskHead 0) .pcie Reg.SCHED_CANCEL (word (1023 + 1024)) ∧
    (Reaches (taskHead 0) .pcie Reg.SCHED_POST_HI 0xFFF ∧ isFwPort .pcie = false ∧
      (tget (fun _ => []) (taskHead 0).sched.ports 6 : List Token).length < 16 ∧
      (tget (fun _ => []) (taskHead 0).sched.stalled 6 : List Token) = []) ∧
    (let s : State := { taskHead 0 with sched := { ports := [(4, List.replicate 16 {})] } }
     Reaches s (.fw 7) Reg.SCHED_POST_HI 0xFFF ∧ 16 ≤ (tget (fun _ => []) s.sched.ports 4 : List Token).length) ∧
    (let s := wr (taskHead 1023) Reg.SCHED_DLY_TARGET 0xFFF
     Reaches s .pcie Reg.SCHED_BASTE_COMMIT 1 ∧ taskValid s (wbits (rd s Reg.SCHED_DLY_TARGET) 9 0) = true ∧
       wbits (rd s Reg.SCHED_DLY_TARGET) 31 12 = 0 ∧ s.sched.delays.length < 1024) ∧
    Reaches (taskHead 0) .pcie Reg.SCHED_BASTE_COMMIT 2 ∧
    (let e : DelayEntry := { value := 1, task := 5, operand := 3, released := true }
     let s : State := { taskHead 5 with sched := { delays := [e] }, twin := { pair := true } }
     nextDue s (tick s) (fun e => !s.twin.pair || taskFw s e.task || e.released) = some e ∧ delayRoom s = true ∧
       (tget (fun _ => []) s.sched.stalled 3 : List Token) = []) := by
  simp only [reaches_iff]; decide +kernel
theorem wit_mailboxes :
    (let s := wr State.reset (Reg.MBX_CFG 63) 0x1001
     Reaches s .pcie (Reg.MBX_DATA 63) 5 ∧ masterId .pcie = fld s (Reg.MBX_CFG 63) 7 0 ∧ mbxFull s 63 = false ∧ receiverOff s 63 = false ∧
       s.flt.cellsOff.contains (MBX, 63) = false ∧
       Readable (setFull s 63 true) .proto (Reg.MBX_DATA 63) ∧ masterId .proto = fld (setFull s 63 true) (Reg.MBX_CFG 63) 15 8 ∧
       mbxFull (setFull s 63 true) 63 = true) ∧
    (let s := { setFull State.reset 63 true with raw := 1000000 }
     mbxFull s 63 = true ∧ s.mbx.stalled.contains 63 = false ∧ tget (fun _ => 0) s.mbx.filled 63 + stallNs s 63 ≤ s.raw) ∧
    (Readable State.reset .island (Reg.MBX_LOCK 63) ∧ lockOwner State.reset 63 = 0) ∧
    (Reaches (setLock State.reset 63 0x20) .island (Reg.MBX_LOCK 63) 0 ∧ lockOwner (setLock State.reset 63 0x20) 63 = masterId .island) ∧
    (let s := mbxMod State.reset fun m => { m with legacyMode := true }
     Reaches s .pcie (Reg.MBXQ_H2D 7) 5 ∧ s.mbx.legacyMode = true ∧ s.host.queued = [] ∧ s.host.waiting = [] ∧
       (∀ k, k < 8 → fbit s (Reg.MBXQ_STAT k) 0 = false) ∧ (legacy s 7).msg.length < 3) ∧
    (let s := setLegacy (mbxMod State.reset fun m => { m with legacyMode := true }) 7 { d2h := [9] }
     Readable s .pcie (Reg.MBXQ_D2H 7) ∧ s.mbx.legacyMode = true ∧ (legacy s 7).d2h = 9 :: []) := by
  simp only [reaches_iff, readable_iff]; decide +kernel
theorem wit_no_legacy (k : Nat) : (legacy (mbxMod State.reset fun m => { m with legacyMode := true }) k).h2d = [] := rfl
theorem wit_feedback :
    let on (m : Word) : State := setAct State.reset (Reg.FBC_ENC_CFG 7) m
    (encMode (on 1) 7 = 1 ∧ quadStep (encoder (on 1) 7).a (encoder (on 1) 7).b true false = some 1 ∧
      quadStep (encoder (on 1) 7).a (encoder (on 1) 7).b true true = none) ∧ encMode (on 0x10003) 7 = 3 ∧
    (let s := setAct (setEncoder (on 2) 7 { busy := true }) (Reg.FBC_ENC_SSI 7) 63
     encMode s 7 = 2 ∧ (encoder s 7).busy = true ∧ 63 = actF s (Reg.FBC_ENC_SSI 7) 5 0 ∧ actF s (Reg.FBC_ENC_SSI 7) 9 8 = 0 ∧
       actF s (Reg.FBC_ENC_SSI 7) 15 10 = 0 ∧ actF s (Reg.FBC_ENC_SSI 7) 6 6 = 0 ∧ actF s (Reg.FBC_ENC_SSI 7) 7 7 = 0) ∧
    (Reaches (on 1) .pcie (Reg.FBC_ENC_STATUS 7) 1 ∧ cellOff (on 1) FBC 7 = false ∧ encCause (on 1) 7 = false) ∧
    (Reaches (on 1) .pcie Reg.FBC_BASTE_COMMIT 1 ∧ fbcResult (on 1) = 1) := by
  simp only [reaches_iff]; decide +kernel
theorem wit_compare :
    (let f : Fire := ⟨31, 0, 3, 0, 5, 1, none, 7⟩
     let s : State := { State.reset with raw := 5, fbc := { fires := [f] } }
     earliest (s.fbc.fires.filter (·.chan == 31)) = some f ∧ actionDue s f false = true) ∧
    (let f : Fire := ⟨31, 0, 3, 0, 5, 1, none, 7⟩
     let s : State := { State.reset with raw := 5, fbc := { pulses := [f] } }
     earliest (s.fbc.pulses.filter (·.chan == 31)) = some f ∧ actionDue s f true = true) ∧
    (Reaches State.reset .pcie (Reg.FBC_CMP_CTRL 31) 1 ∧ cellOff State.reset FBC (16 + 31) = false) ∧
    Reaches State.reset .proto (Reg.FBC_CMP_CTRL 31) 2 := by
  simp only [reaches_iff]; decide +kernel

/-! ### Spools -/

/-- A head whose last spool is in a state and a mode. -/
def spoolHead (st mode : Nat) : State :=
  setAct (setAct (wr State.reset (Reg.ACQ_SP_STATE 3) (word st)) (Reg.ACQ_SP_CFG 3) (word (0x10100 + mode))) (Reg.ACQ_SP_DEPTH 3) 2

/-- The same head with the archive in operation and leaves granted. -/
def awakeArchive (s : State) (granted : List Leave) : State := { s with pwr := { s.pwr with off := [], granted := granted } }

theorem wit_spool_sample :
    let s := spoolHead 1 0
    spMode s 3 = 0 ∧ spArch s 3 = false ∧ spTakes s 3 = true ∧ (∀ j, j < 4 → j ≠ 3 → spBusy s j = false) ∧
      actF s Reg.ACQ_GROUP 3 0 = 0 ∧ s.evts.drop s.acq.seen = [] ∧ s.acq.left = [] ∧ actF s (Reg.ACQ_SP_CFG 3) 3 3 = 0 ∧
      actF s (Reg.ACQ_SP_CFG 3) 31 16 ≠ 0 ∧ s.cyc.count.toNat % actF s (Reg.ACQ_SP_CFG 3) 31 16 = 0 ∧
      actF s (Reg.ACQ_SP_TRIG 3) 3 0 = 0 ∧ maskChannels s 3 = [] ∧ (spool s 3).trig = none ∧ (spool s 3).pendingTrig = none := by
  decide +kernel
theorem wit_spools :
    (spMode (spoolHead 1 2) 3 = 2 ∧ spSt (spoolHead 1 2) 3 = 1 ∧ (spool (spoolHead 1 2) 3).trig = none ∧
      (let s : State := { setAct (spoolHead 1 2) (Reg.ACQ_SP_TIMEOUT 3) 7 with raw := 7000000 }
       (actv s (Reg.ACQ_SP_TIMEOUT 3)).toNat * 1000000 ≤ s.raw - (spool s 3).startRaw)) ∧
    (Reaches State.reset .pcie Reg.ACQ_BASTE_COMMIT 1 ∧ acqResult State.reset = 1) ∧
    (Reaches (spoolHead 0 0) .pcie (Reg.ACQ_SP_CTRL 3) 1 ∧ grpMember (spoolHead 0 0) 3 = false ∧ spBusy (spoolHead 0 0) 3 = false ∧
      cellOff (spoolHead 0 0) ACQ 3 = false) ∧
    (Reaches (spoolHead 4 0) .pcie (Reg.ACQ_SP_CTRL 3) 2 ∧ spBusy (spoolHead 4 0) 3 = true) ∧
    (Reaches (spoolHead 5 0) .pcie (Reg.ACQ_SP_CTRL 3) 4 ∧ spSt (spoolHead 5 0) 3 = 5) ∧
    (let s := awakeArchive (setSpool State.reset 3 { full := [0], last := some (0x5FFFFFF, 1) }) []
     Reaches s .pcie (Reg.ACQ_SP_CTRL 3) 8 ∧ (spool s 3).full = 0 :: [] ∧ Reaches s .pcie (Reg.ACQ_SP_CTRL 3) 16 ∧
       (spool s 3).last = some (0x5FFFFFF, 1) ∧ s.pwr.off.contains .mem = false ∧ (holders s).all (compat 7) = true) ∧
    (let s := awakeArchive (setSpool State.reset 3 { fifo := [(0x80000000, [1])] }) [⟨burstRequester 3, 3, 0, 0, 1, 0⟩]
     (spool s 3).fifo = [(0x80000000, [1])] ∧ (spool s 3).owed = [] ∧ [(1 : Byte)].length ≤ leaveBytes ∧
       hasLeave s (burstRequester 3) = true ∧ s.pwr.off.contains .mem = false) := by
  simp only [reaches_iff]; decide +kernel

/-! ### The twin -/

/-- A head of a pair in a twin state, the twin link in lock. -/
def twinHead (st : Nat) : State :=
  wr { State.reset with twin := { pair := true, room := 640 } } Reg.TWIN_STATE (word (st + 8))
/-- The same head with the journal. -/
def leadTwin (st : Nat) : State := wr (twinHead st) Reg.TWIN_STATE (word (st + 0x28))
/-- A frame of its twin. -/
def fromTwin (kind cycle : Nat) (body : List Byte) : List Byte :=
  let h := [BitVec.ofNat 8 kind, 0, 0, 0] ++ leBytes 4 cycle ++ zeros 14 ++ leBytes 2 body.length ++ zeros 6
  h ++ leBytes 2 (crc16 h) ++ body
/-- A twin head with the ring in a state. -/
def twinRing (st ring : Nat) : State := wr (twinHead st) Reg.RING_STATE (word ring)

theorem wit_twin_sends : (TwinSends (twinHead 1) ∧ (twinHead 1).twin.formed = false ∧ (twinHead 1).twin.helloRaw = none ∧
      delaysReturn (twinHead 1) (58 + 16) = false) ∧
    (let s : State := { twinHead 1 with raw := 1000007, twin := { pair := true, helloRaw := some 7 } }
     TwinSends s ∧ ∀ r, s.twin.helloRaw = some r → r + 1000000 ≤ s.raw) ∧
    (TwinSends (leadTwin 1) ∧ fbit (leadTwin 1) Reg.TWIN_STATE 5 = true ∧ (leadTwin 1).twin.frozen = [] ∧
      (leadTwin 1).twin.pages = [] ∧ (leadTwin 1).twin.snapshot = []) ∧
    (TwinSends (twinHead 2) ∧ fbit (twinHead 2) Reg.TWIN_STATE 5 = false ∧ 2 ≤ twinSt (twinHead 2)) := by
  have h : ∀ r, (some 7 : Option Nat) = some r → r + 1000000 ≤ 1000007 := fun r hr => by cases hr; decide
  refine ⟨?_, ⟨?_, h⟩, ?_, ?_⟩ <;> (simp only [TwinSends]; decide +kernel)
theorem wit_hello :
    (TwinHears (twinHead 1) (fromTwin 0x20 0 (zeros 12)) true ∧
      field (twinBody (fromTwin 0x20 0 (zeros 12))) 0 4 = (twinHead 1).twin.cfgSetHash.toNat ∧
      field (twinBody (fromTwin 0x20 0 (zeros 12))) 4 4 = (twinHead 1).twin.manifestHash.toNat ∧
      field (twinBody (fromTwin 0x20 0 (zeros 12))) 8 4 = (twinHead 1).ring.cfgHash.toNat) ∧
    (let f := fromTwin 0x20 0 (leBytes 4 1 ++ zeros 8)
     TwinHears (twinRing 1 5) f true ∧ field (twinBody f) 0 4 ≠ (twinRing 1 5).twin.cfgSetHash.toNat ∧ leads (twinRing 1 5) = true ∧
       onTrial (twinRing 1 5) = false) := by
  simp only [TwinHears]; decide +kernel
theorem wit_twin_frames :
    (let f := fromTwin 0x21 0 (zeros 76)
     let s := ringMod (twinHead 3) fun r => { r with launched := true }
     TwinHears s f true ∧ mirrors s = true ∧ field f 4 4 = s.cyc.count.toNat ∧ s.twin.motionDue = false ∧ s.ring.launched = true) ∧
    (TwinHears (leadTwin 1) (fromTwin 0x22 0 (zeros 16)) true ∧ stamps (leadTwin 1) = true) ∧
    (TwinHears (twinHead 1) (fromTwin 0x23 0 []) true ∧ field (fromTwin 0x23 0 []) 4 4 = (twinHead 1).cyc.count.toNat ∧
      twinSt (twinHead 1) = 1 ∧ (twinHead 1).twin.ownRet = none) ∧
    (let s := ringMod (twinRing 3 3) fun r => { r with returned := false }
     TwinHears s (fromTwin 0x23 0 []) true ∧ twinSt s = 3 ∧ ringSt s = 3 ∧ s.ring.returned = false) ∧
    (let e : JEntry := { seq := 1, cycle := 9, kind := 1, target := 0x20000018, data := leBytes 4 1 }
     let f := fromTwin 0x24 0 e.bytes
     TwinHears (twinHead 3) f true ∧ mirrors (twinHead 3) = true ∧ parseEntries (twinBody f).length (twinBody f) = [e]) ∧
    (let f := fromTwin 0x25 0 (leBytes 4 0x5FFFFFF ++ [1])
     TwinHears (twinHead 2) f true ∧ twinSt (twinHead 2) = 2 ∧ field (twinBody f) 0 4 ≠ 0xFFFFFFFF) := by
  simp only [TwinHears]; decide +kernel
theorem wit_stamps :
    (stamps (leadTwin 1) = true ∧ (leadTwin 1).twin.held = [] ∧ swapHolds (leadTwin 1) = false ∧
      splitWrite (leadTwin 1) { kind := 3, source := 255, target := 0xFFF, data := leBytes 4 1 } =
        [{ kind := 3, source := 255, target := 0xFFF, data := leBytes 4 1 }] ∧
      ({ kind := 3, source := 255, target := 0xFFF, data := leBytes 4 1 } : JEntry).bytes.length ≤ (leadTwin 1).twin.room) ∧
    (let h : Held := { rest := [{ data := zeros 624 }] }
     let s : State := { leadTwin 1 with twin := { pair := true, room := 640, held := [h] } }
     s.twin.held = [h] ∧ h.writes = [] ∧ h.req = none ∧ swapHolds s = false ∧
       ({ data := zeros 624 } : JEntry).bytes.length ≤ s.twin.room) := by decide +kernel
theorem wit_host_stamp :
    let s := leadTwin 1
    let a : Word := word Reg.FIO_OUT
    Awake s ∧ NoRequests s ∧ stamps s = true ∧ refusesWrites s = false ∧ journaled s a.toNat = true ∧
      (landWrite s .pcie a.toNat 5).bus.err = false ∧ enableRefused s a.toNat 5 = none ∧ s.twin.held = [] ∧
      (∀ r i j, regAt a.toNat = some (r, i, j) → markFlag (blockOf a.toNat) r i 5 = none) ∧ swapHolds s = false ∧
      splitWrite s { kind := 1, target := a, data := leBytes 4 (5 : Word).toNat } = [{ target := a, data := leBytes 4 5 }] ∧
      ({ target := a, data := leBytes 4 5 } : JEntry).bytes.length ≤ s.twin.room := by
  refine ⟨rfl, ⟨rfl, rfl⟩, by decide +kernel, by decide +kernel, by decide +kernel, by decide +kernel, by decide +kernel, by decide +kernel,
    fun r i j h => ?_, by decide +kernel, by decide +kernel, by decide +kernel⟩
  have e : (match regAt (word Reg.FIO_OUT).toNat with
    | some (r, i, _) => (markFlag (blockOf (word Reg.FIO_OUT).toNat) r i 5).isNone | none => true) = true := by decide +kernel
  rw [h] at e
  exact Option.isNone_iff_eq_none.mp e
theorem wit_twin_roles :
    (let s : State := { twinRing 3 3 with raw := 1000, twin := { pair := true, cycleA := some [] } }
     decisionTime s ≤ mtime s ∧ decision s false = 1) ∧
    (decisionTime { twinRing 3 3 with raw := 1000 } ≤ mtime { twinRing 3 3 with raw := 1000 } ∧
      decision { twinRing 3 3 with raw := 1000 } false = 2) ∧
    ((twinHead 3).twin.pair = true ∧ twinSt (twinHead 3) = 3 ∧ 3 ≤ (twinHead 3).twin.silent ∧ twinSt (twinHead 5) = 5) ∧
    Reaches State.reset .pcie Reg.TWIN_BASTE_COMMIT 1 ∧
    (let s : State := setAct { State.reset with raw := 10000000, twin := { diffSince := [(31, 1)] } } (Reg.PROF_AX_PARAM 255 10) 0x7D
     tget (fun _ => 0) s.twin.diffSince 31 ≠ 0 ∧ tget (fun _ => 0) s.twin.diffSince 31 + 10000000 ≤ s.raw + 1 ∧
       (motionInputBits s).contains 31 = true) := by
  simp only [reaches_iff]; decide +kernel
/-- The same head with other twin fields. -/
def twinWith (st : Nat) (t : Twin) (raw : Nat := 0) : State :=
  wr { State.reset with twin := t, raw := raw } Reg.TWIN_STATE (word st)
theorem wit_twin_actions :
    (let s := twinWith 0x14 { formed := true }
     Reaches s .pcie Reg.TWIN_CTRL 1 ∧ fbit s Reg.TWIN_CTRL_STATUS 0 = false ∧ twinSt s = 4 ∧ fld s Reg.TWIN_STATE 11 8 ≠ 4 ∧
       s.twin.formed = true ∧ (holders s).all (compat 3) = true) ∧
    (let s := twinWith 0x30001 { matched := 1024 }
     Reaches s .proto Reg.TWIN_CTRL 2 ∧ fbit s Reg.TWIN_CTRL_STATUS 0 = false ∧ twinSt s = 1 ∧ fld s Reg.TWIN_STATE 18 16 = 3 ∧
       1024 ≤ s.twin.matched ∧ (holders s).all (compat 2) = true) ∧
    (let s := twinWith 0x50025 { matched := 1024 } 10000000
     Reaches s .pcie Reg.TWIN_CTRL 4 ∧ fbit s Reg.TWIN_CTRL_STATUS 0 = false ∧ rejoinReady s = true) ∧
    (let s := twinWith 0x704 { formed := true }
     Reaches s .pcie Reg.TWIN_CTRL 8 ∧ fbit s Reg.TWIN_CTRL_STATUS 0 = false ∧ twinSt s = 4 ∧ fld s Reg.TWIN_STATE 11 8 = 7 ∧
       s.twin.formed = true ∧ (holders s).all (compat 3) = true) ∧
    (let s := twinWith 2 { formed := true }
     twinSt s = 2 ∧ s.twin.formed = true ∧ fld s Reg.TWIN_RESYNC_STATUS 2 0 = 0 ∧ s.twin.retryRaw = none ∧
       (holders s).all (compat 3) = true) ∧
    (let s := wr (twinWith 1 { pages := [1] }) Reg.TWIN_RESYNC_STATUS 2
     fld s Reg.TWIN_RESYNC_STATUS 2 0 = 2 ∧ s.twin.pages.length ≤ 1024 ∧ twinSt s = 1) ∧
    (let s := wr (twinWith 2 { matched := 32 }) Reg.TWIN_RESYNC_STATUS 5
     fld s Reg.TWIN_RESYNC_STATUS 2 0 = 5 ∧ 32 ≤ s.twin.matched ∧ twinSt s = 2) ∧
    (let s := setAct (twinWith 0x50025 { matched := 1024, rejoinRaw := some 0 } 100000000) Reg.TWIN_CFG 0x40
     s.twin.rejoinRaw = some 0 ∧ 0 + 100000000 ≤ s.raw ∧ actF s Reg.TWIN_CFG 6 6 = 1 ∧ s.twin.action = 0 ∧ rejoinReady s = true) ∧
    (let s := wr (twinWith 2 {} 2000000000) Reg.TWIN_RESYNC_STATUS 1
     fld s Reg.TWIN_RESYNC_STATUS 2 0 = 1 ∧ s.twin.pages = [] ∧ s.twin.resyncRaw + 2000000000 ≤ s.raw ∧ twinSt s = 2) ∧
    (let s := twinWith 1 { action := 2, actionCycle := 8 }
     s.twin.action = 2 ∧ s.twin.acked = false ∧ (s.twin.actionCycle - s.cyc.count).toNat ≤ 8) := by
  simp only [reaches_iff]; decide +kernel

/-! ### The island -/

/-- A head whose island runs. -/
def island (f : Safe) (raw : Nat := 0) : State := wr { State.reset with safe := f, raw := raw } Reg.SAFE_STATUS 1
/-- A datagram of the peer of host-side connection 7 with a PDU under identity 0. -/
def datagram (seq : Nat) : List Byte := [0x10, 0, 7] ++ zeros 5 ++ makePdu 0 5 seq 0
/-- A head with connection 133 in RUN, its last PDU the one with sequence number 65,535. -/
def runConn (x : SafeConn) : State :=
  wr (island { conns := [(133, { x with named := true, based := true, lastSeq := 65535, pdu := makePdu 0 5 65535 0, wdRaw := some 0 })] } 6000000)
    (Reg.SAFE_CONN_STATE 133) 2

theorem wit_safety_cycle :
    (let s := island {}
     islandSt s = 1 ∧ startDue s = true ∧ s.safe.conns = [] ∧ s.safe.groups = [] ∧ s.safe.axes = []) ∧
    (let s := { wr (island { conns := [(125, { named := true })], pduDue := true, outDue := true, startRaw := 0 })
       (Reg.SAFE_CONN_STATE 125) 2 with raw := 1000000000 }
     islandSt s = 1 ∧ s.safe.outDue = true ∧ s.safe.pduDue = true ∧ atInstant s = true ∧ sEff s ≤ sinceStart s * 2 ∧
       s.safe.conns = [(125, { named := true })] ∧ connSt s 125 = 2) := by
  decide +kernel
theorem wit_from_peer : FromPeer (runConn { window := 1 }) 7 0 51000 (datagram 1) :=
  ⟨by decide, rfl, by decide +kernel, by decide +kernel, by decide +kernel, by decide +kernel, by decide +kernel, by decide +kernel,
    by decide +kernel, by decide +kernel, by decide +kernel⟩
/-- A datagram of that peer that carries no PDU. -/
theorem wit_no_pdu : FromPeer (runConn {}) 7 0 51000 ([0x10, 0, 7] ++ zeros 5 ++ List.replicate 16 0xFF) :=
  ⟨by decide, rfl, by decide +kernel, by decide +kernel, by decide +kernel, by decide +kernel, by decide +kernel, by decide +kernel,
    by decide +kernel, by decide +kernel, by decide +kernel⟩
theorem wit_selvedge :
    (let s := runConn { window := 1 }
     connSt s (126 + 7) = 2 ∧ pduOk (conn s (126 + 7)).ident ((datagram 1).drop 8) = true ∧ (conn s (126 + 7)).lastSeq ≠ 0 ∧
       field ((datagram 1).drop 8) 8 2 ≠ 0 ∧ 1 ≤ seqAhead (conn s (126 + 7)).lastSeq (field ((datagram 1).drop 8) 8 2) ∧
       seqAhead (conn s (126 + 7)).lastSeq (field ((datagram 1).drop 8) 8 2) ≤ (conn s (126 + 7)).window ∧
       field ((datagram 1).drop 8) 8 2 ≠ (conn s (126 + 7)).lastSeq ∧
       (datagram 1).drop 8 ≠ List.replicate 16 0xFF ∧ field ((datagram 65535).drop 8) 8 2 = (conn s (126 + 7)).lastSeq ∧ (datagram 65535).drop 8 = (conn s (126 + 7)).pdu) ∧
    (let s := runConn { crcMax := 1, ident := 1 }
     pduOk (conn s (126 + 7)).ident ((datagram 1).drop 8) = false ∧ (conn s (126 + 7)).crcRaws = [] ∧ 1 ≤ (conn s (126 + 7)).crcMax) ∧
    (let s := runConn { watchdog := 6 }
     islandSt s = 1 ∧ connSt s 133 = 2 ∧ (conn s 133).wdRaw = some 0 ∧ (conn s 133).watchdog * 1000000 ≤ s.raw - 0) := by decide +kernel
theorem wit_safety_timers :
    (let s := island { terms := [{ disc := 1, differ := some 0 }] } 1000001
     s.safe.terms[0]? = some { disc := 1, differ := some 0 } ∧ 1 * 1000000 < s.raw - 0) ∧
    (let s := island { terms := [{ funcs := [0xFF02] }], axes := [(255, { ss1 := some (0, 0), ss1Time := 1, sto := false })] } 1000000
     (safeAxis s 255).ss1 = some (0, 0) ∧ (safeAxis s 255).ss1Time * 1000000 ≤ s.raw - 0 ∧ demanded s 2 255 = true ∧
       demanded s 1 255 = false ∧ (safeAxis s 255).sbc = false) ∧
    (let s := island { axes := [(255, { brakeRaw := some 0, stoAfter := 1, sto := false })] } 1000000
     (safeAxis s 255).brakeRaw = some 0 ∧ (safeAxis s 255).stoAfter * 1000000 ≤ s.raw - 0 ∧ (safeAxis s 255).sto = false) ∧
    (let s := island { groups := [(7, { outs := [0x01000000], fbs := [0x01000000], fbTime := 1 })] } 1000000
     (sloGroup s 7).isOff = true ∧ (sloGroup s 7).outs ≠ [] ∧ (sloGroup s 7).latched = false ∧
       (sloGroup s 7).fbTime * 1000000 ≤ s.raw - (sloGroup s 7).offRaw ∧ fbSafe s (sloGroup s 7) = false) ∧
    (let s := island { groups := [(7, { outs := [0x01000000], fbs := [0x01000000], fbTime := 1, shown := true })] }
     (sloGroup s 7).isOff = true ∧ (sloGroup s 7).shown = true ∧ fbSafe s (sloGroup s 7) = false) := by decide +kernel
theorem wit_safe_outputs :
    (let s := island { outs := [(15, { on := true, switched := some 0, edmTime := 1, edm := some 0 })] } 1000000
     let t := { s with fio := { inputs := 1 } }
     islandSt t = 1 ∧ (safeOut t 15).switched = some 0 ∧ edmShows t (safeOut t 15) (safeOut t 15).on = false ∧
       (safeOut t 15).latched = false ∧ (safeOut t 15).edmTime * 1000000 ≤ t.raw - 0 ∧ (safeOut t 15).on = true ∧
       (safeOut t 15).pulsing = false ∧ outGroups t 15 = []) ∧
    (let s := island { outs := [(15, { on := true, pulsePeriod := 2 })] } 2000000
     islandSt s = 1 ∧ (safeOut s 15).on = true ∧ (safeOut s 15).pulsing = false ∧ outGroups s 15 = [] ∧
       (safeOut s 15).pulsePeriod * 1000000 ≤ s.raw - (safeOut s 15).pulseRaw) ∧
    (let s : State := { island { outs := [(15, { on := true, pulsing := true, pulseW := 3 })] } 3000 with fio := { pulses := 0x8000 } }
     (safeOut s 15).pulsing = true ∧ (safeOut s 15).pulseW * 1000 ≤ s.raw - (safeOut s 15).pulseRaw ∧ bit s.fio.pulses 15 = true ∧
       (safeOut s 15).latched = false) := by decide +kernel

/-- A configuration area that holds an empty safety parameter set. -/
def setHead (payload : List Byte) : State :=
  let r : List Byte := leBytes 2 0xA ++ leBytes 2 0x100 ++ zeros 4 ++ leBytes 4 payload.length ++ leBytes 4 (crc32c payload) ++ payload
  let h : List Byte := leBytes 4 0x31474643 ++ leBytes 4 1 ++ leBytes 4 r.length ++ zeros 16
  writeMem State.reset .nvm (areaAt 0) (h ++ leBytes 4 (crc32c h) ++ r)
theorem wit_island_start :
    (islandSt (setHead []) = 0 ∧ (setHead []).safe.tested = false ∧ fld (setHead []) Reg.SEC_STATUS 2 0 < 4 ∧ paramSet (setHead []) (fld (setHead []) Reg.SEC_STATUS 5 5) = some [] ∧
      (parseSet []).isSome = true) ∧
    (paramSet (setHead [1, 2]) (fld (setHead [1, 2]) Reg.SEC_STATUS 5 5) = some [1, 2] ∧ parseSet [1, 2] = none) := by decide +kernel
theorem wit_island_fault : (islandSt (island {}) ≠ 2 ∧ twinReady (island {}) = false) ∧
    (let s := wr (island {}) Reg.TWIN_STATE 0x30011
     islandSt s ≠ 2 ∧ twinReady s = true) ∧
    (let s := wr (island { zeroed := true, zeroShuttles := 2 }) Reg.SAFE_STATUS 2
     s.safe.zeroed = true ∧ 2 ≤ s.safe.zeroShuttles ∧ chipSafe s = false) ∧
    (let s := wr (island { zeroed := true }) Reg.SAFE_STATUS 2
     s.safe.zeroed = true ∧ leads s = false ∧ chipSafe s = false) := by decide +kernel

/-! ### Field inputs and outputs -/

theorem wit_field_link :
    (State.reset.fio.await = false ∧ State.reset.fio.sentRaw = none) ∧
    (let s : State := { island {} with fio := { await := true } }
     s.fio.await = true ∧ islandSt s = 1) ∧
    (({ State.reset with fio := { down := some {} } } : State).fio.down = some {}) ∧
    ((State.reset.fio.down = none ∨ true = false) ∧ (({ State.reset with fio := { down := some {} } } : State).fio.down = none ∨ false = false)) ∧
    (let up : Uplink := {}
     let s : State := { State.reset with fio := { up := some up } }
     s.fio.up = some up ∧ up.broken = 0 ∧ up.failed = 0 ∧ s.fio.blocked = 0) ∧
    (let s := { setAct State.reset Reg.FIO_LINK_CFG 8 with raw := 80001, fio := { tripped := false } }
     s.fio.tripped = false ∧ actF s Reg.FIO_LINK_CFG 12 0 * 10000 < s.raw - s.fio.downRaw) := by decide +kernel
/-- An input takes a level with the second sample of two that agree on it, and the earliest window is the whole list. -/
theorem wit_field_filter : ({} : DieInput).run = 0 ∧
    (([1] ++ [1]).foldl (fun (y : DieInput) k => y.filter 2 k) {}).cls ≠ ([1].foldl (fun (y : DieInput) k => y.filter 2 k) {}).cls := by
  decide +kernel
theorem wit_field_outputs :
    bit State.reset.fio.latched 15 = false ∧
    (let s := setAct { State.reset with raw := 100000000, fio := { latched := 0x8000 } } (Reg.FIO_OUT_CFG 15) 0x10000
     bit s.fio.latched 15 = true ∧ actF s (Reg.FIO_OUT_CFG 15) 16 16 = 1 ∧
       tget (fun _ => 0) s.fio.latchRaw 15 + 100000000 ≤ s.raw) ∧
    (let s : State := { State.reset with raw := 1000001, fio := { differs := [(15, 1)] } }
     s.fio.differs.find? (fun e => e.1 == 15) = some (15, 1) ∧ 1 + 1000000 ≤ s.raw ∧ safeOutput s 15 = false) ∧
    Reaches State.reset .pcie Reg.FIO_BASTE_COMMIT 1 ∧ Reaches State.reset .proto Reg.FIO_OUT 0xFFFF := by
  simp only [reaches_iff]; decide +kernel

/-! ### Faults, stops and power -/

/-- A head with faults of its own. -/
def faulty (f : Faults) (raw : Nat := 0) : State := { State.reset with flt := f, raw := raw }
def climb (rung : Nat) (blk : Nat := 3) : Climb := ⟨blk, 31, rung, some 255, 0, 0⟩

theorem wit_ladder :
    (∀ r, r < 5 → (faulty { climbs := [climb r] }).flt.climbs.find? (fun c => c.blk == 3 && c.ev == 31 && c.due ≤ 0) = some (climb r)) ∧
    (∀ b, b < 16 → neverAlone.contains b = true →
      (faulty { climbs := [climb 2 b] }).flt.climbs.find? (fun c => c.blk == b && c.ev == 31 && c.due ≤ 0) = some (climb 2 b)) ∧
    (neverAlone.contains 3 = false ∧ holdsAxes.contains 3 = true ∧ anyEnabled (faulty { climbs := [climb 2] }) = false ∧
      anyEnabled (setAxis (faulty { climbs := [climb 2] }) 255 { mode := 1 }) = true) ∧
    (∀ b, b < 16 → reachesB State.reset .pcie (ackReg b) 31 = true) ∧
    Reaches State.reset .pcie (Reg.FLT_HIST_CLR 15) 1 ∧
    ((faulty { resetting := [15] }).flt.resetting.contains 15 = true ∧ (faulty { deferred := [5] }).flt.deferred.contains 5 = true ∧
      anyEnabled (faulty { deferred := [5] }) = false ∧ onInstant (faulty { deferred := [5] }) = true) ∧
    (let s := faulty { quiesce := [5], resetRaw := [(5, 1)] } 64000001
     s.flt.resetting.contains 5 = false ∧ tget (fun _ => 0) s.flt.resetRaw 5 + 64 * cycleNs s ≤ s.raw) := by
  simp only [reaches_iff]; decide +kernel
theorem wit_stops :
    (let s := wr (faulty { stopRaw := some 0 } 0) Reg.FPM_STATUS 1
     s.flt.stopRaw = some 0 ∧ fbit s Reg.FPM_STATUS 0 = true ∧ s.flt.stoSent = false ∧ onInstant s = true ∧ atRest s = true) ∧
    (let s := { setAxis (wr (faulty { stopRaw := some 0 } 16383000000) Reg.FPM_STATUS 1) 0 { mode := 3 } with
       cyc := { State.reset.cyc with instant := 16383000000 } }
     onInstant s = true ∧ atRest s = false ∧ fld s Reg.FPM_CFG 13 0 * 1000000 ≤ s.raw - 0) ∧
    (Reaches State.reset .pcie Reg.FPM_CTRL 2 ∧ chipSafe State.reset = false) ∧
    (Reaches State.reset .pcie Reg.FPM_CTRL 1 ∧ State.reset.flt.climbs = []) ∧
    (Reaches (faulty { climbs := [climb 1] }) .pcie Reg.FPM_CTRL 1 ∧ (faulty { climbs := [climb 1] }).flt.climbs ≠ []) ∧
    (let s := wr (wr { State.reset with pwr := { factory := true, debugLevel := 2 } } Reg.FPM_INJ_TARGET 0xC1F) (Reg.FLT_SEV_HI 12) 0x40000000
     Reaches s .debug Reg.FPM_INJ_CTRL 1 ∧ s.pwr.factory = true ∧ s.pwr.debugLevel = 2 ∧ s.sec.fuseLock = false ∧
       fld s Reg.FPM_INJ_TARGET 15 8 = 12 ∧ fld s Reg.FPM_INJ_TARGET 4 0 = 31 ∧ severity s 12 31 ≤ 1 ∧ masker s 12 31 = none) ∧
    (let s : State := { State.reset with pwr := { aliveOn := true } }
     s.pwr.aliveOn = true ∧ fbit s Reg.FPM_ALIVE 1 = false ∧ s.pwr.lost.contains 0 = false ∧ s.pwr.aliveAt ≤ s.raw + 30500) ∧
    State.reset.pwr.tempSeen = false ∧
    (let s : State := { State.reset with raw := 1000000, pwr := { tempSeen := true } }
     s.pwr.tempSeen = true ∧ 1000000 ≤ s.raw - s.pwr.tempRaw ∧ fld s Reg.SYS_ORDER_CODE 0 0 = 0) := by
  simp only [reaches_iff]; decide +kernel
theorem wit_power :
    ((State.reset.pwr.queue.any fun x => x.requester == 255) = false ∧ 1 ≤ (8 : BitVec 4).toNat ∧ (8 : BitVec 4).toNat ≤ 8 ∧
      8 < (9 : BitVec 4).toNat) ∧
    (let q : Leave := ⟨39, 8, 4, 100, 1000, 0⟩
     let s : State := wr { State.reset with pwr := { queue := [q] } } (Reg.FPM_RAIL_LIMIT 4) 100
     nextLeave s 4 = some q ∧ leaveFits s q = true ∧ leaveFits (wr s (Reg.FPM_RAIL_LIMIT 4) 99) q = false ∧
       ∀ i, i < 4 → (spool s i).dump = none) ∧
    (let q : Leave := ⟨dumpRequester 3, 6, 0, 100, 1000, 0⟩
     let s : State := wr (setSpool { State.reset with pwr := { off := [], queue := [q] } } 3 { dump := some (0x5FFFFFF, 0x80000000, 1) })
       (Reg.FPM_RAIL_LIMIT 0) 100
     nextLeave s 0 = some q ∧ leaveFits s q = true ∧ (spool s 3).dump = some (0x5FFFFFF, 0x80000000, 1) ∧ 1 ≤ leaveBytes ∧
       s.pwr.off.contains .mem = false ∧ ∀ j, j < 4 → j ≠ 3 → (spool s j).dump = none) ∧
    (let q : Leave := ⟨39, 8, 4, 100, 1000, 0⟩
     let s : State := { State.reset with raw := 1000000, pwr := { granted := [q] } }
     (s.pwr.granted.find? fun g => g.requester == 39) = some q ∧ q.rail < 5 ∧ q.duration * 1000 ≤ s.raw - q.raw) ∧
    (Reaches State.reset .pcie Reg.FPM_MAINT_REQ (word 8) ∧ ∀ h ∈ holders State.reset, compat 8 h = true) ∧
    (let s := wr State.reset Reg.FPM_MAINT_STATUS 1
     Reaches s .pcie Reg.FPM_MAINT_REQ (word 8) ∧ (∃ h ∈ holders s, compat 8 h = false) ∧
       Reaches s .pcie Reg.FPM_MAINT_REQ (word (0 + 256))) := by
  simp only [reaches_iff]; decide +kernel

/-! ### Reset, configuration, update and protection -/

/-- A head with start-up and protection of its own. -/
def secHead (x : Sec) (status : Nat := 0) (raw : Nat := 0) : State :=
  wr { State.reset with sec := x, raw := raw } Reg.SEC_STATUS (word status)

theorem wit_reset : Awake State.reset ∧ ((secHead { inReset := true }).sec.inReset = true ∧ (secHead { inReset := true }).sec.powerFell = false ∧
      (secHead { inReset := true }).sec.longReset = false ∧ (30000 : Word).toNat ≤ 30000 ∧ 30000 < (30001 : Word).toNat) ∧
    fld (secHead {} 1) Reg.SEC_STATUS 2 0 = 1 := by
  simp only [Awake]; decide +kernel
/-- A head about to apply a set that holds one record. -/
def applyHead (type : Nat) : State :=
  let r : List Byte := leBytes 2 type ++ leBytes 2 0x100 ++ zeros 8 ++ leBytes 4 (crc32c [])
  let h : List Byte := leBytes 4 0x31474643 ++ leBytes 4 1 ++ leBytes 4 r.length ++ zeros 16
  wr (writeMem State.reset .nvm (areaAt 0) (h ++ leBytes 4 (crc32c h) ++ r)) Reg.SEC_STATUS 2
theorem wit_configuration :
    (let s := secHead {} 2
     fld s Reg.SEC_STATUS 2 0 = 2 ∧ onTrial s = false ∧ cfgSet (areaBytes s (fld s Reg.SEC_STATUS 5 5)) = none) ∧
    (let s := applyHead 13
     fld s Reg.SEC_STATUS 2 0 = 2 ∧ onTrial s = false ∧
       ((cfgSet (areaBytes s (fld s Reg.SEC_STATUS 5 5))).bind unreadable).isSome = true) := by decide +kernel
theorem wit_activation :
    (let s := setBit (secHead {} 0) Reg.SEC_BASTE_STATUS 0 true
     fbit s Reg.SEC_BASTE_STATUS 0 = true ∧ actRefusal s ≠ 0 ∧ onInstant s = true) ∧
    (let s := secHead { actCycle := some 8 }
     s.sec.actCycle = some 8 ∧ s.sec.ready = false ∧ ((8 : Word) - s.cyc.count).toNat ≤ 8 ∧
       (s.sec.asked.all fun w => s.sec.answered.contains w) = true) ∧
    (let s := secHead { actCycle := some 8, asked := [126] }
     (s.sec.asked.all fun w => s.sec.answered.contains w) = false) ∧
    (let s := secHead { actCycle := some 0, ready := true }
     s.sec.actCycle = some 0 ∧ s.sec.ready = true ∧ after 0 s.cyc.count = false ∧ s.sec.follow = false) ∧
    (let s := wr (wr (secHead { healthRaw := some 0, healthS := 30 } 0x43 30000000000) Reg.RING_STATE 5) Reg.SAFE_STATUS 1
     onTrial s = true ∧ s.sec.healthRaw = some 0 ∧ healthy s = true ∧
       ((if leads s then manifestWorkers s (manifestNow s) else []).all fun w => s.sec.workersOk.contains w) = true ∧
       s.sec.healthS * 1000000000 ≤ s.raw - 0) := by decide +kernel
theorem wit_sec_controls :
    Reaches (secHead {} 0x43) .pcie Reg.SEC_CTRL 1 ∧ onTrial (secHead {} 0x43) = true ∧
    (Reaches (setAxis (secHead {}) 255 { mode := 1 }) .pcie Reg.SEC_CTRL 2 ∧ anyEnabled (setAxis (secHead {}) 255 { mode := 1 }) = true ∧
      Reaches (setAxis (secHead {}) 255 { mode := 1 }) .pcie Reg.SEC_CTRL 16) ∧
    (let s := wr (secHead {} 3) Reg.RING_STATE 5
     Reaches s .pcie Reg.SEC_CTRL 2 ∧ anyEnabled s = false ∧ ringSt s = 5 ∧ onTrial s = false ∧
       epochLow s (slotManifest s (1 - fld s Reg.SEC_STATUS 4 4)) = false ∧ ∀ h ∈ holders s, compat 1 h = true) ∧
    Reaches (secHead {}) .pcie Reg.SEC_CTRL 4 ∧ Reaches (secHead {}) .proto Reg.SEC_CTRL 8 ∧
    (Reaches (secHead {}) .pcie Reg.SEC_CTRL 16 ∧ anyEnabled (secHead {}) = false) := by
  simp only [reaches_iff]; decide +kernel
theorem wit_protection :
    (let p : ProtReq := ⟨3, 5, 0, 0, 600⟩
     let s := secHead { prot := some p, localInput := some (31, 10), localSince := some 0 } 3 10000000000
     protNow s = some p ∧ s.sec.localInput = some (31, 10) ∧ s.sec.localSince = some 0 ∧ 10 * 1000000000 ≤ s.raw - 0 ∧
       p.raw ≤ s.raw - 10 * 1000000000) ∧
    (let p : ProtReq := ⟨0, 5, 0, 0, 1⟩
     let s := secHead { prot := some p } 3 1000000000
     s.sec.prot = some p ∧ p.expiry * 1000000000 ≤ s.raw - p.raw) ∧
    ({ State.reset with pwr := { debugLevel := 2 } } : State).pwr.debugLevel ≠ 0 := by decide +kernel

/-- The registers of the hash to activate hold the hash of an empty manifest, whatever it is. -/
def hashWord (i : Nat) : Word :=
  let b (k : Nat) : Nat := ((digestOf (Config.sha256 [])).getD (4 * i + k) 0).toNat
  BitVec.ofNat 32 (b 0 + 256 * b 1 + 65536 * b 2 + 16777216 * b 3)
def hashHead : State :=
  (List.range 8).foldl (fun s i => wr s (Reg.SEC_ACT_HASH i) (hashWord i))
    (setBit (wr (wr State.reset Reg.RING_STATE 5) Reg.SEC_STAGE_STATUS 2) Reg.SEC_BASTE_STATUS 0 true)

theorem le_word (a b c d : Byte) :
    leBytes 4 (BitVec.ofNat 32 (a.toNat + 256 * b.toNat + 65536 * c.toNat + 16777216 * d.toNat)).toNat = [a, b, c, d] := by
  have ha := a.isLt
  have hb := b.isLt
  have hc := c.isLt
  have hd := d.isLt
  simp only [leBytes, BitVec.toNat_ofNat, List.cons.injEq, and_true]
  refine ⟨?_, ?_, ?_, ?_⟩ <;> apply BitVec.eq_of_toNat_eq <;> simp only [BitVec.toNat_ofNat] <;> omega
theorem wit_activation_request : fbit hashHead Reg.SEC_BASTE_STATUS 0 = true ∧ actRefusal hashHead = 0 ∧ onInstant hashHead = true ∧
    ∀ h ∈ holders hashHead, compat 1 h = true := by
  have e (i : Nat) (hi : i < 8) : rd hashHead (Reg.SEC_ACT_HASH i) = hashWord i := by
    have c : i = 0 ∨ i = 1 ∨ i = 2 ∨ i = 3 ∨ i = 4 ∨ i = 5 ∨ i = 6 ∨ i = 7 := by omega
    rcases c with rfl | rfl | rfl | rfl | rfl | rfl | rfl | rfl <;> simp [hashHead, List.range_succ, rd_wr, Reg.SEC_ACT_HASH]
  have o (a : Nat) (ha : ∀ i, i < 8 → a ≠ Reg.SEC_ACT_HASH i) : rd hashHead a =
      rd (setBit (wr (wr State.reset Reg.RING_STATE 5) Reg.SEC_STAGE_STATUS 2) Reg.SEC_BASTE_STATUS 0 true) a := by
    have l (n : Nat) (hn : n ≤ 8) (s : State) : rd ((List.range n).foldl (fun s i => wr s (Reg.SEC_ACT_HASH i) (hashWord i)) s) a = rd s a := by
      induction n with
      | zero => rfl
      | succ n ih => rw [List.range_succ, List.foldl_append]; simp only [List.foldl_cons, List.foldl_nil]
                     rw [rd_wr_ne _ _ (ha n (by omega)), ih (by omega)]
    exact l 8 (by omega) _
  have hash : actHash hashHead = digestOf (Config.sha256 []) := by
    have h8 : (List.range 8).map (fun i => leBytes 4 (rd hashHead (Reg.SEC_ACT_HASH i)).toNat) = (List.range 8).map fun i =>
        (List.range 4).map fun k => (digestOf (Config.sha256 [])).getD (4 * i + k) 0 :=
      List.map_congr_left fun i hi => by rw [e i (List.mem_range.mp hi), hashWord, le_word]; rfl
    rw [actHash, h8]
    rfl
  have m : hashHead.sec.manifest = [] := rfl
  refine ⟨by rw [fbit, o _ (by decide)]; decide, ?_, rfl, ?_⟩
  · have r : ringSt hashHead = 5 := by unfold ringSt fld; rw [o _ (by decide)]; decide
    have g : fld hashHead Reg.SEC_STAGE_STATUS 1 0 = 2 := by unfold fld; rw [o _ (by decide)]; decide
    have t : hashHead.twin.pair = false := rfl
    have a : anyEnabled hashHead = false := rfl
    have u : paramUnagreed hashHead = false := by unfold paramUnagreed; rw [m]; rfl
    simp [actRefusal, r, g, t, a, u, hash, m]
  · have h : holders hashHead = [] := by
      unfold holders fbit
      rw [o _ (by decide)]
      decide
    rw [h]; exact fun _ h => nomatch h

/-- A configuration set without workers and axes, and a head about to apply it. -/
def wholeBytes : List Byte :=
  let rec' (t : Nat) (p : List Byte) : List Byte := leBytes 2 t ++ leBytes 2 0x100 ++ zeros 4 ++ leBytes 4 p.length ++ leBytes 4 (crc32c p) ++ p
  let r := rec' 1 ([0, 1, 0, 0, 100, 0, 1, 0] ++ zeros 8) ++ rec' 2 (List.replicate 95 3 ++ [5]) ++ rec' 3 (List.replicate 20 0xFF) ++
    rec' 4 [] ++ rec' 10 []
  let h : List Byte := leBytes 4 0x31474643 ++ leBytes 4 5 ++ leBytes 4 r.length ++ zeros 16
  h ++ leBytes 4 (crc32c h) ++ r
/-- Bytes as the entries of a memory from an address on. -/
def cells (a : Nat) : List Byte → Table Byte
  | [] => []
  | b :: bs => (a, b) :: cells (a + 1) bs
def wholeSet : State :=
  wr { State.reset with mem := { State.reset.mem with nvm := cells (areaAt 0) wholeBytes } } Reg.SEC_STATUS 2
def wholeRecords : List CfgRecord := [⟨1, 0x100, 0, false, [0, 1, 0, 0, 100, 0, 1, 0] ++ zeros 8, true⟩,
    ⟨2, 0x100, 0, false, List.replicate 95 3 ++ [5], true⟩, ⟨3, 0x100, 0, false, List.replicate 20 0xFF, true⟩,
    ⟨4, 0x100, 0, false, [], true⟩, ⟨10, 0x100, 0, false, [], true⟩]

theorem tget_cells (d : Nat → Byte) (l : List Byte) (a k : Nat) (h : k < l.length) : tget d (cells a l) (a + k) = l[k] := by
  induction l generalizing a k with
  | nil => cases h
  | cons b bs ih =>
    cases k with
    | zero => simp [cells, tget]
    | succ k =>
      have e : a + (k + 1) = a + 1 + k := by omega
      have n : ¬ a = a + 1 + k := by omega
      simpa [cells, tget, e, n] using ih (a + 1) k (by simpa using h)
theorem reads_cells (m : Mem) (l : List Byte) (a : Nat) (hm : m.nvm = cells a l) (k n : Nat) (h : k + n ≤ l.length) :
    m.reads .nvm (a + k) n = (l.drop k).take n := by
  induction n generalizing k with
  | zero => simp [Mem.reads]
  | succ n ih =>
    have hk : k < l.length := by omega
    have g := ih (k + 1) (by omega)
    rw [← Nat.add_assoc] at g
    rw [Mem.reads, g, Mem.read, Mem.table, hm, tget_cells _ l a k hk, List.drop_eq_getElem_cons hk, List.take_succ_cons]
theorem whole_bytes : areaBytes wholeSet 0 = wholeBytes := by
  have r (n : Nat) (h : n ≤ wholeBytes.length) : readMem wholeSet .nvm (areaAt 0) n = wholeBytes.take n := by
    show wholeSet.mem.reads .nvm (areaAt 0) n = _
    simpa using reads_cells wholeSet.mem wholeBytes (areaAt 0) rfl 0 n (by simpa using h)
  have l : wholeBytes.length = 244 := by decide +kernel
  unfold areaBytes
  rw [r 32 (by omega), show field (wholeBytes.take 32) 8 4 = 212 by decide +kernel]
  simp only [Nat.reduceAdd, Nat.reduceLeDiff, ↓reduceIte]
  rw [r 244 (by omega), List.take_of_length_le (by omega)]
theorem whole_records : cfgSet wholeBytes = some wholeRecords := by decide +kernel

/-- The set is applied where the currents that its opaque part reserves fit their rails. -/
theorem wit_configuration_applied
    (small : ∀ set r, Config.reservation set r + Config.steadyCurrent set r ≤ 65535) :
    fld wholeSet Reg.SEC_STATUS 2 0 = 2 ∧ onTrial wholeSet = false ∧
      cfgSet (areaBytes wholeSet (fld wholeSet Reg.SEC_STATUS 5 5)) = some wholeRecords ∧ unreadable wholeRecords = none ∧
      miscounted wholeRecords = none ∧
      ∃ u, applyAll (areaBytes wholeSet (fld wholeSet Reg.SEC_STATUS 5 5)) (wholeRecords.any fun r => r.type == 5) wholeSet
        (inOrder wholeRecords) = .ok u := by
  have area : fld wholeSet Reg.SEC_STATUS 5 5 = 0 := by decide +kernel
  rw [area, whole_bytes]
  refine ⟨by decide +kernel, by decide +kernel, whole_records, by decide +kernel, by decide +kernel, ?_⟩
  have order : inOrder wholeRecords = wholeRecords := by decide +kernel
  rw [order, show (wholeRecords.any fun r => r.type == 5) = false by decide]
  generalize wholeBytes = set
  obtain ⟨u1, h1⟩ := Option.isSome_iff_exists.mp
    (show (applyTopology wholeSet false ([0, 1, 0, 0, 100, 0, 1, 0] ++ zeros 8)).isSome = true by decide +kernel)
  have two (u : State) : (applyPartition u (List.replicate 95 3 ++ [5])).isSome = true := by
    unfold applyPartition guarded
    rw [if_pos (by decide +kernel)]
    rfl
  obtain ⟨u2, h2⟩ := Option.isSome_iff_exists.mp (two u1)
  have three (u : State) : (applyBudget u set (List.replicate 20 0xFF)).isSome = true := by
    unfold applyBudget guarded
    rw [if_pos ?_]
    · rfl
    · rw [Bool.and_eq_true, List.all_eq_true]
      refine ⟨by decide, fun r hr => decide_eq_true ?_⟩
      have f : field (List.replicate 20 (0xFF : Byte)) (4 * r) 2 = 65535 := by
        have c : r = 0 ∨ r = 1 ∨ r = 2 ∨ r = 3 ∨ r = 4 := by have := List.mem_range.mp hr; omega
        rcases c with rfl | rfl | rfl | rfl | rfl <;> decide
      exact Nat.le_trans (small set r) (Nat.le_of_eq f.symm)
  obtain ⟨u3, h3⟩ := Option.isSome_iff_exists.mp (three u2)
  have four : applyPolicy u3 [] = some u3 := rfl
  have ten : guarded (parseSet []).isSome u3 = some u3 := rfl
  refine ⟨u3, ?_⟩
  simp only [wholeRecords, applyAll, applyRecord, h1, h2, h3, four, ten]

/-! ### Requests of the command protocol -/

/-- A request over the network on the last flow. -/
def udpReq (payload : List Byte) : Req := { ep := .udp 0x0A000001 40000 1, flow := 239, seq := 7, payload := payload }
/-- A head on which that flow is open and expects the request. -/
def withFlow (s : State) : State := setFlow s 239 { owner := some (.udp 0x0A000001 40000 1), expected := 7 }
/-- The row of a register has a property. -/
def rowIs (a : Nat) (p : RegRow → Bool) : Bool :=
  match regAt a with
  | some (r, _, _) => p r
  | none => false

theorem requests_udp (payload : List Byte) : Requests (withFlow State.reset) (udpReq payload) ∧
    Requests (withFlow (awakeArchive State.reset [])) (udpReq payload) :=
  ⟨requests_of (by show requestsB (withFlow State.reset) (udpReq []) = true; decide +kernel),
    requests_of (by show requestsB (withFlow (awakeArchive State.reset [])) (udpReq []) = true; decide +kernel)⟩
/-- A head in host recovery takes a request too. -/
theorem requests_recovery (payload : List Byte) : Requests (wr (withFlow State.reset) Reg.SEC_STATUS 5) (udpReq payload) true :=
  requests_of (by show requestsB (wr (withFlow State.reset) Reg.SEC_STATUS 5) (udpReq []) true = true; decide +kernel)
theorem wit_recovery : holders (wr (withFlow State.reset) Reg.SEC_STATUS 5) = [] ∧
    ((partsOf []).any fun p => (if p.cls == 5 then 0x300000 else slotSize State.reset) <
      (if p.cls == 5 then 0 else p.offset) + p.length) = false := by decide +kernel
/-- The hypotheses on the key area and its keys rest on the opaque reading of an area: they are met where it reads some area so. -/
theorem wit_keys (area : List Byte) (k : Config.KeyArea) (some_area : area ≠ []) (reads : Config.keyArea area = some k) :
    keysInForce (secHead { keys := area } 3) = some k ∧ (secHead { keys := area } 3).sec.lockout = false ∧
      ∀ h ∈ holders (secHead { keys := area } 3), compat 8 h = true := by
  have none_held : holders (secHead { keys := area } 3) = [] :=
    show holders (secHead {} 3) = [] by decide
  refine ⟨?_, rfl, by rw [none_held]; exact fun _ h => nomatch h⟩
  unfold keysInForce
  rw [if_neg (by simpa [secHead, wr] using some_area)]
  exact reads
theorem requests_legacy (payload : List Byte) : Requests State.reset { ep := .legacy 7, flow := 247, seq := 0, payload := payload } :=
  requests_of (by show requestsB State.reset { ep := .legacy 7, flow := 247, seq := 0, payload := [] } = true; decide +kernel)
theorem wit_direct : Direct (withFlow State.reset) := ⟨rfl, by decide +kernel, rfl, rfl⟩

theorem wit_reads : let s := withFlow (awakeArchive State.reset [])
    (Readable s .proto Reg.SEC_SERIAL_LO ∧ blockOf Reg.SEC_SERIAL_LO ≠ MBX ∧ Reg.SEC_SERIAL_LO < 0x21000000 ∧ Reg.SEC_SERIAL_LO % 4 = 0 ∧
      rowIs Reg.SEC_SERIAL_LO (fun r => r.acc != .wo && r.acc != .w1p && r.acc != .rc) = true ∧
      4 ≤ rspLimit (accepted s (udpReq [])) (udpReq []).ep (udpReq []).flow.toNat) ∧
    (Readable s .proto Reg.HOST_MSG_CNT ∧ rowIs Reg.HOST_MSG_CNT (fun r => r.acc == .rc) = true) ∧
    (0x5FFFFFC + 4 ≤ boltEnd ∧ 0xFFFFFFFC + 4 ≤ archEnd ∧ s.pwr.off.contains .mem = false) ∧
    (4092 + 4 ≤ (spArea (setAct s (Reg.ACQ_SP_LEN 3) 4096) 3).2 ∧ spArch (setAct s (Reg.ACQ_SP_LEN 3) 4096) 3 = false) := by
  simp only [readable_iff]; decide +kernel
theorem wit_status_requests : let s := withFlow State.reset
    (tget (fun _ => []) s.ring.wmbx 126 : List (List Byte)) = [] ∧
    (let t := ringMod s fun r => { r with wmbx := [(126, [[1]])] }
     (tget (fun _ => []) t.ring.wmbx 126 : List (List Byte)) = [1] :: [] ∧
       4 + (padMul 4 [1]).length ≤ rspLimit (accepted t (udpReq [])) (udpReq []).ep (udpReq []).flow.toNat) ∧
    (s.flt.resetting.contains FPM = false ∧ (∀ h ∈ holders s, compat 8 h = true) ∧
      ∃ h ∈ holders (wr s Reg.FPM_MAINT_STATUS 1), compat 8 h = false) := by decide +kernel
theorem wit_subscribe : ∀ l, (udpReq []).ep ≠ .legacy l := nofun
theorem wit_writes : let s := withFlow State.reset
    (Reaches s .proto Reg.HOST_CFG 5 ∧ blockOf Reg.HOST_CFG ≠ SAFE ∧ rowIs Reg.HOST_CFG (fun r => storesOnly 15 r.off) = true) ∧
    (0x5FFFFFC + 4 ≤ boltEnd ∧ (boltParts { s with part := List.replicate 96 0 } 0x5FFFFFC 4).contains 5 = false) ∧
    ((s.flt.resetting.contains PROF = false ∧ blockOff s PROF = false) ∧ inPart s 0 0 1 = true ∧ (group s 63).state = 0 ∧
      (guardOn s 31 && (enabled s (guardAxes s 31).1 || enabled s (guardAxes s 31).2)) = false ∧
      (let t := setAxis (wr s (Reg.PROF_GRD_CFG 31) 0x1FF00) 255 { mode := 1 }
       (guardOn t 31 && (enabled t (guardAxes t 31).1 || enabled t (guardAxes t 31).2)) = true)) ∧
    (let b : List Byte := [2, 0] ++ zeros 14 ++ [32, 0] ++ zeros 14
     let t := wr s (Reg.PROF_GRP_QLEN 63) 1024
     segRecords b.length b = some [b] ∧ (rd t (Reg.PROF_GRP_WR_PTR 63)).toNat = 0 ∧ (rd t (Reg.PROF_GRP_RD_PTR 63)).toNat = 0 ∧
       (rd t (Reg.PROF_GRP_QLEN 63)).toNat = 1024 ∧ b.length + 8 ≤ queueFree 1024 0 0 ∧
       (rd t (Reg.PROF_GRP_QBASE 63)).toNat + 1024 ≤ boltEnd) ∧
    (let t := wr s (Reg.FBC_CMP_QLEN 31) 1024
     (t.flt.resetting.contains FBC = false ∧ blockOff t FBC = false ∧ t.flt.resetting.contains ACQ = false ∧ blockOff t ACQ = false) ∧
       fbit t Reg.FBC_BASTE_STATUS 0 = false ∧ fbit t (Reg.FBC_CMP_STATUS 31) 1 = false ∧ (rd t (Reg.FBC_CMP_WR_PTR 31)).toNat = 0 ∧
       (rd t (Reg.FBC_CMP_RD_PTR 31)).toNat = 0 ∧ (rd t (Reg.FBC_CMP_QLEN 31)).toNat = 1024 ∧ 32 ≤ queueFree 1024 0 0 ∧
       (rd t (Reg.FBC_CMP_QBASE 31)).toNat + 1024 ≤ boltEnd ∧ cellOff t FBC (16 + 31) = false ∧ grpMember t 3 = false ∧ spBusy t 3 = false) := by
  simp only [reaches_iff]; decide +kernel
theorem wit_waits :
    let s := withFlow (laneHead 255 false)
    (s.flt.resetting.contains PROF = false ∧ blockOff s PROF = false ∧ fbit s Reg.PROF_BASTE_STATUS 0 = false) ∧
    (s.flt.resetting.contains LOOP = false ∧ blockOff s LOOP = false ∧ configured s 255 = true ∧ laneOp s (255 % 16) = none ∧
      fbit s Reg.LOOP_BASTE_STATUS (255 % 16) = false ∧ fbit s Reg.LOOP_BANK_STATUS (255 % 16) = false) ∧
    (fbit s Reg.PROF_CMD_STATUS 0 = false ∧
      let t : State := { s with pwr := { s.pwr with off := [.mot] } }
      t.flt.resetting.contains PROF = false ∧ blockOff t PROF = true ∧ fbit t Reg.PROF_CMD_STATUS 0 = false) ∧
    (s.flt.resetting.contains SEC = false ∧ fbit s Reg.SEC_BASTE_STATUS 0 = false) ∧
    tqueue s 1 1 = [] ∧ freeSlot s = some 0 ∧ slotFor s 126 = none := by decide +kernel
theorem requests_waits (payload : List Byte) : Requests (withFlow (laneHead 255 false)) (udpReq payload) ∧ Direct (withFlow (laneHead 255 false)) :=
  ⟨requests_of (by show requestsB (withFlow (laneHead 255 false)) (udpReq []) = true; decide +kernel), ⟨rfl, by decide +kernel, rfl, rfl⟩⟩

/-- A manifest of one part of two blocks, being staged. -/
def stageHead : State :=
  let m : List Byte := zeros 6 ++ [1, 0] ++ zeros 56 ++ zeros 8 ++ zeros 4 ++ leBytes 4 8192 ++ zeros 64
  wr (secMod (withFlow State.reset) fun x => { x with manifest := m }) Reg.SEC_STAGE_STATUS 1
theorem wit_update :
    (manifestForm State.reset [] = false ∧ (∀ h ∈ holders State.reset, h ≠ 0 → compat 0 h = true) ∧ 0 ∉ holders State.reset) ∧
    (fld stageHead Reg.SEC_STAGE_STATUS 1 0 = 1 ∧ 0 < (partsOf stageHead.sec.manifest).length ∧
      4096 < (partAt stageHead.sec.manifest 0).length ∧ stageHead.sec.blocks.contains (0, 4096) = false ∧ 2 ≤ blocksMissing stageHead ∧
      (partAt stageHead.sec.manifest 0).cls ≠ 4) ∧ protNow State.reset = none := by decide +kernel
theorem wit_block (block : List Byte) (h : block.length = 4096) : ∃ hash q, Requests stageHead q ∧ hash.length = 32 ∧
    digestOf (Config.sha256 block) = hash ∧ q.payload = leBytes 4 0 ++ leBytes 4 4096 ++ hash ++ block ∧ block.length = 4096 :=
  ⟨digestOf (Config.sha256 block), udpReq (leBytes 4 0 ++ leBytes 4 4096 ++ digestOf (Config.sha256 block) ++ block),
    requests_of (by show requestsB stageHead (udpReq []) = true; decide +kernel), rfl, rfl, rfl, h⟩

/-! ### Registers, responses, flows, ring pairs and the network -/

theorem wit_registers :
    (NoRequests State.reset ∧ Reaches State.reset .pcie Reg.HOST_CFG 5 ∧ blockOf Reg.HOST_CFG ≠ SAFE ∧ Reg.HOST_CFG % 4 = 0 ∧
      rowIs Reg.HOST_CFG (fun r => storesOnly 15 r.off) = true) ∧
    (Readable State.reset .pcie Reg.HOST_MSG_CNT ∧ blockOf Reg.HOST_MSG_CNT ≠ MBX ∧
      rowIs Reg.HOST_MSG_CNT (fun r => r.acc == .rc) = true) := by
  simp only [NoRequests, reaches_iff, readable_iff]; decide +kernel
/-- A request that waits. -/
def waiter (ep : Endpoint) (w : WaitFor) : Waiting := ⟨3, ep, 239, 7, 0x0301, w, 2, 5, 1, 2, 0, 16⟩
theorem wit_responses :
    (flow (withFlow State.reset) 239).owner = some (waiter (.udp 0x0A000001 40000 1) (.ready 0 [])).ep ∧
    ((flow (withFlow State.reset) 239).limit < 8193 ∧ [1].length ≤ (flow (withFlow State.reset) 239).limit) ∧
    (let s := wr (wr State.reset (Reg.HOST_RING_STATUS 7) 0x20001) (Reg.HOST_CQ_SIZE 7) 4
     (ringOf s 7).backlog = [] ∧ cqFull s 7 = false ∧ 1 < fld s (Reg.HOST_RING_STATUS 7) 31 16) := by decide +kernel
theorem wit_flows :
    (let w := waiter (.udp 1 2 0) (.ready 0 [])
     (hostMod State.reset fun h => { h with waiting := [w] }).host.waiting = [w]) ∧
    (let w := waiter (.udp 1 2 0) (.result Reg.PROF_CMD_STATUS 4 1 1 0)
     let s := hostMod State.reset fun h => { h with waiting := [w] }
     unapplied s w = false ∧ opPending s w Reg.PROF_CMD_STATUS = false) ∧
    (let w := waiter (.udp 1 2 0) (.service 0x0501)
     let d : SvcDone := ⟨.host 3, 126, 1, 1, []⟩
     let s := ringMod (hostMod State.reset fun h => { h with waiting := [w] }) fun r => { r with done := [d] }
     s.ring.done = [d] ∧ d.origin = .host w.id ∧ d.result ≠ 0) ∧
    ((flow State.reset 239).owner = none ∧ 256 ≤ 8192) ∧
    (let s : State := { withFlow State.reset with raw := 600000000000 }
     (flow s 239).owner = some (.udp 0x0A000001 40000 1) ∧ (flow s 239).last + max 1 (min 600 (fld s Reg.HOST_CFG 9 0)) * 1000000000 ≤ s.raw) ∧
    msgOk [] 8192 = false := by decide +kernel
/-- A head whose last ring pair is enabled with one entry to fetch. -/
def ringHead : State := wr (wr (wr State.reset (Reg.HOST_RING_STATUS 7) 1) (Reg.HOST_SQ_TAIL 7) 1) (Reg.HOST_SQ_SIZE 7) 4
def ringReq : Req := { ep := .ring 7, flow := 239, seq := 7, payload := [], rspAddr := 64, rspCap := 16 }
theorem wit_ring_pairs :
    (Reaches ringHead .pcie (Reg.HOST_SQ_TAIL 7) 15 ∧ ((15 : Word) &&& 0xFFF).toNat < ringLen ringHead (Reg.HOST_SQ_SIZE 7) ∧
      ringLen ringHead (Reg.HOST_SQ_SIZE 7) ≤ ((16 : Word) &&& 0xFFF).toNat ∧ Reaches ringHead .pcie (Reg.HOST_SQ_TAIL 7) 16) ∧
    (fbit ringHead (Reg.HOST_RING_STATUS 7) 0 = true ∧ fld ringHead (Reg.HOST_SQ_HEAD 7) 11 0 ≠ fld ringHead (Reg.HOST_SQ_TAIL 7) 11 0) ∧
    (Reaches ringHead .pcie (Reg.HOST_CQ_HEAD 7) 15 ∧ (ringOf ringHead 7).backlog = [] ∧ Reaches ringHead .pcie Reg.HOST_EVQ_HEAD 15) ∧
    (Reaches ringHead .pcie (Reg.HOST_RING_CTRL 7) 1 ∧ fbit ringHead (Reg.HOST_RING_CTRL 7) 0 = false) ∧
    (let s := wr ringHead (Reg.HOST_RING_CTRL 7) 1
     Reaches s .pcie (Reg.HOST_RING_CTRL 7) 0 ∧ fbit s (Reg.HOST_RING_CTRL 7) 0 = true ∧ fld s (Reg.HOST_RING_STATUS 7) 31 16 = 0) ∧
    (let s : State := { setRing (wr State.reset Reg.HOST_EVQ_CTRL 0x10002) 8 { count := 1 } with raw := 1000 }
     (ringOf s 8).count ≠ 0 ∧ fld s (vecCtrl 8) 31 16 ≠ 0 ∧ fbit s (vecCtrl 8) 1 = true ∧
       (ringOf s 8).firstRaw + 1000 * fld s (vecCtrl 8) 31 16 ≤ s.raw) := by
  simp only [reaches_iff]; decide +kernel
theorem wit_entry :
    let s := setFlow ringHead 239 { owner := some (.ring 7), expected := 7 }
    let e : List Byte := leBytes 8 0 ++ leBytes 4 16 ++ zeros 4 ++ leBytes 8 64 ++ leBytes 4 16 ++ zeros 4
    goodEntry e ∧ field e 8 4 = 16 + ringReq.payload.length ∧ ringReq.tag.toNat = field e 14 2 ∧
      ringReq.sqIndex.toNat = fld s (Reg.HOST_SQ_HEAD 7) 11 0 ∧ ringReq.rspAddr.toNat = field e 16 8 ∧
      ringReq.rspCap.toNat = field e 24 4 ∧ requestsB (fetchedEntry s 7) ringReq = true := by
  simp only [goodEntry]; decide +kernel
/-- An ARP request and an ICMP echo request for address 10.0.0.2. -/
def arpFrame : List Byte := zeros 12 ++ [8, 6, 0, 1, 8, 0, 6, 4, 0, 1] ++ zeros 16 ++ [10, 0, 0, 2]
def pingFrame : List Byte := zeros 12 ++ [8, 0, 0x45, 0, 0, 28, 0, 0, 0, 0, 64, 1] ++ zeros 6 ++ [10, 0, 0, 2, 8, 0] ++ zeros 6
theorem wit_network :
    (let f : List Byte := [0, 1, 2, 3, 4, 5, 0, 1, 2, 3, 4, 6, 0, 0]
     let s := setBit (hostMod State.reset fun h => { h with stations := [(0x000102030405, 1, 0)] }) Reg.HOST_STATUS 9 true
     s.pwr.off.contains .host = false ∧ 14 ≤ f.length ∧ byteAt f 0 % 2 = 0 ∧ slice f 0 6 ≠ stationAddr s ∧
       (s.host.stations.find? fun e => e.1 == beField f 0 6) = some (beField f 0 6, 1, 0) ∧ beField f 6 6 ≠ beField f 0 6 ∧
       fbit s Reg.HOST_STATUS (8 + 1) = true ∧ s.host.stations.length < 1024) ∧
    (let s := wr State.reset Reg.HOST_IP1 0x0A000002
     42 ≤ arpFrame.length ∧ beField arpFrame 12 2 = 0x0806 ∧ slice arpFrame 14 6 = [0, 1, 8, 0, 6, 4] ∧ beField arpFrame 20 2 = 1 ∧
       ownIp s (beField arpFrame 38 4) = true ∧ served s pingFrame = true ∧ beField pingFrame 12 2 = 0x0800 ∧ byteAt pingFrame 23 = 1 ∧
       ownIp s (beField pingFrame 30 4) = true ∧ beField pingFrame 16 2 = 28 ∧ 14 + 28 ≤ pingFrame.length) ∧
    (Reaches State.reset .pcie (0x20000000 + 0xF00000) 5 ∧ blockOf (0x20000000 + 0xF00000) ≠ SAFE ∧
      rowIs (0x20000000 + 0xF00000) (fun r => storesOnly 15 r.off) = true) ∧
    (boltParts State.reset 0 4).contains 5 = false ∧ twinSt State.reset = 0 ∧
    (awakeArchive State.reset []).pwr.off.contains .mem = false := by
  simp only [reaches_iff]; decide +kernel

/-! ### The well-formedness check -/

theorem test_shuttle_too_long : (Instr.shuttleReturn (zeros 16385) true).wellFormed = false := by decide +kernel
theorem test_foreign_shuttle_too_long : (Instr.foreignShuttle (zeros 16385)).wellFormed = false := by decide +kernel
theorem test_turnaround_too_long : (Instr.shuttleTurnaround (zeros 16419) true).wellFormed = false := by decide +kernel
theorem test_forward_too_long : (Instr.frameForward (zeros 16419) true).wellFormed = false := by decide +kernel
theorem test_service_target : (Instr.serviceRequestStart 127 1 0 []).wellFormed = false := by decide
theorem test_service_broadcast : (Instr.serviceRequestStart 0x80 1 0 []).wellFormed = true := by decide
theorem test_service_data : (Instr.serviceRequestStart 1 1 0 (zeros 55)).wellFormed = false := by decide
theorem test_phase_data : (Instr.phaseRestoreResponse 0 0 (zeros 55)).wellFormed = false := by decide
theorem test_macl_mode : (Instr.macl 0 0 0 0 0 0 0 0 0).wellFormed = false := by decide
theorem test_mpyl_mode : (Instr.mpyl 0 0 0 0 0 0 3 0 0).wellFormed = false := by decide
theorem test_condition : (Instr.b 0 9 0).wellFormed = false := by decide
theorem test_journal_kind : (Instr.journalStamp 4 0 0 []).wellFormed = false := by decide
theorem test_connection : (Instr.selvedgeWatchdog 134).wellFormed = false := by decide

theorem test_reset_time : (Instr.blockResetDone 0 201).wellFormed = false := by decide
theorem test_readings : (Instr.temperatureRefresh [0, 0, 0, 0, 0]).wellFormed = false := by decide
theorem test_leave_requester : (Instr.leaveRequest 40 1 0 0 0).wellFormed = false := by decide
theorem test_leave_class : (Instr.leaveRequest 0 9 0 0 0).wellFormed = false := by decide
theorem test_leave_duration : (Instr.leaveRequest 0 1 0 0 1001).wellFormed = false := by decide
theorem test_leave_end : (Instr.leaveEnd 40 false).wellFormed = false := by decide
theorem test_maint_request : (Instr.maintRequest .pcie 9).wellFormed = false := by decide
theorem test_maint_release : (Instr.maintRelease .pcie 9).wellFormed = false := by decide
theorem test_request_payload : (Instr.echo { ep := .ring 0, flow := 0, seq := 0, payload := zeros 8193 }).wellFormed = false := by decide +kernel
theorem test_debug_signatures : (Instr.debugOpen { level := 2, minutes := 1 }).wellFormed = false := by decide
theorem test_entry_length : (Instr.sqEntryFetch 0 (zeros 31) [] true).wellFormed = false := by decide
theorem test_byte_enables : (Instr.pcieBarAccess { bar := 0, offset := 0, write := true, bytes := [0] }).wellFormed = false := by decide

/-! ### Words of the Hem instruction set, field by field from the tables of R252 and R254 -/

/-- The worked example of R254, as the word that it names and field by field: op, a, dd, ds, dt, p, am, mm, fr, x, and bits 7:0. -/
theorem test_word_mpyl : hemDecode 0x4D451300 = some (.mpyl 0 5 0 5 0 1 0 1) ∧
    (0x13#6 ++ 0#1 ++ 5#3 ++ 0#3 ++ 5#3 ++ 0#2 ++ 1#2 ++ 0#2 ++ 1#1 ++ 1#1 ++ 0#8 : Word) = 0x4D451300 := by decide
theorem test_word_nop : hemDecode (0x00#6 ++ 0#26 : Word) = some .nop := by decide
theorem test_word_ldi : hemDecode (0x01#6 ++ 0#1 ++ 6#3 ++ 0#6 ++ 0xBEEF#16 : Word) = some (.ldi 6 0xBEEF) := by decide
theorem test_word_lda : hemDecode (0x05#6 ++ 1#1 ++ 0#3 ++ 0#6 ++ 2#2 ++ 3#2 ++ 0x7FC#12 : Word) = some (.lda 1 2 3 0x7FC) := by decide
theorem test_word_staw : hemDecode (0x0E#6 ++ 1#1 ++ 0#9 ++ 1#2 ++ 2#2 ++ 0#12 : Word) = some (.staW 1 1 2 0) := by decide
theorem test_word_ldp : hemDecode (0x0A#6 ++ 3#2 ++ 0#4 ++ 0xABCDE#20 : Word) = some (.ldp 3 0xABCDE) := by decide
theorem test_word_macl : hemDecode (0x13#6 ++ 1#1 ++ 2#3 ++ 3#3 ++ 4#3 ++ 1#2 ++ 2#2 ++ 3#2 ++ 0#1 ++ 0#1 ++ 0#8 : Word) =
    some (.macl 1 2 3 4 1 2 3 0) := by decide
theorem test_word_asl : hemDecode (0x15#6 ++ 1#1 ++ 0#19 ++ 0x20#6 : Word) = some (.asl 1 0x20) := by decide
theorem test_word_shl : hemDecode (0x1D#6 ++ 0#1 ++ 1#3 ++ 2#3 ++ 0#14 ++ 0x11#5 : Word) = some (.shl 1 2 0x11) := by decide
theorem test_word_sub : hemDecode (0x19#6 ++ 0#1 ++ 1#3 ++ 2#3 ++ 3#3 ++ 0#16 : Word) = some (.sub 1 2 3) := by decide
theorem test_word_b : hemDecode (0x20#6 ++ 8#4 ++ 0#10 ++ 0xFFF#12 : Word) = some (.b 8 0xFFF) := by decide
theorem test_word_post : hemDecode (0x29#6 ++ 1#1 ++ 0#16 ++ 1#1 ++ 0#6 ++ 2#2 : Word) = some (.postA 1 2) := by decide
theorem test_word_rdo : hemDecode (0x28#6 ++ 0#1 ++ 7#3 ++ 0#13 ++ 0#1 ++ 0#6 ++ 3#2 : Word) = some (.rdoD 7 3) := by decide
theorem test_word_end : hemDecode (0x2A#6 ++ 0#26 : Word) = some .end_ := by decide
/-- A reserved opcode, a reserved condition, a load in the form am 0 and a bit in an unused field are illegal (R253, R254). -/
theorem test_words_illegal : hemDecode (0x3F#6 ++ 0#26 : Word) = none ∧ hemDecode (0x20#6 ++ 9#4 ++ 0#22 : Word) = none ∧
    hemDecode (0x13#6 ++ 0#26 : Word) = none ∧ hemDecode (0x2A#6 ++ 0#25 ++ 1#1 : Word) = none := by decide
/-- The table gives no row any bits. -/
theorem test_no_table_word : decodeTableWord 0 0 = none := rfl

/-! ### Worked examples -/

/-- The active bank of core 0 after an instruction that its program memory holds at address 0. -/
def bankAfter (ins : Instr) (i : HemInstr) (b : HemBank) : Option HemBank :=
  match exec ins (hemAt 0 i b) with
  | .next t => some (hemCore t 0).bank
  | _ => none
/-- The first two bytes of core 0's data memory after a store-high through p0 of an accumulator, and sat. -/
def stored (size : Nat) (acc : BitVec 40) : Option (List Byte × Bool) :=
  match exec (if size == 2 then .staH 0 0 0 0 0 else .staW 0 0 0 0 0) (hemAt 0 (if size == 2 then .staH 0 0 0 0 else .staW 0 0 0 0) { a0 := acc }) with
  | .next t => some ((hemCore t 0).bytes 0 size, bit (hemCore t 0).bank.st.toNat 2)
  | _ => none

/-- The examples of R243-R245. -/
theorem test_store_high_half : stored 2 0x0012348000 = some ([0x35, 0x12], false) := by decide +kernel
theorem test_store_high_negative_half : stored 2 0xFFEDCB8000 = some ([0xCC, 0xED], false) := by decide +kernel
theorem test_store_high_minus_half : stored 2 0xFFFFFF8000 = some ([0, 0], false) := by decide +kernel
theorem test_store_high_top : stored 2 0x007FFF8000 = some ([0xFF, 0x7F], true) := by decide +kernel
theorem test_store_high_bottom : stored 2 0xFF80000000 = some ([0, 0x80], false) := by decide +kernel
theorem test_store_word_below : stored 4 0xFE00000000 = some ([0, 0, 0, 0x80], true) := by decide +kernel
theorem test_store_word_above : stored 4 0x0100000000 = some ([0xFF, 0xFF, 0xFF, 0x7F], true) := by decide +kernel
theorem test_fractional_square : (bankAfter (.mpy 0 0 1 2 0 1) (.mpy 0 1 2 0 1) { d := [(1, 0x8000), (2, 0x8000)] }).map (fun b => (b.a0, b.st)) =
    some (0x0080000000, 0) := by decide +kernel
theorem test_fractional_square_moved : (bankAfter (.mvh 0 3 0) (.mvh 3 0) { a0 := 0x0080000000 }).map (fun b => (b.dr 3, b.st)) =
    some (0x7FFF, 4) := by decide +kernel
/-- Mixed signs (R243): mm 2 reads the first operand signed and the second unsigned. -/
theorem test_mixed_signs : (bankAfter (.mpy 0 1 1 2 2 0) (.mpy 1 1 2 2 0) { d := [(1, 0xFFFF), (2, 0xFFFF)] }).map (·.a1) =
    some (BitVec.ofInt 40 (-65535)) := by decide +kernel
/-- A sum past 2^39 - 1 wraps and sets ovf (R244). -/
theorem test_adda_wraps : (bankAfter (.adda 0 0) (.adda 0) { a0 := 0x7FFFFFFFFF, a1 := 1 }).map (fun b => (b.a0, b.st)) =
    some (0x8000000000, 8) := by decide +kernel
/-- A right shift rounds toward minus infinity (R244). -/
theorem test_asl_right : (bankAfter (.asl 0 0 0x3F) (.asl 0 0x3F) { a0 := 0xFFFFFFFFFF }).map (·.a0) = some 0xFFFFFFFFFF := by decide +kernel
/-- Saturation and the flags of the 16-bit result (R246). -/
theorem test_add_saturates : (bankAfter (.add 0 1 1 2) (.add 1 1 2) { d := [(1, 0x7FFF), (2, 1)] }).map (fun b => (b.dr 1, b.st)) =
    some (0x7FFF, 4) := by decide +kernel
/-- CMP takes n from the exact difference (R246). -/
theorem test_cmp_exact : (bankAfter (.cmp 0 1 2) (.cmp 1 2) { d := [(1, 0x8000), (2, 1)] }).map (·.st) = some 1 := by decide +kernel
/-- The check values of R68 and R399. -/
theorem test_crc16 : crc16 [0x31, 0x32, 0x33, 0x34, 0x35, 0x36, 0x37, 0x38, 0x39] = 0xD0DB := by decide +kernel
/-- The station address of R540 and the journal entry of R365 have their sizes. -/
theorem test_journal_entry_length : ({ data := zeros 5 } : JEntry).bytes.length = 24 := by decide
/-- Compatible activities of R475: topology re-check beside a spool dump, and a resynchronisation not beside a swap. -/
theorem test_activities : compat 6 7 = true ∧ compat 3 2 = false := by decide

end Sys2Proof.Tests
end

/-! ## Register accesses: writes that only store, and reads that clear (R10, R11) -/

namespace Sys2Proof.Machine

/-! ### A write by its access type -/

/-- The word that a register holds after a write by its access type to the word it held before (R10). -/
def storedWord (r : RegRow) (old v : Word) : Word :=
  match r.acc with
  | .rw => (old &&& ~~~r.mask) ||| (v &&& r.mask)
  | .wo => v &&& r.mask
  | .w1c => old &&& ~~~(v &&& r.mask)
  | _ => old

theorem rd_storeRow_same (s : State) (a : Nat) (r : RegRow) (v : Word) :
    rd (storeRow s a r v) a = storedWord r (rd s a) v := by
  unfold storeRow storedWord
  cases r.acc <;> simp only [rd_wr_same]

theorem rd_storeRow_ne (s : State) {a b : Nat} (r : RegRow) (v : Word) (h : b ≠ a) :
    rd (storeRow s a r v) b = rd s b := by
  unfold storeRow
  cases r.acc <;> simp only [rd_wr_ne _ _ h]

/-- A write by its access type changes nothing but the registers. -/
theorem storeRow_frame (s : State) (a : Nat) (r : RegRow) (v : Word) :
    storeRow s a r v = { s with regs := (storeRow s a r v).regs } := by
  unfold storeRow
  cases r.acc <;> rfl

@[simp] theorem storeRow_mem (s : State) (a : Nat) (r : RegRow) (v : Word) : (storeRow s a r v).mem = s.mem := by
  rw [storeRow_frame]
@[simp] theorem storeRow_act (s : State) (a : Nat) (r : RegRow) (v : Word) : (storeRow s a r v).act = s.act := by
  rw [storeRow_frame]
@[simp] theorem storeRow_host (s : State) (a : Nat) (r : RegRow) (v : Word) : (storeRow s a r v).host = s.host := by
  rw [storeRow_frame]
@[simp] theorem storeRow_mbx (s : State) (a : Nat) (r : RegRow) (v : Word) : (storeRow s a r v).mbx = s.mbx := by
  rw [storeRow_frame]

/-- A write to a register that only stores takes effect in its block by the access type alone: the registers on which the
block acts are the ones that storesOnly leaves out. -/
theorem landReg_storesOnly (s : State) (port : Port) {blk : Nat} (a : Nat) {r : RegRow} (i j : Nat) (v : Word)
    (h : storesOnly blk r.off = true) : landReg s port blk a r i j v = okBus (storeRow s a r v) := by
  unfold storesOnly at h
  unfold landReg
  split at h
  case isTrue hgroup => simp_all [landFlt]
  case isFalse hgroup =>
    rw [if_neg hgroup]
    split at h
    case h_1 => simp_all [landSys]
    case h_2 => simp_all [landRing]
    case h_3 =>
      simp only [Bool.and_eq_true, decide_eq_true_eq, bne_iff_ne] at h
      simp (disch := omega) only [landFbc]
    case h_4 => simp_all [landTwin]
    case h_5 => simp_all [landFio]
    case h_6 => simp_all [landSec]
    case h_7 =>
      rw [decide_eq_true_eq] at h
      simp (disch := omega) only [landHost]
    case h_8 => cases h

/-! ### The two commands -/

/-- REGISTER_WRITE is a write by its port, after which what waits in the host block goes on. -/
theorem exec_registerWrite (port : Port) (a v : Word) (s : State) :
    exec (.registerWrite port a v) s = run (fun s => pump (hostWrite s port a.toNat v)) s := rfl

/-- READ_CLEAR is a read by its port. -/
theorem exec_readClear (port : Port) (a : Word) (s : State) :
    exec (.readClear port a) s = runQuiet (fun s => portRead s port a.toNat) s := rfl

/-- REGISTER_WRITE completes with what the write alone leaves, where after it nothing waits in the host block. -/
theorem completes_registerWrite {s t : State} {port : Port} {a v : Word} {P : State → Prop}
    (e : hostWrite s port a.toNat v = t) (quiet : NoRequests t) (p : P { t with pending := s.pending }) :
    Completes (.registerWrite port a v) s P := by
  have hp : pump (hostWrite s port a.toNat v) = t := by rw [e, pump_idle quiet.1 quiet.2]
  exact ⟨{ t with pending := s.pending }, by rw [exec_registerWrite, run_eq, hp], rfl, p⟩

/-- A read of an RC register outside MBX answers its value and clears it. -/
theorem readReg_rc {s : State} {port : Port} {a : Nat} {r : RegRow} {i j : Nat} (h : Readable s port a)
    (ha : 0x20000000 ≤ a ∧ a < 0x21000000 ∧ a % 4 = 0) (hb : blockOf a ≠ MBX) (hr : regAt a = some (r, i, j))
    (hacc : r.acc = .rc) : readReg s port a = okBus (wr s a 0) (rd s a) := by
  obtain ⟨hlo, hhi, halign⟩ := ha
  have hreaches : ¬ (a < 0x20000000 || 0x21000000 ≤ a || a % 4 != 0 || s.flt.resetting.contains (blockOf a)) = true := by
    rw [h.block, halign, decide_eq_false (Nat.not_lt.mpr hlo), decide_eq_false (Nat.not_le.mpr hhi)]
    decide
  have hmbx : ¬ (blockOf a == MBX && r.off < 0xF000) = true := by
    rw [beq_eq_false_iff_ne.mpr hb, Bool.false_and]
    decide
  simp only [readReg, if_neg hreaches, h.power, hr, if_neg hmbx, readRow, hacc, Bool.false_eq_true, if_false]

/-- Settles O56: a write that reaches a register that only stores is the register's write by access type, and a read of an RC
register is readReg_rc. -/
theorem registerAccessCompletes : Obligations.RegisterAccessCompletes := by
  unfold Obligations.RegisterAccessCompletes
  refine fun s => ⟨fun port a v r i j quiet reach hlo hhi halign hsafe hreg hstores => ?_,
    fun port a r i j read hlo hhi halign hmbx hreg hacc => ?_⟩
  · have hland : hostWrite s port a.toNat v = okBus (storeRow s a.toNat r v) :=
      (write_reach reach hreg ⟨hlo, hhi, halign⟩ hsafe).trans (landReg_storesOnly s port a.toNat i j v hstores)
    refine completes_registerWrite hland (by simpa [NoRequests, okBus] using quiet) ⟨rfl, ?_, ?_, ?_, ?_⟩
    · exact rd_storeRow_same s a.toNat r v
    · exact fun b hb => rd_storeRow_ne s r v hb
    · exact storeRow_mem s a.toNat r v
    · exact storeRow_act s a.toNat r v
  · rw [exec_readClear, runQuiet_eq, portRead_reach read, readReg_rc read ⟨hlo, hhi, halign⟩ hmbx hreg hacc]
    rfl

end Sys2Proof.Machine

/-! ## Ring start: links, claims and other heads move the ring state (R93-R103, R120, R121) -/

namespace Sys2Proof.Machine

/-! ### The line port -/

/-- The line port as a head knows it: which ring port it is, and whether it is known at all (R53). -/
def linePort (s : State) : Bool × Bool := (s.ring.lineB, s.ring.lineFound)

theorem linePort_ringMod {f : RingState → RingState} (s : State)
    (hf : ∀ r, (f r).lineB = r.lineB ∧ (f r).lineFound = r.lineFound) : linePort (ringMod s f) = linePort s :=
  Prod.ext (hf s.ring).1 (hf s.ring).2

@[simp] theorem linePort_enterRing (s : State) (st : Nat) : linePort (enterRing s st) = linePort s := by
  rw [linePort, enterRing_ring, linePort]

/-- An exchange that ends leaves the line port. -/
@[simp] theorem linePort_svcEnd (s : State) (i result : Nat) (data : List Byte) :
    linePort (svcEnd s i result data) = linePort s := by
  unfold svcEnd
  split
  case h_1 => rfl
  case h_2 q hreq =>
    extract_lets t
    split
    case h_1 p horigin =>
      split
      case isTrue => rfl
      case isFalse => extract_lets; split <;> rfl
    case h_2 => rfl
    case h_3 => rfl

/-- A run of steps that each leave the line port leaves it. -/
theorem linePort_foldl {α : Type} {f : State → α → State} (hf : ∀ s a, linePort (f s a) = linePort s) (l : List α) (s : State) :
    linePort (l.foldl f s) = linePort s :=
  List.foldlRecOn (motive := fun (t : State) => linePort t = linePort s) l f rfl fun t ht a _ => (hf t a).trans ht

/-- A head that stops leading keeps its line port. -/
@[simp] theorem linePort_svcStop (s : State) : linePort (svcStop s) = linePort s := by
  unfold svcStop
  extract_lets host t lost
  have ht : linePort t = linePort s := by
    refine linePort_foldl (fun u i => ?_) _ s
    split
    case h_1 => rfl
    case h_2 q hreq =>
      split
      case isTrue => rfl
      case isFalse => exact linePort_svcEnd u i _ _
  refine (linePort_ringMod t ?_).trans ht
  exact fun _ => ⟨rfl, rfl⟩

/-- A head that begins to listen keeps its line port. -/
@[simp] theorem linePort_enterListen (s : State) : linePort (enterListen s) = linePort s := by
  unfold enterListen
  extract_lets t u
  have ht : linePort t = linePort s := by unfold t; split <;> rfl
  rw [linePort_enterRing]
  refine (linePort_ringMod u ?_).trans ((linePort_svcStop t).trans ht)
  exact fun _ => ⟨rfl, rfl⟩

/-- Driving the TXDIS pins leaves the ring's record and the registers. -/
theorem driveTxdis_keeps (s : State) : (driveTxdis s).ring = s.ring ∧ (driveTxdis s).regs = s.regs := by
  unfold driveTxdis
  refine List.foldlRecOn (motive := fun (t : State) => t.ring = s.ring ∧ t.regs = s.regs) _ _ ⟨rfl, rfl⟩ fun t ht p _ => ?_
  extract_lets
  split <;> exact ht

@[simp] theorem ringSt_driveTxdis (s : State) : ringSt (driveTxdis s) = ringSt s :=
  ringSt_congr (by rw [rd, rd, (driveTxdis_keeps s).2])

@[simp] theorem ringSt_otherDown (s : State) : ringSt (otherDown s) = ringSt s := by
  unfold otherDown
  split
  · exact ringSt_setBit _ _ _ (by decide)
  · rfl

@[simp] theorem otherDown_ring (s : State) : (otherDown s).ring = s.ring := by
  unfold otherDown
  split <;> rfl

@[simp] theorem ringSt_nameLine (s : State) (port : Bool) : ringSt (nameLine s port) = ringSt s := by
  unfold nameLine
  split <;> simp

/-- The port that gains lock is the line port where it was that before, or where no line port was known (log entry 92). -/
theorem linePort_nameLine {s : State} {port : Bool} (h : s.ring.lineFound = true → port = s.ring.lineB) :
    linePort (nameLine s port) = (port, true) := by
  unfold nameLine
  split
  case isTrue found => rw [linePort, found, h found]
  case isFalse => rw [linePort, (driveTxdis_keeps _).1, otherDown_ring]; rfl

@[simp] theorem ringSt_lineUp (s : State) (port : Bool) : ringSt (lineUp s port) = ringSt s := by
  rw [lineUp, ringSt_ringMod, ringSt_setBit _ _ _ (by decide), ringSt_setF _ _ _ _ (by decide)]

@[simp] theorem linePort_lineUp (s : State) (port : Bool) : linePort (lineUp s port) = linePort s := rfl

/-! ### Links (R93, R120, R121) -/

/-- A head in DOWN begins to listen at lock on its line port. -/
theorem linkLock_down {s : State} {port : Bool} (hst : ringSt s = 0) (applied : s.sec.applied = true)
    (hport : s.ring.lineFound = true → port = s.ring.lineB) :
    linkLock s port = enterListen (lineUp (nameLine (setBit s Reg.RING_LINK_STATUS (lockBit port) true) port) port) := by
  have hother : (s.ring.lineFound && port != s.ring.lineB) = false := by
    cases found : s.ring.lineFound with
    | false => rfl
    | true => simp [hport found]
  simp [linkLock, applied, hother, hst, ringSt_setBit _ _ _ (show Reg.RING_LINK_STATUS ≠ Reg.RING_STATE by decide)]

/-- A lost line link ends a listen or a claim, takes a following head to DOWN with a break noted, and has a leading head note the
break alone. -/
theorem linkLoss_line {s : State} (found : s.ring.lineFound = true) :
    linkLoss s s.ring.lineB =
      let u := setBit s Reg.RING_LINK_STATUS (lockBit s.ring.lineB) false
      if ringSt s = 3 then enterRing (lineBreak u) 0 else if 4 ≤ ringSt s then lineBreak u
      else if ringSt s = 0 then u else enterRing u 0 := by
  have hst := ringSt_setBit s (lockBit s.ring.lineB) false (show Reg.RING_LINK_STATUS ≠ Reg.RING_STATE by decide)
  simp [linkLoss, found, hst]

@[simp] theorem rd_ringMod (s : State) (f : RingState → RingState) (a : Nat) : rd (ringMod s f) a = rd s a := rfl

/-- A break noted shows in RING_BREAK with its marker (R121). -/
theorem recordBreak_shows (s : State) {m : Nat} (h : m < 256) :
    fld (recordBreak s m) Reg.RING_BREAK 7 0 = m ∧ fbit (recordBreak s m) Reg.RING_BREAK 31 = true := by
  let u := setF s Reg.RING_BREAK 7 0 m
  have hrd : rd (recordBreak s m) Reg.RING_BREAK = rd (setBit u Reg.RING_BREAK 31 true) Reg.RING_BREAK := by
    unfold recordBreak
    extract_lets v w
    have hw : rd w Reg.RING_BREAK = rd v Reg.RING_BREAK := rd_wr_ne v _ (by decide)
    rw [rd_event _ _ _ _ _ (by decide), rd_ringMod, hw]
  have hmarker : fld (setBit u Reg.RING_BREAK 31 true) Reg.RING_BREAK 7 0 = m :=
    calc fld (setBit u Reg.RING_BREAK 31 true) Reg.RING_BREAK 7 0
        = fld u Reg.RING_BREAK 7 0 := fld_setF_ne u _ 31 31 _ 7 0 (by decide) (by decide) (by decide)
      _ = m % 2 ^ 8 := fld_setF s _ 7 0 m (by decide) (by decide)
      _ = m := Nat.mod_eq_of_lt h
  exact ⟨by rw [fld, hrd]; exact hmarker, by rw [fbit, hrd]; exact fbit_setBit u _ 31 true (by decide)⟩

/-- The break of a head's own line link shows in RING_BREAK under the head's position and side (R121). -/
theorem lineBreak_shows (s : State) :
    fld (lineBreak s) Reg.RING_BREAK 7 0 = (if s.ring.farEnd then 0x7F else 0x80) ∧
      fbit (lineBreak s) Reg.RING_BREAK 31 = true :=
  recordBreak_shows _ (by split <;> decide)

/-- Entering a ring state leaves RING_BREAK. -/
theorem rd_enterRing_ringBreak (s : State) (st : Nat) : rd (enterRing s st) Reg.RING_BREAK = rd s Reg.RING_BREAK :=
  (rd_enterRing s st ⟨by decide, by decide, by decide, by decide⟩).trans (rd_setF_ne _ _ _ _ (by decide))

/-! ### Claims and their timers (R100-R102) -/

theorem enterClaim_claims (s : State) : (enterClaim s).ring.claims = 1 := by
  rw [enterClaim, sendClaim_claims, enterRing_ring]
  rfl

theorem sendClaim_claimRaw (s : State) : (sendClaim s).ring.claimRaw = s.raw := by
  obtain ⟨o, ho⟩ := sendMgmt_eq s 2 0 (leBytes 4 s.ring.cfgHash.toNat ++ leBytes 4 s.ring.claims)
  simp [sendClaim, ringMod, ho]

/-- Outside chip safe state a claim goes out on the ring (R371, R465). -/
theorem sendClaim_out {s : State} (h : chipSafe s = false) : ∃ f, (sendClaim s).out = s.out ++ [.ring f] := by
  have on : transmits s = true := by rw [transmits, h]; rfl
  simp [sendClaim, sendMgmt, sendRing, on, emit]

/-! ### Frames of other heads (R97, R101-R103) -/

/-- A frame heard changes nothing on which the judgement of management frames rests. -/
@[simp] theorem mgmtOk_heard (s : State) (f : List Byte) : mgmtOk (heard s) f = mgmtOk s f := rfl
@[simp] theorem rank_heard (s : State) : rank (heard s) = rank s := rfl
@[simp] theorem serial_heard (s : State) : serial (heard s) = serial s := rfl
@[simp] theorem ringSt_heard (s : State) : ringSt (heard s) = ringSt s := rfl

section claim
variable {s : State} {f : List Byte} (ok : mgmtOk s f = true) (hash : field (mgmtBody f) 0 4 = s.ring.cfgHash.toNat)
include ok hash

/-- A listening head that receives a claim for its own configuration follows a superior head and claims against any other. -/
theorem recvClaim_listen (hst : ringSt s = 1) :
    recvClaim s f = if superior (byteAt f 3 % 8) (field f 4 8) (rank s) (serial s) then enterFollow s (field f 4 8)
      else enterClaim s := by
  simp [recvClaim, ok, hash, hst]

/-- A claiming head yields to a superior claim and follows. -/
theorem recvClaim_superior (hst : ringSt s = 2)
    (sup : superior (byteAt f 3 % 8) (field f 4 8) (rank s) (serial s) = true) :
    recvClaim s f =
      enterFollow (bump (sendMgmt s 0x05 0 (leBytes 8 (field f 4 8))) Reg.RING_CLAIM_LOST_CNT) (field f 4 8) := by
  simp [recvClaim, ok, hash, hst, sup]

end claim

/-- A listening head follows the head whose shuttle it hears. -/
theorem recvForeign_listen {s : State} (f : List Byte) (hst : ringSt s = 1) : recvForeign s f = enterFollow s (field f 28 4) := by
  simp [recvForeign, hst]

/-- A following head listens again when its leader, known by the low 32 bits of its serial (log entry 79), stops the ring. -/
theorem recvRingStop_follow {s : State} {f : List Byte} (ok : mgmtOk s f = true) (hst : ringSt s = 3)
    (leader : field f 4 8 % 2 ^ 32 = s.ring.leader.toNat % 2 ^ 32) : recvRingStop s f = enterListen s := by
  unfold recvRingStop
  simp only [ok, hst, leader, Bool.not_true, Bool.false_eq_true, if_false, BEq.rfl, if_true]

/-! ### The obligation, by groups of commands -/

/-- LINK_LOCK_GAINED on the line port takes a head in DOWN to LISTEN. -/
theorem completes_linkLockGained {s : State} (h : Awake s) (hst : ringSt s = 0) (applied : s.sec.applied = true) (port : Bool)
    (hport : s.ring.lineFound = true → port = s.ring.lineB) :
    Completes (.linkLockGained port) s fun t => ringSt t = 1 ∧ t.ring.lineB = port ∧ t.ring.lineFound = true ∧
      t.mem = s.mem ∧ t.raw = s.raw := by
  have hline : linePort (linkLock s port) = (port, true) := by
    rw [linkLock_down hst applied hport, linePort_enterListen, linePort_lineUp]
    exact linePort_nameLine hport
  obtain ⟨hB, hfound⟩ := Prod.mk.inj hline
  refine completes_quiet (f := fun s => linkLock s port) rfl h ⟨?_, hB, hfound, rfl, rfl⟩
  rw [ringSt_frame, linkLock_down hst applied hport, ringSt_enterListen]

section lost
variable {s : State} (h : Awake s) (found : s.ring.lineFound = true)
include h found

/-- LINK_LOST of the line port ends a listen or a claim. -/
theorem completes_linkLost_search (hst : ringSt s = 1 ∨ ringSt s = 2) :
    Completes (.linkLost s.ring.lineB) s fun t => ringSt t = 0 ∧ t.ring = s.ring := by
  have hloss : linkLoss s s.ring.lineB = enterRing (setBit s Reg.RING_LINK_STATUS (lockBit s.ring.lineB) false) 0 := by
    rcases hst with e | e <;> simp [linkLoss_line found, e]
  refine completes_quiet (f := fun t => linkLoss t s.ring.lineB) rfl h ?_
  rw [hloss, ringSt_frame]
  exact ⟨ringSt_enterRing _ 0, enterRing_ring _ 0⟩

/-- LINK_LOST of the line port takes a following head to DOWN and shows the break. -/
theorem completes_linkLost_follow (hst : ringSt s = 3) :
    Completes (.linkLost s.ring.lineB) s fun t => ringSt t = 0 ∧
      t.ring = { s.ring with lineLost := true, lastMark := some s.raw } ∧
        fld t Reg.RING_BREAK 7 0 = (if s.ring.farEnd then 0x7F else 0x80) ∧ fbit t Reg.RING_BREAK 31 = true := by
  let u := setBit s Reg.RING_LINK_STATUS (lockBit s.ring.lineB) false
  have hloss : linkLoss s s.ring.lineB = enterRing (lineBreak u) 0 := by simp [linkLoss_line found, hst, u]
  obtain ⟨hmarker, hflag⟩ := lineBreak_shows u
  refine completes_quiet (f := fun t => linkLoss t s.ring.lineB) rfl h ?_
  rw [hloss, ringSt_frame, fld_frame, fbit_frame, fld, fbit, rd_enterRing_ringBreak]
  exact ⟨ringSt_enterRing _ 0, (enterRing_ring _ 0).trans (lineBreak_ring u), hmarker, hflag⟩

/-- LINK_LOST of the line port leaves a leading head in its state and shows the break. -/
theorem completes_linkLost_leads (lead : Leads s) :
    Completes (.linkLost s.ring.lineB) s fun t => ringSt t = ringSt s ∧
      t.ring = { s.ring with lineLost := true, lastMark := some s.raw } ∧
        fld t Reg.RING_BREAK 7 0 = (if s.ring.farEnd then 0x7F else 0x80) ∧ fbit t Reg.RING_BREAK 31 = true := by
  let u := setBit s Reg.RING_LINK_STATUS (lockBit s.ring.lineB) false
  have hu : ringSt u = ringSt s := ringSt_setBit _ _ _ (by decide)
  have hloss : linkLoss s s.ring.lineB = lineBreak u := by
    rcases lead with e | e | e <;> simp [linkLoss_line found, e, u]
  refine completes_quiet (f := fun t => linkLoss t s.ring.lineB) rfl h ?_
  rw [hloss, ringSt_frame, fld_frame, fbit_frame]
  exact ⟨(ringSt_lineBreak u).trans hu, lineBreak_ring u, lineBreak_shows u⟩

end lost

section timers
variable {s : State} (h : Awake s)
include h

/-- LISTEN_TIMEOUT takes a listening head to CLAIM with its first claim sent. -/
theorem completes_listenTimeout (hst : ringSt s = 1) (due : listenNs s ≤ s.raw - s.ring.listenRaw) :
    Completes .listenTimeout s fun t => ringSt t = 2 ∧ t.ring.claims = 1 := by
  have hdue : listenTimeout s = enterClaim s := by simp [listenTimeout, hst, due]
  refine completes_quiet (f := listenTimeout) rfl h ?_
  rw [hdue, ringSt_frame]
  exact ⟨ringSt_enterClaim s, enterClaim_claims s⟩

/-- CLAIM_SEND sends the next claim. -/
theorem completes_claimSend (hst : ringSt s = 2) (due : 250000 ≤ s.raw - s.ring.claimRaw) (safe : chipSafe s = false) :
    Completes .claimSend s fun t =>
      t.ring.claims = s.ring.claims + 1 ∧ t.ring.claimRaw = s.raw ∧ ringSt t = 2 ∧ ∃ f, t.out = s.out ++ [.ring f] := by
  have hdue : claimSend s = sendClaim s := by simp [claimSend, hst, due]
  refine completes_quiet (f := claimSend) rfl h ?_
  rw [hdue, ringSt_frame]
  exact ⟨sendClaim_claims s, sendClaim_claimRaw s, (ringSt_sendClaim s).trans hst, sendClaim_out safe⟩

/-- CLAIM_HOLD_EXPIRY makes a claiming head the leader, at end 0 and at the start of integration. -/
theorem completes_claimHoldExpiry (hst : ringSt s = 2) (due : 2000000 ≤ s.raw - s.ring.claimFirst) :
    Completes .claimHoldExpiry s fun t => ringSt t = 4 ∧ t.ring.integ = 0 ∧ t.ring.farEnd = false := by
  have hdue : claimHoldExpiry s = enterIntegrate s := by simp [claimHoldExpiry, hst, due]
  refine completes_quiet (f := claimHoldExpiry) rfl h ?_
  rw [hdue, ringSt_frame]
  exact ⟨ringSt_enterIntegrate s, enterIntegrate_ring s⟩

/-- DEFERRED_WITHDRAW takes a leader that heard a superior head to LISTEN once no axis is enabled. -/
theorem completes_deferredWithdraw (lead : Leads s) (must : s.ring.mustWithdraw = true) (idle : anyEnabled s = false) :
    Completes .deferredWithdraw s fun t => ringSt t = 1 := by
  have hdue : deferredWithdraw s = withdraw s 1 := by simp [deferredWithdraw, ringSt_leads lead, must, idle]
  refine completes_quiet (f := deferredWithdraw) rfl h ?_
  rw [hdue, ringSt_frame, ringSt_withdraw]

/-- FOLLOW_SILENCE_TIMEOUT takes a following head whose ring is silent to LISTEN. -/
theorem completes_followSilenceTimeout (hst : ringSt s = 3) (due : listenNs s ≤ s.raw - s.ring.heardRaw) :
    Completes .followSilenceTimeout s fun t => ringSt t = 1 := by
  have hdue : followSilence s = enterListen s := by simp [followSilence, hst, due]
  refine completes_quiet (f := followSilence) rfl h ?_
  rw [hdue, ringSt_frame, ringSt_enterListen]

end timers

section frames
variable {s : State} (h : Awake s) {f : List Byte}
include h

/-- CLAIM takes a listening head to FOLLOW under a superior head, else to CLAIM. -/
theorem completes_claim_listen (hst : ringSt s = 1) (ok : mgmtOk s f = true)
    (hash : field (mgmtBody f) 0 4 = s.ring.cfgHash.toNat) :
    Completes (.claim f) s fun t =>
      ringSt t = if superior (byteAt f 3 % 8) (field f 4 8) (rank s) (serial s) then 3 else 2 := by
  refine completes_quiet (f := fun s => recvClaim (heard s) f) rfl h ?_
  rw [ringSt_frame, recvClaim_listen (s := heard s) ok hash hst, rank_heard, serial_heard]
  split
  · exact ringSt_enterFollow _ _
  · exact ringSt_enterClaim _

/-- CLAIM of a superior head takes a claiming head to FOLLOW. -/
theorem completes_claim_superior (hst : ringSt s = 2) (ok : mgmtOk s f = true)
    (hash : field (mgmtBody f) 0 4 = s.ring.cfgHash.toNat)
    (sup : superior (byteAt f 3 % 8) (field f 4 8) (rank s) (serial s) = true) :
    Completes (.claim f) s fun t => ringSt t = 3 := by
  refine completes_quiet (f := fun s => recvClaim (heard s) f) rfl h ?_
  rw [ringSt_frame, recvClaim_superior (s := heard s) ok hash hst sup, ringSt_enterFollow]

/-- FOREIGN_SHUTTLE takes a listening head to FOLLOW. -/
theorem completes_foreignShuttle (hst : ringSt s = 1) : Completes (.foreignShuttle f) s fun t => ringSt t = 3 := by
  refine completes_quiet (f := fun s => recvForeign (heard s) f) rfl h ?_
  rw [ringSt_frame, recvForeign_listen (s := heard s) f hst, ringSt_enterFollow]

/-- YIELD is noted and nothing else. -/
theorem exec_yield (ok : mgmtOk s f = true) : exec (.yield_ f) s = .next { s with ring := { s.ring with
    heardRaw := s.raw
    yielded := BitVec.ofNat 64 (field (mgmtBody f) 0 8) } } := by
  have hexec : exec (.yield_ f) s = runQuiet (awake fun s => recvYield (heard s) f) s := rfl
  rw [hexec, runQuiet_eq, awake_eq h, recvYield, mgmtOk_heard, if_pos ok]
  rfl

/-- RING_STOP of its leader takes a following head to LISTEN. -/
theorem completes_ringStop (hst : ringSt s = 3) (ok : mgmtOk s f = true)
    (leader : field f 4 8 % 2 ^ 32 = s.ring.leader.toNat % 2 ^ 32) : Completes (.ringStop f) s fun t => ringSt t = 1 := by
  refine completes_quiet (f := fun s => recvRingStop (heard s) f) rfl h ?_
  rw [ringSt_frame, recvRingStop_follow (s := heard s) ok hst leader, ringSt_enterListen]

end frames

/-- Settles O15, command by command: links, timers, then frames of other heads. -/
theorem ringStartCommandsComplete : Obligations.RingStartCommandsComplete := by
  unfold Obligations.RingStartCommandsComplete
  intro s h
  exact ⟨completes_linkLockGained h,
    completes_linkLost_search h,
    completes_linkLost_follow h,
    completes_linkLost_leads h,
    completes_listenTimeout h,
    completes_claimSend h,
    completes_claimHoldExpiry h,
    fun hst _ ok hash => completes_claim_listen h hst ok hash,
    fun hst _ ok hash sup => completes_claim_superior h hst ok hash sup,
    fun hst _ => completes_foreignShuttle h hst,
    fun _ ok => exec_yield h ok,
    fun hst _ ok leader => completes_ringStop h hst ok leader,
    completes_deferredWithdraw h,
    completes_followSilenceTimeout h⟩

end Sys2Proof.Machine

/-! ## Machine time: an idle head, and the calculators (R129, R138) -/

namespace Sys2Proof.Machine

/-! ### An empty queue -/

theorem step_empty {s : State} (h : s.pending = []) : step s = .next (idle s) := by rw [step, h]

theorem idle_awake {s : State} (h : Awake s) : idle s = { s with raw := s.raw + 1 } := by
  rw [idle, if_neg (Bool.eq_false_iff.mp h)]

theorem idle_inReset {s : State} (h : s.sec.inReset = true) : idle s = s := by rw [idle, if_pos h]

/-- Settles O2: a step on an empty queue is idle, which looks at the reset alone. -/
theorem emptyQueueLetsTimePass : Obligations.EmptyQueueLetsTimePass := by
  unfold Obligations.EmptyQueueLetsTimePass
  intro s hempty
  rw [step_empty hempty]
  exact ⟨fun h => congrArg _ (idle_awake h), fun h => congrArg _ (idle_inReset h)⟩

/-! ### Readings and changes of rate -/

/-- A reading in whole numbers, where it is not below 0. -/
theorem Calc.read_int (c : Calc) (x : Nat)
    (h : 0 ≤ (c.base : Int) + ((x : Int) - c.baseRaw) * 65536 + Int.fdiv (((x : Int) - c.baseRaw) * c.rate) 65536) :
    (c.read x : Int) = c.base + ((x : Int) - c.baseRaw) * 65536 + Int.fdiv (((x : Int) - c.baseRaw) * c.rate) 65536 :=
  Int.toNat_of_nonneg h

/-- A reading from the base on, at a rate that is not negative, needs no sign. -/
theorem Calc.read_nat (c : Calc) (x : Nat) (hx : c.baseRaw ≤ x) (hr : 0 ≤ c.rate) :
    c.read x = c.base + (x - c.baseRaw) * 65536 + (x - c.baseRaw) * c.rate.toNat / 65536 := by
  obtain ⟨d, rfl⟩ := Nat.exists_eq_add_of_le hx
  have hd : ((c.baseRaw + d : Nat) : Int) - c.baseRaw = d := by omega
  have hquot : Int.fdiv ((d : Int) * c.rate) 65536 = ((d * c.rate.toNat / 65536 : Nat) : Int) := by
    rw [Int.fdiv_eq_ediv_of_nonneg _ (by decide), Int.natCast_ediv, Int.natCast_mul, Int.toNat_of_nonneg hr]
    rfl
  have hread := c.read_int (c.baseRaw + d)
  rw [hd, hquot] at hread
  have := hread (by omega)
  rw [Nat.add_sub_cancel_left]
  omega

/-- A calculator reads the same at the moment at which it takes a new rate. -/
@[simp] theorem Calc.read_rerate (c : Calc) (x : Nat) (r : Int) : (c.rerate x r).read x = c.read x := by
  simp only [Calc.rerate, Calc.read, Int.sub_self, Int.zero_mul, Int.zero_fdiv, Int.add_zero, Int.toNat_natCast]

/-- A change of the effective rate leaves machine time, whichever calculator the readers use. -/
theorem mtime_setRate (s : State) (r : Int) : mtime (setRate s r) = mtime s := by
  have hdom : domc (setRate s r) 0 = (domc s 0).rerate s.raw r := tget_tput_same _ _ _ _
  have hmain : (setRate s r).time.main = s.time.main.rerate s.raw r := rfl
  have hswitch : (setRate s r).time.switched = s.time.switched := rfl
  have hraw : (setRate s r).raw = s.raw := rfl
  rw [mtime, mtime, hdom, hmain, hswitch, hraw, Calc.read_rerate, Calc.read_rerate]

/-- Settles O13: the reading in numbers with and without sign, and Calc.read_rerate. -/
theorem rateChangesNeverMakeTimeJump : Obligations.RateChangesNeverMakeTimeJump := by
  unfold Obligations.RateChangesNeverMakeTimeJump
  refine ⟨Calc.read_nat, fun c x d hd hpos => ?_, fun s r => ⟨mtime_setRate s r, rfl, rfl, rd_wr_same _ _ _⟩⟩
  subst hd
  exact c.read_int x hpos

end Sys2Proof.Machine

/-! ## Machine time: its commands complete (R130-R152) -/

namespace Sys2Proof.Machine

/-! ### How a command of machine time is answered -/

/-- A command completes where its effect, but for the queue, meets what is asked. -/
theorem completes_run {c : Instr} {f : State → State} {s t : State} {P : State → Prop} (e : exec c s = run f s)
    (hf : f s = t) (p : P { t with pending := s.pending }) : Completes c s P :=
  ⟨_, e.trans (run_eq f s), rfl, by rw [hf]; exact p⟩

/-- A command answers its effect as it stands, where this leaves the queue. -/
theorem exec_run {c : Instr} {f : State → State} {s t : State} (e : exec c s = run f s) (hf : f s = t)
    (hp : t.pending = s.pending) : exec c s = .next t := by
  rw [e, run_eq, hf, ← hp]

/-- A quiet command answers its effect as it stands, where this leaves the queue, the memories and the raw counter. -/
theorem exec_quiet {c : Instr} {f : State → State} {s t : State} (e : exec c s = runQuiet (awake f) s) (h : Awake s)
    (hf : f s = t) (hp : t.pending = s.pending) (hm : t.mem = s.mem) (hr : t.raw = s.raw) : exec c s = .next t := by
  rw [e, runQuiet_eq, awake_eq h, hf, ← hp, ← hm, ← hr]

/-! ### Writes that land in TIME -/

/-- A write that reaches a register of TIME outside its fault group takes effect in TIME. -/
theorem hostWrite_time {s : State} {port : Port} {a : Nat} {v : Word} {r : RegRow} {i j : Nat} (h : Reaches s port a v)
    (hr : regAt a = some (r, i, j)) (hoff : r.off < 0xF000) (hb : blockOf a = TIME)
    (ha : 0x20000000 ≤ a ∧ a < 0x21000000 ∧ a % 4 = 0) : hostWrite s port a v = landTime s a r i v := by
  have hgroup : ¬ (0xF000 ≤ r.off && r.off < 0xF0C0) = true := by simp; omega
  rw [write_reach h hr ha (by rw [hb]; decide), hb]
  unfold landReg
  exact if_neg hgroup

section writes
variable {s : State} {port : Port} {v : Word}

theorem hostWrite_timeRate (h : Reaches s port Reg.TIME_RATE v) : hostWrite s port Reg.TIME_RATE v = landRate s v :=
  hostWrite_time h rfl (by decide) (by decide) (by decide)

theorem hostWrite_timeCommit (h : Reaches s port Reg.TIME_BASTE_COMMIT v) :
    hostWrite s port Reg.TIME_BASTE_COMMIT v = if wbit v 0 then landTimeCommit s else okBus s :=
  hostWrite_time h rfl (by decide) (by decide) (by decide)

theorem hostWrite_timeCtrl (h : Reaches s port Reg.TIME_CTRL v) : hostWrite s port Reg.TIME_CTRL v = landTimeCtrl s v :=
  hostWrite_time h rfl (by decide) (by decide) (by decide)

/-- Where the step register of a domain counter stands. -/
theorem regAt_domStepHi (k : Fin 4) :
    regAt (Reg.TIME_DOM_STEP_HI k.val) = some (⟨0x10C, 0x20, 4, 0x0, 1, .wo, 0x00000000, 0x0, 0xFFFFFFFF⟩, k.val, 0) := by
  revert k
  decide

theorem hostWrite_domStepHi {k : Fin 4} (h : Reaches s port (Reg.TIME_DOM_STEP_HI k.val) v) :
    hostWrite s port (Reg.TIME_DOM_STEP_HI k.val) v = domainStep s k.val v :=
  have hplace : ∀ k : Fin 4, blockOf (Reg.TIME_DOM_STEP_HI k.val) = TIME ∧ 0x20000000 ≤ Reg.TIME_DOM_STEP_HI k.val ∧
      Reg.TIME_DOM_STEP_HI k.val < 0x21000000 ∧ Reg.TIME_DOM_STEP_HI k.val % 4 = 0 := by decide
  hostWrite_time h (regAt_domStepHi k) (by decide) (hplace k).1 (hplace k).2

end writes

/-! ### The rate (R132, R134, R135) -/

/-- What is kept of the time is in no register. -/
@[simp] theorem rd_withTime (s : State) (x : Timekeeping) (a : Nat) : rd { s with time := x } a = rd s a := rfl

@[simp] theorem setTimeSt_mem (s : State) (st : Nat) (armed : Bool) : (setTimeSt s st armed).mem = s.mem := rfl
@[simp] theorem stepTime_mem (s : State) (d : Int) : (stepTime s d).mem = s.mem := rfl
@[simp] theorem raise_mem (s : State) (e : Event) : (raise s e).mem = s.mem := (only_raiseN _ _ _).mem

/-- Following TIME_RATE leaves the memories and the time of the last write to it. -/
theorem syncRate_keeps (s : State) : (syncRate s).mem = s.mem ∧ (syncRate s).time.rateRaw = s.time.rateRaw := by
  unfold syncRate
  split
  · exact ⟨rfl, rfl⟩
  · extract_lets
    split <;> exact ⟨rfl, rfl⟩

@[simp] theorem syncRate_mem (s : State) : (syncRate s).mem = s.mem := (syncRate_keeps s).1

/-- The end of HOLDOVER leaves the memories and what is kept of the time. -/
theorem endHoldover_keeps (s : State) : (endHoldover s).mem = s.mem ∧ (endHoldover s).time = s.time := by
  unfold endHoldover
  split
  · split <;> exact ⟨event_mem _ _ _ _ _, event_time _ _ _ _ _⟩
  · exact ⟨rfl, rfl⟩

/-- A clamp noted leaves the memories and the raw counter. -/
theorem noteClamp_keeps (s : State) (v : Word) : (noteClamp s v).mem = s.mem ∧ (noteClamp s v).raw = s.raw := by
  unfold noteClamp
  split
  · exact ⟨rfl, rfl⟩
  · exact ⟨event_mem _ _ _ _ _, event_raw _ _ _ _ _⟩

theorem takeRate_mem (s : State) (v : Word) : (takeRate s v).mem = s.mem := by
  rw [takeRate, syncRate_mem, (endHoldover_keeps _).1]
  exact (noteClamp_keeps s v).1

/-- A rate taken counts as written now (R135). -/
theorem takeRate_rateRaw (s : State) (v : Word) : (takeRate s v).time.rateRaw = s.raw := by
  rw [takeRate, (syncRate_keeps _).2, (endHoldover_keeps _).2]
  exact (noteClamp_keeps s v).2

/-- A rate taken shows in TIME_RATE within its limit (R132). -/
theorem rd_takeRate_timeRate (s : State) (v : Word) :
    rd (takeRate s v) Reg.TIME_RATE = BitVec.ofInt 32 (clampI (-rateLimit) rateLimit v.toInt) := by
  rw [takeRate, rd_syncRate _ (by decide), rd_endHoldover _ (by decide) (by decide)]
  exact rd_wr_same _ _ _

/-- A step of the slew that is due moves the effective rate up by 1 LSB where TIME_RATE lies above it. -/
theorem rd_slewStep_up {s : State} (hst : ringSt s = 6) (on : timeSt s ≠ 3)
    (due : s.time.slewRaw + 1000000000 ≤ s.raw * 2147) (below : (rd s Reg.TIME_RATE_ACTIVE).toInt < (rd s Reg.TIME_RATE).toInt)
    (a : Nat) : rd (slewStep s) a = rd (setRate s ((rd s Reg.TIME_RATE_ACTIVE).toInt + 1)) a := by
  unfold slewStep
  extract_lets cur tgt t d
  have hmoves : (ringSt s != 6 || timeSt s == 3 || cur == tgt) = false := by
    simp [hst, on, cur, tgt, Int.ne_of_lt below]
  have hdue : (s.time.slewRaw != 0 && s.raw * 2147 < s.time.slewRaw + 1000000000) = false := by
    rw [decide_eq_false (Nat.not_lt.mpr due), Bool.and_false]
  rw [hmoves, hdue, if_neg (by decide), if_neg (by decide), rd_withTime]
  unfold t
  rw [if_pos below]

/-! ### Steps and commits (R133) -/

/-- A bit is a field of its own. -/
theorem wbit_eq_wbits (x : Word) (i : Nat) : wbit x i = (wbits x i i == 1) := by simp [wbit, wbits, bit, bits]

/-- A bit keeps what it reads while a field beside it is set. -/
theorem fbit_setF_ne (s : State) (a hi lo v i : Nat) (h : lo ≤ hi) (h2 : hi < 32) (hd : i < lo ∨ hi < i) :
    fbit (setF s a hi lo v) a i = fbit s a i := by
  rw [fbit, fbit, wbit_eq_wbits, wbit_eq_wbits]
  exact congrArg (· == 1) (fld_setF_ne s a hi lo v i i h h2 hd)

/-- The state in which a TIME commit stands pending, with what is kept of the time then. -/
def timePending (s : State) (x : Timekeeping) : State :=
  setBit { wr (wr s Reg.TIME_STEP_LO 0) Reg.TIME_STEP_HI 0 with time := x } Reg.TIME_BASTE_STATUS 0 true

/-- A pending TIME commit shows, and no step is staged. -/
theorem timePending_shows (s : State) (x : Timekeeping) : fbit (timePending s x) Reg.TIME_BASTE_STATUS 0 = true ∧
    rd (timePending s x) Reg.TIME_STEP_LO = 0 ∧ rd (timePending s x) Reg.TIME_STEP_HI = 0 := by
  unfold timePending
  refine ⟨fbit_setBit _ _ _ _ (by decide), ?_, ?_⟩
  · rw [rd_setBit_ne _ _ _ (by decide), rd_withTime, rd_wr_ne _ _ (by decide), rd_wr_same]
  · rw [rd_setBit_ne _ _ _ (by decide), rd_withTime, rd_wr_same]

/-- A TIME commit that passes its tests stands pending with the step that it carries. -/
theorem landTimeCommit_passed {s : State} (h : timeCommitResult s = 1) : landTimeCommit s =
    okBus (timePending s { s.time with
      stepWritten := false
      carried := if s.time.stepWritten then some (stagedStep s) else none
      commitRaw := s.raw }) := by
  rw [landTimeCommit, h]
  rfl

theorem applyBaste_mem (s : State) (as : List Nat) : (applyBaste s as).mem = s.mem :=
  List.foldlRecOn (motive := fun (t : State) => t.mem = s.mem) as _ rfl fun _ h _ _ => h

theorem changeSource_mem (s : State) (src : Nat) : (changeSource s src).mem = s.mem := by
  unfold changeSource
  extract_lets t u w
  have ht : t.mem = s.mem := by unfold t; split <;> simp
  have hw : w.mem = s.mem := by unfold w; split <;> exact ht
  rw [syncRate_mem]
  split <;> exact hw

/-- The state in which a TIME commit has taken effect. -/
def timeApplied (s : State) : State :=
  setF (setBit { s with time := { s.time with carried := none } } Reg.TIME_BASTE_STATUS 0 false) Reg.TIME_BASTE_STATUS 3 1 1

/-- The commit point of a pending TIME commit applies the fields, the source and the step, none of which reaches a memory. -/
theorem applyTime_pending {s : State} (h : fbit s Reg.TIME_BASTE_STATUS 0 = true) :
    ∃ t, applyTime s = timeApplied t ∧ t.mem = s.mem := by
  unfold applyTime
  rw [if_neg (by simp [h])]
  extract_lets old t src u w x
  have ht : t.mem = s.mem := applyBaste_mem s timeGroup
  have hu : u.mem = s.mem := by
    unfold u
    split
    · exact ht
    · exact (changeSource_mem t src).trans ht
  have hw : w.mem = s.mem := by unfold w; split <;> exact hu
  refine ⟨x, rfl, ?_⟩
  unfold x
  split
  · exact hw
  · rw [setTimeSt_mem, stepTime_mem, raise_mem, hw]

/-- The status of an applied TIME commit. -/
theorem timeApplied_status (s : State) :
    fbit (timeApplied s) Reg.TIME_BASTE_STATUS 0 = false ∧ fld (timeApplied s) Reg.TIME_BASTE_STATUS 3 1 = 1 := by
  unfold timeApplied
  extract_lets
  constructor
  · exact (fbit_setF_ne _ _ _ _ _ _ (by decide) (by decide) (by decide)).trans (fbit_setBit _ _ _ _ (by decide))
  · exact fld_setF _ _ _ _ _ (by decide) (by decide)

/-! ### Snapshots (R130) -/

/-- From s to t machine time was captured, and nothing but registers changed. -/
def Captured (s t : State) : Prop :=
  rd t Reg.TIME_SNAP_NS = word (nsOf (mtime s)) ∧ rd t Reg.TIME_SNAP_FRAC = word (fracOf (mtime s)) ∧
    rd t Reg.TIME_SNAP_S_LO = word (secOf (mtime s)) ∧ t.time = s.time ∧ t.mem = s.mem

/-- The snapshots of the domain counters stand behind that of machine time. -/
theorem Captured.wr_above {s t : State} (h : Captured s t) {a : Nat} (v : Word) (ha : Reg.TIME_DOM_SNAP_S_LO 0 ≤ a) :
    Captured s (wr t a v) := by
  obtain ⟨hns, hfrac, hs, htime, hmem⟩ := h
  have keeps {b : Nat} (hb : b < Reg.TIME_DOM_SNAP_S_LO 0) : rd (wr t a v) b = rd t b :=
    rd_wr_ne _ _ (Nat.ne_of_lt (Nat.lt_of_lt_of_le hb ha))
  exact ⟨(keeps (by decide)).trans hns, (keeps (by decide)).trans hfrac, (keeps (by decide)).trans hs, htime, hmem⟩

/-- What was captured stays where the access is answered. -/
theorem Captured.answered {s t : State} (h : Captured s t) (q : List Instr) : Captured s { okBus t with pending := q } := h

theorem snapshot_captured (s : State) : Captured s (snapshot s) := by
  unfold snapshot
  refine List.foldlRecOn (motive := Captured s) _ _ ?_ fun t ht k _ => ?_
  · refine ⟨?_, rd_wr_same _ _ _, ?_, rfl, rfl⟩
    · rw [rd_wr_ne _ _ (by decide), rd_wr_same]
    · rw [rd_wr_ne _ _ (by decide), rd_wr_ne _ _ (by decide), wr64, rd_wr_ne _ _ (by decide), rd_wr_same]
  · obtain ⟨hlo, hhi, hns⟩ : Reg.TIME_DOM_SNAP_S_LO 0 ≤ Reg.TIME_DOM_SNAP_S_LO k ∧
        Reg.TIME_DOM_SNAP_S_LO 0 ≤ Reg.TIME_DOM_SNAP_S_LO k + 4 ∧ Reg.TIME_DOM_SNAP_S_LO 0 ≤ Reg.TIME_DOM_SNAP_NS k := by
      simp only [Reg.TIME_DOM_SNAP_S_LO, Reg.TIME_DOM_SNAP_NS]
      omega
    exact ((ht.wr_above _ hlo).wr_above _ hhi).wr_above _ hns

/-! ### The correction state (R134, R135) -/

theorem timeSt_congr {s t : State} (h : rd t Reg.TIME_STATE = rd s Reg.TIME_STATE) : timeSt t = timeSt s := by
  rw [timeSt, fld, h, timeSt, fld]

@[simp] theorem timeSt_event (s : State) (b e o d : Nat) : timeSt (event s b e o d) = timeSt s :=
  timeSt_congr (rd_event s b e o d (by decide))

theorem timeSt_setTimeSt (s : State) (st : Nat) (armed : Bool) : timeSt (setTimeSt s st armed) = st % 4 :=
  (fld_setF_ne _ _ _ _ _ _ _ (by decide) (by decide) (by decide)).trans (fld_setF _ _ _ _ _ (by decide) (by decide))

/-- A head in LOCKED that loses its source goes to HOLDOVER, which begins now. -/
theorem loseSource_locked {s : State} (h : timeSt s = 2) :
    timeSt (loseSource s) = 3 ∧ (loseSource s).time = { s.time with holdRaw := s.raw } := by
  rw [loseSource, if_neg (by simp [h]), timeSt_event, event_time]
  exact ⟨timeSt_setTimeSt s 3 false, rfl⟩

/-- Losing the source leaves every register but TIME_STATE in which no event reports. -/
theorem rd_loseSource (s : State) {a : Nat} (h : reportReg a = false) (hs : a ≠ Reg.TIME_STATE) :
    rd (loseSource s) a = rd s a := by
  unfold loseSource
  split
  · rfl
  · exact (rd_event _ _ _ _ _ h).trans (rd_setTimeSt s 3 false hs)

theorem loseSource_misses (s : State) : (loseSource s).time.misses = s.time.misses := by
  unfold loseSource
  split
  · rfl
  · rw [event_time]

/-! ### The two commands of TIME_CTRL (R130, R135) -/

theorem landTimeCtrl_snap (s : State) : landTimeCtrl s 1 = okBus (snapshot s) := by
  unfold landTimeCtrl
  rw [show wbit 1 0 = true by decide, show wbit 1 1 = false by decide]
  rfl

theorem landTimeCtrl_force (s : State) : landTimeCtrl s 2 = okBus (loseSource s) := by
  unfold landTimeCtrl
  rw [show wbit 2 0 = false by decide, show wbit 2 1 = true by decide]
  rfl

/-! ### Frames out of a host port (R148) -/

/-- A frame that no launch time holds back goes out. -/
theorem sendEth_free {s : State} {port : Fin 2} (f : List Byte) (h : txBlocked s port = false) :
    sendEth s port f = emit s (.eth port f) := by rw [sendEth, if_neg (by simp [h])]

@[simp] theorem sendEth_pending (s : State) (port : Fin 2) (f : List Byte) : (sendEth s port f).pending = s.pending := by
  unfold sendEth; split <;> rfl
@[simp] theorem sendEth_mem (s : State) (port : Fin 2) (f : List Byte) : (sendEth s port f).mem = s.mem := by
  unfold sendEth; split <;> rfl
@[simp] theorem sendEth_raw (s : State) (port : Fin 2) (f : List Byte) : (sendEth s port f).raw = s.raw := by
  unfold sendEth; split <;> rfl

/-- Giving out frames one after the other. -/
theorem foldl_emit {α : Type} (o : α → Out) (l : List α) (s : State) :
    l.foldl (fun s a => emit s (o a)) s = { s with out := s.out ++ l.map o } := by
  induction l generalizing s with
  | nil => rw [List.foldl_nil, List.map_nil, List.append_nil]
  | cons a l ih => rw [List.foldl_cons, ih, emit, List.append_assoc]; rfl

/-- What waited behind a launch time goes out, or stays. -/
theorem flushTx_eq (s : State) (port : Fin 2) : ∃ (held : Table (List (List Byte))) (more : List Out),
    flushTx s port = { s with
      time := { s.time with heldTx := held }
      out := s.out ++ more } ∧ (heldTx s port = [] → more = []) := by
  unfold flushTx
  split
  · exact ⟨s.time.heldTx, [], by simp, fun _ => rfl⟩
  · refine ⟨_, (heldTx s port).map (.eth port), foldl_emit _ _ _, fun h => by rw [h]; rfl⟩

/-! ### PTP messages (R140-R147) -/

/-- What is given out tells in no register and no active copy. -/
@[simp] theorem fbit_emit (s : State) (x : Out) (a i : Nat) : fbit (emit s x) a i = fbit s a i := rfl
@[simp] theorem actF_emit (s : State) (x : Out) (a hi lo : Nat) : actF (emit s x) a hi lo = actF s a hi lo := rfl
@[simp] theorem ownSet_emit (s : State) (x : Out) : ownSet (emit s x) = ownSet s := rfl

/-- The 1588 default profile takes every message. -/
theorem ptpTakes_default {s : State} (h : actF s Reg.TIME_PTP_CFG 1 0 = 1) (port : Nat) (udp : Bool) :
    ptpTakes s port udp = true := by rw [ptpTakes, h]; rfl

/-- Under the 1588 default profile an event message of the head's own domain goes to firmware with machine time; a Sync names the
port to follow, and a local master answers a Delay_Req. -/
theorem ptpEventRx_default {s : State} (port : Fin 2) {f : List Byte} {o : Nat} {ck : Option Nat} (hat : ptpAt f = some (o, ck))
    (profile : actF s Reg.TIME_PTP_CFG 1 0 = 1) (dom : byteAt f (o + 4) = actF s Reg.TIME_PTP_CFG 15 8) :
    ptpEventRx s port f =
      let t := emit s (.ptp port (mtime s) f)
      if byteAt f o % 16 = 0 then { t with time := { t.time with syncPort := port } }
      else if byteAt f o % 16 = 1 ∧ fbit s Reg.TIME_STATE 6 = true then delayResp t port f o (mtime s)
      else t := by
  have hstamp : ptpStamp s (byteAt f (o + 4)) = mtime s := by rw [ptpStamp, dom, if_pos (beq_self_eq_true _)]
  simp [ptpEventRx, hat, ptpTakes_default profile, profile, hstamp]

/-- Whether a launch time is near rests on no register but that of the port's rate. -/
theorem txBlocked_wr (s : State) {a : Nat} (v : Word) (port : Nat) (h : Reg.HOST_STATUS ≠ a) :
    txBlocked (wr s a v) port = txBlocked s port := by
  have hmax : maxFrame (wr s a v) port = maxFrame s port := by rw [maxFrame, maxFrame, fld, fld, rd_wr_ne s v h]
  rw [txBlocked, txBlocked, hmax]
  rfl

/-- The transparent clock of the 1588 default profile adds the residence of an event message and notes the largest (R144). -/
theorem transparent_tc {s : State} {port : Fin 2} (f : List Byte) (r : Nat) (ptp : (ptpAt f).isSome = true)
    (profile : actF s Reg.TIME_PTP_CFG 1 0 = 1) (tc : actF s Reg.TIME_PTP_CFG 4 4 = 1)
    (free : txBlocked s (if port = 0 then 1 else 0) = false) : transparent s port f r =
      emit (wr s Reg.TIME_TC_RES_MAX (word (max (rd s Reg.TIME_TC_RES_MAX).toNat (min (r / nsU) 0xFFFFFFFF))))
        (.eth (if port = 0 then 1 else 0) (addCorrection f r)) := by
  have hother : ((if port = 0 then 1 else 0 : Fin 2) : Nat) = if port = 0 then 1 else 0 := by split <;> rfl
  rw [← sendEth_free _ (by rw [txBlocked_wr _ _ _ (by decide), hother, free])]
  unfold transparent
  rw [if_pos (by rw [ptp, profile, tc]; rfl)]
  simp only [beq_iff_eq]

/-- A message that the profile in force takes goes to firmware; an Announce of the head's own domain makes the head local master
unless it tells of a better clock or the head is a slave only (R141). -/
theorem ptpGeneral_taken {s : State} (port : Fin 2) {f : List Byte} {o : Nat} {ck : Option Nat} (hat : ptpAt f = some (o, ck))
    (takes : ptpTakes s port ck.isSome = true) :
    (byteAt f o % 16 = 0xB ∧ byteAt f (o + 4) = actF s Reg.TIME_PTP_CFG 15 8 → ∃ x, ptpGeneral s port f =
      setBit { emit s (.ptp port (mtime s) f) with time := x } Reg.TIME_STATE 6
        (!better (announceSet f o) (ownSet s) && actF s Reg.TIME_PTP_CFG 2 2 != 1)) ∧
    (¬ (byteAt f o % 16 = 0xB ∧ byteAt f (o + 4) = actF s Reg.TIME_PTP_CFG 15 8) →
      ptpGeneral s port f = emit s (.ptp port (mtime s) f)) := by
  unfold ptpGeneral
  split
  case h_1 hnone => rw [hat] at hnone; cases hnone
  case h_2 hsome =>
    rw [hat] at hsome
    cases hsome
    rw [if_neg (by rw [takes]; decide)]
    extract_lets t
    refine ⟨fun ⟨htype, hdom⟩ => ?_, fun other => if_pos ?_⟩
    · have hown : actF t Reg.TIME_PTP_CFG 15 8 = actF s Reg.TIME_PTP_CFG 15 8 := actF_emit _ _ _ _ _
      rw [if_neg (by simp [htype, hdom, hown])]
      split
      case isTrue clock => rw [ownSet_emit] at clock; exact ⟨_, by rw [clock]; rfl⟩
      case isFalse clock =>
        rw [ownSet_emit, Bool.not_eq_true] at clock
        rw [clock]
        refine ⟨t.time, ?_⟩
        split
        case isTrue slave => rw [actF_emit] at slave; rw [bne, slave]; rfl
        case isFalse slave => rw [actF_emit, Bool.not_eq_true] at slave; rw [bne, slave]; rfl
    · rw [actF_emit, Bool.or_eq_true, bne_iff_ne, bne_iff_ne]
      exact Decidable.not_and_iff_or_not.mp other

/-! ### SYNC_OUT and SYNC_IN (R151, R152) -/

/-- An edge of SYNC_OUT that has not been given is given with its end. -/
theorem syncPulse_new {s : State} {t : Nat} (w : Nat) (h : s.time.syncEdge ≠ some t) : syncPulse s t w = { s with
    time := { s.time with syncEdge := some t }
    out := s.out ++ [.pin "SYNC_OUT" true t, .pin "SYNC_OUT" false (t + w)] } := by
  simp [syncPulse, h, emit]

/-- An event noted for the spools leaves everything else. -/
theorem note_frame (s : State) (cls index : Nat) : note s cls index = { s with evts := (note s cls index).evts } := by
  unfold note noteAt
  split <;> rfl

/-- An edge of SYNC_IN that is not steered by is stamped with machine time and noted (R152). -/
theorem syncInEdge_stamp {s : State} (mode : actF s Reg.TIME_SYNC_CFG 3 2 = 1) : syncInEdge s =
    note { wr s Reg.TIME_SYNCIN_TS_NS (word (nsOf (mtime s))) with time := { s.time with misses := 0 } } 3 0 := by
  simp [syncInEdge, mode]

/-- A missing edge of the cascade is counted, and the third loses the source in force (R135, R152). -/
theorem syncInMissing_cascade {s : State} (mode : actF s Reg.TIME_SYNC_CFG 3 2 = 2) (src : actF s Reg.TIME_SRC_CFG 1 0 = 2) :
    (syncInMissing s).time.misses = s.time.misses + 1 ∧
      rd (syncInMissing s) Reg.TIME_SYNCIN_MISS_CNT = rd (bump s Reg.TIME_SYNCIN_MISS_CNT) Reg.TIME_SYNCIN_MISS_CNT ∧
      (2 ≤ s.time.misses → fld s Reg.TIME_STATE 5 4 = 2 → timeSt s = 2 → timeSt (syncInMissing s) = 3) := by
  unfold syncInMissing
  rw [if_neg (by rw [mode, src]; decide)]
  extract_lets t _ u
  have hmisses : u.time.misses = s.time.misses + 1 := congrArg (·.misses + 1) (event_time _ _ _ _ _)
  have hrd {a : Nat} (h : reportReg a = false) : rd u a = rd (bump s Reg.TIME_SYNCIN_MISS_CNT) a := rd_event _ _ _ _ _ h
  have hstate : rd u Reg.TIME_STATE = rd s Reg.TIME_STATE := (hrd (by decide)).trans (rd_bump_ne _ _ (by decide))
  split
  case isTrue =>
    exact ⟨(loseSource_misses u).trans hmisses, (rd_loseSource u (by decide) (by decide)).trans (hrd (by decide)),
      fun _ _ locked => (loseSource_locked ((timeSt_congr hstate).trans locked)).1⟩
  case isFalse few =>
    refine ⟨hmisses, hrd (by decide), fun hm hf _ => absurd ?_ few⟩
    rw [hmisses, fld, hstate]
    rw [fld] at hf
    rw [hf, decide_eq_true (Nat.add_le_add_right hm 1)]
    rfl

/-! ### Launch-at-time (R148) -/

/-- From s to t nothing changed but what is kept of the time, and of that neither the launch-at-time queues nor the frames that
wait. -/
def SameQueues (s t : State) : Prop := ∃ x, t = { s with time := x } ∧ x.tq = s.time.tq ∧ x.heldTx = s.time.heldTx

theorem sameQueues_self (s : State) : SameQueues s s := ⟨s.time, rfl, rfl, rfl⟩

/-- A launch error kept for a Pdelay_Req (R146). -/
theorem sameQueues_pdelay (s : State) (p : Table Int) : SameQueues s { s with time := { s.time with pdelay := p } } :=
  ⟨_, rfl, rfl, rfl⟩

/-- An entry without a request that comes to the front in time starts its frame, with its launch error folded into a Delay_Req, and
behind it goes what waited. -/
theorem launchTimed_due {s : State} {port : Fin 2} {q : Nat} {err : Word} {e : TimedEntry} {rest : List TimedEntry}
    (front : tqueue s port.val q = e :: rest) (req : e.req = none) (due : e.time ≤ mtime s)
    (onTime : mtime s ≤ e.time + 1000 * nsU) (first : goesFirst s port.val q e = false) :
    ∃ x more, launchTimed s port q err = ({ s with
        time := x
        out := s.out ++ [.timed port (if e.ptp = 1 then addCorrection e.frame err.toInt else e.frame) err] ++ more }, none) ∧
      tget (fun _ => []) x.tq (2 * port.val + q) = rest ∧ (heldTx s port = [] → more = []) := by
  unfold launchTimed
  split
  case h_1 hnil => rw [front] at hnil; cases hnil
  case h_2 hcons =>
    rw [front] at hcons
    cases hcons
    extract_lets now t late u d f _ w x y
    have hlate : ¬ late := Nat.not_lt.mpr onTime
    have hu : u = t := if_neg hlate
    have hd : d = err.toInt := if_neg hlate
    -- what late says holds a large constant, which the kernel would count down if it met it below
    clear_value u d
    have hf : f = if e.ptp = 1 then addCorrection e.frame err.toInt else e.frame := by
      unfold f
      rw [hd]
      simp only [beq_iff_eq]
    obtain ⟨z, hw, htq, hheld⟩ : SameQueues u w := by
      unfold w
      split
      · split
        · exact sameQueues_self u
        · exact sameQueues_pdelay u _
      · exact sameQueues_self u
    obtain ⟨held, more, hflush, hmore⟩ := flushTx_eq (emit w (.timed port f (BitVec.ofInt 32 d))) port
    rw [if_neg (by simp [first, due, now]), if_neg (by simp [hlate])]
    refine ⟨{ z with heldTx := held }, more, ?_, ?_, fun h => hmore ?_⟩
    · unfold x
      rw [hflush, hw, hu, ← hf, hd, BitVec.ofInt_toInt, req]
      rfl
    · rw [htq, hu]
      exact tget_tput_same _ _ _ _
    · rw [hw, ← h]
      rw [hu] at hheld
      exact congrArg (fun x => tget (fun _ => []) x port.val) hheld

/-! ### The obligation, by groups of commands -/

section port
variable {s : State} {port : Port}

/-- TIME_RATE_WRITE lands within its limit outside FOLLOW. -/
theorem completes_timeRateWrite {v : Word} (h : Reaches s port Reg.TIME_RATE v) (hst : ringSt s ≠ 3) :
    Completes (.timeRateWrite port v) s fun t =>
      rd t Reg.TIME_RATE = BitVec.ofInt 32 (clampI (-rateLimit) rateLimit v.toInt) ∧ t.time.rateRaw = s.raw ∧ t.mem = s.mem := by
  have hland : hostWrite s port Reg.TIME_RATE v = okBus (takeRate s v) :=
    (hostWrite_timeRate h).trans (if_neg (by simpa using hst))
  exact completes_run (f := fun s => hostWrite s port Reg.TIME_RATE v) rfl hland
    ⟨rd_takeRate_timeRate s v, takeRate_rateRaw s v, takeRate_mem s v⟩

/-- TIME_RATE_WRITE is held in FOLLOW. -/
theorem exec_timeRateWrite_follow {v : Word} (h : Reaches s port Reg.TIME_RATE v) (hst : ringSt s = 3) :
    exec (.timeRateWrite port v) s = .next (okBus { s with time := { s.time with heldRate := some v } }) := by
  have hland : hostWrite s port Reg.TIME_RATE v = okBus { s with time := { s.time with heldRate := some v } } :=
    (hostWrite_timeRate h).trans (if_pos (by simpa using hst))
  exact exec_run (f := fun s => hostWrite s port Reg.TIME_RATE v) rfl hland rfl

/-- TIME_COMMIT that passes its tests stands pending and clears the staged step. -/
theorem completes_timeCommit {v : Word} (h : Reaches s port Reg.TIME_BASTE_COMMIT v) (commit : wbit v 0 = true)
    (passed : timeCommitResult s = 1) : Completes (.timeCommit port v) s fun t =>
      fbit t Reg.TIME_BASTE_STATUS 0 = true ∧ rd t Reg.TIME_STEP_LO = 0 ∧ rd t Reg.TIME_STEP_HI = 0 ∧
        t.time.carried = (if s.time.stepWritten then some (stagedStep s) else none) := by
  have hland := ((hostWrite_timeCommit h).trans (if_pos commit)).trans (landTimeCommit_passed passed)
  obtain ⟨hflag, hlo, hhi⟩ := timePending_shows s _
  exact completes_run (f := fun s => hostWrite s port Reg.TIME_BASTE_COMMIT v) rfl hland ⟨hflag, hlo, hhi, rfl⟩

/-- SNAP captures machine time. -/
theorem completes_snap (h : Reaches s port Reg.TIME_CTRL 1) : Completes (.snap port) s fun t =>
    rd t Reg.TIME_SNAP_NS = word (nsOf (mtime s)) ∧ rd t Reg.TIME_SNAP_FRAC = word (fracOf (mtime s)) ∧
      rd t Reg.TIME_SNAP_S_LO = word (secOf (mtime s)) ∧ t.time = s.time ∧ t.mem = s.mem := by
  have hland : hostWrite s port Reg.TIME_CTRL 1 = okBus (snapshot s) := (hostWrite_timeCtrl h).trans (landTimeCtrl_snap s)
  exact completes_run (f := fun s => hostWrite s port Reg.TIME_CTRL 1) rfl hland ((snapshot_captured s).answered _)

/-- FORCE_HOLDOVER takes a head in LOCKED to HOLDOVER. -/
theorem completes_forceHoldover (h : Reaches s port Reg.TIME_CTRL 2) (locked : timeSt s = 2) :
    Completes (.forceHoldover port) s fun t => timeSt t = 3 ∧ t.time.holdRaw = s.raw := by
  have hland : hostWrite s port Reg.TIME_CTRL 2 = okBus (loseSource s) := (hostWrite_timeCtrl h).trans (landTimeCtrl_force s)
  obtain ⟨hst, htime⟩ := loseSource_locked locked
  exact completes_run (f := fun s => hostWrite s port Reg.TIME_CTRL 2) rfl hland
    ⟨hst, congrArg Timekeeping.holdRaw htime⟩

/-- DOMAIN_STEP is the step of its domain counter. -/
theorem exec_domainStep {k : Fin 4} {v : Word} {t : State} (h : Reaches s port (Reg.TIME_DOM_STEP_HI k.val) v)
    (hstep : domainStep s k.val v = t) (hp : t.pending = s.pending) : exec (.domainStep port k v) s = .next t :=
  exec_run (f := fun s => hostWrite s port (Reg.TIME_DOM_STEP_HI k.val) v) rfl ((hostWrite_domStepHi h).trans hstep) hp

/-- DOMAIN_STEP of counters 1-3. -/
theorem exec_domainStep_foreign {k : Fin 4} {v : Word} (h : Reaches s port (Reg.TIME_DOM_STEP_HI k.val) v) (hk : k ≠ 0) :
    exec (.domainStep port k v) s = .next (okBus
      (setDom s k ((domc s k).step s.raw (sgn 64 ((rd s (Reg.TIME_DOM_STEP_LO k)).toNat + v.toNat * 2 ^ 32))))) := by
  have hne : k.val ≠ 0 := fun e => hk (Fin.ext e)
  refine exec_domainStep h ?_ (by rw [okBus_pending, setDom_pending])
  unfold domainStep
  exact if_neg (by simpa using hne)

/-- DOMAIN_STEP of counter 0 is ignored. -/
theorem exec_domainStep_zero {v : Word} (h : Reaches s port (Reg.TIME_DOM_STEP_HI 0) v) :
    exec (.domainStep port 0 v) s = .next (okBus s) := exec_domainStep (k := 0) h rfl rfl

end port

section clock
variable {s : State} (h : Awake s)
include h

/-- RATE_SLEW_STEP moves the effective rate up by 1 LSB. -/
theorem completes_rateSlewStep (hst : ringSt s = 6) (on : timeSt s ≠ 3) (due : s.time.slewRaw + 1000000000 ≤ s.raw * 2147)
    (below : (rd s Reg.TIME_RATE_ACTIVE).toInt < (rd s Reg.TIME_RATE).toInt) : Completes .rateSlewStep s fun t =>
      rd t Reg.TIME_RATE_ACTIVE = rd s Reg.TIME_RATE_ACTIVE + 1 ∧ ∀ a, a ≠ Reg.TIME_RATE_ACTIVE → rd t a = rd s a := by
  have hrd := rd_slewStep_up hst on due below
  refine completes_quiet (f := slewStep) rfl h ⟨?_, fun a ha => (hrd a).trans (rd_setRate s _ ha)⟩
  rw [rd_frame, hrd, setRate, rd_wr_same, BitVec.ofInt_add, BitVec.ofInt_toInt]
  rfl

/-- TIME_STEP_APPLY_UNLED applies a pending commit 1 us after it. -/
theorem completes_timeStepApplyUnled (hst : ringSt s ≠ 3) (lead : leads s = false)
    (pend : fbit s Reg.TIME_BASTE_STATUS 0 = true) (due : s.time.commitRaw + 1000 ≤ s.raw) :
    Completes .timeStepApplyUnled s fun t => fbit t Reg.TIME_BASTE_STATUS 0 = false ∧
      fld t Reg.TIME_BASTE_STATUS 3 1 = 1 ∧ t.time.carried = none ∧ t.mem = s.mem := by
  obtain ⟨t, happly, hmem⟩ := applyTime_pending pend
  have hdue : timeDue s = true := by simp [timeDue]; omega
  have hf : awake (fun s => if ringSt s == 3 || leads s || !timeDue s then s else applyTime s) s = timeApplied t := by
    rw [awake_eq h, if_neg (by simp [hst, lead, hdue]), happly]
  obtain ⟨hidle, hresult⟩ := timeApplied_status t
  exact completes_run rfl hf ⟨hidle, hresult, rfl, hmem⟩

/-- HOLDOVER_TIMEOUT takes a head in LOCKED under PTP to HOLDOVER once the servo was silent for long enough. -/
theorem completes_holdoverTimeout (locked : timeSt s = 2) (ptp : fld s Reg.TIME_STATE 5 4 = 1)
    (due : s.time.rateRaw + actF s Reg.TIME_SRC_CFG 11 4 * 100000000 ≤ s.raw) :
    Completes .holdoverTimeout s fun t => timeSt t = 3 ∧ t.time.holdRaw = s.raw := by
  have hlost : holdoverTimeout s = loseSource s := by
    rw [holdoverTimeout, if_pos]
    rw [ptp, decide_eq_true (Nat.le_sub_of_add_le' due)]
    rfl
  obtain ⟨hst, htime⟩ := loseSource_locked locked
  refine completes_quiet (f := holdoverTimeout) rfl h ?_
  rw [hlost]
  exact ⟨hst, congrArg Timekeeping.holdRaw htime⟩

/-- CALCULATOR_COMPARE raises calculator-mismatch where the calculators are more than 4 ns apart. -/
theorem exec_calculatorCompare
    (apart : s.time.main.read s.raw + 4 * nsU < (domc s 0).read s.raw ∨
      (domc s 0).read s.raw + 4 * nsU < s.time.main.read s.raw) :
    exec .calculatorCompare s = .next { event s TIME 5 with pending := s.pending } := by
  have hpending : { event s TIME 5 with pending := s.pending } = event s TIME 5 := by rw [← (only_event s TIME 5 0 0).pending]
  have hraise : compareCalc s = event s TIME 5 := by
    unfold compareCalc
    extract_lets
    refine if_pos ?_
    simp only [Bool.or_eq_true, decide_eq_true_eq]
    omega
  rw [hpending]
  exact exec_quiet (f := compareCalc) rfl h hraise (only_event s TIME 5 0 0).pending (event_mem ..) (event_raw ..)

end clock

section ptp
variable {s : State} (h : Awake s) {f : List Byte} {o : Nat} {ck : Option Nat} (hat : ptpAt f = some (o, ck))
include h hat

/-- PTP_EVENT_RX under the 1588 default profile in the head's own domain. -/
theorem exec_ptpEventRx (eth : Fin 2) (profile : actF s Reg.TIME_PTP_CFG 1 0 = 1)
    (dom : byteAt f (o + 4) = actF s Reg.TIME_PTP_CFG 15 8) :
    (byteAt f o % 16 = 0 → exec (.ptpEventRx eth f) s = .next { s with
      time := { s.time with syncPort := eth }
      out := s.out ++ [.ptp eth (mtime s) f] }) ∧
    (byteAt f o % 16 = 1 → fbit s Reg.TIME_STATE 6 = true → exec (.ptpEventRx eth f) s =
      .next (delayResp { s with out := s.out ++ [.ptp eth (mtime s) f] } eth f o (mtime s))) ∧
    (byteAt f o % 16 ≠ 0 → byteAt f o % 16 ≠ 1 ∨ fbit s Reg.TIME_STATE 6 = false →
      exec (.ptpEventRx eth f) s = .next { s with out := s.out ++ [.ptp eth (mtime s) f] }) := by
  have hrx := ptpEventRx_default eth hat profile dom
  refine ⟨fun hsync => ?_, fun hreq master => ?_, fun hsync hother => ?_⟩
  · exact exec_quiet (f := fun s => ptpEventRx s eth f) rfl h (hrx.trans (if_pos hsync)) rfl rfl rfl
  · have hresp := hrx.trans ((if_neg (by omega)).trans (if_pos ⟨hreq, master⟩))
    exact exec_quiet (f := fun s => ptpEventRx s eth f) rfl h hresp (sendEth_pending ..) (sendEth_mem ..) (sendEth_raw ..)
  · have hnone : ¬ (byteAt f o % 16 = 1 ∧ fbit s Reg.TIME_STATE 6 = true) := by
      rintro ⟨hreq, master⟩
      rcases hother with hother | hother
      · exact hother hreq
      · exact absurd (master.symm.trans hother) (by decide)
    exact exec_quiet (f := fun s => ptpEventRx s eth f) rfl h (hrx.trans ((if_neg hsync).trans (if_neg hnone))) rfl rfl rfl

/-- SYNC_SEND of a local master writes its origin timestamp and the remainder on the fly. -/
theorem exec_syncSend (eth : Fin 2) (master : fbit s Reg.TIME_STATE 6 = true) (takes : ptpTakes s eth ck.isSome = true)
    (free : txBlocked s eth = false) : exec (.syncSend eth f) s = .next { s with out := s.out ++ [.eth eth (addCorrection
      (patch f (o + 34) (beBytes 6 (secOf (mtime s)) ++ beBytes 4 (nsOf (mtime s)))) (fracOf (mtime s)))] } := by
  have hsend : syncSend s eth f = emit s (.eth eth (addCorrection (patch f (o + 34) (ptpTime (mtime s))) (fracOf (mtime s)))) := by
    rw [← sendEth_free _ free]
    simp only [syncSend, master, hat, takes, Bool.not_true, Bool.false_eq_true, if_false]
  exact exec_quiet (f := fun s => syncSend s eth f) rfl h hsend rfl rfl rfl

/-- PTP_GENERAL_MESSAGE goes to firmware, and an Announce decides the role. -/
theorem completes_ptpGeneralMessage (eth : Fin 2) (takes : ptpTakes s eth ck.isSome = true) :
    Completes (.ptpGeneralMessage eth f) s fun t =>
      t.out = s.out ++ [.ptp eth (mtime s) f] ∧ (∀ a, a ≠ Reg.TIME_STATE → rd t a = rd s a) ∧
      fbit t Reg.TIME_STATE 6 =
        if byteAt f o % 16 = 0xB ∧ byteAt f (o + 4) = actF s Reg.TIME_PTP_CFG 15 8 then
          !better (announceSet f o) (ownSet s) && actF s Reg.TIME_PTP_CFG 2 2 != 1
        else fbit s Reg.TIME_STATE 6 := by
  obtain ⟨hannounce, hother⟩ := ptpGeneral_taken eth hat takes
  refine completes_quiet (f := fun s => ptpGeneral s eth f) rfl h ?_
  by_cases announce : byteAt f o % 16 = 0xB ∧ byteAt f (o + 4) = actF s Reg.TIME_PTP_CFG 15 8
  · obtain ⟨x, hx⟩ := hannounce announce
    rw [if_pos announce, hx]
    exact ⟨rfl, fun a ha => rd_setBit_ne _ _ _ ha, fbit_setBit _ _ _ _ (by decide)⟩
  · rw [if_neg announce, hother announce]
    exact ⟨rfl, fun a _ => rfl, rfl⟩

end ptp

section ports
variable {s : State} (h : Awake s)
include h

/-- TRANSPARENT_CLOCK_FORWARD adds the residence and keeps the largest. -/
theorem completes_transparentClockForward (eth : Fin 2) (f : List Byte) (r : Long) (ptp : (ptpAt f).isSome = true)
    (profile : actF s Reg.TIME_PTP_CFG 1 0 = 1) (tc : actF s Reg.TIME_PTP_CFG 4 4 = 1)
    (free : txBlocked s (if eth = 0 then 1 else 0) = false) : Completes (.transparentClockForward eth f r) s fun t =>
      t.out = s.out ++ [.eth (if eth = 0 then 1 else 0) (addCorrection f r.toNat)] ∧
        (rd t Reg.TIME_TC_RES_MAX).toNat = max (rd s Reg.TIME_TC_RES_MAX).toNat (min (r.toNat / nsU) 0xFFFFFFFF) := by
  have hmax (m : Nat) : (word (max (rd s Reg.TIME_TC_RES_MAX).toNat (min m 0xFFFFFFFF))).toNat =
      max (rd s Reg.TIME_TC_RES_MAX).toNat (min m 0xFFFFFFFF) := by
    rw [word, BitVec.toNat_ofNat, Nat.mod_eq_of_lt]
    exact Nat.max_lt.mpr ⟨BitVec.isLt _, Nat.lt_of_le_of_lt (Nat.min_le_right _ _) (by decide)⟩
  have hforward := transparent_tc (port := eth) f r.toNat ptp profile tc free
  refine completes_quiet (f := fun s => transparent s eth f r.toNat) rfl h ?_
  rw [hforward]
  exact ⟨rfl, (congrArg BitVec.toNat (rd_wr_same s _ _)).trans (hmax _)⟩

/-- LAUNCH_AT_TIME starts the frame of an entry that comes to the front in time. -/
theorem completes_launchAtTime {eth queue : Fin 2} (err : Word) {e : TimedEntry} {rest : List TimedEntry}
    (front : tqueue s eth.val queue.val = e :: rest) (req : e.req = none) (quiet : NoRequests s) (due : e.time ≤ mtime s)
    (onTime : mtime s ≤ e.time + 1000 * nsU) (first : goesFirst s eth.val queue.val e = false) :
    Completes (.launchAtTime eth queue err) s fun t => tqueue t eth.val queue.val = rest ∧
      ∃ more, t.out = s.out ++ [.timed eth (if e.ptp = 1 then addCorrection e.frame err.toInt else e.frame) err] ++ more ∧
        (heldTx s eth.val = [] → more = []) := by
  obtain ⟨x, more, hlaunch, hrest, hmore⟩ := launchTimed_due (err := err) front req due onTime first
  have hf : awake (fun s => let r := launchTimed s eth queue.val err; pump (timedDone r.1 r.2)) s = { s with
      time := x
      out := s.out ++ [.timed eth (if e.ptp = 1 then addCorrection e.frame err.toInt else e.frame) err] ++ more } := by
    rw [awake_eq h, hlaunch]
    exact pump_idle quiet.1 quiet.2
  exact completes_run rfl hf ⟨hrest, more, rfl, hmore⟩

end ports

section pins
variable {s : State} (h : Awake s)
include h

/-- SYNC_OUT_EDGE at a whole second. -/
theorem exec_syncOutEdge_second (lead : leads s = true) (safe : chipSafe s = false) (mode : actF s Reg.TIME_SYNC_CFG 1 0 = 2)
    (fresh : s.time.syncEdge ≠ some (secOf (mtime s) * secU)) : exec .syncOutEdge s = .next { s with
      time := { s.time with syncEdge := some (secOf (mtime s) * secU) }
      out := s.out ++ [.pin "SYNC_OUT" true (secOf (mtime s) * secU),
        .pin "SYNC_OUT" false (secOf (mtime s) * secU + actF s Reg.TIME_SYNC_CFG 15 8 * 8 * nsU)] } := by
  have hedge : syncOutEdge s = syncPulse s (secOf (mtime s) * secU) (actF s Reg.TIME_SYNC_CFG 15 8 * 8 * nsU) := by
    simp [syncOutEdge, lead, safe, mode]
  exact exec_quiet (f := syncOutEdge) rfl h (hedge.trans (syncPulse_new _ fresh)) rfl rfl rfl

/-- SYNC_OUT_EDGE at a latch instant. -/
theorem exec_syncOutEdge_latch (lead : leads s = true) (safe : chipSafe s = false) (mode : actF s Reg.TIME_SYNC_CFG 1 0 = 1)
    (on : actF s Reg.TIME_SYNC_CFG 31 16 ≠ 0) (count : s.cyc.count.toNat % actF s Reg.TIME_SYNC_CFG 31 16 = 0)
    (instant : s.raw = s.cyc.instant) (fresh : s.time.syncEdge ≠ some s.cyc.latch)
    (width : actF s Reg.TIME_SYNC_CFG 15 8 * 8 < actF s Reg.TIME_SYNC_CFG 31 16 * cycleNs s) :
    exec .syncOutEdge s = .next { s with
      time := { s.time with syncEdge := some s.cyc.latch }
      out := s.out ++ [.pin "SYNC_OUT" true s.cyc.latch,
        .pin "SYNC_OUT" false (s.cyc.latch + actF s Reg.TIME_SYNC_CFG 15 8 * 8 * nsU)] } := by
  have hwidth : ¬ actF s Reg.TIME_SYNC_CFG 31 16 * cycleNs s * nsU ≤ actF s Reg.TIME_SYNC_CFG 15 8 * 8 * nsU :=
    Nat.not_le.mpr (Nat.mul_lt_mul_of_pos_right width (by decide))
  have hedge : syncOutEdge s = syncPulse s s.cyc.latch (actF s Reg.TIME_SYNC_CFG 15 8 * 8 * nsU) := by
    simp [syncOutEdge, lead, safe, mode, on, count, onInstant, instant, hwidth]
  exact exec_quiet (f := syncOutEdge) rfl h (hedge.trans (syncPulse_new _ fresh)) rfl rfl rfl

/-- SYNC_IN_EDGE is stamped. -/
theorem completes_syncInEdge (mode : actF s Reg.TIME_SYNC_CFG 3 2 = 1) : Completes .syncInEdge s fun t =>
    rd t Reg.TIME_SYNCIN_TS_NS = word (nsOf (mtime s)) ∧ t.time = { s.time with misses := 0 } ∧ t.mem = s.mem := by
  have hf := (awake_eq (f := syncInEdge) h).trans ((syncInEdge_stamp mode).trans (note_frame _ 3 0))
  exact completes_run rfl hf ⟨rd_wr_same _ _ _, rfl, rfl⟩

/-- SYNC_IN_MISSING counts, and the third missing edge loses the source. -/
theorem completes_syncInMissing (mode : actF s Reg.TIME_SYNC_CFG 3 2 = 2) (src : actF s Reg.TIME_SRC_CFG 1 0 = 2) :
    Completes .syncInMissing s fun t => t.time.misses = s.time.misses + 1 ∧
      (rd t Reg.TIME_SYNCIN_MISS_CNT).toNat = min ((rd s Reg.TIME_SYNCIN_MISS_CNT).toNat + 1) (2 ^ 32 - 1) ∧
      (2 ≤ s.time.misses → fld s Reg.TIME_STATE 5 4 = 2 → timeSt s = 2 → timeSt t = 3) := by
  obtain ⟨hmisses, hcount, hlost⟩ := syncInMissing_cascade mode src
  refine completes_quiet (f := syncInMissing) rfl h ⟨hmisses, ?_, hlost⟩
  rw [rd_frame, hcount, rd_bump_toNat]

end pins

/-- Settles O17, command by command. -/
theorem timeCommandsComplete : Obligations.TimeCommandsComplete := by
  unfold Obligations.TimeCommandsComplete
  intro s h
  exact ⟨fun _ _ => completes_timeRateWrite,
    fun _ _ => exec_timeRateWrite_follow,
    completes_rateSlewStep h,
    fun _ _ => completes_timeCommit,
    completes_timeStepApplyUnled h,
    fun _ => completes_snap,
    fun _ => completes_forceHoldover,
    completes_holdoverTimeout h,
    exec_calculatorCompare h,
    fun _ _ _ => exec_domainStep_foreign,
    fun _ _ => exec_domainStep_zero,
    fun eth _ _ _ hat => exec_ptpEventRx h hat eth,
    completes_transparentClockForward h,
    fun eth _ _ _ hat => exec_syncSend h hat eth,
    fun _ _ err _ _ => completes_launchAtTime h err,
    exec_syncOutEdge_second h,
    exec_syncOutEdge_latch h,
    completes_syncInEdge h,
    completes_syncInMissing h,
    fun eth _ _ _ hat => completes_ptpGeneralMessage h hat eth⟩

end Sys2Proof.Machine

/-! ## The profile engine: motion commands stand pending (R157-R196) -/

namespace Sys2Proof.Machine

/-! ### Words of a command and its index -/

/-- A field of a number as a word. -/
theorem wbits_word {n : Nat} (h : n < 2 ^ 32) (hi lo : Nat) : wbits (word n) hi lo = n / 2 ^ lo % 2 ^ (hi + 1 - lo) := by
  rw [wbits, word, BitVec.toNat_ofNat, Nat.mod_eq_of_lt h, bits]

/-- The index in the low byte of a word of PROF. -/
theorem wbits_word_index {op : Nat} (h : op < 256) (ix : Byte) : wbits (word (op * 256 + ix.toNat)) 7 0 = ix.toNat := by
  have hix := ix.isLt
  rw [wbits_word (by omega)]
  omega

/-- The opcode above the index. -/
theorem wbits_word_opcode {op : Nat} (h : op < 256) (ix : Byte) : wbits (word (op * 256 + ix.toNat)) 15 8 = op := by
  have hix := ix.isLt
  rw [wbits_word (by omega)]
  omega

/-! ### Writes that land in PROF -/

theorem landReg_prof (s : State) (port : Port) (a : Nat) {r : RegRow} (i j : Nat) (v : Word) (h : r.off < 0xF000) :
    landReg s port PROF a r i j v = landProf s a r i v :=
  if_neg (by simp only [Bool.and_eq_true, decide_eq_true_eq]; omega)

/-- A head that works alone lands the writes of every port that it takes. -/
theorem CommandFree.hostWrite_eq {s : State} {port : Port} (h : CommandFree s port) (a : Nat) (v : Word) :
    hostWrite s port a v = landWrite s port a v := by
  have hawake : s.sec.inReset = false := h.awake
  have hsolo : s.twin.pair = false := h.solo
  cases port with
  | debug => simp [hostWrite, hawake, h.port rfl]
  | fw c => simp [hostWrite, fwWrite, fwToken, stamps, hawake, hsolo]
  | _ => simp [hostWrite, hawake, hsolo]

/-- A write of an argument or of PROF_CMD takes effect in PROF, where PD_MOT is on or the write asks for its wake (R37, R49). -/
theorem CommandFree.hostWrite_prof {s : State} {port : Port} {a : Nat} {v : Word} {r : RegRow} {i j : Nat} (h : CommandFree s port)
    (hr : regAt a = some (r, i, j)) (hoff : r.off = 0x40 ∨ r.off = 0x50)
    (ha : blockOf a = PROF ∧ 0x20000000 ≤ a ∧ a < 0x21000000 ∧ a % 4 = 0)
    (power : blockOff s PROF = false ∨ wakeWrite a v = true) : hostWrite s port a v = landProf s a r i v := by
  obtain ⟨hblk, hlo, hhi, halign⟩ := ha
  have hplace : (a < 0x20000000 || 0x21000000 ≤ a || a % 4 != 0 || s.flt.resetting.contains PROF) = false := by
    rw [h.block, halign, decide_eq_false (Nat.not_lt.mpr hlo), decide_eq_false (Nat.not_le.mpr hhi)]
    rfl
  have hpower : (blockOff s PROF && !wakeWrite a v || PROF == SAFE && port != .island) = false := by
    have hsafe : (PROF == SAFE) = false := by decide
    rcases power with hp | hp <;> rw [hp, hsafe] <;> simp
  have hhold : holdFlags PROF r i v = [(Reg.PROF_CMD_STATUS, 0)] := by
    rcases hoff with ho | ho <;> simp [holdFlags, PROF, ho]
  have hfree : (((holdFlags PROF r i v).any fun f => fbit s f.1 f.2) ||
      (PROF == LOOP && r.off == 0x10000 && s.loop.swapHeld.contains i)) = false := by
    rw [hhold]
    simp [h.free, PROF, LOOP]
  rw [h.hostWrite_eq, landWrite]
  simp only [hblk, hplace, hpower, hr, hfree, Bool.false_eq_true, if_false]
  exact landReg_prof s port a i j v (by omega)

/-- Storing another register than the status leaves PROF free for a command. -/
theorem CommandFree.stored {s : State} {port : Port} (h : CommandFree s port) {a : Nat} (v : Word)
    (ha : a ≠ Reg.PROF_CMD_STATUS) : CommandFree (okBus (wr s a v)) port where
  awake := h.awake
  solo := h.solo
  port := h.port
  block := h.block
  free := (congrArg (wbit · 0) (rd_wr_ne s v ha.symm)).trans h.free

/-- Different arguments stand in different registers. -/
theorem cmdArg_ne {i j : Nat} (h : i ≠ j) : Reg.PROF_CMD_ARG i ≠ Reg.PROF_CMD_ARG j := by
  rw [Reg.PROF_CMD_ARG, Reg.PROF_CMD_ARG]
  omega

/-- An argument does not stand in the status. -/
theorem cmdArg_ne_status {i : Nat} (h : i < 4) : Reg.PROF_CMD_ARG i ≠ Reg.PROF_CMD_STATUS := by
  rw [Reg.PROF_CMD_ARG, Reg.PROF_CMD_STATUS]
  omega

/-- Where the arguments of a command stand (R196). -/
theorem regAt_cmdArg {i : Nat} (h : i < 4) :
    regAt (Reg.PROF_CMD_ARG i) = some (⟨0x40, 0x4, 4, 0x0, 1, .rw, 0x00000000, 0x0, 0xFFFFFFFF⟩, i, 0) := by
  revert i
  decide

/-- An argument is stored as it is written. -/
theorem CommandFree.hostWrite_arg {s : State} {port : Port} (h : CommandFree s port) (power : blockOff s PROF = false) {i : Nat}
    (hi : i < 4) (v : Word) : hostWrite s port (Reg.PROF_CMD_ARG i) v = okBus (wr s (Reg.PROF_CMD_ARG i) v) := by
  have hplace : ∀ i < 4, blockOf (Reg.PROF_CMD_ARG i) = PROF ∧ 0x20000000 ≤ Reg.PROF_CMD_ARG i ∧
      Reg.PROF_CMD_ARG i < 0x21000000 ∧ Reg.PROF_CMD_ARG i % 4 = 0 := by decide
  have hmask (w : Word) : (w &&& ~~~0xFFFFFFFF) ||| (v &&& 0xFFFFFFFF) = v := by
    rw [show (0xFFFFFFFF : Word) = BitVec.allOnes 32 from rfl, BitVec.not_allOnes, BitVec.and_zero, BitVec.zero_or,
      BitVec.and_allOnes]
  rw [h.hostWrite_prof (regAt_cmdArg hi) (.inl rfl) (hplace i hi) (.inl power)]
  simp only [landProf, storeRow, hmask]
  rfl

/-- The command itself stands pending when it is written; ENABLE also while PD_MOT is off (R37). -/
theorem CommandFree.hostWrite_cmd {s : State} {port : Port} (h : CommandFree s port) {op : Nat} (hop : op < 256) (ix : Byte)
    (power : op ≠ 7 → blockOff s PROF = false) : hostWrite s port Reg.PROF_CMD (word (op * 256 + ix.toNat)) =
      landProfCmd s (word (op * 256 + ix.toNat)) := by
  refine h.hostWrite_prof (r := ⟨0x50, 0x0, 1, 0x0, 1, .wo, 0x00000000, 0x0, 0x0000FFFF⟩) (i := 0) (j := 0) rfl (.inr rfl)
    (by decide) ?_
  by_cases wakes : op = 7
  · right
    rw [wakeWrite, wbits_word_opcode hop, wakes]
    rfl
  · exact .inl (power wakes)

/-! ### A motion command -/

/-- From s to t the arguments of a command from the k-th on were stored; every other register, what is kept of the profile engine, the
memories and the ring are as before. -/
structure ArgsStored (s : State) (k : Nat) (args : List Word) (t : State) : Prop where
  prof : t.prof = s.prof
  mem : t.mem = s.mem
  ring : t.ring = s.ring
  vals : ∀ i, rd t (Reg.PROF_CMD_ARG (k + i)) = args.getD i (rd s (Reg.PROF_CMD_ARG (k + i)))
  regs : ∀ a, (∀ i, i < args.length → a ≠ Reg.PROF_CMD_ARG (k + i)) → rd t a = rd s a

theorem ArgsStored.nil (s : State) (k : Nat) : ArgsStored s k [] s := ⟨rfl, rfl, rfl, fun _ => rfl, fun _ _ => rfl⟩

/-- One argument stored before the others. -/
theorem ArgsStored.cons {s t : State} {k : Nat} {v : Word} {vs : List Word}
    (h : ArgsStored (okBus (wr s (Reg.PROF_CMD_ARG k) v)) (k + 1) vs t) : ArgsStored s k (v :: vs) t where
  prof := h.prof
  mem := h.mem
  ring := h.ring
  vals i := by
    cases i with
    | zero => exact (h.regs _ fun i _ => cmdArg_ne (by omega)).trans (rd_wr_same s _ v)
    | succ i =>
      rw [← Nat.add_assoc, Nat.add_right_comm, h.vals i]
      exact congrArg (vs.getD i) (rd_wr_ne s v (cmdArg_ne (by omega)))
  regs a ha := by
    have hrest : ∀ i, i < vs.length → a ≠ Reg.PROF_CMD_ARG (k + 1 + i) := fun i hi => by
      rw [Nat.add_right_comm]
      exact ha (i + 1) (Nat.succ_lt_succ hi)
    exact (h.regs a hrest).trans (rd_wr_ne s v (ha 0 (Nat.succ_pos _)))

/-- The arguments of a command are stored one after the other, and PROF stays free for the command. -/
theorem CommandFree.issueArgs {s : State} {port : Port} (h : CommandFree s port) (args : List Word) (k : Nat)
    (hk : k + args.length ≤ 4) (power : args ≠ [] → blockOff s PROF = false) (ws : List (Nat × Word)) :
    ∃ t, issueWrites port ((args.mapIdx fun i v => (Reg.PROF_CMD_ARG (k + i), v)) ++ ws) s = issueWrites port ws t ∧
      CommandFree t port ∧ blockOff t PROF = blockOff s PROF ∧ ArgsStored s k args t := by
  induction args generalizing s k with
  | nil => exact ⟨s, rfl, h, rfl, .nil s k⟩
  | cons v vs ih =>
    rw [List.length_cons] at hk
    have on := power (List.cons_ne_nil v vs)
    obtain ⟨t, hissue, hfree, hpower, hstored⟩ :=
      ih (h.stored v (cmdArg_ne_status (i := k) (by omega))) (k + 1) (by omega) fun _ => on
    refine ⟨t, ?_, hfree, hpower, hstored.cons⟩
    rw [← hissue, List.mapIdx_cons, List.cons_append, issueWrites, Nat.add_zero, h.hostWrite_arg on (by omega)]
    simp only [okBus, Bool.false_eq_true, if_false, Nat.add_assoc, Nat.add_comm 1]

/-- The answer on the bus is in no register. -/
@[simp] theorem rd_okBus (s : State) (data : Word) (a : Nat) : rd (okBus s data) a = rd s a := rfl

/-- What is kept of the profile engine is in no register. -/
@[simp] theorem rd_withProf (s : State) (x : Prof) (a : Nat) : rd { s with prof := x } a = rd s a := rfl

/-- A field keeps what it reads while a bit outside it is set. -/
theorem fld_setBit_ne (s : State) (a i : Nat) (b : Bool) (hi lo : Nat) (h : i < 32) (hd : hi < i ∨ i < lo) :
    fld (setBit s a i b) a hi lo = fld s a hi lo := fld_setF_ne s a i i (flag b) hi lo (Nat.le_refl i) h hd

/-- The state in which PROF_CMD_STATUS shows a command as pending (R196). -/
def cmdShown (s : State) (op ix : Nat) : State :=
  setBit (setF (setF s Reg.PROF_CMD_STATUS 15 8 op) Reg.PROF_CMD_STATUS 23 16 ix) Reg.PROF_CMD_STATUS 0 true

theorem cmdShown_status (s : State) {op ix : Nat} (hop : op < 256) (hix : ix < 256) :
    fbit (cmdShown s op ix) Reg.PROF_CMD_STATUS 0 = true ∧ fld (cmdShown s op ix) Reg.PROF_CMD_STATUS 15 8 = op ∧
      fld (cmdShown s op ix) Reg.PROF_CMD_STATUS 23 16 = ix := by
  unfold cmdShown
  refine ⟨fbit_setBit _ _ _ _ (by decide), ?_, ?_⟩
  · rw [fld_setBit_ne _ _ _ _ _ _ (by decide) (by decide), fld_setF_ne _ _ _ _ _ _ _ (by decide) (by decide) (by decide),
      fld_setF _ _ _ _ _ (by decide) (by decide)]
    exact Nat.mod_eq_of_lt hop
  · rw [fld_setBit_ne _ _ _ _ _ _ (by decide) (by decide), fld_setF _ _ _ _ _ (by decide) (by decide)]
    exact Nat.mod_eq_of_lt hix

theorem rd_cmdShown_ne (s : State) (op ix : Nat) {a : Nat} (h : a ≠ Reg.PROF_CMD_STATUS) :
    rd (cmdShown s op ix) a = rd s a := by
  rw [cmdShown, rd_setBit_ne _ _ _ h, rd_setF_ne _ _ _ _ h, rd_setF_ne _ _ _ _ h]

/-- A write of PROF_CMD leaves the command pending with the arguments that stand in their registers, and shows it. -/
theorem landProfCmd_eq (s : State) {op : Nat} (hop : op < 256) (ix : Byte) :
    landProfCmd s (word (op * 256 + ix.toNat)) = okBus (cmdShown { s with prof := { s.prof with
      cmd := some (op, ix.toNat, rd s (Reg.PROF_CMD_ARG 0), rd s (Reg.PROF_CMD_ARG 1), rd s (Reg.PROF_CMD_ARG 2),
        rd s (Reg.PROF_CMD_ARG 3)) } } op ix.toNat) := by
  rw [landProfCmd, wbits_word_opcode hop, wbits_word_index hop]
  rfl

/-- A command that lands after its arguments stands pending with them. -/
theorem posted_landProfCmd {s t : State} {op : Nat} (hop : op < 256) (ix : Byte) {args : List Word} (hlen : args.length ≤ 2)
    (h : ArgsStored s 0 args t) : Posted s op ix.toNat args (landProfCmd t (word (op * 256 + ix.toNat))) := by
  have harg (i : Nat) : rd t (Reg.PROF_CMD_ARG i) = args.getD i (rd s (Reg.PROF_CMD_ARG i)) := by
    simpa only [Nat.zero_add] using h.vals i
  have hlast {i : Nat} (hi : 2 ≤ i) : rd t (Reg.PROF_CMD_ARG i) = rd s (Reg.PROF_CMD_ARG i) :=
    (harg i).trans (by rw [List.getD_eq_getElem?_getD, List.getElem?_eq_none (Nat.le_trans hlen hi), Option.getD_none])
  rw [landProfCmd_eq t hop, harg 0, harg 1, hlast (Nat.le_refl 2), hlast (i := 3) (by decide), h.prof]
  obtain ⟨busy, opcode, index⟩ := cmdShown_status { t with prof := { s.prof with
    cmd := some (op, ix.toNat, args.getD 0 (rd s (Reg.PROF_CMD_ARG 0)), args.getD 1 (rd s (Reg.PROF_CMD_ARG 1)),
      rd s (Reg.PROF_CMD_ARG 2), rd s (Reg.PROF_CMD_ARG 3)) } } hop ix.isLt
  exact {
    cmd := rfl
    busy := busy
    opcode := opcode
    index := index
    bus := rfl
    regs := fun a ha hargs => by
      rw [rd_okBus, rd_cmdShown_ne _ _ _ ha, rd_withProf]
      exact h.regs a fun i hi => by rw [Nat.zero_add]; exact hargs i hi
    mem := h.mem
    ring := h.ring }

/-- A motion command of PROF completes: its arguments are stored, and it stands pending with them. -/
theorem CommandFree.completes {s : State} {port : Port} (h : CommandFree s port) {c : Instr} {op : Nat} {ix : Byte}
    {args : List Word} (e : exec c s = runQuiet (motionCmd port op ix args) s) (hop : op < 256) (hlen : args.length ≤ 2)
    (hargs : args ≠ [] → blockOff s PROF = false) (hcmd : op ≠ 7 → blockOff s PROF = false) :
    Completes c s (Posted s op ix.toNat args) := by
  obtain ⟨t, hissue, hfree, hpower, hstored⟩ :=
    h.issueArgs args 0 (by omega) hargs [(Reg.PROF_CMD, word (op * 256 + ix.toNat))]
  have hland := hfree.hostWrite_cmd hop ix fun wakes => hpower.trans (hcmd wakes)
  have heffect : motionCmd port op ix args s = okBus (landProfCmd t (word (op * 256 + ix.toNat))) := by
    simp only [Nat.zero_add] at hissue
    rw [motionCmd, hissue, issueWrites, hland]
    rfl
  obtain ⟨cmd, busy, opcode, index, bus, regs, mem, ring⟩ := posted_landProfCmd hop ix hlen hstored
  refine completes_port e ?_
  rw [heffect]
  exact ⟨cmd, busy, opcode, index, rfl, regs, rfl, ring⟩

/-- Settles O18: every motion command is the write of its arguments and of PROF_CMD, by CommandFree.completes. -/
theorem motionCommandsArePosted : Obligations.MotionCommandsArePosted := by
  unfold Obligations.MotionCommandsArePosted
  intro s port h ix x w
  refine ⟨h.completes rfl (by decide) (by simp) (absurd rfl) (absurd rfl), fun on => ?_⟩
  have post {c : Instr} {op : Nat} {args : List Word} (e : exec c s = runQuiet (motionCmd port op ix args) s)
      (hop : op < 256 := by decide) (hlen : args.length ≤ 2 := by simp) : Completes c s (Posted s op ix.toNat args) :=
    h.completes e hop hlen (fun _ => on) (fun _ => on)
  exact ⟨post rfl, post rfl, post rfl, post rfl, post rfl, post rfl, post rfl, post rfl, post rfl, post rfl, post rfl, post rfl,
    post rfl⟩

end Sys2Proof.Machine

/-! ## The profile engine: parameters, phases and homing (R164, R193, R495) -/

namespace Sys2Proof.Machine

/-! ### Parameter sets (R164) -/

/-- A write of PROF_BASTE_COMMIT that reaches it is a commit or a load. -/
theorem hostWrite_paramCommit {s : State} {port : Port} {v : Word} (h : Reaches s port Reg.PROF_BASTE_COMMIT v) :
    hostWrite s port Reg.PROF_BASTE_COMMIT v = landParamCommit s v :=
  (write_reach h (r := ⟨0x10, 0x0, 1, 0x0, 1, .wo, 0x00000000, 0x0, 0x000003FF⟩) (i := 0) (j := 0) rfl (by decide)
    (by decide)).trans (landReg_prof s port Reg.PROF_BASTE_COMMIT 0 0 v (by decide))

/-- The word of a commit names its axis, its now bit, and no load. -/
theorem commitWord_fields (ax : Byte) (now : Bool) : wbits (commitWord ax now) 7 0 = ax.toNat ∧
    wbit (commitWord ax now) 8 = now ∧ wbit (commitWord ax now) 9 = false := by
  have hax := ax.isLt
  have hflag : flag now < 2 := by cases now <;> decide
  have hbit : (flag now == 1) = now := by cases now <;> rfl
  have hword : ax.toNat + flag now * 256 < 2 ^ 32 := by omega
  rw [commitWord, wbit_eq_wbits, wbit_eq_wbits, wbits_word hword, wbits_word hword, wbits_word hword]
  refine ⟨by omega, ?_, beq_eq_false_iff_ne.mpr (by omega)⟩
  exact (congrArg (· == 1) (by omega)).trans hbit

/-- The word of a load names its axis. -/
theorem loadWord_fields (ax : Byte) : wbits (loadWord ax) 7 0 = ax.toNat ∧ wbit (loadWord ax) 9 = true := by
  have hax := ax.isLt
  rw [loadWord, wbit_eq_wbits, wbits_word (by omega), wbits_word (by omega), beq_iff_eq]
  omega

/-- The state in which a commit stands pending for an axis, shown in PROF_BASTE_STATUS. -/
def paramPending (s : State) (a : Nat) (now : Bool) : State :=
  setF (setBit { s with prof := { s.prof with commit := some (a, now) } } Reg.PROF_BASTE_STATUS 0 true)
    Reg.PROF_BASTE_STATUS 15 8 a

theorem paramPending_shows (s : State) {a : Nat} (now : Bool) (h : a < 256) :
    fbit (paramPending s a now) Reg.PROF_BASTE_STATUS 0 = true ∧ fld (paramPending s a now) Reg.PROF_BASTE_STATUS 15 8 = a ∧
      ∀ b, b ≠ Reg.PROF_BASTE_STATUS → rd (paramPending s a now) b = rd s b := by
  unfold paramPending
  refine ⟨?_, ?_, fun b hb => ?_⟩
  · rw [fbit_setF_ne _ _ _ _ _ _ (by decide) (by decide) (by decide), fbit_setBit _ _ _ _ (by decide)]
  · rw [fld_setF _ _ _ _ _ (by decide) (by decide)]
    exact Nat.mod_eq_of_lt h
  · rw [rd_setF_ne _ _ _ _ hb, rd_setBit_ne _ _ _ hb, rd_withProf]

/-- A commit stands pending. -/
theorem landParamCommit_commit (s : State) (ax : Byte) (now : Bool) : landParamCommit s (commitWord ax now) =
    okBus (paramPending s ax.toNat now) := by
  obtain ⟨haxis, hnow, hload⟩ := commitWord_fields ax now
  simp only [landParamCommit, haxis, hnow, hload, Bool.false_eq_true, if_false, paramPending]

/-- The first n words of the active set of an axis copied into the staging record. -/
def stageParams (s : State) (a n : Nat) : State :=
  (List.range n).foldl (fun t i => wr t (Reg.PROF_BASTE_VMAX + 4 * i) (par t a i)) s

/-- A load copies the active set of its axis into the staging record. -/
theorem landParamCommit_load (s : State) (ax : Byte) : landParamCommit s (loadWord ax) =
    okBus (paramDone (stageParams s ax.toNat 16) ax.toNat 5) := by
  obtain ⟨haxis, hload⟩ := loadWord_fields ax
  simp only [landParamCommit, haxis, hload, if_true, stageParams]

theorem stageParams_succ (s : State) (a n : Nat) : stageParams s a (n + 1) =
    wr (stageParams s a n) (Reg.PROF_BASTE_VMAX + 4 * n) (par (stageParams s a n) a n) := by
  rw [stageParams, List.range_succ, List.foldl_append]
  rfl

/-- Staging changes no active copy and nothing that is kept of the profile engine. -/
theorem stageParams_keeps (s : State) (a n : Nat) :
    (stageParams s a n).act = s.act ∧ (stageParams s a n).prof = s.prof := by
  induction n with
  | zero => exact ⟨rfl, rfl⟩
  | succ n ih =>
    rw [stageParams_succ]
    exact ih

/-- Each word staged reads as the active one. -/
theorem rd_stageParams (s : State) (a : Nat) {n i : Nat} (h : i < n) :
    rd (stageParams s a n) (Reg.PROF_BASTE_VMAX + 4 * i) = par s a i := by
  induction n with
  | zero => omega
  | succ n ih =>
    have hpar : par (stageParams s a n) a n = par s a n := by rw [par, par, actv, actv, (stageParams_keeps s a n).1]
    rw [stageParams_succ, hpar, rd_wr]
    by_cases hi : i = n
    · rw [hi, if_pos rfl]
    · rw [if_neg (by omega), ih (by omega)]

/-- No word of the staging record stands in the status. -/
theorem staged_ne_status (i : Nat) : Reg.PROF_BASTE_VMAX + 4 * i ≠ Reg.PROF_BASTE_STATUS := by
  rw [Reg.PROF_BASTE_VMAX, Reg.PROF_BASTE_STATUS]
  omega

/-- A commit or load that is done shows its result and leaves every other register. -/
theorem paramDone_shows (s : State) (a : Nat) {result : Nat} (h : result < 8) :
    fld (paramDone s a result) Reg.PROF_BASTE_STATUS 3 1 = result ∧
      ∀ b, b ≠ Reg.PROF_BASTE_STATUS → rd (paramDone s a result) b = rd s b := by
  unfold paramDone
  refine ⟨?_, fun b hb => ?_⟩
  · rw [fld_setF_ne _ _ _ _ _ _ _ (by decide) (by decide) (by decide), fld_setBit_ne _ _ _ _ _ _ (by decide) (by decide),
      fld_setF _ _ _ _ _ (by decide) (by decide)]
    exact Nat.mod_eq_of_lt h
  · rw [rd_setF_ne _ _ _ _ hb, rd_setBit_ne _ _ _ hb, rd_setF_ne _ _ _ _ hb]

/-! ### Phases (R193) -/

/-- The exchange that a response ends is the first one of its axis that has been sent. -/
theorem phaseResponse_first {s : State} {a i : Nat} {q : SvcReq} (result : Nat) (data : List Byte) (hi : i < 16)
    (hreq : (slot s i).req = some q) (origin : q.origin = .phase a) (sent : (slot s i).sent = true)
    (first : ∀ j p, j < i → (slot s j).req = some p → p.origin ≠ .phase a) :
    phaseResponse s a result data = phaseAnswers (svcEnd s i result data) := by
  unfold phaseResponse
  rw [show (List.range 16).find? _ = some i from List.find?_range_eq_some.mpr ⟨?_, List.mem_range.mpr hi, fun j hj => ?_⟩]
  · simp [hreq, origin, sent]
  · cases hother : (slot s j).req with
    | none => rfl
    | some p => simp [first j p hj hother]

/-- An exchange of a PHASE_RESTORE that ends frees its slot and joins the ended ones. -/
theorem svcEnd_phase {s : State} {a i : Nat} {q : SvcReq} (result : Nat) (data : List Byte)
    (hreq : (slot s i).req = some q) (origin : q.origin = .phase a) : svcEnd s i result data =
      ringMod (setSlot s i {}) fun r => { r with done := r.done ++ [⟨.phase a, q.target, q.code, result, data⟩] } := by
  simp only [svcEnd, hreq, origin]

/-- The only ended exchange, of a PHASE_RESTORE, is answered and taken away. -/
theorem phaseAnswers_only {s : State} {a target code result : Nat} {data : List Byte}
    (h : s.ring.done = [⟨.phase a, target, code, result, data⟩]) :
    phaseAnswers s = phaseAnswer (ringMod s fun r => { r with done := [] }) a result data := by
  simp [phaseAnswers, h]

/-- A response to PHASE_RESTORE, with no other ended exchange, frees the slot of its exchange and is answered. -/
theorem phaseResponse_eq {s : State} {a i : Nat} {q : SvcReq} (result : Nat) (data : List Byte) (hi : i < 16)
    (hreq : (slot s i).req = some q) (origin : q.origin = .phase a) (sent : (slot s i).sent = true)
    (first : ∀ j p, j < i → (slot s j).req = some p → p.origin ≠ .phase a) (done : s.ring.done = []) :
    phaseResponse s a result data = phaseAnswer (setSlot s i {}) a result data := by
  have hdone : (setSlot s i {}).ring.done = [] := done
  rw [phaseResponse_first result data hi hreq origin sent first, svcEnd_phase result data hreq origin,
    phaseAnswers_only (by rw [ringMod, hdone]; rfl)]
  simp only [ringMod, ← hdone]

/-- The service slots are part of the ring state. -/
theorem slot_congr {s t : State} (h : t.ring = s.ring) (i : Nat) : slot t i = slot s i := by rw [slot, slot, h]

/-- A slot reads what was put into it. -/
theorem slot_setSlot (s : State) (i : Nat) (x : SvcSlot) : slot (setSlot s i x) i = x := tget_tput_same _ _ _ _

/-- A phase that was not restored leaves its axis unreferenced. -/
theorem phaseAnswer_failed (s : State) (a : Nat) {result : Nat} (data : List Byte) (h : result ≠ 0) :
    (axis (phaseAnswer s a result data) a).referenced = false ∧ (phaseAnswer s a result data).ring = s.ring := by
  simp [phaseAnswer, h, axMod, axis, setAxis]

/-! ### Homing sequences (R495) -/

/-- A step whose timeout has passed ends its sequence and asks for a quick stop. -/
theorem homingTimeout_due {s : State} {a k : Nat} {h : Homing} {b : List Byte}
    (running : s.sec.running.find? (fun e => e.1 == a) = some (k, h))
    (step : homingStep (tget (fun _ => []) s.sec.homing a) h.step = some b) (issued : h.issued = true)
    (due : h.since + field b 20 4 * 1000000 ≤ s.raw) :
    homingTimeout s a = request (setHoming s a none) (.quick a) := by
  have hpast : field b 20 4 * 1000000 ≤ s.raw - h.since := by omega
  simp [homingTimeout, running, step, issued, hpast]

/-! ### The obligation, command by command -/

/-- PARAM_COMMIT stands pending for its axis. -/
theorem completes_paramCommit {s : State} {port : Port} {ax : Byte} {now : Bool}
    (h : Reaches s port Reg.PROF_BASTE_COMMIT (commitWord ax now)) : Completes (.paramCommit port ax now) s fun t =>
      t.prof = { s.prof with commit := some (ax.toNat, now) } ∧ fbit t Reg.PROF_BASTE_STATUS 0 = true ∧
        fld t Reg.PROF_BASTE_STATUS 15 8 = ax.toNat ∧ ∀ a, a ≠ Reg.PROF_BASTE_STATUS → rd t a = rd s a := by
  refine completes_port (f := fun s => hostWrite s port Reg.PROF_BASTE_COMMIT (commitWord ax now)) rfl ?_
  obtain ⟨hbusy, haxis, hrest⟩ := paramPending_shows s now ax.isLt
  simp only [hostWrite_paramCommit h, landParamCommit_commit]
  exact ⟨rfl, hbusy, haxis, hrest⟩

/-- PARAM_LOAD stages the active set of its axis. -/
theorem completes_paramLoad {s : State} {port : Port} {ax : Byte} (h : Reaches s port Reg.PROF_BASTE_COMMIT (loadWord ax)) :
    Completes (.paramLoad port ax) s fun t =>
      (∀ i, i < 16 → rd t (Reg.PROF_BASTE_VMAX + 4 * i) = actv s (Reg.PROF_AX_PARAM ax.toNat i)) ∧
        fld t Reg.PROF_BASTE_STATUS 3 1 = 5 ∧ t.prof = s.prof := by
  refine completes_port (f := fun s => hostWrite s port Reg.PROF_BASTE_COMMIT (loadWord ax)) rfl ?_
  have hstaged (i : Nat) (hi : i < 16) := rd_stageParams s ax.toNat hi
  obtain ⟨-, hprof⟩ := stageParams_keeps s ax.toNat 16
  simp only [hostWrite_paramCommit h, landParamCommit_load]
  generalize stageParams s ax.toNat 16 = t at hstaged hprof
  obtain ⟨hresult, hrest⟩ := paramDone_shows t ax.toNat (result := 5) (by decide)
  exact ⟨fun i hi => (hrest _ (staged_ne_status i)).trans (hstaged i hi), hresult, hprof⟩

/-- A response that reports a failed phase ends the exchange and leaves the axis unreferenced. -/
theorem completes_phaseRestoreResponse {s : State} (h : Awake s) {ax result : Byte} {data : List Byte} {i : Nat} {q : SvcReq}
    (hi : i < 16) (hreq : (slot s i).req = some q) (origin : q.origin = .phase ax.toNat) (sent : (slot s i).sent = true)
    (first : ∀ j p, j < i → (slot s j).req = some p → p.origin ≠ .phase ax.toNat) (done : s.ring.done = [])
    (failed : result ≠ 0) : Completes (.phaseRestoreResponse ax result data) s fun t =>
      slot t i = {} ∧ t.ring.done = [] ∧ (Machine.axis t ax.toNat).referenced = false := by
  have hfailed : result.toNat ≠ 0 := fun e => failed (BitVec.eq_of_toNat_eq e)
  obtain ⟨haxis, hring⟩ := phaseAnswer_failed (setSlot s i {}) ax.toNat data hfailed
  refine completes_quiet (f := fun s => phaseResponse s ax.toNat result.toNat data) rfl h ?_
  simp only [phaseResponse_eq _ _ hi hreq origin sent first done]
  exact ⟨(slot_congr hring i).trans (slot_setSlot s i {}), (congrArg (·.done) hring).trans done, haxis⟩

/-- A step of a homing sequence that times out ends it with a quick stop. -/
theorem completes_homingStepTimeout {s : State} (h : Awake s) {a : Byte} {k : Nat} {x : Homing} {b : List Byte}
    (running : s.sec.running.find? (fun e => e.1 == a.toNat) = some (k, x))
    (step : homingStep (tget (fun _ => []) s.sec.homing a.toNat) x.step = some b) (issued : x.issued = true)
    (due : x.since + field b 20 4 * 1000000 ≤ s.raw) : Completes (.homingStepTimeout a) s fun t =>
      t.prof = { s.prof with requests := s.prof.requests ++ [.quick a.toNat] } ∧
        t.sec.running = s.sec.running.filter fun e => e.1 != a.toNat := by
  refine completes_quiet (f := fun s => homingTimeout s a.toNat) rfl h ?_
  simp only [homingTimeout_due running step issued due]
  exact ⟨rfl, rfl⟩

/-- Settles O19, command by command. -/
theorem profileCommandsComplete : Obligations.ProfileCommandsComplete := by
  unfold Obligations.ProfileCommandsComplete
  intro s h
  exact ⟨fun _ _ _ => completes_paramCommit,
    fun _ _ => completes_paramLoad,
    fun _ _ _ _ _ => completes_phaseRestoreResponse h,
    fun _ _ _ _ => completes_homingStepTimeout h⟩

end Sys2Proof.Machine

/-! ## The loop engine: its commands complete (R198-R233) -/

namespace Sys2Proof.Machine

/-! ### How a command of the loop engine is answered -/

/-- A quiet command by a port completes where its effect, but for the queue, the memories and the raw counter, meets what is asked. -/
theorem completes_port_eq {c : Instr} {f : State → State} {s t : State} {P : State → Prop} (e : exec c s = runQuiet f s)
    (hf : f s = t) (p : P { t with pending := s.pending, mem := s.mem, raw := s.raw }) : Completes c s P :=
  completes_port e (by rw [hf]; exact p)

/-- The same of a quiet command of a head that is awake. -/
theorem completes_quiet_eq {c : Instr} {f : State → State} {s t : State} {P : State → Prop} (e : exec c s = runQuiet (awake f) s)
    (h : Awake s) (hf : f s = t) (p : P { t with pending := s.pending, mem := s.mem, raw := s.raw }) : Completes c s P :=
  completes_quiet e h (by rw [hf]; exact p)

@[simp] theorem fld_okBus (s : State) (data : Word) (a hi lo : Nat) : fld (okBus s data) a hi lo = fld s a hi lo := rfl

/-! ### Writes that land in LOOP -/

/-- A write that reaches a register of LOOP outside its fault group takes effect in LOOP. -/
theorem hostWrite_loop {s : State} {port : Port} {a : Nat} {v : Word} {r : RegRow} {i j : Nat} (h : Reaches s port a v)
    (hr : regAt a = some (r, i, j)) (hoff : r.off < 0xF000 ∨ 0xF0C0 ≤ r.off)
    (ha : blockOf a = LOOP ∧ 0x20000000 ≤ a ∧ a < 0x21000000 ∧ a % 4 = 0) : hostWrite s port a v = landLoop s a r i j v := by
  obtain ⟨hb, hplace⟩ := ha
  have hgroup : ¬ (0xF000 ≤ r.off && r.off < 0xF0C0) = true := by simp; omega
  rw [write_reach h hr hplace (by rw [hb]; decide), hb]
  unfold landReg
  exact if_neg hgroup

/-- The indices that a row of two dimensions gives for the offset of one of its registers. -/
theorem RegRow.index?_offset {r : RegRow} {i j : Nat} (hi : i < r.n1) (hj : j < r.n2) (hs2 : 0 < r.s2) (hs1 : r.s2 * j < r.s1) :
    r.index? (r.off + r.s1 * i + r.s2 * j) = some (i, j) := by
  have hrel : r.off + r.s1 * i + r.s2 * j - r.off = r.s1 * i + r.s2 * j := by omega
  have hquot : (r.s1 * i + r.s2 * j) / r.s1 = i := by
    rw [Nat.mul_add_div (by omega), Nat.div_eq_of_lt hs1, Nat.add_zero]
  unfold RegRow.index?
  rw [if_neg (by omega)]
  simp only [hrel, hquot, beq_iff_eq, Nat.add_sub_cancel_left, Nat.mul_div_cancel_left j hs2,
    show ¬ r.s1 = 0 by omega, show ¬ r.s2 = 0 by omega, if_false]
  simp [hi, hj]

/-- Where the words of the coefficient windows stand (R235). -/
theorem regAt_axCoef {a w : Nat} (ha : a < 256) (hw : w < 128) : regAt (Reg.LOOP_AX_COEF a w) =
    some (⟨0x10000, 0x200, 256, 0x4, 128, .rw, 0x00000000, 0x0, 0xFFFFFFFF⟩, a, w) := by
  have hoff : Reg.LOOP_AX_COEF a w % 0x100000 = 0x10000 + 0x200 * a + 0x4 * w := by unfold Reg.LOOP_AX_COEF; omega
  have hblk : (Reg.LOOP_AX_COEF a w - 0x20000000) / 0x100000 = 4 := by unfold Reg.LOOP_AX_COEF; omega
  unfold regAt
  rw [if_neg (by unfold Reg.LOOP_AX_COEF; simp; omega)]
  simp only [hoff, hblk]
  rw [if_neg (by simp; omega)]
  simp only [rowsOf, rowsLoop]
  iterate 20 rw [findRow_skip (by simp <;> omega) (by simp) (by simp)]
  have hindex := RegRow.index?_offset (r := ⟨0x10000, 0x200, 256, 0x4, 128, .rw, 0x00000000, 0x0, 0xFFFFFFFF⟩) ha hw (by decide)
    (by simp only; omega)
  unfold findRow
  simp only [hindex]

section writes
variable {s : State} {port : Port} {v : Word}

theorem hostWrite_coefCommit (h : Reaches s port Reg.LOOP_BASTE_COMMIT v) :
    hostWrite s port Reg.LOOP_BASTE_COMMIT v = landCoefCommit s v :=
  hostWrite_loop h (r := ⟨0x4, 0x0, 1, 0x0, 1, .wo, 0x00000000, 0x0, 0x000003FF⟩) (i := 0) (j := 0) rfl (by decide) (by decide)

theorem hostWrite_bankSwap (h : Reaches s port Reg.LOOP_BANK_SWAP v) :
    hostWrite s port Reg.LOOP_BANK_SWAP v = landBankSwap s v :=
  hostWrite_loop h (r := ⟨0xC, 0x0, 1, 0x0, 1, .wo, 0x00000000, 0x0, 0x000003FF⟩) (i := 0) (j := 0) rfl (by decide) (by decide)

theorem hostWrite_injCtrl {i : Fin 4} (h : Reaches s port (Reg.LOOP_INJ_CTRL i.val) v) :
    hostWrite s port (Reg.LOOP_INJ_CTRL i.val) v = landInjCtrl s i.val v :=
  have hrow : ∀ k : Fin 4, regAt (Reg.LOOP_INJ_CTRL k.val) =
      some (⟨0x11C, 0x40, 4, 0x0, 1, .w1p, 0x00000000, 0x0, 0x00000003⟩, k.val, 0) := by decide
  have hplace : ∀ k : Fin 4, blockOf (Reg.LOOP_INJ_CTRL k.val) = LOOP ∧ 0x20000000 ≤ Reg.LOOP_INJ_CTRL k.val ∧
      Reg.LOOP_INJ_CTRL k.val < 0x21000000 ∧ Reg.LOOP_INJ_CTRL k.val % 4 = 0 := by decide
  hostWrite_loop h (hrow i) (by decide) (hplace i)

theorem hostWrite_axCoef {a w : Nat} (ha : a < 256) (hw : w < 128) (h : Reaches s port (Reg.LOOP_AX_COEF a w) v) :
    hostWrite s port (Reg.LOOP_AX_COEF a w) v = landCoef s a w v :=
  hostWrite_loop h (regAt_axCoef ha hw) (by decide) (by unfold Reg.LOOP_AX_COEF blockOf LOOP; omega)

end writes

/-! ### Coefficient records -/

/-- The two banks, and which of them each axis uses, are the same in s and t. -/
structure SameRecords (s t : State) : Prop where
  mode : rd t Reg.SYS_AXIS_CFG = rd s Reg.SYS_AXIS_CFG
  active : t.loop.active1 = s.loop.active1
  bank0 : t.loop.bank0 = s.loop.bank0
  bank1 : t.loop.bank1 = s.loop.bank1

namespace SameRecords
variable {s t u : State}

theorem trans (h : SameRecords s t) (k : SameRecords t u) : SameRecords s u :=
  ⟨k.mode.trans h.mode, k.active.trans h.active, k.bank0.trans h.bank0, k.bank1.trans h.bank1⟩

theorem doubleBank (h : SameRecords s t) : doubleBank t = doubleBank s := congrArg (wbit · 9) h.mode

theorem activeBank (h : SameRecords s t) (a : Nat) : activeBank t a = activeBank s a := by
  rw [Machine.activeBank, Machine.activeBank, h.doubleBank, h.active]

theorem bankWord (h : SameRecords s t) (one : Bool) (a i : Nat) : bankWord t one a i = bankWord s one a i := by
  rw [Machine.bankWord, Machine.bankWord, h.bank0, h.bank1]

theorem coef (h : SameRecords s t) (a i : Nat) : coef t a i = coef s a i := by
  rw [Machine.coef, Machine.coef, h.activeBank, h.bankWord]

end SameRecords

/-- A store into a bank changes that word of that bank. -/
theorem bankWord_setBank (s : State) (one two : Bool) (a i b j : Nat) (v : Word) : bankWord (setBank s one a i v) two b j =
    if two = one ∧ 128 * b + j = 128 * a + i then v else bankWord s two b j := by
  cases one <;> cases two <;> simp [bankWord, setBank, tget_tput]

/-- The first n words of the record of an axis stored into a bank. -/
def storeRecord (s : State) (one : Bool) (a n : Nat) (w : Nat → Word) : State :=
  (List.range n).foldl (fun t i => setBank t one a i (w i)) s

theorem storeRecord_succ (s : State) (one : Bool) (a n : Nat) (w : Nat → Word) :
    storeRecord s one a (n + 1) w = setBank (storeRecord s one a n w) one a n (w n) := by
  rw [storeRecord, List.range_succ, List.foldl_append]
  rfl

/-- A store into a bank leaves which bank each axis uses. -/
theorem activeBank_setBank (s : State) (one : Bool) (a i : Nat) (v : Word) (b : Nat) :
    activeBank (setBank s one a i v) b = activeBank s b := by
  cases one <;> rfl

theorem activeBank_storeRecord (s : State) (one : Bool) (a n : Nat) (w : Nat → Word) (b : Nat) :
    activeBank (storeRecord s one a n w) b = activeBank s b := by
  induction n with
  | zero => rfl
  | succ n ih => rw [storeRecord_succ, activeBank_setBank, ih]

/-- The bank holds the record that was stored into it. -/
theorem bankWord_storeRecord (s : State) (one : Bool) (a : Nat) (w : Nat → Word) {n i : Nat} (h : i < n) :
    bankWord (storeRecord s one a n w) one a i = w i := by
  induction n with
  | zero => omega
  | succ n ih =>
    rw [storeRecord_succ, bankWord_setBank]
    by_cases hi : i = n
    · rw [if_pos ⟨rfl, by rw [hi]⟩, hi]
    · rw [if_neg (by omega), ih (by omega)]

/-- The other bank holds what it held. -/
theorem bankWord_storeRecord_ne (s : State) {one two : Bool} (a n : Nat) (w : Nat → Word) (b j : Nat) (h : two ≠ one) :
    bankWord (storeRecord s one a n w) two b j = bankWord s two b j := by
  induction n with
  | zero => rfl
  | succ n ih => rw [storeRecord_succ, bankWord_setBank, if_neg fun e => h e.1, ih]

/-- Words written one after the other into the active bank of an axis. -/
theorem foldl_setBank_active (s : State) (a n : Nat) (w : Nat → Word) :
    (List.range n).foldl (fun t i => setBank t (activeBank t a) a i (w i)) s = storeRecord s (activeBank s a) a n w := by
  induction n with
  | zero => rfl
  | succ n ih =>
    rw [List.range_succ, List.foldl_append, ih, storeRecord_succ, List.foldl_cons, List.foldl_nil, activeBank_storeRecord]

/-- Words copied one after the other from a bank into the other. -/
theorem foldl_setBank_copy (s : State) (one : Bool) (a n : Nat) :
    (List.range n).foldl (fun t i => setBank t (!one) a i (bankWord t one a i)) s =
      storeRecord s (!one) a n (bankWord s one a) := by
  induction n with
  | zero => rfl
  | succ n ih =>
    rw [List.range_succ, List.foldl_append, ih, storeRecord_succ, List.foldl_cons, List.foldl_nil,
      bankWord_storeRecord_ne _ _ _ _ _ _ (by cases one <;> decide)]

/-! ### Operations of a lane (R224, R226) -/

theorem laneOp_setLaneOp (s : State) (l : Nat) (o : Option LaneOp) : laneOp (setLaneOp s l o) l = o := tget_tput_same _ _ _ _

/-- What stands pending on a lane is in no register. -/
@[simp] theorem rd_setLaneOp (s : State) (l : Nat) (o : Option LaneOp) (a : Nat) : rd (setLaneOp s l o) a = rd s a := rfl

/-- The state in which an operation of a lane shows as done, with its result and axis. -/
def opShown (s : State) (reg l a result : Nat) : State :=
  setF (setBit (setF s reg 18 16 result) reg l false) reg 31 24 a

theorem lopDone_eq (s : State) (reg l a result : Nat) : lopDone s reg l a result = setLaneOp (opShown s reg l a result) l none := by
  rw [lopDone, opShown]

theorem opShown_loop (s : State) (reg l a result : Nat) : (opShown s reg l a result).loop = s.loop := by
  rw [opShown, setF_loop, setBit_loop, setF_loop]

theorem rd_lopDone_ne (s : State) {reg b : Nat} (l a result : Nat) (h : b ≠ reg) : rd (lopDone s reg l a result) b = rd s b := by
  rw [lopDone_eq, rd_setLaneOp, opShown, rd_setF_ne _ _ _ _ h, rd_setBit_ne _ _ _ h, rd_setF_ne _ _ _ _ h]

/-- An operation that ends leaves its lane free and shows its result and axis. -/
theorem lopDone_shows (s : State) (reg : Nat) {l : Nat} (a : Nat) {result : Nat} (hl : l < 16) (hr : result < 8) :
    laneOp (lopDone s reg l a result) l = none ∧ fld (lopDone s reg l a result) reg 18 16 = result ∧
      fld (lopDone s reg l a result) reg 31 24 = a % 256 := by
  rw [lopDone_eq]
  refine ⟨laneOp_setLaneOp _ l none, ?_, ?_⟩ <;> rw [fld, rd_setLaneOp, ← fld, opShown]
  · rw [fld_setF_ne _ _ _ _ _ _ _ (by decide) (by decide) (by decide), fld_setBit_ne _ _ _ _ _ _ (by omega) (by omega),
      fld_setF _ _ _ _ _ (by decide) (by decide)]
    exact Nat.mod_eq_of_lt hr
  · exact fld_setF _ _ _ _ _ (by decide) (by decide)

/-- Ending an operation changes no record. -/
theorem sameRecords_lopDone (s : State) {reg : Nat} (l a result : Nat) (h : Reg.SYS_AXIS_CFG ≠ reg) :
    SameRecords s (lopDone s reg l a result) := by
  refine ⟨rd_lopDone_ne s l a result h, ?_, ?_, ?_⟩ <;> rw [lopDone_eq, setLaneOp, opShown_loop]

/-- The word of a commit names its axis and whether it clears the states, and is no load. -/
theorem coefCommitWord_fields (ax : Byte) (clear : Bool) : wbits (word (ax.toNat + flag clear * 512)) 7 0 = ax.toNat ∧
    wbit (word (ax.toNat + flag clear * 512)) 8 = false ∧ wbit (word (ax.toNat + flag clear * 512)) 9 = clear := by
  have hax := ax.isLt
  have hflag : flag clear < 2 := by cases clear <;> decide
  have hbit : (flag clear == 1) = clear := by cases clear <;> rfl
  have hword : ax.toNat + flag clear * 512 < 2 ^ 32 := by omega
  rw [wbit_eq_wbits, wbit_eq_wbits, wbits_word hword, wbits_word hword, wbits_word hword]
  refine ⟨by omega, beq_eq_false_iff_ne.mpr (by omega), ?_⟩
  exact (congrArg (· == 1) (by omega)).trans hbit

/-- The word of a swap and that of a load, which is the swap's with copy_back: the axis, bit 8, and bit 9 clear. -/
theorem bankSwapWord_fields (ax : Byte) (cb : Bool) : wbits (word (ax.toNat + flag cb * 256)) 7 0 = ax.toNat ∧
    wbit (word (ax.toNat + flag cb * 256)) 8 = cb ∧ wbit (word (ax.toNat + flag cb * 256)) 9 = false :=
  commitWord_fields ax cb

/-- A commit of a free lane stands pending. -/
theorem landCoefCommit_commit {s : State} {ax : Byte} (clear : Bool) (free : laneOp s (ax.toNat % 16) = none)
    (cfg : configured s ax.toNat = true) : landCoefCommit s (word (ax.toNat + flag clear * 512)) =
      okBus (setBit (setLaneOp s (ax.toNat % 16) (some ⟨0, ax.toNat, clear, false⟩)) Reg.LOOP_BASTE_STATUS (ax.toNat % 16) true) := by
  obtain ⟨haxis, hload, hclear⟩ := coefCommitWord_fields ax clear
  simp [landCoefCommit, haxis, hload, hclear, free, cfg]

/-- The first n words of the active record of an axis copied into the baste record of a lane. -/
def stageRecord (s : State) (l a n : Nat) : State :=
  (List.range n).foldl (fun t i => wr t (Reg.LOOP_LANE_BASTE l i) (coef t a i)) s

theorem stageRecord_succ (s : State) (l a n : Nat) : stageRecord s l a (n + 1) =
    wr (stageRecord s l a n) (Reg.LOOP_LANE_BASTE l n) (coef (stageRecord s l a n) a n) := by
  rw [stageRecord, List.range_succ, List.foldl_append]
  rfl

/-- A load of a free lane copies the active record of its axis. -/
theorem landCoefCommit_load {s : State} {ax : Byte} (free : laneOp s (ax.toNat % 16) = none)
    (cfg : configured s ax.toNat = true) : landCoefCommit s (word (ax.toNat + 256)) =
      okBus (lopDone (stageRecord s (ax.toNat % 16) ax.toNat 128) Reg.LOOP_BASTE_STATUS (ax.toNat % 16) ax.toNat 5) := by
  obtain ⟨haxis, hload, -⟩ := bankSwapWord_fields ax true
  rw [show flag true * 256 = 256 from rfl] at haxis hload
  simp [landCoefCommit, haxis, hload, free, cfg, stageRecord]

/-- No word of a lane's baste record is the axis configuration or the status of the commits. -/
theorem laneBaste_ne (l i : Nat) : Reg.SYS_AXIS_CFG ≠ Reg.LOOP_LANE_BASTE l i ∧
    Reg.LOOP_LANE_BASTE l i ≠ Reg.LOOP_BASTE_STATUS := by
  rw [Reg.SYS_AXIS_CFG, Reg.LOOP_LANE_BASTE, Reg.LOOP_BASTE_STATUS]
  omega

/-- Staging a record changes no record of a bank. -/
theorem sameRecords_stageRecord (s : State) (l a n : Nat) : SameRecords s (stageRecord s l a n) := by
  induction n with
  | zero => exact ⟨rfl, rfl, rfl, rfl⟩
  | succ n ih =>
    rw [stageRecord_succ]
    exact ih.trans ⟨rd_wr_ne _ _ (laneBaste_ne l n).1, rfl, rfl, rfl⟩

/-- Each word staged reads as the active one. -/
theorem rd_stageRecord (s : State) (l a : Nat) {n i : Nat} (h : i < n) :
    rd (stageRecord s l a n) (Reg.LOOP_LANE_BASTE l i) = coef s a i := by
  induction n with
  | zero => omega
  | succ n ih =>
    rw [stageRecord_succ, (sameRecords_stageRecord s l a n).coef, rd_wr]
    by_cases hi : i = n
    · rw [hi, if_pos rfl]
    · rw [if_neg (by simp only [Reg.LOOP_LANE_BASTE]; omega), ih (by omega)]

/-- A swap of a free lane stands pending, in double-bank mode. -/
theorem landBankSwap_pending {s : State} {ax : Byte} (cb : Bool) (double : doubleBank s = true)
    (free : laneOp s (ax.toNat % 16) = none) (cfg : configured s ax.toNat = true) :
    landBankSwap s (word (ax.toNat + flag cb * 256)) =
      okBus (setBit (setLaneOp s (ax.toNat % 16) (some ⟨2, ax.toNat, false, cb⟩)) Reg.LOOP_BANK_STATUS (ax.toNat % 16) true) := by
  obtain ⟨haxis, hcopy, hclear⟩ := bankSwapWord_fields ax cb
  simp [landBankSwap, haxis, hcopy, hclear, double, free, cfg]

/-- An operation that stands pending shows in its status, which is the only register it changes. -/
theorem laneOp_pending_shows (s : State) (reg : Nat) {l : Nat} (o : LaneOp) (h : l < 16) :
    laneOp (setBit (setLaneOp s l (some o)) reg l true) l = some o ∧ fbit (setBit (setLaneOp s l (some o)) reg l true) reg l = true ∧
      ∀ b, b ≠ reg → rd (setBit (setLaneOp s l (some o)) reg l true) b = rd s b :=
  ⟨laneOp_setLaneOp s l (some o), fbit_setBit _ _ _ _ (by omega), fun _ hb => rd_setBit_ne _ _ _ hb⟩

/-- An axis whose states are cleared, or not. -/
def clearIf (s : State) (clear : Bool) (a : Nat) : State := if clear then setLoopAx s a (loopAx s a).cleared else s

/-- Clearing the states of an axis changes no record. -/
theorem sameRecords_clearIf (s : State) (clear : Bool) (a : Nat) : SameRecords s (clearIf s clear a) := by
  cases clear <;> exact ⟨rfl, rfl, rfl, rfl⟩

/-- A commit whose record is valid copies it into the active bank of its axis. -/
theorem commitApply_valid {s : State} {l : Nat} {o : LaneOp}
    (valid : coefCheck s o.axis (fun i => rd s (Reg.LOOP_LANE_BASTE l i)) = 1) : commitApply s l o =
      lopDone (clearIf (storeRecord s (activeBank s o.axis) o.axis 128 fun i => rd s (Reg.LOOP_LANE_BASTE l i)) o.clear o.axis)
        Reg.LOOP_BASTE_STATUS l o.axis 1 := by
  unfold commitApply
  simp only [valid, bne_self_eq_false, Bool.false_eq_true, if_false, foldl_setBank_active, clearIf]

/-- The other bank of an axis taken as its active one. -/
def flipBank (s : State) (a : Nat) : State :=
  { s with loop := { s.loop with
    active1 := if !activeBank s a then a :: s.loop.active1 else s.loop.active1.filter (fun b => b != a) } }

theorem activeBank_flipBank {s : State} (a : Nat) (h : doubleBank s = true) :
    activeBank (flipBank s a) a = !activeBank s a := by
  have hmode : doubleBank (flipBank s a) = true := h
  rw [activeBank, hmode, Bool.true_and, flipBank]
  cases activeBank s a <;> simp

/-- A swap to a valid record makes the other bank active and stays pending until its copy, where it has one. -/
theorem swapApply_valid {s : State} {l : Nat} {o : LaneOp}
    (valid : coefCheck s o.axis (bankWord s (!activeBank s o.axis) o.axis) = 1) : swapApply s l o =
      if o.copyBack then setLaneOp (clearIf (flipBank s o.axis) o.clear o.axis) l (some { o with kind := 3 })
      else lopDone (clearIf (flipBank s o.axis) o.clear o.axis) Reg.LOOP_BANK_STATUS l o.axis 1 := by
  unfold swapApply
  simp only [valid, bne_self_eq_false, Bool.false_eq_true, if_false, clearIf, flipBank]

/-- The copy after a swap stores the active record into the other bank. -/
theorem copyBack_eq (s : State) (l : Nat) (o : LaneOp) : copyBack s l o =
    lopDone (storeRecord s (!activeBank s o.axis) o.axis 128 (coef s o.axis)) Reg.LOOP_BANK_STATUS l o.axis 2 := by
  unfold copyBack
  simp only [foldl_setBank_copy]
  rfl

/-! ### The commands of the records complete -/

section records
variable {s : State} {port : Port} {ax : Byte}

/-- COEF_COMMIT stands pending for its lane. -/
theorem completes_coefCommit {clear : Bool} (h : Reaches s port Reg.LOOP_BASTE_COMMIT (word (ax.toNat + flag clear * 512)))
    (free : laneOp s (ax.toNat % 16) = none) (cfg : configured s ax.toNat = true) :
    Completes (.coefCommit port ax clear) s fun t => laneOp t (ax.toNat % 16) = some ⟨0, ax.toNat, clear, false⟩ ∧
      fbit t Reg.LOOP_BASTE_STATUS (ax.toNat % 16) = true ∧ ∀ a, a ≠ Reg.LOOP_BASTE_STATUS → rd t a = rd s a := by
  refine completes_port_eq (f := fun s => hostWrite s port Reg.LOOP_BASTE_COMMIT (word (ax.toNat + flag clear * 512))) rfl
    ((hostWrite_coefCommit h).trans (landCoefCommit_commit clear free cfg)) ?_
  exact laneOp_pending_shows s Reg.LOOP_BASTE_STATUS ⟨0, ax.toNat, clear, false⟩ (Nat.mod_lt _ (by decide))

/-- COEF_LOAD stages the active record of its axis. -/
theorem completes_coefLoad (h : Reaches s port Reg.LOOP_BASTE_COMMIT (word (ax.toNat + 256)))
    (free : laneOp s (ax.toNat % 16) = none) (cfg : configured s ax.toNat = true) : Completes (.coefLoad port ax) s fun t =>
      (∀ i, i < 128 → rd t (Reg.LOOP_LANE_BASTE (ax.toNat % 16) i) = coef s ax.toNat i) ∧
        fld t Reg.LOOP_BASTE_STATUS 18 16 = 5 ∧ fld t Reg.LOOP_BASTE_STATUS 31 24 = ax.toNat := by
  refine completes_port_eq (f := fun s => hostWrite s port Reg.LOOP_BASTE_COMMIT (word (ax.toNat + 256))) rfl
    ((hostWrite_coefCommit h).trans (landCoefCommit_load free cfg)) ?_
  have hstaged (i : Nat) (hi : i < 128) := rd_stageRecord s (ax.toNat % 16) ax.toNat hi
  generalize stageRecord s (ax.toNat % 16) ax.toNat 128 = t at hstaged
  obtain ⟨-, hresult, haxis⟩ :=
    lopDone_shows t Reg.LOOP_BASTE_STATUS ax.toNat (l := ax.toNat % 16) (result := 5) (Nat.mod_lt _ (by decide)) (by decide)
  have hkept (i : Nat) := rd_lopDone_ne t (ax.toNat % 16) ax.toNat 5 (laneBaste_ne (ax.toNat % 16) i).2
  refine ⟨fun i hi => ?_, ?_, ?_⟩
  · rw [rd_frame, rd_okBus, hkept, hstaged i hi]
  · rw [fld_frame, fld_okBus, hresult]
  · rw [fld_frame, fld_okBus, haxis, Nat.mod_eq_of_lt ax.isLt]

/-- BANK_SWAP stands pending for its lane. -/
theorem completes_bankSwap {cb : Bool} (h : Reaches s port Reg.LOOP_BANK_SWAP (word (ax.toNat + flag cb * 256)))
    (double : doubleBank s = true) (free : laneOp s (ax.toNat % 16) = none) (cfg : configured s ax.toNat = true) :
    Completes (.bankSwap port ax cb) s fun t => laneOp t (ax.toNat % 16) = some ⟨2, ax.toNat, false, cb⟩ ∧
      fbit t Reg.LOOP_BANK_STATUS (ax.toNat % 16) = true := by
  refine completes_port_eq (f := fun s => hostWrite s port Reg.LOOP_BANK_SWAP (word (ax.toNat + flag cb * 256))) rfl
    ((hostWrite_bankSwap h).trans (landBankSwap_pending cb double free cfg)) ?_
  obtain ⟨hop, hstatus, -⟩ :=
    laneOp_pending_shows s Reg.LOOP_BANK_STATUS (l := ax.toNat % 16) ⟨2, ax.toNat, false, cb⟩ (Nat.mod_lt _ (by decide))
  exact ⟨hop, hstatus⟩

end records

section boundary
variable {s : State} (h : Awake s) {lane : Fin 16} {o : LaneOp} (op : laneOp s lane.val = some o)
include h op

/-- COEF_COMMIT_APPLY makes the staged record the active one. -/
theorem completes_coefCommitApply (kind : o.kind = 0)
    (valid : coefCheck s o.axis (fun i => rd s (Reg.LOOP_LANE_BASTE lane.val i)) = 1) :
    Completes (.coefCommitApply lane) s fun t =>
      (∀ i, i < 128 → coef t o.axis i = rd s (Reg.LOOP_LANE_BASTE lane.val i)) ∧ laneOp t lane.val = none ∧
        fld t Reg.LOOP_BASTE_STATUS 18 16 = 1 := by
  have happly : Machine.coefCommitApply s lane = commitApply s lane o := by
    simp only [Machine.coefCommitApply, op, kind, beq_self_eq_true, if_true]
  refine completes_quiet_eq (f := fun s => Machine.coefCommitApply s lane) rfl h (happly.trans (commitApply_valid valid)) ?_
  generalize hw : (fun i => rd s (Reg.LOOP_LANE_BASTE lane.val i)) = w
  obtain ⟨hfree, hresult, -⟩ := lopDone_shows (clearIf (storeRecord s (activeBank s o.axis) o.axis 128 w) o.clear o.axis)
    Reg.LOOP_BASTE_STATUS o.axis (result := 1) lane.isLt (by decide)
  refine ⟨fun i hi => ?_, hfree, hresult⟩
  have hrecords := (sameRecords_clearIf (storeRecord s (activeBank s o.axis) o.axis 128 w) o.clear o.axis).trans
    (sameRecords_lopDone _ lane o.axis 1 (reg := Reg.LOOP_BASTE_STATUS) (by decide))
  calc coef (lopDone _ _ lane o.axis 1) o.axis i
      = coef (storeRecord s (activeBank s o.axis) o.axis 128 w) o.axis i := hrecords.coef o.axis i
    _ = w i := by rw [coef, activeBank_storeRecord, bankWord_storeRecord _ _ _ _ hi]
    _ = rd s (Reg.LOOP_LANE_BASTE lane.val i) := by rw [← hw]

/-- BANK_SWAP_APPLY makes the other bank the active one. -/
theorem completes_bankSwapApply (kind : o.kind = 2) (double : doubleBank s = true)
    (valid : coefCheck s o.axis (bankWord s (!activeBank s o.axis) o.axis) = 1) : Completes (.bankSwapApply lane) s fun t =>
      activeBank t o.axis = !activeBank s o.axis ∧ laneOp t lane.val = if o.copyBack then some { o with kind := 3 } else none := by
  have happly : Machine.bankSwapApply s lane = swapApply s lane o := by
    simp only [Machine.bankSwapApply, op, kind, beq_self_eq_true, if_true]
  refine completes_quiet_eq (f := fun s => Machine.bankSwapApply s lane) rfl h (happly.trans (swapApply_valid valid)) ?_
  have hflip := (sameRecords_clearIf (flipBank s o.axis) o.clear o.axis).activeBank o.axis
  rw [activeBank_flipBank o.axis double] at hflip
  generalize clearIf (flipBank s o.axis) o.clear o.axis = t at hflip
  cases hcopy : o.copyBack with
  | true =>
    simp only [if_true]
    exact ⟨hflip, laneOp_setLaneOp t lane _⟩
  | false =>
    simp only [Bool.false_eq_true, if_false]
    obtain ⟨hfree, -, -⟩ := lopDone_shows t Reg.LOOP_BANK_STATUS o.axis (result := 1) lane.isLt (by decide)
    exact ⟨((sameRecords_lopDone t lane o.axis 1 (reg := Reg.LOOP_BANK_STATUS) (by decide)).activeBank o.axis).trans hflip, hfree⟩

/-- COPY_BACK_DONE leaves the active record in both banks. -/
theorem completes_copyBackDone (kind : o.kind = 3) : Completes (.copyBackDone lane) s fun t =>
      (∀ i, i < 128 → bankWord t (!activeBank s o.axis) o.axis i = coef s o.axis i) ∧ laneOp t lane.val = none ∧
        fld t Reg.LOOP_BANK_STATUS 18 16 = 2 := by
  have happly : Machine.copyBackDone s lane = copyBack s lane o := by
    simp only [Machine.copyBackDone, op, kind, beq_self_eq_true, if_true]
  refine completes_quiet_eq (f := fun s => Machine.copyBackDone s lane) rfl h (happly.trans (copyBack_eq s lane o)) ?_
  have hcopied (i : Nat) (hi : i < 128) := bankWord_storeRecord s (!activeBank s o.axis) o.axis (coef s o.axis) hi
  generalize storeRecord s (!activeBank s o.axis) o.axis 128 (coef s o.axis) = t at hcopied
  obtain ⟨hfree, hresult, -⟩ := lopDone_shows t Reg.LOOP_BANK_STATUS o.axis (result := 2) lane.isLt (by decide)
  exact ⟨fun i hi => ((sameRecords_lopDone t lane o.axis 2 (reg := Reg.LOOP_BANK_STATUS) (by decide)).bankWord _ _ i).trans
    (hcopied i hi), hfree, hresult⟩

end boundary

/-! ### Injectors (R230, R231, R233) -/

@[simp] theorem injector_setInj (s : State) (i : Nat) (x : Injector) : injector (setInj s i x) i = x := tget_tput_same _ _ _ _

/-- A start whose injector may serve its axis and whose signal is valid leaves the injector waiting, from its beginning. -/
theorem landInjCtrl_start {s : State} {i : Nat} (hi : i < 4)
    (idle : ∀ j, j < 4 → fld s (Reg.LOOP_INJ_STATUS j) 1 0 ≠ 1 ∧ fld s (Reg.LOOP_INJ_STATUS j) 1 0 ≠ 2)
    (on : enabled s (fld s (Reg.LOOP_INJ_CFG i) 7 0) = true)
    (point : injPoint (wbits (coef s (fld s (Reg.LOOP_INJ_CFG i) 7 0) 0) 2 0) (fld s (Reg.LOOP_INJ_CFG i) 9 8) = true)
    (valid : injValid s i = true) : landInjCtrl s i 1 =
      setF (setF (setInj (okBus s) i {}) (Reg.LOOP_INJ_STATUS i) 6 4 1) (Reg.LOOP_INJ_STATUS i) 1 0 1 := by
  unfold landInjCtrl
  extract_lets t reg a runs
  have hidle (j : Nat) (hj : j < 4) : runs j = false := by
    obtain ⟨h1, h2⟩ := idle j hj
    exact Bool.or_eq_false_iff.mpr ⟨beq_eq_false_iff_ne.mpr h1, beq_eq_false_iff_ne.mpr h2⟩
  have hserves : ([0, 1, 2, 3].any fun j => j != i && runs j && fld t (Reg.LOOP_INJ_CFG j) 7 0 == a) = false := by simp [hidle]
  have henabled : enabled t a = true := on
  have hpoint : injPoint (wbits (coef t a 0) 2 0) (fld t (Reg.LOOP_INJ_CFG i) 9 8) = true := point
  have hvalid : injValid t i = true := valid
  have hstart : (!wbit (1 : Word) 0 || runs i) = false := by rw [hidle i hi]; decide
  rw [if_neg (by decide), if_neg (by rw [hstart]; decide), if_neg (by rw [hserves, henabled]; decide),
    if_neg (by rw [hpoint]; decide), if_neg (by rw [hvalid]; decide)]

/-- A stop of an injector that waits or runs aborts it and reports it. -/
theorem landInjCtrl_stop {s : State} {i : Nat}
    (busy : fld s (Reg.LOOP_INJ_STATUS i) 1 0 = 1 ∨ fld s (Reg.LOOP_INJ_STATUS i) 1 0 = 2) :
    landInjCtrl s i 2 =
      event (setInj (setF (okBus s) (Reg.LOOP_INJ_STATUS i) 1 0 3) i {}) LOOP 8 (fld s (Reg.LOOP_INJ_CFG i) 7 0) i := by
  unfold landInjCtrl
  extract_lets t reg a runs
  have hruns : runs i = true := by
    rcases busy with h | h
    · exact Bool.or_eq_true_iff.mpr (.inl (beq_iff_eq.mpr h))
    · exact Bool.or_eq_true_iff.mpr (.inr (beq_iff_eq.mpr h))
  rw [if_pos (by decide), if_pos hruns]
  rfl

/-- A step that has run its cycles ends. -/
theorem injEnd_step {s : State} {i : Nat} (running : fld s (Reg.LOOP_INJ_STATUS i) 1 0 = 2)
    (signal : wbits (rd s (Reg.LOOP_INJ_CFG i)) 12 10 = 2) (past : (rd s (Reg.LOOP_INJ_LEN i)).toNat ≤ (injector s i).k) :
    injEnd s i = setInj (setF s (Reg.LOOP_INJ_STATUS i) 1 0 0) i {} := by
  simp [injEnd, running, signal, past]

section injectors
variable {s : State} {port : Port} {i : Fin 4}

/-- INJECTOR_START arms the injector. -/
theorem completes_injectorStart (h : Reaches s port (Reg.LOOP_INJ_CTRL i.val) 1)
    (idle : ∀ j, j < 4 → fld s (Reg.LOOP_INJ_STATUS j) 1 0 ≠ 1 ∧ fld s (Reg.LOOP_INJ_STATUS j) 1 0 ≠ 2)
    (on : enabled s (fld s (Reg.LOOP_INJ_CFG i.val) 7 0) = true)
    (point : injPoint (wbits (coef s (fld s (Reg.LOOP_INJ_CFG i.val) 7 0) 0) 2 0) (fld s (Reg.LOOP_INJ_CFG i.val) 9 8) = true)
    (valid : injValid s i.val = true) : Completes (.injectorStart port i) s fun t =>
      fld t (Reg.LOOP_INJ_STATUS i.val) 1 0 = 1 ∧ fld t (Reg.LOOP_INJ_STATUS i.val) 6 4 = 1 ∧ injector t i.val = {} := by
  refine completes_port_eq (f := fun s => hostWrite s port (Reg.LOOP_INJ_CTRL i.val) 1) rfl
    ((hostWrite_injCtrl h).trans (landInjCtrl_start i.isLt idle on point valid)) ?_
  simp only [fld_frame]
  refine ⟨fld_setF _ _ _ _ _ (by decide) (by decide), ?_, injector_setInj (okBus s) i.val {}⟩
  exact (fld_setF_ne _ _ _ _ _ _ _ (by decide) (by decide) (by decide)).trans (fld_setF _ _ _ _ _ (by decide) (by decide))

/-- INJECTOR_STOP aborts the injector. -/
theorem completes_injectorStop (h : Reaches s port (Reg.LOOP_INJ_CTRL i.val) 2)
    (busy : fld s (Reg.LOOP_INJ_STATUS i.val) 1 0 = 1 ∨ fld s (Reg.LOOP_INJ_STATUS i.val) 1 0 = 2) :
    Completes (.injectorStop port i) s fun t => fld t (Reg.LOOP_INJ_STATUS i.val) 1 0 = 3 ∧ injector t i.val = {} := by
  refine completes_port_eq (f := fun s => hostWrite s port (Reg.LOOP_INJ_CTRL i.val) 2) rfl
    ((hostWrite_injCtrl h).trans (landInjCtrl_stop busy)) ?_
  have hreport : ∀ k : Fin 4, reportReg (Reg.LOOP_INJ_STATUS k.val) = false := by decide
  simp only [fld_frame]
  constructor
  · rw [fld, rd_event _ _ _ _ _ (hreport i)]
    exact fld_setF (okBus s) _ _ _ _ (by decide) (by decide)
  · unfold injector
    rw [event_loop]
    exact injector_setInj _ i.val {}

/-- INJECTOR_END leaves the injector idle. -/
theorem completes_injectorEnd (awake : Awake s) (running : fld s (Reg.LOOP_INJ_STATUS i.val) 1 0 = 2)
    (signal : wbits (rd s (Reg.LOOP_INJ_CFG i.val)) 12 10 = 2)
    (past : (rd s (Reg.LOOP_INJ_LEN i.val)).toNat ≤ (injector s i.val).k) : Completes (.injectorEnd i) s fun t =>
      fld t (Reg.LOOP_INJ_STATUS i.val) 1 0 = 0 ∧ injector t i.val = {} := by
  refine completes_quiet_eq (f := fun s => injEnd s i) rfl awake (injEnd_step running signal past) ?_
  exact ⟨fld_setF s _ _ _ _ (by decide) (by decide), injector_setInj _ i.val {}⟩

end injectors

/-! ### What the reports of a sample leave -/

/-- From s to t the ring, the active copies, the records and what the lanes keep of the axes are the same. -/
structure SampleKeeps (s t : State) : Prop where
  ring : t.ring = s.ring
  act : t.act = s.act
  axes : t.loop.axes = s.loop.axes
  results : t.loop.results = s.loop.results
  records : SameRecords s t

namespace SampleKeeps
variable {s t u : State}

theorem refl (s : State) : SampleKeeps s s := ⟨rfl, rfl, rfl, rfl, rfl, rfl, rfl, rfl⟩

theorem trans (h : SampleKeeps s t) (k : SampleKeeps t u) : SampleKeeps s u :=
  ⟨k.ring.trans h.ring, k.act.trans h.act, k.axes.trans h.axes, k.results.trans h.results, h.records.trans k.records⟩

theorem ite {c : Prop} [Decidable c] (h : SampleKeeps s t) (k : SampleKeeps s u) : SampleKeeps s (if c then t else u) := by
  split
  · exact h
  · exact k

theorem of_reports (h : OnlyReports s t) : SampleKeeps s t :=
  ⟨h.ring, h.act, by rw [h.loop], by rw [h.loop],
    h.regs _ (by decide), by rw [h.loop], by rw [h.loop], by rw [h.loop]⟩

theorem wr {a : Nat} (h : SampleKeeps s t) (v : Word) (ha : Reg.SYS_AXIS_CFG ≠ a := by decide) : SampleKeeps s (wr t a v) :=
  h.trans ⟨rfl, rfl, rfl, rfl, rd_wr_ne _ _ ha, rfl, rfl, rfl⟩

theorem bump {a : Nat} (h : SampleKeeps s t) (ha : Reg.SYS_AXIS_CFG ≠ a := by decide) : SampleKeeps s (bump t a) := h.wr _ ha

theorem event (h : SampleKeeps s t) (b e o d : Nat) : SampleKeeps s (event t b e o d) := h.trans (of_reports (only_event t b e o d))

theorem request (h : SampleKeeps s t) (r : StopReq) : SampleKeeps s (request t r) := h.trans (of_reports (only_request t r))

/-- The injectors are no part of what a sample keeps. -/
theorem inj (h : SampleKeeps s t) (x : Table Injector) : SampleKeeps s { t with loop := { t.loop with inj := x } } :=
  ⟨h.ring, h.act, h.axes, h.results, h.records.mode, h.records.active, h.records.bank0, h.records.bank1⟩

/-- Nor is the count of the samples. -/
theorem count (h : SampleKeeps s t) (n : Nat) : SampleKeeps s { t with loop := { t.loop with count := n } } :=
  ⟨h.ring, h.act, h.axes, h.results, h.records.mode, h.records.active, h.records.bank0, h.records.bank1⟩

theorem injAbort (h : SampleKeeps s t) (a : Nat) : SampleKeeps s (injAbort t a) := by
  refine List.foldlRecOn (motive := SampleKeeps s) _ _ h fun u hu i hi => ?_
  have hreg : Reg.SYS_AXIS_CFG ≠ Reg.LOOP_INJ_STATUS i := by rw [Reg.SYS_AXIS_CFG, Reg.LOOP_INJ_STATUS]; omega
  exact SampleKeeps.ite (((hu.wr _ hreg).inj _).event ..) hu

theorem expiry (h : SampleKeeps s t) (a n : Nat) : SampleKeeps s (expiry t a n) := by
  unfold Machine.expiry
  split
  · exact h
  · extract_lets u on v m
    have hu : SampleKeeps s u := h.bump
    have hv : SampleKeeps s v := SampleKeeps.ite (SampleKeeps.ite ((hu.event ..).request _) (hu.event ..)) hu
    exact SampleKeeps.ite (hv.request _) hv

theorem tripCheck (h : SampleKeeps s t) (a ev cnt react : Nat) (was now : Bool) (hc : Reg.SYS_AXIS_CFG ≠ cnt := by decide) :
    SampleKeeps s (tripCheck t a ev cnt react was now).1 := by
  unfold Machine.tripCheck
  extract_lets on u
  have hu : SampleKeeps s u := ((h.event ..).bump hc).injAbort a
  split
  · exact h
  split
  · exact h
  split
  · exact hu
  split
  · exact hu.request _
  split
  · exact hu.request _
  · exact hu

theorem loopAx (h : SampleKeeps s t) (a : Nat) : loopAx t a = loopAx s a := by rw [Machine.loopAx, Machine.loopAx, h.axes]

theorem isStepper (h : SampleKeeps s t) (a : Nat) : isStepper t a = isStepper s a := by
  rw [Machine.isStepper, Machine.isStepper, par, par, actv, actv, h.act]

end SampleKeeps

@[simp] theorem loopAx_setLoopAx (s : State) (a : Nat) (x : LoopAxis) : loopAx (setLoopAx s a x) a = x := tget_tput_same _ _ _ _

/-! ### What an axis's output record shows (R206, R211, R218) -/

/-- The control word's age and mode. -/
theorem control_fields (age : Nat) (on : Bool) (mode scale : Nat) (ha : age < 8) (hm : mode < 8) :
    bits (control age on mode scale).toNat 2 0 = age ∧ bits (control age on mode scale).toNat 6 4 = mode := by
  have hon : flag on < 2 := by cases on <;> decide
  simp only [control, bits, BitVec.toNat_ofNat]
  omega

/-- The spare time is kept in its register alone. -/
theorem sampleKeeps_margin (s : State) (late : Bool) : SampleKeeps s (margin s late) := by
  unfold margin
  extract_lets due m
  exact .ite (.refl s) (.ite ((SampleKeeps.refl s).wr _) (.refl s))

/-- From s to t the record of an axis came into the outbound image, with the torque that a task posted for it before in place of
its own (R276), and the queues of the lanes, what they keep of the axes and the results of tasks stayed. -/
structure Recorded (s t : State) (a : Nat) (r : OutRec) : Prop where
  image : (tget (fun _ => {}) t.ring.image a : OutRec) =
    { r with torque := (tget (fun _ => none) s.ring.replace a : Option Half).getD r.torque }
  fresh : t.ring.fresh.contains a = true
  waiting : t.ring.waiting = s.ring.waiting
  axes : t.loop.axes = s.loop.axes
  results : t.loop.results = s.loop.results

theorem recorded_writeRec (s : State) (a : Nat) (r : OutRec) : Recorded s (writeRec s a r false) a r := by
  have hkeeps := sampleKeeps_margin s false
  unfold writeRec
  generalize margin s false = u at hkeeps
  rw [if_neg Bool.false_ne_true]
  refine ⟨?_, ?_, congrArg (·.waiting) hkeeps.ring, hkeeps.axes, hkeeps.results⟩
  · simp [ringMod, hkeeps.ring]
  · simp only [ringMod]
    split
    · assumption
    · simp

/-- The record of an output stage: position and slope as they were, and a control word of age 0, or that of an invalid output. -/
structure Staged (s t : State) (a : Nat) (r : OutRec) : Prop where
  pos : (tget (fun _ => {}) t.ring.image a : OutRec).pos = r.pos
  slope : (tget (fun _ => {}) t.ring.image a : OutRec).slope = r.slope
  control : bits (tget (fun _ => {}) t.ring.image a : OutRec).control.toNat 2 0 = 0 ∨
    (tget (fun _ => {}) t.ring.image a : OutRec).control = control 7 false (bits r.control.toNat 6 4) 0
  fresh : t.ring.fresh.contains a = true
  waiting : t.ring.waiting = s.ring.waiting
  hem : (loopAx t a).hem = (loopAx s a).hem
  results : t.loop.results = s.loop.results

/-- A record written after the reports of a sample, with what the lane keeps of its axis, is that of an output stage. -/
theorem staged_writeRec {s t : State} (h : SampleKeeps s t) (a : Nat) (r : OutRec) (x : LoopAxis) (torque c : Half)
    (hem : x.hem = (loopAx s a).hem) (hc : bits c.toNat 2 0 = 0 ∨ c = control 7 false (bits r.control.toNat 6 4) 0) :
    Staged s (writeRec (setLoopAx t a x) a { r with torque := torque, control := c } false) a r := by
  obtain ⟨image, fresh, waiting, axes, results⟩ := recorded_writeRec (setLoopAx t a x) a { r with torque := torque, control := c }
  refine ⟨by rw [image], by rw [image], by rw [image]; exact hc, fresh, ?_, ?_, results.trans h.results⟩
  · exact waiting.trans (congrArg (·.waiting) h.ring)
  · rw [loopAx, axes, ← loopAx, loopAx_setLoopAx, hem]

/-- The output stage of a sample that is in time. -/
theorem staged_outputStage (s : State) (a : Nat) (r : OutRec) (cb t0 lo hi : Word) (flags : Nat) (on : Bool) :
    Staged s (outputStage s a r cb t0 lo hi flags on false) a r := by
  unfold outputStage
  extract_lets t x sat c flags u v
  by_cases hnum : (!isNum c) = true
  · rw [if_pos hnum]
    unfold numericFault
    extract_lets aborted stopped
    have haborted : SampleKeeps s aborted := ((SampleKeeps.refl s).event ..).injAbort a
    have hstopped : SampleKeeps s stopped := .ite (haborted.request _) haborted
    exact staged_writeRec hstopped a r _ 0 _ (congrArg (·.hem) (hstopped.loopAx a)) (.inr rfl)
  · rw [if_neg hnum]
    have hu : SampleKeeps s u := .ite (.refl s) (SampleKeeps.refl s).bump
    have hmode : bits r.control.toNat 6 4 < 8 := Nat.mod_lt _ (by decide)
    exact staged_writeRec hu a r _ _ _ rfl (.inl (control_fields 0 on _ _ (by decide) hmode).1)

/-! ### The samples of a lane (R201-R206) -/

/-- The set-point of a sample whose shuttle has been launched is that for the next latch instant. -/
theorem lastCycle_launched {s : State} (h : s.ring.launched = true) : lastCycle s false = false := by simp [lastCycle, h]

/-- No injected value is no displacement. -/
theorem injFixed_zero : injFixed 0 = 0 := by decide

theorem recMode_lt (mode : Nat) : recMode mode < 8 := by
  unfold recMode
  split
  · decide
  · split <;> decide

/-- A sample of an axis that is not enabled writes its set-point with enable 0, after reports that leave the ring. -/
theorem idleSample_writeRec {s : State} (a : Nat) (launched : s.ring.launched = true) : ∃ u, u.ring = s.ring ∧
    idleSample s a false = writeRec u a
      ⟨BitVec.ofInt 64 (axis s a).sp2.pos, 0, 0, control 0 false (recMode (wbits (coef s a 0) 2 0)) 0⟩ false := by
  unfold idleSample
  extract_lets sp x f v n t _ u
  have hsp : sp = (axis s a).sp2 := if_neg (by rw [lastCycle_launched launched]; decide)
  have ht : SampleKeeps s t := (SampleKeeps.refl s).expiry a n
  have hu : SameRecords t u := ⟨rfl, rfl, rfl, rfl⟩
  rw [hu.coef, ht.records.coef, hsp]
  exact ⟨u, ht.ring, rfl⟩

/-- The record of an enabled axis without injection before its output stage: the set-point with its slope, and enable 1. -/
def sampleRecord (s : State) (a : Nat) : OutRec :=
  ⟨BitVec.ofInt 64 (axis s a).sp2.pos, (slopeOf (axis s a).sp2.vel).1, 0, control 0 true (recMode (wbits (coef s a 0) 2 0)) 0⟩

/-- A sample of an enabled axis without hook or injection, in a mode of its drive, runs the output stage on a record of its
set-point, after reports that leave the ring. -/
theorem liveSample_outputStage {s : State} {a : Nat} (launched : s.ring.launched = true) (quiet : injection s a = none)
    (servo : isStepper s a = false) (mode : wbits (coef s a 0) 2 0 ≤ 3) (hook : wbit (coef s a 0) 6 = false) :
    ∃ u cb t lo hi flags on, u.ring = s.ring ∧
      liveSample s a false = outputStage u a (sampleRecord s a) cb t lo hi flags on false := by
  unfold liveSample
  extract_lets c m sp x0 _ x1 ij injected injPos f spe _ x2 _ counted x3 expired velE vel slope reported rec0
  have hm : m ≤ 3 := mode
  have hsp : sp = (axis s a).sp2 := if_neg (by rw [lastCycle_launched launched]; decide)
  have hinjected : injected 0 = 0 := by simp only [injected, ij, quiet]
  have hpos : injPos = 0 := (congrArg injFixed hinjected).trans injFixed_zero
  have hrec : rec0 = sampleRecord s a := by simp only [rec0, slope, hpos, hsp, Int.add_zero, m, c, sampleRecord]
  have hexpired : SampleKeeps s expired := ((SampleKeeps.refl s).count _).expiry ..
  have hreported : SampleKeeps s reported := .ite (hexpired.event ..) hexpired
  have hdrive : ((m == 4) != isStepper reported a) = false := by
    rw [hreported.isStepper, servo, beq_eq_false_iff_ne.mpr (by omega)]
    rfl
  rw [if_neg (by rw [hdrive]; decide), if_neg (by omega), if_neg (by rw [beq_iff_eq]; omega), if_neg (by rw [hook]; decide), hrec]
  refine ⟨_, _, _, _, _, _, _, ?_, rfl⟩
  rw [setLoopAx_ring]
  exact (((hreported.tripCheck ..).tripCheck ..).tripCheck ..).ring

/-- An axis taken from the queue of its lane. -/
def takeAxis (s : State) (a : Nat) : State := ringMod s fun r => { r with waiting := r.waiting.erase a }

theorem takeAxis_waiting {s : State} {a : Nat} (h : s.ring.waiting = [a]) : (takeAxis s a).ring.waiting = [] := by
  simp [takeAxis, ringMod, h]

/-- The sample of the only waiting axis, with nothing pending on its lane. -/
theorem loopSample_waiting {s : State} {lane a : Nat} (late : s.ring.late = []) (waiting : s.ring.waiting = [a])
    (hlane : a % 16 = lane) (ready : lanesReady s = true) (cell : s.flt.cellsOff.contains (LOOP, lane) = false)
    (free : laneOp s lane = none) : loopSample s lane =
      if enabled s a then liveSample (takeAxis s a) a false else idleSample (takeAxis s a) a false := by
  have hboundary : boundary (takeAxis s a) a = takeAxis s a := by
    have hfree : laneOp (takeAxis s a) (a % 16) = none := by rw [hlane]; exact free
    simp only [boundary, hfree]
  have hcell : (takeAxis s a).flt.cellsOff.contains (LOOP, lane) = false := cell
  have hqueue : s.ring.waiting.find? (fun b => b % 16 == lane) = some a := by simp [waiting, hlane]
  unfold loopSample
  rw [late, ready, if_pos rfl, hqueue]
  change (if (takeAxis s a).flt.cellsOff.contains (LOOP, lane) then takeAxis s a
    else if enabled (boundary (takeAxis s a) a) a then liveSample (boundary (takeAxis s a) a) a false
      else idleSample (boundary (takeAxis s a) a) a false) = _
  rw [if_neg (by rw [hcell]; decide), hboundary]
  rfl

/-! ### The output stage of a Hem axis (R211) -/

/-- An axis whose result is taken, and waits for none. -/
def resultTaken (s : State) (a : Nat) : State :=
  let u := setLoopAx s a { loopAx s a with hem := none }
  { u with loop := { u.loop with results := tput (fun _ => none) u.loop.results a none } }

theorem result_resultTaken (s : State) (a : Nat) :
    (tget (fun _ => none) (resultTaken s a).loop.results a : Option Half) = none := by
  simp [resultTaken]

/-- A result that is in time completes the output stage of its axis. -/
theorem hemStage_outputStage {s : State} {a : Nat} {r : OutRec} {cb lo hi : Word} {h : Half}
    (hem : (loopAx s a).hem = some (r, cb, lo, hi)) (result : (tget (fun _ => none) s.loop.results a : Option Half) = some h)
    (inTime : bit (loopAx s a).flags 6 = false) : hemStage s a =
      outputStage (resultTaken s a) a r cb (ofQ15 h) lo hi (loopAx s a).flags (bit r.control.toNat 3) false := by
  unfold hemStage
  extract_lets x
  simp only [x, hem, result, inTime]
  rfl

/-! ### Writes that land within a sample (R199, R200, R225) -/

/-- A coefficient window takes no write: the axis is not configured, or its banks are being swapped (R227). -/
def coefHeld (s : State) (a : Nat) : Bool :=
  (match laneOp s (a % 16) with
    | some o => doubleBank s && o.axis == a && decide (2 ≤ o.kind)
    | none => false) || !configured s a

theorem landCoef_eq (s : State) (a i : Nat) (v : Word) :
    landCoef s a i v = if coefHeld s a then slverr s else okBus (setBank s (windowBank s a) a i v) := rfl

/-- A write of a coefficient window neither sees nor changes the queue, the memories and the raw counter. -/
theorem landCoef_frame (s : State) (p : List Instr) (m : Mem) (r a i : Nat) (v : Word) :
    landCoef { s with pending := p, mem := m, raw := r } a i v = { landCoef s a i v with pending := p, mem := m, raw := r } := by
  have hheld : coefHeld { s with pending := p, mem := m, raw := r } a = coefHeld s a := rfl
  have hbank : windowBank { s with pending := p, mem := m, raw := r } a = windowBank s a := rfl
  rw [landCoef_eq, landCoef_eq, hheld, hbank]
  cases coefHeld s a with
  | true => rfl
  | false => cases windowBank s a <;> rfl

theorem landCoef_keeps (s : State) (a i : Nat) (v : Word) : (landCoef s a i v).pending = s.pending ∧
    (landCoef s a i v).mem = s.mem ∧ (landCoef s a i v).raw = s.raw ∧ (landCoef s a i v).sec = s.sec := by
  rw [landCoef_eq]
  cases coefHeld s a with
  | true => exact ⟨rfl, rfl, rfl, rfl⟩
  | false => cases windowBank s a <;> exact ⟨rfl, rfl, rfl, rfl⟩

/-- Whether a write reaches its register depends neither on the queue nor on the memories nor on the raw counter. -/
theorem Reaches.of_frame {s : State} {p : List Instr} {m : Mem} {r : Nat} {port : Port} {a : Nat} {v : Word}
    (h : Reaches { s with pending := p, mem := m, raw := r } port a v) : Reaches s port a v :=
  ⟨h.awake, h.direct, h.port, h.block, h.power, h.free, h.swap⟩

/-- The direct write of a sample, as it reaches its window. -/
theorem hostWrite_coefWrite {s : State} {w : CoefWrite}
    (h : Reaches s w.port (Reg.LOOP_AX_COEF w.axis.toNat w.word) w.value) :
    hostWrite s w.port (Reg.LOOP_AX_COEF w.axis.toNat w.word) w.value = landCoef s w.axis.toNat w.word w.value :=
  hostWrite_axCoef w.axis.isLt w.word.isLt h

/-- A write whose word is read by a later burst acts before the sample. -/
theorem exec_loopSample_before {s : State} (awake : Awake s) (lane : Fin 16) {w : CoefWrite} (seen : w.before.val ≤ w.word.val / 32)
    (h : Reaches s w.port (Reg.LOOP_AX_COEF w.axis.toNat w.word) w.value) :
    exec (.loopSample ⟨lane, [w]⟩) s =
      exec (.loopSample ⟨lane, []⟩) (hostWrite s w.port (Reg.LOOP_AX_COEF w.axis.toNat w.word) w.value) := by
  have hsample : exec (.loopSample ⟨lane, [w]⟩) s = runQuiet (Machine.awake fun s =>
      loopSample (hostWrite s w.port (Reg.LOOP_AX_COEF w.axis.toNat w.word) w.value) lane) s := by
    change execLoopSample ⟨lane, [w]⟩ s = _
    simp [execLoopSample, seen]
  obtain ⟨hpending, hmem, hraw, hsec⟩ := landCoef_keeps s w.axis.toNat w.word w.value
  have hawake : Awake (landCoef s w.axis.toNat w.word w.value) := by rw [Awake, hsec]; exact awake
  rw [hsample, runQuiet_eq, awake_eq awake, hostWrite_coefWrite h]
  refine Eq.trans ?_ (runQuiet_eq (Machine.awake fun s => loopSample s lane) (landCoef s w.axis.toNat w.word w.value)).symm
  rw [awake_eq hawake, hpending, hmem, hraw]

/-- A write whose word an earlier burst has read acts behind the sample. -/
theorem exec_loopSample_behind {s t : State} (awake : Awake s) (lane : Fin 16) {w : CoefWrite} (read : w.word.val / 32 < w.before.val)
    (sample : exec (.loopSample ⟨lane, []⟩) s = .next t)
    (h : Reaches t w.port (Reg.LOOP_AX_COEF w.axis.toNat w.word) w.value) : exec (.loopSample ⟨lane, [w]⟩) s =
      .next (hostWrite t w.port (Reg.LOOP_AX_COEF w.axis.toNat w.word) w.value) := by
  have hsample : exec (.loopSample ⟨lane, [w]⟩) s = runQuiet (Machine.awake fun s =>
      hostWrite (loopSample s lane) w.port (Reg.LOOP_AX_COEF w.axis.toNat w.word) w.value) s := by
    change execLoopSample ⟨lane, [w]⟩ s = _
    simp [execLoopSample, Nat.not_le.mpr read]
  have hplain : exec (.loopSample ⟨lane, []⟩) s =
      .next { loopSample s lane with pending := s.pending, mem := s.mem, raw := s.raw } := by
    refine (runQuiet_eq (Machine.awake fun s => loopSample s lane) s).trans ?_
    rw [awake_eq awake]
  obtain rfl := Host.Outcome.next.inj (hplain.symm.trans sample)
  rw [hsample, runQuiet_eq, awake_eq awake, hostWrite_coefWrite h.of_frame, hostWrite_coefWrite h,
    landCoef_frame (loopSample s lane) s.pending s.mem s.raw]

/-! ### The commands of the samples complete -/

section samples
variable {s : State} (h : Awake s)
include h

/-- LOOP_OUTPUT_STAGE writes the record of the axis whose result has come. -/
theorem completes_loopOutputStage {a : Byte} {r : OutRec} {cb lo hi : Word} {x : Half}
    (hem : (loopAx s a.toNat).hem = some (r, cb, lo, hi))
    (result : (tget (fun _ => none) s.loop.results a.toNat : Option Half) = some x)
    (inTime : bit (loopAx s a.toNat).flags 6 = false) : Completes (.loopOutputStage a) s fun t =>
      (loopAx t a.toNat).hem = none ∧ (tget (fun _ => none) t.loop.results a.toNat : Option Half) = none ∧
        (tget (fun _ => {}) t.ring.image a.toNat : OutRec).pos = r.pos ∧ t.ring.fresh.contains a.toNat = true := by
  refine completes_quiet_eq (f := fun s => hemStage s a.toNat) rfl h (hemStage_outputStage hem result inTime) ?_
  obtain ⟨hpos, -, -, hfresh, -, hhem, hresults⟩ := staged_outputStage (resultTaken s a.toNat) a.toNat r cb (ofQ15 x) lo hi
    (loopAx s a.toNat).flags (bit r.control.toNat 3)
  have htaken : (loopAx (resultTaken s a.toNat) a.toNat).hem = none :=
    congrArg (·.hem) (loopAx_setLoopAx s a.toNat { loopAx s a.toNat with hem := none })
  exact ⟨hhem.trans htaken, (congrArg (tget (fun _ => none) · a.toNat) hresults).trans (result_resultTaken s a.toNat), hpos, hfresh⟩

variable {lane : Fin 16} {a : Nat} (late : s.ring.late = []) (waiting : s.ring.waiting = [a]) (hlane : a % 16 = lane.val)
  (launched : s.ring.launched = true) (ready : lanesReady s = true) (cell : s.flt.cellsOff.contains (LOOP, lane.val) = false)
  (free : laneOp s lane.val = none)
include late waiting hlane launched ready cell free

/-- LOOP_SAMPLE of an axis that is not enabled writes its set-point with enable 0. -/
theorem completes_loopSample_idle (off : enabled s a = false)
    (noReplace : (tget (fun _ => none) s.ring.replace a : Option Half) = none) :
    Completes (.loopSample ⟨lane, []⟩) s fun t => t.ring.waiting = [] ∧ t.ring.fresh.contains a = true ∧
      (tget (fun _ => {}) t.ring.image a : OutRec) =
        ⟨BitVec.ofInt 64 (axis s a).sp2.pos, 0, 0, control 0 false (recMode (wbits (coef s a 0) 2 0)) 0⟩ ∧ t.mem = s.mem := by
  obtain ⟨u, hring, hsample⟩ := idleSample_writeRec (s := takeAxis s a) a launched
  have heffect : loopSample s lane = idleSample (takeAxis s a) a false := by
    rw [loopSample_waiting late waiting hlane ready cell free, if_neg (by rw [off]; decide)]
  refine completes_quiet_eq (f := fun s => loopSample s lane) rfl h (heffect.trans hsample) ?_
  obtain ⟨himage, hfresh, hwaiting, -, -⟩ := recorded_writeRec u a
    ⟨BitVec.ofInt 64 (axis s a).sp2.pos, 0, 0, control 0 false (recMode (wbits (coef s a 0) 2 0)) 0⟩
  have hreplace : (tget (fun _ => none) u.ring.replace a : Option Half) = none := by rw [hring]; exact noReplace
  rw [hreplace] at himage
  exact ⟨hwaiting.trans (by rw [hring, takeAxis_waiting waiting]), hfresh, himage, rfl⟩

/-- LOOP_SAMPLE of an enabled axis writes the record of its set-point. -/
theorem completes_loopSample_live (on : enabled s a = true) (quiet : injection s a = none) (servo : isStepper s a = false)
    (mode : wbits (coef s a 0) 2 0 ≤ 3) (hook : wbit (coef s a 0) 6 = false) :
    Completes (.loopSample ⟨lane, []⟩) s fun t => t.ring.waiting = [] ∧ t.ring.fresh.contains a = true ∧
      (tget (fun _ => {}) t.ring.image a : OutRec).pos = BitVec.ofInt 64 (axis s a).sp2.pos ∧
      (tget (fun _ => {}) t.ring.image a : OutRec).slope = (slopeOf (axis s a).sp2.vel).1 ∧
      (bits (tget (fun _ => {}) t.ring.image a : OutRec).control.toNat 2 0 = 0 ∨
        (tget (fun _ => {}) t.ring.image a : OutRec).control = control 7 false (recMode (wbits (coef s a 0) 2 0)) 0) ∧
      t.mem = s.mem := by
  obtain ⟨u, cb, tq, lo, hi, flags, enable, hring, hsample⟩ :=
    liveSample_outputStage (s := takeAxis s a) launched quiet servo mode hook
  have heffect : loopSample s lane = liveSample (takeAxis s a) a false := by
    rw [loopSample_waiting late waiting hlane ready cell free, if_pos on]
  refine completes_quiet_eq (f := fun s => loopSample s lane) rfl h (heffect.trans hsample) ?_
  obtain ⟨hpos, hslope, hcontrol, hfresh, hwaiting, -, -⟩ :=
    staged_outputStage u a (sampleRecord (takeAxis s a) a) cb tq lo hi flags enable
  have hmode : bits (sampleRecord (takeAxis s a) a).control.toNat 6 4 = recMode (wbits (coef s a 0) 2 0) :=
    (control_fields 0 true _ 0 (by decide) (recMode_lt _)).2
  rw [hmode] at hcontrol
  exact ⟨hwaiting.trans (by rw [hring, takeAxis_waiting waiting]), hfresh, hpos, hslope, hcontrol, rfl⟩

end samples

/-- Settles O20, command by command. -/
theorem loopCommandsComplete : Obligations.LoopCommandsComplete := by
  unfold Obligations.LoopCommandsComplete
  intro s h
  exact ⟨fun _ _ late waiting hlane launched ready cell free off noReplace =>
      completes_loopSample_idle h late waiting hlane launched ready cell free off noReplace,
    fun _ _ late waiting hlane launched ready cell free on quiet servo mode hook =>
      completes_loopSample_live h late waiting hlane launched ready cell free on quiet servo mode hook,
    fun lane _ _ => ⟨fun seen reach => exec_loopSample_before h lane seen reach,
      fun read sample reach => exec_loopSample_behind h lane read sample reach⟩,
    fun _ _ _ _ _ _ => completes_loopOutputStage h,
    fun _ _ _ => completes_coefCommit,
    fun _ _ => completes_coefLoad,
    fun _ _ => completes_coefCommitApply h,
    fun _ _ _ => completes_bankSwap,
    fun _ _ => completes_bankSwapApply h,
    fun _ _ => completes_copyBackDone h,
    fun _ _ => completes_injectorStart,
    fun _ _ => completes_injectorStop,
    fun _ => completes_injectorEnd h⟩

end Sys2Proof.Machine

/-! ## Mailboxes, locks and legacy queues: their commands complete (R288, R289, R291, R292, R294, R295) -/

namespace Sys2Proof.Machine

/-- A quiet command by a port answers its effect as it stands, where this leaves the queue, the memories and the raw counter. -/
theorem exec_port {c : Instr} {f : State → State} {s t : State} (e : exec c s = runQuiet f s) (hf : f s = t)
    (hp : t.pending = s.pending) (hm : t.mem = s.mem) (hr : t.raw = s.raw) : exec c s = .next t := by
  rw [e, runQuiet_eq, hf, ← hp, ← hm, ← hr]

/-! ### Where the registers of MBX stand (R300) -/

/-- The register at an address is the i-th of a row of MBX outside its fault group. -/
structure MbxRegister (a : Nat) (r : RegRow) (i : Nat) : Prop where
  row : regAt a = some (r, i, 0)
  off : r.off < 0xF000
  block : blockOf a = MBX
  place : 0x20000000 ≤ a ∧ a < 0x21000000 ∧ a % 4 = 0

theorem findRow_of_index {r : RegRow} {rs : List RegRow} {o i j : Nat} (h : r.index? o = some (i, j)) :
    findRow (r :: rs) o = some (r, i, j) := by
  rw [findRow, h]

/-- The index that a row of one dimension gives for the offset of one of its registers. -/
theorem RegRow.index?_single {r : RegRow} {i : Nat} (hi : i < r.n1) (hs1 : 0 < r.s1) (hs2 : r.s2 = 0) (hn2 : 0 < r.n2) :
    r.index? (r.off + r.s1 * i) = some (i, 0) := by
  have hrel : r.off + r.s1 * i - r.off = r.s1 * i := Nat.add_sub_cancel_left _ _
  unfold RegRow.index?
  rw [if_neg (by omega)]
  simp only [hrel, Nat.mul_div_cancel_left i hs1, beq_iff_eq, hs2, if_true, Nat.pos_iff_ne_zero.mp hs1, if_false, Nat.sub_self]
  simp [hi, hn2]

/-- A register of MBX stands where its row does among the rows of MBX. -/
theorem mbxRegister_of_row {o : Nat} {r : RegRow} {i : Nat} (hrow : findRow rowsMbx o = some (r, i, 0)) (ho : o < 0xF000)
    (hoff : r.off < 0xF000) (halign : o % 4 = 0) : MbxRegister (0x20700000 + o) r i where
  row := by
    have hoffset : (0x20700000 + o) % 0x100000 = o := by omega
    have hblock : (0x20700000 + o - 0x20000000) / 0x100000 = 7 := by omega
    unfold regAt
    rw [if_neg (by simp; omega)]
    simp only [hoffset, hblock]
    rw [if_neg (by simp; omega)]
    exact hrow
  off := hoff
  block := by unfold blockOf MBX; omega
  place := by omega

/-- The row of the data registers of the mailboxes. -/
def dataRow : RegRow := ⟨0x0, 0x10, 64, 0x0, 1, .rw, 0x00000000, 0x0, 0xFFFFFFFF⟩

/-- The row of the locks. -/
def lockRow : RegRow := ⟨0x2000, 0x4, 64, 0x0, 1, .rw, 0x00000000, 0x0, 0xFFFFFFFF⟩

/-- The row of the legacy queues' host-to-head direction. -/
def h2dRow : RegRow := ⟨0x1000, 0x20, 8, 0x0, 1, .wo, 0x00000000, 0x0, 0xFFFFFFFF⟩

/-- The row of the legacy queues' head-to-host direction. -/
def d2hRow : RegRow := ⟨0x1004, 0x20, 8, 0x0, 1, .rc, 0x00000000, 0x0, 0x00000000⟩

theorem mbxRegister_data (m : BitVec 6) : MbxRegister (Reg.MBX_DATA m.toNat) dataRow m.toNat := by
  have hm := m.isLt
  have hindex : dataRow.index? (0x10 * m.toNat) = some (m.toNat, 0) := by
    simpa only [dataRow, Nat.zero_add] using
      RegRow.index?_single (r := dataRow) (i := m.toNat) hm (by decide) rfl (by decide)
  exact mbxRegister_of_row (findRow_of_index hindex) (by omega) (by decide) (by omega)

theorem mbxRegister_lock (k : BitVec 6) : MbxRegister (Reg.MBX_LOCK k.toNat) lockRow k.toNat := by
  have hk := k.isLt
  have hrow : findRow rowsMbx (0x2000 + 0x4 * k.toNat) = some (lockRow, k.toNat, 0) := by
    unfold rowsMbx
    iterate 15 rw [findRow_skip (by simp only; omega) (by decide) (by decide)]
    exact findRow_of_index (RegRow.index?_single (r := lockRow) hk (by decide) rfl (by decide))
  have hregister := mbxRegister_of_row hrow (by omega) (by decide) (by omega)
  rwa [← Nat.add_assoc] at hregister

theorem mbxRegister_h2d (q : BitVec 3) : MbxRegister (Reg.MBXQ_H2D q.toNat) h2dRow q.toNat := by
  have hq := q.isLt
  have hrow : ∀ k : Fin 8, findRow rowsMbx (0x1000 + 0x20 * k.val) = some (h2dRow, k.val, 0) := by decide
  have hregister := mbxRegister_of_row (hrow ⟨q.toNat, hq⟩) (by simp only; omega) (by decide) (by simp only; omega)
  rwa [← Nat.add_assoc] at hregister

theorem mbxRegister_d2h (q : BitVec 3) : MbxRegister (Reg.MBXQ_D2H q.toNat) d2hRow q.toNat := by
  have hq := q.isLt
  have hrow : ∀ k : Fin 8, findRow rowsMbx (0x1004 + 0x20 * k.val) = some (d2hRow, k.val, 0) := by decide
  have hregister := mbxRegister_of_row (hrow ⟨q.toNat, hq⟩) (by simp only; omega) (by decide) (by simp only; omega)
  rwa [← Nat.add_assoc] at hregister

/-! ### Accesses that take effect in MBX -/

section access
variable {s : State} {port : Port} {a : Nat} {v : Word} {r : RegRow} {i : Nat}

/-- A write that reaches a register of MBX outside its fault group takes effect in MBX. -/
theorem hostWrite_mbx (h : Reaches s port a v) (reg : MbxRegister a r i) : hostWrite s port a v = landMbx s port a r i v := by
  have hoff := reg.off
  have hgroup : ¬ (0xF000 ≤ r.off && r.off < 0xF0C0) = true := by simp; omega
  rw [write_reach h reg.row reg.place (by rw [reg.block]; decide), reg.block]
  unfold landReg
  exact if_neg hgroup

/-- A read that reaches a register of MBX outside its fault group is answered by the master that reads (R287). -/
theorem portRead_mbx (h : Readable s port a) (reg : MbxRegister a r i) : portRead s port a =
    if r.off == 0x0 then mbxRead s (masterId port) i
    else if r.off == 0x1004 then queuePop s i
    else if r.off == 0x2000 then lockRead s (masterId port) i
    else if 0x1000 ≤ r.off && !s.mbx.legacyMode then slverr s
    else readRow s MBX a r i 0 := by
  have hblock := h.block
  have hpower := h.power
  obtain ⟨hlo, hhi, halign⟩ := reg.place
  rw [reg.block] at hblock hpower
  have hreaches : ¬ (a < 0x20000000 || 0x21000000 ≤ a || a % 4 != 0 || s.flt.resetting.contains MBX) = true := by
    rw [hblock, halign, decide_eq_false (Nat.not_lt.mpr hlo), decide_eq_false (Nat.not_le.mpr hhi)]
    decide
  have hmbx : (MBX == MBX && r.off < 0xF000) = true := by simp [reg.off]
  rw [portRead_reach h]
  simp only [readReg, reg.block, if_neg hreaches, hpower, reg.row, if_pos hmbx, Bool.false_eq_true, if_false]

theorem hostWrite_data {m : BitVec 6} (h : Reaches s port (Reg.MBX_DATA m.toNat) v) :
    hostWrite s port (Reg.MBX_DATA m.toNat) v =
      if isFwPort port then mbxTokenWrite s (masterId port) m.toNat v else mbxWrite s (masterId port) m.toNat v :=
  hostWrite_mbx h (mbxRegister_data m)

theorem hostWrite_lock {k : BitVec 6} (h : Reaches s port (Reg.MBX_LOCK k.toNat) v) :
    hostWrite s port (Reg.MBX_LOCK k.toNat) v = lockWrite s (masterId port) k.toNat v :=
  hostWrite_mbx h (mbxRegister_lock k)

theorem hostWrite_h2d {q : BitVec 3} (h : Reaches s port (Reg.MBXQ_H2D q.toNat) v) :
    hostWrite s port (Reg.MBXQ_H2D q.toNat) v = queuePush s q.toNat v :=
  hostWrite_mbx h (mbxRegister_h2d q)

theorem portRead_data {m : BitVec 6} (h : Readable s port (Reg.MBX_DATA m.toNat)) :
    portRead s port (Reg.MBX_DATA m.toNat) = mbxRead s (masterId port) m.toNat :=
  portRead_mbx h (mbxRegister_data m)

theorem portRead_lock {k : BitVec 6} (h : Readable s port (Reg.MBX_LOCK k.toNat)) :
    portRead s port (Reg.MBX_LOCK k.toNat) = lockRead s (masterId port) k.toNat :=
  portRead_mbx h (mbxRegister_lock k)

theorem portRead_d2h {q : BitVec 3} (h : Readable s port (Reg.MBXQ_D2H q.toNat)) :
    portRead s port (Reg.MBXQ_D2H q.toNat) = queuePop s q.toNat :=
  portRead_mbx h (mbxRegister_d2h q)

end access

/-! ### Full flags and words of the mailboxes -/

/-- A full flag that was set or cleared reads so. -/
theorem mbxFull_setFull (s : State) (m : Nat) (b : Bool) : mbxFull (setFull s m b) m = b := by
  cases b <;> simp [mbxFull, setFull, mbxMod, setBit, setF, wr]

theorem rd_setFull_ne (s : State) {m a : Nat} (b : Bool) (h : a ≠ (mbxBit Reg.MBX_FULL_LO m).1) : rd (setFull s m b) a = rd s a :=
  rd_setBit_ne _ _ _ h

/-- The words of the full flags are none of the mailboxes' own registers. -/
theorem mbxWords_ne_full {m : Nat} (hm : m < 64) : Reg.MBX_DATA m ≠ (mbxBit Reg.MBX_FULL_LO m).1 ∧
    Reg.MBX_CFG m ≠ (mbxBit Reg.MBX_FULL_LO m).1 := by
  unfold mbxBit Reg.MBX_DATA Reg.MBX_CFG Reg.MBX_FULL_LO
  simp only
  omega

/-- The state in which a mailbox has taken a word and its receiver does not have it yet. -/
def filledWith (s : State) (m : Nat) (v : Word) : State := okBus (setFull (wr s (Reg.MBX_DATA m) v) m true)

theorem rd_filledWith_data (s : State) {m : Nat} (v : Word) (hm : m < 64) : rd (filledWith s m v) (Reg.MBX_DATA m) = v :=
  (rd_setFull_ne _ true (mbxWords_ne_full hm).1).trans (rd_wr_same s _ v)

theorem rd_filledWith_ne (s : State) {m a : Nat} (v : Word) (hdata : a ≠ Reg.MBX_DATA m)
    (hfull : a ≠ (mbxBit Reg.MBX_FULL_LO m).1) : rd (filledWith s m v) a = rd s a :=
  (rd_setFull_ne _ true hfull).trans (rd_wr_ne s v hdata)

/-- Filling a mailbox leaves its configuration. -/
theorem mbxTask_filledWith (s : State) {m : Nat} (v : Word) (hm : m < 64) : mbxTask (filledWith s m v) m = mbxTask s m := by
  have hcfg : rd (filledWith s m v) (Reg.MBX_CFG m) = rd s (Reg.MBX_CFG m) :=
    rd_filledWith_ne s v (by unfold Reg.MBX_CFG Reg.MBX_DATA; omega) (mbxWords_ne_full hm).2
  rw [mbxTask, mbxTask, fld, fld, hcfg]

theorem mbxStore_accepted {s : State} {id m : Nat} (v : Word) (sender : id = fld s (Reg.MBX_CFG m) 7 0) (empty : mbxFull s m = false)
    (on : receiverOff s m = false) (cell : s.flt.cellsOff.contains (MBX, m) = false) : mbxStore s id m v = filledWith s m v := by
  unfold mbxStore filledWith
  rw [sender, empty, on, cell]
  simp

/-- Bringing a word to its receiver leaves the registers and the mailboxes, and answers without error. -/
theorem mbxDeliver_keeps (s : State) (m : Nat) (v : Word) : (mbxDeliver s m v).regs = s.regs ∧
    (mbxDeliver s m v).mbx = s.mbx ∧ (mbxDeliver s m v).bus.err = false := by
  unfold mbxDeliver
  split
  case isTrue => exact ⟨rfl, rfl, rfl⟩
  case isFalse => exact ⟨rfl, rfl, rfl⟩

/-- A mailbox that a pair does not journal has no task as its receiver (R358). -/
theorem mbxTask_of_direct {s : State} {m : BitVec 6} (h : journaled s (Reg.MBX_DATA m.toNat) = false) : mbxTask s m.toNat = false := by
  have hm := m.isLt
  have hoffset : Reg.MBX_DATA m.toNat % 0x100000 = 16 * m.toNat := by unfold Reg.MBX_DATA; omega
  have hplace : (16 * m.toNat < 0x400 && 16 * m.toNat % 16 == 0) = true := by simp; omega
  unfold journaled at h
  rw [(mbxRegister_data m).block, hoffset] at h
  rw [Bool.or_eq_false_iff, beq_self_eq_true, Bool.true_and, hplace, Bool.true_and,
    Nat.mul_div_cancel_left _ (by decide)] at h
  exact h.2

/-- No word that reaches a mailbox directly is a token for the journal. -/
theorem fwToken_of_direct {s t : State} {m : BitVec 6} (task operand source : Nat) (v : Word) (pair : t.twin.pair = s.twin.pair)
    (receiver : mbxTask t m.toNat = mbxTask s m.toNat)
    (direct : s.twin.pair = true → journaled s (Reg.MBX_DATA m.toNat) = false) :
    (if mbxTask t m.toNat then fwToken t task operand source v else none) = none := by
  cases hpair : s.twin.pair with
  | true => rw [receiver, mbxTask_of_direct (direct hpair)]; rfl
  | false =>
    have hnone : fwToken t task operand source v = none := by
      unfold fwToken
      rw [pair, hpair]
      rfl
    rw [hnone, ite_self]

/-- A sender's write to an empty mailbox fills it and goes to the receiver (R288). -/
theorem hostWrite_data_accepted {s : State} {port : Port} {m : BitVec 6} {v : Word}
    (h : Reaches s port (Reg.MBX_DATA m.toNat) v) (sender : masterId port = fld s (Reg.MBX_CFG m.toNat) 7 0)
    (empty : mbxFull s m.toNat = false) (on : receiverOff s m.toNat = false)
    (cell : s.flt.cellsOff.contains (MBX, m.toNat) = false) :
    hostWrite s port (Reg.MBX_DATA m.toNat) v = mbxDeliver (filledWith s m.toNat v) m.toNat v := by
  have hstore := mbxStore_accepted v sender empty on cell
  rw [hostWrite_data h]
  split
  case isTrue =>
    have hdirect := fwToken_of_direct (s := s) (t := filledWith s m.toNat v) (m := m)
      (fld (filledWith s m.toNat v) (Reg.MBX_TGT m.toNat) 9 0) (fld (filledWith s m.toNat v) (Reg.MBX_TGT m.toNat) 11 10) 4 v rfl
      (mbxTask_filledWith s v m.isLt) h.direct
    unfold mbxTokenWrite
    rw [hstore]
    simp only [hdirect]
    rfl
  case isFalse =>
    unfold mbxWrite
    rw [hstore]
    rfl

/-- A receiver's read of a full mailbox empties it (R289). -/
theorem mbxRead_full {s : State} {id m : Nat} (receiver : id = fld s (Reg.MBX_CFG m) 15 8) (full : mbxFull s m = true) :
    mbxRead s id m = okBus (emit (setFull s m false) (.mbxIrq (fld s (Reg.MBX_CFG m) 7 0) m true)) (rd s (Reg.MBX_DATA m)) := by
  unfold mbxRead
  rw [receiver, full]
  simp

/-- The state in which a mailbox's stall is reported: the flags are set, and the event is raised. -/
def stallRaised (s : State) (m : Nat) : State :=
  event (setBit (mbxMod s fun x => { x with stalled := m :: x.stalled }) (mbxBit Reg.MBX_STALL_LO m).1
    (mbxBit Reg.MBX_STALL_LO m).2 true) MBX 1 m

theorem mbxStall_expired {s : State} {m : Nat} (full : mbxFull s m = true) (fresh : s.mbx.stalled.contains m = false)
    (expired : tget (fun _ => 0) s.mbx.filled m + stallNs s m ≤ s.raw) : ∃ sender receiver : Nat, mbxStall s m =
      emit (emit (stallRaised s m) (.mbxIrq sender m false)) (.mbxIrq receiver m false) := by
  refine ⟨_, _, if_neg ?_⟩
  rw [full, fresh]
  simpa using expired

theorem stallRaised_mbx (s : State) (m : Nat) : (stallRaised s m).mbx = { s.mbx with stalled := m :: s.mbx.stalled } :=
  event_mbx _ _ _ _ _

theorem fbit_stallRaised (s : State) {m : Nat} (hm : m < 64) :
    fbit (stallRaised s m) (mbxBit Reg.MBX_STALL_LO m).1 (mbxBit Reg.MBX_STALL_LO m).2 = true := by
  have hword : (mbxBit Reg.MBX_STALL_LO m).1 = Reg.MBX_STALL_LO ∨ (mbxBit Reg.MBX_STALL_LO m).1 = Reg.MBX_STALL_HI := by
    unfold mbxBit Reg.MBX_STALL_LO Reg.MBX_STALL_HI
    simp only
    omega
  have hreport : reportReg (mbxBit Reg.MBX_STALL_LO m).1 = false := by
    obtain hlow | hhigh := hword
    · rw [hlow]; decide
    · rw [hhigh]; decide
  rw [fbit, stallRaised, rd_event _ _ _ _ _ hreport]
  exact fbit_setBit _ _ _ true (Nat.mod_lt _ (by decide))

/-! ### Locks (R295) -/

theorem lockRead_free {s : State} {k : Nat} (id : Nat) (free : lockOwner s k = 0) :
    lockRead s id k = okBus (setLock s k id) (word id) := by
  unfold lockRead
  rw [free]
  rfl

theorem lockWrite_owner {s : State} {id k : Nat} (owner : lockOwner s k = id) : lockWrite s id k 0 = okBus (setLock s k 0) := by
  unfold lockWrite
  rw [owner]
  simp

/-! ### Legacy queues (R294, R543) -/

@[simp] theorem legacy_setLegacy_same (s : State) (q : Nat) (x : Legacy) : legacy (setLegacy s q x) q = x := tget_tput_same _ _ _ _

theorem legacy_setLegacy_ne (s : State) {q k : Nat} (x : Legacy) (h : k ≠ q) : legacy (setLegacy s q x) k = legacy s k :=
  tget_tput_ne _ _ _ h

theorem queuePush_room {s : State} {q : Nat} (v : Word) (mode : s.mbx.legacyMode = true) (room : (legacy s q).h2d.length < 16) :
    queuePush s q v = okBus (setLegacy s q { legacy s q with h2d := (legacy s q).h2d ++ [v] }) := by
  unfold queuePush
  rw [mode, if_neg (by decide)]
  exact if_neg (Nat.not_le.mpr room)

/-- No queue has overflowed: no word of a message is discarded. -/
theorem legacyDrop_of_no_overflow {s : State} (h : ∀ k, k < 8 → fbit s (Reg.MBXQ_STAT k) 0 = false) : legacyDrop s = s := by
  unfold legacyDrop
  refine List.foldlRecOn (motive := (· = s)) _ _ rfl fun t ht k hk => ?_
  subst ht
  rw [h k (List.mem_range.mp hk), Bool.and_false]
  rfl

/-- Nothing goes on where no request is queued and no queue holds a word. -/
theorem pumpN_settled {s : State} (n : Nat) (queued : s.host.queued = []) (words : ∀ k, (legacy s k).h2d = []) : pumpN n s = s := by
  cases n with
  | zero => rfl
  | succ n =>
    have hnone : ((List.finRange 8).find? fun k => legacyIdle s k.val && !(legacy s k.val).h2d.isEmpty) = none :=
      List.find?_eq_none.mpr fun k _ => by simp [words]
    unfold pumpN
    rw [queued]
    simp only [firstFree, hnone]

/-- With no request in progress, a word of the one queue that holds words goes on. -/
theorem pumpN_word {s : State} (n : Nat) (q : Fin 8) (mode : s.mbx.legacyMode = true) (queued : s.host.queued = [])
    (waiting : s.host.waiting = []) (holds : (legacy s q.val).h2d ≠ []) (others : ∀ k, k ≠ q.val → (legacy s k).h2d = []) :
    pumpN (n + 1) s = pumpN n (legacyWord s q) := by
  have hidle : legacyIdle s q.val = true := by simp [legacyIdle, mode, queued, waiting]
  have hfind : ((List.finRange 8).find? fun k => legacyIdle s k.val && !(legacy s k.val).h2d.isEmpty) = some q := by
    cases hany : (List.finRange 8).find? fun k => legacyIdle s k.val && !(legacy s k.val).h2d.isEmpty with
    | none =>
      have hmissed := List.find?_eq_none.mp hany q (List.mem_finRange q)
      simp [hidle, holds] at hmissed
    | some k =>
      have hfound := List.find?_some hany
      by_cases hk : k.val = q.val
      · rw [Fin.ext hk]
      · simp [others k.val hk] at hfound
  rw [pumpN, queued]
  simp only [firstFree, hfind]

/-- A word joins a message that has no whole header yet. -/
theorem legacyWord_joins {s : State} {q : Fin 8} {v : Word} (one : (legacy s q.val).h2d = [v])
    (short : (legacy s q.val).msg.length < 3) :
    legacyWord s q = setLegacy s q.val { legacy s q.val with h2d := [], msg := (legacy s q.val).msg ++ [v] } := by
  have hheader : ((legacy s q.val).msg ++ [v]).length < 4 := by simp; omega
  unfold legacyWord
  simp only [one]
  rw [if_pos (by rw [decide_eq_true hheader]; rfl)]

/-- A word pushed into an empty queue, with nothing else to go on, joins the message being assembled. -/
theorem pump_pushed {s t : State} {q : Fin 8} {v : Word} (ht : t = okBus (setLegacy s q.val { legacy s q.val with h2d := [v] }))
    (mode : s.mbx.legacyMode = true) (queued : s.host.queued = []) (waiting : s.host.waiting = [])
    (words : ∀ k, (legacy s k).h2d = []) (overflow : ∀ k, k < 8 → fbit s (Reg.MBXQ_STAT k) 0 = false)
    (short : (legacy s q.val).msg.length < 3) :
    pump t = setLegacy t q.val { legacy s q.val with h2d := [], msg := (legacy s q.val).msg ++ [v] } := by
  have hq : legacy t q.val = { legacy s q.val with h2d := [v] } := by rw [ht]; exact legacy_setLegacy_same _ _ _
  have hothers (k : Nat) (hk : k ≠ q.val) : (legacy t k).h2d = [] := by
    rw [ht]
    exact (congrArg Legacy.h2d (legacy_setLegacy_ne _ _ hk)).trans (words k)
  have hqueued : t.host.queued = [] := by rw [ht]; exact queued
  have hdrop : legacyDrop t = t := legacyDrop_of_no_overflow fun k hk => by rw [ht]; exact overflow k hk
  have hone : (legacy t q.val).h2d = [v] := by rw [hq]
  have hword : legacyWord t q = setLegacy t q.val { legacy s q.val with h2d := [], msg := (legacy s q.val).msg ++ [v] } := by
    rw [legacyWord_joins hone (by rw [hq]; exact short), hq]
  unfold pump
  simp only [hdrop]
  rw [hqueued]
  change pumpN (159 + 1) t = _
  rw [pumpN_word 159 q (by rw [ht]; exact mode) hqueued (by rw [ht]; exact waiting) (by simp [hone]) hothers, hword]
  refine pumpN_settled _ hqueued fun k => ?_
  by_cases hk : k = q.val
  · rw [hk, legacy_setLegacy_same]
  · rw [legacy_setLegacy_ne _ _ hk, hothers k hk]

/-- A host read of a queue that holds words takes the oldest, and words of answers follow as space allows. -/
theorem queuePop_word {s : State} {q : Nat} {v : Word} {rest : List Word} (mode : s.mbx.legacyMode = true)
    (words : (legacy s q).d2h = v :: rest) :
    queuePop s q = okBus (queueRefill (setLegacy s q { legacy s q with d2h := rest }) q) v := by
  unfold queuePop
  rw [mode, if_neg (by decide)]
  simp only [words]

/-- A queue interrupt leaves the registers and the queues. -/
theorem queueIrq_keeps (s : State) (q : Nat) (cause : Bool) : (queueIrq s q cause).regs = s.regs ∧ (queueIrq s q cause).mbx = s.mbx := by
  unfold queueIrq
  split
  case isTrue => exact ⟨rfl, rfl⟩
  case isFalse => exact ⟨rfl, rfl⟩

/-- Refilling a queue moves words of answers into it, and leaves the registers. -/
theorem queueRefill_moves (s : State) (q : Nat) : (queueRefill s q).regs = s.regs ∧
    (legacy (queueRefill s q) q).d2h = (legacy s q).d2h ++ (legacy s q).reply.take (16 - (legacy s q).d2h.length) ∧
    (legacy (queueRefill s q) q).reply = (legacy s q).reply.drop (16 - (legacy s q).d2h.length) := by
  unfold queueRefill
  extract_lets x n y
  have hlegacy (cause : Bool) : legacy (queueIrq (setLegacy s q y) q cause) q = y := by
    obtain ⟨-, hmbx⟩ := queueIrq_keeps (setLegacy s q y) q cause
    rw [legacy, hmbx]
    exact legacy_setLegacy_same s q y
  exact ⟨(queueIrq_keeps _ q _).1, congrArg Legacy.d2h (hlegacy _), congrArg Legacy.reply (hlegacy _)⟩

/-! ### The commands complete -/

section commands
variable {s : State} {port : Port} {m k : BitVec 6} {q : BitVec 3} {v : Word}

/-- MAILBOX_WRITE of a sender into an empty mailbox (R288). -/
theorem completes_mailboxWrite (h : Reaches s port (Reg.MBX_DATA m.toNat) v)
    (sender : masterId port = fld s (Reg.MBX_CFG m.toNat) 7 0) (empty : mbxFull s m.toNat = false)
    (on : receiverOff s m.toNat = false) (cell : s.flt.cellsOff.contains (MBX, m.toNat) = false) :
    Completes (.mailboxWrite port m v) s fun t =>
      rd t (Reg.MBX_DATA m.toNat) = v ∧ mbxFull t m.toNat = true ∧ t.bus.err = false ∧ t.mem = s.mem ∧
        (∀ a, a ≠ Reg.MBX_DATA m.toNat → a ≠ (mbxBit Reg.MBX_FULL_LO m.toNat).1 → rd t a = rd s a) := by
  refine completes_port_eq (f := fun s => hostWrite s port (Reg.MBX_DATA m.toNat) v) rfl
    (hostWrite_data_accepted h sender empty on cell) ?_
  obtain ⟨hregs, hmbx, herr⟩ := mbxDeliver_keeps (filledWith s m.toNat v) m.toNat v
  have hrd (a : Nat) : rd (mbxDeliver (filledWith s m.toNat v) m.toNat v) a = rd (filledWith s m.toNat v) a := by
    rw [rd, rd, hregs]
  refine ⟨(hrd _).trans (rd_filledWith_data s v m.isLt), ?_, herr, rfl,
    fun a hdata hfull => (hrd a).trans (rd_filledWith_ne s v hdata hfull)⟩
  exact (congrArg (·.full.contains m.toNat) hmbx).trans (mbxFull_setFull _ m.toNat true)

/-- MAILBOX_READ of the receiver from a full mailbox (R289). -/
theorem completes_mailboxRead (h : Readable s port (Reg.MBX_DATA m.toNat))
    (receiver : masterId port = fld s (Reg.MBX_CFG m.toNat) 15 8) (full : mbxFull s m.toNat = true) :
    Completes (.mailboxRead port m) s fun t => t.bus = { err := false, data := rd s (Reg.MBX_DATA m.toNat) } ∧
      mbxFull t m.toNat = false ∧ t.mem = s.mem ∧ (∀ a, a ≠ (mbxBit Reg.MBX_FULL_LO m.toNat).1 → rd t a = rd s a) :=
  completes_port_eq (f := fun s => portRead s port (Reg.MBX_DATA m.toNat)) rfl
    ((portRead_data h).trans (mbxRead_full receiver full))
    ⟨rfl, mbxFull_setFull s m.toNat false, rfl, fun _ ha => rd_setFull_ne s false ha⟩

/-- MAILBOX_STALL of a mailbox that is still full (R292). -/
theorem completes_mailboxStall (h : Awake s) (full : mbxFull s m.toNat = true) (fresh : s.mbx.stalled.contains m.toNat = false)
    (expired : tget (fun _ => 0) s.mbx.filled m.toNat + stallNs s m.toNat ≤ s.raw) : Completes (.mailboxStall m) s fun t =>
      fbit t (mbxBit Reg.MBX_STALL_LO m.toNat).1 (mbxBit Reg.MBX_STALL_LO m.toNat).2 = true ∧
        t.mbx.stalled.contains m.toNat = true ∧ mbxFull t m.toNat = true := by
  obtain ⟨sender, receiver, hstall⟩ := mbxStall_expired full fresh expired
  refine completes_quiet_eq (f := fun s => mbxStall s m.toNat) rfl h hstall ⟨fbit_stallRaised s m.isLt, ?_, ?_⟩
  · refine (congrArg (·.stalled.contains m.toNat) (stallRaised_mbx s m.toNat)).trans ?_
    simp
  · exact (congrArg (·.full.contains m.toNat) (stallRaised_mbx s m.toNat)).trans full

/-- LOCK_READ of a free lock (R295). -/
theorem exec_lockRead_free (h : Readable s port (Reg.MBX_LOCK k.toNat)) (free : lockOwner s k.toNat = 0) :
    exec (.lockRead port k) s = .next (okBus (setLock s k.toNat (masterId port)) (word (masterId port))) :=
  exec_port (f := fun s => portRead s port (Reg.MBX_LOCK k.toNat)) rfl ((portRead_lock h).trans (lockRead_free _ free)) rfl rfl rfl

/-- LOCK_RELEASE by the owner (R295). -/
theorem exec_lockRelease_owner (h : Reaches s port (Reg.MBX_LOCK k.toNat) 0) (owner : lockOwner s k.toNat = masterId port) :
    exec (.lockRelease port k 0) s = .next (okBus (setLock s k.toNat 0)) :=
  exec_port (f := fun s => hostWrite s port (Reg.MBX_LOCK k.toNat) 0) rfl ((hostWrite_lock h).trans (lockWrite_owner owner)) rfl rfl rfl

/-- QUEUE_PUSH of a word of a message header into an empty queue (R294, R543). -/
theorem completes_queuePush (h : Reaches s port (Reg.MBXQ_H2D q.toNat) v) (mode : s.mbx.legacyMode = true)
    (queued : s.host.queued = []) (waiting : s.host.waiting = []) (words : ∀ k, (legacy s k).h2d = [])
    (overflow : ∀ k, k < 8 → fbit s (Reg.MBXQ_STAT k) 0 = false) (short : (legacy s q.toNat).msg.length < 3) :
    Completes (.queuePush port q v) s fun t => (legacy t q.toNat).msg = (legacy s q.toNat).msg ++ [v] ∧
      (legacy t q.toNat).h2d = [] ∧ t.bus.err = false ∧ (∀ a, rd t a = rd s a) ∧ t.mem = s.mem := by
  have hpush : hostWrite s port (Reg.MBXQ_H2D q.toNat) v = okBus (setLegacy s q.toNat { legacy s q.toNat with h2d := [v] }) := by
    rw [hostWrite_h2d h, queuePush_room v mode (by simp [words]), words, List.nil_append]
  have hpump := pump_pushed (q := ⟨q.toNat, q.isLt⟩) hpush mode queued waiting words overflow short
  refine completes_run (f := fun s => pump (hostWrite s port (Reg.MBXQ_H2D q.toNat) v)) rfl (hpump.trans (by rw [hpush])) ?_
  have hlegacy := legacy_setLegacy_same (okBus (setLegacy s q.toNat { legacy s q.toNat with h2d := [v] })) q.toNat
    { legacy s q.toNat with h2d := [], msg := (legacy s q.toNat).msg ++ [v] }
  exact ⟨congrArg Legacy.msg hlegacy, congrArg Legacy.h2d hlegacy, rfl, fun _ => rfl, rfl⟩

/-- QUEUE_POP of a queue that holds words (R294). -/
theorem completes_queuePop {rest : List Word} (h : Readable s port (Reg.MBXQ_D2H q.toNat)) (mode : s.mbx.legacyMode = true)
    (words : (legacy s q.toNat).d2h = v :: rest) : Completes (.queuePop port q) s fun t => t.bus = { err := false, data := v } ∧
      (legacy t q.toNat).d2h = rest ++ (legacy s q.toNat).reply.take (16 - rest.length) ∧
      (legacy t q.toNat).reply = (legacy s q.toNat).reply.drop (16 - rest.length) ∧ (∀ a, rd t a = rd s a) ∧ t.mem = s.mem := by
  refine completes_port_eq (f := fun s => portRead s port (Reg.MBXQ_D2H q.toNat)) rfl
    ((portRead_d2h h).trans (queuePop_word mode words)) ?_
  obtain ⟨hregs, hd2h, hreply⟩ := queueRefill_moves (setLegacy s q.toNat { legacy s q.toNat with d2h := rest }) q.toNat
  rw [legacy_setLegacy_same] at hd2h hreply
  exact ⟨rfl, hd2h, hreply, fun a => congrArg (tget resetOf · a) hregs, rfl⟩

end commands

/-- Settles O28, command by command. -/
theorem mailboxCommandsComplete : Obligations.MailboxCommandsComplete := by
  unfold Obligations.MailboxCommandsComplete
  intro s h
  exact ⟨fun _ _ _ => completes_mailboxWrite,
    fun _ _ => completes_mailboxRead,
    fun _ => completes_mailboxStall h,
    fun _ _ => exec_lockRead_free,
    fun _ _ => exec_lockRelease_owner,
    fun _ _ _ => completes_queuePush,
    fun _ _ _ _ => completes_queuePop⟩

end Sys2Proof.Machine

/-! ## Local feedback and compare: their commands complete (R304-R332) -/

namespace Sys2Proof.Machine

/-! ### Writes that land in FBC -/

/-- A write that reaches a register of FBC outside its fault group takes effect in FBC. -/
theorem hostWrite_fbc {s : State} {port : Port} {a : Nat} {v : Word} {r : RegRow} {i j : Nat} (h : Reaches s port a v)
    (hr : regAt a = some (r, i, j)) (hoff : r.off < 0xF000)
    (ha : blockOf a = FBC ∧ 0x20000000 ≤ a ∧ a < 0x21000000 ∧ a % 4 = 0) : hostWrite s port a v = landFbc s a r i v := by
  obtain ⟨hb, hplace⟩ := ha
  have hgroup : ¬ (0xF000 ≤ r.off && r.off < 0xF0C0) = true := by simp; omega
  rw [write_reach h hr hplace (by rw [hb]; decide), hb]
  unfold landReg
  exact if_neg hgroup

section writes
variable {s : State} {port : Port} {v : Word}

theorem hostWrite_fbcCommit (h : Reaches s port Reg.FBC_BASTE_COMMIT v) :
    hostWrite s port Reg.FBC_BASTE_COMMIT v = landFbcCommit s v :=
  hostWrite_fbc h (r := ⟨0x4, 0x0, 1, 0x0, 1, .w1p, 0x00000000, 0x0, 0x00000001⟩) (i := 0) (j := 0) rfl (by decide) (by decide)

theorem hostWrite_encStatus {c : Fin 8} (h : Reaches s port (Reg.FBC_ENC_STATUS c.val) v) :
    hostWrite s port (Reg.FBC_ENC_STATUS c.val) v =
      landEncStatus s c.val (if cellOff s FBC c.val then v &&& ~~~1 else v) :=
  have hrow : ∀ c : Fin 8, regAt (Reg.FBC_ENC_STATUS c.val) =
      some (⟨0x128, 0x40, 8, 0x0, 1, .w1c, 0x00000000, 0x0, 0x0000003F⟩, c.val, 0) := by decide
  (hostWrite_fbc h (hrow c) (by decide) (by simp only [Reg.FBC_ENC_STATUS, blockOf, FBC]; omega)).trans rfl

theorem hostWrite_cmpCtrl {k : Fin 32} (h : Reaches s port (Reg.FBC_CMP_CTRL k.val) v) :
    hostWrite s port (Reg.FBC_CMP_CTRL k.val) v =
      landCmpCtrl s k.val (if cellOff s FBC (16 + k.val) then v &&& ~~~1 else v) :=
  have hrow : ∀ k : Fin 32, regAt (Reg.FBC_CMP_CTRL k.val) =
      some (⟨0x1028, 0x40, 32, 0x0, 1, .w1p, 0x00000000, 0x0, 0x00000003⟩, k.val, 0) := by decide
  (hostWrite_fbc h (hrow k) (by decide) (by simp only [Reg.FBC_CMP_CTRL, blockOf, FBC]; omega)).trans rfl

end writes

/-! ### Encoder channels and compare channels as they are stored -/

@[simp] theorem encoder_setEncoder_same (s : State) (c : Nat) (x : Encoder) : encoder (setEncoder s c x) c = x :=
  tget_tput_same _ _ _ _

/-- An encoder channel reads the same whatever the queue, the memories and the raw counter hold. -/
theorem encoder_frame (t : State) (p : List Instr) (m : Mem) (r c : Nat) :
    encoder { t with pending := p, mem := m, raw := r } c = encoder t c := rfl

/-- The encoder channels are part of what is kept of FBC. -/
theorem encoder_congr {s t : State} (h : t.fbc.enc = s.fbc.enc) (c : Nat) : encoder t c = encoder s c := by
  rw [encoder, encoder, h]

/-- What is kept of FBC, and an event noted, are in no register. -/
@[simp] theorem rd_setEncoder (s : State) (c : Nat) (x : Encoder) (a : Nat) : rd (setEncoder s c x) a = rd s a := rfl
@[simp] theorem rd_note (s : State) (cls index a : Nat) : rd (note s cls index) a = rd s a := by rw [note_frame]; rfl

@[simp] theorem compare_setCompare_same (s : State) (k : Nat) (x : Compare) : compare (setCompare s k x) k = x :=
  tget_tput_same _ _ _ _

/-- Storing a compare channel changes no more of FBC than the compare channels. -/
theorem setCompare_fbc (s : State) (k : Nat) (x : Compare) :
    (setCompare s k x).fbc = { s.fbc with cmp := tput (fun _ => {}) s.fbc.cmp k x } := rfl

theorem rd_setCompare_ne (s : State) {k a : Nat} (x : Compare) (hs : a ≠ Reg.FBC_CMP_STATUS k) (ha : a ≠ Reg.FBC_CMP_ARMED) :
    rd (setCompare s k x) a = rd s a :=
  (rd_setBit_ne _ _ _ ha).trans (rd_setBit_ne _ _ _ hs)

theorem cmpStatus_ne_armed (k : Nat) : Reg.FBC_CMP_STATUS k ≠ Reg.FBC_CMP_ARMED := by
  rw [Reg.FBC_CMP_STATUS, Reg.FBC_CMP_ARMED]; omega

/-- A compare channel shows whether it is armed. -/
theorem setCompare_shows (s : State) {k : Nat} (x : Compare) (hk : k < 32) :
    fbit (setCompare s k x) (Reg.FBC_CMP_STATUS k) 0 = x.armed ∧ fbit (setCompare s k x) Reg.FBC_CMP_ARMED k = x.armed := by
  refine ⟨?_, fbit_setBit _ _ _ _ hk⟩
  rw [fbit, setCompare, rd_setBit_ne _ _ _ (cmpStatus_ne_armed k)]
  exact fbit_setBit _ _ _ _ (by decide)

/-- The fields of a channel's status above its armed bit are none of the bits that storing the channel sets. -/
theorem fld_setCompare_status (s : State) (k hi lo : Nat) (x : Compare) (h : 0 < lo) :
    fld (setCompare s k x) (Reg.FBC_CMP_STATUS k) hi lo = fld s (Reg.FBC_CMP_STATUS k) hi lo := by
  rw [fld, setCompare, rd_setBit_ne _ _ _ (cmpStatus_ne_armed k)]
  exact fld_setF_ne _ _ _ _ _ _ _ (by decide) (by decide) (.inr h)

/-! ### What evaluating compare channels leaves (R320, R321) -/

theorem cmpStop_enc (s : State) (k bit ev : Nat) : (cmpStop s k bit ev).fbc.enc = s.fbc.enc := by
  rw [cmpStop, event_fbc, setBit_fbc, setCompare_fbc]

theorem takeEntry_enc (s : State) (k : Nat) : (takeEntry s k).fbc.enc = s.fbc.enc := by
  unfold takeEntry
  extract_lets rp b len t
  split
  case isTrue => exact cmpStop_enc _ _ _ _
  case isFalse =>
    split
    case h_1 => exact cmpStop_enc t _ _ _
    case h_2 => rfl

theorem schedule_enc (s : State) (k : Nat) (e : CmpEntry) (x : Int) : (schedule s k e x).fbc.enc = s.fbc.enc := by
  unfold schedule
  extract_lets t ev late c f u _ w _ v
  have hv : v.fbc.enc = s.fbc.enc := by unfold v; split <;> rfl
  split
  case isTrue => rw [event_fbc, bump_fbc, hv]
  case isFalse => exact hv

theorem afterFire_enc (s : State) (k : Nat) (e : CmpEntry) (d : Int) : (afterFire s k e d).fbc.enc = s.fbc.enc := by
  unfold afterFire
  extract_lets x
  split
  case h_1 => rfl
  case h_2 =>
    split
    case isTrue => rfl
    case isFalse => exact takeEntry_enc _ k
  case h_3 => rfl

theorem reportBehind_enc (s : State) (k : Nat) : (reportBehind s k).fbc.enc = s.fbc.enc := by
  rw [reportBehind, event_fbc, setBit_fbc, setCompare_fbc]

theorem armEntry_enc (s : State) (k : Nat) (pa x : Int) : (armEntry s k pa x).1.fbc.enc = s.fbc.enc := by
  unfold armEntry
  split
  case h_1 => rfl
  case h_2 e he =>
    split
    case isTrue => rfl
    case isFalse =>
      split
      case isTrue => exact (afterFire_enc _ k e _).trans (schedule_enc s k e x)
      case isFalse => exact reportBehind_enc s k

/-- Evaluating an interval moves no encoder channel, by induction on the entries that it may still look at. -/
theorem evalFrom_enc (k : Nat) (L T p0 q : Int) (m : Nat) :
    (∀ n s p, (evalFrom k L T p0 q m n s p).fbc.enc = s.fbc.enc) ∧
      ∀ n s pa x, (evalFrom.armRest k L T p0 q m n s pa x).fbc.enc = s.fbc.enc := by
  induction m with
  | zero => exact ⟨fun _ _ _ => by rw [evalFrom], fun _ _ _ _ => by rw [evalFrom.armRest]⟩
  | succ m ih =>
    obtain ⟨ihFrom, ihRest⟩ := ih
    refine ⟨fun n s p => ?_, fun n s pa x => ?_⟩
    · rw [evalFrom]
      split
      case h_1 => rfl
      case h_2 => split <;> rfl
      case h_3 e _ _ =>
        split
        case h_1 => rfl
        case h_2 d _ =>
          extract_lets x t
          have ht : t.fbc.enc = s.fbc.enc := (afterFire_enc _ k e d).trans (schedule_enc s k e x)
          split
          case isTrue => rfl
          case isFalse =>
            split
            case isTrue => exact ht
            case isFalse => exact (ihRest _ t _ _).trans ht
    · rw [evalFrom.armRest]
      split
      case h_1 => rfl
      case h_2 =>
        have hr := armEntry_enc s k pa x
        split
        case isTrue => rfl
        case isFalse =>
          extract_lets r
          split
          case isTrue => exact (ihRest _ _ _ _).trans hr
          case isFalse => exact (ihFrom _ _ _).trans hr

theorem evalInterval_enc (s : State) (k : Nat) (L T p q : Int) : (evalInterval s k L T p q).fbc.enc = s.fbc.enc := by
  unfold evalInterval
  extract_lets c n
  obtain ⟨hFrom, hRest⟩ := evalFrom_enc k L T p q n.1
  split
  case h_1 => exact hFrom _ s p
  case h_2 => exact hRest _ (setCompare s k { c with later := none }) p L

/-- The channels that watch a live count leave every count. -/
theorem encoder_evalLive (s : State) (ch c : Nat) : encoder (evalLive s ch) c = encoder s c := by
  refine encoder_congr ?_ c
  unfold evalLive
  extract_lets q
  refine List.foldlRecOn (motive := fun (t : State) => t.fbc.enc = s.fbc.enc) _ _ rfl fun t ht k _ => ?_
  exact (evalInterval_enc _ k _ 0 _ q).trans ht

/-! ### What the pins show (R320, R332) -/

/-- Driving the CMP_OUT pins changes what they drive and what is given out. -/
theorem drivePins_frame (s : State) (t : Nat) : ∃ d o,
    drivePins s t = { s with fbc := { s.fbc with drives := d }, out := s.out ++ o } := by
  unfold drivePins
  refine List.foldlRecOn (motive := fun (u : State) => ∃ d o,
    u = { s with fbc := { s.fbc with drives := d }, out := s.out ++ o }) _ _ ⟨s.fbc.drives, [], by simp⟩ fun u hu n _ => ?_
  obtain ⟨d, o, rfl⟩ := hu
  extract_lets v name
  split
  case isTrue => exact ⟨d, o, rfl⟩
  case isFalse => exact ⟨_, _, by rw [emit, List.append_assoc]⟩

/-- Refreshing FBC_STATUS changes this register, what the pins drive, and what is given out. -/
theorem showFbc_frame (s : State) : ∃ d o w,
    showFbc s = wr { s with fbc := { s.fbc with drives := d }, out := s.out ++ o } Reg.FBC_STATUS w := by
  obtain ⟨d, o, h⟩ := drivePins_frame s (nowNs s).toNat
  exact ⟨d, o, _, by rw [showFbc, h]⟩

theorem rd_showFbc_ne (s : State) {a : Nat} (h : a ≠ Reg.FBC_STATUS) : rd (showFbc s) a = rd s a := by
  obtain ⟨d, o, w, e⟩ := showFbc_frame s
  rw [e]
  exact rd_wr_ne _ _ h

/-- Refreshing FBC_STATUS leaves all that is kept of FBC but what the pins drive. -/
theorem showFbc_fbc (s : State) : ∃ d, (showFbc s).fbc = { s.fbc with drives := d } := by
  obtain ⟨d, o, w, e⟩ := showFbc_frame s
  exact ⟨d, by rw [e]; rfl⟩

theorem encStatus_ne_status (c : Nat) : Reg.FBC_ENC_STATUS c ≠ Reg.FBC_STATUS := by
  rw [Reg.FBC_ENC_STATUS, Reg.FBC_STATUS]; omega

/-- The state in which a channel's fault shows in its status and the axis that it feeds has lost its reference for a lost count. -/
def faultMarked (s : State) (c : Nat) (lost : Bool) : State :=
  let t := setBit s (Reg.FBC_ENC_STATUS c) 0 true
  let w := actv t (Reg.FBC_ENC_AXIS c)
  if lost && wbit w 31 then axMod t (wbits w 7 0) fun x => { x with referenced := false } else t

theorem encFault_eq (s : State) (c : Nat) (lost : Bool) : encFault s c lost = showFbc (faultMarked s c lost) := rfl

theorem faultMarked_keeps (s : State) (c : Nat) (lost : Bool) : (faultMarked s c lost).fbc = s.fbc ∧
    (faultMarked s c lost).regs = (setBit s (Reg.FBC_ENC_STATUS c) 0 true).regs := by
  unfold faultMarked
  extract_lets t w
  split <;> exact ⟨rfl, rfl⟩

/-- A channel's fault leaves every count. -/
@[simp] theorem encoder_encFault (s : State) (c : Nat) (lost : Bool) (b : Nat) : encoder (encFault s c lost) b = encoder s b := by
  obtain ⟨d, h⟩ := showFbc_fbc (faultMarked s c lost)
  exact encoder_congr (by rw [encFault_eq, h, (faultMarked_keeps s c lost).1]) b

/-- A channel's fault shows in its status and in FBC_STATUS, and in no other register. -/
theorem rd_encFault (s : State) (c : Nat) (lost : Bool) {a : Nat} (h : a ≠ Reg.FBC_STATUS) :
    rd (encFault s c lost) a = rd (setBit s (Reg.FBC_ENC_STATUS c) 0 true) a := by
  rw [encFault_eq, rd_showFbc_ne _ h, rd, (faultMarked_keeps s c lost).2, rd]

theorem rd_encFault_ne (s : State) (c : Nat) (lost : Bool) {a : Nat} (h : a ≠ Reg.FBC_STATUS) (hs : a ≠ Reg.FBC_ENC_STATUS c) :
    rd (encFault s c lost) a = rd s a :=
  (rd_encFault s c lost h).trans (rd_setBit_ne _ _ _ hs)

/-- A channel's fault leaves the other bits of its status. -/
theorem fbit_encFault (s : State) (c : Nat) (lost : Bool) {i : Nat} (h : i ≠ 0) :
    fbit (encFault s c lost) (Reg.FBC_ENC_STATUS c) i = fbit s (Reg.FBC_ENC_STATUS c) i := by
  rw [fbit, rd_encFault s c lost (encStatus_ne_status c)]
  exact fbit_setBit_ne _ _ _ _ _ (by decide) h

/-- The registers of FBC outside its fault group are none in which events report. -/
theorem fbcRegister_not_report {a : Nat} (h : 0x20800000 ≤ a ∧ a < 0x2080F000) : reportReg a = false := by
  have ho : ¬ (0xF000 ≤ a % 0x100000) := by omega
  simp [reportReg, ho, Reg.FPM_SUPPRESS_CNT, Reg.FPM_STATUS, Reg.HOST_EVQ_TAIL, Reg.HOST_EVT_LOST_CNT]
  omega

/-! ### Quadrature and step channels (R304, R306) -/

/-- A step of a quadrature channel counts by its sense. -/
theorem encoderTransition_step {s : State} {c : Nat} {a b : Bool} {d : Int} (mode : encMode s c = 1)
    (step : quadStep (encoder s c).a (encoder s c).b a b = some d) (moves : d ≠ 0) : encoderTransition s c a b =
      evalLive (setEncoder s c ({ encoder s c with a := a, b := b }.move
        (if actF s (Reg.FBC_ENC_CFG c) 16 16 = 1 then -d else d) (nowNs s))) c := by
  unfold encoderTransition
  extract_lets x y
  rw [if_neg (by rw [mode]; decide), step]
  split
  case h_1 hzero => exact absurd (Option.some.inj hzero) moves
  case h_2 e _ hd => cases hd; simp only [beq_iff_eq]; rfl
  case h_3 hnone => cases hnone

/-- The state in which a double transition has been counted and flagged. -/
def doubleCounted (s : State) (c : Nat) (a b : Bool) : State :=
  event (setBit (bump (bump (setEncoder s c { encoder s c with a := a, b := b, dts := (encoder s c).dts + 1 })
    (Reg.FBC_ENC_DT_CNT c)) Reg.FBC_DT_CNT) (Reg.FBC_ENC_STATUS c) 1 true) FBC 0 c

/-- A double transition is counted and flagged, and may put the channel in fault. -/
theorem encoderTransition_double {s : State} {c : Nat} {a b : Bool} (mode : encMode s c = 1)
    (double : quadStep (encoder s c).a (encoder s c).b a b = none) : encoderTransition s c a b = doubleCounted s c a b ∨
      encoderTransition s c a b = encFault (doubleCounted s c a b) c true := by
  unfold encoderTransition
  extract_lets x y z t u limit
  rw [if_neg (by rw [mode]; decide), double]
  simp only
  split
  case isTrue => exact .inr rfl
  case isFalse => exact .inl rfl

/-- A double transition counts in the channel, whose count stays. -/
theorem encoder_doubleCounted (s : State) (c : Nat) (a b : Bool) :
    (encoder (doubleCounted s c a b) c).count = (encoder s c).count ∧
      (encoder (doubleCounted s c a b) c).dts = (encoder s c).dts + 1 := by
  have hstored : encoder (doubleCounted s c a b) c = { encoder s c with a := a, b := b, dts := (encoder s c).dts + 1 } := by
    rw [doubleCounted, encoder, event_fbc]
    exact encoder_setEncoder_same s c _
  constructor <;> rw [hstored]

/-- A double transition counts in the channel's own counter. -/
theorem rd_doubleCounted (s : State) {c : Nat} (hc : c < 8) (a b : Bool) :
    (rd (doubleCounted s c a b) (Reg.FBC_ENC_DT_CNT c)).toNat = min ((rd s (Reg.FBC_ENC_DT_CNT c)).toNat + 1) (2 ^ 32 - 1) := by
  have hreport : reportReg (Reg.FBC_ENC_DT_CNT c) = false := fbcRegister_not_report (by rw [Reg.FBC_ENC_DT_CNT]; omega)
  rw [doubleCounted, rd_event _ _ _ _ _ hreport, rd_setBit_ne _ _ _ (by rw [Reg.FBC_ENC_DT_CNT, Reg.FBC_ENC_STATUS]; omega),
    rd_bump_ne _ _ (by rw [Reg.FBC_ENC_DT_CNT, Reg.FBC_DT_CNT]; omega), rd_bump_toNat, rd_setEncoder]

/-- A step edge counts by the direction level and the channel's sense. -/
theorem stepEdge_counts {s : State} {c : Nat} (dir : Bool) (mode : encMode s c = 3) : stepEdge s c dir =
    evalLive (setEncoder s c ((encoder s c).move
      (if dir = (actF s (Reg.FBC_ENC_CFG c) 16 16 == 1) then -1 else 1) (nowNs s))) c := by
  unfold stepEdge
  rw [if_neg (by rw [mode]; decide)]
  cases dir <;> cases actF s (Reg.FBC_ENC_CFG c) 16 16 == 1 <;> rfl

/-! ### Index pulses (R308) -/

/-- The state in which an index pulse has captured a channel's count and its time. -/
def indexCaptured (s : State) (c : Nat) : State :=
  setEncoder (note (setBit (wr (wr (wr s (Reg.FBC_ENC_IDX_LO c) (word (unsg 48 (encoder s c).count)))
    (Reg.FBC_ENC_IDX_HI c) (word (unsg 48 (encoder s c).count / 2 ^ 32))) (Reg.FBC_ENC_IDX_TS c) (word (mtime s / nsU)))
    (Reg.FBC_ENC_STATUS c) 2 true) 1 c) c { encoder s c with index := some (encoder s c).count, dir := 0, reversed := false }

/-- The state in which an index pulse has also found a count that is off. -/
def indexFailed (s : State) (c : Nat) : State :=
  encFault (event (setBit (indexCaptured s c) (Reg.FBC_ENC_STATUS c) 3 true) FBC 1 c) c true

/-- An index pulse of a channel that counts is captured, and may find the count since the last one off. -/
theorem indexEdge_captures {s : State} {c : Nat} (mode : encMode s c = 1 ∨ encMode s c = 3) :
    indexEdge s c = indexCaptured s c ∨ indexEdge s c = indexFailed s c := by
  unfold indexEdge
  extract_lets m x n t u v lines want w
  rw [if_neg (by rcases mode with e | e <;> simp [m, e])]
  have hw : w = indexCaptured s c := rfl
  split
  case h_1 => exact .inl hw
  case h_2 =>
    extract_lets diff off
    split
    case isTrue => exact .inl hw
    case isFalse => exact .inr (by rw [hw, indexFailed])

/-- A channel that has captured its count at an index pulse of s, with the time, as t shows it. -/
structure IndexShown (s t : State) (c : Nat) : Prop where
  index : (encoder t c).index = some (encoder s c).count
  low : rd t (Reg.FBC_ENC_IDX_LO c) = word (unsg 48 (encoder s c).count)
  high : rd t (Reg.FBC_ENC_IDX_HI c) = word (unsg 48 (encoder s c).count / 2 ^ 32)
  time : rd t (Reg.FBC_ENC_IDX_TS c) = word (mtime s / nsU)
  flag : fbit t (Reg.FBC_ENC_STATUS c) 2 = true

/-- The capture registers of a channel differ from each other. -/
theorem indexRegisters_ne (c : Nat) : Reg.FBC_ENC_IDX_LO c ≠ Reg.FBC_ENC_IDX_HI c ∧
    Reg.FBC_ENC_IDX_LO c ≠ Reg.FBC_ENC_IDX_TS c ∧ Reg.FBC_ENC_IDX_HI c ≠ Reg.FBC_ENC_IDX_TS c := by
  rw [Reg.FBC_ENC_IDX_LO, Reg.FBC_ENC_IDX_HI, Reg.FBC_ENC_IDX_TS]; omega

theorem indexRegisters_ne_status (c : Nat) : Reg.FBC_ENC_IDX_LO c ≠ Reg.FBC_ENC_STATUS c ∧
    Reg.FBC_ENC_IDX_HI c ≠ Reg.FBC_ENC_STATUS c ∧ Reg.FBC_ENC_IDX_TS c ≠ Reg.FBC_ENC_STATUS c := by
  rw [Reg.FBC_ENC_IDX_LO, Reg.FBC_ENC_IDX_HI, Reg.FBC_ENC_IDX_TS, Reg.FBC_ENC_STATUS]; omega

theorem indexShown_captured (s : State) (c : Nat) : IndexShown s (indexCaptured s c) c := by
  obtain ⟨hlh, hlt, hht⟩ := indexRegisters_ne c
  obtain ⟨hlo, hhi, hts⟩ := indexRegisters_ne_status c
  unfold indexCaptured
  constructor
  case index => rw [encoder_setEncoder_same]
  case low => rw [rd_setEncoder, rd_note, rd_setBit_ne _ _ _ hlo, rd_wr_ne _ _ hlt, rd_wr_ne _ _ hlh, rd_wr_same]
  case high => rw [rd_setEncoder, rd_note, rd_setBit_ne _ _ _ hhi, rd_wr_ne _ _ hht, rd_wr_same]
  case time => rw [rd_setEncoder, rd_note, rd_setBit_ne _ _ _ hts, rd_wr_same]
  case flag =>
    rw [fbit, rd_setEncoder, rd_note]
    exact fbit_setBit _ _ _ _ (by decide)

/-- A count found off shows in the channel's status alone. -/
theorem rd_indexFailed (s : State) {c a : Nat} (h : 0x20800100 ≤ a ∧ a < 0x2080F000) (hs : a ≠ Reg.FBC_ENC_STATUS c) :
    rd (indexFailed s c) a = rd (indexCaptured s c) a := by
  have hreport : reportReg a = false := fbcRegister_not_report (by omega)
  rw [indexFailed, rd_encFault_ne _ _ _ (by rw [Reg.FBC_STATUS]; omega) hs, rd_event _ _ _ _ _ hreport, rd_setBit_ne _ _ _ hs]

theorem indexShown_failed (s : State) {c : Nat} (hc : c < 8) : IndexShown s (indexFailed s c) c := by
  have hshown := indexShown_captured s c
  obtain ⟨hlo, hhi, hts⟩ := indexRegisters_ne_status c
  constructor
  case index =>
    rw [indexFailed, encoder_encFault, encoder, event_fbc]
    exact hshown.index
  case low => exact (rd_indexFailed s (by rw [Reg.FBC_ENC_IDX_LO]; omega) hlo).trans hshown.low
  case high => exact (rd_indexFailed s (by rw [Reg.FBC_ENC_IDX_HI]; omega) hhi).trans hshown.high
  case time => exact (rd_indexFailed s (by rw [Reg.FBC_ENC_IDX_TS]; omega) hts).trans hshown.time
  case flag =>
    have hreport : reportReg (Reg.FBC_ENC_STATUS c) = false := fbcRegister_not_report (by rw [Reg.FBC_ENC_STATUS]; omega)
    rw [indexFailed, fbit_encFault _ _ _ (by decide), fbit, rd_event _ _ _ _ _ hreport]
    exact (fbit_setBit_ne _ _ _ _ _ (by decide) (by decide)).trans hshown.flag

/-! ### SSI channels (R309, R310) -/

/-- The state in which a plain frame has given its position. -/
def ssiTaken (s : State) (c data n : Nat) : State :=
  let x := encoder s c
  let v : Int := (data % 2 ^ n : Nat)
  let t := setEncoder (ssiClock s c true) c { x with
    busy := false
    mono := s.raw + 1000 * actF s (Reg.FBC_ENC_SSI c) 31 26
    count := v
    latched := v
    age := min 7 x.since
    failing := false }
  wr (wr t (Reg.FBC_ENC_POS_LO c) (word (unsg 48 v))) (Reg.FBC_ENC_POS_HI c) (word (unsg 48 v / 2 ^ 32))

/-- A frame in binary without sign, parity and error bit gives its position. -/
theorem ssiEnd_plain {s : State} {c n : Nat} (data : Nat) (parity : Bool) (mode : encMode s c = 2)
    (busy : (encoder s c).busy = true) (width : n = actF s (Reg.FBC_ENC_SSI c) 5 0) (noParity : actF s (Reg.FBC_ENC_SSI c) 9 8 = 0)
    (noError : actF s (Reg.FBC_ENC_SSI c) 15 10 = 0) (binary : actF s (Reg.FBC_ENC_SSI c) 6 6 = 0)
    (unsigned : actF s (Reg.FBC_ENC_SSI c) 7 7 = 0) : ssiEnd s c data parity = ssiTaken s c data n := by
  subst width
  rw [actF] at noParity noError binary unsigned
  simp [ssiEnd, ssiTaken, mode, busy, noParity, noError, wbit_eq_wbits, binary, unsigned, actF]

theorem encoder_ssiTaken (s : State) (c data n : Nat) : (encoder (ssiTaken s c data n) c).count = (data % 2 ^ n : Nat) ∧
    (encoder (ssiTaken s c data n) c).busy = false ∧ (encoder (ssiTaken s c data n) c).age = min 7 (encoder s c).since := by
  unfold ssiTaken
  extract_lets x v t
  have ht : encoder t c = _ := encoder_setEncoder_same (ssiClock s c true) c _
  exact ⟨congrArg Encoder.count ht, congrArg Encoder.busy ht, congrArg Encoder.age ht⟩

/-! ### Clearing a fault (R311) -/

/-- A write of fault clears it where its cause has cleared. -/
theorem landEncStatus_cleared {s : State} {c : Nat} (cleared : encCause s c = false) : landEncStatus s c 1 =
    okBus (showFbc (wr s (Reg.FBC_ENC_STATUS c) (rd s (Reg.FBC_ENC_STATUS c) &&& ~~~1))) := by
  unfold landEncStatus
  rw [if_neg (by rw [cleared]; decide)]

/-! ### The commands of the encoder channels complete -/

section encoders
variable {s : State} {c : Fin 8} {a b : Bool} {port : Port} {v : Word}

/-- ENCODER_TRANSITION of a single step (R304). -/
theorem completes_encoderTransition_step {d : Int} (h : Awake s) (mode : encMode s c = 1)
    (step : quadStep (encoder s c).a (encoder s c).b a b = some d) (moves : d ≠ 0) :
    Completes (.encoderTransition c a b) s fun t => (encoder t c).a = a ∧ (encoder t c).b = b ∧
      (encoder t c).count =
        sgn 48 (unsg 48 ((encoder s c).count + if actF s (Reg.FBC_ENC_CFG c) 16 16 = 1 then -d else d)) := by
  refine completes_quiet_eq (f := fun s => Machine.encoderTransition s c a b) rfl h
    (encoderTransition_step mode step moves) ?_
  have hmoved := (encoder_evalLive _ c c).trans (encoder_setEncoder_same s c
    ({ encoder s c with a := a, b := b }.move (if actF s (Reg.FBC_ENC_CFG c) 16 16 = 1 then -d else d) (nowNs s)))
  exact ⟨congrArg Encoder.a hmoved, congrArg Encoder.b hmoved, congrArg Encoder.count hmoved⟩

/-- ENCODER_TRANSITION of a double transition (R304). -/
theorem completes_encoderTransition_double (h : Awake s) (mode : encMode s c = 1)
    (double : quadStep (encoder s c).a (encoder s c).b a b = none) :
    Completes (.encoderTransition c a b) s fun t => (encoder t c).count = (encoder s c).count ∧
      (encoder t c).dts = (encoder s c).dts + 1 ∧
      (rd t (Reg.FBC_ENC_DT_CNT c)).toNat = min ((rd s (Reg.FBC_ENC_DT_CNT c)).toNat + 1) (2 ^ 32 - 1) := by
  obtain ⟨hstays, hdts⟩ := encoder_doubleCounted s c a b
  have hcount := rd_doubleCounted s c.isLt a b
  obtain hplain | hfault := encoderTransition_double mode double
  · exact completes_quiet_eq (f := fun s => Machine.encoderTransition s c a b) rfl h hplain
      ⟨hstays, hdts, hcount⟩
  · refine completes_quiet_eq (f := fun s => Machine.encoderTransition s c a b) rfl h hfault ?_
    have hkept := encoder_encFault (doubleCounted s c a b) c true c
    have hrd : rd (encFault (doubleCounted s c a b) c true) (Reg.FBC_ENC_DT_CNT c) =
        rd (doubleCounted s c a b) (Reg.FBC_ENC_DT_CNT c) :=
      rd_encFault_ne _ _ _ (by rw [Reg.FBC_ENC_DT_CNT, Reg.FBC_STATUS]; omega)
        (by rw [Reg.FBC_ENC_DT_CNT, Reg.FBC_ENC_STATUS]; omega)
    rw [encoder_frame, hkept, rd_frame, hrd]
    exact ⟨hstays, hdts, hcount⟩

/-- STEP_EDGE (R306). -/
theorem completes_stepEdge {dir : Bool} (h : Awake s) (mode : encMode s c = 3) : Completes (.stepEdge c dir) s fun t =>
    (encoder t c).count = sgn 48 (unsg 48
      ((encoder s c).count + if dir = (actF s (Reg.FBC_ENC_CFG c) 16 16 == 1) then -1 else 1)) := by
  refine completes_quiet_eq (f := fun s => Machine.stepEdge s c dir) rfl h (stepEdge_counts dir mode) ?_
  exact congrArg Encoder.count ((encoder_evalLive _ c c).trans (encoder_setEncoder_same s c _))

/-- INDEX_EDGE (R308). -/
theorem completes_indexEdge (h : Awake s) (mode : encMode s c = 1 ∨ encMode s c = 3) : Completes (.indexEdge c) s fun t =>
    (encoder t c).index = some (encoder s c).count ∧ rd t (Reg.FBC_ENC_IDX_LO c) = word (unsg 48 (encoder s c).count) ∧
      rd t (Reg.FBC_ENC_IDX_HI c) = word (unsg 48 (encoder s c).count / 2 ^ 32) ∧
      rd t (Reg.FBC_ENC_IDX_TS c) = word (mtime s / nsU) ∧ fbit t (Reg.FBC_ENC_STATUS c) 2 = true := by
  have hshown : IndexShown s (indexEdge s c) c := by
    obtain hplain | hfailed := indexEdge_captures mode
    · rw [hplain]; exact indexShown_captured s c
    · rw [hfailed]; exact indexShown_failed s c.isLt
  obtain ⟨hindex, hlow, hhigh, htime, hflag⟩ := hshown
  exact completes_quiet (f := fun s => Machine.indexEdge s c) rfl h ⟨hindex, hlow, hhigh, htime, hflag⟩

/-- SSI_TRANSFER_END of a plain frame (R310). -/
theorem completes_ssiTransferEnd {data : Long} {parity : Bool} {n : Nat} (h : Awake s) (mode : encMode s c = 2)
    (busy : (encoder s c).busy = true) (width : n = actF s (Reg.FBC_ENC_SSI c) 5 0)
    (noParity : actF s (Reg.FBC_ENC_SSI c) 9 8 = 0) (noError : actF s (Reg.FBC_ENC_SSI c) 15 10 = 0)
    (binary : actF s (Reg.FBC_ENC_SSI c) 6 6 = 0) (unsigned : actF s (Reg.FBC_ENC_SSI c) 7 7 = 0) :
    Completes (.ssiTransferEnd c data parity) s fun t => (encoder t c).count = (data.toNat % 2 ^ n : Nat) ∧
      (encoder t c).busy = false ∧ (encoder t c).age = min 7 (encoder s c).since :=
  completes_quiet_eq (f := fun s => ssiEnd s c data.toNat parity) rfl h
    (ssiEnd_plain data.toNat parity mode busy width noParity noError binary unsigned) (encoder_ssiTaken s c data.toNat n)

/-- ENC_FAULT_CLEAR of a fault whose cause has cleared (R311). -/
theorem completes_encFaultClear (h : Reaches s port (Reg.FBC_ENC_STATUS c) 1) (cell : cellOff s FBC c = false)
    (cleared : encCause s c = false) : Completes (.encFaultClear port c) s fun t =>
      rd t (Reg.FBC_ENC_STATUS c) = rd s (Reg.FBC_ENC_STATUS c) &&& ~~~1 ∧ t.bus.err = false ∧ t.mem = s.mem := by
  have hland : hostWrite s port (Reg.FBC_ENC_STATUS c) 1 = okBus (showFbc
      (wr s (Reg.FBC_ENC_STATUS c) (rd s (Reg.FBC_ENC_STATUS c) &&& ~~~1))) := by
    rw [hostWrite_encStatus h, if_neg (by rw [cell]; decide), landEncStatus_cleared cleared]
  refine completes_port_eq (f := fun s => hostWrite s port (Reg.FBC_ENC_STATUS c) 1) rfl hland ⟨?_, rfl, rfl⟩
  rw [rd_frame, rd_okBus, rd_showFbc_ne _ (encStatus_ne_status c), rd_wr_same]

/-- FBC_COMMIT that is not refused (R332). -/
theorem exec_fbcCommit_passed (h : Reaches s port Reg.FBC_BASTE_COMMIT v) (commit : wbit v 0 = true) (passed : fbcResult s = 1) :
    exec (.fbcCommit port v) s = .next (okBus (setBit s Reg.FBC_BASTE_STATUS 0 true)) := by
  have hland : landFbcCommit s v = okBus (setBit s Reg.FBC_BASTE_STATUS 0 true) := by
    rw [landFbcCommit, commit, passed]; rfl
  exact exec_port (f := fun s => hostWrite s port Reg.FBC_BASTE_COMMIT v) rfl ((hostWrite_fbcCommit h).trans hland) rfl rfl rfl

end encoders

/-- Settles O29, command by command. -/
theorem feedbackCommandsComplete : Obligations.FeedbackCommandsComplete := by
  unfold Obligations.FeedbackCommandsComplete
  intro s h c
  exact ⟨fun _ _ _ => completes_encoderTransition_step h,
    fun _ _ => completes_encoderTransition_double h,
    fun _ => completes_stepEdge h,
    completes_indexEdge h,
    fun _ _ _ => completes_ssiTransferEnd h,
    fun _ => completes_encFaultClear,
    fun _ _ => exec_fbcCommit_passed⟩

end Sys2Proof.Machine

/-! ## Position compare: its commands complete (R320-R327) -/

namespace Sys2Proof.Machine

/-- A counter field counts up and stays at all ones (R568). -/
theorem fld_bumpF (s : State) (a hi lo n : Nat) (h : lo ≤ hi) (h2 : hi < 32) :
    fld (bumpF s a hi lo n) a hi lo = min (fld s a hi lo + n) (2 ^ (hi + 1 - lo) - 1) := by
  have hpos := Nat.two_pow_pos (hi + 1 - lo)
  rw [bumpF, fld_setF _ _ _ _ _ h h2]
  exact Nat.mod_eq_of_lt (by omega)

/-- An event noted at some time leaves the registers and what is kept of FBC. -/
theorem noteAt_keeps (s : State) (cls index : Nat) (ns : Int) (approx : Bool) :
    (noteAt s cls index ns approx).regs = s.regs ∧ (noteAt s cls index ns approx).fbc = s.fbc := by
  unfold noteAt
  split <;> exact ⟨rfl, rfl⟩

/-! ### Pins (R320, R324) -/

/-- The pins commanded active when a pin is given a level: it is listed or taken off the list. -/
theorem contains_setPin (ps : List Nat) (pin p : Nat) (now : Bool) :
    (if now then ps ++ [pin] else ps.filter (· != pin)).contains p = if p = pin then now else ps.contains p := by
  cases now <;> by_cases hp : p = pin <;> simp [hp]

/-- From s to t a pin has been given a level: no other pin, and no action scheduled, is touched, and of the registers only
FBC_STATUS, the count of deferred edges and those in which events report. -/
structure PinGiven (s t : State) (pin : Nat) (level : Bool) : Prop where
  level : t.fbc.pins.contains pin = level
  others : ∀ p, p ≠ pin → t.fbc.pins.contains p = s.fbc.pins.contains p
  fires : t.fbc.fires = s.fbc.fires
  pulses : t.fbc.pulses = s.fbc.pulses
  regs : ∀ a, a ≠ Reg.FBC_STATUS → a ≠ Reg.FBC_CMP_DEFER_CNT → reportReg a = false → rd t a = rd s a

/-- The state in which an edge that comes too early has been counted and reported (R324). -/
def edgeNoted (s : State) (chan pin : Nat) (early : Bool) : State :=
  if early then event (bump s Reg.FBC_CMP_DEFER_CNT) FBC 6 chan pin else s

theorem edgeNoted_keeps (s : State) (chan pin : Nat) (early : Bool) : (edgeNoted s chan pin early).fbc = s.fbc ∧
    ∀ a, a ≠ Reg.FBC_CMP_DEFER_CNT → reportReg a = false → rd (edgeNoted s chan pin early) a = rd s a := by
  unfold edgeNoted
  split
  case isTrue => exact ⟨by rw [event_fbc, bump_fbc], fun a ha hr => by rw [rd_event _ _ _ _ _ hr, rd_bump_ne _ _ ha]⟩
  case isFalse => exact ⟨rfl, fun _ _ _ => rfl⟩

/-- An edge of a pin gives it the level that its action asks for. -/
theorem pinEdge_gives (s : State) (chan pin : Nat) (t : Int) (f : Bool → Bool) :
    PinGiven s (pinEdge s chan pin t f) pin (f (s.fbc.pins.contains pin)) := by
  unfold pinEdge
  extract_lets prev early t' u was now ps _ v
  obtain ⟨hfbc, hregs⟩ := edgeNoted_keeps s chan pin (decide early)
  have hu : u = edgeNoted s chan pin (decide early) := by simp only [u, edgeNoted, decide_eq_true_eq]
  rw [← hu] at hfbc hregs
  have hnow : now = f (s.fbc.pins.contains pin) := by simp only [now, was, hfbc]
  split
  case isTrue same =>
    have hwas : s.fbc.pins.contains pin = now := by rw [← hfbc]; exact beq_iff_eq.mp same
    exact ⟨by rw [hfbc]; exact hwas.trans hnow, fun p _ => by rw [hfbc], by rw [hfbc], by rw [hfbc],
      fun a _ hd hr => hregs a hd hr⟩
  case isFalse =>
    obtain ⟨d, o, e⟩ := drivePins_frame v t'.toNat
    obtain ⟨d', hshow⟩ := showFbc_fbc (drivePins v t'.toNat)
    have hpins (p : Nat) : (showFbc (drivePins v t'.toNat)).fbc.pins.contains p =
        if p = pin then now else s.fbc.pins.contains p := by
      rw [hshow, e, ← hfbc]
      exact contains_setPin u.fbc.pins pin p now
    refine ⟨by rw [hpins, if_pos rfl, hnow], fun p hp => by rw [hpins, if_neg hp], ?_, ?_, fun a hs hd hr => ?_⟩
    · rw [hshow, e, ← hfbc]
    · rw [hshow, e, ← hfbc]
    · rw [rd_showFbc_ne _ hs, e]
      exact hregs a hd hr

/-! ### Fires (R320, R330) -/

/-- The level that an action gives its pin: 1 clears, 2 toggles, 0 and 3 set. -/
def actionLevel (action : Nat) (was : Bool) : Bool :=
  match action with
  | 1 => false
  | 2 => !was
  | _ => true

/-- The state in which a fire has left the schedule and has acted on its pin. -/
def pinFired (s : State) (k : Nat) (f : Fire) : State :=
  pinEdge { s with fbc := { s.fbc with fires := s.fbc.fires.filter (· != f) } } k f.pin f.time (actionLevel f.action)

/-- A fire acts on its pin alone, and leaves the status of its channel. -/
theorem pinFired_acts (s : State) (k : Nat) (f : Fire) : (pinFired s k f).fbc.fires = s.fbc.fires.filter (· != f) ∧
    (pinFired s k f).fbc.pins.contains f.pin = actionLevel f.action (s.fbc.pins.contains f.pin) ∧
    (∀ p, p ≠ f.pin → (pinFired s k f).fbc.pins.contains p = s.fbc.pins.contains p) ∧
    (pinFired s k f).fbc.pulses = s.fbc.pulses ∧
    (k < 32 → rd (pinFired s k f) (Reg.FBC_CMP_STATUS k) = rd s (Reg.FBC_CMP_STATUS k)) := by
  obtain ⟨hlevel, hothers, hfires, hpulses, hregs⟩ := pinEdge_gives
    { s with fbc := { s.fbc with fires := s.fbc.fires.filter (· != f) } } k f.pin f.time (actionLevel f.action)
  refine ⟨hfires, hlevel, hothers, hpulses, fun hk => hregs _ ?_ ?_ (fbcRegister_not_report ?_)⟩
  · rw [Reg.FBC_CMP_STATUS, Reg.FBC_STATUS]; omega
  · rw [Reg.FBC_CMP_STATUS, Reg.FBC_CMP_DEFER_CNT]; omega
  · rw [Reg.FBC_CMP_STATUS]; omega

/-- The state in which the trailing edge of a fire that is a pulse is due. -/
def trailDue (s : State) (f : Fire) : State :=
  if f.action == 3 then
    { s with fbc := { s.fbc with pulses := s.fbc.pulses ++ [{ f with time := f.time + 10 * (f.width : Int) }] } }
  else s

/-- The state in which a fire has been stamped, counted, sent as a cross-trigger and noted. -/
def fireNoted (s : State) (k : Nat) (f : Fire) : State :=
  let s := wr s (Reg.FBC_CMP_LAST_TS k) (word (f.time.toNat % 1000000000))
  let s := if cmpMode s k == 2 then wr s (Reg.FBC_CMP_LAST_ID k) f.id else s
  let s := bumpF s (Reg.FBC_CMP_STATUS k) 31 16
  let s :=
    match f.xt with
    | none => s
    | some b => stampXt s b f.time
  noteAt s 0 k (f.time - latchNs s)

/-- The state in which a channel with neither an entry nor a fire left has disarmed. -/
def disarmedIfDone (s : State) (k : Nat) : State :=
  let c := compare s k
  if c.armed && c.entry.isNone && !(s.fbc.fires.any (·.chan == k)) then
    setBit (setCompare s k { c with armed := false, back := none, later := none }) (Reg.FBC_CMP_STATUS k) 2 true
  else s

/-- A fire whose time has come acts on its pin, is noted, and may be the last of its channel. -/
theorem compareFire_due {s : State} {k : Nat} {f : Fire} (first : earliest (s.fbc.fires.filter (·.chan == k)) = some f)
    (due : actionDue s f false = true) :
    compareFire s k = disarmedIfDone (fireNoted (trailDue (pinFired s k f) f) k f) k := by
  unfold compareFire
  rw [first]
  simp only [due, Bool.not_true, Bool.false_eq_true, if_false]
  rfl

theorem trailDue_fbc (s : State) (f : Fire) : (trailDue s f).fbc = { s.fbc with
    pulses := if f.action = 3 then s.fbc.pulses ++ [{ f with time := f.time + 10 * (f.width : Int) }] else s.fbc.pulses } := by
  unfold trailDue
  by_cases h : f.action = 3 <;> simp [h]

@[simp] theorem rd_trailDue (s : State) (f : Fire) (a : Nat) : rd (trailDue s f) a = rd s a := by
  unfold trailDue
  split <;> rfl

/-- A cross-trigger is part of the ring's record. -/
theorem stampXt_keeps (s : State) (b : Nat) (t : Int) : (stampXt s b t).fbc = s.fbc ∧ (stampXt s b t).regs = s.regs := ⟨rfl, rfl⟩

/-- What noting a fire does to the registers of its channel and leaves of FBC. -/
theorem fireNoted_shows (s : State) (k : Nat) (f : Fire) : (fireNoted s k f).fbc = s.fbc ∧
    rd (fireNoted s k f) (Reg.FBC_CMP_LAST_TS k) = word (f.time.toNat % 1000000000) ∧
    fld (fireNoted s k f) (Reg.FBC_CMP_STATUS k) 31 16 = min (fld s (Reg.FBC_CMP_STATUS k) 31 16 + 1) 65535 := by
  have hts : Reg.FBC_CMP_LAST_TS k ≠ Reg.FBC_CMP_STATUS k := by rw [Reg.FBC_CMP_LAST_TS, Reg.FBC_CMP_STATUS]; omega
  have hid : Reg.FBC_CMP_LAST_TS k ≠ Reg.FBC_CMP_LAST_ID k := by rw [Reg.FBC_CMP_LAST_TS, Reg.FBC_CMP_LAST_ID]; omega
  have hstatus : Reg.FBC_CMP_STATUS k ≠ Reg.FBC_CMP_LAST_ID k := by rw [Reg.FBC_CMP_STATUS, Reg.FBC_CMP_LAST_ID]; omega
  unfold fireNoted
  extract_lets t u v w
  have hu : u.fbc = s.fbc ∧ rd u (Reg.FBC_CMP_LAST_TS k) = rd t (Reg.FBC_CMP_LAST_TS k) ∧
      rd u (Reg.FBC_CMP_STATUS k) = rd t (Reg.FBC_CMP_STATUS k) := by
    unfold u
    split
    case isTrue => exact ⟨rfl, rd_wr_ne _ _ hid, rd_wr_ne _ _ hstatus⟩
    case isFalse => exact ⟨rfl, rfl, rfl⟩
  have hw : w.fbc = v.fbc ∧ w.regs = v.regs := by
    unfold w
    split
    case h_1 => exact ⟨rfl, rfl⟩
    case h_2 b _ => exact stampXt_keeps v b f.time
  obtain ⟨hufbc, huts, hustatus⟩ := hu
  obtain ⟨hwfbc, hwregs⟩ := hw
  obtain ⟨hregs, hfbc⟩ := noteAt_keeps w 0 k (f.time - latchNs w) false
  have hrd (a : Nat) : rd (noteAt w 0 k (f.time - latchNs w)) a = rd v a := by rw [rd, rd, hregs, hwregs]
  refine ⟨?_, ?_, ?_⟩
  · rw [hfbc, hwfbc, bumpF_fbc, hufbc]
  · rw [hrd, rd_bumpF_ne _ _ _ _ hts, huts, rd_wr_same]
  · rw [fld, hrd, ← fld, fld_bumpF u _ 31 16 1 (by decide) (by decide), fld, hustatus, rd_wr_ne _ _ hts.symm]
    rfl

/-- Disarming a channel leaves the schedule, the pins, the time of the last fire and the count of fires. -/
theorem disarmedIfDone_keeps (s : State) (k : Nat) : (∃ c, (disarmedIfDone s k).fbc = { s.fbc with cmp := c }) ∧
    rd (disarmedIfDone s k) (Reg.FBC_CMP_LAST_TS k) = rd s (Reg.FBC_CMP_LAST_TS k) ∧
    fld (disarmedIfDone s k) (Reg.FBC_CMP_STATUS k) 31 16 = fld s (Reg.FBC_CMP_STATUS k) 31 16 := by
  have hts : Reg.FBC_CMP_LAST_TS k ≠ Reg.FBC_CMP_STATUS k := by rw [Reg.FBC_CMP_LAST_TS, Reg.FBC_CMP_STATUS]; omega
  have harmed : Reg.FBC_CMP_LAST_TS k ≠ Reg.FBC_CMP_ARMED := by rw [Reg.FBC_CMP_LAST_TS, Reg.FBC_CMP_ARMED]; omega
  unfold disarmedIfDone
  extract_lets c
  split
  case isTrue =>
    refine ⟨⟨_, rfl⟩, ?_, ?_⟩
    · rw [rd_setBit_ne _ _ _ hts, rd_setCompare_ne _ _ hts harmed]
    · rw [fld_setBit_ne _ _ _ _ _ _ (by decide) (by decide), fld_setCompare_status _ _ _ _ _ (by decide)]
  case isFalse => exact ⟨⟨_, rfl⟩, rfl, rfl⟩

/-! ### Arming and disarming (R327) -/

theorem landCmpCtrl_arm (s : State) (k : Nat) : landCmpCtrl s k 1 = okBus (setBit s (Reg.FBC_CMP_STATUS k) 1 true) := rfl

/-- A compare channel without its entry. -/
def Compare.disarm (x : Compare) : Compare := { x with armed := false, entry := none, back := none, later := none }

/-- The state in which a channel is disarmed and its fires are cancelled. -/
def disarmed (s : State) (k : Nat) : State :=
  let t := setCompare s k (compare s k).disarm
  { t with fbc := { t.fbc with fires := t.fbc.fires.filter (·.chan != k) } }

theorem landCmpCtrl_disarm (s : State) (k : Nat) : landCmpCtrl s k 2 = okBus (disarmed s k) := rfl

/-- A channel out of operation can be disarmed all the same. -/
theorem hostWrite_cmpCtrl_disarm {s : State} {port : Port} {k : Fin 32} (h : Reaches s port (Reg.FBC_CMP_CTRL k.val) 2) :
    hostWrite s port (Reg.FBC_CMP_CTRL k.val) 2 = okBus (disarmed s k) := by
  have hmasked : (2 &&& ~~~1 : Word) = 2 := by decide
  rw [hostWrite_cmpCtrl h, hmasked, ite_self, landCmpCtrl_disarm]

/-! ### The commands of the compare channels complete -/

section compares
variable {s : State} {k : Fin 32} {f : Fire} {port : Port}

/-- COMPARE_FIRE (R320). -/
theorem completes_compareFire (h : Awake s) (first : earliest (s.fbc.fires.filter (·.chan == k.val)) = some f)
    (due : actionDue s f false = true) : Completes (.compareFire k) s fun t =>
      t.fbc.fires = s.fbc.fires.filter (· != f) ∧ rd t (Reg.FBC_CMP_LAST_TS k) = word (f.time.toNat % 1000000000) ∧
        fld t (Reg.FBC_CMP_STATUS k) 31 16 = min (fld s (Reg.FBC_CMP_STATUS k) 31 16 + 1) 65535 ∧
        t.fbc.pins.contains f.pin = (match f.action with
          | 1 => false
          | 2 => !s.fbc.pins.contains f.pin
          | _ => true) ∧ (∀ p, p ≠ f.pin → t.fbc.pins.contains p = s.fbc.pins.contains p) ∧
        t.fbc.pulses = (if f.action = 3 then s.fbc.pulses ++ [{ f with time := f.time + 10 * (f.width : Int) }] else s.fbc.pulses) ∧
        t.mem = s.mem := by
  refine completes_quiet_eq (f := fun s => Machine.compareFire s k) rfl h (compareFire_due first due) ?_
  obtain ⟨hfires, hlevel, hothers, hpulses, hkept⟩ := pinFired_acts s k f
  obtain ⟨hnoted, hts, hcount⟩ := fireNoted_shows (trailDue (pinFired s k f) f) k f
  obtain ⟨⟨c, hdone⟩, htsKept, hcountKept⟩ := disarmedIfDone_keeps (fireNoted (trailDue (pinFired s k f) f) k f) k
  have hstatus : fld (trailDue (pinFired s k f) f) (Reg.FBC_CMP_STATUS k) 31 16 = fld s (Reg.FBC_CMP_STATUS k) 31 16 := by
    rw [fld, rd_trailDue, hkept k.isLt, fld]
  rw [rd_frame, fld_frame, htsKept, hcountKept, hts, hcount, hstatus]
  simp only [hdone, hnoted, trailDue_fbc, hpulses, true_and, and_true]
  exact ⟨hfires, hlevel, hothers⟩

/-- PULSE_END (R320). -/
theorem completes_pulseEnd (h : Awake s) (first : earliest (s.fbc.pulses.filter (·.chan == k.val)) = some f)
    (due : actionDue s f true = true) : Completes (.pulseEnd k) s fun t =>
      t.fbc.pulses = s.fbc.pulses.filter (· != f) ∧ t.fbc.pins.contains f.pin = false ∧
        (∀ p, p ≠ f.pin → t.fbc.pins.contains p = s.fbc.pins.contains p) ∧ t.mem = s.mem := by
  have hdue : Machine.pulseEnd s k = pinEdge { s with fbc := { s.fbc with pulses := s.fbc.pulses.filter (· != f) } } k
      f.pin f.time fun _ => false := by
    unfold Machine.pulseEnd
    rw [first]
    simp only [due, Bool.not_true, Bool.false_eq_true, if_false]
  obtain ⟨hlevel, hothers, -, hpulses, -⟩ := pinEdge_gives
    { s with fbc := { s.fbc with pulses := s.fbc.pulses.filter (· != f) } } k f.pin f.time fun _ => false
  exact completes_quiet_eq (f := fun s => Machine.pulseEnd s k) rfl h hdue ⟨hpulses, hlevel, hothers, rfl⟩

/-- COMPARE_ARM stands pending for the latch instant (R327). -/
theorem exec_compareArm_pending (h : Reaches s port (Reg.FBC_CMP_CTRL k) 1) (cell : cellOff s FBC (16 + k.val) = false) :
    exec (.compareArm port k) s = .next (okBus (setBit s (Reg.FBC_CMP_STATUS k) 1 true)) := by
  have hland : hostWrite s port (Reg.FBC_CMP_CTRL k) 1 = okBus (setBit s (Reg.FBC_CMP_STATUS k) 1 true) := by
    rw [hostWrite_cmpCtrl h, if_neg (by rw [cell]; decide), landCmpCtrl_arm]
  exact exec_port (f := fun s => hostWrite s port (Reg.FBC_CMP_CTRL k) 1) rfl hland rfl rfl rfl

/-- COMPARE_DISARM (R327). -/
theorem completes_compareDisarm (h : Reaches s port (Reg.FBC_CMP_CTRL k) 2) : Completes (.compareDisarm port k) s fun t =>
    (compare t k).armed = false ∧ (compare t k).entry = none ∧ t.fbc.fires = s.fbc.fires.filter (·.chan != k.val) ∧
      fbit t (Reg.FBC_CMP_STATUS k) 0 = false ∧ fbit t Reg.FBC_CMP_ARMED k = false := by
  refine completes_port_eq (f := fun s => hostWrite s port (Reg.FBC_CMP_CTRL k) 2) rfl (hostWrite_cmpCtrl_disarm h) ?_
  have hstored := compare_setCompare_same s k (compare s k).disarm
  obtain ⟨hstatus, harmed⟩ := setCompare_shows s (compare s k).disarm k.isLt
  exact ⟨congrArg Compare.armed hstored, congrArg Compare.entry hstored, rfl, hstatus, harmed⟩

end compares

/-- Settles O30, command by command. -/
theorem compareCommandsComplete : Obligations.CompareCommandsComplete := by
  unfold Obligations.CompareCommandsComplete
  intro s h k
  exact ⟨fun _ => completes_compareFire h,
    fun _ => completes_pulseEnd h,
    fun _ => exec_compareArm_pending,
    fun _ => completes_compareDisarm⟩

end Sys2Proof.Machine

/-! ## Spools: their commands complete (R335-R349, R470) -/

namespace Sys2Proof.Machine

/-! ### Bytes that are written and read back -/

theorem length_leBytes (n x : Nat) : (leBytes n x).length = n := by
  induction n generalizing x with
  | zero => rfl
  | succ n ih => simp only [leBytes, List.length_cons, ih]

theorem length_flatMap_leBytes (n : Nat) (vals : List Word) : (vals.flatMap fun v => leBytes n v.toNat).length = n * vals.length := by
  induction vals with
  | nil => rfl
  | cons v vals ih => rw [List.flatMap_cons, List.length_append, length_leBytes, ih, List.length_cons, Nat.mul_succ, Nat.add_comm]

theorem reads_writes (m : Mem) (r : Region) (a : Nat) (bs : List Byte) : (m.writes r a bs).reads r a bs.length = bs := by
  induction bs generalizing m a with
  | nil => rfl
  | cons x xs ih =>
    have hfirst : (m.writes r a (x :: xs)).read r a = x :=
      read_writes_in m r a 0 (x :: xs) (by simp)
    rw [List.length_cons, Mem.reads, hfirst]
    exact congrArg _ (ih (m.write r a x) (a + 1))

/-- A memory reads the same whatever the queue holds. -/
theorem readMem_queue (t : State) (p : List Instr) (r : Region) (a n : Nat) :
    readMem { t with pending := p } r a n = readMem t r a n := (rfl)

/-! ### Spools as they are stored and shown -/

@[simp] theorem spool_setSpool_same (s : State) (i : Nat) (x : Spool) : spool (setSpool s i x) i = x := tget_tput_same _ _ _ _

theorem spool_setSpool_ne (s : State) {i k : Nat} (x : Spool) (h : k ≠ i) : spool (setSpool s i x) k = spool s k :=
  tget_tput_ne _ _ _ h

/-- The spools are part of what is kept of ACQ. -/
theorem spool_congr {s t : State} (h : t.acq = s.acq) (k : Nat) : spool t k = spool s k := by rw [spool, spool, h]

/-- A spool reads the same whatever the queue, the memories and the raw counter hold, and however an access is answered. -/
@[simp] theorem spool_frame (t : State) (p : List Instr) (m : Mem) (r k : Nat) :
    spool { t with pending := p, mem := m, raw := r } k = spool t k := (rfl)
@[simp] theorem spool_queue (t : State) (p : List Instr) (k : Nat) : spool { t with pending := p } k = spool t k := (rfl)
@[simp] theorem spool_okBus (s : State) (data : Word) (k : Nat) : spool (okBus s data) k = spool s k := (rfl)

@[simp] theorem setSpool_mem (s : State) (i : Nat) (x : Spool) : (setSpool s i x).mem = s.mem := (rfl)
@[simp] theorem rd_setSpool (s : State) (i : Nat) (x : Spool) (a : Nat) : rd (setSpool s i x) a = rd s a := (rfl)

@[simp] theorem putSpool_acq (s : State) (i : Nat) (x : Spool) : (putSpool s i x).acq = (setSpool s i x).acq := by
  simp only [putSpool, showSpool, setBit_acq, setF_acq]
@[simp] theorem putSpool_mem (s : State) (i : Nat) (x : Spool) : (putSpool s i x).mem = s.mem := by
  simp only [putSpool, showSpool, setBit_mem, setF_mem, setSpool_mem]

@[simp] theorem spool_putSpool_same (s : State) (i : Nat) (x : Spool) : spool (putSpool s i x) i = x :=
  (spool_congr (putSpool_acq s i x) i).trans (spool_setSpool_same s i x)

theorem rd_putSpool_ne (s : State) {i a : Nat} (x : Spool) (h : a ≠ Reg.ACQ_SP_STATE i) : rd (putSpool s i x) a = rd s a := by
  simp only [putSpool, showSpool, rd_setBit_ne _ _ _ h, rd_setF_ne _ _ _ _ h, rd_setSpool]

/-- Showing a spool leaves its state and the result of its last control write. -/
theorem fld_putSpool (s : State) (i hi lo : Nat) (x : Spool) (h : hi < 3 ∨ 15 < lo) :
    fld (putSpool s i x) (Reg.ACQ_SP_STATE i) hi lo = fld s (Reg.ACQ_SP_STATE i) hi lo := by
  unfold putSpool showSpool
  extract_lets y r t
  rw [fld_setBit_ne _ _ _ _ _ _ (by decide) (by omega), fld_setBit_ne _ _ _ _ _ _ (by decide) (by omega),
    fld_setBit_ne _ _ _ _ _ _ (by decide) (by omega), fld_setBit_ne _ _ _ _ _ _ (by decide) (by omega)]
  exact fld_setF_ne _ _ _ _ _ _ _ (by decide) (by decide) (by omega)

@[simp] theorem spool_ctrlRes (s : State) (i result k : Nat) : spool (ctrlRes s i result) k = spool s k :=
  spool_congr (setF_acq s _ _ _ _) k

/-- A control write reports its result. -/
theorem fld_ctrlRes (s : State) (i : Nat) {result : Nat} (h : result < 16) :
    fld (ctrlRes s i result) (Reg.ACQ_SP_STATE i) 19 16 = result :=
  (fld_setF _ _ _ _ _ (by decide) (by decide)).trans (Nat.mod_eq_of_lt h)

/-- The latest values of the channels change no more than these values. -/
theorem spool_keepLatest (s : State) (k : Nat) : ∃ l, spool (keepLatest s) k = { spool s k with latest := l } := by
  unfold keepLatest
  refine List.foldlRecOn (motive := fun (t : State) => ∃ l, spool t k = { spool s k with latest := l }) _ _
    ⟨(spool s k).latest, rfl⟩ fun t ht j _ => ?_
  obtain ⟨l, hl⟩ := ht
  by_cases hk : k = j
  · subst hk
    exact ⟨_, by rw [spool_setSpool_same, hl]⟩
  · exact ⟨l, by rw [spool_setSpool_ne _ _ hk, hl]⟩

theorem keepLatest_keeps (s : State) : (keepLatest s).regs = s.regs ∧ (keepLatest s).mem = s.mem := by
  unfold keepLatest
  exact List.foldlRecOn (motive := fun (t : State) => t.regs = s.regs ∧ t.mem = s.mem) _ _ ⟨rfl, rfl⟩ fun _ ht _ _ => ht

/-! ### Writes that land in ACQ -/

/-- A write that reaches a register of ACQ outside its fault group takes effect in ACQ. -/
theorem hostWrite_acq {s : State} {port : Port} {a : Nat} {v : Word} {r : RegRow} {i j : Nat} (h : Reaches s port a v)
    (hr : regAt a = some (r, i, j)) (hoff : r.off < 0xF000)
    (ha : blockOf a = ACQ ∧ 0x20000000 ≤ a ∧ a < 0x21000000 ∧ a % 4 = 0) : hostWrite s port a v = landAcq s a r i v := by
  obtain ⟨hb, hplace⟩ := ha
  have hgroup : ¬ (0xF000 ≤ r.off && r.off < 0xF0C0) = true := by simp; omega
  rw [write_reach h hr hplace (by rw [hb]; decide), hb]
  unfold landReg
  exact if_neg hgroup

section writes
variable {s : State} {port : Port} {v : Word}

theorem hostWrite_acqCommit (h : Reaches s port Reg.ACQ_BASTE_COMMIT v) :
    hostWrite s port Reg.ACQ_BASTE_COMMIT v = landAcqCommit s v :=
  hostWrite_acq h (r := ⟨0x4, 0x0, 1, 0x0, 1, .w1p, 0x00000000, 0x0, 0x00000001⟩) (i := 0) (j := 0) rfl (by decide) (by decide)

theorem hostWrite_spoolCtrl {i : Fin 4} (h : Reaches s port (Reg.ACQ_SP_CTRL i.val) v) :
    hostWrite s port (Reg.ACQ_SP_CTRL i.val) v = landSpoolCtrl s i.val v :=
  have hrow : ∀ i : Fin 4, regAt (Reg.ACQ_SP_CTRL i.val) =
      some (⟨0x180, 0x100, 4, 0x0, 1, .w1p, 0x00000000, 0x0, 0x0000001F⟩, i.val, 0) := by decide
  hostWrite_acq h (hrow i) (by decide) (by simp only [Reg.ACQ_SP_CTRL, blockOf, ACQ]; omega)

end writes

/-! ### The words of the control register (R349) -/

theorem landSpoolCtrl_arm (s : State) (i : Nat) : landSpoolCtrl s i 1 = okBus (spoolArm s i) := rfl
theorem landSpoolCtrl_stop (s : State) (i : Nat) : landSpoolCtrl s i 2 = okBus (spoolStop s i) := rfl
theorem landSpoolCtrl_force (s : State) (i : Nat) : landSpoolCtrl s i 4 = okBus (spoolForce s i) := rfl
theorem landSpoolCtrl_release (s : State) (i : Nat) : landSpoolCtrl s i 8 = okBus (spoolRelease s i) := rfl
theorem landSpoolCtrl_dump (s : State) (i : Nat) : landSpoolCtrl s i 16 = okBus (spoolDump s i) := rfl

/-! ### Arm, stop, force and release (R341-R343) -/

/-- A spool outside the group, idle and in service, stands armed for the latch instant. -/
theorem spoolArm_single {s : State} {i : Nat} (single : grpMember s i = false) (idle : spBusy s i = false)
    (cell : cellOff s ACQ i = false) : spoolArm s i = ctrlRes (setSpool s i { spool s i with arm := true }) i 1 := by
  rw [cellOff] at cell
  simp only [spoolArm, single, idle, cell, Bool.false_and, Bool.false_eq_true, if_false, List.any_cons, List.any_nil,
    Bool.or_self, List.foldl_cons, List.foldl_nil]

theorem spoolStop_busy {s : State} {i : Nat} (busy : spBusy s i = true) :
    spoolStop s i = ctrlRes (setSpool s i { spool s i with stop := true }) i 1 := if_pos busy

theorem spoolForce_armed {s : State} {i : Nat} (armed : spSt s i = 1 ∨ spSt s i = 5) :
    spoolForce s i = ctrlRes (forceTrig s i) i 1 := if_pos (by simpa using armed)

/-- A release frees the oldest slot, reports it, and lets a spool with every slot full go on in it. -/
theorem spoolRelease_frees {s : State} {i k : Nat} {rest : List Nat} (full : (spool s i).full = k :: rest) :
    (spool (spoolRelease s i) i).full = rest ∧ fld (spoolRelease s i) (Reg.ACQ_SP_STATE i) 19 16 = 1 := by
  have hfreed : (spool (ctrlRes (putSpool s i { spool s i with full := rest }) i 1) i).full = rest := by
    rw [spool_ctrlRes, spool_putSpool_same]
  have hres := fld_ctrlRes (putSpool s i { spool s i with full := rest }) i (show 1 < 16 by decide)
  unfold spoolRelease
  extract_lets x
  rw [full]
  simp only
  split
  case isTrue =>
    rw [startRecord, spool_putSpool_same, fld_putSpool _ _ _ _ _ (by decide)]
    exact ⟨hfreed, (fld_setF_ne _ _ _ _ _ _ _ (by decide) (by decide) (by decide)).trans hres⟩
  case isFalse => exact ⟨hfreed, hres⟩

/-! ### The maintenance token and leave (R470-R475) -/

/-- The state in which an activity has been granted the token. -/
def maintHeld (s : State) (act : Nat) : State :=
  setF (setBit (setF s Reg.FPM_MAINT_STATUS 19 16 act) Reg.FPM_MAINT_STATUS act true) Reg.FPM_MAINT_STATUS 22 20 1

theorem maintReq_granted {s : State} {act : Nat} (listed : act < 9) (free : (holders s).all (compat act) = true) :
    maintReq s act = (true, maintHeld s act) := by
  unfold maintReq
  extract_lets hs t
  rw [if_pos (by rw [decide_eq_true listed, Bool.true_and]; exact free)]
  rfl

theorem fbit_maintHeld (s : State) {act : Nat} (listed : act < 9) : fbit (maintHeld s act) Reg.FPM_MAINT_STATUS act = true :=
  (fbit_setF_ne _ _ _ _ _ _ (by decide) (by decide) (by omega)).trans (fbit_setBit _ _ _ _ (by omega))

theorem maintHeld_keeps (s : State) (act : Nat) : (maintHeld s act).act = s.act ∧ (maintHeld s act).mem = s.mem := by
  simp only [maintHeld, setF_act, setBit_act, setF_mem, setBit_mem, and_self]

/-- Asking for leave changes no more than the queue of requests and the two registers that show it. -/
theorem burstAsk_keeps (s : State) (requester cls : Nat) : (burstAsk s requester cls).acq = s.acq ∧
    (burstAsk s requester cls).mem = s.mem ∧ ∀ a, a ≠ Reg.FPM_RAIL_GRANT 0 → a ≠ Reg.FPM_LEAVE_QLEN →
      rd (burstAsk s requester cls) a = rd s a := by
  unfold burstAsk leaveRequest
  split
  case isTrue => exact ⟨rfl, rfl, fun _ _ _ => rfl⟩
  case isFalse =>
    split
    case isTrue => exact ⟨rfl, rfl, fun _ _ _ => rfl⟩
    case isFalse => exact ⟨rfl, rfl, fun a hg hq => (rd_wr_ne _ _ hq).trans (rd_wr_ne _ _ hg)⟩

/-- Who has asked for leave of a class holds it or waits for it. -/
theorem burstAsk_leave (s : State) (requester : Nat) {cls : Nat} (hcls : 1 ≤ cls ∧ cls ≤ 8) :
    hasLeave (burstAsk s requester cls) requester = true ∨ waitsLeave (burstAsk s requester cls) requester = true := by
  unfold burstAsk
  split
  case isTrue holds => exact .inl holds
  case isFalse =>
    right
    unfold leaveRequest
    split
    case isTrue waits => simpa [waitsLeave, show cls ≠ 0 by omega, show ¬ 8 < cls by omega] using waits
    case isFalse => simp [waitsLeave, showLeave]

theorem hasLeave_ctrlRes (s : State) (i result requester : Nat) :
    hasLeave (ctrlRes s i result) requester = hasLeave s requester := by rw [hasLeave, ctrlRes, setF_pwr, hasLeave]

theorem waitsLeave_ctrlRes (s : State) (i result requester : Nat) :
    waitsLeave (ctrlRes s i result) requester = waitsLeave s requester := by rw [waitsLeave, ctrlRes, setF_pwr, waitsLeave]

/-- The end of a leave takes its grant off the list. -/
theorem leaveEnd_held {s : State} {requester : Nat} {g : Leave}
    (held : s.pwr.granted.find? (fun g => g.requester == requester) = some g) :
    (leaveEnd s requester false).pwr.granted = s.pwr.granted.erase g ∧ (leaveEnd s requester false).acq = s.acq ∧
      (leaveEnd s requester false).mem = s.mem := by
  rw [leaveEnd, held]
  exact ⟨rfl, rfl, rfl⟩

/-- Who holds leave is listed. -/
theorem find_of_hasLeave {s : State} {requester : Nat} (h : hasLeave s requester = true) :
    ∃ g, s.pwr.granted.find? (fun g => g.requester == requester) = some g :=
  Option.isSome_iff_exists.mp (by rw [List.find?_isSome]; simpa [hasLeave] using h)

/-! ### Dumps and bursts (R339) -/

/-- The state in which a dump waits for its leave and is reported as begun. -/
def dumpWaits (s : State) (i a n : Nat) : State :=
  ctrlRes (burstAsk (setSpool s i { spool s i with dump := some (a, (actv s (Reg.ACQ_SP_ARCH_BASE i)).toNat, n) })
    (dumpRequester i) 6) i 0

/-- From s to t the dump of a record has begun: the spool reports no result yet and keeps what is to be copied, the token is held, and
leave is held or asked for. -/
structure DumpBegun (s t : State) (i a n : Nat) : Prop where
  result : fld t (Reg.ACQ_SP_STATE i) 19 16 = 0
  dump : (spool t i).dump = some (a, (actv s (Reg.ACQ_SP_ARCH_BASE i)).toNat, n)
  token : fbit t Reg.FPM_MAINT_STATUS 7 = true
  leave : hasLeave t (dumpRequester i) = true ∨ waitsLeave t (dumpRequester i) = true
  mem : t.mem = s.mem

/-- A dump has begun whatever the queue holds and however the access is answered. -/
theorem DumpBegun.answered {s t : State} {i a n : Nat} (h : DumpBegun s t i a n) (q : List Instr) :
    DumpBegun s { okBus t with pending := q } i a n := ⟨h.result, h.dump, h.token, h.leave, h.mem⟩

theorem dumpBegun_dumpWaits (s : State) {i : Nat} (hi : i < 4) (a n : Nat) : DumpBegun s (dumpWaits (maintHeld s 7) i a n) i a n := by
  obtain ⟨hacq, hmem, hregs⟩ := burstAsk_keeps (setSpool (maintHeld s 7) i
    { spool (maintHeld s 7) i with dump := some (a, (actv (maintHeld s 7) (Reg.ACQ_SP_ARCH_BASE i)).toNat, n) }) (dumpRequester i) 6
  obtain ⟨hact, hmemHeld⟩ := maintHeld_keeps s 7
  have hne : Reg.FPM_MAINT_STATUS ≠ Reg.ACQ_SP_STATE i := by rw [Reg.FPM_MAINT_STATUS, Reg.ACQ_SP_STATE]; omega
  constructor
  case result => rw [dumpWaits, fld_ctrlRes _ _ (by decide)]
  case dump => rw [dumpWaits, spool_ctrlRes, spool_congr hacq, spool_setSpool_same, actv, hact, actv]
  case token =>
    rw [fbit, dumpWaits, ctrlRes, rd_setF_ne _ _ _ _ hne, hregs _ (by decide) (by decide), rd_setSpool]
    exact fbit_maintHeld s (by decide)
  case leave =>
    rw [dumpWaits, hasLeave_ctrlRes, waitsLeave_ctrlRes]
    exact burstAsk_leave _ _ (by decide)
  case mem => rw [dumpWaits, ctrlRes, setF_mem, hmem, setSpool_mem, hmemHeld]

/-- A dump that gets the token waits for its leave. -/
theorem spoolDump_waits {s : State} {i a n : Nat} (last : (spool s i).last = some (a, n)) (power : s.pwr.off.contains .mem = false)
    (free : (holders s).all (compat 7) = true) : spoolDump s i = dumpWaits (maintHeld s 7) i a n := by
  unfold spoolDump
  rw [last]
  simp only [power, maintReq_granted (show 7 < 9 by decide) free, Bool.not_true, Bool.false_eq_true, if_false]
  rfl

/-- The state in which one entry of the staging FIFO has gone to archive memory. -/
def burstMoved (s : State) (i a : Nat) (bs : List Byte) : State :=
  setSpool (writeMem s .arch a bs) i { spool s i with fifo := [], owed := [] }

/-- A burst moves the only entry of the staging FIFO and gives back its leave. -/
theorem archiveBurst_single {s : State} {i a : Nat} {bs : List Byte} (fifo : (spool s i).fifo = [(a, bs)])
    (owed : (spool s i).owed = []) (fits : bs.length ≤ leaveBytes) (leave : hasLeave s (burstRequester i) = true)
    (power : s.pwr.off.contains .mem = false) :
    archiveBurst s i = leaveEnd (burstMoved s i a bs) (burstRequester i) false := by
  have hpart : fifoPart leaveBytes (spool s i).fifo = ([(a, bs)], []) := by rw [fifo]; simp only [fifoPart, if_pos fits]
  simp only [archiveBurst, leave, power, hpart, owed, Bool.not_true, Bool.or_self, Bool.false_eq_true, if_false,
    List.append_nil, List.isEmpty_nil, if_true]
  rfl

/-! ### The sample of a spool without a trigger (R335, R337) -/

/-- A spool takes samples into a single record in Bolt, with no condition, mask test or trigger. -/
structure Untriggered (s : State) (i : Nat) : Prop where
  mode : spMode s i = 0
  bolt : spArch s i = false
  takes : spTakes s i = true
  noConds : actF s (Reg.ACQ_SP_TRIG i) 3 0 = 0
  noMask : maskChannels s i = []
  noTrig : (spool s i).trig = none
  noPending : (spool s i).pendingTrig = none

/-- Where a record's next sample goes (R338). -/
def samplePlace (s : State) (i : Nat) : Nat :=
  (actv s (Reg.ACQ_SP_BASE i)).toNat + (spool s i).slot * recordLen s i + 32 +
    (spool s i).written % max 1 (spDepth s i) * sampleLen s i

/-- The bytes of a per-cycle sample without a trigger (R337). -/
def sampleBytes (s : State) (i : Nat) (vals : List Word) (n : Word) : List Byte :=
  stamp n 0 (spool s i).gap false false false ++ vals.flatMap fun v => leBytes 4 v.toNat

theorem length_sampleBytes (s : State) (i : Nat) (vals : List Word) (n : Word) :
    (sampleBytes s i vals n).length = 8 + 4 * vals.length := by
  simp only [sampleBytes, stamp, List.length_append, length_leBytes, length_flatMap_leBytes]

/-- Where the write pointer of a record stands after its next sample. -/
def pointerAfter (s : State) (i : Nat) : Word :=
  word ((spool s i).slot * recordLen s i + 32 + ((spool s i).written % max 1 (spDepth s i) + 1) % max 1 (spDepth s i) * sampleLen s i)

/-- A spool after a sample without a trigger. -/
def Spool.sampled (x : Spool) : Spool := { x with written := x.written + 1, total := x.total + 1, gap := false, pendingTrig := none }

/-- The state in which a sample without a trigger has been written. -/
def sampleWritten (s : State) (i : Nat) (vals : List Word) (n : Word) : State :=
  putSpool (wr (writeMem s .bolt (samplePlace s i) (sampleBytes s i vals n)) (Reg.ACQ_SP_WR_PTR i) (pointerAfter s i)) i
    (spool s i).sampled

theorem writeSample_untriggered {s : State} {i : Nat} (h : Untriggered s i) (vals : List Word) (n : Word) :
    writeSample s i vals 0 false none n = sampleWritten s i vals n := by
  have harea : (spArea s i).1 = (actv s (Reg.ACQ_SP_BASE i)).toNat := by
    simp only [spArea, h.bolt, Bool.false_eq_true, if_false]
  have hwrite (a : Nat) (bs : List Byte) : spWrite s i a bs = (true, writeMem s .bolt a bs) := by
    simp only [spWrite, h.bolt, Bool.not_false, if_true]
  have hplace : (actv s (Reg.ACQ_SP_BASE i)).toNat + ((spool s i).slot * recordLen s i + 32 +
      (spool s i).written % max 1 (spDepth s i) * sampleLen s i) = samplePlace s i := by rw [samplePlace]; omega
  unfold writeSample
  extract_lets x cont len area idx off forced bs w t y1 y2 y3 t2 next u
  have hcont : ¬ cont = true := by simp only [cont, h.mode]; decide
  have hidx : idx = x.written % max 1 (spDepth s i) := if_neg hcont
  have hoff : off = x.slot * recordLen s i + 32 + idx * len := if_neg hcont
  have hw : w = (true, writeMem s .bolt (samplePlace s i) (sampleBytes s i vals n)) := by
    simp only [w, hwrite, hoff, hidx, area, harea, x, len, hplace]
    rfl
  have ht : t = writeMem s .bolt (samplePlace s i) (sampleBytes s i vals n) := congrArg Prod.snd hw
  have hy1 : y1 = spool s i := by simp only [y1, ht]; rfl
  have hy2 : y2 = (spool s i).sampled := by simp only [y2, hy1]; rfl
  have hy3 : y3 = (spool s i).sampled := (if_neg (by rw [hy2, Spool.sampled, h.noTrig]; decide)).trans hy2
  have hnext : next = (spool s i).slot * recordLen s i + 32 +
      ((spool s i).written % max 1 (spDepth s i) + 1) % max 1 (spDepth s i) * sampleLen s i :=
    (if_neg hcont).trans (by simp only [hy3, hidx, t2, ht]; rfl)
  rw [if_neg (by rw [hw]; exact Bool.false_ne_true), if_pos (by rw [hy3, Spool.sampled, h.noTrig]; rfl)]
  simp only [u, hnext, hy3, t2, ht]
  rfl

theorem combHolds_noConds {s : State} {i : Nat} (h : actF s (Reg.ACQ_SP_TRIG i) 3 0 = 0) (vals prev : List Word)
    (evs : List AcqEvent) : combHolds s i vals prev evs = false := by
  have hconds : spConds s i = [] := by simp [spConds, h, bit]
  simp only [combHolds, hconds, List.isEmpty_nil, Bool.not_true, Bool.false_and]

theorem maskViolated_noMask {s : State} {i : Nat} (h : maskChannels s i = []) (vals : List Word) : maskViolated s i vals = false := by
  unfold maskViolated
  rw [h]
  split
  case h_1 => rfl
  case h_2 => exact ite_self _

/-- A spool without a trigger takes a per-cycle sample and stays without. -/
theorem takeSample_untriggered {s : State} {i : Nat} (h : Untriggered s i) {m : Sample} (plain : m.event = false)
    (start : m.ofs = 0) : takeSample s i m {} = (keepPrev (sampleWritten s i m.vals m.n) i m, none) := by
  have hfull : ¬ (spSt s i == 4) = true := by
    intro full
    have htakes := h.takes
    rw [spTakes, beq_iff_eq.mp full] at htakes
    exact absurd htakes (by decide)
  have hcond : sampleTrigger s i m.L m.vals (spool s i).prev m.evs = none := by
    simp only [sampleTrigger, combHolds_noConds h.noConds, Bool.not_false, if_true]
  unfold takeSample
  extract_lets x free wanted s1 own viol s2 real known trig
  rw [if_neg hfull, if_neg (by rw [h.takes]; decide)]
  have hwanted : wanted = none := by simp only [wanted, x, hcond]; rfl
  have hs1 : s1 = s := if_neg (by simp [hwanted])
  have hviol : viol = false := by simp only [viol, own, hs1, maskViolated_noMask h.noMask, Bool.and_false]; rfl
  have hs2 : s2 = s := (if_neg (by simp [hviol])).trans hs1
  have hreal : real = none := by simp only [real, hwanted, ite_self]
  have hknown : known = none := by simp only [known, hreal, x, h.noPending]; rfl
  have htrig : trig = none := by simp only [trig, hknown, hviol]; simp
  rw [hs2, htrig, plain, start, writeSample_untriggered h]

/-- A per-cycle sample that has been written and kept as the previous one counts, stands in its place, and touches two registers. -/
theorem keepPrev_sampleWritten {s : State} {i : Nat} {m : Sample} (plain : m.event = false) :
    (spool (keepPrev (sampleWritten s i m.vals m.n) i m) i).written = (spool s i).written + 1 ∧
      (keepPrev (sampleWritten s i m.vals m.n) i m).mem = s.mem.writes .bolt (samplePlace s i) (sampleBytes s i m.vals m.n) ∧
      ∀ a, a ≠ Reg.ACQ_SP_WR_PTR i → a ≠ Reg.ACQ_SP_STATE i →
        rd (keepPrev (sampleWritten s i m.vals m.n) i m) a = rd s a := by
  unfold keepPrev
  rw [if_neg (by rw [plain]; decide)]
  refine ⟨?_, ?_, fun a hptr hst => ?_⟩
  · rw [spool_putSpool_same, sampleWritten, spool_putSpool_same, Spool.sampled]
  · rw [putSpool_mem, sampleWritten, putSpool_mem, wr_mem, writeMem]
  · rw [rd_putSpool_ne _ _ hst, sampleWritten, rd_putSpool_ne _ _ hst, rd_wr_ne _ _ hptr]
    rfl

/-! ### The samples of a cycle (R335) -/

/-- A cycle gives one spool a per-cycle sample and no event: no other spool takes samples, and the group is empty. -/
structure SamplesAlone (s : State) (i : Fin 4) : Prop extends Untriggered s i where
  others : ∀ j, j < 4 → j ≠ i.val → spBusy s j = false
  noGroup : actF s Reg.ACQ_GROUP 3 0 = 0
  noEvents : s.evts.drop s.acq.seen = []
  noneLeft : s.acq.left = []
  divides : actF s (Reg.ACQ_SP_CFG i) 31 16 ≠ 0
  due : s.cyc.count.toNat % actF s (Reg.ACQ_SP_CFG i) 31 16 = 0

/-- The per-cycle sample of a spool. -/
def cycleSample (s : State) (i : Nat) : Sample :=
  { vals := sampleValues s i (latchedCounts s), n := s.cyc.count, L := latchNs s, evs := (spool s i).unseen }

/-- A cycle without events gives a spool its per-cycle sample where one is due. -/
theorem gather_cycleSample {s : State} {i : Nat} (divides : actF s (Reg.ACQ_SP_CFG i) 31 16 ≠ 0)
    (due : s.cyc.count.toNat % actF s (Reg.ACQ_SP_CFG i) 31 16 = 0) :
    (gather s i []).samples = [cycleSample s i] ∧ (gather s i []).drop = 0 := by
  have hdue : (actF s (Reg.ACQ_SP_CFG i) 31 16 != 0 && s.cyc.count.toNat % actF s (Reg.ACQ_SP_CFG i) 31 16 == 0) = true := by
    simp [divides, due]
  unfold gather
  extract_lets x n named recent g div
  rw [if_pos hdue]
  exact ⟨rfl, rfl⟩

theorem spoolPass_idle {s : State} {i : Nat} (idle : spBusy s i = false) (evs : List AcqEvent) (call : GroupCall) :
    spoolPass s i evs call = (s, none) := by
  rw [spoolPass, idle]
  rfl

theorem grpMember_noGroup {s : State} (h : actF s Reg.ACQ_GROUP 3 0 = 0) (i : Nat) : grpMember s i = false := by
  simp [grpMember, h, bit]

/-- The state in which a spool has gathered a cycle without events. -/
def gathered (s : State) (i : Nat) : State :=
  setSpool s i { spool s i with unseen := (gather s i []).unseen, taken := (gather s i []).taken }

/-- The state in which a spool has its sample of a cycle without events. -/
def sampledAlone (s : State) (i : Nat) : State :=
  keepPrev (sampleWritten (gathered s i) i (cycleSample s i).vals (cycleSample s i).n) i (cycleSample s i)

theorem spoolPass_sample {s : State} {i : Nat} (h : Untriggered s i) (noGroup : actF s Reg.ACQ_GROUP 3 0 = 0)
    (divides : actF s (Reg.ACQ_SP_CFG i) 31 16 ≠ 0) (due : s.cyc.count.toNat % actF s (Reg.ACQ_SP_CFG i) 31 16 = 0)
    (call : GroupCall) : spoolPass s i [] call = (sampledAlone s i, none) := by
  have hbusy : spBusy s i = true := by rw [spBusy, h.takes]; rfl
  have hcall : groupCall s i call = {} := if_neg (by rw [grpMember_noGroup noGroup]; decide)
  obtain ⟨hsamples, hdrop⟩ := gather_cycleSample divides due
  have hgathered : Untriggered (gathered s i) i := by
    have hspool := spool_setSpool_same s i { spool s i with unseen := (gather s i []).unseen, taken := (gather s i []).taken }
    exact ⟨h.mode, h.bolt, h.takes, h.noConds, h.noMask, (congrArg Spool.trig hspool).trans h.noTrig,
      (congrArg Spool.pendingTrig hspool).trans h.noPending⟩
  have htake := takeSample_untriggered hgathered (m := cycleSample s i) rfl rfl
  unfold spoolPass
  rw [if_neg (by rw [hbusy]; decide)]
  extract_lets g c x t1 t2 r
  have ht2 : t2 = gathered s i := if_pos (by rw [hdrop]; rfl)
  have hr : r = (sampledAlone s i, none) := by
    simp only [r, g, c, hsamples, hcall, ht2, ite_self, List.foldl_cons, List.foldl_nil, htake]
    rfl
  rw [if_pos (by rw [hsamples]; rfl), hr]

/-- The bytes of a spool's sample of the cycle. -/
def cycleBytes (s : State) (i : Nat) : List Byte := sampleBytes s i (cycleSample s i).vals (cycleSample s i).n

theorem length_cycleBytes (s : State) (i : Nat) : (cycleBytes s i).length = sampleLen s i := by
  simp [cycleBytes, length_sampleBytes, cycleSample, sampleValues, sampleLen]

theorem reads_cycleBytes (s : State) (i : Nat) (m : Mem) (a : Nat) :
    (m.writes .bolt a (cycleBytes s i)).reads .bolt a (sampleLen s i) = cycleBytes s i := by
  rw [← length_cycleBytes, reads_writes]

/-- Gathering a cycle moves neither the place nor the bytes of the sample. -/
theorem sampledAlone_keeps (s : State) (i : Nat) : (spool (sampledAlone s i) i).written = (spool s i).written + 1 ∧
    (sampledAlone s i).mem = s.mem.writes .bolt (samplePlace s i) (cycleBytes s i) ∧
    ∀ a, a ≠ Reg.ACQ_SP_WR_PTR i → a ≠ Reg.ACQ_SP_STATE i → rd (sampledAlone s i) a = rd s a := by
  obtain ⟨hwritten, hmem, hregs⟩ := keepPrev_sampleWritten (s := gathered s i) (i := i) (m := cycleSample s i) rfl
  have hspool : spool (gathered s i) i = _ := spool_setSpool_same s i _
  have hplace : samplePlace (gathered s i) i = samplePlace s i := by rw [samplePlace, hspool]; rfl
  have hbytes : sampleBytes (gathered s i) i (cycleSample s i).vals (cycleSample s i).n = cycleBytes s i := by
    rw [sampleBytes, hspool]; rfl
  refine ⟨hwritten.trans (by rw [hspool]), ?_, fun a hptr hst => (hregs a hptr hst).trans (rd_setSpool s i _ a)⟩
  rw [sampledAlone, hmem, hplace, hbytes]
  rfl

/-- The sample of one spool leaves another as busy as it was. -/
theorem spBusy_sampledAlone (s : State) {i j : Nat} (h : j ≠ i) : spBusy (sampledAlone s i) j = spBusy s j := by
  have hptr : Reg.ACQ_SP_STATE j ≠ Reg.ACQ_SP_WR_PTR i := by rw [Reg.ACQ_SP_STATE, Reg.ACQ_SP_WR_PTR]; omega
  have hst : Reg.ACQ_SP_STATE j ≠ Reg.ACQ_SP_STATE i := by rw [Reg.ACQ_SP_STATE, Reg.ACQ_SP_STATE]; omega
  obtain ⟨-, -, hregs⟩ := sampledAlone_keeps s i
  simp only [spBusy, spTakes, spSt, fld, hregs _ hptr hst]

/-- One spool's part of a pass over the spools. -/
def passStep (s : State) (evs : List AcqEvent) (call : GroupCall) (r : State × Option Trigger) (i : Nat) : State × Option Trigger :=
  let t := spoolPass r.1 i evs call
  (t.1, if grpMember s i then earlier r.2 t.2 else r.2)

theorem spoolsPass_eq (s : State) (evs : List AcqEvent) (call : GroupCall) :
    spoolsPass s evs call = [0, 1, 2, 3].foldl (passStep s evs call) (s, none) := rfl

/-- A spool whose pass makes no trigger makes none for the group. -/
theorem passStep_none {s t u : State} {i : Nat} {evs : List AcqEvent} {call : GroupCall} (pass : spoolPass t i evs call = (u, none)) :
    passStep s evs call (t, none) i = (u, none) := by
  simp only [passStep, pass, earlier, ite_self]

theorem foldl_passStep_idle {s t : State} {evs : List AcqEvent} {call : GroupCall} {l : List Nat}
    (idle : ∀ j ∈ l, spBusy t j = false) : l.foldl (passStep s evs call) (t, none) = (t, none) := by
  induction l with
  | nil => rfl
  | cons j l ih =>
    rw [List.foldl_cons, passStep_none (spoolPass_idle (idle j List.mem_cons_self) evs call)]
    exact ih fun k hk => idle k (List.mem_cons_of_mem j hk)

/-- The spools before and after one of them, in the order of a pass. -/
def spoolsBefore (i : Fin 4) : List Nat := [0, 1, 2, 3].filter (· < i.val)
def spoolsAfter (i : Fin 4) : List Nat := [0, 1, 2, 3].filter (i.val < ·)

theorem spools_split : ∀ i : Fin 4, [0, 1, 2, 3] = spoolsBefore i ++ i.val :: spoolsAfter i := by decide
theorem spoolsBefore_ne : ∀ i : Fin 4, ∀ j ∈ spoolsBefore i, j < 4 ∧ j ≠ i.val := by decide
theorem spoolsAfter_ne : ∀ i : Fin 4, ∀ j ∈ spoolsAfter i, j < 4 ∧ j ≠ i.val := by decide

/-- A pass over the spools in which one of them alone is busy is the pass of this one. -/
theorem spoolsPass_alone {s : State} {i : Fin 4} {evs : List AcqEvent} {call : GroupCall} {t : State}
    (pass : spoolPass s i evs call = (t, none)) (before : ∀ j, j < 4 → j ≠ i.val → spBusy s j = false)
    (after : ∀ j, j < 4 → j ≠ i.val → spBusy t j = false) : spoolsPass s evs call = (t, none) := by
  have hbefore (j : Nat) (hj : j ∈ spoolsBefore i) : spBusy s j = false :=
    before j (spoolsBefore_ne i j hj).1 (spoolsBefore_ne i j hj).2
  have hafter (j : Nat) (hj : j ∈ spoolsAfter i) : spBusy t j = false :=
    after j (spoolsAfter_ne i j hj).1 (spoolsAfter_ne i j hj).2
  rw [spoolsPass_eq, spools_split i, List.foldl_append, foldl_passStep_idle hbefore, List.foldl_cons, passStep_none pass,
    foldl_passStep_idle hafter]

/-- The state in which the events of a cycle have been taken up. -/
def eventsSeen (s : State) : State := { s with acq := { s.acq with seen := s.evts.length, left := [] } }

/-- SPOOL_SAMPLE where one spool takes a sample: the group has no trigger to hand on. -/
theorem spoolSample_alone {s : State} {i : Fin 4} (h : SamplesAlone s i) :
    Machine.spoolSample s = keepLatest (sampledAlone (eventsSeen s) i) := by
  have hevents : s.acq.left ++ s.evts.drop s.acq.seen = [] := by rw [h.noneLeft, h.noEvents]; rfl
  have huntriggered : Untriggered (eventsSeen s) i :=
    ⟨h.mode, h.bolt, h.takes, h.noConds, h.noMask, h.noTrig, h.noPending⟩
  have hpass (call : GroupCall) : spoolsPass (eventsSeen s) [] call = (sampledAlone (eventsSeen s) i, none) :=
    spoolsPass_alone (spoolPass_sample huntriggered h.noGroup h.divides h.due call) h.others
      fun j hj hne => (spBusy_sampledAlone _ hne).trans (h.others j hj hne)
  unfold Machine.spoolSample
  extract_lets evs t xt first late n r u
  have hr : r = (sampledAlone (eventsSeen s) i, none) := by
    simp only [r, evs, hevents]
    exact hpass _
  have hu : u = keepLatest (sampledAlone (eventsSeen s) i) := by rw [show u = keepLatest r.1 from rfl, hr]
  rw [hr, hu]

/-! ### The commands complete -/

section commands
variable {s : State} {i : Fin 4} {port : Port} {v : Word}

/-- SPOOL_SAMPLE of one spool without a trigger (R335, R337). -/
theorem completes_spoolSample (h : Awake s) (alone : SamplesAlone s i) : Completes .spoolSample s fun t =>
    (spool t i).written = (spool s i).written + 1 ∧
      readMem t .bolt ((actv s (Reg.ACQ_SP_BASE i)).toNat + (spool s i).slot * recordLen s i + 32 +
          (spool s i).written % max 1 (spDepth s i) * sampleLen s i) (sampleLen s i) =
        stamp s.cyc.count 0 (spool s i).gap false false false ++
          (sampleValues s i (latchedCounts s)).flatMap (fun v => leBytes 4 v.toNat) ∧
      ∀ a, a ≠ Reg.ACQ_SP_WR_PTR i → a ≠ Reg.ACQ_SP_STATE i → rd t a = rd s a := by
  refine completes_run (f := awake Machine.spoolSample) rfl ((awake_eq h).trans (spoolSample_alone alone)) ?_
  obtain ⟨hwritten, hmem, hregs⟩ := sampledAlone_keeps (eventsSeen s) i
  obtain ⟨l, hlatest⟩ := spool_keepLatest (sampledAlone (eventsSeen s) i) i
  obtain ⟨hlatestRegs, hlatestMem⟩ := keepLatest_keeps (sampledAlone (eventsSeen s) i)
  refine ⟨?_, ?_, fun a hptr hst => ?_⟩
  · rw [spool_queue, hlatest, hwritten]
    rfl
  · have hplace : samplePlace (eventsSeen s) i = (actv s (Reg.ACQ_SP_BASE i)).toNat + (spool s i).slot * recordLen s i + 32 +
        (spool s i).written % max 1 (spDepth s i) * sampleLen s i := rfl
    have hbytes : cycleBytes (eventsSeen s) i = stamp s.cyc.count 0 (spool s i).gap false false false ++
        (sampleValues s i (latchedCounts s)).flatMap (fun v => leBytes 4 v.toNat) := rfl
    rw [readMem_queue, ← hplace, ← hbytes, readMem, hlatestMem, hmem]
    exact reads_cycleBytes (eventsSeen s) i _ _
  · rw [rd_queue, rd, hlatestRegs]
    exact hregs a hptr hst

/-- AUTO_TRIGGER_TIMEOUT of a record that has run for its timeout (R342). -/
theorem completes_autoTriggerTimeout (h : Awake s) (mode : spMode s i = 2) (armed : spSt s i = 1) (noTrig : (spool s i).trig = none)
    (due : (actv s (Reg.ACQ_SP_TIMEOUT i)).toNat * 1000000 ≤ s.raw - (spool s i).startRaw) :
    Completes (.autoTriggerTimeout i) s fun t =>
      (spool t i).pendingTrig = some { time := nowNs s, forced := true } ∧ t.mem = s.mem := by
  have hforced : autoTimeout s i = forceTrig s i := if_pos (by simp [mode, armed, noTrig, due])
  refine completes_quiet_eq (f := fun s => autoTimeout s i) rfl h hforced ⟨?_, rfl⟩
  rw [spool_frame, forceTrig, spool_putSpool_same]

/-- ACQ_COMMIT that is not refused (R349). -/
theorem exec_acqCommit_passed (h : Reaches s port Reg.ACQ_BASTE_COMMIT v) (commit : wbit v 0 = true) (passed : acqResult s = 1) :
    exec (.acqCommit port v) s = .next (okBus (setBit s Reg.ACQ_BASTE_STATUS 0 true)) := by
  have hland : landAcqCommit s v = okBus (setBit s Reg.ACQ_BASTE_STATUS 0 true) := by
    rw [landAcqCommit, commit, passed]; rfl
  exact exec_port (f := fun s => hostWrite s port Reg.ACQ_BASTE_COMMIT v) rfl ((hostWrite_acqCommit h).trans hland) rfl rfl rfl

/-- A control write that stores its spool under the result 1 completes, and leaves the other spools. -/
theorem completes_spoolStored {c : Instr} {x : Spool} (e : exec c s = runQuiet (fun s => hostWrite s port (Reg.ACQ_SP_CTRL i) v) s)
    (hland : hostWrite s port (Reg.ACQ_SP_CTRL i) v = okBus (ctrlRes (setSpool s i x) i 1)) : Completes c s fun t =>
      (spool t i) = x ∧ fld t (Reg.ACQ_SP_STATE i) 19 16 = 1 ∧ (∀ j, j ≠ i.val → spool t j = spool s j) ∧ t.mem = s.mem := by
  refine completes_port_eq e hland ⟨?_, ?_, fun j hj => ?_, rfl⟩
  · rw [spool_frame, spool_okBus, spool_ctrlRes, spool_setSpool_same]
  · rw [fld_frame, fld_okBus, fld_ctrlRes _ _ (by decide)]
  · rw [spool_frame, spool_okBus, spool_ctrlRes, spool_setSpool_ne _ _ hj]

/-- SPOOL_ARM of a spool outside the group (R343). -/
theorem completes_spoolArm (h : Reaches s port (Reg.ACQ_SP_CTRL i) 1) (single : grpMember s i = false) (idle : spBusy s i = false)
    (cell : cellOff s ACQ i = false) : Completes (.spoolArm port i) s fun t => (spool t i) = { spool s i with arm := true } ∧
      fld t (Reg.ACQ_SP_STATE i) 19 16 = 1 ∧ (∀ j, j ≠ i.val → spool t j = spool s j) ∧ t.mem = s.mem :=
  completes_spoolStored rfl (by rw [hostWrite_spoolCtrl h, landSpoolCtrl_arm, spoolArm_single single idle cell])

/-- SPOOL_STOP of a spool that is busy (R343). -/
theorem completes_spoolStop (h : Reaches s port (Reg.ACQ_SP_CTRL i) 2) (busy : spBusy s i = true) :
    Completes (.spoolStop port i) s fun t => (spool t i) = { spool s i with stop := true } ∧
      fld t (Reg.ACQ_SP_STATE i) 19 16 = 1 ∧ (∀ j, j ≠ i.val → spool t j = spool s j) ∧ t.mem = s.mem :=
  completes_spoolStored rfl (by rw [hostWrite_spoolCtrl h, landSpoolCtrl_stop, spoolStop_busy busy])

/-- SPOOL_FORCE of a spool that waits for its trigger (R341). -/
theorem completes_spoolForce (h : Reaches s port (Reg.ACQ_SP_CTRL i) 4) (armed : spSt s i = 1 ∨ spSt s i = 5) :
    Completes (.spoolForce port i) s fun t =>
      (spool t i).pendingTrig = some { time := nowNs s, forced := true } ∧ fld t (Reg.ACQ_SP_STATE i) 19 16 = 1 := by
  have hland : hostWrite s port (Reg.ACQ_SP_CTRL i) 4 = okBus (ctrlRes (forceTrig s i) i 1) := by
    rw [hostWrite_spoolCtrl h, landSpoolCtrl_force, spoolForce_armed armed]
  refine completes_port_eq (f := fun s => hostWrite s port (Reg.ACQ_SP_CTRL i) 4) rfl hland ⟨?_, ?_⟩
  · rw [spool_frame, spool_okBus, spool_ctrlRes, forceTrig, spool_putSpool_same]
  · rw [fld_frame, fld_okBus, fld_ctrlRes _ _ (by decide)]

/-- SPOOL_RELEASE of a spool with unreleased slots (R342). -/
theorem completes_spoolRelease {k : Nat} {rest : List Nat} (h : Reaches s port (Reg.ACQ_SP_CTRL i) 8)
    (full : (spool s i).full = k :: rest) : Completes (.spoolRelease port i) s fun t =>
      (spool t i).full = rest ∧ fld t (Reg.ACQ_SP_STATE i) 19 16 = 1 ∧ t.mem = s.mem := by
  obtain ⟨hfull, hres⟩ := spoolRelease_frees full
  exact completes_port_eq (f := fun s => hostWrite s port (Reg.ACQ_SP_CTRL i) 8) rfl
    ((hostWrite_spoolCtrl h).trans (landSpoolCtrl_release s i)) ⟨hfull, hres, rfl⟩

/-- SPOOL_DUMP of a spool with a finished record (R339, R470). -/
theorem completes_spoolDump {a n : Nat} (h : Reaches s port (Reg.ACQ_SP_CTRL i) 16) (last : (spool s i).last = some (a, n))
    (power : s.pwr.off.contains .mem = false) (free : (holders s).all (compat 7) = true) :
    Completes (.spoolDump port i) s fun t => fld t (Reg.ACQ_SP_STATE i) 19 16 = 0 ∧
      (spool t i).dump = some (a, (actv s (Reg.ACQ_SP_ARCH_BASE i)).toNat, n) ∧ fbit t Reg.FPM_MAINT_STATUS 7 = true ∧
      (hasLeave t (dumpRequester i) = true ∨ waitsLeave t (dumpRequester i) = true) ∧ t.mem = s.mem := by
  have hland : hostWrite s port (Reg.ACQ_SP_CTRL i) 16 = okBus (dumpWaits (maintHeld s 7) i a n) := by
    rw [hostWrite_spoolCtrl h, landSpoolCtrl_dump, spoolDump_waits last power free]
  obtain ⟨hres, hdump, htoken, hleave, hmem⟩ := (dumpBegun_dumpWaits s i.isLt a n).answered s.pending
  exact completes_run (f := fun s => hostWrite s port (Reg.ACQ_SP_CTRL i) 16) rfl hland ⟨hres, hdump, htoken, hleave, hmem⟩

/-- ARCHIVE_BURST of one entry that one leave moves (R339, R470). -/
theorem completes_archiveBurst {a : Nat} {bs : List Byte} (h : Awake s) (fifo : (spool s i).fifo = [(a, bs)])
    (owed : (spool s i).owed = []) (fits : bs.length ≤ leaveBytes) (leave : hasLeave s (burstRequester i) = true)
    (power : s.pwr.off.contains .mem = false) : Completes (.archiveBurst i) s fun t =>
      (spool t i) = { spool s i with fifo := [] } ∧ readMem t .arch a bs.length = bs ∧
        (∀ g, s.pwr.granted.find? (fun g => g.requester == burstRequester i) = some g → t.pwr.granted = s.pwr.granted.erase g) ∧
        ∀ r x, r ≠ .arch ∨ x < a ∨ a + bs.length ≤ x → t.mem.read r x = s.mem.read r x := by
  refine completes_run (f := awake fun s => Machine.archiveBurst s i) rfl
    ((awake_eq h).trans (archiveBurst_single fifo owed fits leave power)) ?_
  obtain ⟨g, hheld⟩ := find_of_hasLeave leave
  obtain ⟨hgranted, hacq, hmem⟩ := leaveEnd_held (s := burstMoved s i a bs) hheld
  have hwritten : (leaveEnd (burstMoved s i a bs) (burstRequester i) false).mem = s.mem.writes .arch a bs := hmem
  refine ⟨?_, ?_, fun g' hg' => ?_, fun r x hout => ?_⟩
  · rw [spool_queue, spool_congr hacq, burstMoved, spool_setSpool_same, ← owed]
  · exact (congrArg (fun m : Mem => m.reads _ _ _) hwritten).trans (reads_writes s.mem .arch a bs)
  · obtain rfl : g = g' := Option.some.inj (hheld.symm.trans hg')
    exact hgranted
  · exact (congrArg (fun m : Mem => m.read _ _) hwritten).trans (read_writes_out s.mem .arch r a x bs hout)

end commands

/-- Settles O31, command by command. -/
theorem spoolCommandsComplete : Obligations.SpoolCommandsComplete := by
  unfold Obligations.SpoolCommandsComplete
  intro s h i
  exact ⟨fun mode bolt takes others noGroup noEvents noneLeft _ divides due noConds noMask noTrig noPending =>
      completes_spoolSample h ⟨⟨mode, bolt, takes, noConds, noMask, noTrig, noPending⟩, others, noGroup, noEvents, noneLeft, divides, due⟩,
    completes_autoTriggerTimeout h,
    fun _ _ => exec_acqCommit_passed,
    fun _ => completes_spoolArm,
    fun _ => completes_spoolStop,
    fun _ => completes_spoolForce,
    fun _ _ _ => completes_spoolRelease,
    fun _ _ _ => completes_spoolDump,
    fun _ _ => completes_archiveBurst h⟩

end Sys2Proof.Machine

/-! ## The canonical form of the memories, kept by every command (log entry 2) -/

namespace Sys2Proof.Machine

/-! ### What leaves the memories as they are -/

theorem foldl_mem {α : Type} (f : State → α → State) (h : ∀ s a, (f s a).mem = s.mem) (l : List α) (s : State) :
    (l.foldl f s).mem = s.mem := by
  induction l generalizing s with
  | nil => rfl
  | cons a l ih => exact (ih _).trans (h s a)

@[simp] theorem dirty_mem (s : State) (a : Nat) (n : Nat) : (dirty s a n).mem = s.mem := by simp [dirty, apply_ite State.mem]
@[simp] theorem refuse_mem (s : State) : (refuse s).mem = s.mem := by simp [refuse]
@[simp] theorem mbxRefuse_mem (s : State) (m : Nat) (id : Nat) : (mbxRefuse s m id).mem = s.mem := by simp [mbxRefuse]
@[simp] theorem setFull_mem (s : State) (m : Nat) (b : Bool) : (setFull s m b).mem = s.mem := by simp [setFull]
@[simp] theorem mbxRead_mem (s : State) (id : Nat) (m : Nat) : (mbxRead s id m).mem = s.mem := by
  unfold mbxRead
  split <;> (try split) <;> simp
@[simp] theorem queueIrq_mem (s : State) (q : Nat) (cause : Bool) : (queueIrq s q cause).mem = s.mem := by
  unfold queueIrq
  split <;> simp
@[simp] theorem setLegacy_mem (s : State) (q : Nat) (x : Legacy) : (setLegacy s q x).mem = s.mem := by simp [setLegacy]
@[simp] theorem queueRefill_mem (s : State) (q : Nat) : (queueRefill s q).mem = s.mem := by simp [queueRefill]
@[simp] theorem queuePop_mem (s : State) (q : Nat) : (queuePop s q).mem = s.mem := by
  unfold queuePop
  dsimp only
  (repeat' split) <;> simp
@[simp] theorem setLock_mem (s : State) (k : Nat) (id : Nat) : (setLock s k id).mem = s.mem := by simp [setLock]
@[simp] theorem lockRead_mem (s : State) (id : Nat) (k : Nat) : (lockRead s id k).mem = s.mem := by
  simp [lockRead, apply_ite State.mem]
@[simp] theorem readRow_mem (s : State) (blk : Nat) (a : Nat) (r : RegRow) (i : Nat) (j : Nat) :
    (readRow s blk a r i j).mem = s.mem := by
  unfold readRow
  split <;> simp
@[simp] theorem readReg_mem (s : State) (port : Port) (a : Nat) : (readReg s port a).mem = s.mem := by
  unfold readReg
  dsimp only
  (repeat' split) <;> simp
@[simp] theorem portRead_mem (s : State) (port : Port) (a : Nat) : (portRead s port a).mem = s.mem := by
  unfold portRead
  split <;> simp
@[simp] theorem signalRing_mem (s : State) (r : Nat) (ctrl : Nat) : (signalRing s r ctrl).mem = s.mem := by
  simp [signalRing, apply_ite State.mem]
@[simp] theorem eventRing_mem (s : State) (msg : List Byte) : (eventRing s msg).2.mem = s.mem := by
  unfold eventRing
  dsimp only
  (repeat' split) <;> simp
@[simp] theorem carryEvent_mem (s : State) (owner : Option Endpoint) (msg : List Byte) :
    (carryEvent s owner msg).2.mem = s.mem := by
  unfold carryEvent
  split <;> simp
@[simp] theorem setSub_mem (s : State) (slot : Nat) (x : Subscription) : (setSub s slot x).mem = s.mem := by simp [setSub]
@[simp] theorem sendEvent_mem (s : State) (slot : Nat) (blk : Nat) (h : HistEntry) : (sendEvent s slot blk h).2.mem = s.mem := by
  unfold sendEvent
  dsimp only
  (repeat' split) <;> simp
@[simp] theorem pushHist_mem (s : State) (blk : Nat) (h : HistEntry) : (pushHist s blk h).mem = s.mem := by
  simp [pushHist, apply_ite State.mem]
@[simp] theorem logEntry_mem (s : State) (blk : Nat) (h : HistEntry) : (logEntry s blk h).2.mem = s.mem := by simp [logEntry]
@[simp] theorem showRung_mem (s : State) (blk : Nat) (rung : Nat) : (showRung s blk rung).mem = s.mem := by
  unfold showRung
  split <;> simp
@[simp] theorem regionStop_mem (s : State) : (regionStop s).mem = s.mem := by unfold regionStop; split <;> simp
@[simp] theorem showEvent_mem (s : State) (e : Event) : (showEvent s e).mem = s.mem := by simp [showEvent, apply_ite State.mem]
@[simp] theorem markPending_mem (s : State) (a : Nat) (v : Word) : (markPending s a v).mem = s.mem := by
  unfold markPending
  (repeat' split) <;> simp
@[simp] theorem showJournal_mem (s : State) : (showJournal s).mem = s.mem := by simp [showJournal]
@[simp] theorem stampOne_mem (s : State) (e : JEntry) : (stampOne s e).1.mem = s.mem := by simp [stampOne]
@[simp] theorem sendTwin_mem (s : State) (ft : Nat) (body : List Byte) : (sendTwin s ft body).mem = s.mem := by
  unfold sendTwin
  split <;> (try split) <;> simp
@[simp] theorem landed_mem (s : State) (req : Option Nat) (m : Word) : (landed s req m).mem = s.mem := by
  unfold landed
  split <;> simp
theorem enableRefused_mem (s : State) (a : Nat) (v : Word) (y : State) (h : enableRefused s a v = some y) : y.mem = s.mem := by
  unfold enableRefused at h
  (repeat' split at h) <;> simp at h <;> subst h <;> simp
@[simp] theorem ringError_mem (s : State) (r : Nat) (cause : Nat) : (ringError s r cause).mem = s.mem := by simp [ringError]
@[simp] theorem sqDoorbell_mem (s : State) (r : Nat) (v : Word) : (sqDoorbell s r v).mem = s.mem := by
  unfold sqDoorbell
  dsimp only
  (repeat' split) <;> simp
@[simp] theorem freeFlow_mem (s : State) (n : Nat) : (freeFlow s n).mem = s.mem := by simp [freeFlow]
@[simp] theorem freeFlows_mem (s : State) (p : Endpoint → Bool) : (freeFlows s p).mem = s.mem := by
  unfold freeFlows
  apply foldl_mem
  intro s a
  simp
@[simp] theorem ringPairCtrl_mem (s : State) (r : Fin 8) (v : Word) : (ringPairCtrl s r v).mem = s.mem := by
  simp [ringPairCtrl, apply_ite State.mem]
@[simp] theorem evqDoorbell_mem (s : State) (v : Word) : (evqDoorbell s v).mem = s.mem := by simp [evqDoorbell]
@[simp] theorem cqWrite_mem (s : State) (r : Nat) (e : Nat × List Byte × List Byte) : (cqWrite s r e).mem = s.mem := by
  unfold cqWrite
  split <;> simp
@[simp] theorem secDone_mem (s : State) (action : Nat) (result : Nat) : (secDone s action result).mem = s.mem := by simp [secDone]
@[simp] theorem secConfirm_mem (s : State) : (secConfirm s).mem = s.mem := by unfold secConfirm; split <;> simp
@[simp] theorem maintRel_mem (s : State) (act : Nat) : (maintRel s act).mem = s.mem := by unfold maintRel; split <;> simp
@[simp] theorem maintReq_mem (s : State) (act : Nat) : (maintReq s act).2.mem = s.mem := by
  unfold maintReq
  dsimp only
  (repeat' split) <;> simp
@[simp] theorem showStage_mem (s : State) (st : Nat) : (showStage s st).mem = s.mem := by simp [showStage]
@[simp] theorem dropStaging_mem (s : State) : (dropStaging s).mem = s.mem := by
  unfold dropStaging
  (repeat' split) <;> simp [foldl_mem]
@[simp] theorem secAbort_mem (s : State) : (secAbort s).mem = s.mem := by simp [secAbort]
@[simp] theorem secNonce_mem (s : State) : (secNonce s).mem = s.mem := by
  unfold secNonce
  apply foldl_mem
  intro s a
  simp
@[simp] theorem drivePins_mem (s : State) (t : Nat) : (drivePins s t).mem = s.mem := by
  unfold drivePins
  simp [apply_ite State.mem, foldl_mem]
@[simp] theorem driveTxdis_mem (s : State) : (driveTxdis s).mem = s.mem := by simp [driveTxdis, apply_ite State.mem]
@[simp] theorem padsReset_mem (s : State) : (padsReset s).mem = s.mem := by simp [padsReset]
@[simp] theorem showBoot_mem (s : State) (st : Nat) (slot : Nat) (area : Nat) (trial : Bool) :
    (showBoot s st slot area trial).mem = s.mem := by
  simp [showBoot]
@[simp] theorem bootSlot_mem (s : State) (slot : Nat) (area : Nat) (trial : Bool) : (bootSlot s slot area trial).mem = s.mem := by
  simp [bootSlot, apply_ite State.mem]
@[simp] theorem loadKeys_mem (s : State) : (loadKeys s).mem = s.mem := by simp [loadKeys]
@[simp] theorem showFuses_mem (s : State) : (showFuses s).mem = s.mem := by
  unfold showFuses
  apply foldl_mem
  intro s a
  simp
@[simp] theorem hostDefaults_mem (s : State) : (hostDefaults s).mem = s.mem := by simp [hostDefaults]
@[simp] theorem landSecCommit_mem (s : State) (v : Word) : (landSecCommit s v).mem = s.mem := by
  unfold landSecCommit
  split <;> simp
@[simp] theorem faultAck_mem (s : State) (blk : Nat) (ev : Nat) : (faultAck s blk ev).mem = s.mem := by simp [faultAck]
@[simp] theorem inject_mem (s : State) : (inject s).mem = s.mem := by simp [inject, apply_ite State.mem]
@[simp] theorem landMaintReq_mem (s : State) (v : Word) : (landMaintReq s v).mem = s.mem := by unfold landMaintReq; split <;> simp
@[simp] theorem showFbc_mem (s : State) : (showFbc s).mem = s.mem := by simp [showFbc]
@[simp] theorem clearStop_mem (s : State) : (clearStop s).mem = s.mem := by unfold clearStop; split <;> simp
@[simp] theorem landFioCommit_mem (s : State) (v : Word) : (landFioCommit s v).mem = s.mem := by
  unfold landFioCommit
  split <;> simp
@[simp] theorem landFioOut_mem (s : State) (v : Word) : (landFioOut s v).mem = s.mem := by
  unfold landFioOut
  apply foldl_mem
  intro s a
  (repeat' split) <;> simp
@[simp] theorem applyOutputs_mem (s : State) : (applyOutputs s).mem = s.mem := by
  unfold applyOutputs
  simp [apply_ite State.mem, foldl_mem]
@[simp] theorem dieMod_mem (s : State) (f : Fio → Fio) : (dieMod s f).mem = s.mem := by simp [dieMod, apply_ite State.mem]
@[simp] theorem unlatch_mem (s : State) (k : Nat) : (unlatch s k).mem = s.mem := by unfold unlatch; split <;> simp
@[simp] theorem landOutFlt_mem (s : State) (v : Word) : (landOutFlt s v).mem = s.mem := by
  unfold landOutFlt
  apply foldl_mem
  intro s a
  (repeat' split) <;> simp
@[simp] theorem landFio_mem (s : State) (a : Nat) (r : RegRow) (v : Word) : (landFio s a r v).mem = s.mem := by
  unfold landFio
  split <;> simp
@[simp] theorem landTwinCommit_mem (s : State) (v : Word) : (landTwinCommit s v).mem = s.mem := by
  unfold landTwinCommit
  split <;> simp
@[simp] theorem twinAction_mem (s : State) (a : Nat) : (twinAction s a).mem = s.mem := by simp [twinAction]
@[simp] theorem twinDone_mem (s : State) (result : Nat) : (twinDone s result).mem = s.mem := by simp [twinDone]
@[simp] theorem sendHello_mem (s : State) : (sendHello s).mem = s.mem := by simp [sendHello]
@[simp] theorem setTwin_mem (s : State) (st : Nat) (cause : Nat) : (setTwin s st cause).mem = s.mem := by
  simp [setTwin, apply_ite State.mem]
@[simp] theorem resyncBegin_mem (s : State) : (resyncBegin s).mem = s.mem := by simp [resyncBegin, apply_ite State.mem]
@[simp] theorem resyncCmd_mem (s : State) (action : Nat) : (resyncCmd s action).mem = s.mem := by
  simp [resyncCmd, apply_ite State.mem]
@[simp] theorem setCause_mem (s : State) (cause : Nat) : (setCause s cause).mem = s.mem := by simp [setCause]
@[simp] theorem releaseCmd_mem (s : State) : (releaseCmd s).mem = s.mem := by simp [releaseCmd, apply_ite State.mem]
@[simp] theorem rejoinStart_mem (s : State) : (rejoinStart s).mem = s.mem := by simp [rejoinStart]
@[simp] theorem rejoinCmd_mem (s : State) : (rejoinCmd s).mem = s.mem := by simp [rejoinCmd, apply_ite State.mem]
@[simp] theorem swapCmd_mem (s : State) : (swapCmd s).mem = s.mem := by simp [swapCmd, apply_ite State.mem]
@[simp] theorem landTwinCtrl_mem (s : State) (v : Word) : (landTwinCtrl s v).mem = s.mem := by
  simp [landTwinCtrl, apply_ite State.mem]
@[simp] theorem landTwin_mem (s : State) (a : Nat) (r : RegRow) (v : Word) : (landTwin s a r v).mem = s.mem := by
  unfold landTwin
  split <;> simp
@[simp] theorem landAcqCommit_mem (s : State) (v : Word) : (landAcqCommit s v).mem = s.mem := by
  simp [landAcqCommit, apply_ite State.mem]
@[simp] theorem ctrlRes_mem (s : State) (i : Nat) (r : Nat) : (ctrlRes s i r).mem = s.mem := by simp [ctrlRes]
@[simp] theorem spoolStop_mem (s : State) (i : Nat) : (spoolStop s i).mem = s.mem := by unfold spoolStop; split <;> simp
@[simp] theorem spoolArm_mem (s : State) (i : Nat) : (spoolArm s i).mem = s.mem := by
  unfold spoolArm
  (repeat' split) <;> simp [apply_ite State.mem, foldl_mem]
@[simp] theorem showSpool_mem (s : State) (i : Nat) : (showSpool s i).mem = s.mem := by simp [showSpool]
@[simp] theorem forceTrig_mem (s : State) (i : Nat) : (forceTrig s i).mem = s.mem := by simp [forceTrig]
@[simp] theorem spoolForce_mem (s : State) (i : Nat) : (spoolForce s i).mem = s.mem := by unfold spoolForce; split <;> simp
@[simp] theorem startRecord_mem (s : State) (i : Nat) (slot : Nat) : (startRecord s i slot).mem = s.mem := by simp [startRecord]
@[simp] theorem spoolRelease_mem (s : State) (i : Nat) : (spoolRelease s i).mem = s.mem := by
  unfold spoolRelease
  dsimp only
  (repeat' split) <;> simp
@[simp] theorem showLeave_mem (s : State) (rail : Nat) : (showLeave s rail).mem = s.mem := by simp [showLeave]
@[simp] theorem leaveRequest_mem (s : State) (q : Leave) : (leaveRequest s q).mem = s.mem := by unfold leaveRequest; split <;> simp
@[simp] theorem burstAsk_mem (s : State) (requester : Nat) (cls : Nat) : (burstAsk s requester cls).mem = s.mem := by
  unfold burstAsk
  split <;> simp
@[simp] theorem spoolDump_mem (s : State) (i : Nat) : (spoolDump s i).mem = s.mem := by
  unfold spoolDump
  dsimp only
  (repeat' split) <;> simp
@[simp] theorem landSpoolCtrl_mem (s : State) (i : Nat) (v : Word) : (landSpoolCtrl s i v).mem = s.mem := by
  unfold landSpoolCtrl
  (repeat' split) <;> simp
@[simp] theorem landAcq_mem (s : State) (a : Nat) (r : RegRow) (i : Nat) (v : Word) : (landAcq s a r i v).mem = s.mem := by
  unfold landAcq
  split <;> (try split) <;> simp
@[simp] theorem landFbcCommit_mem (s : State) (v : Word) : (landFbcCommit s v).mem = s.mem := by
  simp [landFbcCommit, apply_ite State.mem]
@[simp] theorem landEncStatus_mem (s : State) (c : Nat) (v : Word) : (landEncStatus s c v).mem = s.mem := by simp [landEncStatus]
@[simp] theorem setCompare_mem (s : State) (k : Nat) (x : Compare) : (setCompare s k x).mem = s.mem := by simp [setCompare]
@[simp] theorem landCmpCtrl_mem (s : State) (k : Nat) (v : Word) : (landCmpCtrl s k v).mem = s.mem := by
  unfold landCmpCtrl
  split <;> (try split) <;> simp
@[simp] theorem landFbc_mem (s : State) (a : Nat) (r : RegRow) (i : Nat) (v : Word) : (landFbc s a r i v).mem = s.mem := by
  unfold landFbc
  split <;> (try split) <;> simp
@[simp] theorem mbxStore_mem (s : State) (id : Nat) (m : Nat) (v : Word) : (mbxStore s id m v).mem = s.mem := by
  unfold mbxStore
  split <;> simp
@[simp] theorem portBus_mem (s : State) (port : Nat) : (portBus s port).mem = s.mem := by simp [portBus]
@[simp] theorem mbxDeliver_mem (s : State) (m : Nat) (v : Word) : (mbxDeliver s m v).mem = s.mem := by
  unfold mbxDeliver
  split <;> simp
@[simp] theorem mbxWrite_mem (s : State) (id : Nat) (m : Nat) (v : Word) : (mbxWrite s id m v).mem = s.mem := by
  simp [mbxWrite, apply_ite State.mem]
@[simp] theorem mbxConfig_mem (s : State) (id : Nat) (m : Nat) (reg : Nat) (mask : Word) (v : Word) :
    (mbxConfig s id m reg mask v).mem = s.mem := by
  unfold mbxConfig
  split <;> simp
@[simp] theorem queuePush_mem (s : State) (q : Nat) (v : Word) : (queuePush s q v).mem = s.mem := by
  simp [queuePush, apply_ite State.mem]
@[simp] theorem lockWrite_mem (s : State) (id : Nat) (k : Nat) (v : Word) : (lockWrite s id k v).mem = s.mem := by
  unfold lockWrite
  split <;> simp
@[simp] theorem showDelays_mem (s : State) : (showDelays s).mem = s.mem := by simp [showDelays]
@[simp] theorem cancel_mem (s : State) (t : Nat) (del : Bool) : (cancel s t del).mem = s.mem := by
  simp [cancel, apply_ite State.mem]
@[simp] theorem postToken_mem (s : State) (fw : Bool) (v : Word) : (postToken s fw v).mem = s.mem := by simp [postToken]
@[simp] theorem delayRemove_mem (s : State) : (delayRemove s).mem = s.mem := by simp [delayRemove]
@[simp] theorem delayInsert_mem (s : State) : (delayInsert s).mem = s.mem := by simp [delayInsert, apply_ite State.mem]
@[simp] theorem landSchedCommit_mem (s : State) (v : Word) : (landSchedCommit s v).mem = s.mem := by
  unfold landSchedCommit
  split <;> (try split) <;> simp
@[simp] theorem descriptorWrite_mem (s : State) (host : Bool) (t : Nat) (w : Nat) (v : Word) :
    (descriptorWrite s host t w v).mem = s.mem := by
  simp [descriptorWrite, apply_ite State.mem]
@[simp] theorem landSched_mem (s : State) (port : Port) (a : Nat) (r : RegRow) (i : Nat) (j : Nat) (v : Word) :
    (landSched s port a r i j v).mem = s.mem := by
  unfold landSched
  split <;> (try split) <;> simp
@[simp] theorem hemDone_mem (s : State) (result : Nat) : (hemDone s result).mem = s.mem := by unfold hemDone; split <;> simp
@[simp] theorem loadCores_mem (s : State) (cores : List Nat) (hdr : List Byte) (body : List Byte) :
    (loadCores s cores hdr body).mem = s.mem := by
  unfold loadCores
  apply foldl_mem
  intro s a
  simp
@[simp] theorem hemLoad_mem (s : State) : (hemLoad s).mem = s.mem := by simp [hemLoad, apply_ite State.mem]
@[simp] theorem hemPatch_mem (s : State) : (hemPatch s).mem = s.mem := by simp [hemPatch, apply_ite State.mem]
@[simp] theorem landHemCommit_mem (s : State) (v : Word) : (landHemCommit s v).mem = s.mem := by
  unfold landHemCommit
  split <;> (try split) <;> simp
@[simp] theorem landCoreCtrl_mem (s : State) (c : Nat) (v : Word) : (landCoreCtrl s c v).mem = s.mem := by
  simp [landCoreCtrl, apply_ite State.mem]
@[simp] theorem landHem_mem (s : State) (a : Nat) (r : RegRow) (i : Nat) (v : Word) : (landHem s a r i v).mem = s.mem := by
  unfold landHem
  split <;> simp
@[simp] theorem setLaneOp_mem (s : State) (l : Nat) (o : Option LaneOp) : (setLaneOp s l o).mem = s.mem := by simp [setLaneOp]
@[simp] theorem lopDone_mem (s : State) (reg : Nat) (l : Nat) (a : Nat) (result : Nat) :
    (lopDone s reg l a result).mem = s.mem := by
  simp [lopDone]
@[simp] theorem landCoefCommit_mem (s : State) (v : Word) : (landCoefCommit s v).mem = s.mem := by
  unfold landCoefCommit
  (repeat' split) <;> simp [apply_ite State.mem, foldl_mem]
@[simp] theorem landBankSwap_mem (s : State) (v : Word) : (landBankSwap s v).mem = s.mem := by
  simp [landBankSwap, apply_ite State.mem]
@[simp] theorem setInj_mem (s : State) (i : Nat) (x : Injector) : (setInj s i x).mem = s.mem := by simp [setInj]
@[simp] theorem landInjCtrl_mem (s : State) (i : Nat) (v : Word) : (landInjCtrl s i v).mem = s.mem := by
  simp [landInjCtrl, apply_ite State.mem]
@[simp] theorem setBank_mem (s : State) (one : Bool) (a : Nat) (i : Nat) (v : Word) : (setBank s one a i v).mem = s.mem := by
  unfold setBank
  split <;> simp
@[simp] theorem landCoef_mem (s : State) (a : Nat) (i : Nat) (v : Word) : (landCoef s a i v).mem = s.mem := by
  simp [landCoef, apply_ite State.mem]
@[simp] theorem landLaneBaste_mem (s : State) (l : Nat) (i : Nat) (v : Word) : (landLaneBaste s l i v).mem = s.mem := by
  unfold landLaneBaste
  split <;> simp
@[simp] theorem landLoop_mem (s : State) (a : Nat) (r : RegRow) (i : Nat) (j : Nat) (v : Word) :
    (landLoop s a r i j v).mem = s.mem := by
  unfold landLoop
  dsimp only
  (repeat' split) <;> simp
@[simp] theorem paramDone_mem (s : State) (a : Nat) (result : Nat) : (paramDone s a result).mem = s.mem := by simp [paramDone]
@[simp] theorem landParamCommit_mem (s : State) (v : Word) : (landParamCommit s v).mem = s.mem := by
  unfold landParamCommit
  (repeat' split) <;> simp [foldl_mem]
@[simp] theorem landProfCmd_mem (s : State) (v : Word) : (landProfCmd s v).mem = s.mem := by simp [landProfCmd]
@[simp] theorem landProf_mem (s : State) (a : Nat) (r : RegRow) (i : Nat) (v : Word) : (landProf s a r i v).mem = s.mem := by
  unfold landProf
  dsimp only
  (repeat' split) <;> simp
@[simp] theorem landTimeCommit_mem (s : State) : (landTimeCommit s).mem = s.mem := by simp [landTimeCommit, apply_ite State.mem]
@[simp] theorem setRate_mem (s : State) (r : Int) : (setRate s r).mem = s.mem := by simp [setRate]
@[simp] theorem endHoldover_mem (s : State) : (endHoldover s).mem = s.mem := by unfold endHoldover; split <;> (try split) <;> simp
@[simp] theorem servoWrote_mem (s : State) : (servoWrote s).mem = s.mem := by simp [servoWrote]
@[simp] theorem noteClamp_mem (s : State) (v : Word) : (noteClamp s v).mem = s.mem := by unfold noteClamp; split <;> simp
@[simp] theorem snapshot_mem (s : State) : (snapshot s).mem = s.mem := by simp [snapshot]
@[simp] theorem loseSource_mem (s : State) : (loseSource s).mem = s.mem := by unfold loseSource; split <;> simp
@[simp] theorem landTimeCtrl_mem (s : State) (v : Word) : (landTimeCtrl s v).mem = s.mem := by
  unfold landTimeCtrl
  split <;> (try split) <;> simp
@[simp] theorem domainRate_mem (s : State) (k : Nat) (v : Word) : (domainRate s k v).mem = s.mem := by
  unfold domainRate
  split <;> simp
@[simp] theorem domainStep_mem (s : State) (k : Nat) (v : Word) : (domainStep s k v).mem = s.mem := by
  unfold domainStep
  split <;> simp
@[simp] theorem landRingCommit_mem (s : State) : (landRingCommit s).mem = s.mem := by simp [landRingCommit, apply_ite State.mem]
@[simp] theorem landXtOut_mem (s : State) (v : Word) : (landXtOut s v).mem = s.mem := by simp [landXtOut]
@[simp] theorem ctrlStart_mem (s : State) (action : Nat) : (ctrlStart s action).mem = s.mem := by simp [ctrlStart]
@[simp] theorem ctrlDone_mem (s : State) (result : Nat) : (ctrlDone s result).mem = s.mem := by simp [ctrlDone]
@[simp] theorem showTail_mem (s : State) : (showTail s).mem = s.mem := by simp [showTail]
@[simp] theorem otherDown_mem (s : State) : (otherDown s).mem = s.mem := by unfold otherDown; split <;> simp
@[simp] theorem coldStart_mem (s : State) : (coldStart s).mem = s.mem := by simp [coldStart]
@[simp] theorem setSlot_mem (s : State) (i : Nat) (x : SvcSlot) : (setSlot s i x).mem = s.mem := by simp [setSlot]
@[simp] theorem svcEnd_mem (s : State) (i : Nat) (result : Nat) (data : List Byte) : (svcEnd s i result data).mem = s.mem := by
  unfold svcEnd
  dsimp only
  (repeat' split) <;> simp
@[simp] theorem firstIdle_mem (s : State) (st : Nat) : (firstIdle s st).mem = s.mem := by unfold firstIdle; split <;> simp
@[simp] theorem idleFrom_mem (s : State) (st : Nat) : (idleFrom s st).mem = s.mem := by unfold idleFrom; split <;> simp
@[simp] theorem aliveFrom_mem (s : State) (st : Nat) : (aliveFrom s st).mem = s.mem := by unfold aliveFrom; split <;> simp
@[simp] theorem sendRing_mem (s : State) (payload : List Byte) : (sendRing s payload).mem = s.mem := by
  unfold sendRing
  split <;> simp
@[simp] theorem sendMgmt_mem (s : State) (ft : Nat) (sub : Nat) (body : List Byte) : (sendMgmt s ft sub body).mem = s.mem := by
  simp [sendMgmt]
@[simp] theorem recalStart_mem (s : State) : (recalStart s).mem = s.mem := by simp [recalStart]
@[simp] theorem delayRecal_mem (s : State) : (delayRecal s).mem = s.mem := by simp [delayRecal, apply_ite State.mem]
@[simp] theorem heal_mem (s : State) : (heal s).mem = s.mem := by simp [heal, apply_ite State.mem]
@[simp] theorem showNode_mem (s : State) : (showNode s).mem = s.mem := by simp [showNode]
@[simp] theorem landSysCommit_mem (s : State) : (landSysCommit s).mem = s.mem := by simp [landSysCommit, apply_ite State.mem]
@[simp] theorem landSys_mem (s : State) (a : Nat) (r : RegRow) (v : Word) : (landSys s a r v).mem = s.mem := by
  unfold landSys
  split <;> (try split) <;> simp
@[simp] theorem histClear_mem (s : State) (blk : Nat) : (histClear s blk).mem = s.mem := by simp [histClear]
@[simp] theorem landFlt_mem (s : State) (blk : Nat) (a : Nat) (r : RegRow) (v : Word) : (landFlt s blk a r v).mem = s.mem := by
  unfold landFlt
  split <;> (try split) <;> simp
@[simp] theorem ringDone_mem (s : State) (r : Fin 8) : (ringDone s r).mem = s.mem := by simp [ringDone, apply_ite State.mem]
@[simp] theorem cqPost_mem (s : State) (r : Nat) (e : Nat × List Byte × List Byte) : (cqPost s r e).mem = s.mem := by
  simp [cqPost, apply_ite State.mem]
@[simp] theorem queueFill_mem (s : State) (q : Nat) (vs : List Word) : (queueFill s q vs).mem = s.mem := by simp [queueFill]
@[simp] theorem deliver_mem (s : State) (w : Waiting) (status : Nat) (msg : List Byte) : (deliver s w status msg).mem = s.mem := by
  unfold deliver
  split <;> simp
@[simp] theorem finish_mem (s : State) (w : Waiting) (status : Nat) (payload : List Byte) :
    (finish s w status payload).mem = s.mem := by
  simp [finish, apply_ite State.mem]
@[simp] theorem replyG_mem (s : State) (w : Waiting) (status : Nat) (detail : Nat) : (replyG s w status detail).mem = s.mem := by
  simp [replyG]
@[simp] theorem setTq_mem (s : State) (port : Nat) (q : Nat) (x : List TimedEntry) : (setTq s port q x).mem = s.mem := by
  simp [setTq]
@[simp] theorem tqPush_mem (s : State) (port : Nat) (q : Nat) (e : TimedEntry) : (tqPush s port q e).mem = s.mem := by simp [tqPush]
@[simp] theorem opTimedFrame_mem (s : State) (w : Waiting) (b : List Byte) : (opTimedFrame s w b).mem = s.mem := by
  simp [opTimedFrame, apply_ite State.mem]
@[simp] theorem opHistRead_mem (s : State) (w : Waiting) (b : List Byte) : (opHistRead s w b).mem = s.mem := by
  simp [opHistRead, apply_ite State.mem]
@[simp] theorem opEvtSubscribe_mem (s : State) (w : Waiting) (b : List Byte) : (opEvtSubscribe s w b).mem = s.mem := by
  unfold opEvtSubscribe
  dsimp only
  (repeat' split) <;> simp
@[simp] theorem opAxisStatus_mem (s : State) (w : Waiting) (b : List Byte) : (opAxisStatus s w b).mem = s.mem := by
  simp [opAxisStatus, apply_ite State.mem]
@[simp] theorem opStatusGet_mem (s : State) (w : Waiting) (b : List Byte) : (opStatusGet s w b).mem = s.mem := by
  unfold opStatusGet
  split <;> simp
@[simp] theorem showProt_mem (s : State) (st : Nat) (kind : Nat) : (showProt s st kind).mem = s.mem := by simp [showProt]
@[simp] theorem protApply_mem (s : State) (p : ProtReq) : (protApply s p).mem = s.mem := by simp [protApply]
@[simp] theorem protConfirm_mem (s : State) (b : List Byte) : (protConfirm s b).2.mem = s.mem := by
  unfold protConfirm
  (repeat' split) <;> simp
@[simp] theorem protRequest_mem (s : State) (b : List Byte) : (protRequest s b).2.mem = s.mem := by
  unfold protRequest
  dsimp only
  (repeat' split) <;> simp
@[simp] theorem opNonceGet_mem (s : State) (w : Waiting) (b : List Byte) : (opNonceGet s w b).mem = s.mem := by
  unfold opNonceGet
  split <;> simp
@[simp] theorem unwait_mem (s : State) (id : Nat) : (unwait s id).mem = s.mem := by simp [unwait]
@[simp] theorem serviceReply_mem (s : State) (w : Waiting) (opcode : Nat) (d : SvcDone) :
    (serviceReply s w opcode d).mem = s.mem := by
  unfold serviceReply
  (repeat' split) <;> simp
@[simp] theorem dropWaiting_mem (s : State) (w : Waiting) : (dropWaiting s w).mem = s.mem := by unfold dropWaiting; split <;> simp
@[simp] theorem tryComplete_mem (s : State) (id : Nat) : (tryComplete s id).mem = s.mem := by
  unfold tryComplete
  dsimp only
  (repeat' split) <;> simp
@[simp] theorem markWrites_mem (s : State) (ws : List JWrite) : (markWrites s ws).mem = s.mem := by
  unfold markWrites
  simp [apply_ite State.mem, foldl_mem]
@[simp] theorem await_mem (s : State) (w : Waiting) (wait : WaitFor) (res : Nat) : (await s w wait res).mem = s.mem := by
  simp [await]
@[simp] theorem notOwner_mem (s : State) (w : Waiting) : (notOwner s w).mem = s.mem := by simp [notOwner]
@[simp] theorem opUpdStatus_mem (s : State) (w : Waiting) (b : List Byte) : (opUpdStatus s w b).mem = s.mem := by
  unfold opUpdStatus
  split <;> simp
@[simp] theorem stageRefused_mem (s : State) (status : Nat) : (stageRefused s status).2.mem = s.mem := by simp [stageRefused]
@[simp] theorem showStaged_mem (s : State) (m : List Byte) : (showStaged s m).mem = s.mem := by
  unfold showStaged
  apply foldl_mem
  intro s a
  simp
theorem svcTry_mem (s : State) (q : SvcReq) (y : State) (h : svcTry s q = some y) : y.mem = s.mem := by
  unfold svcTry at h
  (repeat' split at h) <;> simp at h <;> subst h <;> simp
@[simp] theorem opSpoolRead_mem (s : State) (w : Waiting) (b : List Byte) : (opSpoolRead s w b).mem = s.mem := by
  simp [opSpoolRead, apply_ite State.mem]
@[simp] theorem opSpoolState_mem (s : State) (w : Waiting) (b : List Byte) : (opSpoolState s w b).mem = s.mem := by
  simp [opSpoolState, apply_ite State.mem]
@[simp] theorem opWmbxFetch_mem (s : State) (w : Waiting) (b : List Byte) : (opWmbxFetch s w b).mem = s.mem := by
  unfold opWmbxFetch
  dsimp only
  (repeat' split) <;> simp
@[simp] theorem opCmpStatus_mem (s : State) (w : Waiting) (b : List Byte) : (opCmpStatus s w b).mem = s.mem := by
  simp [opCmpStatus, apply_ite State.mem]
@[simp] theorem opSegStatus_mem (s : State) (w : Waiting) (b : List Byte) : (opSegStatus s w b).mem = s.mem := by
  simp [opSegStatus, apply_ite State.mem]
@[simp] theorem opCoefGet_mem (s : State) (w : Waiting) (b : List Byte) : (opCoefGet s w b).mem = s.mem := by
  simp [opCoefGet, apply_ite State.mem]
@[simp] theorem opParamGet_mem (s : State) (w : Waiting) (b : List Byte) : (opParamGet s w b).mem = s.mem := by
  simp [opParamGet, apply_ite State.mem]
@[simp] theorem opArchRead_mem (s : State) (w : Waiting) (b : List Byte) : (opArchRead s w b).mem = s.mem := by
  simp [opArchRead, apply_ite State.mem]
@[simp] theorem opBoltRead_mem (s : State) (w : Waiting) (b : List Byte) : (opBoltRead s w b).mem = s.mem := by
  simp [opBoltRead, apply_ite State.mem]
@[simp] theorem opFlowClose_mem (s : State) (w : Waiting) (b : List Byte) : (opFlowClose s w b).mem = s.mem := by
  unfold opFlowClose
  split <;> simp
@[simp] theorem opFlowOpen_mem (s : State) (w : Waiting) (b : List Byte) : (opFlowOpen s w b).mem = s.mem := by
  simp [opFlowOpen, apply_ite State.mem]
@[simp] theorem answer_mem (s : State) (w : Waiting) (status : Nat) : (answer s w status).mem = s.mem := by simp [answer]
@[simp] theorem resend_mem (s : State) (w : Waiting) : (resend s w).mem = s.mem := by
  unfold resend
  dsimp only
  (repeat' split) <;> simp
@[simp] theorem discardMsg_mem (s : State) : (discardMsg s).mem = s.mem := by simp [discardMsg]
@[simp] theorem legacyDrop_mem (s : State) : (legacyDrop s).mem = s.mem := by
  unfold legacyDrop
  apply foldl_mem
  intro s a
  (repeat' split) <;> simp
@[simp] theorem actDone_mem (s : State) (result : Nat) : (actDone s result).mem = s.mem := by simp [actDone]
@[simp] theorem storeCoef_mem (s : State) (a : Nat) (w : Nat → Word) : (storeCoef s a w).mem = s.mem := by
  unfold storeCoef
  apply foldl_mem
  intro s a
  (repeat' split) <;> simp
@[simp] theorem defaultCoefs_mem (s : State) (rs : List CfgRecord) : (defaultCoefs s rs).mem = s.mem := by
  unfold defaultCoefs
  apply foldl_mem
  intro s a
  simp
@[simp] theorem axMod_mem (s : State) (a : Nat) (f : Axis → Axis) : (axMod s a f).mem = s.mem := by simp [axMod]
@[simp] theorem setGroup_mem (s : State) (g : Nat) (x : Group) : (setGroup s g x).mem = s.mem := by simp [setGroup]
@[simp] theorem assignGroups_mem (s : State) (gs : List (List Nat)) : (assignGroups s gs).mem = s.mem := by
  unfold assignGroups
  (repeat' split) <;> simp [apply_ite State.mem, foldl_mem]
@[simp] theorem setRetCopy_mem (s : State) (a : Nat) (c : Bool) : (setRetCopy s a c).mem = s.mem := by simp [setRetCopy]
@[simp] theorem phaseLoss_mem (s : State) (a : Nat) : (phaseLoss s a).mem = s.mem := by simp [phaseLoss]
@[simp] theorem retainLoad_mem (s : State) (a : Nat) : (retainLoad s a).mem = s.mem := by simp [retainLoad, apply_ite State.mem]
@[simp] theorem lineUp_mem (s : State) (port : Bool) : (lineUp s port).mem = s.mem := by simp [lineUp]
@[simp] theorem nameLine_mem (s : State) (port : Bool) : (nameLine s port).mem = s.mem := by unfold nameLine; split <;> simp
theorem guarded_mem (ok : Bool) (s : State) (y : State) (h : guarded ok s = some y) : y.mem = s.mem := by
  unfold guarded at h
  (repeat' split at h) <;> simp at h <;> subst h <;> simp
@[simp] theorem keepLatest_mem (s : State) : (keepLatest s).mem = s.mem := by simp [keepLatest]
@[simp] theorem ssiClock_mem (s : State) (c : Nat) (high : Bool) : (ssiClock s c high).mem = s.mem := by simp [ssiClock]
@[simp] theorem setEmu_mem (s : State) (e : Nat) (x : Emu) : (setEmu s e x).mem = s.mem := by simp [setEmu]
@[simp] theorem injAbort_mem (s : State) (a : Nat) : (injAbort s a).mem = s.mem := by simp [injAbort, apply_ite State.mem]
@[simp] theorem groupQuickFrom_mem (point : Axis → SetPoint) (s : State) (g : Nat) : (groupQuickFrom point s g).mem = s.mem := by
  unfold groupQuickFrom
  simp [apply_ite State.mem, foldl_mem]
@[simp] theorem groupQuick_mem (s : State) (g : Nat) : (groupQuick s g).mem = s.mem := by simp [groupQuick]
@[simp] theorem startPlan_mem (s : State) (a : Nat) (mode : Nat) (phases : List Phase) (stop : Int) :
    (startPlan s a mode phases stop).mem = s.mem := by
  simp [startPlan]
@[simp] theorem quickAxis_mem (s : State) (a : Nat) : (quickAxis s a).mem = s.mem := by simp [quickAxis, apply_ite State.mem]
@[simp] theorem quickStop_mem (s : State) (a : Nat) : (quickStop s a).mem = s.mem := by
  unfold quickStop
  split <;> (try split) <;> simp
@[simp] theorem limitStopAx_mem (s : State) (a : Nat) : (limitStopAx s a).mem = s.mem := by simp [limitStopAx]
@[simp] theorem beginMove_mem (s : State) (a : Nat) (pre : List Phase) (target : Int) : (beginMove s a pre target).mem = s.mem := by
  simp [beginMove, apply_ite State.mem]
@[simp] theorem beginJog_mem (s : State) (a : Nat) (pre : List Phase) (v1 : Long) : (beginJog s a pre v1).mem = s.mem := by
  simp [beginJog]
@[simp] theorem planAnew_mem (s : State) (a : Nat) (pre : List Phase) : (planAnew s a pre).mem = s.mem := by
  simp [planAnew, apply_ite State.mem]
@[simp] theorem replan_mem (s : State) (a : Nat) (now : Bool) : (replan s a now).mem = s.mem := by
  unfold replan
  dsimp only
  (repeat' split) <;> simp
@[simp] theorem applyParams_mem (s : State) : (applyParams s).mem = s.mem := by
  unfold applyParams
  (repeat' split) <;> simp [apply_ite State.mem, foldl_mem]
@[simp] theorem orient_mem (s : State) : (orient s).mem = s.mem := by simp [orient, apply_ite State.mem]
@[simp] theorem recordBreak_mem (s : State) (marker : Nat) : (recordBreak s marker).mem = s.mem := by simp [recordBreak]
@[simp] theorem lineBreak_mem (s : State) : (lineBreak s).mem = s.mem := by simp [lineBreak]
@[simp] theorem twinEnd_mem (s : State) (action : Nat) (result : Nat) : (twinEnd s action result).mem = s.mem := by
  unfold twinEnd
  split <;> simp
@[simp] theorem resyncEnd_mem (s : State) (ok : Bool) : (resyncEnd s ok).mem = s.mem := by unfold resyncEnd; split <;> simp
@[simp] theorem unfit_mem (s : State) (cause : Nat) : (unfit s cause).mem = s.mem := by simp [unfit]
@[simp] theorem twinLinkLost_mem (s : State) (lock : Bool) : (twinLinkLost s lock).mem = s.mem := by
  unfold twinLinkLost
  dsimp only
  (repeat' split) <;> simp
@[simp] theorem releaseLocks_mem (s : State) (id : Nat) : (releaseLocks s id).mem = s.mem := by
  unfold releaseLocks
  apply foldl_mem
  intro s a
  (repeat' split) <;> simp
@[simp] theorem pcieLinkReset_mem (s : State) : (pcieLinkReset s).mem = s.mem := by
  unfold pcieLinkReset
  simp [foldl_mem]
@[simp] theorem fioSupplyFall_mem (s : State) : (fioSupplyFall s).mem = s.mem := by simp [fioSupplyFall]
@[simp] theorem longest_mem (s : State) (a : Nat) (n : Nat) : (longest s a n).mem = s.mem := by unfold longest; split <;> simp
@[simp] theorem leaveGrant_mem (s : State) (rail : Nat) : (leaveGrant s rail).mem = s.mem := by
  unfold leaveGrant
  (repeat' split) <;> simp
@[simp] theorem leaveEnd_mem (s : State) (requester : Nat) (running : Bool) : (leaveEnd s requester running).mem = s.mem := by
  unfold leaveEnd
  split <;> (try split) <;> simp
@[simp] theorem rungDone_mem (s : State) (rung : Nat) (blk : Nat) (ev : Nat) : (rungDone s rung blk ev).mem = s.mem := by
  simp [rungDone]
@[simp] theorem unfitOwn_mem (s : State) : (unfitOwn s).mem = s.mem := by unfold unfitOwn; split <;> simp
@[simp] theorem dropQueue_mem (s : State) : (dropQueue s).mem = s.mem := by simp [dropQueue]
@[simp] theorem svcReset_mem (s : State) : (svcReset s).mem = s.mem := by
  unfold svcReset
  apply foldl_mem
  intro s a
  (repeat' split) <;> simp
@[simp] theorem timeResetStart_mem (s : State) : (timeResetStart s).mem = s.mem := by simp [timeResetStart]
@[simp] theorem cmdDone_mem (s : State) (result : Nat) : (cmdDone s result).mem = s.mem := by simp [cmdDone]
@[simp] theorem grpFlag_mem (s : State) (g : Nat) (i : Nat) : (grpFlag s g i).mem = s.mem := by simp [grpFlag]
@[simp] theorem groupEnd_mem (s : State) (g : Nat) : (groupEnd s g).mem = s.mem := by
  unfold groupEnd
  simp [apply_ite State.mem, foldl_mem]
@[simp] theorem taskEnded_mem (s : State) (t : Nat) : (taskEnded s t).mem = s.mem := by simp [taskEnded]
@[simp] theorem cmpOff_mem (s : State) (k : Nat) : (cmpOff s k).mem = s.mem := by simp [cmpOff]
@[simp] theorem clearVolatile_mem (s : State) (blk : Nat) : (clearVolatile s blk).mem = s.mem := by
  unfold clearVolatile
  (repeat' split) <;> simp [apply_ite State.mem, foldl_mem]
@[simp] theorem clearCounters_mem (s : State) (blk : Nat) : (clearCounters s blk).mem = s.mem := by simp [clearCounters]
@[simp] theorem blockReset_mem (s : State) (blk : Nat) : (blockReset s blk).mem = s.mem := by
  unfold blockReset
  (repeat' split) <;> simp [foldl_mem]
@[simp] theorem disableRest_mem (s : State) : (disableRest s).mem = s.mem := by
  unfold disableRest
  (repeat' split) <;> simp [foldl_mem]
@[simp] theorem encFault_mem (s : State) (c : Nat) (lost : Bool) : (encFault s c lost).mem = s.mem := by
  simp [encFault, apply_ite State.mem]
@[simp] theorem setConnSt_mem (s : State) (c : Nat) (st : Nat) : (setConnSt s c st).mem = s.mem := by simp [setConnSt]
@[simp] theorem cellDisable_mem (s : State) (blk : Nat) (k : Nat) : (cellDisable s blk k).mem = s.mem := by
  unfold cellDisable
  (repeat' split) <;> simp [apply_ite State.mem, foldl_mem]
@[simp] theorem noteAt_mem (s : State) (cls : Nat) (index : Nat) (ns : Int) (approx : Bool) :
    (noteAt s cls index ns approx).mem = s.mem := by
  unfold noteAt
  split <;> simp
@[simp] theorem noteReadback_mem (s : State) (readback : Half) : (noteReadback s readback).mem = s.mem := by simp [noteReadback]
@[simp] theorem uplinkTake_mem (s : State) (u : Uplink) (r : DieReport) : (uplinkTake s u r).mem = s.mem := by
  unfold uplinkTake
  simp [apply_ite State.mem, foldl_mem]
@[simp] theorem localLevel_mem (s : State) : (localLevel s).mem = s.mem := by unfold localLevel; split <;> simp
@[simp] theorem showGroup_mem (s : State) (g : Nat) : (showGroup s g).mem = s.mem := by simp [showGroup]
@[simp] theorem showAxis_mem (s : State) (a : Nat) : (showAxis s a).mem = s.mem := by simp [showAxis]
@[simp] theorem showSafe_mem (s : State) : (showSafe s).mem = s.mem := by
  unfold showSafe
  simp [foldl_mem]
@[simp] theorem loadSet_mem (s : State) (bs : List Byte) (f : Safe) : (loadSet s bs f).mem = s.mem := by
  unfold loadSet
  simp [foldl_mem]
@[simp] theorem subToken_mem (s : State) (a : Nat) : (subToken s a).mem = s.mem := by simp [subToken, apply_ite State.mem]
@[simp] theorem queueRecord_mem (s : State) (a : Nat) : (queueRecord s a).mem = s.mem := by unfold queueRecord; split <;> simp
@[simp] theorem handOn_mem (s : State) (a : Nat) : (handOn s a).mem = s.mem := by simp [handOn]
@[simp] theorem setInput_mem (s : State) (a : Nat) (x : InRec) : (setInput s a x).mem = s.mem := by simp [setInput]
@[simp] theorem localInputs_mem (s : State) (bs : List Byte) : (localInputs s bs).mem = s.mem := by
  unfold localInputs
  simp [apply_ite State.mem, foldl_mem]
@[simp] theorem phaseAnswer_mem (s : State) (a : Nat) (result : Nat) (data : List Byte) :
    (phaseAnswer s a result data).mem = s.mem := by
  simp [phaseAnswer, apply_ite State.mem]
@[simp] theorem phaseAnswers_mem (s : State) : (phaseAnswers s).mem = s.mem := by
  unfold phaseAnswers
  apply foldl_mem
  intro s a
  (repeat' split) <;> simp
@[simp] theorem connError_mem (s : State) (c : Nat) (code : Nat) : (connError s c code).mem = s.mem := by
  unfold connError
  dsimp only
  (repeat' split) <;> simp
@[simp] theorem connBadCrc_mem (s : State) (c : Nat) : (connBadCrc s c).mem = s.mem := by simp [connBadCrc, apply_ite State.mem]
@[simp] theorem reopen_mem (s : State) (c : Nat) : (reopen s c).mem = s.mem := by simp [reopen]
@[simp] theorem connAccept_mem (s : State) (c : Nat) (p : List Byte) : (connAccept s c p).mem = s.mem := by
  unfold connAccept
  dsimp only
  (repeat' split) <;> simp
@[simp] theorem connReceive_mem (s : State) (c : Nat) (p : List Byte) : (connReceive s c p).mem = s.mem := by
  simp [connReceive, apply_ite State.mem]
@[simp] theorem islandInbound_mem (s : State) : (islandInbound s).mem = s.mem := by
  unfold islandInbound
  apply foldl_mem
  intro s a
  simp
@[simp] theorem retainMatch_mem (s : State) (a : Nat) : (retainMatch s a).mem = s.mem := by simp [retainMatch, apply_ite State.mem]
@[simp] theorem substitute_mem (s : State) (a : Nat) : (substitute s a).mem = s.mem := by simp [substitute]
@[simp] theorem xtReport_mem (s : State) (t : List Byte) (xtBits : Nat) : (xtReport s t xtBits).mem = s.mem := by
  unfold xtReport
  simp [apply_ite State.mem, foldl_mem]
@[simp] theorem noteReady_mem (s : State) (position : Nat) (ready : Bool) : (noteReady s position ready).mem = s.mem := by
  simp [noteReady]
@[simp] theorem schedule_mem (s : State) (k : Nat) (e : CmpEntry) (x : Int) : (schedule s k e x).mem = s.mem := by
  simp [schedule, apply_ite State.mem]
@[simp] theorem cmpStop_mem (s : State) (k : Nat) (statusBit : Nat) (ev : Nat) : (cmpStop s k statusBit ev).mem = s.mem := by
  simp [cmpStop]
@[simp] theorem takeEntry_mem (s : State) (k : Nat) : (takeEntry s k).mem = s.mem := by
  unfold takeEntry
  dsimp only
  (repeat' split) <;> simp
@[simp] theorem afterFire_mem (s : State) (k : Nat) (e : CmpEntry) (d : Int) : (afterFire s k e d).mem = s.mem := by
  unfold afterFire
  split <;> (try split) <;> simp
@[simp] theorem reportBehind_mem (s : State) (k : Nat) : (reportBehind s k).mem = s.mem := by simp [reportBehind]
@[simp] theorem armEntry_mem (s : State) (k : Nat) (pa : Int) (x : Int) : (armEntry s k pa x).1.mem = s.mem := by
  unfold armEntry
  (repeat' split) <;> simp
@[simp] theorem emuLatch_mem (T : Nat) (s : State) (e : Nat) : (emuLatch T s e).mem = s.mem := by
  simp [emuLatch, apply_ite State.mem]
@[simp] theorem note_mem (s : State) (cls : Nat) (index : Nat) : (note s cls index).mem = s.mem := by simp [note]
@[simp] theorem injLatch_mem (s : State) (i : Nat) : (injLatch s i).mem = s.mem := by simp [injLatch, apply_ite State.mem]
@[simp] theorem loopLatch_mem (s : State) : (loopLatch s).mem = s.mem := by simp [loopLatch]
@[simp] theorem clampLimit_mem (s : State) (a : Nat) : (clampLimit s a).mem = s.mem := by
  unfold clampLimit
  dsimp only
  (repeat' split) <;> simp
@[simp] theorem writePoint_mem (s : State) (a : Nat) : (writePoint s a).mem = s.mem := by simp [writePoint, apply_ite State.mem]
@[simp] theorem groupWrite_mem (s : State) (g : Nat) (how : Nat) (pts : List (Nat × SetPoint)) :
    (groupWrite s g how pts).mem = s.mem := by
  unfold groupWrite
  (repeat' split) <;> simp [apply_ite State.mem, foldl_mem]
@[simp] theorem groupChecks_mem (s : State) (g : Nat) : (groupChecks s g).mem = s.mem := by
  unfold groupChecks
  simp [apply_ite State.mem, foldl_mem]
@[simp] theorem axisChecks_mem (s : State) (a : Nat) : (axisChecks s a).mem = s.mem := by simp [axisChecks, apply_ite State.mem]
@[simp] theorem trip_mem (s : State) (p : Nat) : (trip s p).mem = s.mem := by simp [trip]
@[simp] theorem replanDue_mem (s : State) (a : Nat) : (replanDue s a).mem = s.mem := by
  unfold replanDue
  dsimp only
  (repeat' split) <;> simp
@[simp] theorem jogToMove_mem (s : State) (a : Nat) : (jogToMove s a).mem = s.mem := by unfold jogToMove; split <;> simp
@[simp] theorem disableAxis_mem (s : State) (a : Nat) : (disableAxis s a).mem = s.mem := by
  unfold disableAxis
  split <;> (try split) <;> simp
@[simp] theorem regionQuick_mem (s : State) : (regionQuick s).mem = s.mem := by
  unfold regionQuick
  simp [foldl_mem]
@[simp] theorem applyRequests_mem (s : State) : (applyRequests s).mem = s.mem := by
  unfold applyRequests
  apply foldl_mem
  intro s a
  (repeat' split) <;> simp
@[simp] theorem switchReact_mem (s : State) (a : Nat) : (switchReact s a).mem = s.mem := by
  unfold switchReact
  (repeat' split) <;> simp
@[simp] theorem switchAxis_mem (s : State) (a : Nat) : (switchAxis s a).mem = s.mem := by simp [switchAxis, apply_ite State.mem]
@[simp] theorem switches_mem (s : State) : (switches s).mem = s.mem := by
  unfold switches
  apply foldl_mem
  intro s a
  simp
@[simp] theorem moveCmd_mem (s : State) (a : Nat) (target : Int) : (moveCmd s a target).2.mem = s.mem := by
  unfold moveCmd
  dsimp only
  (repeat' split) <;> simp
@[simp] theorem jogCmd_mem (s : State) (a : Nat) (w : Word) : (jogCmd s a w).2.mem = s.mem := by
  unfold jogCmd
  dsimp only
  (repeat' split) <;> simp
@[simp] theorem stopCmd_mem (s : State) (a : Nat) : (stopCmd s a).2.mem = s.mem := by
  unfold stopCmd
  dsimp only
  (repeat' split) <;> simp
@[simp] theorem followCmd_mem (s : State) (a : Nat) : (followCmd s a).2.mem = s.mem := by
  unfold followCmd
  dsimp only
  (repeat' split) <;> simp
@[simp] theorem regionAsk_mem (s : State) : (regionAsk s).mem = s.mem := by simp [regionAsk, apply_ite State.mem]
@[simp] theorem enableCmd_mem (s : State) (a : Nat) (judge : Bool) : (enableCmd s a judge).2.mem = s.mem := by
  unfold enableCmd
  (repeat' split) <;> simp
@[simp] theorem shiftLoop_mem (s : State) (a : Nat) (d : Int) : (shiftLoop s a d).mem = s.mem := by
  simp [shiftLoop, apply_ite State.mem]
@[simp] theorem setRefCmd_mem (s : State) (a : Nat) (v : Int) : (setRefCmd s a v).2.mem = s.mem := by
  unfold setRefCmd
  dsimp only
  (repeat' split) <;> simp
@[simp] theorem clearGuardCmd_mem (s : State) (p : Nat) : (clearGuardCmd s p).2.mem = s.mem := by
  unfold clearGuardCmd
  dsimp only
  (repeat' split) <;> simp
@[simp] theorem groupCmd_mem (s : State) (op : Nat) (g : Nat) : (groupCmd s op g).2.mem = s.mem := by
  unfold groupCmd
  dsimp only
  (repeat' split) <;> simp
@[simp] theorem stepAxis_mem (s : State) (a : Nat) : (stepAxis s a).mem = s.mem := by simp [stepAxis]
@[simp] theorem twinOffset_mem (s : State) (c : Nat) : (twinOffset s c).mem = s.mem := by
  unfold twinOffset
  dsimp only
  (repeat' split) <;> simp
@[simp] theorem loopEvent_mem (s : State) (ev : Nat) (a : Nat) (detail : Nat) : (loopEvent s ev a detail).mem = s.mem := by
  simp [loopEvent]
@[simp] theorem hemLate_mem (s : State) (a : Nat) : (hemLate s a).mem = s.mem := by simp [hemLate, apply_ite State.mem]
@[simp] theorem noteMiss_mem (s : State) (a : Nat) : (noteMiss s a).mem = s.mem := by simp [noteMiss]
@[simp] theorem noteDigest_mem (s : State) (d : Nat) : (noteDigest s d).mem = s.mem := by simp [noteDigest]
@[simp] theorem imageDone_mem (s : State) (recs : List (Nat × OutRec × Bool)) : (imageDone s recs).mem = s.mem := by
  unfold imageDone
  simp [apply_ite State.mem, foldl_mem]
@[simp] theorem standbyBuild_mem (s : State) : (standbyBuild s).mem = s.mem := by unfold standbyBuild; split <;> simp
theorem twinHeard_mem (s : State) (f : List Byte) (fcsOk : Bool) (y : State) (h : twinHeard s f fcsOk = some y) :
    y.mem = s.mem := by
  unfold twinHeard at h
  (repeat' split at h) <;> simp at h <;> subst h <;> simp
@[simp] theorem splitBound_mem (s : State) (own : List Byte) (their : List Byte) : (splitBound s own their).mem = s.mem := by
  simp [splitBound]
@[simp] theorem slotToken_mem (s : State) : (slotToken s).mem = s.mem := by simp [slotToken]
@[simp] theorem returnSlot_mem (s : State) (i : Nat) (b : List Byte) : (returnSlot s i b).mem = s.mem := by
  unfold returnSlot
  dsimp only
  (repeat' split) <;> simp
@[simp] theorem reportBreak_mem (s : State) (marker : Nat) : (reportBreak s marker).mem = s.mem := by simp [reportBreak]
@[simp] theorem returnTrailer_mem (s : State) (t : List Byte) : (returnTrailer s t).mem = s.mem := by
  unfold returnTrailer
  dsimp only
  (repeat' split) <;> simp
@[simp] theorem activeSplit_mem (s : State) : (activeSplit s).mem = s.mem := by unfold activeSplit; split <;> simp
@[simp] theorem keepFrame_mem (s : State) (b : List Byte) : (keepFrame s b).mem = s.mem := by simp [keepFrame, apply_ite State.mem]
@[simp] theorem takeEnc_mem (s : State) (c : Nat) (e : List Byte) : (takeEnc s c e).mem = s.mem := by simp [takeEnc]
@[simp] theorem takeSsi_mem (s : State) (tail : List Byte) : (takeSsi s tail).mem = s.mem := by
  unfold takeSsi
  apply foldl_mem
  intro s a
  (repeat' split) <;> simp
@[simp] theorem compareDigest_mem (s : State) (n : Word) (theirs : Nat) : (compareDigest s n theirs).mem = s.mem := by
  unfold compareDigest
  dsimp only
  (repeat' split) <;> simp
@[simp] theorem keepEntries_mem (s : State) (es : List JEntry) : (keepEntries s es).mem = s.mem := by simp [keepEntries]
@[simp] theorem actionGrant_mem (s : State) (action : Nat) (activateOk : Bool) :
    (actionGrant s action activateOk).2.mem = s.mem := by
  unfold actionGrant
  split <;> (try split) <;> simp
@[simp] theorem takeCycleA_mem (s : State) (b : List Byte) (activateOk : Bool) : (takeCycleA s b activateOk).mem = s.mem := by
  unfold takeCycleA
  (repeat' split) <;> simp [apply_ite State.mem, foldl_mem]
@[simp] theorem takeHello_mem (s : State) (b : List Byte) : (takeHello s b).mem = s.mem := by simp [takeHello, apply_ite State.mem]
@[simp] theorem stampXt_mem (s : State) (b : Nat) (time : Int) : (stampXt s b time).mem = s.mem := by simp [stampXt]
@[simp] theorem ignoreTrig_mem (s : State) (i : Nat) : (ignoreTrig s i).mem = s.mem := by simp [ignoreTrig]
@[simp] theorem maskFailed_mem (s : State) (i : Nat) (own : Bool) : (maskFailed s i own).mem = s.mem := by
  simp [maskFailed, apply_ite State.mem]
@[simp] theorem groupWaits_mem (s : State) (i : Nat) (g : GroupCall) : (groupWaits s i g).mem = s.mem := by
  simp [groupWaits, apply_ite State.mem]
@[simp] theorem keepPrev_mem (s : State) (i : Nat) (m : Sample) : (keepPrev s i m).mem = s.mem := by unfold keepPrev; split <;> simp
@[simp] theorem fullSample_mem (s : State) (i : Nat) (m : Sample) (g : GroupCall) : (fullSample s i m g).mem = s.mem := by
  simp [fullSample, apply_ite State.mem]
@[simp] theorem syncInEdge_mem (s : State) : (syncInEdge s).mem = s.mem := by simp [syncInEdge, apply_ite State.mem]
@[simp] theorem timedDone_mem (s : State) (x : Option (Nat × Option (List Byte))) : (timedDone s x).mem = s.mem := by
  unfold timedDone
  (repeat' split) <;> simp
@[simp] theorem setHeldTx_mem (s : State) (port : Nat) (fs : List (List Byte)) : (setHeldTx s port fs).mem = s.mem := by
  simp [setHeldTx]
@[simp] theorem flushTx_mem (s : State) (port : Fin 2) : (flushTx s port).mem = s.mem := by
  unfold flushTx
  (repeat' split) <;> simp [foldl_mem]
@[simp] theorem launchTimed_mem (s : State) (port : Fin 2) (q : Nat) (err : Word) : (launchTimed s port q err).1.mem = s.mem := by
  unfold launchTimed
  dsimp only
  (repeat' split) <;> simp
@[simp] theorem followTime_mem (s : State) (L : Nat) : (followTime s L).mem = s.mem := by unfold followTime; split <;> simp
@[simp] theorem followHeader_mem (s : State) (bs : List Byte) : (followHeader s bs).mem = s.mem := by
  simp [followHeader, apply_ite State.mem]
@[simp] theorem noteArrival_mem (s : State) : (noteArrival s).mem = s.mem := by simp [noteArrival]
@[simp] theorem heard_mem (s : State) : (heard s).mem = s.mem := by simp [heard]
@[simp] theorem selvedgeCompare_mem (s : State) (bs : List Byte) : (selvedgeCompare s bs).mem = s.mem := by
  unfold selvedgeCompare
  dsimp only
  (repeat' split) <;> simp
@[simp] theorem turnaround_mem (s : State) (f : List Byte) (fcsOk : Bool) : (turnaround s f fcsOk).mem = s.mem := by
  simp [turnaround, apply_ite State.mem]
@[simp] theorem sendDelayed_mem (s : State) : (sendDelayed s).mem = s.mem := by
  unfold sendDelayed
  apply foldl_mem
  intro s a
  simp
@[simp] theorem takeoverCheck_mem (s : State) (marker : Option Nat) : (takeoverCheck s marker).mem = s.mem := by
  unfold takeoverCheck
  split <;> (try split) <;> simp
@[simp] theorem acqHold_mem (s : State) : (acqHold s).mem = s.mem := by simp [acqHold]
@[simp] theorem restartInteg_mem (s : State) : (restartInteg s).mem = s.mem := by simp [restartInteg]
@[simp] theorem setHoming_mem (s : State) (a : Nat) (h : Option Homing) : (setHoming s a h).mem = s.mem := by simp [setHoming]
@[simp] theorem wantRecal_mem (s : State) : (wantRecal s).mem = s.mem := by simp [wantRecal, apply_ite State.mem]
@[simp] theorem recalDue_mem (s : State) : (recalDue s).mem = s.mem := by unfold recalDue; split <;> simp
@[simp] theorem regionSleep_mem (s : State) : (regionSleep s).mem = s.mem := by unfold regionSleep; split <;> simp
@[simp] theorem gateCores_mem (s : State) (gate : Bool) : (gateCores s gate).mem = s.mem := by simp [gateCores]
@[simp] theorem fireEntry_mem (s : State) (e : DelayEntry) : (fireEntry s e).mem = s.mem := by simp [fireEntry]
@[simp] theorem encShift_mem (s : State) (c : Nat) : (encShift s c).mem = s.mem := by simp [encShift]
@[simp] theorem encLatch_mem (s : State) (c : Nat) : (encLatch s c).mem = s.mem := by
  unfold encLatch
  dsimp only
  (repeat' split) <;> simp
@[simp] theorem fioLatch_mem (s : State) : (fioLatch s).mem = s.mem := by simp [fioLatch, apply_ite State.mem]
@[simp] theorem showPages_mem (s : State) : (showPages s).mem = s.mem := by simp [showPages]
@[simp] theorem resyncCapture_mem (s : State) : (resyncCapture s).mem = s.mem := by simp [resyncCapture, apply_ite State.mem]
@[simp] theorem hemLatch_mem (s : State) : (hemLatch s).mem = s.mem := by unfold hemLatch; split <;> simp
@[simp] theorem bestMaster_mem (s : State) : (bestMaster s).mem = s.mem := by simp [bestMaster, apply_ite State.mem]
@[simp] theorem ptpRequest_mem (s : State) : (ptpRequest s).mem = s.mem := by simp [ptpRequest, apply_ite State.mem]
@[simp] theorem timeSwitchBack_mem (s : State) : (timeSwitchBack s).mem = s.mem := by unfold timeSwitchBack; split <;> simp
@[simp] theorem twinMissed_mem (s : State) : (twinMissed s).mem = s.mem := by simp [twinMissed, apply_ite State.mem]
@[simp] theorem advanceCycle_mem (s : State) : (advanceCycle s).mem = s.mem := by simp [advanceCycle, apply_ite State.mem]
@[simp] theorem raiseN_mem (n : Nat) (s : State) (e : Event) : (raiseN n s e).mem = s.mem := (only_raiseN n s e).mem
@[simp] theorem stampFit_mem (s : State) (es : List JEntry) : (stampFit s es).1.mem = s.mem := by
  unfold stampFit
  have hfold : ∀ (es : List JEntry) (p : State × List JEntry × List JEntry), (es.foldl (fun p e =>
      if p.2.2.isEmpty && e.bytes.length ≤ p.1.twin.room then ((stampOne p.1 e).1, p.2.1 ++ [(stampOne p.1 e).2], [])
      else (p.1, p.2.1, p.2.2 ++ [e])) p).1.mem = p.1.mem := by
    intro es
    induction es with
    | nil => intro p; rfl
    | cons e es ih =>
      intro p
      rw [List.foldl_cons, ih]
      split <;> simp
  dsimp only
  split
  · exact hfold _ _
  · rw [sendTwin_mem]
    exact hfold _ _
@[simp] theorem stampFront_mem (s : State) (h : Held) : (stampFront s h).1.mem = s.mem := by
  simp [stampFront, apply_ite State.mem]
@[simp] theorem stampHeld_mem (n : Nat) (s : State) : (stampHeld n s).mem = s.mem := by
  induction n generalizing s with
  | zero => rfl
  | succ n ih =>
    unfold stampHeld
    dsimp only
    (repeat' split) <;> simp [ih]
@[simp] theorem stampWrites_mem (s : State) (ws : List JWrite) (req : Option Nat) : (stampWrites s ws req).mem = s.mem := by
  simp [stampWrites]
@[simp] theorem cqDrain_mem (r n : Nat) (s : State) : (cqDrain r n s).mem = s.mem := by
  induction n generalizing s with
  | zero => rfl
  | succ n ih =>
    unfold cqDrain
    dsimp only
    (repeat' split) <;> simp [ih]
@[simp] theorem cqDoorbell_mem (s : State) (r : Nat) (v : Word) : (cqDoorbell s r v).mem = s.mem := by simp [cqDoorbell]
@[simp] theorem landHost_mem (s : State) (a : Nat) (r : RegRow) (i : Nat) (v : Word) : (landHost s a r i v).mem = s.mem := by
  unfold landHost
  dsimp only
  (repeat' split) <;> simp
theorem fwToken_mem {s t : State} {task operand source : Nat} {v : Word} (h : fwToken s task operand source v = some t) :
    t.mem = s.mem := by
  unfold fwToken at h
  (repeat' split at h) <;> cases h
  · exact (okBus_mem _ _).trans (stampWrites_mem _ _ _)
  · exact okBus_mem _ _
@[simp] theorem mbxTokenWrite_mem (s : State) (id m : Nat) (v : Word) : (mbxTokenWrite s id m v).mem = s.mem := by
  unfold mbxTokenWrite
  dsimp only
  split
  · simp
  · split
    · next u hu =>
      split at hu
      · rw [fwToken_mem hu, mbxStore_mem]
      · cases hu
    · simp
@[simp] theorem landMbx_mem (s : State) (port : Port) (a : Nat) (r : RegRow) (i : Nat) (v : Word) :
    (landMbx s port a r i v).mem = s.mem := by
  unfold landMbx
  (repeat' split) <;> simp
@[simp] theorem landRate_mem (s : State) (v : Word) : (landRate s v).mem = s.mem := by
  unfold landRate
  split <;> simp [takeRate_mem]
@[simp] theorem landTime_mem (s : State) (a : Nat) (r : RegRow) (i : Nat) (v : Word) : (landTime s a r i v).mem = s.mem := by
  unfold landTime
  split <;> (try split) <;> simp
@[simp] theorem svcStop_mem (s : State) : (svcStop s).mem = s.mem := by
  unfold svcStop
  dsimp only
  rw [ringMod_mem]
  refine foldl_mem _ (fun s i => ?_) _ _
  (repeat' split) <;> simp
@[simp] theorem releaseRate_mem (s : State) : (releaseRate s).mem = s.mem := by
  unfold releaseRate
  split
  · rfl
  · exact takeRate_mem _ _
@[simp] theorem sourceFrom_mem (s : State) (old : Nat) (st : Nat) : (sourceFrom s old st).mem = s.mem := by
  unfold sourceFrom
  split <;> (try split) <;> simp
@[simp] theorem enterRing_mem (s : State) (st : Nat) : (enterRing s st).mem = s.mem := by simp [enterRing]
@[simp] theorem enterListen_mem (s : State) : (enterListen s).mem = s.mem := by unfold enterListen; split <;> simp
@[simp] theorem withdraw_mem (s : State) (reason : Nat) : (withdraw s reason).mem = s.mem := by simp [withdraw]
@[simp] theorem ringRestart_mem (s : State) : (ringRestart s).mem = s.mem := by simp [ringRestart, apply_ite State.mem]
@[simp] theorem landRingCtrl_mem (s : State) (v : Word) : (landRingCtrl s v).mem = s.mem := by
  simp [landRingCtrl, apply_ite State.mem]
@[simp] theorem landRing_mem (s : State) (a : Nat) (r : RegRow) (v : Word) : (landRing s a r v).mem = s.mem := by
  unfold landRing
  split <;> (try split) <;> simp
@[simp] theorem replyOf_mem (w : Waiting) (r : Nat × State) (detail : State → Nat) : (replyOf w r detail).mem = r.2.mem := by
  simp [replyOf]
@[simp] theorem opProtConfirm_mem (s : State) (w : Waiting) (b : List Byte) : (opProtConfirm s w b).mem = s.mem := by
  unfold opProtConfirm
  split <;> simp
@[simp] theorem opProtRequest_mem (s : State) (w : Waiting) (b : List Byte) : (opProtRequest s w b).mem = s.mem := by
  unfold opProtRequest
  split <;> simp
theorem judged_mem {s t : State} {ws : List JWrite} (h : judged s ws = some t) : t.mem = s.mem := by
  obtain ⟨w, -, hw⟩ := List.exists_of_findSome?_eq_some h
  split at hw
  · exact enableRefused_mem _ _ _ _ hw
  · cases hw
theorem jop_mem {s go : State} (w : Waiting) (len args : Bool) (h : go.mem = s.mem) : (jop s w len args go).mem = s.mem := by
  unfold jop
  (repeat' split) <;> simp [h]
@[simp] theorem svcStart_mem (s : State) (q : SvcReq) : (svcStart s q).mem = s.mem := by
  unfold svcStart
  split
  · rfl
  · split
    · next t ht => exact svcTry_mem _ _ _ ht
    · rfl
@[simp] theorem sendImage_mem (s : State) (p : Part) (target : Nat) (origin : SvcOrigin) :
    (sendImage s p target origin).mem = s.mem := by
  unfold sendImage
  apply foldl_mem
  intro s a
  simp
@[simp] theorem askStatus_mem (s : State) (cls : Nat) (position : Nat) : (askStatus s cls position).mem = s.mem := by
  simp [askStatus]
@[simp] theorem spreadImage_mem (s : State) (p : Part) : (spreadImage s p).mem = s.mem := by
  unfold spreadImage
  simp [foldl_mem]
@[simp] theorem svcOp_mem (s : State) (w : Waiting) (len : Bool) (args : Bool) (p : Nat) (code : Nat) (index : Nat) (data : List Byte) :
    (svcOp s w len args p code index data).mem = s.mem := by
  unfold svcOp
  (repeat' split) <;> simp
@[simp] theorem opWidentify_mem (s : State) (w : Waiting) (b : List Byte) : (opWidentify s w b).mem = s.mem := by simp [opWidentify]
@[simp] theorem opWmbxSend_mem (s : State) (w : Waiting) (b : List Byte) : (opWmbxSend s w b).mem = s.mem := by simp [opWmbxSend]
@[simp] theorem opWparamWrite_mem (s : State) (w : Waiting) (b : List Byte) : (opWparamWrite s w b).mem = s.mem := by
  simp [opWparamWrite]
@[simp] theorem opWparamRead_mem (s : State) (w : Waiting) (b : List Byte) : (opWparamRead s w b).mem = s.mem := by
  simp [opWparamRead]
@[simp] theorem takeWords_mem (n : Nat) (s : State) (a : Nat) (acc : List Byte) : (takeWords n s a acc).1.mem = s.mem := by
  induction n generalizing s a acc with
  | zero => rfl
  | succ n ih =>
    unfold takeWords
    dsimp only
    split <;> simp [ih]
@[simp] theorem opRegRead_mem (s : State) (w : Waiting) (b : List Byte) : (opRegRead s w b).mem = s.mem := by
  unfold opRegRead
  dsimp only
  (repeat' split) <;> try simp
  all_goals
    next e => rw [← takeWords_mem (field b 4 4) s (field b 0 4) [], e]
@[simp] theorem askWorkers_mem (s : State) (ws : List Nat) (index : Nat) (data : List Byte) :
    (askWorkers s ws index data).mem = s.mem := by
  unfold askWorkers
  apply foldl_mem
  intro s a
  simp
@[simp] theorem activationCancel_mem (s : State) : (activationCancel s).mem = s.mem := by
  simp [activationCancel, apply_ite State.mem]
@[simp] theorem linkLock_mem (s : State) (port : Bool) : (linkLock s port).mem = s.mem := by simp [linkLock, apply_ite State.mem]
@[simp] theorem setAccepted_mem (s : State) (set : List Byte) : (setAccepted s set).mem = s.mem := by
  unfold setAccepted
  simp [apply_ite State.mem, foldl_mem]
theorem guarded_eq {ok : Bool} {s t : State} (h : guarded ok s = some t) : t = s := by
  unfold guarded at h
  split at h <;> cases h
  rfl
theorem applyLocal_mem {s t : State} {b : List Byte} (h : applyLocal s b = some t) : t.mem = s.mem := by
  rw [guarded_eq h, secMod_mem]
theorem applyHoming_mem {s t : State} {a : Nat} {b : List Byte} (h : applyHoming s a b = some t) : t.mem = s.mem := by
  rw [guarded_eq h, secMod_mem]
theorem applyImage_mem {s t : State} {b : List Byte} (h : applyImage s b = some t) : t.mem = s.mem := by
  rw [guarded_eq h, loadCores_mem]
theorem applyCoef_mem {s t : State} {a : Nat} {b : List Byte} (h : applyCoef s a b = some t) : t.mem = s.mem := by
  rw [guarded_eq h, storeCoef_mem]
@[simp] theorem applyTwin_mem (s : State) : (applyTwin s).mem = s.mem := by
  unfold applyTwin
  dsimp only
  (repeat' split) <;> simp [applyBaste_mem]
@[simp] theorem applyFio_mem (s : State) : (applyFio s).mem = s.mem := by
  unfold applyFio
  dsimp only
  (repeat' split) <;> simp [applyBaste_mem]
@[simp] theorem applyAcq_mem (s : State) : (applyAcq s).mem = s.mem := by
  unfold applyAcq
  split <;> simp [applyBaste_mem]
@[simp] theorem applyFbc_mem (s : State) : (applyFbc s).mem = s.mem := by
  unfold applyFbc
  split
  · rfl
  · dsimp only
    rw [showFbc_mem, foldl_mem, foldl_mem, setF_mem, setBit_mem, applyBaste_mem]
    · intro s c
      (repeat' split) <;> simp
    · intro s e
      split <;> simp
@[simp] theorem applyTime_mem (s : State) : (applyTime s).mem = s.mem := by
  unfold applyTime
  dsimp only
  (repeat' split) <;> simp [applyBaste_mem, changeSource_mem]
@[simp] theorem applyRing_mem (s : State) : (applyRing s).mem = s.mem := by
  unfold applyRing
  split <;> simp [applyBaste_mem]
@[simp] theorem applySys_mem (s : State) : (applySys s).mem = s.mem := by
  unfold applySys
  split <;> simp [applyBaste_mem]
@[simp] theorem settle_mem (s : State) : (settle s).mem = s.mem := by simp [settle]
theorem applyNetwork_mem {s t : State} {b : List Byte} (h : applyNetwork s b = some t) : t.mem = s.mem := by
  rw [guarded_eq h]
  simp
theorem applyPair_mem {s t : State} {b : List Byte} (h : applyPair s b = some t) : t.mem = s.mem := by
  rw [guarded_eq h]
  simp [applyBaste_mem]
theorem applyPolicy_mem {s t : State} {b : List Byte} (h : applyPolicy s b = some t) : t.mem = s.mem := by
  rw [guarded_eq h]
  exact foldl_mem _ (fun s e => by rw [wr_mem, wr_mem, wr_mem]) _ _
theorem applyBudget_mem {s t : State} {set b : List Byte} (h : applyBudget s set b = some t) : t.mem = s.mem := by
  unfold applyBudget at h
  rw [guarded_eq h]
  dsimp only
  rw [foldl_mem]
  intro s r
  simp
theorem applyPartition_mem {s t : State} {b : List Byte} (h : applyPartition s b = some t) : t.mem = s.mem := by
  rw [guarded_eq h]
theorem applyTopology_mem {s t : State} {pair : Bool} {b : List Byte} (h : applyTopology s pair b = some t) : t.mem = s.mem := by
  unfold applyTopology at h
  obtain ⟨-, h⟩ := (Option.ite_none_left_eq_some ..).1 h
  rw [← Option.some.inj h]
  simp [applyBaste_mem]
@[simp] theorem linkLoss_mem (s : State) (port : Bool) : (linkLoss s port).mem = s.mem := by simp [linkLoss, apply_ite State.mem]
@[simp] theorem linksLost_mem (s : State) : (linksLost s).mem = s.mem := by simp [linksLost, apply_ite State.mem]
@[simp] theorem leadFromFar_mem (s : State) : (leadFromFar s).mem = s.mem := by simp [leadFromFar]
@[simp] theorem takeover_mem (s : State) : (takeover s).mem = s.mem := by simp [takeover, apply_ite State.mem]
theorem evalFrom_mem_and_armRest_mem (k : Nat) (L T p0 q : Int) (m : Nat) :
    (∀ n s p, (evalFrom k L T p0 q m n s p).mem = s.mem) ∧
      ∀ n s pa x, (evalFrom.armRest k L T p0 q m n s pa x).mem = s.mem := by
  induction m with
  | zero => exact ⟨fun _ _ _ => rfl, fun _ _ _ _ => rfl⟩
  | succ m ih =>
    obtain ⟨heval, harm⟩ := ih
    constructor
    · intro n s p
      unfold evalFrom
      dsimp only
      (repeat' split) <;> simp [harm]
    · intro n s pa x
      unfold evalFrom.armRest
      dsimp only
      (repeat' split) <;> simp [heval, harm]
@[simp] theorem armRest_mem (k : Nat) (L T p0 q : Int) (m n : Nat) (s : State) (pa x : Int) :
    (evalFrom.armRest k L T p0 q m n s pa x).mem = s.mem := (evalFrom_mem_and_armRest_mem k L T p0 q m).2 n s pa x
@[simp] theorem evalFrom_mem (k : Nat) (L T p0 q : Int) (m n : Nat) (s : State) (p : Int) :
    (evalFrom k L T p0 q m n s p).mem = s.mem := (evalFrom_mem_and_armRest_mem k L T p0 q m).1 n s p
@[simp] theorem evalInterval_mem (s : State) (k : Nat) (L : Int) (T : Int) (p : Int) (q : Int) :
    (evalInterval s k L T p q).mem = s.mem := by
  unfold evalInterval
  dsimp only
  (repeat' split) <;> simp
@[simp] theorem evalMeasured_mem (s : State) : (evalMeasured s).mem = s.mem := by
  unfold evalMeasured
  apply foldl_mem
  intro s a
  simp
@[simp] theorem updateAnswer_mem (s : State) (d : SvcDone) : (updateAnswer s d).mem = s.mem := by
  unfold updateAnswer
  dsimp only
  (repeat' split) <;> simp
@[simp] theorem updateAnswers_mem (s : State) : (updateAnswers s).mem = s.mem := by
  unfold updateAnswers
  apply foldl_mem
  intro s a
  simp
@[simp] theorem phaseWatch_mem (s : State) (a : Nat) : (phaseWatch s a).mem = s.mem := by
  unfold phaseWatch
  dsimp only
  (repeat' split) <;> simp
@[simp] theorem completeCycle_mem (s : State) : (completeCycle s).mem = s.mem := by simp [completeCycle, foldl_mem]
@[simp] theorem takeSection_mem (s : State) (x : Section) (b : List Byte) (fate : Nat) (counted : Bool) :
    (takeSection s x b fate counted).mem = s.mem := by
  unfold takeSection
  dsimp only
  rw [foldl_mem]
  · (repeat' split) <;> simp
  · intro s k
    (repeat' split) <;> simp
@[simp] theorem returnSection_mem (s : State) (x : Section) (b : List Byte) (counted : Bool) :
    (returnSection s x b counted).mem = s.mem := by
  simp [returnSection, apply_ite State.mem]
/-- A fold that carries a value beside the state. -/
theorem foldl_fst_mem {α β : Type} (f : State × β → α → State × β) (h : ∀ p a, (f p a).1.mem = p.1.mem) (l : List α)
    (p : State × β) : (l.foldl f p).1.mem = p.1.mem := by
  induction l generalizing p with
  | nil => rfl
  | cons a l ih => exact (ih _).trans (h p a)
@[simp] theorem takeInputs_mem (s : State) (bs : List Byte) (counted : Bool) : (takeInputs s bs counted).mem = s.mem := by
  unfold takeInputs
  dsimp only
  rw [foldl_fst_mem]
  · simp
  · intro p x
    simp
@[simp] theorem standbyForward_mem (s : State) : (standbyForward s).mem = s.mem := by
  unfold standbyForward
  dsimp only
  split <;> simp [foldl_mem]
@[simp] theorem evalCommanded_mem (s : State) : (evalCommanded s).mem = s.mem := by
  unfold evalCommanded
  apply foldl_mem
  intro s a
  simp
@[simp] theorem armApply_mem (s : State) (k : Nat) : (armApply s k).mem = s.mem := by simp [armApply, apply_ite State.mem]
@[simp] theorem advance_mem (g n : Nat) (s : State) (G : Group) : (advance g n s G).1.mem = s.mem := by
  induction n generalizing s G with
  | zero => rfl
  | succ n ih =>
    unfold advance
    dsimp only
    (repeat' split) <;> simp [ih]
@[simp] theorem groupCycle_mem (s : State) (g : Nat) : (groupCycle s g).1.mem = s.mem := by simp [groupCycle]
@[simp] theorem decide1_mem (trips : List Nat) (p : State × List Nat) (a : Nat) : (decide1 trips p a).1.mem = p.1.mem := by
  unfold decide1
  dsimp only
  split
  · rfl
  · simp [foldl_mem]
@[simp] theorem streamStartCmd_mem (s : State) (g : Nat) : (streamStartCmd s g).2.mem = s.mem := by
  unfold streamStartCmd
  dsimp only
  (repeat' split) <;> simp [foldl_mem]
@[simp] theorem profCommand_mem (s : State) (op : Nat) (ix : Nat) (a0 : Word) (a1 : Word) (judge : Bool) :
    (profCommand s op ix a0 a1 judge).2.mem = s.mem := by
  unfold profCommand
  split <;> simp
@[simp] theorem applyCommand_mem (s : State) : (applyCommand s).mem = s.mem := by
  unfold applyCommand
  dsimp only
  (repeat' split) <;> simp
@[simp] theorem enterSplit_mem (s : State) : (enterSplit s).mem = s.mem := by simp [enterSplit]
theorem twinRecv_mem {s : State} {take : State → List Byte → State} (f : List Byte) (ok : Bool)
    (h : ∀ t b, (take t b).mem = t.mem) : (twinRecv s f ok take).mem = s.mem := by
  unfold twinRecv
  split
  · next t ht => rw [h, twinHeard_mem _ _ _ _ ht]
  · split <;> simp
@[simp] theorem returnShuttle_mem (s : State) (bs : List Byte) : (returnShuttle s bs).mem = s.mem := by
  unfold returnShuttle
  dsimp only
  (repeat' split) <;> simp [foldl_mem]
@[simp] theorem splitFinish_mem (s : State) : (splitFinish s).mem = s.mem := by
  unfold splitFinish
  dsimp only
  (repeat' split) <;> simp
@[simp] theorem splitTry_mem (s : State) : (splitTry s).mem = s.mem := by
  unfold splitTry
  (repeat' split) <;> simp
@[simp] theorem returnMissing_mem (s : State) : (returnMissing s).mem = s.mem := by simp [returnMissing, foldl_mem]
@[simp] theorem enterIntegrate_mem (s : State) : (enterIntegrate s).mem = s.mem := by simp [enterIntegrate]
@[simp] theorem announce_mem (s : State) : (announce s).mem = s.mem := by simp [announce, apply_ite State.mem]
@[simp] theorem delayLatch_mem (n : Nat) (s : State) : (delayLatch n s).mem = s.mem := by
  induction n generalizing s with
  | zero => rfl
  | succ n ih =>
    unfold delayLatch
    dsimp only
    (repeat' split) <;> simp [ih]
@[simp] theorem twinLatch_mem (s : State) : (twinLatch s).mem = s.mem := by
  unfold twinLatch
  split
  · rfl
  · dsimp only
    rw [stampHeld_mem]
    exact (apply_ite State.mem _ _ _).trans (by rw [setBit_mem, twinMod_mem, ite_self])
@[simp] theorem roleChange_mem (s : State) : (roleChange s).mem = s.mem := by simp [roleChange, apply_ite State.mem]
@[simp] theorem commitPoints_mem (s : State) : (commitPoints s).mem = s.mem := by simp [commitPoints, apply_ite State.mem]
@[simp] theorem ringLatch_mem (s : State) : (ringLatch s).mem = s.mem := by unfold ringLatch; dsimp only; (repeat' split) <;> simp

/-! ### What stores keeps the canonical form -/

theorem foldl_wf {α : Type} (f : State → α → State) (hf : ∀ s a, s.mem.wf = true → (f s a).mem.wf = true) (l : List α) (s : State)
    (h : s.mem.wf = true) : (l.foldl f s).mem.wf = true := by
  induction l generalizing s with
  | nil => exact h
  | cons a l ih => exact ih _ (hf s a h)
theorem ite_wf {c : Prop} [Decidable c] {s t : State} (hs : s.mem.wf = true) (ht : t.mem.wf = true) :
    (if c then s else t).mem.wf = true := by
  split <;> assumption
@[simp] theorem writeMem_wf (s : State) (r : Region) (a : Nat) (bs : List Byte) (h : s.mem.wf = true) :
    (writeMem s r a bs).mem.wf = true := wf_writes _ _ _ _ h
@[simp] theorem enterSafe_wf (s : State) (cause : Nat) (blk : Nat) (ev : Nat) (h :
    s.mem.wf = true) : (enterSafe s cause blk ev).mem.wf = true := by
  unfold enterSafe
  split <;> simp [h]
@[simp] theorem safeState_wf (s : State) (h : s.mem.wf = true) : (safeState s).mem.wf = true := by simp [safeState, h]
@[simp] theorem landFpmCtrl_wf (s : State) (v : Word) (h : s.mem.wf = true) : (landFpmCtrl s v).mem.wf = true := by
  unfold landFpmCtrl
  split <;> (try split) <;> simp [h]
@[simp] theorem landFpm_wf (s : State) (a : Nat) (r : RegRow) (v : Word) (h :
    s.mem.wf = true) : (landFpm s a r v).mem.wf = true := by
  unfold landFpm
  split <;> (try split) <;> simp [h]
@[simp] theorem logReset_wf (s : State) (cause : Nat) (cold : Bool) (duration : Nat) (aon : Nat) (h :
    s.mem.wf = true) : (logReset s cause cold duration aon).mem.wf = true := by
  simp [logReset, h]
@[simp] theorem writeDesc_wf (s : State) (d : Desc) (h : s.mem.wf = true) : (writeDesc s d).mem.wf = true := by simp [writeDesc, h]
@[simp] theorem chooseSlot_wf (s : State) (h : s.mem.wf = true) : (chooseSlot s).mem.wf = true := by
  simp [chooseSlot, h, apply_ite State.mem, apply_ite Mem.wf]
theorem wf_withoutBolt (m : Mem) (h : m.wf = true) : ({ m with bolt := [] } : Mem).wf = true := by
  simp only [Mem.wf, Bool.and_eq_true] at h ⊢
  simp_all [twf]
theorem wf_withoutArch (m : Mem) (h : m.wf = true) : ({ m with arch := [] } : Mem).wf = true := by
  simp only [Mem.wf, Bool.and_eq_true] at h ⊢
  simp_all [twf]
theorem wf_withoutRet (m : Mem) (h : m.wf = true) : ({ m with ret := [] } : Mem).wf = true := by
  simp only [Mem.wf, Bool.and_eq_true] at h ⊢
  simp_all [twf]
/-- The log of a release is the only store of it, behind the archive that a cold start empties. -/
@[simp] theorem release_wf (s : State) (cause duration aon bootSel rankPins : Nat) (h : s.mem.wf = true) :
    (release s cause duration aon bootSel rankPins).mem.wf = true := by
  unfold release
  extract_lets cold m emptied ring fio restarted factory logged pwr sec awake shown fused pins caused noted mode booted told keyed
  have hlogged : logged.mem.wf = true := by
    refine logReset_wf restarted cause cold duration aon ?_
    show emptied.mem.wf = true
    unfold emptied
    split
    · exact wf_withoutArch _ h
    · exact h
  have hnoted : noted.mem = logged.mem := by
    unfold noted caused pins fused shown
    split <;> simp [awake]
  have hkeyed : keyed.mem = logged.mem := by
    unfold keyed told booted
    split <;> simp [hnoted]
  rw [driveTxdis_mem]
  split
  · rw [showBoot_mem, hkeyed]; exact hlogged
  · exact chooseSlot_wf _ (by rw [hkeyed]; exact hlogged)
@[simp] theorem held_wf (s : State) (h : s.mem.wf = true) : (held s).mem.wf = true := wf_withoutBolt _ h
@[simp] theorem selfReset_wf (s : State) (cause : Nat) (h : s.mem.wf = true) : (selfReset s cause).mem.wf = true := by
  simp [selfReset, h]
@[simp] theorem secReset_wf (s : State) (h : s.mem.wf = true) : (secReset s).mem.wf = true := by unfold secReset; split <;> simp [h]
@[simp] theorem secRevert_wf (s : State) (h : s.mem.wf = true) : (secRevert s).mem.wf = true := by
  simp [secRevert, h, apply_ite State.mem, apply_ite Mem.wf]
@[simp] theorem landSecCtrl_wf (s : State) (v : Word) (h : s.mem.wf = true) : (landSecCtrl s v).mem.wf = true := by
  unfold landSecCtrl
  (repeat' split) <;> simp [h]
@[simp] theorem landSec_wf (s : State) (a : Nat) (r : RegRow) (v : Word) (h :
    s.mem.wf = true) : (landSec s a r v).mem.wf = true := by
  unfold landSec
  split <;> simp [h]
@[simp] theorem landReg_wf (s : State) (port : Port) (blk : Nat) (a : Nat) (r : RegRow) (i : Nat) (j : Nat) (v : Word) (h :
    s.mem.wf = true) : (landReg s port blk a r i j v).mem.wf = true := by
  unfold landReg
  split <;> (try split) <;> simp [h]
@[simp] theorem landWrite_wf (s : State) (port : Port) (a : Nat) (v : Word) (h :
    s.mem.wf = true) : (landWrite s port a v).mem.wf = true := by
  unfold landWrite
  dsimp only
  (repeat' split) <;> simp [h]
@[simp] theorem putWords_wf (s : State) (a : Nat) (vs : List Word) (n : Nat) (h : s.mem.wf = true) :
    (putWords s a vs n).1.mem.wf = true := by
  induction vs generalizing s a n with
  | nil => exact h
  | cons v vs ih =>
    unfold putWords
    dsimp only
    split
    · exact landWrite_wf _ _ _ _ h
    · exact ih _ _ _ (landWrite_wf _ _ _ _ h)
@[simp] theorem putAll_wf (s : State) (ws : List JWrite) (n : Nat) (h : s.mem.wf = true) : (putAll s ws n).1.mem.wf = true := by
  induction ws generalizing s n with
  | nil => exact h
  | cons w ws ih =>
    unfold putAll
    dsimp only
    split
    · exact ih _ _ (writeMem_wf _ _ _ _ (by rw [dirty_mem]; exact h))
    · split
      · exact putWords_wf _ _ _ _ h
      · exact ih _ _ (putWords_wf _ _ _ _ h)
@[simp] theorem issue_wf (s : State) (w : Waiting) (ws : List JWrite) (wait : WaitFor) (res : Nat) (wrote : Bool)
    (h : s.mem.wf = true) : (issue s w ws wait res wrote).mem.wf = true := by
  have hput := putAll_wf s ws 0 h
  unfold issue
  dsimp only
  split
  · split
    · rw [replyG_mem]; exact hput
    · rw [await_mem]; exact hput
  · split
    · rw [replyG_mem]; exact h
    · split
      · next t ht => rw [replyG_mem, judged_mem ht]; exact h
      · rw [tryComplete_mem, stampWrites_mem, hostMod_mem, markWrites_mem]; exact h
/-- A request whose form is checked first. -/
@[simp] theorem jop_wf {s go : State} (w : Waiting) (len args : Bool) (h : s.mem.wf = true) (hgo : go.mem.wf = true) :
    (jop s w len args go).mem.wf = true := by
  unfold jop
  (repeat' split) <;> simp [h, hgo]
@[simp] theorem opRegWrite_wf (s : State) (w : Waiting) (b : List Byte) (h : s.mem.wf = true) : (opRegWrite s w b).mem.wf = true := by
  unfold opRegWrite
  dsimp only
  (repeat' split) <;> simp only [finish_mem, notOwner_mem, replyG_mem, h, issue_wf, putWords_wf]
@[simp] theorem opBoltWrite_wf (s : State) (w : Waiting) (b : List Byte) (h : s.mem.wf = true) :
    (opBoltWrite s w b).mem.wf = true := by
  unfold opBoltWrite
  dsimp only
  (repeat' split) <;> simp only [finish_mem, notOwner_mem, replyG_mem, dirty_mem, h, issue_wf, writeMem_wf]
@[simp] theorem opParamSet_wf (s : State) (w : Waiting) (b : List Byte) (h : s.mem.wf = true) :
    (opParamSet s w b).mem.wf = true := jop_wf _ _ _ h (issue_wf _ _ _ _ _ _ h)
@[simp] theorem opCoefSet_wf (s : State) (w : Waiting) (b : List Byte) (h : s.mem.wf = true) :
    (opCoefSet s w b).mem.wf = true := jop_wf _ _ _ h (issue_wf _ _ _ _ _ _ h)
@[simp] theorem opQueueSet_wf (s : State) (w : Waiting) (b : List Byte) (h : s.mem.wf = true) :
    (opQueueSet s w b).mem.wf = true := by
  refine jop_wf _ _ _ h ?_
  split
  · rw [finish_mem]; exact h
  · exact issue_wf _ _ _ _ _ _ h
@[simp] theorem opGuardSet_wf (s : State) (w : Waiting) (b : List Byte) (h :
    s.mem.wf = true) : (opGuardSet s w b).mem.wf = true := by
  simp [opGuardSet, h, apply_ite State.mem, apply_ite Mem.wf]
@[simp] theorem opAxisCmd_wf (s : State) (w : Waiting) (b : List Byte) (h : s.mem.wf = true) :
    (opAxisCmd s w b).mem.wf = true := jop_wf _ _ _ h (issue_wf _ _ _ _ _ _ h)
@[simp] theorem opSegAppend_wf (s : State) (w : Waiting) (b : List Byte) (h : s.mem.wf = true) :
    (opSegAppend s w b).mem.wf = true := by
  unfold opSegAppend
  dsimp only
  split
  · exact jop_wf _ _ _ h h
  · refine jop_wf _ _ _ h ?_
    (repeat' split) <;> simp only [finish_mem, h, issue_wf]
@[simp] theorem opGroupRate_wf (s : State) (w : Waiting) (b : List Byte) (h :
    s.mem.wf = true) : (opGroupRate s w b).mem.wf = true := by
  simp [opGroupRate, h]
@[simp] theorem opCmpAppend_wf (s : State) (w : Waiting) (b : List Byte) (h :
    s.mem.wf = true) : (opCmpAppend s w b).mem.wf = true := by
  simp [opCmpAppend, h, apply_ite State.mem, apply_ite Mem.wf]
@[simp] theorem opCmpArm_wf (s : State) (w : Waiting) (b : List Byte) (h : s.mem.wf = true) : (opCmpArm s w b).mem.wf = true := by
  simp [opCmpArm, h]
@[simp] theorem opSpoolCtrl_wf (s : State) (w : Waiting) (b : List Byte) (h :
    s.mem.wf = true) : (opSpoolCtrl s w b).mem.wf = true := by
  simp [opSpoolCtrl, h]
@[simp] theorem opMaintReq_wf (s : State) (w : Waiting) (b : List Byte) (h :
    s.mem.wf = true) : (opMaintReq s w b).mem.wf = true := by
  simp [opMaintReq, h, apply_ite State.mem, apply_ite Mem.wf]
@[simp] theorem updManifest_wf (s : State) (m : List Byte) (h : s.mem.wf = true) : (updManifest s m).2.mem.wf = true := by
  unfold updManifest
  extract_lets s1 q s2 slot m1 m2
  have h2 : s2.mem = s.mem := (maintReq_mem _ _).trans (dropStaging_mem s)
  have hm : m2.wf = true := by
    have h1 : m1.wf = true := wf_erase _ _ _ _ (wf_erase _ _ _ _ (by rw [h2]; exact h))
    unfold m2
    split
    · exact wf_erase _ _ _ _ h1
    · exact h1
  repeat' split
  all_goals try simp only [stageRefused_mem, event_mem, show q.2.mem = s.mem from h2, h2, h]
  rw [showStage_mem, secMod_mem]
  exact wf_writes _ _ _ _ hm
@[simp] theorem opUpdManifest_wf (s : State) (w : Waiting) (b : List Byte) (h :
    s.mem.wf = true) : (opUpdManifest s w b).mem.wf = true := by
  simp [opUpdManifest, h]
@[simp] theorem recoverBoot_wf (s : State) (h : s.mem.wf = true) : (recoverBoot s).mem.wf = true := by
  unfold recoverBoot
  split <;> simp [h]
@[simp] theorem updBlock_wf (s : State) (index offset : Nat) (hash block : List Byte) (h : s.mem.wf = true) :
    (updBlock s index offset hash block).2.mem.wf = true := by
  unfold updBlock
  extract_lets ps p at' s1 s2 done s3
  have h2 : s2.mem.wf = true := by
    unfold s2
    rw [showStage_mem, secMod_mem]
    exact writeMem_wf _ _ _ _ h
  have h3 : s3.mem.wf = true := by
    unfold s3
    split
    · rw [spreadImage_mem]; exact h2
    · exact h2
  repeat' split
  all_goals simp only [h, h3, stageRefused_mem, event_mem, maintRel_mem, showStaged_mem, showStage_mem]
@[simp] theorem opUpdBlock_wf (s : State) (w : Waiting) (b : List Byte) (h :
    s.mem.wf = true) : (opUpdBlock s w b).mem.wf = true := by
  unfold opUpdBlock
  split <;> simp [h]
@[simp] theorem opUpdActivate_wf (s : State) (w : Waiting) (b : List Byte) (h : s.mem.wf = true) :
    (opUpdActivate s w b).mem.wf = true := jop_wf _ _ _ h (issue_wf _ _ _ _ _ _ h)
@[simp] theorem protObject_wf (s : State) (b : List Byte) (h : s.mem.wf = true) : (protObject s b).2.mem.wf = true := by
  unfold protObject
  dsimp only
  (repeat' split) <;> simp [h]
@[simp] theorem opProtObject_wf (s : State) (w : Waiting) (b : List Byte) (h :
    s.mem.wf = true) : (opProtObject s w b).mem.wf = true := by
  unfold opProtObject
  split <;> simp [h]
@[simp] theorem hostOp_wf (s : State) (w : Waiting) (b : List Byte) (h : s.mem.wf = true) : (hostOp s w b).mem.wf = true := by
  unfold hostOp
  split
  · rw [finish_mem]; exact h
  · split <;> simp [h]
@[simp] theorem execRequest_wf (s : State) (opcode : Nat) (q : Req) (h :
    s.mem.wf = true) : (execRequest s opcode q).mem.wf = true := by
  simp [execRequest, h]
@[simp] theorem runOrHold_wf (s : State) (opcode : Nat) (q : Req) (h : s.mem.wf = true) : (runOrHold s opcode q).mem.wf = true := by
  unfold runOrHold
  split <;> simp [h]
@[simp] theorem sequenced_wf (s : State) (w : Waiting) (opcode : Nat) (q : Req) (h :
    s.mem.wf = true) : (sequenced s w opcode q).mem.wf = true := by
  simp [sequenced, h, apply_ite State.mem, apply_ite Mem.wf]
@[simp] theorem openFlow_wf (s : State) (w : Waiting) (opcode : Nat) (q : Req) (h :
    s.mem.wf = true) : (openFlow s w opcode q).mem.wf = true := by
  simp [openFlow, h, apply_ite State.mem, apply_ite Mem.wf]
@[simp] theorem enterRequest_wf (s : State) (opcode : Nat) (q : Req) (h :
    s.mem.wf = true) : (enterRequest s opcode q).mem.wf = true := by
  simp [enterRequest, h, apply_ite State.mem, apply_ite Mem.wf]
@[simp] theorem takeMessage_wf (s : State) (ep : Endpoint) (m : List Byte) (limit tag sqIndex rspAddr rspCap : Nat)
    (h : s.mem.wf = true) : (takeMessage s ep m limit tag sqIndex rspAddr rspCap).mem.wf = true := by
  unfold takeMessage
  split
  · dsimp only
    split <;> simp [h]
  · exact enterRequest_wf _ _ _ h
@[simp] theorem legacyWord_wf (s : State) (q : Fin 8) (h : s.mem.wf = true) : (legacyWord s q).mem.wf = true := by
  unfold legacyWord
  dsimp only
  (repeat' split) <;> simp [h]
@[simp] theorem pumpN_wf (n : Nat) (s : State) (h : s.mem.wf = true) : (pumpN n s).mem.wf = true := by
  induction n generalizing s with
  | zero => exact h
  | succ n ih =>
    unfold pumpN
    split
    · exact ih _ (execRequest_wf _ _ _ (by rw [hostMod_mem]; exact h))
    · split
      · exact ih _ (legacyWord_wf _ _ h)
      · exact h
@[simp] theorem pump_wf (s : State) (h : s.mem.wf = true) : (pump s).mem.wf = true := by simp [pump, h]
@[simp] theorem stampReg_wf (s : State) (port : Port) (a : Nat) (v : Word) (h : s.mem.wf = true) :
    (stampReg s port a v).mem.wf = true := by
  unfold stampReg
  dsimp only
  split
  · exact landWrite_wf _ _ _ _ h
  · split
    · next t ht => rw [enableRefused_mem _ _ _ _ ht]; exact h
    · rw [okBus_mem, stampWrites_mem, markPending_mem]; exact h
@[simp] theorem fwWrite_wf (s : State) (port : Port) (a : Nat) (v : Word) (h : s.mem.wf = true) :
    (fwWrite s port a v).mem.wf = true := by
  unfold fwWrite
  split
  · split
    · next t ht => rw [fwToken_mem ht]; exact h
    · exact landWrite_wf _ _ _ _ h
  · (repeat' split) <;> simp [h]
@[simp] theorem hostWrite_wf (s : State) (port : Port) (a : Nat) (v : Word) (h :
    s.mem.wf = true) : (hostWrite s port a v).mem.wf = true := by
  unfold hostWrite
  (repeat' split) <;> simp [h]
@[simp] theorem storeBytes_wf (s : State) (r : Region) (base : Nat) (bs : List (Nat × Byte)) (h : s.mem.wf = true) :
    (storeBytes s r base bs).mem.wf = true := foldl_wf _ (fun _ _ k => writeMem_wf _ _ _ _ k) _ _ h
@[simp] theorem barAccess_wf (s : State) (t : BarTlp) (h : s.mem.wf = true) : (barAccess s t).mem.wf = true := by
  unfold barAccess
  have hrefuse : (refuse s).mem.wf = true := by rw [refuse_mem]; exact h
  have hread : ∀ v, (okBus s v).mem.wf = true := fun v => h
  dsimp only
  refine ite_wf (by rw [slverr_mem]; exact h) ?_
  split
  · exact ite_wf hrefuse (ite_wf (pump_wf _ (foldl_wf _ (fun _ _ k => hostWrite_wf _ _ _ _ k) _ _ h))
      (pump_wf _ (foldl_wf _ (fun _ _ k => by rw [portRead_mem]; exact k) _ _ h)))
  · refine ite_wf hrefuse (ite_wf (hread _) (ite_wf hrefuse (ite_wf hrefuse ?_)))
    rw [okBus_mem]
    exact storeBytes_wf _ _ _ _ (by rw [dirty_mem]; exact h)
  · refine ite_wf hrefuse (ite_wf (hread _) ?_)
    rw [okBus_mem]
    exact storeBytes_wf _ _ _ _ h
@[simp] theorem udpCommand_wf (s : State) (ip : Word) (port : Half) (eth : Fin 2) (m : List Byte) (h :
    s.mem.wf = true) : (udpCommand s ip port eth m).mem.wf = true := by
  simp [udpCommand, h]
@[simp] theorem sqEntryFetch_wf (s : State) (r : Fin 8) (entry : List Byte) (request : List Byte) (ok : Bool) (h :
    s.mem.wf = true) : (sqEntryFetch s r entry request ok).mem.wf = true := by
  simp [sqEntryFetch, h, apply_ite State.mem, apply_ite Mem.wf]
@[simp] theorem requestComplete_wf (s : State) (id : Nat) (h : s.mem.wf = true) : (requestComplete s id).mem.wf = true := by
  simp [requestComplete, h]
@[simp] theorem takeRequest_wf (s : State) (opcode : Nat) (q : Req) (h :
    s.mem.wf = true) : (takeRequest s opcode q).mem.wf = true := by
  unfold takeRequest
  split <;> simp [h]
@[simp] theorem fallBack_wf (s : State) (ev : Nat) (h : s.mem.wf = true) : (fallBack s ev).mem.wf = true := by simp [fallBack, h]
@[simp] theorem healthTimeout_wf (s : State) (h : s.mem.wf = true) : (healthTimeout s).mem.wf = true := by
  unfold healthTimeout
  split <;> (try split) <;> simp [h]
@[simp] theorem healthConfirm_wf (s : State) (h : s.mem.wf = true) : (healthConfirm s).mem.wf = true := by
  unfold healthConfirm
  dsimp only
  (repeat' split) <;> simp [h, foldl_mem]
@[simp] theorem activationReset_wf (s : State) (h : s.mem.wf = true) : (activationReset s).mem.wf = true := by
  unfold activationReset
  (repeat' split) <;> simp [h]
@[simp] theorem activationCheck_wf (s : State) (h : s.mem.wf = true) : (activationCheck s).mem.wf = true := by
  unfold activationCheck
  dsimp only
  (repeat' split) <;> simp [h]
@[simp] theorem refuseSet_wf (s : State) (type : Nat) (inst : Nat) (h :
    s.mem.wf = true) : (refuseSet s type inst).mem.wf = true := by
  unfold refuseSet
  dsimp only
  (repeat' split) <;> simp [h, foldl_mem]
theorem imageWords_wf {ws : List Word} {s t : State} {a : Nat} (h : s.mem.wf = true) (e : imageWords s a ws = some t) :
    t.mem.wf = true := by
  induction ws generalizing s a with
  | nil => cases e; exact h
  | cons w ws ih =>
    unfold imageWords at e
    dsimp only at e
    split at e
    · cases e
    · exact ih (by rw [settle_mem]; exact landWrite_wf _ _ _ _ h) e
theorem imageEntries_wf {n : Nat} {s t : State} {bs : List Byte} (h : s.mem.wf = true) (e : imageEntries n s bs = some t) :
    t.mem.wf = true := by
  induction n generalizing s bs with
  | zero => cases bs <;> cases e; exact h
  | succ n ih =>
    cases bs with
    | nil => cases e; exact h
    | cons b bs =>
      unfold imageEntries at e
      dsimp only at e
      split at e
      · cases e
      · split at e
        · cases e
        · next u hu =>
          have hw := imageWords_wf h hu
          split at e
          · exact ih hw e
          · split at e
            · cases e
            · split at e
              · cases e
              · exact ih (by rw [settle_mem]; exact landWrite_wf _ _ _ _ hw) e
theorem applyRecord_wf {set : List Byte} {pair : Bool} {s t : State} {r : CfgRecord} (h : s.mem.wf = true)
    (e : applyRecord set pair s r = some t) : t.mem.wf = true := by
  have keep : t.mem = s.mem → t.mem.wf = true := fun k => by rw [k]; exact h
  unfold applyRecord at e
  split at e
  · exact keep (applyTopology_mem e)
  · exact keep (applyPartition_mem e)
  · exact keep (applyBudget_mem e)
  · exact keep (applyPolicy_mem e)
  · exact keep (applyPair_mem e)
  · exact keep (applyNetwork_mem e)
  · exact imageEntries_wf h e
  · exact keep (applyCoef_mem e)
  · exact keep (applyImage_mem e)
  · exact keep (by rw [guarded_eq e])
  · exact keep (applyHoming_mem e)
  · exact keep (applyLocal_mem e)
  · cases e; exact h
theorem applyAll_wf {set : List Byte} {pair : Bool} {rs : List CfgRecord} {s t : State} (h : s.mem.wf = true)
    (e : applyAll set pair s rs = .ok t) : t.mem.wf = true := by
  induction rs generalizing s with
  | nil => cases e; exact h
  | cons r rs ih =>
    unfold applyAll at e
    split at e
    · cases e
    · next u hu => exact ih (applyRecord_wf h hu) e
@[simp] theorem writeMigrated_wf (s : State) (area : Nat) (set : List Byte) (h : s.mem.wf = true) :
    (writeMigrated s area set).mem.wf = true :=
  wf_writes _ _ _ _ (wf_erase _ _ _ _ h)
@[simp] theorem configurationApply_wf (s : State) (h : s.mem.wf = true) : (configurationApply s).mem.wf = true := by
  unfold configurationApply
  split
  · exact h
  · dsimp only
    split
    · exact refuseSet_wf _ _ _ h
    · split
      · exact refuseSet_wf _ _ _ h
      · split
        · exact refuseSet_wf _ _ _ h
        · split
          · exact refuseSet_wf _ _ _ h
          · next u hu =>
            have ha : ∀ rs set, (setAccepted (defaultCoefs u rs) set).mem.wf = true := fun rs set => by
              rw [setAccepted_mem, defaultCoefs_mem]
              exact applyAll_wf h hu
            split
            · rw [event_mem]
              exact writeMigrated_wf _ _ _ (ha _ _)
            · exact ha _ _
@[simp] theorem longReset_wf (s : State) (h : s.mem.wf = true) : (longReset s).mem.wf = true := by
  unfold longReset
  split
  · exact h
  · exact wf_withoutArch _ h
@[simp] theorem resetRelease_wf (s : State) (powerOn : Bool) (duration : Nat) (aon : Nat) (bootSel : Nat) (rankPins : Nat) (h :
    s.mem.wf = true) : (resetRelease s powerOn duration aon bootSel rankPins).mem.wf = true := by
  unfold resetRelease
  split <;> (try split) <;> simp [h]
@[simp] theorem resetAssert_wf (s : State) (h : s.mem.wf = true) : (resetAssert s).mem.wf = true := by
  unfold resetAssert
  split
  · exact h
  · rw [padsReset_mem]
    exact held_wf _ h
@[simp] theorem islandFault_wf (s : State) (cause : Nat) (h : s.mem.wf = true) : (islandFault s cause).mem.wf = true := by
  simp [islandFault, h, apply_ite State.mem, apply_ite Mem.wf]
@[simp] theorem clockLoss_wf (s : State) (k : Nat) (h : s.mem.wf = true) : (clockLoss s k).mem.wf = true := by
  unfold clockLoss
  split <;> (try split) <;> simp [h]
@[simp] theorem supplyFall_wf (s : State) (k : Nat) (h : s.mem.wf = true) : (supplyFall s k).mem.wf = true := by
  unfold supplyFall
  split
  · exact resetAssert_wf s h
  · exact wf_withoutRet _ (resetAssert_wf s h)
  · rw [fioSupplyFall_mem]; exact h
  · exact h
@[simp] theorem retentionLost_wf (s : State) (h : s.mem.wf = true) : (retentionLost s).mem.wf = true := by
  unfold retentionLost
  dsimp only
  rw [foldl_mem _ phaseLoss_mem, setF_mem]
  exact wf_withoutRet _ h
@[simp] theorem supplyOutOfRange_wf (s : State) (k : Nat) (h : s.mem.wf = true) : (supplyOutOfRange s k).mem.wf = true := by
  unfold supplyOutOfRange
  dsimp only
  split <;> simp [h]
@[simp] theorem dumpPart_wf (s : State) (i : Nat) (h : s.mem.wf = true) : (dumpPart s i).mem.wf = true := by
  unfold dumpPart
  dsimp only
  (repeat' split) <;> simp [h]
@[simp] theorem dumps_wf (s : State) (h : s.mem.wf = true) : (dumps s).mem.wf = true := by
  unfold dumps
  apply foldl_wf _ _ _ _ h
  intro s a h
  simp [h]
@[simp] theorem temperature_wf (s : State) (readings : List Half) (h :
    s.mem.wf = true) : (temperature s readings).mem.wf = true := by
  unfold temperature
  (repeat' split) <;> simp [h, apply_ite State.mem, apply_ite Mem.wf]
@[simp] theorem applyRung_wf (s : State) (c : Climb) (h : s.mem.wf = true) : (applyRung s c).2.mem.wf = true := by
  unfold applyRung
  (repeat' split) <;> simp [h]
@[simp] theorem graceExpiry_wf (s : State) (blk : Nat) (ev : Nat) (h : s.mem.wf = true) : (graceExpiry s blk ev).mem.wf = true := by
  unfold graceExpiry
  split <;> simp [h]
@[simp] theorem uplinkReceive_wf (s : State) (r : DieReport) (crcOk : Bool) (h :
    s.mem.wf = true) : (uplinkReceive s r crcOk).mem.wf = true := by
  unfold uplinkReceive
  dsimp only
  (repeat' split) <;> simp [h]
@[simp] theorem downlinkSend_wf (s : State) (h : s.mem.wf = true) : (downlinkSend s).mem.wf = true := by
  simp [downlinkSend, h, apply_ite State.mem, apply_ite Mem.wf]
@[simp] theorem islandSafeEntry_wf (s : State) (h : s.mem.wf = true) : (islandSafeEntry s).mem.wf = true := by
  unfold islandSafeEntry
  split <;> simp [h]
@[simp] theorem islandStart_wf (s : State) (passed : Bool) (h : s.mem.wf = true) : (islandStart s passed).mem.wf = true := by
  unfold islandStart
  dsimp only
  (repeat' split) <;> simp [h]
@[simp] theorem retain_wf (s : State) (a : Nat) (h : s.mem.wf = true) : (retain s a).mem.wf = true := by
  simp [retain, h, apply_ite State.mem, apply_ite Mem.wf]
@[simp] theorem loadEngine_wf (s : State) (e : Engine) (h : s.mem.wf = true) : (loadEngine s e).mem.wf = true :=
  foldl_wf _ retain_wf _ _ h
@[simp] theorem resyncPhase_wf (s : State) (h : s.mem.wf = true) : (resyncPhase s).mem.wf = true := by
  unfold resyncPhase
  dsimp only
  (repeat' split) <;> simp [h]
/-- Of the profile engine only what it keeps of steppers stores to a memory. -/
@[simp] theorem profLatch_wf (s : State) (h : s.mem.wf = true) : (profLatch s).mem.wf = true := by
  unfold profLatch
  extract_lets s1 s2 live s3 trips s4 single s5 s6
  have h3 : s3.mem = s.mem := by
    unfold s3 s2 s1
    simp [foldl_mem]
  have h4 : s4.mem = s3.mem := foldl_fst_mem _ (fun p a => decide1_mem _ p a) _ _
  have h5 : s5.mem = s4.mem := by
    refine foldl_mem _ (fun s g => ?_) _ _
    dsimp only
    split <;> simp [foldl_mem]
  have h6 : s6.mem = s5.mem := foldl_mem _ writePoint_mem _ _
  exact foldl_wf _ retain_wf _ _ (by rw [h6, h5, h4, h3]; exact h)
@[simp] theorem motionPart_wf (s : State) (h : s.mem.wf = true) : (motionPart s).mem.wf = true := by
  unfold motionPart
  extract_lets s1 s2 s3 s4 s5
  have h2 : s2.mem = s.mem := by
    unfold s2 s1
    split <;> simp [foldl_mem]
  have h3 : s3.mem.wf = true := profLatch_wf _ (by rw [h2]; exact h)
  rw [foldl_mem _ (emuLatch_mem _)]
  unfold s5 s4
  rw [loopLatch_mem, evalCommanded_mem, foldl_mem _ armApply_mem]
  exact h3
@[simp] theorem motionNow_wf (s : State) (h : s.mem.wf = true) : (motionNow s).mem.wf = true := by
  unfold motionNow
  split <;> simp [h]
@[simp] theorem takeoverDecided_wf (s : State) (arrived : Bool) (h : s.mem.wf = true) : (takeoverDecided s arrived).mem.wf = true := by
  unfold takeoverDecided
  dsimp only
  (repeat' split) <;> simp [h]
@[simp] theorem takeSync_wf (s : State) (b : List Byte) (h : s.mem.wf = true) : (takeSync s b).mem.wf = true := by
  unfold takeSync
  split <;> (try split) <;> simp [h]
@[simp] theorem takeReturn_wf (s : State) (b : List Byte) (h : s.mem.wf = true) : (takeReturn s b).mem.wf = true := by
  unfold takeReturn
  dsimp only
  (repeat' split) <;> simp [h]
theorem twinRecv_wf {s : State} {take : State → List Byte → State} (f : List Byte) (ok : Bool) (h : s.mem.wf = true)
    (ht : ∀ t b, t.mem.wf = true → (take t b).mem.wf = true) : (twinRecv s f ok take).mem.wf = true := by
  unfold twinRecv
  split
  · next t k => exact ht _ _ (by rw [twinHeard_mem _ _ _ _ k]; exact h)
  · split <;> simp [h]
@[simp] theorem cycleAFrame_wf (s : State) (f : List Byte) (fcsOk : Bool) (h : s.mem.wf = true) :
    (cycleAFrame s f fcsOk).mem.wf = true := by
  unfold cycleAFrame
  refine twinRecv_wf _ _ h fun s b h => ?_
  split <;> simp [h]
@[simp] theorem helloManifest_wf (s : State) (b : List Byte) (h : s.mem.wf = true) : (helloManifest s b).mem.wf = true := by
  unfold helloManifest
  split <;> simp [h]
@[simp] theorem archiveBurst_wf (s : State) (i : Nat) (h : s.mem.wf = true) : (archiveBurst s i).mem.wf = true := by
  unfold archiveBurst
  dsimp only
  split
  · exact h
  · have hw := foldl_wf _ (fun s (e : Nat × List Byte) k => writeMem_wf s .arch e.1 e.2 k)
      (fifoPart leaveBytes (spool s i).fifo).1 s h
    split <;> simp [hw]
@[simp] theorem spWrite_wf (s : State) (i : Nat) (a : Nat) (bs : List Byte) (h :
    s.mem.wf = true) : (spWrite s i a bs).2.mem.wf = true := by
  unfold spWrite
  dsimp only
  (repeat' split) <;> simp [h]
@[simp] theorem writeHeader_wf (s : State) (i : Nat) (a : Nat) (bs : List Byte) (h :
    s.mem.wf = true) : (writeHeader s i a bs).mem.wf = true := by
  simp [writeHeader, h, apply_ite State.mem, apply_ite Mem.wf]
@[simp] theorem closeRecord_wf (s : State) (i : Nat) (early : Bool) (h :
    s.mem.wf = true) : (closeRecord s i early).mem.wf = true := by
  unfold closeRecord
  split <;> simp [h]
@[simp] theorem recordDone_wf (s : State) (i : Nat) (h : s.mem.wf = true) : (recordDone s i).mem.wf = true := by
  unfold recordDone
  dsimp only
  (repeat' split) <;> simp [h]
@[simp] theorem writeSample_wf (s : State) (i : Nat) (vals : List Word) (ofs : Int) (isEvent : Bool) (trig : Option Trigger) (n : Word) (h :
    s.mem.wf = true) : (writeSample s i vals ofs isEvent trig n).mem.wf = true := by
  unfold writeSample
  (repeat' split) <;> simp [h, apply_ite State.mem, apply_ite Mem.wf]
@[simp] theorem takeSample_wf (s : State) (i : Nat) (m : Sample) (g : GroupCall) (h :
    s.mem.wf = true) : (takeSample s i m g).1.mem.wf = true := by
  unfold takeSample
  dsimp only
  (repeat' split) <;> simp [h]
/-- A fold that carries a value beside the state. -/
theorem foldl_fst_wf {α β : Type} (f : State × β → α → State × β) (hf : ∀ p a, p.1.mem.wf = true → (f p a).1.mem.wf = true)
    (l : List α) (p : State × β) (h : p.1.mem.wf = true) : (l.foldl f p).1.mem.wf = true := by
  induction l generalizing p with
  | nil => exact h
  | cons a l ih => exact ih _ (hf p a h)
@[simp] theorem spoolPass_wf (s : State) (i : Nat) (evs : List AcqEvent) (call : GroupCall) (h : s.mem.wf = true) :
    (spoolPass s i evs call).1.mem.wf = true := by
  unfold spoolPass
  split
  · exact h
  · extract_lets g c x s1 s2 r
    have h2 : s2.mem = s.mem := by
      unfold s2 s1
      split <;> simp
    have hr : r.1.mem.wf = true := by
      refine foldl_fst_wf _ (fun p m k => ?_) _ _ ?_
      · exact takeSample_wf p.1 i m _ k
      · show s2.mem.wf = true
        rw [h2]
        exact h
    split
    · exact hr
    · rw [groupWaits_mem]; exact hr
@[simp] theorem spoolsPass_wf (s : State) (evs : List AcqEvent) (call : GroupCall) (h : s.mem.wf = true) :
    (spoolsPass s evs call).1.mem.wf = true := by
  unfold spoolsPass
  refine foldl_fst_wf _ (fun p i k => ?_) _ _ h
  exact spoolPass_wf p.1 i evs call k
@[simp] theorem spoolSample_wf (s : State) (h : s.mem.wf = true) : (spoolSample s).mem.wf = true := by
  unfold spoolSample
  dsimp only
  (repeat' split) <;> simp [h]
@[simp] theorem shuttleMissing_wf (s : State) (h : s.mem.wf = true) : (shuttleMissing s).mem.wf = true := by
  unfold shuttleMissing
  dsimp only
  (repeat' split) <;> simp [h]
@[simp] theorem returnTimeout_wf (s : State) (h : s.mem.wf = true) : (returnTimeout s).mem.wf = true := by
  unfold returnTimeout
  split <;> simp [h]
@[simp] theorem landEntry_wf (s : State) (a : Nat) (v : Word) (h : s.mem.wf = true) : (landEntry s a v).mem.wf = true := by
  unfold landEntry
  dsimp only
  (repeat' split) <;> simp [h, foldl_mem]
@[simp] theorem applyEntry_wf (s : State) (e : JEntry) (h : s.mem.wf = true) : (applyEntry s e).mem.wf = true := by
  unfold applyEntry
  split
  · simp [h]
  · split
    · exact foldl_wf _ (fun _ _ k => landEntry_wf _ _ _ k) _ _ h
    · simp [h]
    · simp [h]
    · exact h
@[simp] theorem journalApply_wf (s : State) (h : s.mem.wf = true) : (journalApply s).mem.wf = true := by
  unfold journalApply
  extract_lets m due s1 s2 s3
  have h1 : s1.mem.wf = true := by
    unfold s1
    split
    · exact h
    · exact foldl_wf _ applyEntry_wf _ _ h
  have h3 : s3.mem = s1.mem := by
    unfold s3 s2
    (repeat' split) <;> simp
  split
  · rw [h3]; exact h1
  · rw [showJournal_mem, h3]; exact h1
@[simp] theorem finishCycle_wf (s : State) (h : s.mem.wf = true) : (finishCycle s).mem.wf = true := by simp [finishCycle, h]
@[simp] theorem stopRecord_wf (s : State) (i : Nat) (h : s.mem.wf = true) : (stopRecord s i).mem.wf = true := by
  unfold stopRecord
  dsimp only
  (repeat' split) <;> simp [h]
@[simp] theorem spoolLatch_wf (s : State) (i : Nat) (h : s.mem.wf = true) : (spoolLatch s i).mem.wf = true := by
  simp [spoolLatch, h, apply_ite State.mem, apply_ite Mem.wf]
@[simp] theorem acqLatch_wf (s : State) (h : s.mem.wf = true) : (acqLatch s).mem.wf = true := by
  unfold acqLatch
  apply foldl_wf _ _ _ _ h
  intro s a h
  simp [h]
@[simp] theorem homingIssue_wf (s : State) (a : Nat) (x : Homing) (b : List Byte) (h : s.mem.wf = true) :
    (homingIssue s a x b).mem.wf = true := by
  unfold homingIssue
  split
  · exact h
  · rw [setHoming_mem]
    exact hostWrite_wf _ _ _ _ (foldl_wf _ (fun _ _ k => hostWrite_wf _ _ _ _ k) _ _ h)
@[simp] theorem homingAdvance_wf (s : State) (e : Nat × Homing) (h : s.mem.wf = true) : (homingAdvance s e).mem.wf = true := by
  unfold homingAdvance
  (repeat' split) <;> simp [h]
@[simp] theorem homingLatch_wf (s : State) (h : s.mem.wf = true) : (homingLatch s).mem.wf = true :=
  foldl_wf _ homingAdvance_wf _ _ h
@[simp] theorem latchInstant_wf (s : State) (h : s.mem.wf = true) : (latchInstant s).mem.wf = true := by
  unfold latchInstant
  extract_lets s1 s2 s3 s4 s5 s6 s7 s8 s9 s10 s11 s12
  have h1 : s1.mem.wf = true := by
    rw [show s1.mem = (journalApply (twinMissed (finishCycle s))).mem from advanceCycle_mem _]
    exact journalApply_wf _ (by rw [twinMissed_mem]; exact finishCycle_wf _ h)
  have h2 : s2.mem.wf = true := acqLatch_wf _ (by rw [timeSwitchBack_mem]; exact h1)
  have h6 : s6.mem = s2.mem := by simp [s6, s5, s4, s3]
  have h7 : s7.mem = s6.mem := foldl_mem _ (fun _ _ => by simp) _ _
  have h8 : s8.mem.wf = true := by
    have hs : s7.mem.wf = true := by rw [h7, h6]; exact h2
    exact ite_wf (by rw [delayLatch_mem]; exact hs) hs
  have h9 : s9.mem.wf = true := by rw [show s9.mem = s8.mem from ringMod_mem _ _]; exact h8
  have h10 : s10.mem.wf = true := ite_wf (by rw [twinMod_mem]; exact h9) (motionPart_wf _ h9)
  have h11 : s11.mem.wf = true := by
    unfold s11; rw [gateCores_mem]
    exact pump_wf _ (by simp [h10])
  have h12 : s12.mem = s11.mem := by rw [show s12 = acqHold (showFbc s11) from rfl, acqHold_mem, showFbc_mem]
  dsimp only
  rw [h12]; exact h11

@[simp] theorem issueWrites_wf (port : Port) (ws : List (Nat × Word)) (s : State) (h : s.mem.wf = true) :
    (issueWrites port ws s).mem.wf = true := by
  induction ws generalizing s with
  | nil => exact h
  | cons w ws ih =>
    have hw : (hostWrite s port w.1 w.2).mem.wf = true := hostWrite_wf _ _ _ _ h
    exact ite_wf hw (ih _ hw)

theorem awake_wf {f : State → State} {s : State} (h : s.mem.wf = true) (hf : (f s).mem.wf = true) : (awake f s).mem.wf = true :=
  ite_wf h hf

/-! ### The commands -/

theorem exec_stores_wf {c : Instr} {s t : State} (hc : mayStore c = true) (hw : s.mem.wf = true) (h : exec c s = .next t) :
    t.mem.wf = true := by
  cases c <;> cases hc <;> cases h <;> dsimp only
  all_goals try
    rw [awake]
    split
    · exact hw
  case timeStepApplyUnled => exact ite_wf hw (by rw [applyTime_mem]; exact hw)
  case hello => exact twinRecv_wf _ _ hw fun t b ht => helloManifest_wf _ _ (by rw [takeHello_mem]; exact ht)
  case return_ => exact twinRecv_wf _ _ hw fun t b ht => ite_wf (takeReturn_wf _ _ ht) ht
  case sync => exact twinRecv_wf _ _ hw takeSync_wf
  all_goals simp [hw]

theorem exec_keeps {c : Instr} {s t : State} (hc : mayStore c = false) (h : exec c s = .next t) :
    t.mem = s.mem ∧ t.raw = s.raw ∧ t.pending = s.pending := by
  cases c <;> cases hc <;> cases h <;> exact ⟨rfl, rfl, rfl⟩

/-- Every command keeps the canonical form. -/
theorem exec_wf {c : Instr} {s t : State} (hw : s.mem.wf = true) (h : exec c s = .next t) : t.mem.wf = true := by
  cases hc : mayStore c
  · obtain ⟨hm, -, -⟩ := exec_keeps hc h
    rw [hm]
    exact hw
  · exact exec_stores_wf hc hw h

/-- Settles O7, from the outcome of each command outside the list. -/
theorem quietCommandsKeepMemory : Obligations.QuietCommandsKeepMemory := by
  unfold Obligations.QuietCommandsKeepMemory
  intro c s t hc h
  obtain ⟨hm, hr, hp⟩ := exec_keeps hc h
  exact ⟨fun _ _ => by rw [hm], hr, hp⟩

/-- Settles O1, by the definition of a step. -/
theorem stepRunsTheFrontCommand : Obligations.StepRunsTheFrontCommand := by
  unfold Obligations.StepRunsTheFrontCommand
  intro c rest s h
  rw [step, h]

/-- Settles O4. -/
theorem resetMemoryIsCanonical : Obligations.ResetMemoryIsCanonical := reset_mem_wf

/-- Settles O5, from the front command, or the passing of time where none waits. -/
theorem memoryStaysCanonical : Obligations.MemoryStaysCanonical := by
  unfold Obligations.MemoryStaysCanonical
  intro s t hw h
  cases hp : s.pending with
  | nil =>
    rw [step, hp] at h
    cases h
    rw [idle]
    split <;> exact hw
  | cons c rest =>
    rw [stepRunsTheFrontCommand c rest s hp] at h
    exact exec_wf (s := { s with pending := rest }) hw h

end Sys2Proof.Machine

/-! ## The check value of a Selvedge PDU and the place of its parts (R398, R399) -/

namespace Sys2Proof.Machine

/-! ### The reflected form of the check value -/

theorem bit_eq_testBit (x i : Nat) : bit x i = x.testBit i := by
  rw [bit, Nat.testBit_eq_decide_div_mod_eq, beq_eq_decide]

theorem testBit_revBits (n x i : Nat) : (revBits n x).testBit i = (decide (i < n) && x.testBit (n - 1 - i)) := by
  induction n generalizing x i with
  | zero => simp [revBits]
  | succ n ih =>
    have hlow : ∀ x, revBits n x < 2 ^ n := by
      intro x
      refine Nat.lt_pow_two_of_testBit _ fun i hi => ?_
      rw [ih]
      simp [Nat.not_lt.mpr hi]
    rw [revBits, Nat.mul_comm, Nat.testBit_two_pow_mul_add _ (hlow _), ih]
    rcases Nat.lt_trichotomy i n with h | rfl | h
    · rw [if_pos h, Nat.testBit_div_two, show n + 1 - 1 - i = n - 1 - i + 1 by omega]
      simp [h, show i < n + 1 by omega]
    · simp [Nat.testBit_zero]
    · rw [if_neg (by omega), Nat.testBit_lt_two_pow (i := i - n) (x := x % 2)
        (Nat.lt_of_lt_of_le (Nat.mod_lt _ (by decide)) (Nat.le_self_pow (by omega) 2))]
      simp [show ¬ i < n + 1 by omega]

theorem revBits_xor (n a b : Nat) : revBits n (Nat.xor a b) = Nat.xor (revBits n a) (revBits n b) := by
  refine Nat.eq_of_testBit_eq fun i => ?_
  change _ = (revBits n a ^^^ revBits n b).testBit i
  rw [Nat.testBit_xor, testBit_revBits, testBit_revBits, testBit_revBits]
  change (_ && (a ^^^ b).testBit _) = _
  rw [Nat.testBit_xor]
  cases decide (i < n) <;> rfl

/-- One step upwards is, read in the opposite order, one step downwards. -/
theorem revBits_double (n c : Nat) : revBits (n + 1) (c * 2 % 2 ^ (n + 1)) = revBits (n + 1) c / 2 := by
  refine Nat.eq_of_testBit_eq fun i => ?_
  rw [Nat.testBit_div_two, testBit_revBits, testBit_revBits, Nat.testBit_mod_two_pow, Nat.mul_comm, ← Nat.pow_one 2,
    Nat.testBit_two_pow_mul]
  by_cases h : i < n
  · simp [show n - i < n + 1 by omega, show 1 ≤ n - i by omega, show n - i - 1 = n - (i + 1) by omega, h, show i < n + 1 by omega]
  · simp [show ¬ i < n by omega]
    omega

theorem bit_top (n c : Nat) : bit c n = decide (revBits (n + 1) c % 2 = 1) := by
  have h := testBit_revBits (n + 1) c 0
  rw [Nat.testBit_zero] at h
  rw [bit_eq_testBit, h]
  simp

/-- The steps of the check value, most significant bit first, are in the opposite order those of the reflected polynomial (R399). -/
theorem revBits_crcStep (k c : Nat) : revBits 32 (crcStep 32 0x1EDC6F41 k c) = castagnoli k (revBits 32 c) := by
  induction k generalizing c with
  | zero => rfl
  | succ k ih =>
    rw [crcStep, castagnoli, ih, bit_top]
    simp only [decide_eq_true_eq]
    split
    · rw [revBits_xor, revBits_double]
      rfl
    · rw [revBits_double]

theorem revBits_topByte (b : Byte) : revBits 32 ((BitVec.ofNat 8 (revBits 8 b.toNat)).toNat * 2 ^ (32 - 8)) = b.toNat := by
  refine Nat.eq_of_testBit_eq fun i => ?_
  rw [testBit_revBits, BitVec.toNat_ofNat, Nat.mul_comm, Nat.testBit_two_pow_mul, Nat.testBit_mod_two_pow, testBit_revBits]
  by_cases h : i < 8
  · simp [show i < 32 by omega, show 24 ≤ 31 - i by omega, show 31 - i - 24 < 8 by omega, show 7 - (31 - i - 24) = i by omega]
  · rw [Nat.testBit_lt_two_pow (Nat.lt_of_lt_of_le b.isLt (Nat.pow_le_pow_right (by decide) (Nat.not_lt.mp h)))]
    simp only [Bool.and_eq_false_imp, decide_eq_true_eq]
    omega

theorem crcMsb_cons (n poly c : Nat) (b : Byte) (bs : List Byte) : crcMsb n poly c (b :: bs) =
    crcMsb n poly (crcStep n poly 8 (Nat.xor c (b.toNat * 2 ^ (n - 8)))) bs := rfl

theorem revBits_crcMsb (bs : List Byte) (c : Nat) :
    revBits 32 (crcMsb 32 0x1EDC6F41 c (bs.map fun b => BitVec.ofNat 8 (revBits 8 b.toNat))) =
      bs.foldl (fun c b => castagnoli 8 (Nat.xor c b.toNat)) (revBits 32 c) := by
  induction bs generalizing c with
  | nil => rw [List.map_nil, crcMsb, List.foldl_nil, List.foldl_nil]
  | cons b bs ih => rw [List.map_cons, crcMsb_cons, ih, revBits_crcStep, revBits_xor, revBits_topByte, List.foldl_cons]

theorem crc32c_eq_castagnoli (bs : List Byte) :
    crc32c bs = Nat.xor (bs.foldl (fun c b => castagnoli 8 (Nat.xor c b.toNat)) 0xFFFFFFFF) 0xFFFFFFFF := by
  have hones : revBits 32 0xFFFFFFFF = 0xFFFFFFFF := by decide
  rw [crc32c, revBits_crcMsb, hones]

/-! ### The place of the parts of a PDU -/

theorem slice_append (a b : List Byte) (o n : Nat) (h : o = a.length) : slice (a ++ b) o n = b.take n := by
  rw [slice, h, List.drop_left]

theorem leVal_leBytes (n x : Nat) : leVal (leBytes n x) = x % 256 ^ n := by
  induction n generalizing x with
  | zero => simp [leBytes, leVal, Nat.mod_one]
  | succ n ih =>
    rw [leBytes, leVal, ih, BitVec.toNat_ofNat, Nat.pow_succ' (n := n), Nat.mod_mul]

theorem crc32c_lt (bs : List Byte) : crc32c bs < 2 ^ 32 := by
  have h : revBits 32 (crcMsb 32 0x1EDC6F41 0xFFFFFFFF (bs.map fun b => BitVec.ofNat 8 (revBits 8 b.toNat))) < 2 ^ 32 :=
    Nat.lt_pow_two_of_testBit _ fun i hi => by simp [testBit_revBits, Nat.not_lt.mpr hi]
  exact Nat.xor_lt_two_pow h (by decide)

section pdu
variable (ident data seq flags : Nat)

theorem makePdu_eq : makePdu ident data seq flags = leBytes 8 data ++ (leBytes 2 seq ++ (leBytes 2 flags ++
    leBytes 4 (pduCrc ident (leBytes 8 data) (leBytes 2 seq) (leBytes 2 flags)))) := by
  simp [makePdu]

theorem length_makePdu : (makePdu ident data seq flags).length = 16 := by simp [makePdu_eq, length_leBytes]

theorem makePdu_data : slice (makePdu ident data seq flags) 0 8 = leBytes 8 data := by
  rw [makePdu_eq, slice, List.drop_zero, List.take_left' (length_leBytes 8 data)]

theorem makePdu_seq : slice (makePdu ident data seq flags) 8 2 = leBytes 2 seq := by
  rw [makePdu_eq, slice_append _ _ _ _ (length_leBytes 8 data).symm, List.take_left' (length_leBytes 2 seq)]

theorem makePdu_flags : slice (makePdu ident data seq flags) 10 2 = leBytes 2 flags := by
  rw [makePdu_eq, ← List.append_assoc, slice_append _ _ _ _ (by simp [length_leBytes]), List.take_left' (length_leBytes 2 flags)]

theorem makePdu_crc : field (makePdu ident data seq flags) 12 4 =
    pduCrc ident (leBytes 8 data) (leBytes 2 seq) (leBytes 2 flags) := by
  rw [makePdu_eq, ← List.append_assoc, ← List.append_assoc, field, slice_append _ _ _ _ (by simp [length_leBytes]),
    List.take_of_length_le (by simp [length_leBytes]), leVal_leBytes]
  exact Nat.mod_eq_of_lt (crc32c_lt _)

theorem pduOk_makePdu : pduOk ident (makePdu ident data seq flags) = true := by
  simp [pduOk, length_makePdu, makePdu_data, makePdu_seq, makePdu_flags, makePdu_crc]

end pdu

/-- Settles O12, from the reflected form of the check value and the parts of the PDU that is built. -/
theorem pduCheckValue : Obligations.PduCheckValue := by
  unfold Obligations.PduCheckValue
  exact ⟨crc32c_eq_castagnoli, by decide, by rw [crc32c_eq_castagnoli]; decide +kernel, fun ident data seq flags => ⟨length_makePdu ident data seq flags,
    makePdu_data ident data seq flags, makePdu_seq ident data seq flags, makePdu_flags ident data seq flags,
    makePdu_crc ident data seq flags, pduOk_makePdu ident data seq flags⟩⟩

end Sys2Proof.Machine

/-! ## Safety: the timers of the safety functions complete (R411, R414-R416) -/

namespace Sys2Proof.Machine

theorem wbit_word (n : Nat) {i : Nat} (h : i < 32) : wbit (word n) i = bit n i := by
  rw [wbit, bit_eq_testBit, bit_eq_testBit, word, BitVec.toNat_ofNat, Nat.testBit_mod_two_pow]
  simp [h]

/-! ### What the island's objects hold after a write to one of them -/

@[simp] theorem safeAxis_setSafeAxis (s : State) (a : Nat) (x : SafeAxis) : safeAxis (setSafeAxis s a x) a = x := tget_tput_same _ _ _ _

theorem safeAxis_setSafeAxis_ne (s : State) {a b : Nat} (x : SafeAxis) (h : b ≠ a) :
    safeAxis (setSafeAxis s a x) b = safeAxis s b := tget_tput_ne _ _ _ h

@[simp] theorem sloGroup_setSloGroup (s : State) (g : Nat) (x : SloGroup) : sloGroup (setSloGroup s g x) g = x := tget_tput_same _ _ _ _

@[simp] theorem safeOut_setSafeOut (s : State) (k : Nat) (x : SafeOut) : safeOut (setSafeOut s k x) k = x := tget_tput_same _ _ _ _

@[simp] theorem conn_setConn (s : State) (c : Nat) (x : SafeConn) : conn (setConn s c x) c = x := tget_tput_same _ _ _ _

@[simp] theorem demanded_setSafeAxis (s : State) (a : Nat) (x : SafeAxis) (fn obj : Nat) (second : Bool) :
    demanded (setSafeAxis s a x) fn obj second = demanded s fn obj second := rfl

section frame
variable (t : State) (p : List Instr) (m : Mem) (r i : Nat)

@[simp] theorem safeAxis_frame : safeAxis { t with pending := p, mem := m, raw := r } i = safeAxis t i := rfl
@[simp] theorem sloGroup_frame : sloGroup { t with pending := p, mem := m, raw := r } i = sloGroup t i := rfl
@[simp] theorem safeOut_frame : safeOut { t with pending := p, mem := m, raw := r } i = safeOut t i := rfl
@[simp] theorem conn_frame : conn { t with pending := p, mem := m, raw := r } i = conn t i := rfl

end frame

/-- A safe axis is what the island's record says. -/
theorem safeAxis_of_safe {s t : State} (h : t.safe = s.safe) (a : Nat) : safeAxis t a = safeAxis s a := by rw [safeAxis, h, safeAxis]

theorem sloGroup_of_safe {s t : State} (h : t.safe = s.safe) (g : Nat) : sloGroup t g = sloGroup s g := by rw [sloGroup, h, sloGroup]

theorem safeOut_of_safe {s t : State} (h : t.safe = s.safe) (k : Nat) : safeOut t k = safeOut s k := by rw [safeOut, h, safeOut]

@[simp] theorem safeAxis_showAxis (s : State) (a b : Nat) : safeAxis (showAxis s a) b = safeAxis s b := rfl

@[simp] theorem showAxis_prof (s : State) (a : Nat) : (showAxis s a).prof = s.prof := rfl

theorem enterSto_of_sto {s : State} {a : Nat} (h : (safeAxis s a).sto = true) : enterSto s a = s := if_pos h

theorem enterSto_of_not_sto {s : State} {a : Nat} (h : (safeAxis s a).sto = false) :
    enterSto s a = request (setSafeAxis s a { safeAxis s a with sto := true }) (.disable a) := if_neg (by rw [h]; decide)

theorem safeAxis_enterSto (s : State) (a : Nat) : safeAxis (enterSto s a) a = { safeAxis s a with sto := true } := by
  cases h : (safeAxis s a).sto
  · rw [enterSto_of_not_sto h, safeAxis_of_safe (request_safe _ _), safeAxis_setSafeAxis]
  · rw [enterSto_of_sto h, ← h]

theorem safeAxis_enterSto_ne (s : State) {a b : Nat} (h : b ≠ a) : safeAxis (enterSto s a) b = safeAxis s b := by
  cases k : (safeAxis s a).sto
  · rw [enterSto_of_not_sto k, safeAxis_of_safe (request_safe _ _), safeAxis_setSafeAxis_ne _ _ h]
  · rw [enterSto_of_sto k]

/-- What the state register of a safe axis shows of STO (R428). -/
theorem fbit_showAxis_sto (s : State) (a : Nat) (h : (safeAxis s a).demands < 512) :
    fbit (showAxis s a) (Reg.SAFE_AX_STATE a) 12 = (safeAxis s a).sto := by
  have hne : Reg.SAFE_AX_STATE a ≠ Reg.SAFE_AX_POS a := by unfold Reg.SAFE_AX_STATE Reg.SAFE_AX_POS; omega
  rw [fbit, showAxis, rd_wr_ne _ _ hne, rd_wr_same, wbit_word _ (by decide), bit, beq_eq_decide]
  cases (safeAxis s a).sto <;> cases (safeAxis s a).latched || (safeAxis s a).forced <;> cases (safeAxis s a).faulted <;>
    simp only [flag] <;> simp <;> omega

/-- STO of an axis whose brake has no safe control (R412): the brake is left, and STO entered. -/
theorem stopOutputs_of_no_brake {s : State} {a : Nat} (hb : (safeAxis s a).sbc = false) : stopOutputs s a true false =
    enterSto (setSafeAxis s a { safeAxis s a with brake := false, brakeRaw := none }) a := by
  simp [stopOutputs, hb]

/-- The expiry of SS1 on an axis that demands it and has no safe brake control (R414): the ramp is done, and STO entered. -/
theorem ss1Expiry_ss1 {s : State} {a r : Nat} {v : Long} (hi : islandSt s = 1) (hs : (safeAxis s a).ss1 = some (r, v))
    (ht : (safeAxis s a).ss1Time * 1000000 ≤ s.raw - r) (h2 : demanded s 2 a = true) (h1 : demanded s 1 a = false)
    (hb : (safeAxis s a).sbc = false) : ss1Expiry s a =
      showAxis (enterSto (setSafeAxis (setSafeAxis s a { safeAxis s a with ssDone := true }) a
        { safeAxis s a with ssDone := true, brake := false, brakeRaw := none }) a) a := by
  have hstop := stopOutputs_of_no_brake (s := setSafeAxis s a { safeAxis s a with ssDone := true }) (a := a)
    (by rw [safeAxis_setSafeAxis]; exact hb)
  rw [safeAxis_setSafeAxis] at hstop
  unfold ss1Expiry
  dsimp only
  split
  · next r' v' hs' =>
    cases hs.symm.trans hs'
    rw [if_pos (by simp [hi, ht]), if_pos (by simp [h2]), demanded_setSafeAxis, h1, hstop]
  · next hs' => rw [hs] at hs'; cases hs'

/-! ### The timers -/

section timers
variable {s : State} (h : Awake s)
include h

theorem completes_discrepancyTimeout {i : Byte} {x : DemandTerm} {r : Nat} (hx : s.safe.terms[i.toNat]? = some x)
    (hd : x.differ = some r) (hh : x.held = false) (ht : x.disc * 1000000 < s.raw - r) : Completes (.discrepancyTimeout i) s fun t =>
      t.safe = { s.safe with terms := s.safe.terms.set i.toNat { x with held := true, present := true } } ∧ t.mem = s.mem := by
  refine completes_quiet_eq rfl h (t := event (setTerm s i.toNat { x with held := true, present := true }) SAFE 4 i.toNat) ?_
    ⟨event_safe _ _ _ _ _, rfl⟩
  simp [discrepancy, List.getD, hx, hd, hh, Nat.not_le.mpr ht]

theorem completes_ss1TimeExpiry {a : Byte} {r : Nat} {v : Long} (hi : islandSt s = 1) (hs : (safeAxis s a.toNat).ss1 = some (r, v))
    (ht : (safeAxis s a.toNat).ss1Time * 1000000 ≤ s.raw - r) (h2 : demanded s 2 a.toNat = true)
    (h1 : demanded s 1 a.toNat = false) (hb : (safeAxis s a.toNat).sbc = false) : Completes (.ss1TimeExpiry a) s fun t =>
      (safeAxis t a.toNat).ssDone = true ∧ (safeAxis t a.toNat).sto = true ∧
      (∀ b, b ≠ a.toNat → safeAxis t b = safeAxis s b) ∧ t.mem = s.mem := by
  refine completes_quiet_eq rfl h (ss1Expiry_ss1 hi hs ht h2 h1 hb) ⟨?_, ?_, fun b hne => ?_, rfl⟩
  · rw [safeAxis_frame, safeAxis_showAxis, safeAxis_enterSto, safeAxis_setSafeAxis]
  · rw [safeAxis_frame, safeAxis_showAxis, safeAxis_enterSto]
  · rw [safeAxis_frame, safeAxis_showAxis, safeAxis_enterSto_ne _ hne, safeAxis_setSafeAxis_ne _ _ hne,
      safeAxis_setSafeAxis_ne _ _ hne]

theorem completes_stoAfterBrake {a : Byte} {r : Nat} (hi : islandSt s = 1) (hr : (safeAxis s a.toNat).brakeRaw = some r)
    (ht : (safeAxis s a.toNat).stoAfter * 1000000 ≤ s.raw - r) (hs : (safeAxis s a.toNat).sto = false) :
    Completes (.stoAfterBrake a) s fun t => safeAxis t a.toNat = { safeAxis s a.toNat with sto := true } ∧
      t.prof.requests = s.prof.requests ++ [.disable a.toNat] ∧
      ((safeAxis s a.toNat).demands < 512 → fbit t (Reg.SAFE_AX_STATE a.toNat) 12 = true) ∧ t.mem = s.mem := by
  have hto : enterSto s a.toNat = request (setSafeAxis s a.toNat { safeAxis s a.toNat with sto := true }) (.disable a.toNat) :=
    enterSto_of_not_sto hs
  refine completes_quiet_eq rfl h (t := showAxis (enterSto s a.toNat) a.toNat) ?_ ⟨?_, ?_, fun hd => ?_, rfl⟩
  · simp [brakeExpiry, hr, hi, ht]
  · rw [safeAxis_frame, safeAxis_showAxis, safeAxis_enterSto]
  · dsimp only
    rw [showAxis_prof, hto]
    rfl
  · rw [fbit_frame, fbit_showAxis_sto _ _ (by rw [safeAxis_enterSto]; exact hd), safeAxis_enterSto]

theorem completes_sloFeedbackTimeout {g : Fin 8} (hi : islandSt s = 1) (ho : (sloGroup s g).isOff = true)
    (hn : (sloGroup s g).outs ≠ []) (hl : (sloGroup s g).latched = false)
    (ht : (sloGroup s g).shown = true ∨ (sloGroup s g).fbTime * 1000000 ≤ s.raw - (sloGroup s g).offRaw)
    (hf : fbSafe s (sloGroup s g) = false) : Completes (.sloFeedbackTimeout g) s fun t =>
      sloGroup t g = { sloGroup s g with latched := true, acked := false } ∧ t.mem = s.mem := by
  refine completes_quiet_eq rfl h
    (t := event (setSloGroup s g { sloGroup s g with latched := true, acked := false }) SAFE 6 g) ?_
    ⟨(sloGroup_of_safe (event_safe _ _ _ _ _) g).trans (sloGroup_setSloGroup _ _ _), rfl⟩
  simp [sloTimeout, sloFault, hi, ho, hn, hl, hf, ht]

end timers

/-- Settles O37, command by command. -/
theorem safetyTimersComplete : Obligations.SafetyTimersComplete := by
  unfold Obligations.SafetyTimersComplete
  intro s h
  exact ⟨fun _ _ _ => completes_discrepancyTimeout h, fun _ _ _ => completes_ss1TimeExpiry h, fun _ _ => completes_stoAfterBrake h,
    fun _ => completes_sloFeedbackTimeout h⟩

end Sys2Proof.Machine

/-! ## Safety: the commands of the safe outputs complete (R417, R418) -/

namespace Sys2Proof.Machine

/-! ### A failed safe output and the brakes it drives -/

/-- What a failed output does to an axis whose brake it is (R415): the failure is held, and STO entered. -/
def failBrake (s : State) (a : Nat) : State := enterSto (setSafeAxis s a { safeAxis s a with forced := true }) a

theorem safeOut_enterSto (s : State) (a k : Nat) : safeOut (enterSto s a) k = safeOut s k := by
  cases h : (safeAxis s a).sto
  · rw [enterSto_of_not_sto h]
    rfl
  · rw [enterSto_of_sto h]

theorem safeAxis_failBrake (s : State) (a : Nat) :
    (safeAxis (failBrake s a) a).forced = true ∧ (safeAxis (failBrake s a) a).sto = true := by
  rw [failBrake, safeAxis_enterSto, safeAxis_setSafeAxis]
  exact ⟨rfl, rfl⟩

theorem safeAxis_failBrake_ne (s : State) {a b : Nat} (h : b ≠ a) : safeAxis (failBrake s a) b = safeAxis s b := by
  rw [failBrake, safeAxis_enterSto_ne _ h, safeAxis_setSafeAxis_ne _ _ h]

theorem safeOut_failBrake (s : State) (a k : Nat) : safeOut (failBrake s a) k = safeOut s k := by
  rw [failBrake, safeOut_enterSto]
  rfl

theorem safeOut_failBrakes (l : List Nat) (s : State) (k : Nat) : safeOut (l.foldl failBrake s) k = safeOut s k := by
  induction l generalizing s with
  | nil => rfl
  | cons a l ih => rw [List.foldl_cons, ih, safeOut_failBrake]

/-- A failed brake stays failed while further ones fail. -/
theorem failed_failBrakes (l : List Nat) (s : State) (b : Nat)
    (h : b ∈ l ∨ (safeAxis s b).forced = true ∧ (safeAxis s b).sto = true) :
    (safeAxis (l.foldl failBrake s) b).forced = true ∧ (safeAxis (l.foldl failBrake s) b).sto = true := by
  induction l generalizing s with
  | nil =>
    rcases h with h | h
    · cases h
    · exact h
  | cons a l ih =>
    refine ih (failBrake s a) ?_
    by_cases hb : b = a
    · subst hb
      exact .inr (safeAxis_failBrake s b)
    · rw [safeAxis_failBrake_ne s hb]
      exact h.imp_left fun hm => (List.mem_cons.mp hm).resolve_left hb

/-- The state of a head whose output k has just been found failed, before its brakes fail. -/
def outOff (s : State) (k : Nat) : State :=
  fioMod (setSafeOut s k { safeOut s k with latched := true, on := false, switched := none, pulsing := false }) fun f => { f with
    safeOn := if bit f.safeOn k then f.safeOn - 2 ^ k else f.safeOn
    pulses := if bit f.pulses k then f.pulses - 2 ^ k else f.pulses }

theorem outFault_eq {s : State} {k : Nat} (ev : Nat) (h : (safeOut s k).latched = false) :
    outFault s k ev = event ((outBrakes s k).foldl failBrake (outOff s k)) SAFE ev k := by
  unfold outFault
  simp only [h]
  rfl

theorem safeOut_outFault {s : State} {k : Nat} (ev : Nat) (h : (safeOut s k).latched = false) : safeOut (outFault s k ev) k =
    { safeOut s k with latched := true, on := false, switched := none, pulsing := false } := by
  rw [outFault_eq ev h, safeOut_of_safe (event_safe _ _ _ _ _), safeOut_failBrakes]
  exact safeOut_setSafeOut _ _ _

theorem brakes_outFault {s : State} {k : Nat} (ev : Nat) (h : (safeOut s k).latched = false) {a : Nat} (ha : a ∈ outBrakes s k) :
    (safeAxis (outFault s k ev) a).forced = true ∧ (safeAxis (outFault s k ev) a).sto = true := by
  rw [outFault_eq ev h, safeAxis_of_safe (event_safe _ _ _ _ _)]
  exact failed_failBrakes _ _ _ (.inl ha)

/-! ### The commands -/

section outputs
variable {s : State} (h : Awake s) {k : Fin 16}
include h

theorem completes_edmTimeout {r : Nat} (hi : islandSt s = 1) (hs : (safeOut s k).switched = some r)
    (he : edmShows s (safeOut s k) (safeOut s k).on = false) (hl : (safeOut s k).latched = false)
    (ht : (safeOut s k).edmTime * 1000000 ≤ s.raw - r) : Completes (.edmTimeout k) s fun t =>
      safeOut t k = { safeOut s k with latched := true, on := false, switched := none, pulsing := false } ∧
      (∀ a ∈ outBrakes s k, (safeAxis t a).forced = true ∧ (safeAxis t a).sto = true) ∧ t.mem = s.mem := by
  refine completes_quiet_eq rfl h (t := outFault s k 7) ?_ ⟨?_, fun a ha => ?_, rfl⟩
  · simp [edmTimeout, hs, he, hi, ht]
  · rw [safeOut_frame, safeOut_outFault 7 hl]
  · rw [safeAxis_frame]
    exact brakes_outFault 7 hl ha

theorem completes_testPulseStart (hi : islandSt s = 1) (ho : (safeOut s k).on = true) (hp : (safeOut s k).pulsing = false)
    (hg : outGroups s k = []) (ht : (safeOut s k).pulsePeriod * 1000000 ≤ s.raw - (safeOut s k).pulseRaw) :
    Completes (.testPulseStart k) s fun t => safeOut t k = { safeOut s k with pulsing := true, pulseRaw := s.raw } ∧
      t.fio = { s.fio with pulses := s.fio.pulses + 2 ^ k.val } ∧ t.mem = s.mem := by
  refine completes_quiet_eq rfl h
    (t := fioMod (setSafeOut s k { safeOut s k with pulsing := true, pulseRaw := s.raw }) fun f => { f with pulses := f.pulses + 2 ^ k.val })
    ?_ ⟨safeOut_setSafeOut _ _ _, rfl, rfl⟩
  simp [pulseStart, hi, ho, hp, hg, Nat.not_lt.mpr ht]

section pulse
variable (hp : (safeOut s k).pulsing = true) (ht : (safeOut s k).pulseW * 1000 ≤ s.raw - (safeOut s k).pulseRaw)
include hp ht

theorem completes_testPulseEnd_passed (hb : bit s.fio.pulses k = true) : Completes (.testPulseEnd k true true) s fun t =>
    safeOut t k = { safeOut s k with pulsing := false } ∧ t.fio = { s.fio with pulses := s.fio.pulses - 2 ^ k.val } ∧
    t.mem = s.mem := by
  refine completes_quiet_eq rfl h
    (t := fioMod (setSafeOut s k { safeOut s k with pulsing := false }) fun f => { f with pulses := s.fio.pulses - 2 ^ k.val })
    ?_ ⟨safeOut_setSafeOut _ _ _, rfl, rfl⟩
  simp [testPulseEnd, fioMod, hp, Nat.not_lt.mpr ht]
  exact if_pos hb

theorem completes_testPulseEnd_failed (hl : (safeOut s k).latched = false) {sawOff backOn : Bool} (hb : (sawOff && backOn) = false) :
    Completes (.testPulseEnd k sawOff backOn) s fun t => safeOut t k =
      { safeOut s k with latched := true, on := false, switched := none, pulsing := false } := by
  have hset := safeOut_setSafeOut s k { safeOut s k with pulsing := false }
  refine completes_quiet_eq rfl h (t := outFault (fioMod (setSafeOut s k { safeOut s k with pulsing := false }) fun f =>
    { f with pulses := if bit f.pulses k then f.pulses - 2 ^ k.val else f.pulses }) k 8) ?_ ?_
  · simp [testPulseEnd, hp, hb, Nat.not_lt.mpr ht]
  · rw [safeOut_frame, safeOut_outFault 8 (by rw [safeOut_of_safe (fioMod_safe _ _), hset]; exact hl),
      safeOut_of_safe (fioMod_safe _ _), hset]

end pulse
end outputs

/-- Settles O38, command by command. -/
theorem safeOutputCommandsComplete : Obligations.SafeOutputCommandsComplete := by
  unfold Obligations.SafeOutputCommandsComplete
  intro s h k
  exact ⟨fun _ => completes_edmTimeout h, completes_testPulseStart h, completes_testPulseEnd_passed h,
    fun hp ht hl _ _ => completes_testPulseEnd_failed h hp ht hl⟩

end Sys2Proof.Machine

/-! ## Safety: the start, the fault and the safe-state entry of the island complete (R394, R424, R465) -/

namespace Sys2Proof.Machine

/-! ### How a command of a head that is awake completes -/

/-- A command of a head that is awake completes where its effect, but for the queue, meets what is asked. -/
theorem completes_run_eq {c : Instr} {f : State → State} {s t : State} {P : State → Prop} (e : exec c s = run (awake f) s)
    (h : Awake s) (hf : f s = t) (p : P { t with pending := s.pending }) : Completes c s P :=
  completes_run e (by rw [awake_eq h, hf]) p

/-! ### What a fold of steps keeps -/

theorem foldl_keeps {α β : Type} (g : State → β) {f : State → α → State} (h : ∀ s a, g (f s a) = g s) (l : List α) (s : State) :
    g (l.foldl f s) = g s := by
  induction l generalizing s with
  | nil => rfl
  | cons a l ih => rw [List.foldl_cons, ih, h]

/-! ### Chip safe state -/

/-- What the pins' step leaves, the whole of TXDIS leaves. -/
theorem driveTxdis_keeps_of {β : Type} (g : State → β) (hpwr : ∀ s x, g { s with pwr := { s.pwr with txdis := x } } = g s)
    (hout : ∀ s x, g (emit s x) = g s) (s : State) : g (driveTxdis s) = g s := by
  unfold driveTxdis
  refine foldl_keeps g (fun s p => ?_) _ s
  dsimp only
  split
  · rfl
  · rw [hout, hpwr]

@[simp] theorem driveTxdis_safe (s : State) : (driveTxdis s).safe = s.safe :=
  driveTxdis_keeps_of State.safe (fun _ _ => rfl) (fun _ _ => rfl) s

@[simp] theorem driveTxdis_ring (s : State) : (driveTxdis s).ring = s.ring := (driveTxdis_keeps s).1

theorem rd_driveTxdis (s : State) (a : Nat) : rd (driveTxdis s) a = rd s a := by rw [rd, (driveTxdis_keeps s).2, rd]

@[simp] theorem showFbc_safe (s : State) : (showFbc s).safe = s.safe := by
  obtain ⟨d, o, w, e⟩ := showFbc_frame s
  rw [e]
  rfl

@[simp] theorem showFbc_ring (s : State) : (showFbc s).ring = s.ring := by
  obtain ⟨d, o, w, e⟩ := showFbc_frame s
  rw [e]
  rfl

/-- Chip safe state as it is entered, before the pins follow (R465). -/
def safeShown (s : State) (cause blk ev : Nat) : State :=
  wr (setBit (setBit s Reg.FPM_STATUS 1 true) Reg.FPM_ALIVE 1 true) Reg.FPM_CAUSE
    (word (cause + blk % 256 * 2 ^ 8 + ev % 32 * 2 ^ 16))

theorem enterSafe_eq {s : State} (cause blk ev : Nat) (h : chipSafe s = false) : enterSafe s cause blk ev =
    driveTxdis (showFbc (writeMem (safeShown s cause blk ev) .ret causeAt
      (leBytes 4 (rd (safeShown s cause blk ev) Reg.FPM_CAUSE).toNat))) := if_neg (by rw [h]; decide)

theorem enterSafe_of_safe {s : State} (cause blk ev : Nat) (h : chipSafe s = true) : enterSafe s cause blk ev = s := if_pos h

/-- The registers of a head that has just entered chip safe state. -/
theorem rd_enterSafe_shown {s : State} (cause blk ev : Nat) (h : chipSafe s = false) {a : Nat} (ha : a ≠ Reg.FBC_STATUS) :
    rd (enterSafe s cause blk ev) a = rd (safeShown s cause blk ev) a := by
  rw [enterSafe_eq cause blk ev h, rd_driveTxdis, rd_showFbc_ne _ ha]
  rfl

section entered
variable {s : State} (cause blk ev : Nat)

theorem rd_enterSafe {a : Nat} (h : a ∉ [Reg.FPM_STATUS, Reg.FPM_ALIVE, Reg.FPM_CAUSE, Reg.FBC_STATUS]) :
    rd (enterSafe s cause blk ev) a = rd s a := by
  simp only [List.mem_cons, List.not_mem_nil, or_false, not_or] at h
  obtain ⟨hst, hal, hca, hfb⟩ := h
  cases hs : chipSafe s
  · rw [rd_enterSafe_shown cause blk ev hs hfb, safeShown, rd_wr_ne _ _ hca, rd_setBit_ne _ _ _ hal, rd_setBit_ne _ _ _ hst]
  · rw [enterSafe_of_safe _ _ _ hs]

theorem chipSafe_enterSafe : chipSafe (enterSafe s cause blk ev) = true := by
  cases hs : chipSafe s
  · rw [chipSafe, fbit, rd_enterSafe_shown cause blk ev hs (by decide), safeShown, rd_wr_ne _ _ (by decide),
      rd_setBit_ne _ _ _ (by decide), ← fbit, fbit_setBit _ _ _ _ (by decide)]
  · rw [enterSafe_of_safe _ _ _ hs, hs]

theorem cause_enterSafe (hs : chipSafe s = false) :
    rd (enterSafe s cause blk ev) Reg.FPM_CAUSE = word (cause + blk % 256 * 2 ^ 8 + ev % 32 * 2 ^ 16) := by
  rw [rd_enterSafe_shown cause blk ev hs (by decide), safeShown, rd_wr_same]

theorem alive_enterSafe (hs : chipSafe s = false) : fbit (enterSafe s cause blk ev) Reg.FPM_ALIVE 1 = true := by
  rw [fbit, rd_enterSafe_shown cause blk ev hs (by decide), safeShown, rd_wr_ne _ _ (by decide), ← fbit,
    fbit_setBit _ _ _ _ (by decide)]

theorem retained_enterSafe (hs : chipSafe s = false) : readMem (enterSafe s cause blk ev) .ret causeAt 4 =
    leBytes 4 (word (cause + blk % 256 * 2 ^ 8 + ev % 32 * 2 ^ 16)).toNat := by
  have h := reads_writes s.mem .ret causeAt (leBytes 4 (word (cause + blk % 256 * 2 ^ 8 + ev % 32 * 2 ^ 16)).toNat)
  rw [length_leBytes] at h
  have hcause : rd (safeShown s cause blk ev) Reg.FPM_CAUSE = word (cause + blk % 256 * 2 ^ 8 + ev % 32 * 2 ^ 16) :=
    rd_wr_same _ _ _
  rw [enterSafe_eq cause blk ev hs, readMem, driveTxdis_mem, showFbc_mem, hcause]
  exact h

@[simp] theorem enterSafe_ring : (enterSafe s cause blk ev).ring = s.ring := by
  cases hs : chipSafe s
  · rw [enterSafe_eq cause blk ev hs, driveTxdis_ring, showFbc_ring]
    rfl
  · rw [enterSafe_of_safe _ _ _ hs]

@[simp] theorem enterSafe_safe : (enterSafe s cause blk ev).safe = s.safe := by
  cases hs : chipSafe s
  · rw [enterSafe_eq cause blk ev hs, driveTxdis_safe, showFbc_safe]
    rfl
  · rw [enterSafe_of_safe _ _ _ hs]

end entered

/-! ### The island's fault -/

theorem fld_event (s : State) (b e o d : Nat) {a : Nat} (hi lo : Nat) (h : reportReg a = false) :
    fld (event s b e o d) a hi lo = fld s a hi lo := by rw [fld, rd_event _ _ _ _ _ h, fld]

theorem fbit_event (s : State) (b e o d : Nat) {a : Nat} (i : Nat) (h : reportReg a = false) :
    fbit (event s b e o d) a i = fbit s a i := by rw [fbit, rd_event _ _ _ _ _ h, fbit]

theorem chipSafe_event (s : State) (b e o d : Nat) : chipSafe (event s b e o d) = chipSafe s :=
  (only_event s b e o d).status 1 (by decide)

/-- An island in FAULT as it shows and reports its cause (R424), before the outbound PDUs or the chip react. -/
def faultReported (s : State) (cause : Nat) : State :=
  event (event (writeMem (wr (setF s Reg.SAFE_STATUS 1 0 2) Reg.SAFE_FAULT_CAUSE (word (cause % 256))) .ret (causeAt + 4)
    (leBytes 4 (cause % 256))) SAFE 11 cause) FPM 0 cause

theorem rd_faultReported (s : State) (cause : Nat) {a : Nat} (h : reportReg a = false) : rd (faultReported s cause) a =
    if a = Reg.SAFE_FAULT_CAUSE then word (cause % 256) else rd (setF s Reg.SAFE_STATUS 1 0 2) a := by
  rw [faultReported, rd_event _ _ _ _ _ h, rd_event _ _ _ _ _ h]
  exact rd_wr _ _ _ _

theorem twinReady_faultReported (s : State) (cause : Nat) : twinReady (faultReported s cause) = twinReady s := by
  have h : rd (faultReported s cause) Reg.TWIN_STATE = rd s Reg.TWIN_STATE := by
    rw [rd_faultReported s cause (by decide), if_neg (by decide), rd_setF_ne _ _ _ _ (by decide)]
  simp only [twinReady, twinSt, fld, fbit, h]

theorem islandSt_faultReported (s : State) (cause : Nat) : islandSt (faultReported s cause) = 2 := by
  rw [islandSt, fld, rd_faultReported s cause (by decide), if_neg (by decide)]
  exact fld_setF _ _ _ _ _ (by decide) (by decide)

theorem cause_faultReported (s : State) (cause : Nat) :
    rd (faultReported s cause) Reg.SAFE_FAULT_CAUSE = word (cause % 256) := by
  rw [rd_faultReported s cause (by decide), if_pos rfl]

theorem chipSafe_faultReported (s : State) (cause : Nat) : chipSafe (faultReported s cause) = chipSafe s := by
  rw [faultReported, chipSafe_event, chipSafe_event]
  exact congrArg (wbit · 1) ((rd_wr_ne _ _ (by decide)).trans (rd_setF_ne _ _ _ _ (by decide)))

@[simp] theorem faultReported_safe (s : State) (cause : Nat) : (faultReported s cause).safe = s.safe := by simp [faultReported]
@[simp] theorem faultReported_ring (s : State) (cause : Nat) : (faultReported s cause).ring = s.ring := by simp [faultReported]

theorem retained_faultReported (s : State) (cause : Nat) :
    readMem (faultReported s cause) .ret (causeAt + 4) 4 = leBytes 4 (cause % 256) := by
  rw [readMem, faultReported, event_mem, event_mem]
  have h := reads_writes s.mem .ret (causeAt + 4) (leBytes 4 (cause % 256))
  rw [length_leBytes] at h
  exact h

theorem islandFault_ready {s : State} (cause : Nat) (hi : islandSt s ≠ 2) (ht : twinReady s = true) :
    islandFault s cause = enterSafe (faultReported s cause) 2 SAFE 11 := by
  have hr : twinReady (faultReported s cause) = true := by rw [twinReady_faultReported, ht]
  unfold islandFault
  exact (if_neg (by simpa using hi)).trans (if_pos hr)

theorem islandFault_alone {s : State} (cause : Nat) (hi : islandSt s ≠ 2) (ht : twinReady s = false) :
    islandFault s cause = { faultReported s cause with
      safe := { s.safe with zeroed := true, zeroShuttles := 0 }, ring := { s.ring with pdus := [] } } := by
  have hr : ¬ twinReady (faultReported s cause) = true := by rw [twinReady_faultReported, ht]; decide
  unfold islandFault
  refine (if_neg (by simpa using hi)).trans ((if_neg hr).trans ?_)
  rw [← faultReported_safe s cause, ← faultReported_ring s cause]
  rfl

/-- An island fault leaves the island in FAULT with its cause, however the rest of the chip reacts. -/
theorem islandFault_shows {s : State} (cause : Nat) (hi : islandSt s ≠ 2) :
    islandSt (islandFault s cause) = 2 ∧ rd (islandFault s cause) Reg.SAFE_FAULT_CAUSE = word (cause % 256) := by
  cases ht : twinReady s
  · rw [islandFault_alone cause hi ht]
    exact ⟨islandSt_faultReported s cause, cause_faultReported s cause⟩
  · rw [islandFault_ready cause hi ht, islandSt, fld, rd_enterSafe _ _ _ (by decide), rd_enterSafe _ _ _ (by decide)]
    exact ⟨islandSt_faultReported s cause, cause_faultReported s cause⟩

/-! ### The start of the island -/

theorem rd_showSafe (s : State) {a : Nat} (h : a < Reg.SAFE_IN_STATE) : rd (showSafe s) a = rd s a := by
  have hax : ∀ t b, rd (showAxis t b) a = rd t a := fun t b => by
    rw [showAxis, rd_wr_ne _ _ (by simp only [Reg.SAFE_AX_POS, Reg.SAFE_IN_STATE] at *; omega),
      rd_wr_ne _ _ (by simp only [Reg.SAFE_AX_STATE, Reg.SAFE_IN_STATE] at *; omega)]
  have hgr : ∀ t b, rd (showGroup t b) a = rd t a := fun t b =>
    rd_wr_ne _ _ (by simp only [Reg.SAFE_SLO_STATE, Reg.SAFE_IN_STATE] at *; omega)
  unfold showSafe
  dsimp only
  rw [foldl_keeps (rd · a) hgr, foldl_keeps (rd · a) hax,
    rd_wr_ne _ _ (by simp only [Reg.SAFE_OUT_STATE, Reg.SAFE_IN_STATE] at *; omega), rd_wr_ne _ _ (Nat.ne_of_lt h)]

@[simp] theorem showSafe_safe (s : State) : (showSafe s).safe = s.safe := by
  unfold showSafe
  dsimp only
  rw [foldl_keeps State.safe (f := showGroup) (fun _ _ => rfl), foldl_keeps State.safe (f := showAxis) (fun _ _ => rfl), wr_safe,
    wr_safe]

theorem rd_orient (s : State) {a : Nat} (h : a ≠ Reg.SYS_TTAIL) : rd (orient s) a = rd s a := by
  unfold orient
  dsimp only
  split
  · rfl
  · exact rd_wr_ne _ _ h

@[simp] theorem orient_safe (s : State) : (orient s).safe = s.safe := by
  unfold orient
  dsimp only
  split <;> rfl

section loaded
variable (s : State) (bs : List Byte) (f : Safe)

theorem islandSt_loadSet : islandSt (loadSet s bs f) = 1 := by
  unfold loadSet
  dsimp only
  rw [islandSt, fld, rd_showSafe _ (by decide)]
  exact fld_setF _ _ _ _ _ (by decide) (by decide)

theorem loaded_loadSet : fbit (loadSet s bs f) Reg.SAFE_STATUS 4 = true := by
  unfold loadSet
  dsimp only
  rw [fbit, rd_showSafe _ (by decide)]
  exact (fbit_setF_ne _ _ _ _ _ _ (by decide) (by decide) (by decide)).trans (fbit_setBit _ _ _ _ (by decide))

theorem signature_loadSet : rd (loadSet s bs f) Reg.SAFE_PARAM_SIG = word (crc32c bs) := by
  unfold loadSet
  dsimp only
  rw [rd_showSafe _ (by decide), rd_setF_ne _ _ _ _ (by decide), rd_setBit_ne _ _ _ (by decide), rd_orient _ (by decide),
    rd_setF_ne _ _ _ _ (by decide), rd_wr_same]

theorem period_loadSet : (loadSet s bs f).safe.period = f.period := by
  unfold loadSet
  extract_lets g s1 s2 s3 s4 s5 s6
  have h2 : s2.safe = s1.safe := foldl_keeps State.safe (by simp) _ _
  have h3 : s3.safe = s2.safe := foldl_keeps State.safe (by simp) _ _
  have h4 : s4.safe = s3.safe := foldl_keeps State.safe (by simp [setConnSt]) _ _
  unfold s6 s5
  rw [showSafe_safe, setF_safe, setBit_safe, orient_safe, setF_safe, wr_safe, h4, h3, h2]

end loaded

theorem paramSet_congr {s t : State} (hm : t.mem = s.mem) (area : Nat) : paramSet t area = paramSet s area := by
  have hbytes : areaBytes t area = areaBytes s area := by rw [areaBytes, areaBytes, readMem, readMem, readMem, readMem, hm]
  rw [paramSet, paramSet, cfgArea, cfgArea, hbytes]

/-- The island with the hash of its parameter set (R500). -/
def hashShown (s : State) (bs : List Byte) : State := { s with sec := { s.sec with paramHash := Config.sha256 bs } }

section start
variable {s : State} (hi : islandSt s = 0) (ht : s.safe.tested = false) (hs : fld s Reg.SEC_STATUS 2 0 < 4)
include hi ht hs

/-- A self-test that passes loads the parameter set where it can be read (R394, R423). -/
theorem islandStart_set {bs : List Byte} {f : Safe} (hp : paramSet s (fld s Reg.SEC_STATUS 5 5) = some bs)
    (hf : parseSet bs = some f) : ∃ v, islandStart s true =
      hashShown (wr (loadSet (safeMod s fun g => { g with tested := true }) bs f) Reg.SAFE_PARAM_VER v) bs := by
  unfold islandStart
  rw [if_neg (by simp [hi, ht, hs]), if_neg (by decide)]
  extract_lets s1
  have hfld : fld s1 Reg.SEC_STATUS 5 5 = fld s Reg.SEC_STATUS 5 5 := rfl
  have hset : paramSet s1 (fld s1 Reg.SEC_STATUS 5 5) = some bs := by rw [hfld, paramSet_congr (safeMod_mem _ _), hp]
  simp only [hset, hf]
  exact ⟨_, rfl⟩

theorem islandStart_noSet (hp : ∀ bs, paramSet s (fld s Reg.SEC_STATUS 5 5) = some bs → parseSet bs = none) :
    islandStart s true = event (safeMod s fun g => { g with tested := true }) SAFE 0 := by
  unfold islandStart
  rw [if_neg (by simp [hi, ht, hs]), if_neg (by decide)]
  extract_lets s1
  have hfld : fld s1 Reg.SEC_STATUS 5 5 = fld s Reg.SEC_STATUS 5 5 := rfl
  rw [hfld, paramSet_congr (safeMod_mem _ _)]
  cases k : paramSet s (fld s Reg.SEC_STATUS 5 5) with
  | none => rfl
  | some bs => simp only [hp bs k]; rfl

end start

/-! ### The commands -/

section island
variable {s : State} (h : Awake s)
include h

section start
variable (hi : islandSt s = 0) (ht : s.safe.tested = false) (hs : fld s Reg.SEC_STATUS 2 0 < 4)
include hi ht hs

theorem completes_islandStartDone_set {bs : List Byte} {f : Safe} (hp : paramSet s (fld s Reg.SEC_STATUS 5 5) = some bs)
    (hf : parseSet bs = some f) : Completes (.islandStartDone true) s fun t => islandSt t = 1 ∧
      rd t Reg.SAFE_PARAM_SIG = word (crc32c bs) ∧ fbit t Reg.SAFE_STATUS 4 = true ∧ t.safe.period = f.period ∧
      t.sec.paramHash = Config.sha256 bs := by
  obtain ⟨v, hload⟩ := islandStart_set hi ht hs hp hf
  refine completes_run_eq rfl h hload ⟨?_, ?_, ?_, period_loadSet _ _ _, rfl⟩
  · exact (congrArg (wbits · 1 0) (rd_wr_ne _ _ (by decide))).trans (islandSt_loadSet _ _ _)
  · exact (rd_wr_ne _ _ (by decide)).trans (signature_loadSet _ _ _)
  · exact (congrArg (wbit · 4) (rd_wr_ne _ _ (by decide))).trans (loaded_loadSet _ _ _)

theorem completes_islandStartDone_failed : Completes (.islandStartDone false) s fun t =>
    islandSt t = 2 ∧ rd t Reg.SAFE_FAULT_CAUSE = 8 := by
  refine completes_run_eq rfl h (t := islandFault s 8) ?_ (islandFault_shows 8 (by omega))
  simp [islandStart, hi, ht, Nat.not_le.mpr hs]

theorem completes_islandStartDone_noSet (hp : ∀ bs, paramSet s (fld s Reg.SEC_STATUS 5 5) = some bs → parseSet bs = none) :
    Completes (.islandStartDone true) s fun t => islandSt t = 0 ∧ t.safe = { s.safe with tested := true } ∧ t.mem = s.mem := by
  refine completes_run_eq rfl h (islandStart_noSet hi ht hs hp) ⟨?_, event_safe _ _ _ _ _, event_mem _ _ _ _ _⟩
  rw [islandSt, fld_queue, fld_event _ _ _ _ _ _ _ (by decide)]
  exact hi

end start

theorem completes_islandFault_alone {cause : Byte} (hi : islandSt s ≠ 2) (ht : twinReady s = false) :
    Completes (.islandFault cause) s fun t => islandSt t = 2 ∧ rd t Reg.SAFE_FAULT_CAUSE = cause.setWidth 32 ∧
      t.safe = { s.safe with zeroed := true, zeroShuttles := 0 } ∧ t.ring = { s.ring with pdus := [] } ∧
      readMem t .ret 8324 4 = leBytes 4 cause.toNat ∧ chipSafe t = chipSafe s := by
  have hc : cause.toNat % 256 = cause.toNat := Nat.mod_eq_of_lt cause.isLt
  obtain ⟨hst, hca⟩ := islandFault_shows cause.toNat hi
  rw [hc] at hca
  rw [islandFault_alone _ hi ht] at hst hca
  refine completes_run_eq rfl h (islandFault_alone _ hi ht) ⟨hst, hca.trans ?_, rfl, rfl, ?_, chipSafe_faultReported s cause.toNat⟩
  · exact BitVec.eq_of_toNat_eq (by rw [word, BitVec.toNat_ofNat, BitVec.toNat_setWidth])
  · have hret := retained_faultReported s cause.toNat
    rw [hc] at hret
    exact hret

theorem completes_islandFault_ready {cause : Byte} (hi : islandSt s ≠ 2) (ht : twinReady s = true) :
    Completes (.islandFault cause) s fun t => islandSt t = 2 ∧ chipSafe t = true ∧ t.ring = s.ring := by
  refine completes_run_eq rfl h (t := islandFault s cause.toNat) rfl ⟨(islandFault_shows _ hi).1, ?_, ?_⟩
  · rw [islandFault_ready _ hi ht]
    exact chipSafe_enterSafe _ _ _
  · rw [islandFault_ready _ hi ht]
    exact (enterSafe_ring _ _ _).trans (faultReported_ring _ _)

theorem completes_islandSafeStateEntry (hz : s.safe.zeroed = true) (hl : 2 ≤ s.safe.zeroShuttles ∨ leads s = false)
    (hs : chipSafe s = false) : Completes .islandSafeStateEntry s fun t => chipSafe t = true ∧ fbit t Reg.FPM_ALIVE 1 = true ∧
      rd t Reg.FPM_CAUSE = word (2 + 11 * 2 ^ 8 + 11 * 2 ^ 16) ∧ t.safe = s.safe :=
  completes_run_eq rfl h (t := enterSafe s 2 SAFE 11) (if_pos (by simpa [hz] using hl))
    ⟨chipSafe_enterSafe _ _ _, alive_enterSafe _ _ _ hs, cause_enterSafe _ _ _ hs, enterSafe_safe _ _ _⟩

end island

/-- Settles O39, command by command. -/
theorem islandCommandsComplete : Obligations.IslandCommandsComplete := by
  unfold Obligations.IslandCommandsComplete
  intro s h
  exact ⟨fun _ _ hi ht hs => completes_islandStartDone_set h hi ht hs, completes_islandStartDone_failed h,
    completes_islandStartDone_noSet h, fun _ => completes_islandFault_alone h, fun _ => completes_islandFault_ready h,
    completes_islandSafeStateEntry h⟩

end Sys2Proof.Machine

/-! ## Field I/O: the commands of the outputs complete (R441, R443, R444, R451) -/

namespace Sys2Proof.Machine

/-! ### Bits of a number that gains or loses a power of two -/

theorem bit_add_two_pow {n k : Nat} (h : bit n k = false) (j : Nat) : bit (n + 2 ^ k) j = (j == k || bit n j) := by
  have hk : n / 2 ^ k % 2 = 0 := by simpa [bit] using h
  rcases Nat.lt_trichotomy j k with hj | rfl | hj
  · obtain ⟨d, rfl⟩ : ∃ d, k = j + (d + 1) := ⟨k - j - 1, by omega⟩
    rw [bit, bit, Nat.pow_add, Nat.add_mul_div_left _ _ (by positivity), Nat.pow_succ, Nat.add_mul_mod_self_right]
    simp
  · rw [bit, Nat.add_div_right _ (by positivity)]
    simp [Nat.add_mod, hk]
  · obtain ⟨d, rfl⟩ : ∃ d, j = k + 1 + d := ⟨j - k - 1, by omega⟩
    have hdiv : (n + 2 ^ k) / 2 ^ (k + 1) = n / 2 ^ (k + 1) := by
      rw [Nat.pow_succ, ← Nat.div_div_eq_div_mul, ← Nat.div_div_eq_div_mul, Nat.add_div_right _ (by positivity)]
      omega
    rw [bit, bit, Nat.pow_add, ← Nat.div_div_eq_div_mul, hdiv, Nat.div_div_eq_div_mul]
    simp [show k + 1 + d ≠ k by omega]

theorem bit_sub_two_pow {n k : Nat} (h : bit n k = true) (j : Nat) : bit (n - 2 ^ k) j = (j != k && bit n j) := by
  have hk : n / 2 ^ k % 2 = 1 := by simpa [bit] using h
  have hle : 2 ^ k ≤ n := by
    by_contra hlt
    rw [Nat.div_eq_of_lt (by omega)] at hk
    omega
  obtain ⟨m, rfl⟩ := Nat.exists_eq_add_of_le' hle
  have hoff : bit m k = false := by
    rw [Nat.add_div_right _ (by positivity)] at hk
    simp only [bit, beq_eq_false_iff_ne]
    omega
  rw [Nat.add_sub_cancel, bit_add_two_pow hoff j]
  by_cases hj : j = k
  · simp [hj, hoff]
  · simp [show (j == k) = false by simpa using hj, hj]

/-! ### The outputs that the die applies -/

/-- One output takes the state of R446. -/
def applyOutput (s : State) (k : Nat) : State :=
  if bit s.fio.applied k == appliedTo s k then s
  else
    emit (fioMod s fun x => { x with applied := if appliedTo s k then s.fio.applied + 2 ^ k else s.fio.applied - 2 ^ k })
      (.pin ("FO" ++ toString k) (appliedTo s k) (mtime s))

theorem applyOutputs_eq (s : State) : applyOutputs s = (List.range 16).foldl applyOutput s := rfl

/-- An output that takes its state changes what is applied, and what is given out. -/
theorem applyOutput_frame (s : State) (k : Nat) : ∃ n o, applyOutput s k =
    { s with fio := { s.fio with applied := n }, out := s.out ++ o } ∧ ∀ j, bit n j = if j = k then appliedTo s k else bit s.fio.applied j := by
  unfold applyOutput
  split
  case isTrue heq =>
    refine ⟨s.fio.applied, [], by rw [List.append_nil], fun j => ?_⟩
    split
    · next hj => rw [hj, beq_iff_eq.mp heq]
    · rfl
  case isFalse hne =>
    refine ⟨_, _, rfl, fun j => ?_⟩
    cases hto : appliedTo s k
    · have hon : bit s.fio.applied k = true := by
        rw [hto] at hne
        simpa using hne
      rw [if_neg (by decide), bit_sub_two_pow hon]
      by_cases hj : j = k <;> simp [hj]
    · have hoff : bit s.fio.applied k = false := by
        rw [hto] at hne
        simpa using hne
      rw [if_pos rfl, bit_add_two_pow hoff]
      by_cases hj : j = k <;> simp [hj]

theorem appliedTo_applied (s : State) (n : Nat) (o : List Out) (k : Nat) :
    appliedTo { s with fio := { s.fio with applied := n }, out := o } k = appliedTo s k := rfl

/-- The outputs of a list take their states, and the others are left as they are. -/
theorem applyOutput_foldl (l : List Nat) (s : State) : ∃ n o, l.foldl applyOutput s =
    { s with fio := { s.fio with applied := n }, out := s.out ++ o } ∧
    ∀ j, bit n j = if j ∈ l then appliedTo s j else bit s.fio.applied j := by
  induction l generalizing s with
  | nil => exact ⟨s.fio.applied, [], by rw [List.append_nil]; rfl, fun _ => by simp⟩
  | cons k l ih =>
    obtain ⟨n, o, hstep, hn⟩ := applyOutput_frame s k
    obtain ⟨n', o', hrest, hn'⟩ := ih (applyOutput s k)
    refine ⟨n', o ++ o', ?_, fun j => ?_⟩
    · rw [List.foldl_cons, hrest, hstep, List.append_assoc]
    · rw [hn' j, hstep, appliedTo_applied]
      dsimp only
      rw [hn j]
      by_cases hj : j ∈ l
      · simp [hj]
      · by_cases hk : j = k <;> simp [hj, hk]

/-- What the die applies to its outputs is what R446 says, and nothing else of the field I/O changes. -/
theorem applyOutputs_frame (s : State) : ∃ n o, applyOutputs s = { s with fio := { s.fio with applied := n }, out := s.out ++ o } ∧
    ∀ k, k < 16 → bit n k = appliedTo s k := by
  obtain ⟨n, o, h, hn⟩ := applyOutput_foldl (List.range 16) s
  exact ⟨n, o, h, fun k hk => by rw [hn k, if_pos (List.mem_range.mpr hk)]⟩

/-- A change of the die holds the states applied when it brings the safe state (R446). -/
def heldOver (s : State) (x : Fio) : Fio :=
  if !(s.fio.tripped || s.fio.die.safe) && (x.tripped || x.die.safe) then { x with hold := s.fio.applied } else x

/-- A change of the die that leaves what is applied: the held states, the outputs by R446, and what is given out. -/
theorem dieMod_frame (s : State) (f : Fio → Fio) : ∃ n o,
    dieMod s f = { s with fio := { heldOver s (f s.fio) with applied := n }, out := s.out ++ o } ∧
    ∀ k, k < 16 → bit n k = appliedTo (dieMod s f) k := by
  have hmod : dieMod s f = applyOutputs { s with fio := heldOver s (f s.fio) } := by
    unfold dieMod heldOver
    dsimp only [fioMod]
    split <;> rfl
  obtain ⟨n, o, h, hn⟩ := applyOutputs_frame { s with fio := heldOver s (f s.fio) }
  rw [hmod, h]
  exact ⟨n, o, rfl, hn⟩

/-! ### Writes that land in FIO -/

section writes
variable {s : State} {port : Port} {v : Word}

theorem hostWrite_fioCommit (h : Reaches s port Reg.FIO_BASTE_COMMIT v) :
    hostWrite s port Reg.FIO_BASTE_COMMIT v = landFioCommit s v :=
  (write_reach h (i := 0) (j := 0) rfl (by decide) (by decide)).trans rfl

theorem hostWrite_fioOut (h : Reaches s port Reg.FIO_OUT v) : hostWrite s port Reg.FIO_OUT v = landFioOut s v :=
  (write_reach h (i := 0) (j := 0) rfl (by decide) (by decide)).trans rfl

end writes

/-- A bit of FIO_OUT that writes leave: of a safe output, or of one that the motion pipeline drives (R441). -/
def outKept (s : State) (k : Nat) : Bool := safeOutput s k || actF s (Reg.FIO_OUT_CFG k) 3 2 != 0

/-- One bit of FIO_OUT takes its value from a write (R441). -/
def writeOutBit (v : Word) (s : State) (k : Nat) : State := if outKept s k then s else setBit s Reg.FIO_OUT k (wbit v k)

theorem landFioOut_eq (s : State) (v : Word) : landFioOut s v = okBus ((List.range 16).foldl (writeOutBit v) s) := rfl

theorem rd_writeOutBit (v : Word) (s : State) (k : Nat) {a : Nat} (h : a ≠ Reg.FIO_OUT) : rd (writeOutBit v s k) a = rd s a := by
  unfold writeOutBit
  split
  · rfl
  · exact rd_setBit_ne _ _ _ h

theorem writeOutBit_act (v : Word) (s : State) (k : Nat) : (writeOutBit v s k).act = s.act := by unfold writeOutBit; split <;> rfl

theorem writeOutBit_fio (v : Word) (s : State) (k : Nat) : (writeOutBit v s k).fio = s.fio := by unfold writeOutBit; split <;> rfl

theorem outKept_writeOutBit (v : Word) (s : State) (k j : Nat) : outKept (writeOutBit v s k) j = outKept s j := by
  have hne : Reg.FIO_OUT_CFG j ≠ Reg.FIO_OUT := by unfold Reg.FIO_OUT_CFG Reg.FIO_OUT; omega
  simp only [outKept, safeOutput, fbit, rd_writeOutBit v s k hne, actF, actv, writeOutBit_act]

theorem fbit_writeOutBit (v : Word) (s : State) {k : Nat} (hk : k < 32) (j : Nat) : fbit (writeOutBit v s k) Reg.FIO_OUT j =
    if j = k ∧ outKept s k = false then wbit v k else fbit s Reg.FIO_OUT j := by
  unfold writeOutBit
  cases outKept s k
  · by_cases hj : j = k
    · simp [hj, fbit_setBit _ _ _ _ hk]
    · simp [hj, fbit_setBit_ne _ _ _ _ _ hk hj]
  · simp

theorem fbit_writeOutBits (v : Word) (l : List Nat) (hl : ∀ k ∈ l, k < 32) (s : State) (j : Nat) :
    fbit (l.foldl (writeOutBit v) s) Reg.FIO_OUT j = if j ∈ l ∧ outKept s j = false then wbit v j else fbit s Reg.FIO_OUT j := by
  induction l generalizing s with
  | nil => simp
  | cons k l ih =>
    rw [List.foldl_cons, ih (fun m hm => hl m (List.mem_cons_of_mem _ hm)), outKept_writeOutBit,
      fbit_writeOutBit v s (hl k List.mem_cons_self)]
    by_cases hj : j = k
    · subst hj
      cases outKept s j <;> simp
    · simp [hj]

/-! ### The commands -/

section outputs
variable {s : State} (h : Awake s) {k : Fin 16}
include h

theorem completes_outputOverload (hl : bit s.fio.latched k = false) : Completes (.outputOverload k) s fun t =>
    bit t.fio.latched k = true ∧ fbit t Reg.FIO_OUT_FLT k = true ∧ tget (fun _ => 0) t.fio.latchRaw k.val = s.raw ∧
    (s.fio.tripped = false → s.fio.die.safe = false → bit t.fio.applied k = false) ∧ t.mem = s.mem := by
  obtain ⟨n, o, hd, hn⟩ := dieMod_frame s fun x =>
    { x with latched := x.latched + 2 ^ k.val, latchRaw := tput (fun _ => 0) x.latchRaw k.val s.raw }
  have hbit : bit (s.fio.latched + 2 ^ k.val) k.val = true := by simp [bit_add_two_pow hl]
  obtain ⟨d, hmod⟩ : ∃ d, dieMod s (fun x =>
    { x with latched := x.latched + 2 ^ k.val, latchRaw := tput (fun _ => 0) x.latchRaw k.val s.raw }) = d := ⟨_, rfl⟩
  have hover : overload s k = event (setBit d Reg.FIO_OUT_FLT k true) FIO 3 k := by
    rw [overload, hmod, if_neg (by rw [hl]; decide)]
  have hfio : (event (setBit d Reg.FIO_OUT_FLT k true) FIO 3 k).fio = d.fio := by rw [event_fio, setBit_fio]
  rw [hmod] at hd hn
  refine completes_quiet_eq rfl h hover ⟨?_, ?_, ?_, fun htr hsafe => ?_, rfl⟩
  · dsimp only
    rw [hfio, hd]
    unfold heldOver
    dsimp only
    split <;> exact hbit
  · rw [fbit_frame, fbit_event _ _ _ _ _ _ (by decide), fbit_setBit _ _ _ _ (by omega)]
  · dsimp only
    rw [hfio, hd]
    unfold heldOver
    dsimp only
    split <;> exact tget_tput_same _ _ _ _
  · dsimp only
    rw [hfio, hd]
    dsimp only
    rw [hn k.val k.isLt, hd]
    simp [appliedTo, heldOver, htr, hsafe, hbit]

theorem completes_overloadRetry (hl : bit s.fio.latched k = true) (ha : actF s (Reg.FIO_OUT_CFG k) 16 16 = 1)
    (ht : tget (fun _ => 0) s.fio.latchRaw k.val + 100000000 ≤ s.raw) : Completes (.overloadRetry k) s fun t =>
    bit t.fio.latched k = false ∧ rd t Reg.FIO_OUT_FLT = rd s Reg.FIO_OUT_FLT ∧ bit t.fio.applied k = appliedTo t k ∧
    t.mem = s.mem := by
  obtain ⟨n, o, hd, hn⟩ := dieMod_frame s fun x => { x with latched := x.latched - 2 ^ k.val }
  have hbit : bit (s.fio.latched - 2 ^ k.val) k.val = false := by simp [bit_sub_two_pow hl]
  refine completes_quiet_eq rfl h (t := dieMod s fun x => { x with latched := x.latched - 2 ^ k.val }) ?_ ⟨?_, ?_, ?_, rfl⟩
  · simp [overloadRetry, unlatch, ha, ht, hl]
  · rw [hd]
    unfold heldOver
    dsimp only
    split <;> exact hbit
  · rw [rd_frame, hd]
    rfl
  · have happ := hn k.val k.isLt
    rw [hd] at happ ⊢
    exact happ

theorem completes_readbackMismatch {e : Nat × Nat} (he : s.fio.differs.find? (fun e => e.1 == k.val) = some e)
    (ht : e.2 + 1000000 ≤ s.raw) (hs : safeOutput s k = false) : Completes (.readbackMismatch k) s fun t =>
    fbit t Reg.FIO_OUT_FLT (16 + k) = true ∧ t.fio = s.fio ∧ t.mem = s.mem := by
  refine completes_quiet_eq rfl h (t := event (setBit s Reg.FIO_OUT_FLT (16 + k) true) FIO 4 k) ?_
    ⟨?_, event_fio _ _ _ _ _, rfl⟩
  · unfold readbackMismatch
    rw [he]
    exact if_neg (by simp [hs, ht])
  · rw [fbit_frame, fbit_event _ _ _ _ _ _ (by decide), fbit_setBit _ _ _ _ (by omega)]

end outputs

theorem exec_fioCommit {s : State} {port : Port} {v : Word} (h : Reaches s port Reg.FIO_BASTE_COMMIT v) (hv : wbit v 0 = true) :
    exec (.fioCommit port v) s = .next (okBus (setBit s Reg.FIO_BASTE_STATUS 0 true)) :=
  exec_port (f := fun s => hostWrite s port Reg.FIO_BASTE_COMMIT v) rfl ((hostWrite_fioCommit h).trans (if_pos hv)) rfl rfl rfl

theorem completes_fioOutWrite {s : State} {port : Port} {v : Word} (h : Reaches s port Reg.FIO_OUT v) :
    Completes (.fioOutWrite port v) s fun t => t.bus.err = false ∧
      (∀ k, k < 16 → fbit t Reg.FIO_OUT k = if safeOutput s k || actF s (Reg.FIO_OUT_CFG k) 3 2 != 0 then fbit s Reg.FIO_OUT k
        else wbit v k) ∧ t.fio = s.fio ∧ ∀ a, a ≠ Reg.FIO_OUT → rd t a = rd s a := by
  refine completes_port_eq (f := fun s => hostWrite s port Reg.FIO_OUT v) rfl ((hostWrite_fioOut h).trans (landFioOut_eq s v))
    ⟨rfl, fun k hk => ?_, ?_, fun a ha => ?_⟩
  · have hbits := fbit_writeOutBits v (List.range 16) (fun k hk => by have := List.mem_range.mp hk; omega) s k
    rw [fbit_frame]
    refine hbits.trans ?_
    change _ = if outKept s k then _ else _
    cases outKept s k <;> simp [hk]
  · exact foldl_keeps State.fio (writeOutBit_fio v) _ _
  · exact foldl_keeps (rd · a) (fun s k => rd_writeOutBit v s k ha) _ _

/-- Settles O41, command by command. -/
theorem fieldOutputCommandsComplete : Obligations.FieldOutputCommandsComplete := by
  unfold Obligations.FieldOutputCommandsComplete
  intro s h
  exact ⟨fun _ => completes_outputOverload h, fun _ => completes_overloadRetry h, fun _ _ => completes_readbackMismatch h,
    fun _ _ => exec_fioCommit, fun _ _ => completes_fioOutWrite⟩

end Sys2Proof.Machine

/-! ## Field I/O: the frames of the link complete, and the input filter (R431-R436, R442) -/

namespace Sys2Proof.Machine

/-! ### The filter of an input (R436) -/

section filter
variable (x : DieInput) (n : Nat)

theorem filter_same {c : Nat} (h : c = x.cls) : x.filter n c = { x with latest := c, run := 0 } := if_pos (by simpa using h)

theorem filter_other {c : Nat} (h : c ≠ x.cls) : x.filter n c =
    if n ≤ (if c = x.latest then x.run + 1 else 1) then { x with cls := c, latest := c, run := 0 }
    else { x with latest := c, run := if c = x.latest then x.run + 1 else 1 } := by
  rw [DieInput.filter, if_neg (by simpa using h)]
  simp only [beq_iff_eq]

/-- After a sample of a class, that class is filtered or its run is not yet long enough. -/
theorem filter_run (c : Nat) : (x.filter n c).cls = c ∨
    (x.filter n c).latest = c ∧ 1 ≤ (x.filter n c).run ∧ (x.filter n c).run < n ∧ (x.latest = c → x.run < (x.filter n c).run) := by
  by_cases h : c = x.cls
  · rw [filter_same x n h]
    exact .inl h.symm
  · rw [filter_other x n h]
    by_cases hl : c = x.latest
    · simp only [hl, if_true]
      split
      · exact .inl rfl
      · exact .inr ⟨rfl, by simp, Nat.lt_of_not_le ‹_›, fun _ => by simp⟩
    · simp only [hl, if_false]
      split
      · exact .inl rfl
      · exact .inr ⟨rfl, Nat.le_refl _, Nat.lt_of_not_le ‹_›, fun k => absurd k.symm hl⟩

theorem filter_replicate {c m : Nat} (hm : 1 ≤ m) : ((List.replicate m c).foldl (fun y k => y.filter n k) x).cls = c ∨
    ((List.replicate m c).foldl (fun y k => y.filter n k) x).latest = c ∧
    m ≤ ((List.replicate m c).foldl (fun y k => y.filter n k) x).run ∧
    ((List.replicate m c).foldl (fun y k => y.filter n k) x).run < n := by
  induction m, hm using Nat.le_induction with
  | base =>
    rcases filter_run x n c with hc | ⟨hl, hlo, hhi, -⟩
    · exact .inl hc
    · exact .inr ⟨hl, hlo, hhi⟩
  | succ m _ ih =>
    rw [List.replicate_succ', List.foldl_append]
    obtain ⟨y, hy⟩ : ∃ y, (List.replicate m c).foldl (fun y k => y.filter n k) x = y := ⟨_, rfl⟩
    rw [hy] at ih ⊢
    rcases ih with hc | ⟨hl, hlo, -⟩
    · exact .inl ((congrArg DieInput.cls (filter_same y n hc.symm)).trans hc)
    · rcases filter_run y n c with hc | ⟨hl', -, hhi', hrun⟩
      · exact .inl hc
      · have := hrun hl
        exact .inr ⟨hl', by simp only [List.foldl_cons, List.foldl_nil]; omega, hhi'⟩

/-- Samples in a row that agree on a class, as many as the filter asks, give that class. -/
theorem cls_of_replicate {c m : Nat} (hn : 1 ≤ n) (hm : n ≤ m) :
    ((List.replicate m c).foldl (fun y k => y.filter n k) x).cls = c := by
  rcases filter_replicate x n (c := c) (hn.trans hm) with hc | ⟨-, hlo, hhi⟩
  · exact hc
  · omega

/-- The run of an input counts samples that have all given its latest class. -/
theorem run_samples (hx : x.run = 0) (ks : List Nat) : (ks.foldl (fun y k => y.filter n k) x).run ≤ ks.length ∧
    ∀ j ∈ ks.reverse.take (ks.foldl (fun y k => y.filter n k) x).run, j = (ks.foldl (fun y k => y.filter n k) x).latest := by
  induction ks using List.reverseRecOn with
  | nil => simp [hx]
  | append_singleton ks k ih =>
    rw [List.foldl_append, List.reverse_append]
    obtain ⟨y, hy⟩ : ∃ y, ks.foldl (fun y k => y.filter n k) x = y := ⟨_, rfl⟩
    rw [hy] at ih ⊢
    obtain ⟨hlen, hall⟩ := ih
    simp only [List.foldl_cons, List.foldl_nil, List.reverse_cons, List.reverse_nil, List.nil_append, List.singleton_append,
      List.length_append, List.length_singleton]
    by_cases h : k = y.cls
    · rw [filter_same y n h]
      simp
    · rw [filter_other y n h]
      by_cases hrun : n ≤ (if k = y.latest then y.run + 1 else 1)
      · rw [if_pos hrun]
        simp
      · rw [if_neg hrun]
        by_cases hl : k = y.latest
        · simp only [hl, if_true, List.take_succ_cons, List.mem_cons, forall_eq_or_imp, true_and]
          exact ⟨by omega, hall⟩
        · simp [hl]

/-- A filtered class that changes has had as many samples in a row as the filter asks. -/
theorem samples_of_change (hx : x.run = 0) (ks : List Nat) (k : Nat)
    (hne : ((ks ++ [k]).foldl (fun y k => y.filter n k) x).cls ≠ (ks.foldl (fun y k => y.filter n k) x).cls) :
    ((ks ++ [k]).foldl (fun y k => y.filter n k) x).cls = k ∧ n ≤ ks.length + 1 ∧
    ∀ j ∈ (ks ++ [k]).reverse.take n, j = k := by
  obtain ⟨hlen, hall⟩ := run_samples x n hx ks
  rw [List.foldl_append] at hne ⊢
  obtain ⟨y, hy⟩ : ∃ y, ks.foldl (fun y k => y.filter n k) x = y := ⟨_, rfl⟩
  rw [hy] at hlen hall hne ⊢
  simp only [List.foldl_cons, List.foldl_nil, List.reverse_append, List.reverse_cons, List.reverse_nil, List.nil_append,
    List.singleton_append] at hne ⊢
  by_cases h : k = y.cls
  · rw [filter_same y n h] at hne
    exact absurd rfl hne
  · rw [filter_other y n h] at hne ⊢
    by_cases hrun : n ≤ (if k = y.latest then y.run + 1 else 1)
    · rw [if_pos hrun]
      by_cases hl : k = y.latest
      · rw [if_pos hl] at hrun
        refine ⟨rfl, by omega, fun j hj => ?_⟩
        have hmem : j ∈ (k :: ks.reverse).take (y.run + 1) := List.take_subset_take_left _ hrun hj
        rw [List.take_succ_cons, List.mem_cons] at hmem
        exact hmem.elim id fun hm => (hall j hm).trans hl.symm
      · rw [if_neg hl] at hrun
        refine ⟨rfl, by omega, fun j hj => ?_⟩
        have hmem : j ∈ (k :: ks.reverse).take 1 := List.take_subset_take_left _ hrun hj
        simpa using hmem
    · rw [if_neg hrun] at hne
      exact absurd rfl hne

end filter

/-! ### Numbers built bit by bit -/

theorem bit_sum_flags (f : Nat → Bool) (n j : Nat) :
    bit ((List.range n).foldl (fun m k => m + flag (f k) * 2 ^ k) 0) j = (decide (j < n) && f j) := by
  have hlt : ∀ n, (List.range n).foldl (fun m k => m + flag (f k) * 2 ^ k) 0 < 2 ^ n := by
    intro n
    induction n with
    | zero => simp
    | succ n ih =>
      rw [List.range_succ, List.foldl_append, List.foldl_cons, List.foldl_nil, Nat.pow_succ]
      have hflag : flag (f n) ≤ 1 := by unfold flag; split <;> omega
      have := Nat.mul_le_mul_right (2 ^ n) hflag
      omega
  induction n with
  | zero => simp [bit]
  | succ n ih =>
    rw [List.range_succ, List.foldl_append, List.foldl_cons, List.foldl_nil]
    cases hf : f n
    · rw [flag, if_neg (by decide), Nat.zero_mul, Nat.add_zero, ih]
      by_cases hj : j = n
      · simp [hj, hf]
      · simp [show j < n + 1 ↔ j < n by omega]
    · have hoff : bit ((List.range n).foldl (fun m k => m + flag (f k) * 2 ^ k) 0) n = false := by
        rw [bit, Nat.div_eq_of_lt (hlt n)]
        rfl
      rw [flag, if_pos rfl, Nat.one_mul, bit_add_two_pow hoff, ih]
      by_cases hj : j = n
      · simp [hj, hf]
      · simp [hj, show j < n + 1 ↔ j < n by omega]

/-! ### What an island fault leaves -/

@[simp] theorem showFbc_fio (s : State) : (showFbc s).fio = s.fio := by
  obtain ⟨d, o, w, e⟩ := showFbc_frame s
  rw [e]
  rfl

@[simp] theorem enterSafe_fio (s : State) (cause blk ev : Nat) : (enterSafe s cause blk ev).fio = s.fio := by
  cases hs : chipSafe s
  · rw [enterSafe_eq cause blk ev hs, driveTxdis_keeps_of State.fio (fun _ _ => rfl) (fun _ _ => rfl), showFbc_fio]
    rfl
  · rw [enterSafe_of_safe _ _ _ hs]

@[simp] theorem islandFault_fio (s : State) (cause : Nat) : (islandFault s cause).fio = s.fio := by
  have hrep : (faultReported s cause).fio = s.fio := by simp [faultReported]
  by_cases hi : islandSt s = 2
  · exact congrArg State.fio (if_pos (by simp [hi]))
  · cases ht : twinReady s
    · rw [islandFault_alone cause hi ht]
      exact hrep
    · rw [islandFault_ready cause hi ht, enterSafe_fio, hrep]

/-- The registers that an island fault may change. -/
def islandFaultReg (a : Nat) : Bool :=
  reportReg a || [Reg.SAFE_STATUS, Reg.SAFE_FAULT_CAUSE, Reg.FPM_ALIVE, Reg.FPM_CAUSE, Reg.FBC_STATUS].contains a

theorem rd_islandFault (s : State) (cause : Nat) {a : Nat} (h : islandFaultReg a = false) : rd (islandFault s cause) a = rd s a := by
  simp only [islandFaultReg, Bool.or_eq_false_iff, List.contains_eq_mem, decide_eq_false_iff_not, List.mem_cons, List.not_mem_nil,
    or_false, not_or] at h
  obtain ⟨hr, hst, hca, hal, hfc, hfb⟩ := h
  have hfs : a ≠ Reg.FPM_STATUS := fun e => by rw [e] at hr; exact absurd hr (by decide)
  have hrep : rd (faultReported s cause) a = rd s a := by
    rw [rd_faultReported s cause hr, if_neg hca, rd_setF_ne _ _ _ _ hst]
  by_cases hi : islandSt s = 2
  · exact congrArg (rd · a) (if_pos (by simp [hi]))
  · cases ht : twinReady s
    · rw [islandFault_alone cause hi ht]
      exact hrep
    · rw [islandFault_ready cause hi ht, rd_enterSafe _ _ _ (by simp [hfs, hal, hfc, hfb]), hrep]

/-! ### The frames -/

/-- The states that a downlink frame commands (R431). -/
def downOuts (s : State) : Nat :=
  (List.range 16).foldl (fun n k => n + flag (if safeOutput s k then bit s.fio.safeOn k else bit s.fio.standard k) * 2 ^ k) 0

theorem bit_downOuts (s : State) {k : Nat} (hk : k < 16) :
    bit (downOuts s) k = if safeOutput s k then bit s.fio.safeOn k else bit s.fio.standard k := by
  rw [downOuts, bit_sum_flags, decide_eq_true hk, Bool.true_and]

theorem islandSafe_congr {s t : State} (h : t.regs = s.regs) : islandSafe t = islandSafe s := by
  unfold islandSafe islandSt chipSafe twinSt fld fbit rd
  rw [h]

/-- The downlink frame that a head sends. -/
def downFrame (s : State) : Downlink :=
  { outs := downOuts s, safe := islandSafe s, pulses := s.fio.pulses, resume := s.fio.resume }

/-- The head notes when it sends a downlink frame. -/
def sendNoted (s : State) : State := fioMod s fun x => { x with sentRaw := some s.raw }

theorem downlinkSend_eq {s : State} (hd : ∀ r, s.fio.sentRaw = some r → r + 10000 ≤ s.raw) {t : State}
    (ht : (if s.fio.await && islandSt s == 1 then islandFault (sendNoted s) 7 else sendNoted s) = t) :
    downlinkSend s = fioMod t fun x => { x with down := some (downFrame t), await := true } := by
  have hdue : ¬ (s.fio.sentRaw.any fun r => s.raw < r + 10000) = true := by
    cases k : s.fio.sentRaw with
    | none => simp
    | some r => simpa using hd r k
  have houts (u : State) : ((fun n k => n + (if safeOutput u k then flag (bit u.fio.safeOn k) else flag (bit u.fio.standard k)) * 2 ^ k) :
      Nat → Nat → Nat) = fun n k => n + flag (if safeOutput u k then bit u.fio.safeOn k else bit u.fio.standard k) * 2 ^ k := by
    funext n k
    split <;> rfl
  unfold downlinkSend
  rw [if_neg hdue]
  subst ht
  simp only [houts]
  rfl

@[simp] theorem fioMod_fio (s : State) (f : Fio → Fio) : (fioMod s f).fio = f s.fio := rfl

/-- A frame with a bad CRC is counted, and the link not valid (R431). -/
def frameLost (s : State) : State :=
  fioMod (setBit (bump (fioMod s fun x => { x with up := none }) Reg.FIO_LINK_ERR_CNT) Reg.FIO_STATUS 0 false) fun x =>
    { x with validRaw := none, await := false }

theorem rd_fioMod (s : State) (f : Fio → Fio) (a : Nat) : rd (fioMod s f) a = rd s a := rfl

theorem rd_frameLost (s : State) {a : Nat} (hst : a ≠ Reg.FIO_STATUS) (hcnt : a ≠ Reg.FIO_LINK_ERR_CNT) :
    rd (frameLost s) a = rd s a := by
  rw [frameLost, rd_fioMod, rd_setBit_ne _ _ _ hst, rd_bump_ne _ _ hcnt, rd_fioMod]

theorem count_frameLost (s : State) :
    rd (frameLost s) Reg.FIO_LINK_ERR_CNT = word (min ((rd s Reg.FIO_LINK_ERR_CNT).toNat + 1) (2 ^ 32 - 1)) := by
  rw [frameLost, rd_fioMod, rd_setBit_ne _ _ _ (by decide), ← BitVec.toNat_inj, rd_bump_toNat, word, BitVec.toNat_ofNat,
    Nat.mod_eq_of_lt (by omega), rd_fioMod]

theorem invalid_frameLost (s : State) : fbit (frameLost s) Reg.FIO_STATUS 0 = false := by
  rw [frameLost, fbit, rd_fioMod, ← fbit, fbit_setBit _ _ _ _ (by decide)]

theorem islandSt_frameLost (s : State) : islandSt (frameLost s) = islandSt s := by
  rw [islandSt, fld, rd_frameLost s (by decide) (by decide), islandSt, fld]

theorem frameLost_fio (s : State) : (frameLost s).fio = { s.fio with up := none, validRaw := none, await := false } := by
  rw [frameLost, fioMod_fio, setBit_fio, bump_fio, fioMod_fio]

theorem uplinkReceive_bad {s : State} (report : DieReport) {up : Uplink} (hu : s.fio.up = some up) : uplinkReceive s report false =
    if islandSt s == 1 then islandFault (frameLost s) 7 else frameLost s := by
  rw [← islandSt_frameLost s]
  unfold uplinkReceive
  rw [hu]
  rfl

theorem localLevel_keeps (s : State) : (localLevel s).fio = s.fio ∧ (localLevel s).regs = s.regs := by
  unfold localLevel
  split <;> exact ⟨rfl, rfl⟩

/-- A change of the die changes the held states at most. -/
theorem heldOver_eq (s : State) (x : Fio) : ∃ n, heldOver s x = { x with hold := n } := by
  unfold heldOver
  split
  · exact ⟨_, rfl⟩
  · exact ⟨x.hold, rfl⟩

/-- The inputs of the die after the ticks up to a downlink frame, with its test pulses. -/
def diePulsed (s : State) (d : Downlink) (samples : List DieSample) : Die :=
  diePulses (dieCfg s) (samples.foldl (dieTick (dieCfg s)) s.fio.ins) d.pulses

/-- The die has taken a valid downlink frame, and answers it (R431, R434). -/
def frameTaken (s : State) (d : Downlink) (samples : List DieSample) : State :=
  fioMod s fun x => { x with
    down := none
    downRaw := s.raw
    up := some (dieAnswer (diePulsed s d samples) (mtime s))
    ins := { diePulsed s d samples with edges := [], failed := 0, passed := 0 } }

/-- What a valid frame commands (R434). -/
def commandTaken (d : Downlink) (x : Fio) : Fio := { x with die := d, tripped := x.tripped && !d.resume, dead := x.dead && !d.resume }

theorem downlinkReceive_eq (s : State) {d : Downlink} (samples : List DieSample) (hd : s.fio.down = some d) :
    downlinkReceive s ⟨true, samples⟩ = dieMod (frameTaken s d samples) (commandTaken d) := by
  unfold downlinkReceive
  dsimp only [fioMod]
  simp only [hd]
  rfl

/-! ### A valid uplink frame that reports no fault -/

theorem newBits_zero (b : Word) : newBits 0 b = [] :=
  List.filter_eq_nil_iff.mpr fun i _ => by simp [wbit, bit]

/-- What a trip of the die's watchdog brings at the control die (R433, R434). -/
def tripNoted (s : State) : State :=
  if s.fio.report then
    event (setBit (fioMod s fun x => { x with report := false, known := true, resume := false }) Reg.FIO_STATUS 2 true) FIO 0
  else if s.fio.tripped then fioMod s fun x => { x with known := true }
  else fioMod s fun x => { x with known := false, resume := false }

section trip
variable (s : State)

theorem tripNoted_fio : (tripNoted s).fio.inputs = s.fio.inputs ∧ (tripNoted s).fio.await = s.fio.await ∧
    (tripNoted s).fio.up = s.fio.up := by
  unfold tripNoted
  split
  · rw [event_fio, setBit_fio, fioMod_fio]
    exact ⟨rfl, rfl, rfl⟩
  · split <;> exact ⟨rfl, rfl, rfl⟩

theorem rd_tripNoted {a : Nat} (hr : reportReg a = false) (ha : a ≠ Reg.FIO_STATUS) : rd (tripNoted s) a = rd s a := by
  unfold tripNoted
  split
  · rw [rd_event _ _ _ _ _ hr, rd_setBit_ne _ _ _ ha, rd_fioMod]
  · split <;> rfl

theorem fbit_tripNoted {i : Nat} (hi : i ≠ 2) : fbit (tripNoted s) Reg.FIO_STATUS i = fbit s Reg.FIO_STATUS i := by
  unfold tripNoted
  split
  · rw [fbit_event _ _ _ _ _ _ (by decide), fbit_setBit_ne _ _ _ _ _ (by decide) hi]
    rfl
  · split <;> rfl

theorem tripNoted_mem : (tripNoted s).mem = s.mem := by
  unfold tripNoted
  split
  · simp
  · split <;> rfl

end trip

/-- What a valid uplink frame measures (R432, R438). -/
def fieldMeasured (s : State) (u : Uplink) (r : DieReport) : State :=
  setBit (setBit (wr (wr (wr (wr s Reg.FIO_IN_RAW u.raw) Reg.FIO_VFIELD (r.vfield.setWidth 32)) Reg.FIO_TEMP
    (r.temp.setWidth 32)) Reg.FIO_OUT_STATE (word (r.readback.toNat + s.fio.applied * 2 ^ 16))) Reg.FIO_STATUS 0 true)
    Reg.FIO_STATUS 1 (!s.fio.tripped)

theorem rd_fieldMeasured (s : State) (u : Uplink) (r : DieReport) {a : Nat}
    (h : a ∉ [Reg.FIO_IN_RAW, Reg.FIO_VFIELD, Reg.FIO_TEMP, Reg.FIO_OUT_STATE, Reg.FIO_STATUS]) : rd (fieldMeasured s u r) a = rd s a := by
  simp only [List.mem_cons, List.not_mem_nil, or_false, not_or] at h
  obtain ⟨hraw, hv, ht, ho, hs⟩ := h
  rw [fieldMeasured, rd_setBit_ne _ _ _ hs, rd_setBit_ne _ _ _ hs, rd_wr_ne _ _ ho, rd_wr_ne _ _ ht, rd_wr_ne _ _ hv, rd_wr_ne _ _ hraw]

section measured
variable (s : State) (u : Uplink) (r : DieReport)

theorem raw_fieldMeasured : rd (fieldMeasured s u r) Reg.FIO_IN_RAW = u.raw := by
  rw [fieldMeasured, rd_setBit_ne _ _ _ (by decide), rd_setBit_ne _ _ _ (by decide), rd_wr_ne _ _ (by decide),
    rd_wr_ne _ _ (by decide), rd_wr_ne _ _ (by decide), rd_wr_same]

theorem vfield_fieldMeasured : rd (fieldMeasured s u r) Reg.FIO_VFIELD = r.vfield.setWidth 32 := by
  rw [fieldMeasured, rd_setBit_ne _ _ _ (by decide), rd_setBit_ne _ _ _ (by decide), rd_wr_ne _ _ (by decide),
    rd_wr_ne _ _ (by decide), rd_wr_same]

theorem temp_fieldMeasured : rd (fieldMeasured s u r) Reg.FIO_TEMP = r.temp.setWidth 32 := by
  rw [fieldMeasured, rd_setBit_ne _ _ _ (by decide), rd_setBit_ne _ _ _ (by decide), rd_wr_ne _ _ (by decide), rd_wr_same]

end measured

/-- The inputs that a valid uplink frame brings, where no test pulse has failed (R432, R438). -/
def inputsTaken (s : State) (u : Uplink) : State :=
  fioMod (wr (wr { s with pwr := { s.pwr with off := s.pwr.off.filter (· != .fio) } } Reg.FIO_IN_WB 0) Reg.FIO_IN_FLT
    (rd s Reg.FIO_IN_FLT)) fun x => { x with
      inputs := u.inputs
      blocked := 0
      await := false
      sampled := u.sampled
      validRaw := match x.validRaw with | none => some s.raw | v => v }

/-- The edges of an uplink frame are noted. -/
def edgesNoted (s : State) (u : Uplink) : State :=
  u.edges.foldl (fun s e =>
    noteAt s (if e.2.1 then 4 else 5) (e.1 % 32) (((u.sampled : Int) - s.cyc.latch) / 65536 - 1000 * e.2.2)) s

theorem noteAt_fio (s : State) (cls index : Nat) (ns : Int) (approx : Bool) : (noteAt s cls index ns approx).fio = s.fio := by
  unfold noteAt
  split <;> rfl

theorem edgesNoted_fio (s : State) (u : Uplink) : (edgesNoted s u).fio = s.fio :=
  foldl_keeps State.fio (fun _ _ => noteAt_fio _ _ _ _ _) _ _

theorem edgesNoted_mem (s : State) (u : Uplink) : (edgesNoted s u).mem = s.mem := foldl_keeps State.mem (fun _ _ => noteAt_mem _ _ _ _ _) _ _

theorem rd_edgesNoted (s : State) (u : Uplink) (a : Nat) : rd (edgesNoted s u) a = rd s a :=
  foldl_keeps (rd · a) (fun s _ => by rw [rd, (noteAt_keeps s _ _ _ _).1, rd]) _ _

theorem uplinkTake_quiet {s : State} {u : Uplink} (r : DieReport) (hb : u.broken = 0) (hf : u.failed = 0)
    (hk : s.fio.blocked = 0) :
    uplinkTake s u r = tripNoted (fieldMeasured (noteReadback (edgesNoted (inputsTaken s u) u) r.readback) u r) := by
  unfold uplinkTake
  extract_lets old power s1 s2 was s3 s4 kept blocked ins s5
  have h2 : s2 = s1 := by
    unfold s2
    rw [hb, newBits_zero]
    rfl
  have hwas : was = rd s Reg.FIO_IN_FLT := by
    unfold was
    rw [h2]
    exact rd_wr_ne _ _ (by decide)
  have h4 : s4 = s3 := by
    unfold s4
    rw [hf, newBits_zero]
    rfl
  have h3 : s3 = wr (wr { s with pwr := { s.pwr with off := s.pwr.off.filter (· != .fio) } } Reg.FIO_IN_WB 0) Reg.FIO_IN_FLT
      (rd s Reg.FIO_IN_FLT) := by
    unfold s3
    rw [hwas, h2, hf, show rd s Reg.FIO_IN_FLT ||| 0 = rd s Reg.FIO_IN_FLT from BitVec.or_zero]
    unfold s1 power
    rw [hb]
  have hblocked : blocked = 0 := by
    unfold blocked kept
    rw [h4, h3, hf, wr_fio, wr_fio, hk]
    simp
  have hins : ins = u.inputs := by
    unfold ins
    rw [hblocked, hb, show ~~~((0 : Word) ||| 0) = BitVec.allOnes 32 by decide]
    exact BitVec.and_allOnes
  have h5 : s5 = inputsTaken s u := by
    unfold s5
    rw [hins, hblocked, h4, h3]
    rfl
  rw [← h5]
  rfl

section link
variable {s : State} (h : Awake s)
include h

section down
variable (hd : ∀ r, s.fio.sentRaw = some r → r + 10000 ≤ s.raw)
include hd

theorem completes_fioDownlinkFrame (ha : s.fio.await = false) : Completes .fioDownlinkFrame s fun t =>
    ∃ d, t.fio = { s.fio with sentRaw := some s.raw, down := some d, await := true } ∧
      d.safe = islandSafe s ∧ d.pulses = s.fio.pulses ∧ d.resume = s.fio.resume ∧ t.mem = s.mem ∧
      ∀ k, k < 16 → bit d.outs k = if safeOutput s k then bit s.fio.safeOn k else bit s.fio.standard k := by
  obtain ⟨u, hu⟩ : ∃ u, sendNoted s = u := ⟨_, rfl⟩
  have hfio : u.fio = { s.fio with sentRaw := some s.raw } := by rw [← hu]; rfl
  have hregs : u.regs = s.regs := by rw [← hu]; rfl
  have hmem : u.mem = s.mem := by rw [← hu]; rfl
  have hrd (a : Nat) : rd u a = rd s a := by rw [rd, hregs, rd]
  have hsend := downlinkSend_eq hd (t := u) (by rw [if_neg (by simp [ha]), hu])
  refine completes_run_eq rfl h hsend ⟨downFrame u, ?_, ?_, ?_, ?_, hmem, fun k hk => ?_⟩
  · simp only [fioMod, hfio]
  · exact islandSafe_congr hregs
  · simp only [downFrame, hfio]
  · simp only [downFrame, hfio]
  · rw [show (downFrame u).outs = downOuts u from rfl, bit_downOuts u hk]
    rw [safeOutput, fbit, hrd, hfio]
    rfl

theorem completes_fioDownlinkFrame_missing (ha : s.fio.await = true) (hi : islandSt s = 1) :
    Completes .fioDownlinkFrame s fun t => islandSt t = 2 ∧ rd t Reg.SAFE_FAULT_CAUSE = 7 ∧
      ∃ d, t.fio.down = some d ∧ d.safe = true := by
  have hrun : islandSt (sendNoted s) = 1 := hi
  obtain ⟨hst, hca⟩ := islandFault_shows (s := sendNoted s) 7 (by omega)
  obtain ⟨u, hu⟩ : ∃ u, islandFault (sendNoted s) 7 = u := ⟨_, rfl⟩
  have hsend := downlinkSend_eq hd (t := u) (by rw [if_pos (by simp [ha, hi]), hu])
  rw [hu] at hst hca
  refine completes_run_eq rfl h hsend ⟨hst, hca, downFrame u, rfl, ?_⟩
  simp [downFrame, islandSafe, hst]

end down

theorem completes_fioDownlinkReceive {d : Downlink} {samples : List DieSample} (hd : s.fio.down = some d) :
    Completes (.fioDownlinkReceive ⟨true, samples⟩) s fun t => t.fio.down = none ∧ t.fio.die = d ∧
      t.fio.downRaw = s.raw ∧ t.fio.tripped = (s.fio.tripped && !d.resume) ∧
      (∃ u, t.fio.up = some u ∧ u.sampled = mtime s) ∧
      (∀ k, k < 16 → bit t.fio.applied k = appliedTo t k) ∧ t.mem = s.mem := by
  obtain ⟨n, o, hm, hn⟩ := dieMod_frame (frameTaken s d samples) (commandTaken d)
  have hheld := heldOver_eq (frameTaken s d samples) (commandTaken d (frameTaken s d samples).fio)
  obtain ⟨hold, hheld⟩ := hheld
  rw [hheld] at hm
  refine completes_quiet_eq rfl h (downlinkReceive_eq s samples hd) ?_
  rw [hm] at hn ⊢
  exact ⟨rfl, rfl, rfl, rfl, ⟨_, rfl, rfl⟩, hn, rfl⟩

theorem completes_fioDownlinkReceive_lost {arrival : DownArrival} (hd : s.fio.down = none ∨ arrival.crcOk = false) :
    Completes (.fioDownlinkReceive arrival) s fun t =>
      t.fio = { s.fio with down := none, ins := arrival.samples.foldl (dieTick (dieCfg s)) s.fio.ins } := by
  refine completes_quiet rfl h ?_
  unfold downlinkReceive
  dsimp only [fioMod]
  cases hs : s.fio.down with
  | none => simp
  | some d =>
    have hc : arrival.crcOk = false := hd.resolve_left (by rw [hs]; exact nofun)
    simp [hc]

theorem completes_fioUplinkFrame {up : Uplink} {report : DieReport} (hu : s.fio.up = some up) (hb : up.broken = 0)
    (hf : up.failed = 0) (hk : s.fio.blocked = 0) : Completes (.fioUplinkFrame report true) s fun t =>
      t.fio.inputs = up.inputs ∧ t.fio.await = false ∧ t.fio.up = none ∧ rd t Reg.FIO_IN_RAW = up.raw ∧ rd t Reg.FIO_IN_WB = 0 ∧
      rd t Reg.FIO_IN_FLT = rd s Reg.FIO_IN_FLT ∧ rd t Reg.FIO_VFIELD = report.vfield.setWidth 32 ∧
      rd t Reg.FIO_TEMP = report.temp.setWidth 32 ∧ fbit t Reg.FIO_STATUS 0 = true ∧
      fbit t Reg.FIO_STATUS 1 = !s.fio.tripped ∧ t.mem = s.mem := by
  obtain ⟨u, hu'⟩ : ∃ u, (fioMod s fun x => { x with up := none }) = u := ⟨_, rfl⟩
  have hfio : u.fio = { s.fio with up := none } := by rw [← hu']; rfl
  have hrd (a : Nat) : rd u a = rd s a := by rw [← hu']; rfl
  have hmem : u.mem = s.mem := by rw [← hu']; rfl
  have hrecv : uplinkReceive s report true = uplinkTake u up report := by
    rw [← hu']
    unfold uplinkReceive
    rw [hu]
    rfl
  obtain ⟨v, hv⟩ : ∃ v, noteReadback (edgesNoted (inputsTaken u up) up) report.readback = v := ⟨_, rfl⟩
  have hvin : v.fio.inputs = up.inputs ∧ v.fio.await = false ∧ v.fio.up = none ∧ v.fio.tripped = s.fio.tripped := by
    rw [← hv, noteReadback, fioMod_fio, edgesNoted_fio, inputsTaken, fioMod_fio, wr_fio, wr_fio]
    dsimp only
    rw [hfio]
    exact ⟨rfl, rfl, rfl, rfl⟩
  have hvwb : rd v Reg.FIO_IN_WB = 0 := by
    rw [← hv, noteReadback, rd_fioMod, rd_edgesNoted, inputsTaken, rd_fioMod, rd_wr_ne _ _ (by decide), rd_wr_same]
  have hvflt : rd v Reg.FIO_IN_FLT = rd s Reg.FIO_IN_FLT := by
    rw [← hv, noteReadback, rd_fioMod, rd_edgesNoted, inputsTaken, rd_fioMod, rd_wr_same, hrd]
  have hvmem : v.mem = s.mem := by
    rw [← hv, noteReadback, fioMod_mem, edgesNoted_mem, inputsTaken, fioMod_mem, wr_mem, wr_mem, hmem]
  obtain ⟨hin, haw, hup, htr⟩ := hvin
  obtain ⟨w, hw⟩ : ∃ w, fieldMeasured v up report = w := ⟨_, rfl⟩
  have hwfio : w.fio = v.fio := by rw [← hw]; rfl
  have hwmem : w.mem = s.mem := by rw [← hw, ← hvmem]; rfl
  obtain ⟨htin, htaw, htup⟩ := tripNoted_fio w
  obtain ⟨hlfio, hlregs⟩ := localLevel_keeps (tripNoted w)
  have hlrd (a : Nat) : rd (localLevel (tripNoted w)) a = rd (tripNoted w) a := by rw [rd, hlregs, rd]
  refine completes_run_eq (t := localLevel (tripNoted w)) rfl h
    (by rw [hrecv, uplinkTake_quiet report hb hf (by rw [hfio]; exact hk), hv, hw]) ⟨?_, ?_, ?_, ?_, ?_, ?_, ?_, ?_, ?_, ?_, ?_⟩
  · dsimp only
    rw [hlfio, htin, hwfio, hin]
  · dsimp only
    rw [hlfio, htaw, hwfio, haw]
  · dsimp only
    rw [hlfio, htup, hwfio, hup]
  · rw [rd_queue, hlrd, rd_tripNoted _ (by decide) (by decide), ← hw, raw_fieldMeasured]
  · rw [rd_queue, hlrd, rd_tripNoted _ (by decide) (by decide), ← hw, rd_fieldMeasured _ _ _ (by decide), hvwb]
  · rw [rd_queue, hlrd, rd_tripNoted _ (by decide) (by decide), ← hw, rd_fieldMeasured _ _ _ (by decide), hvflt]
  · rw [rd_queue, hlrd, rd_tripNoted _ (by decide) (by decide), ← hw, vfield_fieldMeasured]
  · rw [rd_queue, hlrd, rd_tripNoted _ (by decide) (by decide), ← hw, temp_fieldMeasured]
  · rw [fbit_queue, fbit, hlrd, ← fbit, fbit_tripNoted _ (by decide), ← hw, fieldMeasured,
      fbit_setBit_ne _ _ _ _ _ (by decide) (by decide), fbit_setBit _ _ _ _ (by decide)]
  · rw [fbit_queue, fbit, hlrd, ← fbit, fbit_tripNoted _ (by decide), ← hw, fieldMeasured, fbit_setBit _ _ _ _ (by decide), htr]
  · dsimp only
    rw [localLevel_mem, tripNoted_mem, hwmem]

theorem completes_fioUplinkFrame_bad {up : Uplink} {report : DieReport} (hu : s.fio.up = some up) :
    Completes (.fioUplinkFrame report false) s fun t => fbit t Reg.FIO_STATUS 0 = false ∧
      t.fio.validRaw = none ∧ t.fio.up = none ∧
      rd t Reg.FIO_LINK_ERR_CNT = word (min ((rd s Reg.FIO_LINK_ERR_CNT).toNat + 1) (2 ^ 32 - 1)) ∧
      t.fio.inputs = s.fio.inputs ∧ (islandSt s = 1 → islandSt t = 2) := by
  obtain ⟨v, hv⟩ : ∃ v, (if islandSt s == 1 then islandFault (frameLost s) 7 else frameLost s) = v := ⟨_, rfl⟩
  have hvfio : v.fio = { s.fio with up := none, validRaw := none, await := false } := by
    rw [← frameLost_fio, ← hv]
    split
    · exact islandFault_fio _ _
    · rfl
  have hvrd {a : Nat} (ha : islandFaultReg a = false) : rd v a = rd (frameLost s) a := by
    rw [← hv]
    split
    · exact rd_islandFault _ _ ha
    · rfl
  obtain ⟨hlfio, hlregs⟩ := localLevel_keeps v
  have hlrd (a : Nat) : rd (localLevel v) a = rd v a := by rw [rd, hlregs, rd]
  refine completes_run_eq (t := localLevel v) rfl h (by rw [uplinkReceive_bad report hu, hv]) ⟨?_, ?_, ?_, ?_, ?_, fun hrun => ?_⟩
  · rw [fbit_queue, fbit, hlrd, hvrd (by decide), ← fbit, invalid_frameLost]
  · dsimp only
    rw [hlfio, hvfio]
  · dsimp only
    rw [hlfio, hvfio]
  · rw [rd_queue, hlrd, hvrd (by decide), count_frameLost]
  · dsimp only
    rw [hlfio, hvfio]
  · rw [islandSt, fld_queue, fld, hlrd, ← hv, if_pos (by simp [hrun])]
    exact (islandFault_shows 7 (by rw [islandSt_frameLost]; omega)).1

theorem completes_fioLinkTimeout (ht : s.fio.tripped = false) (hl : actF s Reg.FIO_LINK_CFG 12 0 * 10000 < s.raw - s.fio.downRaw) :
    Completes .fioLinkTimeout s fun t => t.fio.tripped = true ∧ t.fio.report = true ∧
      (s.fio.die.safe = false → t.fio.hold = s.fio.applied) ∧
      (∀ k, k < 16 → bit t.fio.applied k = if s.fio.dead then false else safeLevel t k) ∧ t.mem = s.mem := by
  obtain ⟨n, o, hd, hn⟩ := dieMod_frame s fun x => { x with tripped := true, report := true }
  refine completes_quiet_eq rfl h (t := dieMod s fun x => { x with tripped := true, report := true })
    (if_neg (by simp [ht, Nat.not_le.mpr hl])) ⟨?_, ?_, fun hs => ?_, fun k hk => ?_, rfl⟩
  · rw [hd]
    unfold heldOver
    dsimp only
    split <;> rfl
  · rw [hd]
    unfold heldOver
    dsimp only
    split <;> rfl
  · rw [hd]
    simp [heldOver, ht, hs]
  · have happ := hn k hk
    rw [hd] at happ ⊢
    refine happ.trans ?_
    simp only [appliedTo, heldOver]
    split <;> rfl

end link

/-- Settles O40, command by command, and the filter from its samples. -/
theorem fieldLinkCommandsComplete : Obligations.FieldLinkCommandsComplete := by
  unfold Obligations.FieldLinkCommandsComplete
  intro s h
  exact ⟨completes_fioDownlinkFrame h, completes_fioDownlinkFrame_missing h, fun _ _ => completes_fioDownlinkReceive h,
    fun _ => completes_fioDownlinkReceive_lost h, fun _ _ => completes_fioUplinkFrame h, fun _ _ => completes_fioUplinkFrame_bad h,
    completes_fioLinkTimeout h, fun x n _ _ => cls_of_replicate x n, fun x n ks k hx => samples_of_change x n hx ks k⟩

end Sys2Proof.Machine

/-! ## Power: leaves and the maintenance token complete (R470-R475) -/

namespace Sys2Proof.Machine

/-! ### Grants of leave -/

/-- The state in which a request has been granted, before the longest waits are kept (R472). -/
def leaveGranted (s : State) (rail : Nat) (q : Leave) : State :=
  showLeave { s with pwr := { s.pwr with
    queue := s.pwr.queue.erase q
    granted := s.pwr.granted ++ [{ q with raw := s.raw }]
    lastWake := if q.cls ≤ 2 then tput (fun _ => 0) s.pwr.lastWake rail s.raw else s.pwr.lastWake } } rail

theorem leaveGrant_fits {s : State} {rail : Nat} {q : Leave} (hq : nextLeave s rail = some q) (hf : leaveFits s q = true) :
    leaveGrant s rail = if q.cls ≤ 2 then longest (leaveGranted s rail q) Reg.FPM_WAKE_WAIT_MAX (s.raw - q.raw)
      else longest (leaveGranted s rail q) Reg.FPM_LEAVE_WAIT_MAX ((s.raw - q.raw) / 1000) := by
  unfold leaveGrant
  rw [hq]
  exact if_neg (by rw [hf]; decide)

theorem leaveGrant_waits {s : State} {rail : Nat} {q : Leave} (hq : nextLeave s rail = some q) (hf : leaveFits s q = false) :
    leaveGrant s rail = s := by
  unfold leaveGrant
  rw [hq]
  exact if_pos (by rw [hf]; rfl)

/-- The request served next is one of its rail. -/
theorem rail_of_nextLeave {s : State} {rail : Nat} {q : Leave} (hq : nextLeave s rail = some q) : q.rail = rail := by
  have hmem : q ∈ s.pwr.queue.filter fun q => q.rail == rail := by
    unfold nextLeave at hq
    rw [Option.or_eq_some_iff, Option.or_eq_some_iff] at hq
    rcases hq with (h1 | ⟨-, h2⟩) | ⟨-, h3⟩
    · exact List.mem_of_find?_eq_some h1
    · exact List.mem_of_find?_eq_some h2
    · exact List.mem_of_head? h3
  simpa using (List.mem_filter.mp hmem).2

theorem railGrant_granted (s : State) {rail : Nat} {q : Leave} (hr : q.rail = rail) :
    railGrant (leaveGranted s rail q) rail = railGrant s rail + q.current := by
  simp [railGrant, leaveGranted, showLeave, hr]

theorem longest_keeps {β : Type} (g : State → β) {a : Nat} (h : ∀ s v, g (wr s a v) = g s) (s : State) (n : Nat) :
    g (longest s a n) = g s := by
  unfold longest
  split
  · exact h _ _
  · rfl

/-- What the writes of the two longest waits leave, a grant leaves as it has been shown. -/
theorem leaveGrant_keeps {β : Type} (g : State → β) (hw : ∀ s v, g (wr s Reg.FPM_WAKE_WAIT_MAX v) = g s)
    (hl : ∀ s v, g (wr s Reg.FPM_LEAVE_WAIT_MAX v) = g s) {s : State} {rail : Nat} {q : Leave} (hq : nextLeave s rail = some q)
    (hf : leaveFits s q = true) : g (leaveGrant s rail) = g (leaveGranted s rail q) := by
  rw [leaveGrant_fits hq hf]
  split
  · exact longest_keeps g hw _ _
  · exact longest_keeps g hl _ _

/-- Dumps that do not go on change nothing. -/
theorem dumps_idle {s : State} (h : ∀ i, i < 4 → (spool s i).dump = none) : dumps s = s := by
  have hpart (i : Nat) (hi : i < 4) : dumpPart s i = s := by
    unfold dumpPart
    dsimp only
    rw [h i hi]
  rw [dumps, List.foldl_cons, List.foldl_cons, List.foldl_cons, List.foldl_cons, List.foldl_nil, hpart 0 (by decide),
    hpart 1 (by decide), hpart 2 (by decide), hpart 3 (by decide)]

/-! ### The maintenance token -/

theorem hostWrite_maintReq {s : State} {port : Port} {v : Word} (h : Reaches s port Reg.FPM_MAINT_REQ v) :
    hostWrite s port Reg.FPM_MAINT_REQ v = landMaintReq s v :=
  (write_reach h (i := 0) (j := 0) rfl (by decide) (by decide)).trans rfl

theorem wbits_word_act {act : Nat} (h : act < 9) (k : Nat) (hk : k < 2) : wbits (word (act + k * 256)) 3 0 = act := by
  rw [wbits_word (by omega)]
  omega

theorem landMaintReq_request (s : State) {act : Nat} (h : act < 9) : landMaintReq s (word act) = okBus (maintReq s act).2 := by
  have hact := wbits_word_act h 0 (by decide)
  rw [Nat.zero_mul, Nat.add_zero] at hact
  have hbit : wbit (word act) 8 = false := by
    rw [wbit_word _ (by decide), bit, Nat.div_eq_of_lt (by omega)]
    rfl
  rw [landMaintReq, hact, hbit]
  rfl

theorem landMaintReq_release (s : State) {act : Nat} (h : act < 9) : landMaintReq s (word (act + 256)) = okBus (maintRel s act) := by
  have hact := wbits_word_act h 1 (by decide)
  rw [Nat.one_mul] at hact
  have hbit : wbit (word (act + 256)) 8 = true := by
    rw [wbit_word _ (by decide), bit, beq_iff_eq]
    omega
  rw [landMaintReq, hact, hbit]
  rfl

theorem rd_maintHeld_ne (s : State) (act : Nat) {a : Nat} (h : a ≠ Reg.FPM_MAINT_STATUS) : rd (maintHeld s act) a = rd s a := by
  rw [maintHeld, rd_setF_ne _ _ _ _ h, rd_setBit_ne _ _ _ h, rd_setF_ne _ _ _ _ h]

theorem maintHeld_result (s : State) (act : Nat) : fld (maintHeld s act) Reg.FPM_MAINT_STATUS 22 20 = 1 :=
  fld_setF _ _ _ _ _ (by decide) (by decide)

theorem maintHeld_activity (s : State) {act : Nat} (h : act < 9) : fld (maintHeld s act) Reg.FPM_MAINT_STATUS 19 16 = act := by
  rw [maintHeld, fld_setF_ne _ _ _ _ _ _ _ (by decide) (by decide) (by decide),
    fld_setBit_ne _ _ _ _ _ _ (by omega) (by omega), fld_setF _ _ _ _ _ (by decide) (by decide)]
  omega

/-- Who holds the token is what the low bits of its status show. -/
theorem holders_eq_of_bits {s t : State} (h : ∀ i, i < 9 → fbit t Reg.FPM_MAINT_STATUS i = fbit s Reg.FPM_MAINT_STATUS i) :
    holders t = holders s :=
  List.filter_congr fun i hi => h i (List.mem_range.mp hi)

/-- The state in which a request for the token is refused (R475). -/
def maintRefused (s : State) (act : Nat) : State :=
  event (setF (setF s Reg.FPM_MAINT_STATUS 19 16 act) Reg.FPM_MAINT_STATUS 22 20 3) FPM 5 act

theorem maintReq_refused {s : State} {act : Nat} (busy : (holders s).all (compat act) = false) :
    maintReq s act = (false, maintRefused s act) := by
  unfold maintReq
  extract_lets hs t
  rw [if_neg (by simp only [Bool.and_eq_true, not_and]; exact fun _ => by rw [show hs = holders s from rfl]; simpa using busy)]
  rfl

theorem holders_maintRefused (s : State) (act : Nat) : holders (maintRefused s act) = holders s :=
  holders_eq_of_bits fun i hi => by
    rw [maintRefused, fbit_event _ _ _ _ _ _ (by decide), fbit_setF_ne _ _ _ _ _ _ (by decide) (by decide) (by omega),
      fbit_setF_ne _ _ _ _ _ _ (by decide) (by decide) (by omega)]

theorem maintRefused_shows (s : State) {act : Nat} (h : act < 9) : fld (maintRefused s act) Reg.FPM_MAINT_STATUS 22 20 = 3 ∧
    fld (maintRefused s act) Reg.FPM_MAINT_STATUS 19 16 = act := by
  rw [maintRefused, fld_event _ _ _ _ _ _ _ (by decide), fld_event _ _ _ _ _ _ _ (by decide),
    fld_setF _ _ _ _ _ (by decide) (by decide), fld_setF_ne _ _ _ _ _ _ _ (by decide) (by decide) (by decide),
    fld_setF _ _ _ _ _ (by decide) (by decide)]
  omega

theorem maintRel_listed (s : State) {act : Nat} (h : act < 9) : maintRel s act =
    setF (setF (setBit s Reg.FPM_MAINT_STATUS act false) Reg.FPM_MAINT_STATUS 19 16 act) Reg.FPM_MAINT_STATUS 22 20 2 := if_pos h

theorem fbit_maintRel (s : State) {act : Nat} (h : act < 9) {i : Nat} (hi : i < 9) : fbit (maintRel s act) Reg.FPM_MAINT_STATUS i =
    (i != act && fbit s Reg.FPM_MAINT_STATUS i) := by
  rw [maintRel_listed s h, fbit_setF_ne _ _ _ _ _ _ (by decide) (by decide) (by omega),
    fbit_setF_ne _ _ _ _ _ _ (by decide) (by decide) (by omega)]
  by_cases he : i = act
  · subst he
    rw [fbit_setBit _ _ _ _ (by omega)]
    simp
  · rw [fbit_setBit_ne _ _ _ _ _ (by omega) he, show (i != act) = true by simpa using he, Bool.true_and]

theorem holders_maintRel (s : State) {act : Nat} (h : act < 9) : holders (maintRel s act) = (holders s).filter (· != act) := by
  rw [holders, holders, List.filter_filter]
  exact List.filter_congr fun i hi => fbit_maintRel s h (List.mem_range.mp hi)

theorem maintRel_shows (s : State) {act : Nat} (h : act < 9) : fld (maintRel s act) Reg.FPM_MAINT_STATUS 22 20 = 2 ∧
    fld (maintRel s act) Reg.FPM_MAINT_STATUS 19 16 = act := by
  rw [maintRel_listed s h, fld_setF _ _ _ _ _ (by decide) (by decide),
    fld_setF_ne _ _ _ _ _ _ _ (by decide) (by decide) (by decide), fld_setF _ _ _ _ _ (by decide) (by decide)]
  omega

@[simp] theorem maintRel_acq (s : State) (act : Nat) : (maintRel s act).acq = s.acq := by
  unfold maintRel
  split
  · rw [setF_acq, setF_acq, setBit_acq]
  · rfl

theorem rd_maintRel_ne (s : State) (act : Nat) {a : Nat} (h : a ≠ Reg.FPM_MAINT_STATUS) : rd (maintRel s act) a = rd s a := by
  unfold maintRel
  split
  · rw [rd_setF_ne _ _ _ _ h, rd_setF_ne _ _ _ _ h, rd_setBit_ne _ _ _ h]
  · rfl

/-! ### A dump under its leave (R339) -/

/-- The last part of a dump under a leave: the record stands in archive memory, leave and token are given back. -/
def dumpEnded (s : State) (i a dst n : Nat) : State :=
  ctrlRes (maintRel (setSpool (leaveEnd (writeMem s .arch dst (readMem s .bolt a n)) (dumpRequester i) false) i
    { spool (leaveEnd (writeMem s .arch dst (readMem s .bolt a n)) (dumpRequester i) false) i with dump := none }) 7) i 1

theorem dumpPart_ends {s : State} {i a dst n : Nat} (hd : (spool s i).dump = some (a, dst, n)) (hn : n ≤ leaveBytes)
    (hl : hasLeave s (dumpRequester i) = true) (hp : s.pwr.off.contains .mem = false) : dumpPart s i = dumpEnded s i a dst n := by
  unfold dumpPart
  dsimp only
  rw [hd]
  dsimp only
  rw [if_neg (by simp only [hl, hp]; decide), Nat.min_eq_left hn, if_pos (Nat.le_refl n)]
  rfl

theorem dumpPart_none {s : State} {i : Nat} (hd : (spool s i).dump = none) : dumpPart s i = s := by
  unfold dumpPart
  dsimp only
  rw [hd]

/-- Once its dump has ended a spool has none, and the other spools are as they were. -/
theorem spool_dumpEnded (s : State) (i a dst n : Nat) : (spool (dumpEnded s i a dst n) i).dump = none ∧
    ∀ j, j ≠ i → spool (dumpEnded s i a dst n) j = spool s j := by
  have hacq : (leaveEnd (writeMem s .arch dst (readMem s .bolt a n)) (dumpRequester i) false).acq = s.acq := by
    unfold leaveEnd
    split <;> rfl
  rw [dumpEnded, spool_ctrlRes, spool_congr (maintRel_acq _ _), spool_setSpool_same]
  refine ⟨rfl, fun j hj => ?_⟩
  rw [spool_ctrlRes, spool_congr (maintRel_acq _ _), spool_setSpool_ne _ _ hj, spool_congr hacq]

theorem dumpEnded_mem (s : State) (i a dst n : Nat) :
    (dumpEnded s i a dst n).mem = s.mem.writes .arch dst (readMem s .bolt a n) := by
  have hmem : (leaveEnd (writeMem s .arch dst (readMem s .bolt a n)) (dumpRequester i) false).mem =
      s.mem.writes .arch dst (readMem s .bolt a n) := by
    unfold leaveEnd
    split <;> rfl
  rw [dumpEnded, ctrlRes, setF_mem, maintRel_mem, setSpool_mem, hmem]

theorem token_dumpEnded (s : State) (i a dst n : Nat) : fbit (dumpEnded s i a dst n) Reg.FPM_MAINT_STATUS 7 = false := by
  have hne : Reg.FPM_MAINT_STATUS ≠ Reg.ACQ_SP_STATE i := by rw [Reg.FPM_MAINT_STATUS, Reg.ACQ_SP_STATE]; omega
  rw [dumpEnded, fbit, ctrlRes, rd_setF_ne _ _ _ _ hne, ← fbit, fbit_maintRel _ (by decide) (by decide)]
  rfl

theorem length_reads (m : Mem) (r : Region) (a n : Nat) : (m.reads r a n).length = n := by
  induction n generalizing a with
  | zero => rfl
  | succ n ih => rw [Mem.reads, List.length_cons, ih]

/-- Among the four spools one that alone has a dump is the only one that goes on. -/
theorem dumps_one {s : State} (i : Fin 4) {a dst n : Nat} (hd : (spool s i).dump = some (a, dst, n)) (hn : n ≤ leaveBytes)
    (hl : hasLeave s (dumpRequester i) = true) (hp : s.pwr.off.contains .mem = false)
    (ho : ∀ j, j < 4 → j ≠ i.val → (spool s j).dump = none) : dumps s = dumpEnded s i a dst n := by
  obtain ⟨hnone, hsame⟩ := spool_dumpEnded s i a dst n
  have hpart := dumpPart_ends hd hn hl hp
  have hbefore (j : Nat) (hj : j < 4) (hne : j ≠ i.val) : dumpPart s j = s := dumpPart_none (ho j hj hne)
  have hafter (j : Nat) (hj : j < 4) (hne : j ≠ i.val) : dumpPart (dumpEnded s i a dst n) j = dumpEnded s i a dst n :=
    dumpPart_none (by rw [hsame j hne]; exact ho j hj hne)
  have hfold (l : List Nat) (hl : ∀ j ∈ l, j < 4) (hni : i.val ∉ l) (t : State)
      (ht : ∀ j, j < 4 → j ≠ i.val → dumpPart t j = t) : l.foldl dumpPart t = t := by
    induction l with
    | nil => rfl
    | cons j l ih =>
      simp only [List.mem_cons, not_or] at hni
      rw [List.foldl_cons, ht j (hl j List.mem_cons_self) (fun e => hni.1 e.symm)]
      exact ih (fun k hk => hl k (List.mem_cons_of_mem _ hk)) hni.2
  obtain ⟨l, r, he⟩ := List.append_of_mem (List.mem_range.mpr i.isLt)
  have hnodup : (l ++ i.val :: r).Nodup := he ▸ List.nodup_range
  have hlt (j : Nat) (hj : j ∈ l ++ i.val :: r) : j < 4 := List.mem_range.mp (he ▸ hj)
  obtain ⟨-, hr, hlr⟩ := List.nodup_append.mp hnodup
  have hil : i.val ∉ l := fun hm => hlr _ hm _ List.mem_cons_self rfl
  have hir : i.val ∉ r := (List.nodup_cons.mp hr).1
  rw [dumps, show [0, 1, 2, 3] = List.range 4 from rfl, he, List.foldl_append, List.foldl_cons,
    hfold l (fun j hj => hlt j (List.mem_append_left _ hj)) hil s hbefore, hpart,
    hfold r (fun j hj => hlt j (List.mem_append_right _ (List.mem_cons_of_mem _ hj))) hir _ hafter]

/-! ### The commands -/

section power
variable {s : State} (h : Awake s)
include h

theorem completes_leaveRequest {requester : Byte} {cls : BitVec 4} {rail : Fin 5} {current duration : Half} (h1 : 1 ≤ cls.toNat)
    (h8 : cls.toNat ≤ 8) (hq : (s.pwr.queue.any fun x => x.requester == requester.toNat) = false) :
    Completes (.leaveRequest requester cls rail current duration) s fun t =>
      t.pwr = { s.pwr with queue := s.pwr.queue ++
        [⟨requester.toNat, cls.toNat, rail, current.toNat, min duration.toNat 1000, s.raw⟩] } ∧
      rd t Reg.FPM_LEAVE_QLEN = word (s.pwr.queue.length + 1) := by
  refine completes_quiet_eq rfl h (t := showLeave { s with pwr := { s.pwr with queue := s.pwr.queue ++
    [⟨requester.toNat, cls.toNat, rail, current.toNat, min duration.toNat 1000, s.raw⟩] } } rail) (if_neg ?_) ⟨rfl, ?_⟩
  · simp only [hq, Bool.or_false, Bool.or_eq_true, beq_iff_eq, decide_eq_true_eq]
    omega
  · rw [rd_frame, showLeave, rd_wr_same]
    simp

theorem exec_leaveRequest_illFormed {requester : Byte} {cls : BitVec 4} {rail : Fin 5} {current duration : Half}
    (hc : cls.toNat = 0 ∨ 8 < cls.toNat) : exec (.leaveRequest requester cls rail current duration) s = .next s := by
  refine exec_quiet rfl h (t := s) (if_pos ?_) rfl rfl rfl
  rcases hc with hc | hc <;> simp [hc]

section grant
variable {rail : Fin 5} {q : Leave} (hq : nextLeave s rail = some q)
include hq

theorem completes_leaveGrant (hf : leaveFits s q = true) (hd : ∀ i, i < 4 → (spool s i).dump = none) :
    Completes (.leaveGrant rail) s fun t => t.pwr.queue = s.pwr.queue.erase q ∧
      t.pwr.granted = s.pwr.granted ++ [{ q with raw := s.raw }] ∧
      rd t (Reg.FPM_RAIL_GRANT rail) = word (railGrant s rail + q.current) := by
  have hacq : (leaveGrant s rail).acq = s.acq := leaveGrant_keeps State.acq (fun _ _ => rfl) (fun _ _ => rfl) hq hf
  have hpwr := leaveGrant_keeps State.pwr (fun _ _ => rfl) (fun _ _ => rfl) hq hf
  have hidle : dumps (leaveGrant s rail) = leaveGrant s rail := dumps_idle fun i hi => by rw [spool_congr hacq, hd i hi]
  have hne : Reg.FPM_RAIL_GRANT rail ≠ Reg.FPM_LEAVE_QLEN ∧ Reg.FPM_RAIL_GRANT rail ≠ Reg.FPM_LEAVE_WAIT_MAX ∧
      Reg.FPM_RAIL_GRANT rail ≠ Reg.FPM_WAKE_WAIT_MAX := by
    simp only [Reg.FPM_RAIL_GRANT, Reg.FPM_LEAVE_QLEN, Reg.FPM_LEAVE_WAIT_MAX, Reg.FPM_WAKE_WAIT_MAX]
    omega
  obtain ⟨hqlen, hleave, hwake⟩ := hne
  refine completes_run_eq rfl h hidle ⟨?_, ?_, ?_⟩
  · dsimp only
    rw [hpwr]
    rfl
  · dsimp only
    rw [hpwr]
    rfl
  · rw [rd_queue, leaveGrant_keeps (rd · (Reg.FPM_RAIL_GRANT rail)) (fun _ _ => rd_wr_ne _ _ hwake) (fun _ _ => rd_wr_ne _ _ hleave)
      hq hf, ← railGrant_granted s (rail_of_nextLeave hq)]
    exact (rd_wr_ne _ _ hqlen).trans (rd_wr_same _ _ _)

theorem completes_leaveGrant_dump {i : Fin 4} {a dst n : Nat} (hf : leaveFits s q = true) (hr : q.requester = dumpRequester i)
    (hd : (spool s i).dump = some (a, dst, n)) (hn : n ≤ leaveBytes) (hp : s.pwr.off.contains .mem = false)
    (ho : ∀ j, j < 4 → j ≠ i.val → (spool s j).dump = none) : Completes (.leaveGrant rail) s fun t =>
      (spool t i).dump = none ∧ readMem t .arch dst n = readMem s .bolt a n ∧ fld t (Reg.ACQ_SP_STATE i) 19 16 = 1 ∧
      fbit t Reg.FPM_MAINT_STATUS 7 = false ∧
      ∀ r x, r ≠ .arch ∨ x < dst ∨ dst + n ≤ x → t.mem.read r x = s.mem.read r x := by
  have hacq : (leaveGrant s rail).acq = s.acq := leaveGrant_keeps State.acq (fun _ _ => rfl) (fun _ _ => rfl) hq hf
  have hmem : (leaveGrant s rail).mem = s.mem := leaveGrant_keeps State.mem (fun _ _ => rfl) (fun _ _ => rfl) hq hf
  have hpwr := leaveGrant_keeps State.pwr (fun _ _ => rfl) (fun _ _ => rfl) hq hf
  have hlen := length_reads s.mem .bolt a n
  have hleave : hasLeave (leaveGrant s rail) (dumpRequester i) = true := by
    rw [hasLeave, hpwr]
    simp [leaveGranted, showLeave, hr]
  have hend := dumps_one i (s := leaveGrant s rail) (by rw [spool_congr hacq, hd]) hn hleave (by rw [hpwr]; exact hp)
    (fun j hj hne => by rw [spool_congr hacq, ho j hj hne])
  have hstored : (dumpEnded (leaveGrant s rail) i a dst n).mem = s.mem.writes .arch dst (readMem s .bolt a n) := by
    rw [dumpEnded_mem, readMem, hmem, readMem]
  refine completes_run_eq rfl h hend ⟨?_, ?_, ?_, ?_, fun r x hx => ?_⟩
  · rw [spool_queue]
    exact (spool_dumpEnded _ _ _ _ _).1
  · have hread := reads_writes s.mem .arch dst (readMem s .bolt a n)
    rw [readMem, hlen] at hread
    rw [readMem]
    dsimp only
    rw [hstored, readMem, hread]
  · rw [fld_queue]
    exact fld_ctrlRes _ _ (by decide)
  · rw [fbit_queue]
    exact token_dumpEnded _ _ _ _ _
  · dsimp only
    rw [hstored]
    exact read_writes_out _ _ _ _ _ _ (by rw [readMem, hlen]; exact hx)

theorem exec_leaveGrant_waits (hf : leaveFits s q = false) (hd : ∀ i, i < 4 → (spool s i).dump = none) :
    exec (.leaveGrant rail) s = .next s :=
  exec_run (f := awake fun s => dumps (leaveGrant s rail)) rfl (by rw [awake_eq h, leaveGrant_waits hq hf, dumps_idle hd]) rfl

end grant

theorem completes_leaveEnd {requester : Byte} {g : Leave} (hg : (s.pwr.granted.find? fun g => g.requester == requester.toNat) = some g)
    (hr : g.rail < 5) (ht : g.duration * 1000 ≤ s.raw - g.raw) : Completes (.leaveEnd requester false) s fun t =>
      t.pwr = { s.pwr with granted := s.pwr.granted.erase g } ∧ t.flt = s.flt ∧
      rd t (Reg.FPM_RAIL_GRANT g.rail) = word (railGrant t g.rail) := by
  have hne : Reg.FPM_RAIL_GRANT g.rail ≠ Reg.FPM_LEAVE_QLEN := by simp only [Reg.FPM_RAIL_GRANT, Reg.FPM_LEAVE_QLEN]; omega
  refine completes_quiet_eq rfl h
    (t := showLeave { s with pwr := { s.pwr with granted := s.pwr.granted.erase g } } g.rail) ?_ ⟨rfl, rfl, ?_⟩
  · unfold leaveExpiry leaveEnd
    rw [hg]
    exact if_pos ht
  · exact (rd_wr_ne _ _ hne).trans (rd_wr_same _ _ _)

end power

section token
variable {s : State} {port : Port} {act : BitVec 4} (ha : act.toNat < 9)
include ha

theorem completes_maintRequest_granted (hr : Reaches s port Reg.FPM_MAINT_REQ (word act.toNat))
    (hc : ∀ h ∈ holders s, compat act.toNat h = true) : Completes (.maintRequest port act) s fun t =>
      fbit t Reg.FPM_MAINT_STATUS act.toNat = true ∧ fld t Reg.FPM_MAINT_STATUS 22 20 = 1 ∧
      fld t Reg.FPM_MAINT_STATUS 19 16 = act.toNat ∧ ∀ a, a ≠ Reg.FPM_MAINT_STATUS → rd t a = rd s a := by
  have hland : hostWrite s port Reg.FPM_MAINT_REQ (word act.toNat) = okBus (maintHeld s act.toNat) := by
    rw [hostWrite_maintReq hr, landMaintReq_request s ha, maintReq_granted ha (List.all_eq_true.mpr hc)]
  refine completes_port_eq (f := fun s => hostWrite s port Reg.FPM_MAINT_REQ (word act.toNat)) rfl hland
    ⟨?_, ?_, ?_, fun a hne => ?_⟩
  · rw [fbit_frame, fbit, rd_okBus, ← fbit, fbit_maintHeld s ha]
  · rw [fld_frame, fld_okBus, maintHeld_result]
  · rw [fld_frame, fld_okBus, maintHeld_activity s ha]
  · rw [rd_frame, rd_okBus, rd_maintHeld_ne s _ hne]

theorem completes_maintRequest_refused (hr : Reaches s port Reg.FPM_MAINT_REQ (word act.toNat))
    (hc : ∃ h ∈ holders s, compat act.toNat h = false) : Completes (.maintRequest port act) s fun t =>
      holders t = holders s ∧ fld t Reg.FPM_MAINT_STATUS 22 20 = 3 ∧ fld t Reg.FPM_MAINT_STATUS 19 16 = act.toNat := by
  have hland : hostWrite s port Reg.FPM_MAINT_REQ (word act.toNat) = okBus (maintRefused s act.toNat) := by
    rw [hostWrite_maintReq hr, landMaintReq_request s ha, maintReq_refused (List.all_eq_false.mpr (by simpa using hc))]
  refine completes_port_eq (f := fun s => hostWrite s port Reg.FPM_MAINT_REQ (word act.toNat)) rfl hland ⟨?_, ?_, ?_⟩
  · exact holders_maintRefused s _
  · rw [fld_frame, fld_okBus]
    exact (maintRefused_shows s ha).1
  · rw [fld_frame, fld_okBus]
    exact (maintRefused_shows s ha).2

theorem completes_maintRelease (hr : Reaches s port Reg.FPM_MAINT_REQ (word (act.toNat + 256))) :
    Completes (.maintRelease port act) s fun t => holders t = (holders s).filter (· != act.toNat) ∧
      fld t Reg.FPM_MAINT_STATUS 22 20 = 2 ∧ fld t Reg.FPM_MAINT_STATUS 19 16 = act.toNat ∧ t.bus.err = false := by
  have hland : hostWrite s port Reg.FPM_MAINT_REQ (word (act.toNat + 256)) = okBus (maintRel s act.toNat) := by
    rw [hostWrite_maintReq hr, landMaintReq_release s ha]
  refine completes_port_eq (f := fun s => hostWrite s port Reg.FPM_MAINT_REQ (word (act.toNat + 256))) rfl hland ⟨?_, ?_, ?_, rfl⟩
  · exact holders_maintRel s ha
  · rw [fld_frame, fld_okBus]
    exact (maintRel_shows s ha).1
  · rw [fld_frame, fld_okBus]
    exact (maintRel_shows s ha).2

end token

/-- Settles O44, command by command. -/
theorem powerCommandsComplete : Obligations.PowerCommandsComplete := by
  unfold Obligations.PowerCommandsComplete
  intro s h
  exact ⟨fun _ _ _ _ _ => completes_leaveRequest h, fun _ _ _ _ _ => exec_leaveRequest_illFormed h,
    fun _ _ => completes_leaveGrant h, fun _ _ _ _ _ _ hq hf => completes_leaveGrant_dump h hq hf, fun _ _ => exec_leaveGrant_waits h,
    fun _ _ => completes_leaveEnd h, fun _ _ => completes_maintRequest_granted, fun _ _ => completes_maintRequest_refused,
    fun _ _ => completes_maintRelease⟩

end Sys2Proof.Machine

/-! ## The escalation ladder and block resets (R456-R463) -/

namespace Sys2Proof.Machine

/-! ### What block resets, disabled cells and reports leave of the ladder's records -/

/-- What the ladder holds of cells and blocks: cells out of service, block resets in progress and those deferred. -/
def outages (s : State) : List (Nat × Nat) × List Nat × List Nat := (s.flt.cellsOff, s.flt.resetting, s.flt.deferred)

section outages
variable (s : State)

theorem outages_congr {s t : State} (h : t.flt = s.flt) : outages t = outages s := by rw [outages, h, outages]

theorem outages_ite {c : Prop} [Decidable c] {s t u : State} (ht : outages t = outages s) (hu : outages u = outages s) :
    outages (if c then t else u) = outages s := by
  split <;> assumption

theorem outages_only {s t : State} (h : OnlyReports s t) : outages t = outages s := by
  rw [outages, h.flt, outages]

@[simp] theorem outages_event (b e o d : Nat) : outages (event s b e o d) = outages s := outages_only (only_event _ _ _ _ _)
@[simp] theorem outages_raise (e : Event) : outages (raise s e) = outages s := outages_only (only_raiseN _ _ _)
@[simp] theorem outages_regionStop : outages (regionStop s) = outages s := outages_only (only_regionStop _)
@[simp] theorem outages_showRung (b r : Nat) : outages (showRung s b r) = outages s := outages_only (only_showRung _ _ _)

@[simp] theorem outages_showFbc : outages (showFbc s) = outages s := by
  obtain ⟨d, o, w, e⟩ := showFbc_frame s
  rw [e]
  rfl

@[simp] theorem outages_landCoreCtrl (c : Nat) (v : Word) : outages (landCoreCtrl s c v) = outages s :=
  outages_ite (outages_ite rfl rfl) rfl

@[simp] theorem outages_encFault (c : Nat) (l : Bool) : outages (encFault s c l) = outages s := by
  rw [encFault, outages_showFbc]
  exact outages_ite rfl rfl

@[simp] theorem outages_cmpOff (k : Nat) : outages (cmpOff s k) = outages s := by
  rw [cmpOff, outages_showFbc]
  rfl

theorem outages_setF (a hi lo v : Nat) : outages (setF s a hi lo v) = outages s := outages_congr (setF_flt s a hi lo v)
theorem outages_setBit (a i : Nat) (b : Bool) : outages (setBit s a i b) = outages s := outages_congr (setBit_flt s a i b)
theorem outages_ctrlRes (i r : Nat) : outages (ctrlRes s i r) = outages s := outages_setF _ _ _ _ _
theorem outages_cmdDone (r : Nat) : outages (cmdDone s r) = outages s := (outages_setBit _ _ _ _).trans (outages_setF _ _ _ _ _)

@[simp] theorem outages_spoolStop (i : Nat) : outages (spoolStop s i) = outages s :=
  outages_ite (outages_ctrlRes _ _ _) (outages_ctrlRes _ _ _)

@[simp] theorem outages_applyOutputs : outages (applyOutputs s) = outages s := by
  obtain ⟨n, o, h, -⟩ := applyOutputs_frame s
  rw [h]
  rfl

/-- What a disabled cell does in its block leaves the ladder's records (R459). -/
theorem outages_cellDisable (blk k : Nat) :
    outages (cellDisable s blk k) = outages (if cellOff s blk k then s else fltMod s fun f => { f with cellsOff := (blk, k) :: f.cellsOff }) := by
  unfold cellDisable
  extract_lets t
  split
  · exact foldl_keeps outages (f := fun s a => request s (.disable a)) (fun _ _ => rfl) _ _
  · exact outages_landCoreCtrl t k 0
  · exact outages_ite (outages_encFault _ _ _) (outages_cmpOff _ _)
  · exact outages_ite (outages_spoolStop _ _) rfl
  · rfl
  · exact outages_applyOutputs t
  · rfl

theorem outages_maintRel (a : Nat) : outages (maintRel s a) = outages s :=
  outages_ite ((outages_setF _ _ _ _ _).trans ((outages_setF _ _ _ _ _).trans (outages_setBit _ _ _ _))) rfl

theorem outages_putSpool (i : Nat) (x : Spool) : outages (putSpool s i x) = outages s := by
  rw [putSpool, showSpool, outages_setBit, outages_setBit, outages_setBit, outages_setBit, outages_setF]
  rfl

theorem outages_svcEnd (i r : Nat) (d : List Byte) : outages (svcEnd s i r d) = outages s := by
  unfold svcEnd
  split
  · rfl
  · extract_lets t
    split
    · exact outages_ite rfl (outages_ite rfl rfl)
    · rfl
    · rfl

theorem outages_svcReset : outages (svcReset s) = outages s :=
  foldl_keeps outages (f := fun s i => if (slot s i).req.isSome then setSlot (svcEnd s i 0x100 []) i { idle := true } else s)
    (fun s i => outages_ite (outages_svcEnd s i _ _) rfl) _ _

theorem outages_groupEnd (g : Nat) : outages (groupEnd s g) = outages s := by
  unfold groupEnd
  extract_lets G t u
  have hu : outages u = outages s := foldl_keeps outages
    (f := fun s a => if (axis s a).mode == 5 then
      axMod s a fun x => { x with mode := 1, plan := [], sp2 := restAt x.sp2.pos, planEnd := x.sp2.pos } else s)
    (fun _ _ => outages_ite rfl rfl) _ _
  exact outages_ite ((outages_event _ _ _ _ _).trans hu) hu

theorem outages_releaseLocks (id : Nat) : outages (releaseLocks s id) = outages s :=
  foldl_keeps outages (f := fun s k => if lockOwner s k == id then event (setLock s k 0) MBX 3 k id else s)
    (fun _ _ => outages_ite (outages_event _ _ _ _ _) rfl) _ _

theorem outages_time (x : Timekeeping) : outages { s with time := x } = outages s := rfl
theorem outages_prof (x : Prof) : outages { s with prof := x } = outages s := rfl
theorem outages_loop (x : Loop) : outages { s with loop := x } = outages s := rfl
theorem outages_hem (x : Hem) : outages { s with hem := x } = outages s := rfl
theorem outages_sched (x : Sched) : outages { s with sched := x } = outages s := rfl
theorem outages_fbc (x : Fbc) : outages { s with fbc := x } = outages s := rfl
theorem outages_acq (x : Acq) : outages { s with acq := x } = outages s := rfl
theorem outages_wr (a : Nat) (v : Word) : outages (wr s a v) = outages s := outages_congr (wr_flt s a v)
theorem outages_ringMod (f : RingState → RingState) : outages (ringMod s f) = outages s := outages_congr (ringMod_flt s f)
theorem outages_twinMod (f : Twin → Twin) : outages (twinMod s f) = outages s := outages_congr (twinMod_flt s f)

theorem outages_clearVolatile (blk : Nat) : outages (clearVolatile s blk) = outages s := by
  unfold clearVolatile
  split
  · extract_lets t u
    have ht : outages t = outages s := (outages_ringMod (svcReset s) _).trans (outages_svcReset s)
    have hu : outages u = outages s := outages_ite ((outages_maintRel t 4).trans ht) ht
    exact (outages_ringMod u _).trans hu
  · exact outages_congr rfl
  · extract_lets t u v
    have ht : outages t = outages s := outages_ite (outages_cmdDone s 12) rfl
    have hu : outages u = outages s := outages_ite (((outages_setBit _ _ _ _).trans (outages_setF _ _ _ _ _)).trans ht) ht
    exact (outages_prof v _).trans ((foldl_keeps outages outages_groupEnd _ u).trans hu)
  · extract_lets t u
    have ht : outages t = outages s := foldl_keeps outages
      (f := fun s i => if fld s (Reg.LOOP_INJ_STATUS i) 1 0 != 3 then setF s (Reg.LOOP_INJ_STATUS i) 1 0 0 else s)
      (fun _ _ => outages_ite (outages_setF _ _ _ _ _) rfl) _ _
    exact (outages_loop u _).trans ((outages_ringMod t _).trans ht)
  · extract_lets t
    have ht : outages t = outages s :=
      foldl_keeps outages (f := fun s t => if taskFw s t then s else taskEnded s t) (fun _ _ => outages_ite rfl rfl) _ _
    exact (outages_hem t _).trans ht
  · extract_lets t blank tasks u
    have ht : outages t = outages s :=
      foldl_keeps outages (f := fun s t => if taskFw s t then taskEnded s t else s) (fun _ _ => outages_ite rfl rfl) _ _
    have hu : outages u = outages t := foldl_keeps outages (f := fun s c => releaseLocks s (0x10 + c))
      (fun _ _ => outages_releaseLocks _ _) _ _
    exact (outages_setF _ _ _ _ _).trans ((outages_sched u _).trans (hu.trans ht))
  · exact (outages_wr _ _ _).trans ((outages_wr _ _ _).trans (outages_congr rfl))
  · extract_lets t
    have ht : outages t = outages s := foldl_keeps outages outages_cmpOff _ _
    exact (outages_showFbc _).trans ((outages_fbc t _).trans ht)
  · extract_lets t
    have ht : outages t = outages s := foldl_keeps outages (f := fun s h => if h == 7 then maintRel s 7 else s)
      (fun _ _ => outages_ite (outages_maintRel _ _) rfl) _ _
    exact (foldl_keeps outages (f := fun s i => putSpool (setF s (Reg.ACQ_SP_STATE i) 2 0 0) i {})
      (fun _ _ => (outages_putSpool _ _ _).trans (outages_setF _ _ _ _ _)) _ _).trans ((outages_acq t _).trans ht)
  · exact (outages_twinMod _ _).trans ((outages_maintRel _ _).trans (outages_maintRel _ _))
  · exact outages_congr rfl
  · rfl

theorem outages_clearCounters (blk : Nat) : outages (clearCounters s blk) = outages s := rfl

theorem outages_twinEnd (a r : Nat) : outages (twinEnd s a r) = outages s :=
  outages_ite ((outages_setBit _ _ _ _).trans (outages_setF _ _ _ _ _)) rfl

theorem outages_sendTwin (ft : Nat) (b : List Byte) : outages (sendTwin s ft b) = outages s :=
  outages_ite rfl (outages_ite rfl rfl)

theorem outages_setTwin (st cause : Nat) : outages (setTwin s st cause) = outages s := by
  unfold setTwin
  extract_lets old t u v w x y
  have hu : outages u = outages s :=
    (outages_congr (twinMod_flt t _)).trans ((outages_setF _ _ _ _ _).trans (outages_setF _ _ _ _ _))
  have hv : outages v = outages u := outages_ite rfl rfl
  have hx : outages x = outages v := (outages_setBit _ _ _ _).trans (outages_setBit _ _ _ _)
  have hy : outages y = outages x := outages_ite rfl ((outages_sendTwin _ _ _).trans rfl)
  rw [outages_showFbc, hy, hx, hv, hu]

theorem outages_resyncEnd (ok : Bool) : outages (resyncEnd s ok) = outages s := by
  unfold resyncEnd
  extract_lets t u v a
  have hu : outages u = outages s := (outages_maintRel _ _).trans rfl
  exact outages_ite rfl ((outages_twinEnd _ _ _).trans ((outages_event _ _ _ _ _).trans hu))

theorem outages_unfitOwn : outages (unfitOwn s) = outages s := by
  refine outages_ite ?_ rfl
  unfold unfit
  extract_lets hour cause t
  have ht : outages t = outages s := outages_resyncEnd s false
  exact (outages_event _ _ _ _ _).trans ((outages_setTwin _ _ _).trans ((outages_congr (twinMod_flt t _)).trans ht))

/-- A block reset changes no record of the ladder but its own (R462, R463). -/
theorem outages_blockReset {blk : Nat} (h : s.flt.resetting.contains blk = false) :
    outages (blockReset s blk) = (s.flt.cellsOff.filter (fun c => c.1 != blk), blk :: s.flt.resetting, s.flt.deferred) := by
  unfold blockReset
  extract_lets t u
  rw [if_neg (by simpa using h), foldl_keeps outages (fun _ _ => outages_setF _ _ _ _ _), outages_unfitOwn, outages_clearVolatile,
    outages_clearCounters]
  rfl

end outages

/-! ### The rungs (R459, R460) -/


theorem stopped_regionStop (s : State) : fbit (regionStop s) Reg.FPM_STATUS 0 = true := by
  unfold regionStop
  split
  · next h => exact h
  · exact fbit_setBit s _ _ _ (by decide)

/-- What `rungDone` and the climbs that go on leave of the state that a rung makes (R460). -/
theorem graceExpiry_eq {s : State} {blk ev : Nat} {c : Climb}
    (h : (s.flt.climbs.find? fun c => c.blk == blk && c.ev == ev && c.due ≤ s.raw) = some c) :
    ∃ cs, graceExpiry s blk ev =
      rungDone (fltMod (applyRung s c).2 fun f => { f with climbs := cs }) (applyRung s c).1 blk ev := by
  unfold graceExpiry
  rw [h]
  exact ⟨_, rfl⟩

theorem outages_rungDone (s : State) (r blk ev : Nat) : outages (rungDone s r blk ev) = outages s :=
  (outages_raise _ _).trans (outages_showRung _ _ _)

theorem only_rungDone (s : State) (r blk ev : Nat) : OnlyReports s (rungDone s r blk ev) :=
  (only_showRung _ _ _).trans (only_raiseN _ _ _)

/-- What grace expiry leaves of the records and the stop bits is what its rung made (R459-R461). -/
theorem graceExpiry_keeps {s : State} {blk ev : Nat} {c : Climb}
    (h : (s.flt.climbs.find? fun c => c.blk == blk && c.ev == ev && c.due ≤ s.raw) = some c) :
    outages (graceExpiry s blk ev) = outages (applyRung s c).2 ∧
    (fbit (applyRung s c).2 Reg.FPM_STATUS 0 = true → fbit (graceExpiry s blk ev) Reg.FPM_STATUS 0 = true) ∧
    chipSafe (graceExpiry s blk ev) = chipSafe (applyRung s c).2 := by
  obtain ⟨cs, e⟩ := graceExpiry_eq h
  rw [e]
  have ho := only_rungDone (fltMod (applyRung s c).2 fun f => { f with climbs := cs }) (applyRung s c).1 blk ev
  exact ⟨(outages_rungDone _ _ _ _).trans rfl, fun hs => ho.stop hs, ho.status 1 (by decide)⟩

theorem climb_of_find {s : State} {blk ev : Nat} {c : Climb}
    (h : (s.flt.climbs.find? fun c => c.blk == blk && c.ev == ev && c.due ≤ s.raw) = some c) : c.blk = blk := by
  have hp := List.find?_some h
  simp only [Bool.and_eq_true, beq_iff_eq] at hp
  exact hp.1.1

theorem cellOff_cellDisable (s : State) (blk k : Nat) : cellOff (cellDisable s blk k) blk k = true := by
  have h := congrArg Prod.fst (outages_cellDisable s blk k)
  have hc : (cellDisable s blk k).flt.cellsOff = _ := h
  rw [cellOff, hc]
  split
  · next hk => exact hk
  · simp [outages, fltMod]

/-- A block reset leaves its block in reset, whether it ran or was running already (R462). -/
theorem resetting_blockReset (s : State) (blk : Nat) : (blockReset s blk).flt.resetting.contains blk = true := by
  cases h : s.flt.resetting.contains blk
  · have hr : (blockReset s blk).flt.resetting = _ := congrArg (·.2.1) (outages_blockReset s h)
    rw [hr]
    simp
  · rw [blockReset, if_pos h, h]

theorem outages_disableRest (s : State) : outages (disableRest s) = outages s := by
  unfold disableRest
  split
  · exact foldl_keeps outages (f := fun s a => request s (.disable a)) (fun _ _ => rfl) _ _
  · rfl

theorem rd_disableRest (s : State) (a : Nat) : rd (disableRest s) a = rd s a := by
  unfold disableRest
  split
  · exact foldl_keeps (rd · a) (f := fun s a => request s (.disable a)) (fun _ _ => rfl) _ _
  · rfl

/-! The state that each rung makes (R459, R461). -/

section rungs
variable (s : State) {c : Climb}

theorem applyRung_cell (hr : c.rung = 1) : (applyRung s c).2 = cellDisable s c.blk (c.cell.getD 0) := by
  rw [applyRung, hr]
  rfl

theorem applyRung_reset (hr : c.rung = 2) (hn : neverAlone.contains c.blk = false)
    (hx : holdsAxes.contains c.blk = false ∨ anyEnabled s = false) : (applyRung s c).2 = blockReset s c.blk := by
  rw [applyRung, hr]
  dsimp only
  rw [hn, if_neg (by decide), if_neg (by rcases hx with hx | hx <;> rw [hx] <;> simp)]
  rfl

theorem applyRung_never (hr : c.rung = 2) (hn : neverAlone.contains c.blk = true) : (applyRung s c).2 = regionStop s := by
  rw [applyRung, hr]
  dsimp only
  rw [hn, if_pos rfl]
  rfl

theorem applyRung_held (hr : c.rung = 2) (hn : neverAlone.contains c.blk = false) (hx : holdsAxes.contains c.blk = true)
    (he : anyEnabled s = true) : (applyRung s c).2 =
      disableRest (fltMod (regionStop s) fun f => { f with deferred := c.blk :: f.deferred.filter (· != c.blk) }) := by
  rw [applyRung, hr]
  dsimp only
  rw [hn, if_neg (by decide), if_pos (by rw [hx, he]; rfl)]
  rfl

theorem applyRung_stop (hr : c.rung = 3) : (applyRung s c).2 = regionStop s := by
  rw [applyRung, hr]
  rfl

theorem applyRung_safe (hr : c.rung = 4) : (applyRung s c).2 = enterSafe s 1 c.blk c.ev := by
  rw [applyRung, hr]
  rfl

end rungs

theorem deferred_disableRest (s : State) : (disableRest s).flt.deferred = s.flt.deferred := congrArg (·.2.2) (outages_disableRest s)

section grace
variable {s : State} (h : Awake s) {blk : Fin 16} {ev : Fin 32} {c : Climb}
  (hc : (s.flt.climbs.find? fun c => c.blk == blk.val && c.ev == ev.val && c.due ≤ s.raw) = some c)
include h hc

theorem completes_graceExpiry : Completes (.graceExpiry blk ev) s fun t =>
    (c.rung = 1 → cellOff t blk (c.cell.getD 0) = true) ∧
    (c.rung = 2 → neverAlone.contains blk.val = false → (holdsAxes.contains blk.val = false ∨ anyEnabled s = false) →
      t.flt.resetting.contains blk.val = true) ∧
    (c.rung = 2 → neverAlone.contains blk.val = true → fbit t Reg.FPM_STATUS 0 = true) ∧
    (c.rung = 2 → neverAlone.contains blk.val = false → holdsAxes.contains blk.val = true → anyEnabled s = true →
      fbit t Reg.FPM_STATUS 0 = true ∧ t.flt.deferred.contains blk.val = true) ∧
    (c.rung = 3 → fbit t Reg.FPM_STATUS 0 = true) ∧ (c.rung = 4 → chipSafe t = true) := by
  rw [← climb_of_find hc]
  obtain ⟨ho, hstop, hsafe⟩ := graceExpiry_keeps hc
  have hcells : (graceExpiry s blk ev).flt.cellsOff = (applyRung s c).2.flt.cellsOff := congrArg (·.1) ho
  have hreset : (graceExpiry s blk ev).flt.resetting = (applyRung s c).2.flt.resetting := congrArg (·.2.1) ho
  have hdefer : (graceExpiry s blk ev).flt.deferred = (applyRung s c).2.flt.deferred := congrArg (·.2.2) ho
  refine completes_run_eq rfl h rfl
    ⟨fun hr => ?_, fun hr hn hx => ?_, fun hr hn => ?_, fun hr hn hx he => ⟨?_, ?_⟩, fun hr => ?_, fun hr => ?_⟩
  · rw [cellOff]
    dsimp only
    rw [hcells, applyRung_cell s hr]
    exact cellOff_cellDisable s c.blk _
  · dsimp only
    rw [hreset, applyRung_reset s hr hn hx]
    exact resetting_blockReset s c.blk
  · exact hstop (by rw [applyRung_never s hr hn]; exact stopped_regionStop s)
  · exact hstop (by rw [applyRung_held s hr hn hx he, fbit, rd_disableRest]; exact stopped_regionStop s)
  · dsimp only
    rw [hdefer, applyRung_held s hr hn hx he, deferred_disableRest]
    exact List.contains_iff_mem.mpr List.mem_cons_self
  · exact hstop (by rw [applyRung_stop s hr]; exact stopped_regionStop s)
  · exact hsafe.trans (by rw [applyRung_safe s hr]; exact chipSafe_enterSafe _ _ _)

end grace

/-! ### The registers of the ladder (R456, R460) -/

/-- The row of FLT_ACK (R460). -/
def ackRow : RegRow := ⟨0xF014, 0, 1, 0, 1, .wo, 0x00000000, 0, 0x0000001F⟩
/-- The row of FLT_HIST_CLR (R456). -/
def histClrRow : RegRow := ⟨0xF020, 0, 1, 0, 1, .w1p, 0x00000000, 0, 0x00000001⟩

theorem regAt_ack : ∀ blk : Fin 16, regAt (Reg.FLT_ACK blk) = some (ackRow, 0, 0) := by decide
theorem regAt_histClr : ∀ blk : Fin 16, regAt (Reg.FLT_HIST_CLR blk) = some (histClrRow, 0, 0) := by decide
theorem place_ack : ∀ blk : Fin 16, 0x20000000 ≤ Reg.FLT_ACK blk ∧ Reg.FLT_ACK blk < 0x21000000 ∧ Reg.FLT_ACK blk % 4 = 0 := by decide
theorem place_histClr : ∀ blk : Fin 16,
    0x20000000 ≤ Reg.FLT_HIST_CLR blk ∧ Reg.FLT_HIST_CLR blk < 0x21000000 ∧ Reg.FLT_HIST_CLR blk % 4 = 0 := by decide
theorem block_ack : ∀ blk : Fin 16, blockOf (Reg.FLT_ACK blk) = blk := by decide
theorem block_histClr : ∀ blk : Fin 16, blockOf (Reg.FLT_HIST_CLR blk) = blk := by decide

section writes
variable {s : State} {port : Port} {blk : Fin 16} {v : Word}

theorem hostWrite_ack (h : Reaches s port (ackReg blk) v) :
    hostWrite s port (ackReg blk) v = okBus (faultAck s blk (wbits v 4 0)) := by
  by_cases hb : blk.val = SAFE
  · have he : ackReg blk = Reg.FPM_SAFE_FLT_ACK := by rw [ackReg, hb]; rfl
    rw [he] at h ⊢
    rw [hb]
    exact (write_reach h (i := 0) (j := 0) rfl (by decide) (by decide)).trans rfl
  · have he : ackReg blk = Reg.FLT_ACK blk := if_neg (by simpa using hb)
    rw [he] at h ⊢
    rw [write_reach h (regAt_ack blk) (place_ack blk) (by rw [block_ack]; exact hb), block_ack]
    rfl

theorem hostWrite_histClr (hb : blk.val ≠ SAFE) (hv : wbit v 0 = true) (h : Reaches s port (Reg.FLT_HIST_CLR blk) v) :
    hostWrite s port (Reg.FLT_HIST_CLR blk) v = okBus (histClear s blk) := by
  rw [write_reach h (regAt_histClr blk) (place_histClr blk) (by rw [block_histClr]; exact hb), block_histClr]
  exact congrArg okBus (if_pos hv)

theorem showRung_frame (s : State) (b r : Nat) : (showRung s b r).flt = s.flt ∧ ∀ a, a ≠ Reg.FLT_RUNG b → rd (showRung s b r) a = rd s a := by
  unfold showRung
  extract_lets t
  split <;> exact ⟨by simp [t], fun a ha => by rw [rd_setF_ne _ _ _ _ ha, rd_setBit_ne _ _ _ ha, rd_setF_ne _ _ _ _ ha]⟩

theorem completes_faultAck (h : Reaches s port (ackReg blk) v) : Completes (.faultAck port blk v) s fun t => t.bus.err = false ∧
    t.flt = { s.flt with climbs := s.flt.climbs.filter fun c => !(c.blk == blk.val && c.ev == wbits v 4 0) } ∧
      ∀ a, a ≠ Reg.FLT_RUNG blk → rd t a = rd s a := by
  have hf := showRung_frame
    (fltMod s fun f => { f with climbs := f.climbs.filter fun c => !(c.blk == blk.val && c.ev == wbits v 4 0) }) blk 0
  refine completes_port_eq (f := fun s => hostWrite s port (ackReg blk) v) rfl (hostWrite_ack h) ⟨rfl, hf.1, fun a ha => ?_⟩
  rw [rd_frame, rd_okBus, faultAck, hf.2 a ha]
  rfl

theorem completes_histClear (hb : blk.val ≠ SAFE) (h : Reaches s port (Reg.FLT_HIST_CLR blk) v) (hv : wbit v 0 = true) :
    Completes (.histClear port blk v) s fun t => t.bus.err = false ∧ history t blk = [] ∧
      (∀ b, b ≠ blk.val → history t b = history s b) ∧ rd t (Reg.FLT_HIST_CNT blk) = 0 ∧
      ∀ a, a ≠ Reg.FLT_HIST_CNT blk → rd t a = rd s a := by
  refine completes_port_eq (f := fun s => hostWrite s port (Reg.FLT_HIST_CLR blk) v) rfl (hostWrite_histClr hb hv h)
    ⟨rfl, ?_, fun b hne => ?_, ?_, fun a ha => ?_⟩
  · exact tget_tput_same (fun _ => []) s.flt.hist blk.val []
  · exact tget_tput_ne (fun _ => []) s.flt.hist [] hne
  · rw [rd_frame, rd_okBus, histClear, rd_wr_same]
  · rw [rd_frame, rd_okBus, histClear, rd_wr_ne _ _ ha]
    rfl

end writes

/-! ### Block resets (R461-R463) -/

theorem deferred_blockReset (s : State) (blk : Nat) : (blockReset s blk).flt.deferred = s.flt.deferred := by
  cases h : s.flt.resetting.contains blk
  · exact congrArg (·.2.2) (outages_blockReset s h)
  · rw [blockReset, if_pos h]

/-- What a block does when its reset completes, behind the record of the reset (R462). -/
def resetFollows (s : State) (blk : Nat) : State :=
  match blk with
  | 1 => ringMod s fun r => { r with launched := true }
  | 2 => timeResetDone s
  | 6 => { s with sched := { s.sched with fwReset := [] } }
  | 12 => applyOutputs s
  | _ => s

theorem blockResetDone_eq {s : State} {blk : Nat} (us : Nat) (h : s.flt.resetting.contains blk = true) :
    blockResetDone s blk us = resetFollows (wr (fltMod s fun f =>
      { f with resetting := f.resetting.filter (· != blk), resetRaw := tput (fun _ => 0) f.resetRaw blk s.raw })
      Reg.FPM_RESET_TIME (word (us % 65536 + blk % 256 * 65536))) blk := by
  unfold blockResetDone
  exact if_neg (by rw [h]; decide)

theorem rd_time (s : State) (x : Timekeeping) (a : Nat) : rd { s with time := x } a = rd s a := rfl

theorem resetFollows_keeps (s : State) (blk : Nat) :
    outages (resetFollows s blk) = outages s ∧ rd (resetFollows s blk) Reg.FPM_RESET_TIME = rd s Reg.FPM_RESET_TIME := by
  unfold resetFollows
  split
  · exact ⟨outages_ringMod s _, rfl⟩
  · unfold timeResetDone
    extract_lets t
    refine ⟨(outages_event _ _ _ _ _).trans ((outages_time t _).trans ((outages_setBit _ _ _ _).trans (outages_congr (bump_flt s _ _)))), ?_⟩
    rw [rd_event _ _ _ _ _ (by decide)]
    exact (rd_time t _ _).trans <| (rd_setBit_ne _ _ _ (by decide)).trans (rd_bump_ne _ _ (by decide))
  · exact ⟨outages_sched s _, rfl⟩
  · exact ⟨outages_applyOutputs s, by obtain ⟨n, o, e, -⟩ := applyOutputs_frame s; rw [e]; rfl⟩
  · exact ⟨rfl, rfl⟩

section resets
variable {s : State} (h : Awake s) {blk : Fin 16}
include h

theorem completes_deferredBlockReset (hd : s.flt.deferred.contains blk.val = true) (he : anyEnabled s = false)
    (hi : onInstant s = true) : Completes (.deferredBlockReset blk) s fun t =>
      t.flt.resetting.contains blk.val = true ∧ t.flt.deferred.contains blk.val = false := by
  refine completes_quiet_eq rfl h (t := blockReset (fltMod s fun f => { f with deferred := f.deferred.filter (· != blk.val) }) blk)
    (if_pos (by rw [hd, he, hi]; rfl)) ⟨resetting_blockReset _ _, ?_⟩
  dsimp only
  rw [deferred_blockReset]
  simp [fltMod]

theorem completes_blockResetDone {us : Half} (hr : s.flt.resetting.contains blk.val = true) :
    Completes (.blockResetDone blk us) s fun t => t.flt.resetting.contains blk.val = false ∧
      rd t Reg.FPM_RESET_TIME = word (us.toNat + blk.val * 65536) ∧ t.mem = s.mem := by
  have hw : us.toNat % 65536 + blk.val % 256 * 65536 = us.toNat + blk.val * 65536 := by
    rw [Nat.mod_eq_of_lt us.isLt, Nat.mod_eq_of_lt (by omega)]
  obtain ⟨u, hu⟩ : ∃ u, u = wr (fltMod s fun f =>
    { f with resetting := f.resetting.filter (· != blk.val), resetRaw := tput (fun _ => 0) f.resetRaw blk s.raw })
    Reg.FPM_RESET_TIME (word (us.toNat + blk.val * 65536)) := ⟨_, rfl⟩
  obtain ⟨hset, htime⟩ : u.flt.resetting.contains blk.val = false ∧ rd u Reg.FPM_RESET_TIME = word (us.toNat + blk.val * 65536) := by
    rw [hu]
    exact ⟨by simp [fltMod], rd_wr_same _ _ _⟩
  have he := blockResetDone_eq us.toNat hr
  rw [hw, ← hu] at he
  obtain ⟨ho, ht⟩ := resetFollows_keeps u blk
  have hr' : (resetFollows u blk).flt.resetting = u.flt.resetting := congrArg (·.2.1) ho
  refine completes_quiet_eq rfl h he ⟨?_, ?_, rfl⟩
  · dsimp only
    rw [hr', hset]
  · rw [rd_frame, ht, htime]

theorem exec_quiesceEnd (hr : s.flt.resetting.contains blk.val = false)
    (ht : tget (fun _ => 0) s.flt.resetRaw blk.val + 64 * cycleNs s ≤ s.raw) :
    exec (.quiesceEnd blk) s = .next { s with flt := { s.flt with
      quiesce := s.flt.quiesce.filter (· != blk.val), suppressed := s.flt.suppressed.filter (· != blk.val) } } :=
  exec_quiet rfl h (if_neg (by rw [hr, Bool.false_or, decide_eq_true_eq]; omega)) rfl rfl rfl

end resets

/-- Settles O42, command by command. -/
theorem ladderCommandsComplete : Obligations.LadderCommandsComplete := by
  unfold Obligations.LadderCommandsComplete
  intro s h blk
  exact ⟨fun _ _ => completes_graceExpiry h, fun _ _ => completes_faultAck, fun _ _ => completes_histClear,
    fun _ => completes_blockResetDone h, completes_deferredBlockReset h, exec_quiesceEnd h⟩
end Sys2Proof.Machine

/-! ## Stops, injection and supervision (R464-R469) -/

namespace Sys2Proof.Machine

/-! ### The STO request of a region stop (R464) -/

theorem stoRequest_keeps {β : Type} (g : State → β) (h : ∀ s a x, g (setSafeAxis s a x) = g s) (s : State) : g (stoRequest s) = g s :=
  foldl_keeps g (f := fun s a => setSafeAxis s a { safeAxis s a with forced := true }) (fun _ _ => h _ _ _) _ _

/-- Forcing a list of safe axes forces each of them once and no other. -/
theorem safeAxis_forced (l : List Nat) (s : State) (a : Nat) :
    safeAxis (l.foldl (fun s a => setSafeAxis s a { safeAxis s a with forced := true }) s) a =
      if a ∈ l then { safeAxis s a with forced := true } else safeAxis s a := by
  induction l generalizing s with
  | nil => rfl
  | cons b l ih =>
    rw [List.foldl_cons, ih]
    by_cases hb : a = b
    · subst hb
      rw [safeAxis_setSafeAxis]
      split <;> simp
    · rw [safeAxis_setSafeAxis_ne _ _ hb]
      simp [hb]

theorem requests_disable (l : List Nat) (s : State) :
    (l.foldl (fun s a => request s (.disable a)) s).prof.requests = s.prof.requests ++ l.map .disable := by
  induction l generalizing s with
  | nil => simp
  | cons a l ih => rw [List.foldl_cons, ih, List.map_cons, request, List.append_assoc, List.singleton_append]

/-- What the STO request leaves to the axes that are still enabled (R461). -/
theorem disableRest_sent {s : State} (h : s.flt.stoSent = true) :
    disableRest s = (enabledAxes s).foldl (fun s a => request s (.disable a)) s := if_pos h

/-- The head behind its STO request, before the axes of a deferred reset are disabled (R464). -/
def stoAsked (s : State) : State := fltMod (stoRequest s) fun f => { f with stoSent := true, disableAfter := false }

theorem stoAsked_prof (s : State) : (stoAsked s).prof = s.prof := stoRequest_keeps State.prof (fun _ _ _ => rfl) s

theorem stoAsked_flt (s : State) : (stoAsked s).flt = { s.flt with stoSent := true, disableAfter := false } := by
  rw [stoAsked, fltMod, stoRequest_keeps State.flt (fun _ _ _ => rfl) s]

theorem regionSto_eq {s : State} {r : Nat} (hr : s.flt.stopRaw = some r) (hs : fbit s Reg.FPM_STATUS 0 = true)
    (hn : s.flt.stoSent = false) (hi : onInstant s = true)
    (ha : atRest s = true ∨ fld s Reg.FPM_CFG 13 0 * 1000000 ≤ s.raw - r) :
    regionSto s = if s.flt.disableAfter then disableRest (stoAsked s) else stoAsked s := by
  unfold regionSto
  rw [hr]
  dsimp only
  rw [if_neg (by simp [hs, hn, hi]), if_pos (by simpa using ha), stoAsked]

theorem completes_regionStopStoRequest {s : State} (h : Awake s) {r : Nat} (hr : s.flt.stopRaw = some r)
    (hs : fbit s Reg.FPM_STATUS 0 = true) (hn : s.flt.stoSent = false) (hi : onInstant s = true)
    (ha : atRest s = true ∨ fld s Reg.FPM_CFG 13 0 * 1000000 ≤ s.raw - r) : Completes .regionStopStoRequest s fun t =>
      t.flt = { s.flt with stoSent := true, disableAfter := false } ∧
        t.prof.requests = s.prof.requests ++ (if s.flt.disableAfter then (enabledAxes s).map .disable else []) ∧
        (∀ a ∈ safeAxes s, safeAxis t a = { safeAxis s a with forced := true }) ∧ t.mem = s.mem := by
  have hforced : ∀ a ∈ safeAxes s, safeAxis (stoAsked s) a = { safeAxis s a with forced := true } := fun a hm =>
    (safeAxis_forced (safeAxes s) s a).trans (if_pos hm)
  have hsafe : (disableRest (stoAsked s)).safe = (stoAsked s).safe := by
    rw [disableRest_sent (by rw [stoAsked_flt])]
    exact foldl_keeps State.safe (f := fun s a => request s (.disable a)) (fun _ _ => rfl) _ _
  have hflt : (disableRest (stoAsked s)).flt = (stoAsked s).flt := by
    rw [disableRest_sent (by rw [stoAsked_flt])]
    exact foldl_keeps State.flt (f := fun s a => request s (.disable a)) (fun _ _ => rfl) _ _
  have hreq : (disableRest (stoAsked s)).prof.requests = s.prof.requests ++ (enabledAxes s).map .disable := by
    rw [disableRest_sent (by rw [stoAsked_flt]), requests_disable, stoAsked_prof, enabledAxes, stoAsked_prof, ← enabledAxes]
  have hnone : (stoAsked s).prof.requests = s.prof.requests ++ [] := by rw [stoAsked_prof, List.append_nil]
  refine completes_quiet_eq rfl h (regionSto_eq hr hs hn hi ha) ?_
  cases s.flt.disableAfter
  · exact ⟨stoAsked_flt s, hnone, hforced, rfl⟩
  · refine ⟨hflt.trans (stoAsked_flt s), hreq, fun a hm => ?_, rfl⟩
    exact (safeAxis_of_safe hsafe a).trans (hforced a hm)

/-! ### A write of FPM_CTRL (R464, R465) -/

section control
variable {s : State} {port : Port}

theorem hostWrite_fpmCtrl {v : Word} (h : Reaches s port Reg.FPM_CTRL v) : hostWrite s port Reg.FPM_CTRL v = landFpmCtrl s v :=
  (write_reach h (i := 0) (j := 0) rfl (by decide) (by decide)).trans rfl

theorem completes_clearStop (h : Reaches s port Reg.FPM_CTRL 1) (hc : s.flt.climbs = []) : Completes (.clearStop port) s fun t =>
    fbit t Reg.FPM_STATUS 0 = false ∧ fld t Reg.FPM_CTRL_STATUS 3 1 = 1 ∧ t.flt.stopRaw = none ∧ t.bus.err = false := by
  have hland : hostWrite s port Reg.FPM_CTRL 1 = setF (setBit (fltMod (okBus s) fun f =>
      { f with stopRaw := none, stoSent := false, disableAfter := false }) Reg.FPM_STATUS 0 false) Reg.FPM_CTRL_STATUS 3 1 1 :=
    (hostWrite_fpmCtrl h).trans (if_pos (by rw [okBus_flt, hc]; rfl))
  refine completes_port_eq (f := fun s => hostWrite s port Reg.FPM_CTRL 1) rfl hland ⟨?_, ?_, rfl, rfl⟩
  · rw [fbit_frame, fbit, rd_setF_ne _ _ _ _ (by decide)]
    exact fbit_setBit _ _ _ _ (by decide)
  · rw [fld_frame]
    exact fld_setF _ _ _ _ _ (by decide) (by decide)

theorem completes_clearStop_climbing (h : Reaches s port Reg.FPM_CTRL 1) (hc : s.flt.climbs ≠ []) :
    Completes (.clearStop port) s fun t =>
      rd t Reg.FPM_STATUS = rd s Reg.FPM_STATUS ∧ fld t Reg.FPM_CTRL_STATUS 3 1 = 2 ∧ t.flt = s.flt := by
  have hland : hostWrite s port Reg.FPM_CTRL 1 = setF (okBus s) Reg.FPM_CTRL_STATUS 3 1 2 :=
    (hostWrite_fpmCtrl h).trans (if_neg (by simpa using hc))
  refine completes_port_eq (f := fun s => hostWrite s port Reg.FPM_CTRL 1) rfl hland ⟨?_, ?_, rfl⟩
  · rw [rd_frame, rd_setF_ne _ _ _ _ (by decide), rd_okBus]
  · rw [fld_frame]
    exact fld_setF _ _ _ _ _ (by decide) (by decide)

end control

/-! ### The transmitters in chip safe state (R465) -/

/-- Setting bit k of a number that has it otherwise, by addition or subtraction. -/
theorem bit_flip {n k : Nat} {v : Bool} (h : bit n k ≠ v) (j : Nat) :
    bit (if v then n + 2 ^ k else n - 2 ^ k) j = if j = k then v else bit n j := by
  cases v
  · rw [if_neg (by decide), bit_sub_two_pow (by simpa using h)]
    by_cases hj : j = k <;> simp [hj]
  · rw [if_pos rfl, bit_add_two_pow (by simpa using h)]
    by_cases hj : j = k <;> simp [hj]

/-- The step of `driveTxdis` for one transmitter. -/
def driveTx (s : State) (p : Nat) : State :=
  let v := txdisHigh s p
  if bit s.pwr.txdis p == v then s
  else
    let n := s.pwr.txdis
    emit { s with pwr := { s.pwr with txdis := if v then n + 2 ^ p else n - 2 ^ p } } (.pin (txdisName p) v s.raw)

theorem driveTxdis_steps (s : State) : driveTxdis s = [0, 1, 2, 3].foldl driveTx s := rfl

theorem txdisHigh_driveTx (s : State) (p q : Nat) : txdisHigh (driveTx s p) q = txdisHigh s q := by
  unfold driveTx
  dsimp only
  split <;> rfl

theorem txdis_driveTx (s : State) (p j : Nat) :
    bit (driveTx s p).pwr.txdis j = if j = p then txdisHigh s p else bit s.pwr.txdis j := by
  unfold driveTx
  dsimp only
  split
  · next h =>
    by_cases hj : j = p
    · rw [if_pos hj, hj]
      simpa using h
    · rw [if_neg hj]
  · next h => exact bit_flip (by simpa using h) j

/-- Each transmitter's TXDIS has the level that R465 asks. -/
theorem txdis_driveTxdis (s : State) {p : Nat} (h : p < 4) : bit (driveTxdis s).pwr.txdis p = txdisHigh s p := by
  rw [driveTxdis_steps]
  simp only [List.foldl, txdis_driveTx, txdisHigh_driveTx]
  obtain rfl | rfl | rfl | rfl : p = 0 ∨ p = 1 ∨ p = 2 ∨ p = 3 := by omega
  all_goals simp

theorem txdis_enterSafe {s : State} (cause blk ev : Nat) (h : chipSafe s = false) {p : Nat} (hp : p < 2) :
    bit (enterSafe s cause blk ev).pwr.txdis p = true := by
  have hs : chipSafe (enterSafe s cause blk ev) = true := chipSafe_enterSafe cause blk ev
  rw [enterSafe_eq cause blk ev h] at hs ⊢
  rw [chipSafe, fbit, rd_driveTxdis, ← fbit, ← chipSafe] at hs
  rw [txdis_driveTxdis _ (by omega), txdisHigh, hs]
  simp [hp]

theorem completes_safeState {s : State} {port : Port} (h : Reaches s port Reg.FPM_CTRL 2) (hc : chipSafe s = false) :
    Completes (.safeState port) s fun t => chipSafe t = true ∧
      rd t Reg.FPM_CAUSE = 3 ∧ fbit t Reg.FPM_ALIVE 1 = true ∧ fld t Reg.FPM_CTRL_STATUS 3 1 = 1 ∧
      readMem t .ret 8320 4 = leBytes 4 3 ∧ bit t.pwr.txdis 0 = true ∧ bit t.pwr.txdis 1 = true := by
  have hc' : chipSafe (okBus s) = false := hc
  have hland : hostWrite s port Reg.FPM_CTRL 2 = setF (enterSafe (okBus s) 3 0 0) Reg.FPM_CTRL_STATUS 3 1 1 :=
    (hostWrite_fpmCtrl h).trans rfl
  have hsafe : chipSafe (enterSafe (okBus s) 3 0 0) = true := chipSafe_enterSafe _ _ _
  have halive := alive_enterSafe 3 0 0 hc'
  have hcause := cause_enterSafe 3 0 0 hc'
  have hret := retained_enterSafe 3 0 0 hc'
  have htx := fun p => txdis_enterSafe 3 0 0 hc' (p := p)
  obtain ⟨u, hu⟩ : ∃ u, enterSafe (okBus s) 3 0 0 = u := ⟨_, rfl⟩
  rw [hu] at hland hsafe halive hcause hret htx
  refine completes_run (f := fun s => hostWrite s port Reg.FPM_CTRL 2) rfl hland ⟨?_, ?_, ?_, ?_, hret, htx 0 (by decide), htx 1 (by decide)⟩
  · rw [chipSafe, fbit_queue, fbit, rd_setF_ne _ _ _ _ (by decide)]
    exact hsafe
  · rw [rd_queue, rd_setF_ne _ _ _ _ (by decide), hcause]
    rfl
  · rw [fbit_queue, fbit, rd_setF_ne _ _ _ _ (by decide)]
    exact halive
  · rw [fld_queue]
    exact fld_setF _ _ _ _ _ (by decide) (by decide)

/-! ### Injection (R466) -/

theorem history_congr {s t : State} (h : t.flt = s.flt) (b : Nat) : history t b = history s b := by rw [history, h, history]

theorem sendEvent_flt (s : State) (k b : Nat) (h : HistEntry) : (sendEvent s k b h).2.flt = s.flt := by
  have hring : ∀ t r c, (signalRing t r c).flt = t.flt := fun t r c => by
    unfold signalRing
    dsimp only
    split
    · rfl
    · split <;> rfl
  have hcarry : ∀ o m, (carryEvent s o m).2.flt = s.flt := fun o m => by
    unfold carryEvent
    split
    · unfold eventRing
      dsimp only
      split
      · rfl
      · rw [hring]
        rfl
    · rfl
    · rfl
  unfold sendEvent
  extract_lets sub fl took
  split
  · rfl
  · split
    · exact hcarry _ _
    · rfl

theorem logEntry_flt (s : State) (b : Nat) (h : HistEntry) : (logEntry s b h).2.flt = (pushHist s b h).flt := by
  unfold logEntry
  simp only [List.foldl, sendEvent_flt]

theorem pushHist_flt (s : State) (b : Nat) (h : HistEntry) :
    (pushHist s b h).flt = { s.flt with hist := tput (fun _ => []) s.flt.hist b ((h :: history s b).take 8) } := by
  unfold pushHist
  dsimp only
  split <;> rfl

theorem history_logEntry (s : State) (b : Nat) (h : HistEntry) : history (logEntry s b h).2 b = (h :: history s b).take 8 := by
  rw [history, logEntry_flt, pushHist_flt]
  exact tget_tput_same (fun _ => []) s.flt.hist b ((h :: history s b).take 8)

theorem history_logEntry_ne (s : State) {b c : Nat} (h : HistEntry) (hc : c ≠ b) : history (logEntry s b h).2 c = history s c := by
  rw [history, logEntry_flt, pushHist_flt]
  exact tget_tput_ne (fun _ => []) s.flt.hist ((h :: history s b).take 8) hc

theorem history_regionStop (s : State) (b : Nat) : history (regionStop s) b = history s b := by
  unfold regionStop
  split <;> rfl

theorem history_startClimb {again : State → Event → State} {b : Nat}
    (ih : ∀ s e, FPM ≤ e.blk → history (again s e) b = history s b) (s : State) (e : Event) (sev : Nat) (fresh : Bool) :
    history (startClimb again s e sev fresh) b = history s b := by
  unfold startClimb
  extract_lets climbs rung f t u
  have hu : history u b = history s b := history_congr (showRung_frame _ _ _).1 b
  split
  · rfl
  · split
    · rw [ih _ _ (Nat.le_refl FPM), history_regionStop, hu]
    · exact hu

/-- An event of FPM, SEC or HOST, and what it brings about, leaves the histories of the other blocks (R456, R531). -/
theorem history_raiseN {b : Nat} (hb : b < FPM) (n : Nat) (s : State) (e : Event) (he : FPM ≤ e.blk) :
    history (raiseN n s e) b = history s b := by
  induction n generalizing s e with
  | zero => rfl
  | succ n ih =>
    have hlog : ∀ t h, history (logAgain (raiseN n) t e.blk h) b = history t b := fun t h => by
      unfold logAgain
      dsimp only
      split
      · rw [ih _ _ (by decide), history_logEntry_ne _ _ (by omega)]
      · exact history_logEntry_ne _ _ (by omega)
    unfold raiseN
    split
    · unfold maskedEvent
      extract_lets t
      have ht : history t b = history s b := (history_congr (bump_flt _ _ _) b).trans (hlog _ _)
      split
      · exact ht
      · rw [ih _ _ (Nat.le_refl FPM)]
        exact ht
    · unfold plainEvent
      extract_lets sev coin t f u
      have hu : history u b = history s b := hlog s _
      have hshow : history (showEvent u e) b = history u b := by
        unfold showEvent
        dsimp only
        split <;> rfl
      split
      · exact hu
      · rw [history_startClimb ih, hshow, hu]

/-- The first entry that an event of severity 0 or 1 leaves in the history of its block, where nothing masks it (R456). -/
theorem history_raise {s : State} {e : Event} (hb : e.blk < FPM) (hs : severity s e.blk e.ev ≤ 1) (hm : masker s e.blk e.ev = none) :
    ∃ coin, history (raise s e) e.blk = (histEntry s e (severity s e.blk e.ev) false coin 0 :: history s e.blk).take 8 := by
  refine ⟨e.injected && marked s e false, ?_⟩
  unfold raise raiseN
  rw [hm]
  dsimp only
  unfold plainEvent
  extract_lets sev coin t f u
  have hrung : (if sev == 3 && !coin then 3 else 0) = 0 := by
    have h3 : (sev == 3) = false := by
      rw [beq_eq_false_iff_ne]
      intro h
      have : severity s e.blk e.ev = 3 := h
      omega
    rw [h3]
    rfl
  have ht : history t e.blk = (histEntry s e sev false coin 0 :: history s e.blk).take 8 := by
    unfold t
    rw [hrung]
    unfold logAgain
    dsimp only
    split
    · rw [history_raiseN hb _ _ _ (by decide), history_logEntry]
    · exact history_logEntry _ _ _
  have hu : history u e.blk = history t e.blk := rfl
  split
  · exact ht
  · have hc : startClimb (raiseN 3) (showEvent u e) e sev (!e.injected && marked s e true) = showEvent u e :=
      if_pos (by have : sev < 2 := Nat.lt_succ_of_le hs; simp [this])
    rw [hc, ← ht, ← hu]
    unfold showEvent
    dsimp only
    split <;> rfl

theorem w0_histEntry (s : State) (e : Event) (sev : Nat) (coin : Bool) : ∃ hi, (histEntry s e sev false coin 0).w0 =
    word (e.ev + sev * 2 ^ 5 + flag e.injected * 2 ^ 7 + hi * 2 ^ 9) ∧ hi < 2 ^ 23 := by
  refine ⟨flag coin + s.cyc.count.toNat % 65536 * 2 ^ 7, ?_, ?_⟩
  · refine congrArg word ?_
    rw [show flag false = 0 from rfl]
    omega
  · have : flag coin ≤ 1 := by cases coin <;> decide
    omega

theorem entry_injected (s : State) {e : Event} {sev : Nat} (hs : sev ≤ 1) (he : e.ev < 32) (coin : Bool) (hi : e.injected = true) :
    wbits (histEntry s e sev false coin 0).w0 4 0 = e.ev ∧
    wbit (histEntry s e sev false coin 0).w0 7 = true ∧ wbit (histEntry s e sev false coin 0).w0 8 = false := by
  obtain ⟨hi', hw, hlt⟩ := w0_histEntry s e sev coin
  have hf : flag e.injected = 1 := by rw [hi]; rfl
  rw [hf] at hw
  rw [hw]
  refine ⟨?_, ?_, ?_⟩
  · rw [wbits_word (by omega)]
    omega
  · rw [wbit_word _ (by decide), bit]
    simp only [beq_iff_eq]
    omega
  · rw [wbit_word _ (by decide), bit]
    simp only [beq_eq_false_iff_ne]
    omega

/-- The event that a write of inject raises (R466). -/
def injectedEvent (s : State) : Event :=
  { blk := fld s Reg.FPM_INJ_TARGET 15 8, ev := fld s Reg.FPM_INJ_TARGET 4 0, ctx := rd s Reg.FPM_INJ_CONTEXT,
    cell := cellOf (fld s Reg.FPM_INJ_TARGET 15 8) (fld s Reg.FPM_INJ_TARGET 4 0) (wbits (rd s Reg.FPM_INJ_CONTEXT) 15 0),
    injected := true }

theorem completes_inject {s : State} {port : Port} {blk ev : Nat} (h : Reaches s port Reg.FPM_INJ_CTRL 1)
    (hf : s.pwr.factory = true) (hd : s.pwr.debugLevel = 2) (hl : s.sec.fuseLock = false)
    (hb : fld s Reg.FPM_INJ_TARGET 15 8 = blk) (he : fld s Reg.FPM_INJ_TARGET 4 0 = ev) (hlt : blk < 13)
    (hs : severity s blk ev ≤ 1) (hm : masker s blk ev = none) : Completes (.inject port) s fun t =>
      ∃ h, history t blk = (h :: history s blk).take 8 ∧
        wbits h.w0 4 0 = ev ∧ wbit h.w0 7 = true ∧ wbit h.w0 8 = false ∧ h.w1 = rd s Reg.FPM_INJ_CONTEXT := by
  subst hb he
  have hev : fld s Reg.FPM_INJ_TARGET 4 0 < 32 := Nat.mod_lt _ (by decide)
  have hland : hostWrite s port Reg.FPM_INJ_CTRL 1 = okBus (raise s (injectedEvent s)) := by
    refine (write_reach h (i := 0) (j := 0) rfl (by decide) (by decide)).trans ?_
    have hi : inject s = raise s (injectedEvent s) := by
      unfold inject
      rw [if_pos (by simp [hf, hd, hl])]
      exact if_pos (by omega)
    exact congrArg okBus hi
  obtain ⟨coin, hist⟩ := history_raise (e := injectedEvent s) hlt hs hm
  obtain ⟨hnum, hinj, hsup⟩ := entry_injected s (e := injectedEvent s) hs hev coin rfl
  exact completes_port_eq (f := fun s => hostWrite s port Reg.FPM_INJ_CTRL 1) rfl hland
    ⟨_, hist, hnum, hinj, hsup, rfl⟩

/-! ### ALIVE and the temperatures (R468, R469, R564) -/

/-- The next point of ALIVE's grid behind an edge (R468). -/
def nextAlive (s : State) : Power :=
  { s.pwr with aliveAt := s.pwr.aliveAt + ((s.raw + 30500 - s.pwr.aliveAt) / 500000 + 1) * 500000 }

theorem aliveToggle_eq {s : State} (hr : s.sec.inReset = false) (ho : s.pwr.aliveOn = true) (hf : fbit s Reg.FPM_ALIVE 1 = false)
    (hl : s.pwr.lost.contains 0 = false) (ht : s.pwr.aliveAt ≤ s.raw + 30500) :
    aliveToggle s = emit (setBit { s with pwr := nextAlive s } Reg.FPM_ALIVE 0 (!fbit s Reg.FPM_ALIVE 0))
      (.pin "ALIVE" (!fbit s Reg.FPM_ALIVE 0) s.raw) := by
  unfold aliveToggle
  rw [if_pos (by rw [ho, hf, hl, hr]; simpa using ht)]
  extract_lets p t u
  have hu : fbit u Reg.FPM_ALIVE 0 = !fbit s Reg.FPM_ALIVE 0 := fbit_setBit t _ _ _ (by decide)
  rw [hu]
  rfl

/-- What an edge of ALIVE shows, whatever the grid goes on from. -/
theorem alive_edge (s : State) (p : Power) (b : Bool) :
    let t := emit (setBit { s with pwr := p } Reg.FPM_ALIVE 0 b) (.pin "ALIVE" b s.raw)
    fbit t Reg.FPM_ALIVE 0 = b ∧ t.out = s.out ++ [.pin "ALIVE" b s.raw] ∧ ∀ a, a ≠ Reg.FPM_ALIVE → rd t a = rd s a :=
  ⟨(fbit_emit _ _ _ _).trans (fbit_setBit _ _ _ _ (by decide)), rfl, fun _ ha => rd_setBit_ne _ _ _ ha⟩

theorem completes_aliveToggle {s : State} (h : Awake s) (ho : s.pwr.aliveOn = true) (hf : fbit s Reg.FPM_ALIVE 1 = false)
    (hl : s.pwr.lost.contains 0 = false) (ht : s.pwr.aliveAt ≤ s.raw + 30500) : Completes .aliveToggle s fun t =>
      fbit t Reg.FPM_ALIVE 0 = !fbit s Reg.FPM_ALIVE 0 ∧ t.out = s.out ++ [.pin "ALIVE" (!fbit s Reg.FPM_ALIVE 0) s.raw] ∧
        ∀ a, a ≠ Reg.FPM_ALIVE → rd t a = rd s a := by
  have he := aliveToggle_eq h ho hf hl ht
  obtain ⟨hbit, hout, hrd⟩ := alive_edge s (nextAlive s) (!fbit s Reg.FPM_ALIVE 0)
  rw [← he] at hbit hout hrd
  exact completes_quiet_eq rfl h rfl ⟨hbit, hout, hrd⟩

/-- The greatest of the readings is one of them and none is above it. -/
theorem greatest_reading (r : Half) (rs : List Half) :
    (∃ q ∈ r :: rs, rs.foldl (fun m x => max m x.toInt) r.toInt = q.toInt) ∧
      ∀ q ∈ r :: rs, q.toInt ≤ rs.foldl (fun m x => max m x.toInt) r.toInt := by
  induction rs generalizing r with
  | nil => exact ⟨⟨r, List.mem_singleton_self r, rfl⟩, fun q hq => by rw [List.mem_singleton.mp hq]; rfl⟩
  | cons x rs ih =>
    obtain ⟨y, hy, hmax⟩ : ∃ y, (y = r ∨ y = x) ∧ max r.toInt x.toInt = y.toInt := by
      rcases le_total r.toInt x.toInt with hle | hle
      · exact ⟨x, .inr rfl, max_eq_right hle⟩
      · exact ⟨r, .inl rfl, max_eq_left hle⟩
    obtain ⟨⟨q, hq, he⟩, hle⟩ := ih y
    have hy1 : y.toInt ≤ _ := hle y List.mem_cons_self
    rw [List.foldl_cons, hmax]
    refine ⟨⟨q, ?_, he⟩, fun z hz => ?_⟩
    · rcases List.mem_cons.mp hq with rfl | hq
      · rcases hy with rfl | rfl <;> simp
      · simp [hq]
    · rcases List.mem_cons.mp hz with rfl | hz
      · exact (hmax ▸ le_max_left _ _).trans hy1
      · rcases List.mem_cons.mp hz with rfl | hz
        · exact (hmax ▸ le_max_right _ _).trans hy1
        · exact hle z (List.mem_cons_of_mem _ hz)

theorem unsg_toInt (r : Half) : unsg 16 r.toInt = r.toNat := by
  have := r.isLt
  rw [unsg, BitVec.toInt_eq_toNat_cond]
  split <;> omega

theorem sgn_unsg {x : Int} (h : -32768 ≤ x) (h2 : x < 32768) : sgn 16 (unsg 16 x) = x := by
  unfold sgn unsg
  dsimp only
  split <;> omega

/-- The greatest reading and the greatest since reset as SYS_TJ shows them (R564). -/
def temperatureShown (s : State) (tj top : Int) : State :=
  wr { s with pwr := { s.pwr with tempSeen := true, tempRaw := s.raw } } Reg.SYS_TJ (word (unsg 16 tj + unsg 16 top * 65536))

/-- Derating by the greatest reading (R469). -/
def derating (s : State) (tj : Int) : State :=
  if fld s Reg.SYS_ORDER_CODE 0 0 == 1 && 840 < tj && fld s Reg.SYS_CYCLE_ACTIVE 15 0 < 160 && !s.pwr.derated then
    event { s with pwr := { s.pwr with derated := true } } FPM 1
  else if tj < 800 then { s with pwr := { s.pwr with derated := false } }
  else s

/-- The greatest of a list of readings that is not empty. -/
def greatest (r : Half) (rs : List Half) : Int := rs.foldl (fun m x => max m x.toInt) r.toInt

/-- The greatest reading since reset, with the readings given (R564). -/
def greatestSince (s : State) (tj : Int) : Int := if s.pwr.tempSeen then max tj (sgn 16 (fld s Reg.SYS_TJ 31 16)) else tj

theorem sgn_bounds (x : Nat) : -32768 ≤ sgn 16 x ∧ sgn 16 x < 32768 := by
  unfold sgn
  dsimp only
  split <;> omega

theorem toInt_bounds (q : Half) : -32768 ≤ q.toInt ∧ q.toInt < 32768 := ⟨BitVec.le_toInt q, BitVec.toInt_lt⟩

theorem sgn_greatestSince {s : State} {q : Half} (hs : s.pwr.tempSeen = true) :
    sgn 16 (unsg 16 (greatestSince s q.toInt)) = max q.toInt (sgn 16 (fld s Reg.SYS_TJ 31 16)) := by
  have hb := sgn_bounds (fld s Reg.SYS_TJ 31 16)
  have hq := toInt_bounds q
  rw [greatestSince, if_pos hs, sgn_unsg (by omega) (by omega)]

theorem temperature_eq {s : State} (r : Half) (rs : List Half) (ht : s.pwr.tempSeen = false ∨ 1000000 ≤ s.raw - s.pwr.tempRaw) :
    temperature s (r :: rs) =
      let t := temperatureShown s (greatest r rs) (greatestSince s (greatest r rs))
      if (if fld t Reg.SYS_ORDER_CODE 0 0 == 1 then 1080 else 920) < greatest r rs then islandFault (derating t (greatest r rs)) 6
      else derating t (greatest r rs) :=
  if_neg (by rcases ht with ht | ht <;> simp [ht])

theorem rd_derating (s : State) (tj : Int) {a : Nat} (h : reportReg a = false) : rd (derating s tj) a = rd s a := by
  unfold derating
  split
  · exact rd_event _ _ _ _ _ h
  · split <;> rfl

theorem islandSt_islandFault (s : State) (cause : Nat) : islandSt (islandFault s cause) = 2 := by
  by_cases hi : islandSt s = 2
  · exact (congrArg islandSt (if_pos (by simp [hi]) : islandFault s cause = s)).trans hi
  · exact (islandFault_shows cause hi).1

section temperature
variable {s : State} {r : Half} {rs : List Half} (ht : s.pwr.tempSeen = false ∨ 1000000 ≤ s.raw - s.pwr.tempRaw)
include ht

theorem rd_temperature : rd (temperature s (r :: rs)) Reg.SYS_TJ =
    word (unsg 16 (greatest r rs) + unsg 16 (greatestSince s (greatest r rs)) * 65536) := by
  rw [temperature_eq r rs ht]
  extract_lets t
  have hd : rd (derating t (greatest r rs)) Reg.SYS_TJ = rd t Reg.SYS_TJ := rd_derating _ _ (by decide)
  have hshown : rd t Reg.SYS_TJ = _ := rd_wr_same _ _ _
  generalize (if fld t Reg.SYS_ORDER_CODE 0 0 == 1 then (1080 : Int) else 920) = limit
  split
  · rw [rd_islandFault _ _ (by decide), hd, hshown]
  · rw [hd, hshown]

theorem islandSt_temperature (ho : fld s Reg.SYS_ORDER_CODE 0 0 = 0) (hg : 920 < greatest r rs) :
    islandSt (temperature s (r :: rs)) = 2 := by
  rw [temperature_eq r rs ht]
  extract_lets t
  have ht0 : fld t Reg.SYS_ORDER_CODE 0 0 = 0 := (congrArg (wbits · 0 0) (rd_wr_ne _ _ (by decide))).trans ho
  rw [ht0, if_pos (by simpa using hg)]
  exact islandSt_islandFault _ _

theorem completes_temperatureRefresh (h : Awake s) : Completes (.temperatureRefresh (r :: rs)) s fun t =>
    (∃ q ∈ r :: rs, fld t Reg.SYS_TJ 15 0 = q.toNat) ∧ (∀ q ∈ r :: rs, q.toInt ≤ sgn 16 (fld t Reg.SYS_TJ 15 0)) ∧
      (s.pwr.tempSeen = true → sgn 16 (fld t Reg.SYS_TJ 31 16) =
        max (sgn 16 (fld t Reg.SYS_TJ 15 0)) (sgn 16 (fld s Reg.SYS_TJ 31 16))) ∧
      (fld s Reg.SYS_ORDER_CODE 0 0 = 0 → 920 < sgn 16 (fld t Reg.SYS_TJ 15 0) → islandSt t = 2) := by
  obtain ⟨⟨q, hq, hval⟩, hle⟩ := greatest_reading r rs
  change greatest r rs = q.toInt at hval
  have hlow : unsg 16 (greatest r rs) = q.toNat := by rw [hval, unsg_toInt]
  have htj := rd_temperature (r := r) (rs := rs) ht
  have hisl := islandSt_temperature (r := r) (rs := rs) ht
  have hqlt := q.isLt
  have htop : unsg 16 (greatestSince s (greatest r rs)) < 2 ^ 16 := by
    unfold unsg
    omega
  have h15 : fld (temperature s (r :: rs)) Reg.SYS_TJ 15 0 = q.toNat := by
    rw [fld, htj, wbits_word (by omega), hlow]
    omega
  have h31 : fld (temperature s (r :: rs)) Reg.SYS_TJ 31 16 = unsg 16 (greatestSince s (greatest r rs)) := by
    rw [fld, htj, wbits_word (by omega)]
    omega
  have hg : sgn 16 q.toNat = greatest r rs := by
    rw [← hlow, hval, sgn_unsg (toInt_bounds q).1 (toInt_bounds q).2]
  refine completes_run_eq rfl h rfl ⟨⟨q, hq, ?_⟩, ?_, fun hs => ?_, fun ho hlt => ?_⟩
  · rw [fld_queue, h15]
  · rw [fld_queue, h15, hg]
    exact hle
  · rw [fld_queue, h31, fld_queue _ _ _ 15 0, h15, hg]
    rw [hval]
    exact sgn_greatestSince hs
  · rw [fld_queue, h15, hg] at hlt
    exact hisl ho hlt

end temperature

/-- Settles O43, command by command. -/
theorem stopCommandsComplete : Obligations.StopCommandsComplete := by
  unfold Obligations.StopCommandsComplete
  intro s h
  refine ⟨fun _ => completes_regionStopStoRequest h, fun _ => completes_clearStop, fun _ => completes_clearStop_climbing,
    fun _ => completes_safeState, fun _ _ _ hr hf hd hl hb he => completes_inject hr hf hd hl hb he, completes_aliveToggle h,
    fun readings hne ht => ?_⟩
  cases readings with
  | nil => exact absurd rfl hne
  | cons r rs => exact completes_temperatureRefresh ht h

end Sys2Proof.Machine

/-! ## Arriving PDUs and the watchdog of a connection (R402-R404) -/

namespace Sys2Proof.Machine

/-! ### An arriving PDU (R402-R404) -/

theorem conn_congr {s t : State} (h : t.safe = s.safe) (c : Nat) : conn t c = conn s c := by rw [conn, h, conn]

/-- A datagram of a connection's peer, on a head that works alone, reaches the connection. -/
theorem datagram_eq {s : State} {h ip : Nat} {port : Half} {b : List Byte} (hp : FromPeer s h ip port b) :
    datagram s ip port.toNat b = connReceive s (126 + h) (b.drop 8) := by
  have hsolo : s.twin.pair = false := hp.alone
  unfold datagram
  dsimp only
  rw [hp.number, if_neg (by rw [hp.host]; simp [hp.length, hp.version, hp.few, hp.named, hp.address, hp.port]),
    if_neg (by rw [holdsJournal, hsolo]; simp), if_pos (by rw [hsolo]; rfl)]

section receive
variable {s : State} {h ip : Nat} {port : Half} {b : List Byte} (hp : FromPeer s h ip port b)
include hp

theorem length_pdu : (b.drop 8).length = 16 := by rw [List.length_drop, hp.length]

omit hp in
theorem connReceive_allOnes (ho : b.drop 8 = List.replicate 16 0xFF) : connReceive s (126 + h) (b.drop 8) = s := by
  unfold connReceive
  dsimp only
  split
  · rfl
  · exact if_pos (by rw [ho]; exact beq_self_eq_true _)

section run
variable (hr : connSt s (126 + h) = 2)
include hr

/-- The first check of a PDU that arrives at a host-side connection in RUN (R402). -/
theorem connReceive_run : connReceive s (126 + h) (b.drop 8) =
    if b.drop 8 == List.replicate 16 0xFF then s
    else if !pduOk (conn s (126 + h)).ident (b.drop 8) then connBadCrc s (126 + h)
    else if (conn s (126 + h)).lastSeq == 0 then s
    else if field (b.drop 8) 8 2 == (conn s (126 + h)).lastSeq then
      if b.drop 8 == (conn s (126 + h)).pdu then s else connError s (126 + h) 2
    else if field (b.drop 8) 8 2 != 0 && 1 ≤ seqAhead (conn s (126 + h)).lastSeq (field (b.drop 8) 8 2) &&
        seqAhead (conn s (126 + h)).lastSeq (field (b.drop 8) 8 2) ≤ (conn s (126 + h)).window then
      connAccept s (126 + h) (b.drop 8)
    else setConn s (126 + h) { conn s (126 + h) with old := (conn s (126 + h)).old + 1 } := by
  unfold connReceive
  dsimp only
  rw [if_neg (by simp [hp.named, hp.inUse, hr, hp.runs, length_pdu hp])]
  simp [hr]

theorem connReceive_accepts (hn : b.drop 8 ≠ List.replicate 16 0xFF) (hok : pduOk (conn s (126 + h)).ident (b.drop 8) = true)
    (hl : (conn s (126 + h)).lastSeq ≠ 0) (h0 : field (b.drop 8) 8 2 ≠ 0)
    (h1 : 1 ≤ seqAhead (conn s (126 + h)).lastSeq (field (b.drop 8) 8 2))
    (hw : seqAhead (conn s (126 + h)).lastSeq (field (b.drop 8) 8 2) ≤ (conn s (126 + h)).window)
    (hd : field (b.drop 8) 8 2 ≠ (conn s (126 + h)).lastSeq) :
    connReceive s (126 + h) (b.drop 8) = connAccept s (126 + h) (b.drop 8) := by
  rw [connReceive_run hp hr, if_neg (by simpa using hn), if_neg (by simp [hok]), if_neg (by simpa using hl),
    if_neg (by simpa using hd), if_pos (by simp [h0, h1, hw])]

theorem connReceive_repeat (hok : pduOk (conn s (126 + h)).ident (b.drop 8) = true) (hl : (conn s (126 + h)).lastSeq ≠ 0)
    (hq : field (b.drop 8) 8 2 = (conn s (126 + h)).lastSeq) (hsame : b.drop 8 = (conn s (126 + h)).pdu) :
    connReceive s (126 + h) (b.drop 8) = s := by
  rw [connReceive_run hp hr]
  split
  · rfl
  · rw [if_neg (by simp [hok]), if_neg (by simpa using hl), if_pos (by simpa using hq), if_pos (by simpa using hsame)]

theorem connReceive_badCrc (hn : b.drop 8 ≠ List.replicate 16 0xFF) (hok : pduOk (conn s (126 + h)).ident (b.drop 8) = false) :
    connReceive s (126 + h) (b.drop 8) = connBadCrc s (126 + h) := by
  rw [connReceive_run hp hr, if_neg (by simpa using hn), if_pos (by simp [hok])]

end run

end receive

/-- The record of a connection that has accepted a PDU (R402, R403). -/
def takenPdu (s : State) (c : Nat) (p : List Byte) : SafeConn :=
  { conn s c with
    pdu := p, lastSeq := field p 8 2, based := true, streak := (conn s c).streak + 1,
    restartClear := (conn s c).restartClear || !bit (field p 10 2) (if c < 126 then 7 else 1), wdRaw := some s.raw, newPdu := true }

/-- A connection in RUN stays in RUN with a PDU that it accepts (R404). -/
theorem connAccept_run {s : State} {c : Nat} (p : List Byte) (hr : connSt s c = 2) :
    connAccept s c p = setF (setConn s c (takenPdu s c p)) (Reg.SAFE_CONN_STATE c) 31 16 (field p 8 2) := by
  unfold connAccept
  extract_lets x seq restart y t
  have ht : connSt t c = 2 := (fld_setF_ne _ _ _ _ _ _ _ (by decide) (by decide) (by decide)).trans hr
  rw [ht]
  rfl

section datagram
variable {s : State} (hs : Awake s) {ip : Word} {port : Half} {b : List Byte} {h : Nat} (hp : FromPeer s h ip.toNat port b)
include hs hp

theorem completes_datagram_accepted (hr : connSt s (126 + h) = 2)
    (hn : b.drop 8 ≠ List.replicate 16 0xFF) (hok : pduOk (conn s (126 + h)).ident (b.drop 8) = true)
    (hl : (conn s (126 + h)).lastSeq ≠ 0) (h0 : field (b.drop 8) 8 2 ≠ 0)
    (h1 : 1 ≤ seqAhead (conn s (126 + h)).lastSeq (field (b.drop 8) 8 2))
    (hw : seqAhead (conn s (126 + h)).lastSeq (field (b.drop 8) 8 2) ≤ (conn s (126 + h)).window)
    (hd : field (b.drop 8) 8 2 ≠ (conn s (126 + h)).lastSeq) : Completes (.selvedgeDatagram ip port b) s fun t =>
      (conn t (126 + h)).pdu = b.drop 8 ∧ (conn t (126 + h)).lastSeq = field (b.drop 8) 8 2 ∧
        (conn t (126 + h)).wdRaw = some s.raw ∧ (conn t (126 + h)).newPdu = true ∧ connSt t (126 + h) = 2 ∧ t.mem = s.mem := by
  have he := (datagram_eq hp).trans ((connReceive_accepts hp hr hn hok hl h0 h1 hw hd).trans (connAccept_run _ hr))
  have hc : conn (setF (setConn s (126 + h) (takenPdu s (126 + h) (b.drop 8))) (Reg.SAFE_CONN_STATE (126 + h)) 31 16
      (field (b.drop 8) 8 2)) (126 + h) = takenPdu s (126 + h) (b.drop 8) :=
    (conn_congr (setF_safe _ _ _ _ _) _).trans (conn_setConn _ _ _)
  refine completes_quiet_eq rfl hs he ⟨?_, ?_, ?_, ?_, ?_, rfl⟩
  · rw [conn_frame, hc]; rfl
  · rw [conn_frame, hc]; rfl
  · rw [conn_frame, hc]; rfl
  · rw [conn_frame, hc]; rfl
  · rw [connSt, fld_frame]
    exact (fld_setF_ne _ _ _ _ _ _ _ (by decide) (by decide) (by decide)).trans hr

theorem exec_datagram_repeat (hr : connSt s (126 + h) = 2) (hok : pduOk (conn s (126 + h)).ident (b.drop 8) = true)
    (hl : (conn s (126 + h)).lastSeq ≠ 0) (hq : field (b.drop 8) 8 2 = (conn s (126 + h)).lastSeq)
    (hsame : b.drop 8 = (conn s (126 + h)).pdu) : exec (.selvedgeDatagram ip port b) s = .next s :=
  exec_quiet rfl hs ((datagram_eq hp).trans (connReceive_repeat hp hr hok hl hq hsame)) rfl rfl rfl

theorem exec_datagram_allOnes (ho : b.drop 8 = List.replicate 16 0xFF) : exec (.selvedgeDatagram ip port b) s = .next s :=
  exec_quiet rfl hs ((datagram_eq hp).trans (connReceive_allOnes ho)) rfl rfl rfl

omit hs hp in
theorem word_bump (s : State) (a : Nat) : rd (bump s a) a = word (min ((rd s a).toNat + 1) (2 ^ 32 - 1)) := by
  apply BitVec.eq_of_toNat_eq
  rw [rd_bump_toNat, word, BitVec.toNat_ofNat, Nat.mod_eq_of_lt (by omega)]

theorem completes_datagram_badCrc (hr : connSt s (126 + h) = 2) (hn : b.drop 8 ≠ List.replicate 16 0xFF)
    (hok : pduOk (conn s (126 + h)).ident (b.drop 8) = false) (hc : (conn s (126 + h)).crcRaws = [])
    (hm : 1 ≤ (conn s (126 + h)).crcMax) : Completes (.selvedgeDatagram ip port b) s fun t =>
      (conn t (126 + h)).pdu = (conn s (126 + h)).pdu ∧ (conn t (126 + h)).crcRaws = [s.raw] ∧ connSt t (126 + h) = 2 ∧
        rd t (Reg.SAFE_CONN_CRC_CNT (126 + h)) =
          word (min ((rd s (Reg.SAFE_CONN_CRC_CNT (126 + h))).toNat + 1) (2 ^ 32 - 1)) := by
  have hbad : connBadCrc s (126 + h) = setConn (bump s (Reg.SAFE_CONN_CRC_CNT (126 + h))) (126 + h)
      { conn s (126 + h) with crcRaws := [s.raw] } := by
    unfold connBadCrc
    dsimp only
    rw [hc, List.filter_nil, if_neg (by simp; omega)]
  have hne : Reg.SAFE_CONN_STATE (126 + h) ≠ Reg.SAFE_CONN_CRC_CNT (126 + h) := by
    simp only [Reg.SAFE_CONN_STATE, Reg.SAFE_CONN_CRC_CNT]
    omega
  refine completes_quiet_eq rfl hs ((datagram_eq hp).trans ((connReceive_badCrc hp hr hn hok).trans hbad)) ⟨?_, ?_, ?_, ?_⟩
  · rw [conn_frame, conn_setConn]
  · rw [conn_frame, conn_setConn]
  · rw [connSt, fld_frame]
    exact (congrArg (wbits · 2 0) (rd_bump_ne _ _ hne)).trans hr
  · rw [rd_frame]
    exact word_bump s _

end datagram

/-! ### A connection error in RUN (R402-R404) -/

theorem report_conn : ∀ c : Fin 134, reportReg (Reg.SAFE_CONN_STATE c) = false ∧ reportReg (Reg.SAFE_CONN_ERR_CNT c) = false := by
  decide

section error
variable {s : State} {c code : Nat}

/-- A connection in RUN goes to ERROR and reports what failed. -/
theorem connError_eq (hr : connSt s c = 2) : connError s c code = event (setConnSt (setF (bump s (Reg.SAFE_CONN_ERR_CNT c))
    (Reg.SAFE_CONN_STATE c) 6 4 code) c 3) SAFE code c := by
  have hne : Reg.SAFE_CONN_STATE c ≠ Reg.SAFE_CONN_ERR_CNT c := by
    simp only [Reg.SAFE_CONN_STATE, Reg.SAFE_CONN_ERR_CNT]
    omega
  unfold connError
  extract_lets t src u
  have ht : connSt t c = 2 := (fld_setF_ne _ _ _ _ _ _ _ (by decide) (by decide) (by decide)).trans
    ((congrArg (wbits · 2 0) (rd_bump_ne s _ hne)).trans hr)
  have hu : u = setConnSt t c 3 := by
    unfold u
    rw [ht]
    rfl
  rw [hu]

theorem connError_safe (hr : connSt s c = 2) : (connError s c code).safe = s.safe := by
  rw [connError_eq hr, event_safe]
  rfl

theorem connError_run (hc : c < 134) (h3 : code < 8) (hr : connSt s c = 2) : connSt (connError s c code) c = 3 ∧
    fld (connError s c code) (Reg.SAFE_CONN_STATE c) 6 4 = code ∧
    rd (connError s c code) (Reg.SAFE_CONN_ERR_CNT c) = word (min ((rd s (Reg.SAFE_CONN_ERR_CNT c)).toNat + 1) (2 ^ 32 - 1)) := by
  have hne : Reg.SAFE_CONN_ERR_CNT c ≠ Reg.SAFE_CONN_STATE c := by
    simp only [Reg.SAFE_CONN_STATE, Reg.SAFE_CONN_ERR_CNT]
    omega
  obtain ⟨hrs, hre⟩ := report_conn ⟨c, hc⟩
  rw [connError_eq hr]
  refine ⟨?_, ?_, ?_⟩
  · rw [connSt, fld_event _ _ _ _ _ _ _ hrs]
    exact fld_setF _ _ _ _ _ (by decide) (by decide)
  · rw [fld_event _ _ _ _ _ _ _ hrs, setConnSt, fld_setF_ne _ _ _ _ _ _ _ (by decide) (by decide) (by decide),
      fld_setF _ _ _ _ _ (by decide) (by decide)]
    exact Nat.mod_eq_of_lt h3
  · rw [rd_event _ _ _ _ _ hre, setConnSt, rd_setF_ne _ _ _ _ hne, rd_setF_ne _ _ _ _ hne]
    exact word_bump s _

end error

/-! ### The watchdog (R403) -/

theorem completes_selvedgeWatchdog {s : State} (hs : Awake s) {c : Byte} {r : Nat} (hc : c.toNat < 134) (hi : islandSt s = 1)
    (hr : connSt s c.toNat = 2) (hw : (conn s c.toNat).wdRaw = some r) (ht : (conn s c.toNat).watchdog * 1000000 ≤ s.raw - r) :
    Completes (.selvedgeWatchdog c) s fun t => connSt t c.toNat = 3 ∧
        fld t (Reg.SAFE_CONN_STATE c.toNat) 6 4 = 3 ∧ (conn t c.toNat).wdRaw = none ∧ connData t c.toNat = 0 ∧
        rd t (Reg.SAFE_CONN_ERR_CNT c.toNat) = word (min ((rd s (Reg.SAFE_CONN_ERR_CNT c.toNat)).toNat + 1) (2 ^ 32 - 1)) ∧
        t.mem = s.mem := by
  obtain ⟨x, hx, he⟩ : ∃ x, x.wdRaw = none ∧ connWatchdog s c.toNat = connError (setConn s c.toNat x) c.toNat 3 := by
    refine ⟨{ conn s c.toNat with wdRaw := none }, rfl, ?_⟩
    unfold connWatchdog
    dsimp only
    rw [hw]
    exact if_pos (by simp [ht, hi, hr])
  obtain ⟨hst, hcode, hcnt⟩ := connError_run (s := setConn s c.toNat x) (code := 3)
    hc (by decide) hr
  have hw' : (conn (connWatchdog s c.toNat) c.toNat).wdRaw = none := by
    rw [he, conn_congr (connError_safe (s := setConn s c.toNat x) hr), conn_setConn, hx]
  rw [← he] at hst hcode hcnt
  refine completes_quiet_eq rfl hs rfl ⟨hst, hcode, hw', ?_, hcnt, rfl⟩
  have hdata : connData (connWatchdog s c.toNat) c.toNat = 0 := if_neg (by rw [hst]; decide)
  exact hdata

/-- Settles O36, command by command. -/
theorem selvedgeCommandsComplete : Obligations.SelvedgeCommandsComplete := by
  unfold Obligations.SelvedgeCommandsComplete
  intro s h
  exact ⟨fun _ _ _ _ => completes_datagram_accepted h, fun _ _ _ _ => exec_datagram_repeat h,
    fun _ _ _ _ => completes_datagram_badCrc h, fun _ _ _ _ => exec_datagram_allOnes h, fun _ _ => completes_selvedgeWatchdog h⟩

end Sys2Proof.Machine

/-! ## The safety cycle (R395, R396, R401) -/

namespace Sys2Proof.Machine

/-! ### What the evaluation of axes, groups and outputs leaves -/

/-- A view of the state that the evaluation of axes, groups and outputs does not touch. -/
structure IslandBlind {β : Type} (g : State → β) : Prop where
  axis : ∀ s a x, g (setSafeAxis s a x) = g s
  group : ∀ s k x, g (setSloGroup s k x) = g s
  out : ∀ s k x, g (setSafeOut s k x) = g s
  fio : ∀ s f, g (fioMod s f) = g s
  request : ∀ s r, g (request s r) = g s
  event : ∀ s b e o d, g (event s b e o d) = g s

/-- What a safety cycle's start fixes: its time, what is due, and the terms (R396). -/
def pace (s : State) : Nat × Word × Nat × Bool × Bool × List DemandTerm :=
  (s.safe.startRaw, s.safe.startCount, s.safe.since, s.safe.outDue, s.safe.pduDue, s.safe.terms)

theorem pace_congr {s t : State} (h : t.safe = s.safe) : pace t = pace s := by rw [pace, h, pace]

theorem blind_pace : IslandBlind pace where
  axis _ _ _ := rfl
  group _ _ _ := rfl
  out _ _ _ := rfl
  fio s f := pace_congr (fioMod_safe s f)
  request s r := pace_congr (request_safe s r)
  event s b e o d := pace_congr (event_safe s b e o d)

theorem blind_conns : IslandBlind (fun s => s.safe.conns) where
  axis _ _ _ := rfl
  group _ _ _ := rfl
  out _ _ _ := rfl
  fio s f := congrArg Safe.conns (fioMod_safe s f)
  request s r := congrArg Safe.conns (request_safe s r)
  event s b e o d := congrArg Safe.conns (event_safe s b e o d)

section blind
variable {β : Type} {g : State → β} (hg : IslandBlind g)
include hg

theorem blind_enterSto (s : State) (a : Nat) : g (enterSto s a) = g s := by
  unfold enterSto
  dsimp only
  split
  · rfl
  · rw [hg.request, hg.axis]

theorem blind_axisPosition (s : State) (a : Nat) : g (axisPosition s a) = g s := by
  unfold axisPosition
  extract_lets
  exact hg.axis _ _ _

theorem blind_crossCheck (s : State) (a : Nat) : g (crossCheck s a) = g s := by
  unfold crossCheck
  extract_lets
  split
  · rfl
  · split
    · exact hg.axis _ _ _
    · split
      · rfl
      · split <;> exact hg.axis _ _ _

theorem blind_sloTimeout (s : State) (k : Nat) : g (sloTimeout s k) = g s := by
  unfold sloTimeout
  extract_lets
  split
  · rfl
  · split
    · exact hg.group _ _ _
    · split
      · unfold sloFault
        extract_lets
        split
        · rfl
        · rw [hg.event, hg.group]
      · rfl

theorem blind_evalGroup (s : State) (k : Nat) : g (evalGroup s k) = g s := by
  unfold evalGroup
  extract_lets
  rw [blind_sloTimeout hg, hg.group]

theorem blind_switchGroup (s : State) (k : Nat) : g (switchGroup s k) = g s := by
  unfold switchGroup
  extract_lets
  split
  · split
    · exact hg.group _ _ _
    · rfl
  · split
    · exact hg.group _ _ _
    · rfl

theorem blind_stepSs1 (s : State) (a : Nat) : g (stepSs1 s a) = g s := by
  unfold stepSs1
  extract_lets
  split
  · rw [hg.request, hg.axis]
  · exact hg.axis _ _ _

theorem blind_stopOutputs (s : State) (a : Nat) (sto sbc : Bool) : g (stopOutputs s a sto sbc) = g s := by
  unfold stopOutputs
  extract_lets x since t u
  split
  · have ht : g t = g s := hg.axis _ _ _
    split
    · rw [blind_enterSto hg, ht]
    · exact ht
  · have hu : g u = g s := hg.axis _ _ _
    split
    · rw [blind_enterSto hg, hu]
    · exact hu

theorem blind_outFault (s : State) (k ev : Nat) : g (outFault s k ev) = g s := by
  unfold outFault
  extract_lets x t u v
  split
  · rfl
  · have hv : g v = g u := foldl_keeps g (f := fun s a => enterSto (setSafeAxis s a { safeAxis s a with forced := true }) a)
      (fun s a => by rw [blind_enterSto hg, hg.axis]) _ _
    have hu : g u = g s := (hg.fio _ _).trans (hg.out _ _ _)
    rw [hg.event, hv, hu]

theorem blind_checkOut (s : State) (k : Nat) : g (checkOut s k) = g s := by
  unfold checkOut
  extract_lets
  split
  · rw [blind_outFault hg, hg.out]
  · exact hg.out _ _ _

theorem blind_driveOut (s : State) (k : Nat) : g (driveOut s k) = g s := by
  unfold driveOut
  extract_lets
  split
  · split
    · exact blind_outFault hg _ _ _
    · rw [hg.fio, hg.out]
  · split
    · rw [hg.fio, hg.out]
    · rfl

theorem blind_evalAxis (s : State) (a : Nat) : g (evalAxis s a) = g s := by
  unfold evalAxis
  extract_lets x x1 sel lim slo ss2 ss sos x2 t u x3 ss' v x4 only sto
  have ht : g t = g s := hg.axis _ _ _
  have hu : g u = g t := by
    unfold u
    split
    · rfl
    · split
      · rfl
      · dsimp only
        rw [hg.event, hg.axis]
        split
        · exact hg.event _ _ _ _ _
        · rfl
  have hv : g v = g u := by
    unfold v
    split
    · exact blind_stepSs1 hg _ _
    · exact hg.axis _ _ _
  rw [blind_stopOutputs hg, hv, hu, ht]

end blind

/-! ### What taking a connection's PDU leaves (R396, R402) -/

section connections
variable (s : State) (c : Nat)

theorem pace_setConn (x : SafeConn) : pace (setConn s c x) = pace s := rfl

theorem pace_ite {p : Prop} [Decidable p] {s t u : State} (ht : pace t = pace s) (hu : pace u = pace s) :
    pace (if p then t else u) = pace s := by
  split <;> assumption

theorem pace_setConnSt (st : Nat) : pace (setConnSt s c st) = pace s := pace_congr (setF_safe _ _ _ _ _)

theorem pace_reopen : pace (reopen s c) = pace s := (pace_setConnSt _ _ _).trans (pace_setConn _ _ _)

theorem pace_connError (code : Nat) : pace (connError s c code) = pace s := by
  unfold connError
  extract_lets t src u
  have ht : pace t = pace s := (pace_congr (setF_safe _ _ _ _ _)).trans (pace_congr (bump_safe s _ _))
  have hu : pace u = pace t := by
    unfold u
    split
    · exact pace_setConnSt _ _ _
    · exact pace_setConn _ _ _
    · rfl
  rw [pace_congr (event_safe _ _ _ _ _), hu, ht]

theorem pace_connAccept (p : List Byte) : pace (connAccept s c p) = pace s := by
  unfold connAccept
  extract_lets x seq restart y t e
  have ht : pace t = pace s := (pace_congr (setF_safe _ _ _ _ _)).trans (pace_setConn _ _ _)
  split
  · exact pace_ite ((pace_setConnSt _ _ _).trans ht) ht
  · exact pace_ite ((pace_reopen _ _).trans ht) ht
  · exact ht

theorem pace_connBadCrc : pace (connBadCrc s c) = pace s := by
  unfold connBadCrc
  extract_lets x recent t
  have ht : pace t = pace s := pace_congr (bump_safe s _ _)
  exact pace_ite ((pace_connError _ _ _).trans ((pace_setConn _ _ _).trans ht)) ((pace_setConn _ _ _).trans ht)

theorem pace_connReceive (p : List Byte) : pace (connReceive s c p) = pace s := by
  unfold connReceive
  extract_lets
  exact pace_ite rfl <| pace_ite rfl <| pace_ite (pace_connBadCrc s c) <|
    pace_ite ((pace_connAccept _ _ _).trans (pace_setConn _ _ _)) <| pace_ite rfl <|
    pace_ite (pace_ite rfl (pace_connError _ _ _)) <|
    pace_ite (pace_connAccept _ _ _) <| pace_ite (pace_connError _ _ _) (pace_setConn _ _ _)

theorem pace_takeConn : pace (takeConn s c) = pace s := by
  unfold takeConn
  extract_lets ps src t x m u y v
  have ht : pace t = pace s := (foldl_keeps pace (f := fun s p => connReceive s c p) (fun s p => pace_connReceive s c p) _ _).trans
    (pace_setConn _ _ _)
  have hu : pace u = pace t := pace_ite (pace_setConn _ _ _) rfl
  have hv : pace v = pace u := pace_ite rfl (foldl_keeps pace
    (f := fun s i => wr s (Reg.SAFE_HC_RX (c - 126) i) (word (field y.pdu (4 * i) 4))) (fun s i => pace_congr (wr_safe s _ _)) _ _)
  exact (pace_ite (pace_reopen _ _) rfl).trans (hv.trans (hu.trans ht))

end connections

/-! ### The start of a safety cycle (R396) -/

/-- The island with the times of a safety cycle that starts, before it takes its inputs. -/
def cycleBegun (s : State) : State :=
  let n := if 3 ≤ ringSt s then ceilDiv (s.safe.period * 1000) (cycleNs s) else 0
  let s := setF s Reg.SAFE_CYCLE 31 16 n
  let s := setF s Reg.SAFE_STATUS 31 16 (fld s Reg.SAFE_STATUS 31 16 + 1)
  safeMod s fun f => { f with startRaw := s.raw, startCount := s.cyc.count, since := 0, cycled := true, outDue := true, pduDue := true }

/-- The terms of a safety cycle evaluated on the inputs that it has taken. -/
def termsTaken (s : State) : State := safeMod s fun f => { f with terms := f.terms.map (evalTerm s) }

/-- The rest of a safety cycle behind its terms. -/
def cycleEvaluated (s : State) : State :=
  let s := (safeAxes s).foldl (fun s a => crossCheck (axisPosition s a) a) s
  let s := (s.safe.groups.map (·.1)).foldl evalGroup s
  let s := (safeAxes s).foldl evalAxis s
  let s := (s.safe.outs.map (·.1)).foldl checkOut s
  let s := safeMod s fun f => { f with ackPrev := (ackSources s).filter (termLevel s)
                                       conns := f.conns.map fun c => (c.1, { c.2 with newPdu := false }) }
  showSafe (noteEvaluation s)

theorem cycleStart_eq {s : State} (hi : islandSt s = 1) (hd : startDue s = true) : cycleStart s =
    cycleEvaluated (termsTaken (((cycleBegun s).safe.conns.map (·.1)).foldl takeConn (cycleBegun s))) :=
  if_neg (by rw [hi, hd]; decide)

theorem pace_cycleEvaluated (s : State) : pace (cycleEvaluated s) = pace s := by
  unfold cycleEvaluated
  extract_lets t u v w x
  have ht : pace t = pace s := foldl_keeps pace (f := fun s a => crossCheck (axisPosition s a) a)
    (fun s a => (blind_crossCheck blind_pace _ _).trans (blind_axisPosition blind_pace _ _)) _ _
  have hu : pace u = pace t := foldl_keeps pace (blind_evalGroup blind_pace) _ _
  have hv : pace v = pace u := foldl_keeps pace (blind_evalAxis blind_pace) _ _
  have hw : pace w = pace v := foldl_keeps pace (blind_checkOut blind_pace) _ _
  have hx : pace x = pace w := rfl
  rw [pace_congr (showSafe_safe _), noteEvaluation, pace_congr (wr_safe _ _ _), pace_congr (drawn_safe _), hx, hw, hv, hu, ht]

theorem rd_cycleBegun (s : State) {a : Nat} (h : a ≠ Reg.SAFE_CYCLE) (h2 : a ≠ Reg.SAFE_STATUS) : rd (cycleBegun s) a = rd s a :=
  (rd_setF_ne _ _ _ _ h2).trans (rd_setF_ne _ _ _ _ h)

/-- The start of a safety cycle changes nothing that a term is evaluated from (R411). -/
theorem evalTerm_cycleBegun (s : State) (x : DemandTerm) : evalTerm (cycleBegun s) x = evalTerm s x := by
  have hin : islandInputs (cycleBegun s) = islandInputs s := by
    have ht : twinSt (cycleBegun s) = twinSt s := congrArg (wbits · 2 0) (rd_cycleBegun s (by decide) (by decide))
    rw [islandInputs, islandInputs, mirrors, mirrors, ht]
    rfl
  have hdata : ∀ c, connData (cycleBegun s) c = connData s c := fun c => by
    have hc : rd (cycleBegun s) (Reg.SAFE_CONN_STATE c) = rd s (Reg.SAFE_CONN_STATE c) :=
      rd_cycleBegun s (by simp only [Reg.SAFE_CONN_STATE, Reg.SAFE_CYCLE]; omega)
        (by simp only [Reg.SAFE_CONN_STATE, Reg.SAFE_STATUS]; omega)
    rw [connData, connData, connSt, fld, hc]
    rfl
  have hlevel : ∀ t, termLevel (cycleBegun s) t = termLevel s t := fun t => by
    simp only [termLevel, hin, hdata]
  have hdual : ∀ t, dualChannels (cycleBegun s) t = dualChannels s t := fun t => by simp only [dualChannels, hin]
  unfold evalTerm
  rw [hdual, hlevel]
  rfl

theorem pace_cycleStart {s : State} (hi : islandSt s = 1) (hd : startDue s = true) :
    ∃ ts, pace (cycleStart s) = (s.raw, s.cyc.count, 0, true, true, ts) ∧
      (s.safe.conns = [] → ts = s.safe.terms.map (evalTerm s)) := by
  obtain ⟨u, hu⟩ : ∃ u, ((cycleBegun s).safe.conns.map (·.1)).foldl takeConn (cycleBegun s) = u := ⟨_, rfl⟩
  have hp : pace u = pace (cycleBegun s) := hu ▸ foldl_keeps pace pace_takeConn _ _
  have hterms : u.safe.terms = s.safe.terms := congrArg (·.2.2.2.2.2) hp
  refine ⟨u.safe.terms.map (evalTerm u), ?_, fun hc => ?_⟩
  · rw [cycleStart_eq hi hd, hu, pace_cycleEvaluated]
    have hr : u.safe.startRaw = s.raw := congrArg (·.1) hp
    have hcnt : u.safe.startCount = s.cyc.count := congrArg (·.2.1) hp
    have hs : u.safe.since = 0 := congrArg (·.2.2.1) hp
    have ho : u.safe.outDue = true := congrArg (·.2.2.2.1) hp
    have hpd : u.safe.pduDue = true := congrArg (·.2.2.2.2.1) hp
    rw [← hr, ← hcnt, ← hs]
    refine Eq.trans ?_ (congrArg (fun b => (_, _, _, b, true, _)) ho)
    refine Eq.trans ?_ (congrArg (fun b => (_, _, _, _, b, _)) hpd)
    rfl
  · have hb : u = cycleBegun s := by
      rw [← hu]
      have hnone : (cycleBegun s).safe.conns = [] := hc
      rw [hnone]
      rfl
    rw [hterms, hb]
    exact List.map_congr_left fun x _ => evalTerm_cycleBegun s x

theorem completes_safetyCycleStart {s : State} (h : Awake s) (hi : islandSt s = 1) (hd : startDue s = true) :
    Completes .safetyCycleStart s fun t => t.safe.startRaw = s.raw ∧ t.safe.startCount = s.cyc.count ∧
      t.safe.since = 0 ∧ t.safe.outDue = true ∧ t.safe.pduDue = true ∧
      (s.safe.conns = [] → t.safe.terms = s.safe.terms.map (evalTerm s)) ∧ t.mem = s.mem := by
  obtain ⟨ts, hp, hts⟩ := pace_cycleStart hi hd
  exact completes_quiet_eq rfl h rfl ⟨congrArg (·.1) hp, congrArg (·.2.1) hp, congrArg (·.2.2.1) hp, congrArg (·.2.2.2.1) hp,
    congrArg (·.2.2.2.2.1) hp, fun hc => (congrArg (·.2.2.2.2.2) hp).trans (hts hc), rfl⟩

/-! ### The output instant (R396) -/

/-- The groups and the outputs at the output instant. -/
def outputsDriven (s : State) : State :=
  let s := (s.safe.groups.map (·.1)).foldl switchGroup s
  (s.safe.outs.map (·.1)).foldl driveOut s

theorem outputInstant_eq {s : State} (hi : islandSt s = 1) (ho : s.safe.outDue = true) (ht : sEff s ≤ sinceStart s * 2) :
    outputInstant s = showSafe (outputsDriven (safeMod s fun f => { f with outDue := false })) :=
  if_neg (by rw [hi, ho]; simpa using ht)

theorem blind_outputsDriven {β : Type} {g : State → β} (hg : IslandBlind g) (s : State) : g (outputsDriven s) = g s := by
  unfold outputsDriven
  extract_lets t
  have ht : g t = g s := foldl_keeps g (blind_switchGroup hg) _ _
  rw [foldl_keeps g (blind_driveOut hg), ht]

/-- Without groups and axes an output is switched off (R415-R417). -/
theorem driveOut_idle {s : State} (hg : s.safe.groups = []) (ha : s.safe.axes = []) (k : Nat) :
    (driveOut s k).safe.groups = [] ∧ (driveOut s k).safe.axes = [] ∧ (safeOut (driveOut s k) k).on = false ∧
      ∀ j, j ≠ k → safeOut (driveOut s k) j = safeOut s j := by
  have hgs : outGroups s k = [] := by rw [outGroups, hg]; rfl
  have hbs : outBrakes s k = [] := by rw [outBrakes, ha]; rfl
  unfold driveOut
  extract_lets x gs bs want t
  have hw : want = false := by
    unfold want gs bs
    rw [hgs, hbs]
    rfl
  rw [hw, if_neg (by simp)]
  cases hon : x.on
  · rw [if_neg (by decide)]
    exact ⟨hg, ha, hon, fun _ _ => rfl⟩
  · rw [if_pos (by decide)]
    refine ⟨hg, ha, ?_, fun j hj => ?_⟩
    · rw [safeOut_of_safe (fioMod_safe _ _), safeOut_setSafeOut]
    · exact (safeOut_of_safe (fioMod_safe _ _) j).trans (tget_tput_ne _ _ _ hj)

/-- Driving a list of outputs without groups and axes leaves each of them off, and off what was off. -/
theorem driveOuts_idle (l : List Nat) {s : State} (hg : s.safe.groups = []) (ha : s.safe.axes = []) (j : Nat)
    (hj : j ∈ l ∨ (safeOut s j).on = false) : (safeOut (l.foldl driveOut s) j).on = false := by
  induction l generalizing s with
  | nil => exact hj.resolve_left (by simp)
  | cons k l ih =>
    obtain ⟨hg', ha', hk, hne⟩ := driveOut_idle hg ha k
    refine ih hg' ha' ?_
    by_cases h : j = k
    · exact .inr (h ▸ hk)
    · rw [hne j h]
      exact hj.imp_left fun hm => (List.mem_cons.mp hm).resolve_left h

/-- A table holds nothing for a key that it does not list. -/
theorem tget_of_not_mem {α : Type} (d : Nat → α) (t : Table α) (k : Nat) (h : k ∉ t.map (·.1)) : tget d t k = d k := by
  induction t with
  | nil => rfl
  | cons e t ih =>
    rw [List.map_cons, List.mem_cons, not_or] at h
    exact (if_neg (by simpa using fun he : e.1 = k => h.1 he.symm)).trans (ih h.2)

theorem outputsDriven_idle {s : State} (hg : s.safe.groups = []) (ha : s.safe.axes = []) (k : Nat) :
    (safeOut (outputsDriven s) k).on = false := by
  unfold outputsDriven
  rw [hg]
  refine driveOuts_idle _ hg ha k ?_
  by_cases hm : k ∈ s.safe.outs.map (·.1)
  · exact .inl hm
  · exact .inr (congrArg SafeOut.on (tget_of_not_mem (fun _ => ({} : SafeOut)) s.safe.outs k hm))

theorem completes_safetyOutputInstant {s : State} (h : Awake s) (hi : islandSt s = 1) (ho : s.safe.outDue = true)
    (ht : sEff s ≤ sinceStart s * 2) : Completes .safetyOutputInstant s fun t => t.safe.outDue = false ∧
      t.safe.conns = s.safe.conns ∧ t.safe.terms = s.safe.terms ∧
      (s.safe.groups = [] → s.safe.axes = [] → ∀ k, (safeOut t k).on = false) ∧ t.mem = s.mem := by
  obtain ⟨u, hu⟩ : ∃ u, outputsDriven (safeMod s fun f => { f with outDue := false }) = u := ⟨_, rfl⟩
  have he := outputInstant_eq hi ho ht
  have hpace : pace u = _ := hu ▸ blind_outputsDriven blind_pace _
  have hconns : u.safe.conns = s.safe.conns := hu ▸ blind_outputsDriven blind_conns _
  have hsafe : (outputInstant s).safe = u.safe := by rw [he, hu, showSafe_safe]
  refine completes_quiet_eq rfl h rfl ⟨?_, ?_, ?_, fun hg ha k => ?_, rfl⟩
  · exact (congrArg Safe.outDue hsafe).trans (congrArg (·.2.2.2.1) hpace)
  · exact (congrArg Safe.conns hsafe).trans hconns
  · exact (congrArg Safe.terms hsafe).trans (congrArg (·.2.2.2.2.2) hpace)
  · have hidle := outputsDriven_idle (s := safeMod s fun f => { f with outDue := false }) hg ha k
    rw [hu] at hidle
    exact (congrArg SafeOut.on (safeOut_of_safe hsafe k)).trans hidle

/-! ### The outbound PDUs (R396, R401, R404) -/

theorem pace_issuePdu (s : State) (c : Nat) : pace (issuePdu s c) = pace s := by
  unfold issuePdu
  extract_lets x st host live t flags seq p src u
  have ht : pace t = pace s := pace_ite (pace_congr (drawn_safe s)) rfl
  have hu : pace u = pace s := (pace_congr (wr_safe _ _ _)).trans ht
  exact pace_ite rfl (pace_ite (pace_ite ((pace_congr (emit_safe _ _)).trans hu) hu) ((pace_congr (ringMod_safe _ _)).trans hu))

theorem pduIssue_eq {s : State} (hi : islandSt s = 1) (hp : s.safe.pduDue = true) (ha : atInstant s = true)
    (ht : sEff s ≤ sinceStart s * 2) :
    pduIssue s = (s.safe.conns.map (·.1)).foldl issuePdu (safeMod s fun f => { f with pduDue := false }) :=
  if_neg (by rw [hi, hp, ha]; simpa using ht)

/-- The PDU of a ring connection in RUN goes to its place in the next shuttle (R401, R404). -/
theorem issuePdu_run {s : State} {c : Nat} (hc : c < 126) (hn : (conn s c).named = true) (ho : (conn s c).off = false)
    (hr : connSt s c = 2) :
    tget (fun _ => []) (issuePdu s c).ring.pdus (c + 1) =
        makePdu (conn s c).ident (driveData s c) (fld s (Reg.SAFE_CONN_TXSEQ c) 15 0 % 65535 + 1) 0 ∧
      rd (issuePdu s c) (Reg.SAFE_CONN_TXSEQ c) = word (fld s (Reg.SAFE_CONN_TXSEQ c) 15 0 % 65535 + 1) := by
  have hhost : ¬ 126 ≤ c := by omega
  unfold issuePdu
  extract_lets x st host live t flags seq p src u
  have hst : st = 2 := hr
  have ht : t = s := if_neg (by simp [host, hhost])
  have hseq : seq = fld s (Reg.SAFE_CONN_TXSEQ c) 15 0 % 65535 + 1 := by
    unfold seq
    rw [ht]
  have hflags : flags = 0 := by
    unfold flags
    rw [hst]
    rfl
  have hlive : live = driveData s c := if_neg hhost
  have hp : p = makePdu (conn s c).ident (driveData s c) seq 0 := by
    unfold p
    rw [hflags, hst, hlive]
    rfl
  rw [if_neg (by rw [hst]; simp [x, hn, ho]), if_neg hhost, ← hseq]
  exact ⟨(tget_tput_same (fun _ => []) u.ring.pdus (c + 1) p).trans hp, rd_wr_same _ _ _⟩

theorem completes_pduIssue {s : State} (h : Awake s) (hi : islandSt s = 1) (hp : s.safe.pduDue = true) (ha : atInstant s = true)
    (ht : sEff s ≤ sinceStart s * 2) : Completes .pduIssue s fun t => t.safe.pduDue = false ∧ t.mem = s.mem ∧
      ∀ c x, c < 126 → s.safe.conns = [(c, x)] → x.named = true → x.off = false → connSt s c = 2 →
        tget (fun _ => []) t.ring.pdus (c + 1) =
          makePdu x.ident (driveData s c) (fld s (Reg.SAFE_CONN_TXSEQ c) 15 0 % 65535 + 1) 0 ∧
        rd t (Reg.SAFE_CONN_TXSEQ c) = word (fld s (Reg.SAFE_CONN_TXSEQ c) 15 0 % 65535 + 1) := by
  have he := pduIssue_eq hi hp ha ht
  have hpace : pace (pduIssue s) = _ := (congrArg pace he).trans (foldl_keeps pace pace_issuePdu _ _)
  refine completes_quiet_eq rfl h rfl ⟨congrArg (·.2.2.2.2.1) hpace, rfl, fun c x hc hx hn ho hr => ?_⟩
  obtain ⟨u, hu⟩ : ∃ u, (safeMod s fun f => { f with pduDue := false }) = u := ⟨_, rfl⟩
  have hconn : conn u c = x := by
    rw [← hu]
    exact (congrArg (tget (fun _ => {}) · c) hx).trans (if_pos (beq_self_eq_true c))
  have hst : connSt u c = 2 := hu ▸ hr
  have hdata : driveData u c = driveData s c := hu ▸ rfl
  have hseq : fld u (Reg.SAFE_CONN_TXSEQ c) 15 0 = fld s (Reg.SAFE_CONN_TXSEQ c) 15 0 := hu ▸ rfl
  obtain ⟨hpdu, htx⟩ := issuePdu_run hc (by rw [hconn, hn]) (by rw [hconn, ho]) hst
  have hone : pduIssue s = issuePdu u c := by rw [he, hu, hx]; rfl
  rw [hconn, hdata, hseq, ← hone] at hpdu
  rw [hseq, ← hone] at htx
  exact ⟨hpdu, htx⟩

/-- Settles O35, command by command. -/
theorem safetyCycleCompletes : Obligations.SafetyCycleCompletes := by
  unfold Obligations.SafetyCycleCompletes
  intro s h hi
  exact ⟨completes_safetyCycleStart h hi, completes_safetyOutputInstant h hi, completes_pduIssue h hi⟩

end Sys2Proof.Machine

/-! ## Protected changes and debug sessions (R507-R509) -/

namespace Sys2Proof.Machine

/-! ### Protected changes (R507, R508) -/

/-- A request that is shown with its result and told by an event. -/
theorem protShown (s : State) (st kind n : Nat) : let t := event (showProt s st kind) SEC n kind
    t.sec = s.sec ∧ rd t Reg.SEC_PROT_STATUS = word (st + kind % 4 * 16) := by
  refine ⟨(event_sec _ _ _ _ _).trans (wr_sec _ _ _), ?_⟩
  rw [rd_event _ _ _ _ _ (by decide)]
  exact rd_wr_same _ _ _

section protection
variable {s : State} (h : Awake s)
include h

theorem completes_localConfirmation {p : ProtReq} {i hold r : Nat} (hp : protNow s = some p) (hl : s.sec.localInput = some (i, hold))
    (hr : s.sec.localSince = some r) (ht : hold * 1000000000 ≤ s.raw - r) (hq : p.raw ≤ s.raw - hold * 1000000000) :
    Completes .localConfirmation s fun t => t.sec = { s.sec with prot := none, agreed := some (p.kind, p.object) } ∧
      rd t Reg.SEC_PROT_STATUS = word (2 + p.kind % 4 * 16) ∧ t.mem = s.mem := by
  have he : localConfirm s = protApply s p := by
    unfold localConfirm
    rw [hp, hl, hr]
    exact if_pos (by simp [ht, hq])
  obtain ⟨hsec, hst⟩ := protShown (secMod s fun x => { x with prot := none, agreed := some (p.kind, p.object) }) 2 p.kind 14
  exact completes_quiet_eq rfl h he ⟨hsec, hst, rfl⟩

theorem completes_protectionExpiry {p : ProtReq} (hp : s.sec.prot = some p) (ht : p.expiry * 1000000000 ≤ s.raw - p.raw) :
    Completes .protectionExpiry s fun t =>
      t.sec = { s.sec with prot := none } ∧ rd t Reg.SEC_PROT_STATUS = word (4 + p.kind % 4 * 16) := by
  have he : protExpiry s = event (showProt (secMod s fun x => { x with prot := none }) 4 p.kind) SEC 15 p.kind := by
    unfold protExpiry
    rw [hp]
    exact if_pos ht
  obtain ⟨hsec, hst⟩ := protShown (secMod s fun x => { x with prot := none }) 4 p.kind 15
  exact completes_quiet_eq rfl h he ⟨hsec, hst⟩

end protection

/-! ### Debug sessions (R509) -/

/-- A session of level 1 as it opens, before its event. -/
def sessionOpened (s : State) (level minutes : Nat) : State :=
  let s := { s with pwr := { s.pwr with debugLevel := level } }
  let s := secMod s fun x => { x with debugEnd := s.raw + minutes * 60000000000 }
  setF (setF s Reg.SEC_STATUS 17 16 level) Reg.SEC_DEBUG_STATUS 1 0 level

theorem maintHeld_keeps_of {β : Type} (g : State → β) (hf : ∀ s a hi lo v, g (setF s a hi lo v) = g s)
    (hb : ∀ s a i b, g (setBit s a i b) = g s) (s : State) (act : Nat) : g (maintHeld s act) = g s := by rw [maintHeld, hf, hb, hf]

theorem debugSession_granted {s : State} {level minutes : Nat} (hc : ∀ h ∈ holders s, compat 8 h = true) :
    debugSession s level minutes = event (sessionOpened (maintHeld s 8) level minutes) SEC 16 level := by
  unfold debugSession
  rw [maintReq_granted (by decide) (List.all_eq_true.mpr hc)]
  rfl

theorem sessionOpened_pwr (s : State) (level minutes : Nat) :
    (sessionOpened s level minutes).pwr = { s.pwr with debugLevel := level } := rfl

theorem sessionOpened_sec (s : State) (level minutes : Nat) :
    (sessionOpened s level minutes).sec = { s.sec with debugEnd := s.raw + minutes * 60000000000 } := rfl

theorem rd_sessionOpened_ne (s : State) (level minutes : Nat) {a : Nat} (h : a ≠ Reg.SEC_STATUS) (h2 : a ≠ Reg.SEC_DEBUG_STATUS) :
    rd (sessionOpened s level minutes) a = rd s a := (rd_setF_ne _ _ _ _ h2).trans (rd_setF_ne _ _ _ _ h)

theorem level_sessionOpened (s : State) (level minutes : Nat) : fld (sessionOpened s level minutes) Reg.SEC_STATUS 17 16 = level % 4 :=
  (congrArg (wbits · 17 16) (rd_setF_ne _ _ _ _ (by decide))).trans (fld_setF _ _ _ _ _ (by decide) (by decide))

section level1
variable {s : State} (h : Awake s) {q : DebugReq} {k : Config.KeyArea} (hk : keysInForce s = some k) (hl : q.level.val = 1)
  (h1 : k.l1 = true) (ho : s.sec.lockout = false) (hm : 1 ≤ q.minutes.toNat) (hx : q.minutes.toNat ≤ k.maxMinutes)
include hk hl h1 ho hm hx

/-- An open of level 1 that the key area allows turns on the password (R509). -/
theorem debugOpen_level1 : debugOpen s q =
    if Config.sha256 (leBytes 8 (serial s) ++ q.password) != k.passHash then wrongPassword s else debugSession s 1 q.minutes.toNat := by
  unfold debugOpen
  rw [hk]
  dsimp only
  rw [hl, if_pos (by decide), if_neg (by simp [h1, ho, hm, hx])]

include h

theorem completes_debugOpen (hp : Config.sha256 (leBytes 8 (serial s) ++ q.password) = k.passHash)
    (hc : ∀ h ∈ holders s, compat 8 h = true) : Completes (.debugOpen q) s fun t => t.pwr.debugLevel = 1 ∧
      t.sec = { s.sec with debugEnd := s.raw + q.minutes.toNat * 60000000000 } ∧ fld t Reg.SEC_STATUS 17 16 = 1 ∧
      fbit t Reg.FPM_MAINT_STATUS 8 = true ∧ t.mem = s.mem := by
  have he : debugOpen s q = event (sessionOpened (maintHeld s 8) 1 q.minutes.toNat) SEC 16 1 := by
    rw [debugOpen_level1 hk hl h1 ho hm hx, if_neg (by simpa using hp), debugSession_granted hc]
  have hpwr := sessionOpened_pwr (maintHeld s 8) 1 q.minutes.toNat
  have hsec := sessionOpened_sec (maintHeld s 8) 1 q.minutes.toNat
  have hlevel := level_sessionOpened (maintHeld s 8) 1 q.minutes.toNat
  have htok := rd_sessionOpened_ne (maintHeld s 8) 1 q.minutes.toNat (a := Reg.FPM_MAINT_STATUS) (by decide) (by decide)
  refine completes_quiet_eq rfl h he ⟨?_, ?_, ?_, ?_, rfl⟩
  · dsimp only
    rw [event_pwr, hpwr]
  · dsimp only
    rw [event_sec, hsec, maintHeld_keeps_of State.sec setF_sec setBit_sec, maintHeld_keeps_of State.raw setF_raw setBit_raw]
  · rw [fld_frame, fld_event _ _ _ _ _ _ _ (by decide), hlevel]
  · rw [fbit_frame, fbit_event _ _ _ _ _ _ (by decide), fbit, htok]
    exact fbit_maintHeld s (by decide)

theorem completes_debugOpen_wrong (hp : Config.sha256 (leBytes 8 (serial s) ++ q.password) ≠ k.passHash) :
    Completes (.debugOpen q) s fun t => t.pwr = s.pwr ∧
      fld t Reg.SEC_DEBUG_STATUS 11 4 = min (fld s Reg.SEC_DEBUG_STATUS 11 4 + 1) 255 ∧
      t.sec.lockout = (fld s Reg.SEC_DEBUG_STATUS 11 4 == 4) := by
  have he : debugOpen s q = wrongPassword s := by rw [debugOpen_level1 hk hl h1 ho hm hx, if_pos (by simpa using hp)]
  obtain ⟨u, hu⟩ : ∃ u, debugRefuse (setF s Reg.SEC_DEBUG_STATUS 11 4 (min (fld s Reg.SEC_DEBUG_STATUS 11 4 + 1) 255)) 1 = u := ⟨_, rfl⟩
  have hpwr : u.pwr = s.pwr := hu ▸ event_pwr _ _ _ _ _
  have hsec : u.sec = s.sec := hu ▸ event_sec _ _ _ _ _
  have hcount : fld u Reg.SEC_DEBUG_STATUS 11 4 = min (fld s Reg.SEC_DEBUG_STATUS 11 4 + 1) 255 := by
    rw [← hu, debugRefuse, fld_event _ _ _ _ _ _ _ (by decide), fld_setF _ _ _ _ _ (by decide) (by decide)]
    exact Nat.mod_eq_of_lt (by omega)
  have hw : wrongPassword s = if min (fld s Reg.SEC_DEBUG_STATUS 11 4 + 1) 255 == 5 then
      event (secMod u fun x => { x with lockout := true }) SEC 18 else u := by
    rw [← hu]
    rfl
  by_cases h5 : fld s Reg.SEC_DEBUG_STATUS 11 4 = 4
  · refine completes_quiet_eq rfl h (he.trans (hw.trans (if_pos (by rw [h5]; decide)))) ⟨?_, ?_, ?_⟩
    · dsimp only
      rw [event_pwr]
      exact hpwr
    · rw [fld_frame, fld_event _ _ _ _ _ _ _ (by decide)]
      exact hcount
    · dsimp only
      rw [event_sec, h5]
      rfl
  · refine completes_quiet_eq rfl h (he.trans (hw.trans (if_neg (by simp; omega)))) ⟨hpwr, hcount, ?_⟩
    dsimp only
    rw [hsec, ho]
    simpa using h5

end level1

theorem releaseLocks_keeps {β : Type} (g : State → β) (hl : ∀ s k, g (setLock s k 0) = g s) (he : ∀ s b e o d, g (event s b e o d) = g s)
    (s : State) (id : Nat) : g (releaseLocks s id) = g s :=
  foldl_keeps g (f := fun s k => if lockOwner s k == id then event (setLock s k 0) MBX 3 k id else s)
    (fun s k => by split <;> [rw [he, hl]; rfl]) _ _

theorem rd_releaseLocks (s : State) (id : Nat) {a : Nat} (h : reportReg a = false) : rd (releaseLocks s id) a = rd s a :=
  releaseLocks_keeps (rd · a) (fun _ _ => rfl) (fun _ _ _ _ _ => rd_event _ _ _ _ _ h) s id

/-- The registers of a session that has ended, before its token is given back (R509). -/
def sessionClosed (s : State) : State :=
  let s := { s with pwr := { s.pwr with debugLevel := 0 } }
  setF (setF s Reg.SEC_STATUS 17 16 0) Reg.SEC_DEBUG_STATUS 1 0 0

theorem holders_congr {s t : State} (h : rd t Reg.FPM_MAINT_STATUS = rd s Reg.FPM_MAINT_STATUS) : holders t = holders s :=
  holders_eq_of_bits fun i _ => congrArg (wbit · i) h

theorem completes_debugSessionEnd {s : State} (h : Awake s) (hd : s.pwr.debugLevel ≠ 0) : Completes .debugSessionEnd s fun t =>
    t.pwr = { s.pwr with debugLevel := 0 } ∧ fld t Reg.SEC_STATUS 17 16 = 0 ∧ fld t Reg.SEC_DEBUG_STATUS 1 0 = 0 ∧
      holders t = (holders s).filter (· != 8) ∧ t.mem = s.mem := by
  have he : debugEnd s = releaseLocks (maintRel (sessionClosed s) 8) 0x30 := if_neg (by simpa using hd)
  have hrd : ∀ {a}, reportReg a = false → a ≠ Reg.FPM_MAINT_STATUS → rd (debugEnd s) a = rd (sessionClosed s) a := fun hr hne => by
    rw [he, rd_releaseLocks _ _ hr, rd_maintRel_ne _ _ hne]
  refine completes_quiet_eq rfl h rfl ⟨?_, ?_, ?_, ?_, rfl⟩
  · dsimp only
    rw [he, releaseLocks_keeps State.pwr (fun _ _ => rfl) (fun _ _ _ _ _ => event_pwr _ _ _ _ _)]
    rfl
  · rw [fld_frame, fld, hrd (by decide) (by decide)]
    exact (congrArg (wbits · 17 16) (rd_setF_ne _ _ _ _ (by decide))).trans (fld_setF _ _ _ _ _ (by decide) (by decide))
  · rw [fld_frame, fld, hrd (by decide) (by decide)]
    exact fld_setF _ _ _ _ _ (by decide) (by decide)
  · have hrel : holders (debugEnd s) = (holders s).filter (· != 8) := by
      rw [he, holders_congr (rd_releaseLocks _ _ (by decide)), holders_maintRel _ (by decide)]
      exact congrArg (List.filter _) (holders_congr ((rd_setF_ne _ _ _ _ (by decide)).trans (rd_setF_ne _ _ _ _ (by decide))))
    exact hrel

/-- Settles O50, command by command. -/
theorem protectionCommandsComplete : Obligations.ProtectionCommandsComplete := by
  unfold Obligations.ProtectionCommandsComplete
  intro s h
  exact ⟨fun _ _ _ _ => completes_localConfirmation h, fun _ => completes_protectionExpiry h, fun _ _ => completes_debugOpen h,
    fun _ _ => completes_debugOpen_wrong h, completes_debugSessionEnd h⟩

end Sys2Proof.Machine

/-! ## The boot descriptor, the release of a reset and SEC_CTRL (R481-R489, R505, R512) -/

namespace Sys2Proof.Machine

/-! ### The boot descriptor (R489) -/

theorem length_digestOf (h : BitVec 256) : (digestOf h).length = 32 := by
  rw [digestOf, beBytes, List.length_reverse, length_leBytes]

theorem length_descBytes {d : Desc} (h : d.hash.length = 32) : d.bytes.length = 64 := by
  simp [Desc.bytes, length_leBytes, h, zeros]

theorem length_hash_descAt {s : State} {copy : Nat} {d : Desc} (h : descAt s copy = some d) : d.hash.length = 32 := by
  unfold descAt at h
  dsimp only at h
  split at h
  · obtain rfl := Option.some.inj h
    exact List.length_take.trans (by rw [List.length_drop, readMem, length_reads]; decide)
  · exact absurd h (by simp)

theorem length_hash_descNow (s : State) : (descNow s).1.hash.length = 32 := by
  unfold descNow
  split
  · next h0 h1 =>
    split
    · exact length_hash_descAt h1
    · exact length_hash_descAt h0
  · next h0 _ => exact length_hash_descAt h0
  · next _ h1 => exact length_hash_descAt h1
  · rfl

theorem descNow_congr {s t : State} (h : t.mem = s.mem) : descNow t = descNow s := by
  have hat : ∀ c, descAt t c = descAt s c := fun c => by rw [descAt, descAt, readMem, readMem, h]
  rw [descNow, descNow, hat, hat]

theorem readMem_writeMem (s : State) (r : Region) (a : Nat) {n : Nat} {bs : List Byte} (h : bs.length = n) :
    readMem (writeMem s r a bs) r a n = bs := by
  subst h
  exact reads_writes s.mem r a bs

/-- The descriptor that is written stands in the copy that did not hold the newer one (R489). -/
theorem readMem_writeDesc (s : State) {d : Desc} (h : d.hash.length = 32) :
    readMem (writeDesc s d) .nvm (0x1000 * (1 - (descNow s).2)) 64 = { d with seq := ((descNow s).1.seq + 1) % 2 ^ 32 : Desc }.bytes :=
  readMem_writeMem s .nvm _ (length_descBytes (d := { d with seq := ((descNow s).1.seq + 1) % 2 ^ 32 }) h)

theorem readMem_congr {s t : State} (h : t.mem = s.mem) (r : Region) (a n : Nat) : readMem t r a n = readMem s r a n := by
  rw [readMem, h, readMem]

/-! ### What booting keeps (R481-R485) -/

/-- A property of the state that the choice of a slot to boot keeps. -/
structure BootKeeps (P : State → Prop) : Prop where
  event : ∀ s b e o d, P s → P (event s b e o d)
  status : ∀ s hi lo v, P s → P (setF s Reg.SEC_STATUS hi lo v)
  keys : ∀ s k, P s → P (secMod s fun x => { x with keys := k })
  health : ∀ s n, P s → P (secMod s fun x => { x with healthS := n })
  agreed : ∀ s, P s → P (secMod s fun x => { x with agreed := none })
  store : ∀ s a bs, P s → P (writeMem s .nvm a bs)
  txdis : ∀ s x, P s → P { s with pwr := { s.pwr with txdis := x } }
  out : ∀ s x, P s → P (emit s x)

section boot
variable {P : State → Prop} (hP : BootKeeps P) {s : State}
include hP

omit hP in
theorem boot_ite {c : Prop} [Decidable c] {t u : State} (ht : P t) (hu : P u) : P (if c then t else u) := by
  split <;> assumption

theorem boot_showBoot (st slot area : Nat) (trial : Bool) (h : P s) : P (showBoot s st slot area trial) :=
  hP.status _ _ _ _ (hP.status _ _ _ _ (hP.status _ _ _ _ (hP.status _ _ _ _ h)))

theorem boot_bootSlot (slot area : Nat) (trial : Bool) (h : P s) : P (bootSlot s slot area trial) := by
  unfold bootSlot
  extract_lets t u
  have ht : P t := boot_ite (hP.event _ _ _ _ _ h) h
  have hu : P u := boot_ite (hP.agreed _ ht) ht
  exact boot_ite (boot_showBoot hP _ _ _ _ ht) <| boot_ite
    (hP.event _ _ _ _ _ (hP.event _ _ _ _ _ (boot_showBoot hP _ _ _ _ hu))) (hP.event _ _ _ _ _ (boot_showBoot hP _ _ _ _ ht))

theorem boot_chooseSlot (h : P s) : P (chooseSlot s) := by
  unfold chooseSlot
  extract_lets d t
  exact boot_ite (boot_bootSlot hP _ _ _ (hP.event _ _ _ _ _ (hP.store _ _ _ (hP.agreed _ h)))) <| boot_ite
    (boot_bootSlot hP _ _ _ (hP.store _ _ _ (hP.health _ _ h))) (boot_bootSlot hP _ _ _ h)

theorem boot_driveTxdis (h : P s) : P (driveTxdis s) := by
  rw [driveTxdis_steps]
  refine List.foldlRecOn (motive := P) _ _ h fun t ht p _ => ?_
  unfold driveTx
  extract_lets
  exact boot_ite ht (hP.out _ _ (hP.txdis _ _ ht))

end boot

/-! ### The release of a held head (R481-R485) -/

/-- Reset is cold, so that archive memory is lost: power-on and long reset (R481). -/
def coldCause (cause : Nat) : Bool := cause == 1 || cause == 3

/-- BOOTSEL asks for the factory mode and the fuses allow it (R511). -/
def factoryMode (s : State) (bootSel : Nat) : Bool := bootSel == 3 && s.sec.fuseFactory && !s.sec.fuseLock

/-- A head released with its time, its pins and its reset log, before its registers show them. -/
def released (s : State) (cause duration aon bootSel rankPins : Nat) : State :=
  let cold := coldCause cause
  let s := if cold then { s with mem := { s.mem with arch := [] } } else s
  let s := { s with raw := 0, ring := { s.ring with rankPins := rankPins }, fio := { s.fio with downRaw := 0, latchRaw := [] } }
  let factory := factoryMode s bootSel
  let s := logReset s cause cold duration aon
  { s with
    pwr := { s.pwr with factory := factory, bad := if cause == 1 then s.pwr.bad.filter (11 ≤ ·) else s.pwr.bad }
    sec := { s.sec with inReset := false, longReset := false, powerFell := false, bootSel := bootSel,
                        lockout := s.sec.lockout && !cold, aonS := aon + duration / 1000 } }

/-- The registers of a released head, down to the reset cause (R482, R512). -/
def releaseShown (s : State) (cause duration bootSel : Nat) : State :=
  let factory := factoryMode s bootSel
  let s := wr s Reg.PROF_RET_STATUS (if s.sec.retLost then 2 else 1)
  let s := hostDefaults (showFuses (secMod s fun x => { x with retLost := false }))
  let s := setBit (setBit s Reg.FPM_STATUS 2 factory) Reg.FPM_STATUS 3 s.sec.fuseLock
  wr (wr s Reg.SEC_RESET_INFO (word (cause + 16 * flag (coldCause cause) + 32 * flag (cause == 3)))) Reg.SEC_RESET_DUR (word duration)

/-- The boot of a head whose registers show its reset (R483-R485). -/
def releaseBoots (s : State) (cause bootSel : Nat) (factory : Bool) : State :=
  let s := if cause == 3 then event s SEC 0 else s
  let mode := if bootSel == 1 || factory then bootSel else 0
  let s := setF s Reg.SEC_STATUS 9 8 mode
  let s := if bootSel == 2 || (bootSel == 3 && !factory) then event s SEC 3 bootSel else s
  let s := loadKeys s
  driveTxdis (if mode == 1 then showBoot s 5 0 0 false else chooseSlot s)

theorem release_eq (s : State) (cause duration aon bootSel rankPins : Nat) : ∃ factory, release s cause duration aon bootSel rankPins =
    releaseBoots (releaseShown (released s cause duration aon bootSel rankPins) cause duration bootSel) cause bootSel factory :=
  ⟨_, rfl⟩

/-- What booting keeps of a head whose registers show its reset, its release keeps. -/
theorem release_keeps {P : State → Prop} (hP : BootKeeps P) {s : State} {cause duration aon bootSel rankPins : Nat}
    (h : P (releaseShown (released s cause duration aon bootSel rankPins) cause duration bootSel)) :
    P (release s cause duration aon bootSel rankPins) := by
  obtain ⟨factory, he⟩ := release_eq s cause duration aon bootSel rankPins
  rw [he]
  unfold releaseBoots
  extract_lets t mode u v w
  have ht : P t := boot_ite (hP.event _ _ _ _ _ h) h
  have hv : P v := boot_ite (hP.event _ _ _ _ _ (hP.status _ _ _ _ ht)) (hP.status _ _ _ _ ht)
  have hw : P w := hP.keys _ _ hv
  exact boot_driveTxdis hP (boot_ite (boot_showBoot hP _ _ _ _ hw) (boot_chooseSlot hP hw))

theorem hostDefaults_keeps {β : Type} (g : State → β) (hwr : ∀ s a v, g (wr s a v) = g s) (s : State) : g (hostDefaults s) = g s := by
  unfold hostDefaults
  dsimp only
  rw [setF, hwr, setF, hwr, hwr, hwr, hwr, hwr]

theorem showFuses_keeps {β : Type} (g : State → β) (hwr : ∀ s a v, g (wr s a v) = g s) (s : State) : g (showFuses s) = g s := by
  unfold showFuses
  dsimp only
  rw [foldl_keeps g fun _ _ => hwr _ _ _, hwr, wr64, hwr, hwr]

theorem releaseShown_keeps {β : Type} (g : State → β) (hwr : ∀ s a v, g (wr s a v) = g s)
    (hret : ∀ s, g (secMod s fun x => { x with retLost := false }) = g s) (s : State) (cause duration bootSel : Nat) :
    g (releaseShown s cause duration bootSel) = g s := by
  unfold releaseShown
  dsimp only
  rw [hwr, hwr, setBit, setF, hwr, setBit, setF, hwr, hostDefaults_keeps g hwr, showFuses_keeps g hwr, hret, hwr]

theorem info_releaseShown (s : State) (cause duration bootSel : Nat) : rd (releaseShown s cause duration bootSel) Reg.SEC_RESET_INFO =
    word (cause + 16 * flag (coldCause cause) + 32 * flag (cause == 3)) :=
  (rd_wr_ne _ _ (by decide)).trans (rd_wr_same _ _ _)

theorem duration_releaseShown (s : State) (cause duration bootSel : Nat) :
    rd (releaseShown s cause duration bootSel) Reg.SEC_RESET_DUR = word duration := rd_wr_same _ _ _

/-- Booting keeps every register but the boot state and the reports of events. -/
theorem bootKeeps_rd {a : Nat} (h : reportReg a = false) (h2 : a ≠ Reg.SEC_STATUS) (v : Word) : BootKeeps fun t => rd t a = v where
  event _ _ _ _ _ ht := (rd_event _ _ _ _ _ h).trans ht
  status _ _ _ _ ht := (rd_setF_ne _ _ _ _ h2).trans ht
  keys _ _ ht := ht
  health _ _ ht := ht
  agreed _ ht := ht
  store _ _ _ ht := ht
  txdis _ _ ht := ht
  out _ _ ht := ht

/-- A view that reads neither registers, output and store nor what the release writes of the start-up record. -/
structure BootView {β : Type} (g : State → β) : Prop where
  event : ∀ s b e o d, g (event s b e o d) = g s
  wr : ∀ s a v, g (wr s a v) = g s
  keys : ∀ s k, g (secMod s fun x => { x with keys := k }) = g s
  health : ∀ s n, g (secMod s fun x => { x with healthS := n }) = g s
  agreed : ∀ s, g (secMod s fun x => { x with agreed := none }) = g s
  ret : ∀ s, g (secMod s fun x => { x with retLost := false }) = g s
  store : ∀ s a bs, g (writeMem s .nvm a bs) = g s
  txdis : ∀ s x, g { s with pwr := { s.pwr with txdis := x } } = g s
  out : ∀ s x, g (emit s x) = g s

theorem bootKeeps_view {β : Type} {g : State → β} (hg : BootView g) (v : β) : BootKeeps fun t => g t = v where
  event _ _ _ _ _ ht := (hg.event _ _ _ _ _).trans ht
  status _ _ _ _ ht := (hg.wr _ _ _).trans ht
  keys _ _ ht := (hg.keys _ _).trans ht
  health _ _ ht := (hg.health _ _).trans ht
  agreed _ ht := (hg.agreed _).trans ht
  store _ _ _ ht := (hg.store _ _ _).trans ht
  txdis _ _ ht := (hg.txdis _ _).trans ht
  out _ _ ht := (hg.out _ _).trans ht

theorem bootView_raw : BootView State.raw where
  event := event_raw
  wr _ _ _ := rfl
  keys _ _ := rfl
  health _ _ := rfl
  agreed _ := rfl
  ret _ := rfl
  store _ _ _ := rfl
  txdis _ _ := rfl
  out _ _ := rfl

theorem bootView_axes : BootView fun s => s.prof.axes where
  event s b e o d := Eq.trans (congrArg Prof.axes (only_event s b e o d).axes) rfl
  wr _ _ _ := rfl
  keys _ _ := rfl
  health _ _ := rfl
  agreed _ := rfl
  ret _ := rfl
  store _ _ _ := rfl
  txdis _ _ := rfl
  out _ _ := rfl

/-- What the release sets of the start-up record and no boot changes. -/
def bootRecord (x : Sec) : Bool × Nat × Bool × Bool × Option Word := (x.inReset, x.bootSel, x.lockout, x.powerFell, x.actCycle)

theorem bootView_record : BootView fun s => bootRecord s.sec where
  event _ _ _ _ _ := congrArg bootRecord (event_sec _ _ _ _ _)
  wr _ _ _ := rfl
  keys _ _ := rfl
  health _ _ := rfl
  agreed _ := rfl
  ret _ := rfl
  store _ _ _ := rfl
  txdis _ _ := rfl
  out _ _ := rfl

section released
variable (s : State) (cause duration aon bootSel rankPins : Nat)

theorem info_release : rd (release s cause duration aon bootSel rankPins) Reg.SEC_RESET_INFO =
    word (cause + 16 * flag (coldCause cause) + 32 * flag (cause == 3)) :=
  release_keeps (bootKeeps_rd (by decide) (by decide) _) (info_releaseShown _ _ _ _)

theorem duration_release : rd (release s cause duration aon bootSel rankPins) Reg.SEC_RESET_DUR = word duration :=
  release_keeps (bootKeeps_rd (by decide) (by decide) _) (duration_releaseShown _ _ _ _)

theorem view_release {β : Type} {g : State → β} (hg : BootView g) :
    g (release s cause duration aon bootSel rankPins) = g (released s cause duration aon bootSel rankPins) :=
  release_keeps (bootKeeps_view hg _) (releaseShown_keeps g hg.wr hg.ret _ _ _ _)

theorem raw_release : (release s cause duration aon bootSel rankPins).raw = 0 := view_release _ _ _ _ _ _ bootView_raw

theorem record_release : bootRecord (release s cause duration aon bootSel rankPins).sec =
    (false, bootSel, (released s cause duration aon bootSel rankPins).sec.lockout, false,
      (released s cause duration aon bootSel rankPins).sec.actCycle) := view_release _ _ _ _ _ _ bootView_record

end released

/-! ### Writes of SEC_CTRL (R505, R507, R512) -/

section control
variable {s : State} {port : Port}

theorem hostWrite_secCtrl {v : Word} (h : Reaches s port Reg.SEC_CTRL v) : hostWrite s port Reg.SEC_CTRL v = landSecCtrl s v :=
  (write_reach h (i := 0) (j := 0) rfl (by decide) (by decide)).trans rfl

theorem secDone_shows (s : State) {action result : Nat} (ha : action < 8) (hr : result < 8) :
    fld (secDone s action result) Reg.SEC_CTRL_STATUS 2 0 = action ∧ fld (secDone s action result) Reg.SEC_CTRL_STATUS 5 3 = result := by
  refine ⟨?_, (fld_setF _ _ _ _ _ (by decide) (by decide)).trans (Nat.mod_eq_of_lt hr)⟩
  rw [secDone, fld_setF_ne _ _ _ _ _ _ _ (by decide) (by decide) (by decide), fld_setF _ _ _ _ _ (by decide) (by decide)]
  exact Nat.mod_eq_of_lt ha

theorem completes_confirm (h : Reaches s port Reg.SEC_CTRL 1) : Completes (.confirm port) s fun t =>
    fld t Reg.SEC_CTRL_STATUS 2 0 = 1 ∧ fld t Reg.SEC_CTRL_STATUS 5 3 = (if onTrial s then 1 else 2) ∧
      (onTrial s = true → t.sec.hostConfirmed = true) ∧ (onTrial s = false → t.sec = s.sec) ∧ t.mem = s.mem := by
  have hland : hostWrite s port Reg.SEC_CTRL 1 = secConfirm (okBus s) := (hostWrite_secCtrl h).trans rfl
  have htrial : onTrial (okBus s) = onTrial s := rfl
  cases ht : onTrial s
  · have he : hostWrite s port Reg.SEC_CTRL 1 = secDone (okBus s) 1 2 := hland.trans (if_neg (by rw [htrial, ht]; decide))
    obtain ⟨ha, hr⟩ := secDone_shows (okBus s) (action := 1) (result := 2) (by decide) (by decide)
    exact completes_port_eq (f := fun s => hostWrite s port Reg.SEC_CTRL 1) rfl he ⟨ha, hr, by simp, fun _ => rfl, rfl⟩
  · have he : hostWrite s port Reg.SEC_CTRL 1 = secDone (secMod (okBus s) fun x => { x with hostConfirmed := true }) 1 1 :=
      hland.trans (if_pos (by rw [htrial, ht]))
    obtain ⟨ha, hr⟩ := secDone_shows (secMod (okBus s) fun x => { x with hostConfirmed := true }) (action := 1) (result := 1)
      (by decide) (by decide)
    exact completes_port_eq (f := fun s => hostWrite s port Reg.SEC_CTRL 1) rfl he ⟨ha, hr, fun _ => rfl, by simp, rfl⟩

theorem completes_revert_enabled (h : Reaches s port Reg.SEC_CTRL 2) (he : anyEnabled s = true) :
    Completes (.revert port) s fun t => t.mem = s.mem ∧
      fld t Reg.SEC_CTRL_STATUS 2 0 = 2 ∧ fld t Reg.SEC_CTRL_STATUS 5 3 = 3 := by
  have hland : hostWrite s port Reg.SEC_CTRL 2 = secDone (okBus s) 2 3 :=
    (hostWrite_secCtrl h).trans (show secRevert (okBus s) = _ from if_pos he)
  obtain ⟨ha, hr⟩ := secDone_shows (okBus s) (action := 2) (result := 3) (by decide) (by decide)
  exact completes_run (f := fun s => hostWrite s port Reg.SEC_CTRL 2) rfl hland ⟨rfl, ha, hr⟩

/-- The descriptor that REVERT writes (R505). -/
def revertDesc (s : State) : Desc :=
  { (descNow s).1 with
    trial := true, tried := false, migrate := false, health := fld s Reg.SEC_ACT_CFG 9 0
    hash := digestOf (Config.sha256 (slotManifest s (1 - fld s Reg.SEC_STATUS 4 4))) }

end control

theorem secRevert_taken {s : State} (he : anyEnabled s = false) (hr : ringSt s = 5) (ht : onTrial s = false)
    (hl : epochLow s (slotManifest s (1 - fld s Reg.SEC_STATUS 4 4)) = false) (hc : ∀ h ∈ holders s, compat 1 h = true) :
    secRevert s = secDone (maintRel (writeDesc (maintHeld s 1) (revertDesc s)) 1) 2 1 := by
  have hm : (maintHeld s 1).mem = s.mem := (maintHeld_keeps s 1).2
  have hslot : slotManifest (maintHeld s 1) (1 - fld s Reg.SEC_STATUS 4 4) = slotManifest s (1 - fld s Reg.SEC_STATUS 4 4) := by
    rw [slotManifest, slotManifest, readMem_congr hm, readMem_congr hm]
  have hcfg : fld (maintHeld s 1) Reg.SEC_ACT_CFG 9 0 = fld s Reg.SEC_ACT_CFG 9 0 :=
    congrArg (wbits · 9 0) (rd_maintHeld_ne s 1 (by decide))
  unfold secRevert
  rw [if_neg (by rw [he]; decide), if_neg (by rw [hr, ht]; decide)]
  extract_lets slot q t d m d'
  have hq : q = (true, maintHeld s 1) := maintReq_granted (by decide) (List.all_eq_true.mpr hc)
  have ht : t = maintHeld s 1 := congrArg Prod.snd hq
  have hdesc : d = (descNow s).1 := by
    unfold d
    rw [ht, descNow_congr hm]
  have hbytes : m = slotManifest s (1 - fld s Reg.SEC_STATUS 4 4) := by
    unfold m
    rw [ht, hslot]
  have hfull : { d' with trial := true, tried := false, migrate := false : Desc } = revertDesc s := by
    unfold d'
    rw [ht, hdesc, hbytes, hcfg, revertDesc]
  rw [if_neg (by rw [hl]; decide), if_neg (by rw [hq]; simp), hfull, ht]

theorem revertDesc_okBus (s : State) : revertDesc (okBus s) = revertDesc s := by
  have hd : descNow (okBus s) = descNow s := descNow_congr rfl
  have hs : ∀ k, slotManifest (okBus s) k = slotManifest s k := fun k => by rw [slotManifest, slotManifest]; rfl
  rw [revertDesc, revertDesc, hd, hs]
  rfl

theorem completes_revert {s : State} {port : Port} (h : Reaches s port Reg.SEC_CTRL 2) (he : anyEnabled s = false) (hr : ringSt s = 5)
    (ht : onTrial s = false) (hl : epochLow s (slotManifest s (1 - fld s Reg.SEC_STATUS 4 4)) = false)
    (hc : ∀ h ∈ holders s, compat 1 h = true) : Completes (.revert port) s fun t =>
      fld t Reg.SEC_CTRL_STATUS 2 0 = 2 ∧ fld t Reg.SEC_CTRL_STATUS 5 3 = 1 ∧
      fbit t Reg.FPM_MAINT_STATUS 1 = false ∧ readMem t .nvm (0x1000 * (1 - (descNow s).2)) 64 =
        { (descNow s).1 with
            seq := ((descNow s).1.seq + 1) % 2 ^ 32, trial := true, tried := false, migrate := false
            health := fld s Reg.SEC_ACT_CFG 9 0
            hash := digestOf (Config.sha256 (slotManifest s (1 - fld s Reg.SEC_STATUS 4 4))) : Desc }.bytes := by
  have hland : hostWrite s port Reg.SEC_CTRL 2 =
      secDone (maintRel (writeDesc (maintHeld (okBus s) 1) (revertDesc (okBus s))) 1) 2 1 :=
    (hostWrite_secCtrl h).trans (secRevert_taken (s := okBus s) he hr ht hl hc)
  have hm : (maintHeld (okBus s) 1).mem = s.mem := (maintHeld_keeps (okBus s) 1).2
  have hread := readMem_writeDesc (maintHeld (okBus s) 1) (d := revertDesc (okBus s)) (length_digestOf _)
  rw [descNow_congr hm] at hread
  obtain ⟨u, hu⟩ : ∃ u, writeDesc (maintHeld (okBus s) 1) (revertDesc (okBus s)) = u := ⟨_, rfl⟩
  rw [hu] at hland hread
  obtain ⟨ha, hres⟩ := secDone_shows (maintRel u 1) (action := 2) (result := 1) (by decide) (by decide)
  refine completes_run (f := fun s => hostWrite s port Reg.SEC_CTRL 2) rfl hland ⟨ha, hres, ?_, ?_⟩
  · rw [fbit_queue, fbit, secDone, rd_setF_ne _ _ _ _ (by decide), rd_setF_ne _ _ _ _ (by decide), ← fbit,
      fbit_maintRel u (by decide) (by decide)]
    rfl
  · have hmem : (secDone (maintRel u 1) 2 1).mem = u.mem := by rw [secDone, setF_mem, setF_mem, maintRel_mem]
    rw [readMem] at hread ⊢
    dsimp only
    rw [hmem, hread, revertDesc_okBus, revertDesc]

/-! ### Staging dropped, a new nonce, a software reset -/

theorem foldl_wr_ne {a : Nat} {f : Nat → Nat} {v : Nat → Word} (l : List Nat) (s : State) (h : ∀ i ∈ l, a ≠ f i) :
    rd (l.foldl (fun s i => wr s (f i) (v i)) s) a = rd s a := by
  induction l generalizing s with
  | nil => rfl
  | cons i l ih =>
    rw [List.foldl_cons, ih _ fun j hj => h j (List.mem_cons_of_mem _ hj), rd_wr_ne _ _ (h i List.mem_cons_self)]

theorem foldl_wr_mem {f : Nat → Nat} {v : Nat → Word} (hf : ∀ i j, f i = f j → i = j) (l : List Nat) (s : State) {i : Nat} (h : i ∈ l) :
    rd (l.foldl (fun s i => wr s (f i) (v i)) s) (f i) = v i := by
  induction l generalizing s with
  | nil => exact absurd h (by simp)
  | cons j l ih =>
    rw [List.foldl_cons]
    by_cases hi : i ∈ l
    · exact ih _ hi
    · obtain rfl := (List.mem_cons.mp h).resolve_right hi
      rw [foldl_wr_ne (f := f) (v := v) _ _ fun k hk he => hi ((hf i k he).symm ▸ hk), rd_wr_same]

theorem rd_secMod (s : State) (f : Sec → Sec) (a : Nat) : rd (secMod s f) a = rd s a := rfl

/-- The staging run's registers and record behind its end (R500). -/
theorem dropStaging_shows (s : State) : (dropStaging s).sec = { s.sec with manifest := [], blocks := [] } ∧
    rd (dropStaging s) Reg.SEC_STAGE_STATUS = 0 ∧ ∀ i, i < 8 → rd (dropStaging s) (Reg.SEC_STAGED_HASH i) = 0 := by
  unfold dropStaging
  extract_lets t u
  have ht : t.sec = s.sec := by
    unfold t
    split
    · rw [maintRel, if_pos (by decide), setF_sec, setF_sec, setBit_sec]
    · rfl
  have hu : u.sec = t.sec := foldl_keeps State.sec (f := fun s i => wr s (Reg.SEC_STAGED_HASH i) 0) (fun _ _ => rfl) _ _
  refine ⟨?_, ?_, fun i hi => ?_⟩
  · have hmod : (secMod u fun x => { x with manifest := [], blocks := [] }).sec = { u.sec with manifest := [], blocks := [] } := rfl
    rw [showStage, wr_sec, hmod, hu, ht]
  · rw [showStage, rd_wr_same, if_neg (by decide)]
    rfl
  · have hne : Reg.SEC_STAGED_HASH i ≠ Reg.SEC_STAGE_STATUS := by
      simp only [Reg.SEC_STAGED_HASH, Reg.SEC_STAGE_STATUS]
      omega
    have hreg : rd u (Reg.SEC_STAGED_HASH i) = 0 := foldl_wr_mem (f := Reg.SEC_STAGED_HASH) (v := fun _ => 0)
      (fun i j hij => by simp only [Reg.SEC_STAGED_HASH] at hij; omega) (List.range 8) t (List.mem_range.mpr hi)
    rw [showStage, rd_wr_ne _ _ hne, rd_secMod, hreg]

section control
variable {s : State} {port : Port}

theorem completes_abortStaging (h : Reaches s port Reg.SEC_CTRL 4) : Completes (.abortStaging port) s fun t =>
    rd t Reg.SEC_STAGE_STATUS = 0 ∧ t.sec = { s.sec with manifest := [], blocks := [] } ∧
      (∀ i, i < 8 → rd t (Reg.SEC_STAGED_HASH i) = 0) ∧
      fld t Reg.SEC_CTRL_STATUS 2 0 = 3 ∧ fld t Reg.SEC_CTRL_STATUS 5 3 = 1 := by
  have hland : hostWrite s port Reg.SEC_CTRL 4 = secDone (dropStaging (okBus s)) 3 1 := (hostWrite_secCtrl h).trans rfl
  obtain ⟨hsec, hst, hhash⟩ := dropStaging_shows (okBus s)
  obtain ⟨u, hu⟩ : ∃ u, dropStaging (okBus s) = u := ⟨_, rfl⟩
  rw [hu] at hland hsec hst hhash
  obtain ⟨ha, hres⟩ := secDone_shows u (action := 3) (result := 1) (by decide) (by decide)
  refine completes_port_eq (f := fun s => hostWrite s port Reg.SEC_CTRL 4) rfl hland ⟨?_, hsec, fun i hi => ?_, ha, hres⟩
  · rw [rd_frame, secDone, rd_setF_ne _ _ _ _ (by decide), rd_setF_ne _ _ _ _ (by decide), hst]
  · have hne : Reg.SEC_STAGED_HASH i ≠ Reg.SEC_CTRL_STATUS := by
      simp only [Reg.SEC_STAGED_HASH, Reg.SEC_CTRL_STATUS]
      omega
    rw [rd_frame, secDone, rd_setF_ne _ _ _ _ hne, rd_setF_ne _ _ _ _ hne, hhash i hi]

/-- The nonce registers behind a new nonce (R507). -/
def nonceShown (s : State) : State :=
  let n := (freeVal 256 s).toNat
  let s := drawn s
  (List.range 8).foldl (fun s i => wr s (Reg.SEC_NONCE i) (word (n / 2 ^ (32 * i)))) s

theorem completes_newNonce (h : Reaches s port Reg.SEC_CTRL 8) : Completes (.newNonce port) s fun t =>
    t.sec = { s.sec with nonceValid := true } ∧
      t.free = s.free + 1 ∧ (∀ i, i < 8 → rd t (Reg.SEC_NONCE i) = word ((freeVal 256 s).toNat / 2 ^ (32 * i))) ∧
      fld t Reg.SEC_CTRL_STATUS 2 0 = 4 ∧ fld t Reg.SEC_CTRL_STATUS 5 3 = 1 := by
  have hland : hostWrite s port Reg.SEC_CTRL 8 = secDone (secMod (nonceShown (okBus s)) fun x => { x with nonceValid := true }) 4 1 :=
    (hostWrite_secCtrl h).trans rfl
  have hsec : (nonceShown (okBus s)).sec = s.sec := foldl_keeps State.sec
    (f := fun t i => wr t (Reg.SEC_NONCE i) (word ((freeVal 256 s).toNat / 2 ^ (32 * i)))) (fun _ _ => rfl) _ _
  have hfree : (nonceShown (okBus s)).free = s.free + 1 := foldl_keeps State.free
    (f := fun t i => wr t (Reg.SEC_NONCE i) (word ((freeVal 256 s).toNat / 2 ^ (32 * i)))) (fun _ _ => rfl) _ _
  have hnonce : ∀ i, i < 8 → rd (nonceShown (okBus s)) (Reg.SEC_NONCE i) = word ((freeVal 256 s).toNat / 2 ^ (32 * i)) := fun i hi =>
    foldl_wr_mem (f := Reg.SEC_NONCE) (v := fun i => word ((freeVal 256 s).toNat / 2 ^ (32 * i)))
      (fun i j hij => by simp only [Reg.SEC_NONCE] at hij; omega) (List.range 8) (drawn (okBus s)) (List.mem_range.mpr hi)
  obtain ⟨u, hu⟩ : ∃ u, nonceShown (okBus s) = u := ⟨_, rfl⟩
  rw [hu] at hland hsec hfree hnonce
  obtain ⟨ha, hres⟩ := secDone_shows (secMod u fun x => { x with nonceValid := true }) (action := 4) (result := 1) (by decide) (by decide)
  refine completes_port_eq (f := fun s => hostWrite s port Reg.SEC_CTRL 8) rfl hland ⟨?_, hfree, fun i hi => ?_, ha, hres⟩
  · rw [← hsec]
    rfl
  · have hne : Reg.SEC_NONCE i ≠ Reg.SEC_CTRL_STATUS := by
      simp only [Reg.SEC_NONCE, Reg.SEC_CTRL_STATUS]
      omega
    rw [rd_frame, secDone, rd_setF_ne _ _ _ _ hne, rd_setF_ne _ _ _ _ hne]
    exact hnonce i hi

theorem completes_softwareReset_enabled (h : Reaches s port Reg.SEC_CTRL 16) (he : anyEnabled s = true) :
    Completes (.softwareReset port) s fun t => t.raw = s.raw ∧
      fld t Reg.SEC_CTRL_STATUS 2 0 = 5 ∧ fld t Reg.SEC_CTRL_STATUS 5 3 = 3 ∧ t.mem = s.mem := by
  have hland : hostWrite s port Reg.SEC_CTRL 16 = secDone (okBus s) 5 3 :=
    (hostWrite_secCtrl h).trans (show secReset (okBus s) = _ from if_pos he)
  obtain ⟨ha, hr⟩ := secDone_shows (okBus s) (action := 5) (result := 3) (by decide) (by decide)
  exact completes_run (f := fun s => hostWrite s port Reg.SEC_CTRL 16) rfl hland ⟨rfl, ha, hr, rfl⟩

theorem completes_softwareReset (h : Reaches s port Reg.SEC_CTRL 16) (he : anyEnabled s = false) :
    Completes (.softwareReset port) s fun t => t.raw = 0 ∧ rd t Reg.SEC_RESET_INFO = 4 ∧ t.sec.inReset = false ∧
      fld t Reg.SEC_CTRL_STATUS 2 0 = 5 ∧ fld t Reg.SEC_CTRL_STATUS 5 3 = 1 := by
  have hland : hostWrite s port Reg.SEC_CTRL 16 = secDone (selfReset (okBus s) 4) 5 1 :=
    (hostWrite_secCtrl h).trans (show secReset (okBus s) = _ from if_neg (by rw [show anyEnabled (okBus s) = false from he]; decide))
  have hraw : (selfReset (okBus s) 4).raw = 0 := raw_release _ _ _ _ _ _
  have hinfo : rd (selfReset (okBus s) 4) Reg.SEC_RESET_INFO = 4 := info_release _ _ _ _ _ _
  have hsec : (selfReset (okBus s) 4).sec.inReset = false := congrArg (·.1) (record_release _ _ _ _ _ _)
  obtain ⟨u, hu⟩ : ∃ u, selfReset (okBus s) 4 = u := ⟨_, rfl⟩
  rw [hu] at hland hraw hinfo hsec
  obtain ⟨ha, hr⟩ := secDone_shows u (action := 5) (result := 1) (by decide) (by decide)
  refine completes_run (f := fun s => hostWrite s port Reg.SEC_CTRL 16) rfl hland ⟨hraw, ?_, hsec, ha, hr⟩
  rw [rd_queue, secDone, rd_setF_ne _ _ _ _ (by decide), rd_setF_ne _ _ _ _ (by decide), hinfo]

end control

/-- Settles O49, command by command. -/
theorem secControlsComplete : Obligations.SecControlsComplete := by
  unfold Obligations.SecControlsComplete
  intro s port
  exact ⟨completes_confirm, completes_revert_enabled, completes_revert, completes_abortStaging, completes_newNonce,
    completes_softwareReset_enabled, completes_softwareReset⟩

end Sys2Proof.Machine

/-! ## Reset and boot loading (R480-R484) -/

namespace Sys2Proof.Machine

/-! ### The assertion of nRESET (R480) -/

theorem driveTx_frame (s : State) (p : Nat) : ∃ x o, driveTx s p = { s with pwr := { s.pwr with txdis := x }, out := s.out ++ o } := by
  unfold driveTx
  extract_lets v n
  split
  · exact ⟨s.pwr.txdis, [], by rw [List.append_nil]⟩
  · exact ⟨_, _, rfl⟩

theorem driveTxdis_frame (s : State) : ∃ x o, driveTxdis s = { s with pwr := { s.pwr with txdis := x }, out := s.out ++ o } := by
  rw [driveTxdis_steps]
  refine List.foldlRecOn (motive := fun (u : State) => ∃ x o, u = { s with pwr := { s.pwr with txdis := x }, out := s.out ++ o })
    _ _ ⟨s.pwr.txdis, [], by rw [List.append_nil]⟩ fun u hu p _ => ?_
  obtain ⟨x, o, rfl⟩ := hu
  obtain ⟨y, q, he⟩ := driveTx_frame { s with pwr := { s.pwr with txdis := x }, out := s.out ++ o } p
  exact ⟨y, o ++ q, he.trans (by rw [List.append_assoc])⟩

/-- A head in reset has every transmitter disabled, and its pins' step changes nothing else that the rest reads (R548, R549). -/
theorem padsReset_frame {s : State} (h : s.sec.inReset = true) : ∃ x d o, padsReset s =
      { s with pwr := { s.pwr with txdis := x }, fbc := { s.fbc with drives := d }, out := s.out ++ o } ∧
    ∀ p, p < 4 → bit x p = true := by
  have hbits : ∀ p, p < 4 → bit (driveTxdis s).pwr.txdis p = true := fun p hp => by rw [txdis_driveTxdis s hp, txdisHigh, h]; rfl
  obtain ⟨x, o, he⟩ := driveTxdis_frame s
  obtain ⟨d, q, hd⟩ := drivePins_frame (driveTxdis s) s.raw
  rw [he] at hbits hd
  refine ⟨x, d, o ++ q, ?_, hbits⟩
  rw [padsReset, he, hd, List.append_assoc]

theorem rd_of_not_listed {s : State} {a : Nat} (h : a ∉ s.regs.map (·.1)) : rd s a = resetOf a := tget_of_not_mem resetOf s.regs a h

/-- A held head keeps no register but the order code (R482). -/
theorem rd_held (s : State) {a : Nat} (h : a ≠ Reg.SYS_ORDER_CODE) : rd (held s) a = resetOf a := by
  refine rd_of_not_listed fun hm => ?_
  obtain ⟨e, he, rfl⟩ := List.mem_map.mp hm
  exact h (by simpa using (List.mem_filter.mp he).2)

theorem completes_resetAssert {s : State} (h : Awake s) : Completes .resetAssert s fun t => t.sec.inReset = true ∧
    t.mem = { s.mem with bolt := [] } ∧ t.raw = s.raw ∧ (∃ more, t.out = s.out ++ .pin "ALIVE" false s.raw :: more) ∧
    (∀ p, p < 4 → bit t.pwr.txdis p = true) ∧ ringSt t = 0 ∧ t.prof = State.reset.prof ∧ t.fio.die = s.fio.die ∧
    t.fio.applied = s.fio.applied := by
  have hin : s.sec.inReset = false := h
  have he : resetAssert s = padsReset (held (emit s (.pin "ALIVE" false s.raw))) := if_neg (by rw [hin]; decide)
  obtain ⟨x, d, o, hp, hbits⟩ := padsReset_frame (s := held (emit s (.pin "ALIVE" false s.raw))) rfl
  have hring : ringSt (held (emit s (.pin "ALIVE" false s.raw))) = 0 := by
    rw [ringSt, fld, rd_held _ (by decide)]
    decide
  obtain ⟨u, hu⟩ : ∃ u, held (emit s (.pin "ALIVE" false s.raw)) = u := ⟨_, rfl⟩
  have hsec : u.sec.inReset = true := hu ▸ rfl
  have hmem : u.mem = { s.mem with bolt := [] } := hu ▸ rfl
  have hraw : u.raw = s.raw := hu ▸ rfl
  have hout : u.out = s.out ++ [.pin "ALIVE" false s.raw] := hu ▸ rfl
  have hprof : u.prof = State.reset.prof := hu ▸ rfl
  have hdie : u.fio.die = s.fio.die := hu ▸ rfl
  have happ : u.fio.applied = s.fio.applied := hu ▸ rfl
  rw [hu] at he hp hring
  exact completes_run (f := fun s => resetAssert s) rfl (he.trans hp)
    ⟨hsec, hmem, hraw, ⟨o, by dsimp only; rw [hout, List.append_assoc]; rfl⟩, hbits, hring, hprof, hdie, happ⟩

/-! ### The release of nRESET, a long reset and the end of boot loading (R481, R482, R484) -/

theorem writes_arch (m : Mem) {r : Region} (hr : r ≠ .arch) (a : Nat) (bs : List Byte) : (m.writes r a bs).arch = m.arch := by
  induction bs generalizing m a with
  | nil => rfl
  | cons b bs ih =>
    rw [Mem.writes, ih]
    cases r with
    | arch => exact absurd rfl hr
    | bolt => rfl
    | ret => rfl
    | nvm => rfl

theorem bootView_arch : BootView fun s => s.mem.arch where
  event _ _ _ _ _ := congrArg Mem.arch (event_mem _ _ _ _ _)
  wr _ _ _ := rfl
  keys _ _ := rfl
  health _ _ := rfl
  agreed _ := rfl
  ret _ := rfl
  store _ _ _ := writes_arch _ (by decide) _ _
  txdis _ _ := rfl
  out _ _ := rfl

theorem bootView_ring : BootView State.ring where
  event := event_ring
  wr _ _ _ := rfl
  keys _ _ := rfl
  health _ _ := rfl
  agreed _ := rfl
  ret _ := rfl
  store _ _ _ := rfl
  txdis _ _ := rfl
  out _ _ := rfl

section release
variable (s : State) (cause duration aon bootSel rankPins : Nat)

theorem pins_release : (release s cause duration aon bootSel rankPins).ring.rankPins = rankPins :=
  congrArg RingState.rankPins (view_release s cause duration aon bootSel rankPins bootView_ring)

theorem arch_released : (released s cause duration aon bootSel rankPins).mem.arch = if coldCause cause then [] else s.mem.arch := by
  refine (writes_arch _ (by decide) _ _).trans ?_
  dsimp only
  split <;> rfl

theorem lockout_released : (released s cause duration aon bootSel rankPins).sec.lockout = (s.sec.lockout && !coldCause cause) := by
  unfold released logReset writeMem
  dsimp only
  split <;> rfl

end release

/-- What a release of a held head leaves, of any cause (R481, R482). -/
theorem release_shows (s : State) (cause : Nat) (duration aon : Word) (boot : Fin 4) (rank : Fin 8) {t : State}
    (ht : release s cause (min duration.toNat 0xFFFFFFFF) aon.toNat boot.val rank.val = t) :
    t.sec.inReset = false ∧ t.raw = 0 ∧ rd t Reg.SEC_RESET_INFO = word (cause + 16 * flag (coldCause cause) + 32 * flag (cause == 3)) ∧
      rd t Reg.SEC_RESET_DUR = duration ∧ t.sec.bootSel = boot.val ∧ t.ring.rankPins = rank.val ∧
      t.mem.arch = (if coldCause cause then [] else s.mem.arch) ∧ t.sec.lockout = (s.sec.lockout && !coldCause cause) ∧
      t.sec.powerFell = false := by
  have hrec := record_release s cause (min duration.toNat 0xFFFFFFFF) aon.toNat boot.val rank.val
  rw [lockout_released] at hrec
  have hdur : word (min duration.toNat 0xFFFFFFFF) = duration := by
    rw [min_eq_left (by have := duration.isLt; omega)]
    rw [word, BitVec.ofNat_toNat, BitVec.setWidth_eq]
  subst ht
  exact ⟨congrArg (·.1) hrec, raw_release _ _ _ _ _ _, info_release _ _ _ _ _ _, (duration_release _ _ _ _ _ _).trans hdur,
    congrArg (·.2.1) hrec, pins_release _ _ _ _ _ _, (view_release _ _ _ _ _ _ bootView_arch).trans (arch_released _ _ _ _ _ _),
    congrArg (·.2.2.1) hrec, congrArg (·.2.2.2.1) hrec⟩

section commands
variable {s : State} {duration aon : Word} {boot : Fin 4} {rank : Fin 8}

theorem resetRelease_eq (hr : s.sec.inReset = true) (powerOn : Bool) : resetRelease s powerOn duration.toNat aon.toNat boot rank =
    release s (if powerOn || s.sec.powerFell then 1 else if s.sec.longReset || 30000 < duration.toNat then 3 else 2)
      (min duration.toNat 0xFFFFFFFF) aon.toNat boot rank := by
  unfold resetRelease
  rw [if_neg (by rw [hr]; simp)]
  extract_lets t cause
  have ht : t = s := if_pos hr
  unfold cause
  rw [ht]

theorem completes_resetRelease (hr : s.sec.inReset = true) (hp : s.sec.powerFell = false) (hl : s.sec.longReset = false)
    (hd : duration.toNat ≤ 30000) : Completes (.resetRelease false duration aon boot rank) s fun t => t.sec.inReset = false ∧ t.raw = 0 ∧
      rd t Reg.SEC_RESET_INFO = 2 ∧ rd t Reg.SEC_RESET_DUR = duration ∧ t.sec.bootSel = boot.val ∧
      t.ring.rankPins = rank.val ∧ t.mem.arch = s.mem.arch := by
  have he := resetRelease_eq (duration := duration) (aon := aon) (boot := boot) (rank := rank) hr false
  rw [hp, hl, if_neg (by decide), if_neg (by simpa using hd)] at he
  obtain ⟨hin, hraw, hinfo, hdur, hboot, hrank, harch, -, -⟩ := release_shows s 2 duration aon boot rank he.symm
  exact completes_run (f := fun s => resetRelease s false duration.toNat aon.toNat boot.val rank.val) rfl rfl
    ⟨hin, hraw, hinfo, hdur, hboot, hrank, harch⟩

theorem completes_resetRelease_long (hr : s.sec.inReset = true) (hp : s.sec.powerFell = false) (hd : 30000 < duration.toNat) :
    Completes (.resetRelease false duration aon boot rank) s fun t => t.sec.inReset = false ∧ t.raw = 0 ∧
      rd t Reg.SEC_RESET_INFO = 51 ∧ t.mem.arch = [] ∧ t.sec.lockout = false := by
  have he := resetRelease_eq (duration := duration) (aon := aon) (boot := boot) (rank := rank) hr false
  rw [hp, if_neg (by decide), if_pos (by simp [hd])] at he
  obtain ⟨hin, hraw, hinfo, -, -, -, harch, hlock, -⟩ := release_shows s 3 duration aon boot rank he.symm
  exact completes_run (f := fun s => resetRelease s false duration.toNat aon.toNat boot.val rank.val) rfl rfl
    ⟨hin, hraw, hinfo, harch, hlock.trans (Bool.and_false _)⟩

theorem completes_resetRelease_power (hr : s.sec.inReset = true) :
    Completes (.resetRelease true duration aon boot rank) s fun t => t.sec.inReset = false ∧ t.raw = 0 ∧
      rd t Reg.SEC_RESET_INFO = 17 ∧ t.mem.arch = [] ∧ t.sec.powerFell = false := by
  have he := resetRelease_eq (duration := duration) (aon := aon) (boot := boot) (rank := rank) hr true
  rw [if_pos (by simp)] at he
  obtain ⟨hin, hraw, hinfo, -, -, -, harch, -, hfell⟩ := release_shows s 1 duration aon boot rank he.symm
  exact completes_run (f := fun s => resetRelease s true duration.toNat aon.toNat boot.val rank.val) rfl rfl
    ⟨hin, hraw, hinfo, harch, hfell⟩

theorem completes_longReset (hr : s.sec.inReset = true) : Completes .longReset s fun t => t.mem = { s.mem with arch := [] } ∧
    t.sec = { s.sec with longReset := true } :=
  completes_run (f := fun s => longReset s) rfl
    (t := secMod { s with mem := { s.mem with arch := [] } } fun x => { x with longReset := true })
    (if_neg (by rw [hr]; decide)) ⟨rfl, rfl⟩

/-- A head whose parts are verified, with its power, the version and the hash of its manifest (R484). -/
def partsVerified (s : State) (p : Power) (version hash : Word) : State :=
  let t := wr (setF { s with pwr := p } Reg.SEC_STATUS 2 0 2) Reg.SEC_MANIFEST_VER version
  { t with twin := { t.twin with manifestHash := hash } }

theorem partsVerified_shows (s : State) (p : Power) (version hash : Word) {t : State} (ht : partsVerified s p version hash = t) :
    fld t Reg.SEC_STATUS 2 0 = 2 ∧ rd t Reg.SEC_MANIFEST_VER = version ∧ t.twin.manifestHash = hash ∧ t.pwr = p ∧
      ∀ a, a ≠ Reg.SEC_STATUS → a ≠ Reg.SEC_MANIFEST_VER → rd t a = rd s a := by
  subst ht
  exact ⟨(congrArg (wbits · 2 0) (rd_wr_ne _ _ (by decide))).trans (fld_setF _ _ _ _ _ (by decide) (by decide)), rd_wr_same _ _ _, rfl,
    rfl, fun a h1 h2 => (rd_wr_ne _ _ h2).trans (rd_setF_ne _ _ _ _ h1)⟩

theorem bootLoadDone_eq (hs : fld s Reg.SEC_STATUS 2 0 = 1) : bootLoadDone s =
    partsVerified s { s.pwr with off := s.pwr.off.filter (· != .mem) } (word (field (manifestNow s) 8 4))
      (word (crc32c (manifestNow s))) := if_neg (by rw [hs]; decide)

theorem completes_bootLoadDone (h : Awake s) (hs : fld s Reg.SEC_STATUS 2 0 = 1) : Completes .bootLoadDone s fun t =>
    fld t Reg.SEC_STATUS 2 0 = 2 ∧ rd t Reg.SEC_MANIFEST_VER = word (field (manifestNow s) 8 4) ∧
      t.twin.manifestHash = word (crc32c (manifestNow s)) ∧ t.pwr.off.contains .mem = false ∧
      ∀ a, a ≠ Reg.SEC_STATUS → a ≠ Reg.SEC_MANIFEST_VER → rd t a = rd s a := by
  obtain ⟨hst, hver, hhash, hpwr, hrest⟩ := partsVerified_shows _ _ _ _ (bootLoadDone_eq hs).symm
  refine completes_quiet_eq rfl h rfl ⟨hst, hver, hhash, ?_, hrest⟩
  dsimp only
  rw [hpwr]
  simp

end commands

/-- Settles O46, command by command. -/
theorem resetCommandsComplete : Obligations.ResetCommandsComplete := by
  unfold Obligations.ResetCommandsComplete
  intro s
  exact ⟨completes_resetAssert, fun _ _ _ _ => completes_resetRelease, fun _ _ _ _ => completes_resetRelease_long,
    fun _ _ _ _ => completes_resetRelease_power, completes_longReset, completes_bootLoadDone⟩

end Sys2Proof.Machine

/-! ## The activation of an update (R502-R504) -/

namespace Sys2Proof.Machine

/-! ### What asking the workers leaves (R79, R501) -/

section workers
variable {β : Type} (g : State → β) (h : ∀ s f, g (ringMod s f) = g s)
include h

theorem svcTry_keeps {s t : State} {q : SvcReq} (ht : svcTry s q = some t) : g t = g s := by
  unfold svcTry at ht
  split at ht
  · exact absurd ht (by simp)
  · split at ht
    · exact absurd ht (by simp)
    · dsimp only at ht
      rw [← Option.some.inj ht, h, setSlot, h]

theorem svcStart_keeps (s : State) (q : SvcReq) : g (svcStart s q) = g s := by
  unfold svcStart
  split
  · rfl
  · split
    · next t ht => exact svcTry_keeps g h ht
    · exact h _ _

theorem askWorkers_keeps (s : State) (ws : List Nat) (index : Nat) (data : List Byte) : g (askWorkers s ws index data) = g s :=
  foldl_keeps g (f := fun s w => svcStart s ⟨w, 0x02, index, 0 :: data, .update⟩) (fun s _ => svcStart_keeps g h s _) _ _

end workers

theorem askWorkers_sec (s : State) (ws : List Nat) (index : Nat) (data : List Byte) : (askWorkers s ws index data).sec = s.sec :=
  askWorkers_keeps State.sec ringMod_sec s ws index data

theorem rd_askWorkers (s : State) (ws : List Nat) (index : Nat) (data : List Byte) (a : Nat) :
    rd (askWorkers s ws index data) a = rd s a := askWorkers_keeps (rd · a) (fun _ _ => rfl) s ws index data

/-! ### The request of an activation (R502) -/

theorem actDone_shows (s : State) {result : Nat} (h : result < 8) : fbit (actDone s result) Reg.SEC_BASTE_STATUS 0 = false ∧
    fld (actDone s result) Reg.SEC_BASTE_STATUS 3 1 = result := by
  refine ⟨?_, (fld_setF _ _ _ _ _ (by decide) (by decide)).trans (Nat.mod_eq_of_lt h)⟩
  rw [actDone, fbit_setF_ne _ _ _ _ _ _ (by decide) (by decide) (by decide), fbit_setBit _ _ _ _ (by decide)]

theorem rd_actDone_ne (s : State) (result : Nat) {a : Nat} (h : a ≠ Reg.SEC_BASTE_STATUS) : rd (actDone s result) a = rd s a := by
  rw [actDone, rd_setF_ne _ _ _ _ h, rd_setBit_ne _ _ _ h]

theorem rd_applyBaste (s : State) (as : List Nat) (a : Nat) : rd (applyBaste s as) a = rd s a :=
  foldl_keeps (rd · a) (f := fun s a => setAct s a (rd s a)) (fun _ _ => rfl) _ _

theorem applyBaste_sec (s : State) (as : List Nat) : (applyBaste s as).sec = s.sec :=
  foldl_keeps State.sec (f := fun s a => setAct s a (rd s a)) (fun _ _ => rfl) _ _

theorem applyBaste_twin (s : State) (as : List Nat) : (applyBaste s as).twin = s.twin :=
  foldl_keeps State.twin (f := fun s a => setAct s a (rd s a)) (fun _ _ => rfl) _ _

section request
variable {s : State} (hb : fbit s Reg.SEC_BASTE_STATUS 0 = true) (hi : onInstant s = true)
include hb hi

/-- The commit point with no refusal, on a head that works alone. -/
theorem activationRequest_granted (hs : Solo s) (hr : actRefusal s = 0) (hc : ∀ h ∈ holders s, compat 1 h = true) :
    ∃ ws data, activationRequest s = askWorkers (secMod (event (applyBaste (actDone (maintHeld s 1) 1) secGroup) SEC 9) fun x =>
      { x with actCycle := some (s.cyc.count + 64), answered := [], asked := ws, follow := false, ready := false }) ws 0xFF00 data := by
  have hpair : s.twin.pair = false := hs
  unfold activationRequest
  rw [if_neg (by rw [hb, hi]; decide)]
  extract_lets r q t a u follow src v ws w
  have hr0 : r = 0 := hr
  have hq : q = (true, maintHeld s 1) := (if_pos (by rw [hr0]; rfl)).trans (maintReq_granted (by decide) (List.all_eq_true.mpr hc))
  have ht : t = maintHeld s 1 := congrArg Prod.snd hq
  have hut : u.twin.pair = false := by
    unfold u
    rw [event_twin, applyBaste_twin, ht, actDone, setF_twin, setBit_twin, maintHeld_keeps_of State.twin setF_twin setBit_twin, hpair]
  have hfollow : follow = false := by
    unfold follow
    rw [hut]
    rfl
  have hv : v = u := if_neg (by rw [hut]; simp)
  rw [if_neg (by rw [hr0]; decide), if_neg (by rw [hq]; simp)]
  have hu : u = event (applyBaste (actDone (maintHeld s 1) 1) secGroup) SEC 9 := by
    unfold u
    rw [ht]
  have ha : a = s.cyc.count + 64 := by
    unfold a
    rw [ht, maintHeld_keeps_of State.cyc setF_cyc setBit_cyc]
  have hw : w = secMod (event (applyBaste (actDone (maintHeld s 1) 1) secGroup) SEC 9) fun x =>
      { x with actCycle := some (s.cyc.count + 64), answered := [], asked := ws, follow := false, ready := false } := by
    unfold w
    rw [hv, hu, hfollow, ha]
  clear_value w ws v src follow u a t q r
  subst hw
  exact ⟨ws, _, rfl⟩

theorem activationRequest_refused (hr : actRefusal s ≠ 0) :
    activationRequest s = event (actDone s (actRefusal s)) SEC 8 0 (actRefusal s) := by
  unfold activationRequest
  rw [if_neg (by rw [hb, hi]; decide)]
  extract_lets r q t
  have hq : q = (false, s) := if_neg (by simpa using hr)
  have ht : t = s := congrArg Prod.snd hq
  rw [if_pos (by simpa using hr), ht]

end request

theorem actRefusal_lt (s : State) : actRefusal s < 8 := by
  unfold actRefusal
  split
  · decide
  · split
    · decide
    · split
      · decide
      · split <;> decide

/-! ### A reset that the head makes itself (R502, R504) -/

theorem sec_padsReset {s : State} (h : s.sec.inReset = true) : (padsReset s).sec = s.sec ∧ (padsReset s).prof = s.prof := by
  obtain ⟨x, d, o, he, -⟩ := padsReset_frame h
  rw [he]
  exact ⟨rfl, rfl⟩

theorem released_keeps {β : Type} (g : State → β) (hmem : ∀ s m, g { s with mem := m } = g s)
    (hraw : ∀ s r (x : RingState) (y : Fio), g { s with raw := r, ring := x, fio := y } = g s)
    (hsec : ∀ (s : State) p (x : Sec), x.actCycle = s.sec.actCycle → x.agreed = s.sec.agreed → g { s with pwr := p, sec := x } = g s)
    (s : State) (cause duration aon bootSel rankPins : Nat) : g (released s cause duration aon bootSel rankPins) = g s := by
  unfold released
  extract_lets cold m t r f u factory v
  have ht : g t = g s := by
    unfold t
    split
    · exact hmem _ _
    · rfl
  have hv : g v = g u := hmem _ _
  have hu : g u = g t := hraw _ _ _ _
  have hlast : g v = g s := by rw [hv, hu, ht]
  exact Eq.trans (hsec v _ _ (by dsimp only) (by dsimp only)) hlast

/-- What a head that resets itself shows (R481, R482). -/
theorem selfReset_shows (s : State) (cause : Nat) : rd (selfReset s cause) Reg.SEC_RESET_INFO =
      word (cause + 16 * flag (coldCause cause) + 32 * flag (cause == 3)) ∧ (selfReset s cause).raw = 0 ∧
    (selfReset s cause).sec.inReset = false ∧ (selfReset s cause).sec.actCycle = none ∧ (selfReset s cause).prof.axes = [] := by
  obtain ⟨hsec, hprof⟩ := sec_padsReset (s := held (emit s (.pin "ALIVE" false s.raw))) rfl
  have hcyc : (held (emit s (.pin "ALIVE" false s.raw))).sec.actCycle = none := rfl
  have haxes : (held (emit s (.pin "ALIVE" false s.raw))).prof.axes = [] := rfl
  unfold selfReset
  obtain ⟨u, hu⟩ : ∃ u, padsReset (held (emit s (.pin "ALIVE" false s.raw))) = u := ⟨_, rfl⟩
  rw [hu] at hsec hprof ⊢
  have hrec := record_release u cause 0 (aonNow s) s.sec.bootSel s.ring.rankPins
  refine ⟨info_release _ _ _ _ _ _, raw_release _ _ _ _ _ _, congrArg (·.1) hrec, ?_, ?_⟩
  · refine (congrArg (·.2.2.2.2) hrec).trans ?_
    rw [released_keeps (fun s => s.sec.actCycle) (fun _ _ => rfl) (fun _ _ _ _ => rfl) (fun _ _ _ hx _ => hx), hsec, hcyc]
  · refine (view_release _ _ _ _ _ _ bootView_axes).trans ?_
    rw [released_keeps (fun s => s.prof.axes) (fun _ _ => rfl) (fun _ _ _ _ => rfl) (fun _ _ _ _ _ => rfl), hprof, haxes]

section commands
variable {s : State} (h : Awake s)
include h

theorem completes_activationRequest (hs : Solo s) (hb : fbit s Reg.SEC_BASTE_STATUS 0 = true) (hr : actRefusal s = 0)
    (hi : onInstant s = true) (hc : ∀ h ∈ holders s, compat 1 h = true) : Completes .activationRequest s fun t =>
      t.sec.actCycle = some (s.cyc.count + 64) ∧ t.sec.ready = false ∧
        fbit t Reg.SEC_BASTE_STATUS 0 = false ∧ fld t Reg.SEC_BASTE_STATUS 3 1 = 1 ∧ fbit t Reg.FPM_MAINT_STATUS 1 = true ∧
        t.mem = s.mem := by
  obtain ⟨ws, data, he⟩ := activationRequest_granted hb hi hs hr hc
  have hrd : ∀ a, reportReg a = false → rd (activationRequest s) a = rd (actDone (maintHeld s 1) 1) a := fun a ha => by
    rw [he, rd_askWorkers, rd_secMod, rd_event _ _ _ _ _ ha, rd_applyBaste]
  have hsec : (activationRequest s).sec.actCycle = some (s.cyc.count + 64) ∧ (activationRequest s).sec.ready = false := by
    rw [he, askWorkers_sec]
    exact ⟨rfl, rfl⟩
  obtain ⟨hbit, hfld⟩ := actDone_shows (maintHeld s 1) (result := 1) (by decide)
  refine completes_quiet_eq rfl h rfl ⟨hsec.1, hsec.2, ?_, ?_, ?_, rfl⟩
  · rw [fbit_frame, fbit, hrd _ (by decide)]
    exact hbit
  · rw [fld_frame, fld, hrd _ (by decide)]
    exact hfld
  · rw [fbit_frame, fbit, hrd _ (by decide), rd_actDone_ne _ _ (by decide)]
    exact fbit_maintHeld s (by decide)

theorem completes_activationRequest_refused (hb : fbit s Reg.SEC_BASTE_STATUS 0 = true) (hr : actRefusal s ≠ 0)
    (hi : onInstant s = true) : Completes .activationRequest s fun t => t.sec = s.sec ∧
      fbit t Reg.SEC_BASTE_STATUS 0 = false ∧ fld t Reg.SEC_BASTE_STATUS 3 1 = actRefusal s ∧ holders t = holders s := by
  have he := activationRequest_refused hb hi hr
  obtain ⟨hbit, hfld⟩ := actDone_shows s (actRefusal_lt s)
  obtain ⟨u, hu⟩ : ∃ u, actDone s (actRefusal s) = u := ⟨_, rfl⟩
  have hsec : u.sec = s.sec := hu ▸ (setF_sec _ _ _ _ _).trans (setBit_sec _ _ _ _)
  have hhold : rd u Reg.FPM_MAINT_STATUS = rd s Reg.FPM_MAINT_STATUS := hu ▸ rd_actDone_ne _ _ (by decide)
  rw [hu] at he hbit hfld
  refine completes_quiet_eq rfl h he ⟨(event_sec _ _ _ _ _).trans hsec, ?_, ?_, ?_⟩
  · rw [fbit_frame, fbit_event _ _ _ _ _ _ (by decide), hbit]
  · rw [fld_frame, fld_event _ _ _ _ _ _ _ (by decide), hfld]
  · refine holders_congr ?_
    rw [rd_frame, rd_event _ _ _ _ _ (by decide), hhold]

/-- The descriptor that an activation writes at L(a - 8) (R502). -/
def trialDesc (s : State) : Desc :=
  { (descNow s).1 with
    trial := true, tried := false
    migrate := !((partsOf s.sec.manifest).any fun p => p.cls == 5), health := fld s Reg.SEC_ACT_CFG 9 0
    hash := digestOf (Config.sha256 s.sec.manifest) }

omit h in
theorem activationCheck_eq {a : Word} (hs : Solo s) (ha : s.sec.actCycle = some a) (hr : s.sec.ready = false)
    (hc : (a - s.cyc.count).toNat ≤ 8) : activationCheck s =
      if !(s.sec.asked.all fun w => s.sec.answered.contains w) then activationCancel s
      else secMod (writeDesc s (trialDesc s)) fun x => { x with ready := true } := by
  have hpair : s.twin.pair = false := hs
  unfold activationCheck
  rw [ha]
  dsimp only
  rw [if_neg (by rw [hr, decide_eq_false (Nat.not_lt.mpr hc)]; decide), hpair]
  rfl

theorem completes_activationCheck (hs : Solo s) {a : Word} (ha : s.sec.actCycle = some a) (hr : s.sec.ready = false)
    (hc : (a - s.cyc.count).toNat ≤ 8) (hall : (s.sec.asked.all fun w => s.sec.answered.contains w) = true) :
    Completes .activationCheck s fun t => t.sec = { s.sec with ready := true } ∧
      readMem t .nvm (0x1000 * (1 - (descNow s).2)) 64 =
        { (descNow s).1 with
            seq := ((descNow s).1.seq + 1) % 2 ^ 32, trial := true, tried := false
            migrate := !((partsOf s.sec.manifest).any fun p => p.cls == 5), health := fld s Reg.SEC_ACT_CFG 9 0
            hash := digestOf (Config.sha256 s.sec.manifest) : Desc }.bytes ∧ t.regs = s.regs := by
  have he := (activationCheck_eq hs ha hr hc).trans (if_neg (by rw [hall]; decide))
  have hread := readMem_writeDesc s (d := trialDesc s) (length_digestOf _)
  obtain ⟨u, hu⟩ : ∃ u, writeDesc s (trialDesc s) = u := ⟨_, rfl⟩
  have hsec : u.sec = s.sec := by rw [← hu, writeDesc, writeMem_sec]
  have hregs : u.regs = s.regs := by rw [← hu, writeDesc, writeMem_regs]
  rw [hu] at he hread
  refine completes_run_eq rfl h he ⟨?_, ?_, hregs⟩
  · rw [← hsec]
    rfl
  · rw [readMem, trialDesc] at hread
    rw [readMem]
    exact hread

omit h in
theorem activationCancel_shows (s : State) : (activationCancel s).sec.actCycle = none ∧
    fld (activationCancel s) Reg.SEC_BASTE_STATUS 3 1 = 6 ∧ (activationCancel s).mem = s.mem := by
  refine ⟨?_, ?_, activationCancel_mem s⟩
  · unfold activationCancel
    extract_lets t u src v
    have hv : v.sec = u.sec := by
      unfold v
      split <;> rfl
    rw [actDone, setF_sec, setBit_sec, maintRel, if_pos (by decide), setF_sec, setF_sec, setBit_sec, hv]
    rfl
  · exact (actDone_shows _ (by decide)).2

theorem completes_activationCheck_cancelled (hs : Solo s) {a : Word} (ha : s.sec.actCycle = some a) (hr : s.sec.ready = false)
    (hc : (a - s.cyc.count).toNat ≤ 8) (hall : (s.sec.asked.all fun w => s.sec.answered.contains w) = false) :
    Completes .activationCheck s fun t => t.sec.actCycle = none ∧ fld t Reg.SEC_BASTE_STATUS 3 1 = 6 ∧ t.mem = s.mem := by
  have he := (activationCheck_eq hs ha hr hc).trans (if_pos (by rw [hall]; decide))
  obtain ⟨hsec, hfld, hmem⟩ := activationCancel_shows s
  rw [← he] at hsec hfld hmem
  exact completes_run_eq rfl h rfl ⟨hsec, hfld, hmem⟩

theorem completes_activationReset {a : Word} (ha : s.sec.actCycle = some a) (hr : s.sec.ready = true)
    (hc : after a s.cyc.count = false) (hf : s.sec.follow = false) : Completes .activationReset s fun t =>
      rd t Reg.SEC_RESET_INFO = 5 ∧ t.raw = 0 ∧ t.sec.inReset = false ∧ t.sec.actCycle = none ∧ enabledAxes t = [] := by
  have he : activationReset s = selfReset s 5 := by
    unfold activationReset
    rw [ha]
    dsimp only
    rw [if_neg (by simp [hr, hc]), if_neg (by simp [hf])]
  obtain ⟨hinfo, hraw, hin, hcyc, haxes⟩ := selfReset_shows s 5
  rw [← he] at hinfo hraw hin hcyc haxes
  refine completes_run_eq rfl h rfl ⟨hinfo, hraw, hin, hcyc, ?_⟩
  have hnone : enabledAxes (activationReset s) = [] := by rw [enabledAxes, haxes]; rfl
  exact hnone

end commands

/-! ### The end of a trial (R503, R504) -/

theorem status_showFuses (s : State) : rd (showFuses s) Reg.SEC_STATUS = rd s Reg.SEC_STATUS := by
  unfold showFuses
  extract_lets x t u
  have hloop : ∀ i ∈ List.range 6, Reg.SEC_STATUS ≠ Reg.SEC_EPOCH i := fun i _ => by
    simp only [Reg.SEC_EPOCH, Reg.SEC_STATUS]
    omega
  refine (foldl_wr_ne (f := Reg.SEC_EPOCH) (v := fun i => word (x.epochs.getD i 0)) _ u hloop).trans ?_
  exact (rd_wr_ne _ _ (by decide)).trans ((rd_wr_ne _ _ (by decide)).trans (rd_wr_ne _ _ (by decide)))

/-- The descriptor of a trial that is confirmed (R503). -/
def confirmedDesc (s : State) : Desc :=
  { (descNow s).1 with
    slot := fld s Reg.SEC_STATUS 4 4, area := fld s Reg.SEC_STATUS 5 5, trial := false, tried := false, migrate := false }

section confirm
variable {s : State} (ht : onTrial s = true) (hr : s.sec.healthRaw.isSome = true) (hh : healthy s = true)
  (hw : ((if leads s then manifestWorkers s (manifestNow s) else []).all fun w => s.sec.workersOk.contains w) = true)
include ht hr hh hw

/-- A trial whose conditions all hold is confirmed (R503). -/
theorem healthConfirm_eq : ∃ epochs ws, healthConfirm s = event (askWorkers (setBit (writeDesc (showFuses (secMod s fun x =>
    { x with epochs := epochs, healthRaw := none, agreed := none, confirming := ws })) (confirmedDesc s)) Reg.SEC_STATUS 6 false)
      ws 0xFF01 []) SEC 10 := by
  unfold healthConfirm
  rw [if_neg (by rw [ht, hh, Option.isNone_eq_false_iff.mpr hr]; decide)]
  extract_lets m ws missing epochs t src d u v
  have hmissing : missing = [] := by
    refine List.filter_eq_nil_iff.mpr fun w hm => ?_
    have := List.all_eq_true.mp hw w hm
    simpa using this
  have hst : rd t Reg.SEC_STATUS = rd s Reg.SEC_STATUS := (status_showFuses _).trans rfl
  have hmem : t.mem = s.mem := showFuses_mem _
  have hd : { d with trial := false, tried := false, migrate := false : Desc } = confirmedDesc s := by
    unfold d src
    rw [descNow_congr hmem, fld, fld, hst, confirmedDesc]
    rfl
  rw [if_neg (by rw [hmissing]; decide)]
  refine ⟨epochs, ws, ?_⟩
  unfold v u
  rw [hd]

theorem completes_healthConfirm (h : Awake s) : Completes .healthConfirm s fun t => onTrial t = false ∧ t.sec.healthRaw = none ∧
    t.sec.agreed = none ∧ readMem t .nvm (0x1000 * (1 - (descNow s).2)) 64 =
      { (descNow s).1 with
          seq := ((descNow s).1.seq + 1) % 2 ^ 32, slot := fld s Reg.SEC_STATUS 4 4, area := fld s Reg.SEC_STATUS 5 5
          trial := false, tried := false, migrate := false : Desc }.bytes := by
  obtain ⟨epochs, ws, he⟩ := healthConfirm_eq ht hr hh hw
  obtain ⟨u, hu⟩ : ∃ u, showFuses (secMod s fun x => { x with epochs := epochs, healthRaw := none, agreed := none, confirming := ws }) = u :=
    ⟨_, rfl⟩
  have hmem : u.mem = s.mem := hu ▸ showFuses_mem _
  have hraw : u.sec.healthRaw = none := by rw [← hu, showFuses_keeps (fun s => s.sec.healthRaw) fun _ _ _ => rfl]; rfl
  have hagr : u.sec.agreed = none := by rw [← hu, showFuses_keeps (fun s => s.sec.agreed) fun _ _ _ => rfl]; rfl
  have hread := readMem_writeDesc u (d := confirmedDesc s) (length_hash_descNow s)
  rw [hu] at he
  obtain ⟨w, hw'⟩ : ∃ w, writeDesc u (confirmedDesc s) = w := ⟨_, rfl⟩
  have hsec : w.sec = u.sec := by rw [← hw', writeDesc, writeMem_sec]
  rw [hw'] at he hread
  have hsec' : (healthConfirm s).sec = u.sec := by rw [he, event_sec, askWorkers_sec, setBit_sec, hsec]
  have hmem' : (healthConfirm s).mem = w.mem := by rw [he, event_mem, askWorkers_mem, setBit_mem]
  refine completes_run_eq rfl h rfl ⟨?_, ?_, ?_, ?_⟩
  · rw [onTrial, fbit_queue, he, fbit_event _ _ _ _ _ _ (by decide), fbit, rd_askWorkers]
    exact fbit_setBit _ _ _ _ (by decide)
  · exact (congrArg Sec.healthRaw hsec').trans hraw
  · exact (congrArg Sec.agreed hsec').trans hagr
  · rw [descNow_congr hmem, readMem, confirmedDesc] at hread
    rw [readMem]
    dsimp only
    rw [hmem']
    exact hread

end confirm

theorem bootKeeps_agreed : BootKeeps fun s => s.sec.agreed = none where
  event _ _ _ _ _ ht := (congrArg Sec.agreed (event_sec _ _ _ _ _)).trans ht
  status _ _ _ _ ht := ht
  keys _ _ ht := ht
  health _ _ ht := ht
  agreed _ _ := rfl
  store _ _ _ ht := ht
  txdis _ _ ht := ht
  out _ _ ht := ht

/-- A reset that the head makes itself authorizes nothing that was not authorized before it (R508). -/
theorem agreed_selfReset {s : State} (h : s.sec.agreed = none) (cause : Nat) : (selfReset s cause).sec.agreed = none := by
  obtain ⟨hsec, -⟩ := sec_padsReset (s := held (emit s (.pin "ALIVE" false s.raw))) rfl
  have hheld : (held (emit s (.pin "ALIVE" false s.raw))).sec.agreed = none := by
    have hf : (held (emit s (.pin "ALIVE" false s.raw))).sec.agreed = s.sec.agreed.filter fun a => a.1 == 1 := rfl
    rw [hf, h]
    rfl
  unfold selfReset
  obtain ⟨u, hu⟩ : ∃ u, padsReset (held (emit s (.pin "ALIVE" false s.raw))) = u := ⟨_, rfl⟩
  rw [hu] at hsec ⊢
  refine release_keeps bootKeeps_agreed ?_
  rw [releaseShown_keeps (fun s => s.sec.agreed) (fun _ _ _ => rfl) (fun _ => rfl),
    released_keeps (fun s => s.sec.agreed) (fun _ _ => rfl) (fun _ _ _ _ => rfl) (fun _ _ _ _ hx => hx), hsec, hheld]

theorem completes_healthTimeout {s : State} (h : Awake s) {r : Nat} (ht : onTrial s = true) (hr : s.sec.healthRaw = some r)
    (hl : s.sec.healthS * 1000000000 ≤ s.raw - r) : Completes .healthTimeout s fun t =>
      rd t Reg.SEC_RESET_INFO = 5 ∧ t.raw = 0 ∧ t.sec.inReset = false ∧ t.sec.agreed = none := by
  obtain ⟨u, hf, hu⟩ : ∃ u, fallBack s 11 = selfReset u 5 ∧ u.sec.agreed = none := ⟨_, rfl, rfl⟩
  have he : healthTimeout s = selfReset u 5 := by
    unfold healthTimeout
    rw [hr]
    exact (if_pos (by simp [ht, hl])).trans hf
  obtain ⟨hinfo, hraw, hin, -, -⟩ := selfReset_shows u 5
  have hagr := agreed_selfReset hu 5
  rw [← he] at hinfo hraw hin hagr
  exact completes_run_eq rfl h rfl ⟨hinfo, hraw, hin, hagr⟩

/-- Settles O48, command by command. -/
theorem activationCommandsComplete : Obligations.ActivationCommandsComplete := by
  unfold Obligations.ActivationCommandsComplete
  intro s h hs
  exact ⟨completes_activationRequest h hs, fun hb hr hi => completes_activationRequest_refused h hb hr hi,
    fun _ => completes_activationCheck h hs, fun _ => completes_activationCheck_cancelled h hs, fun _ => completes_activationReset h,
    fun ht hr hh hw => completes_healthConfirm ht hr hh hw h, fun _ => completes_healthTimeout h⟩

end Sys2Proof.Machine

/-! ## Responses of the command protocol (R514, R515, R519, R522, R536) -/

namespace Sys2Proof.Machine

section same

variable {s t : State} (h : t.regs = s.regs)

include h

theorem rd_of_regs (a : Nat) : rd t a = rd s a := by rw [rd, rd, h]

theorem fld_of_regs (a hi lo : Nat) : fld t a hi lo = fld s a hi lo := by rw [fld, fld, rd_of_regs h]

theorem fbit_of_regs (a i : Nat) : fbit t a i = fbit s a i := by rw [fbit, fbit, rd_of_regs h]

end same

section deliver

variable (s : State)

@[simp] theorem emit_out (o : Out) : (emit s o).out = s.out ++ [o] := rfl

@[simp] theorem flow_setFlow_same (n : Nat) (x : Flow) : flow (setFlow s n x) n = x := tget_tput_same (fun _ => ({} : Flow)) s.host.flows n x

theorem flow_setFlow_ne {n k : Nat} (x : Flow) (h : k ≠ n) : flow (setFlow s n x) k = flow s k :=
  tget_tput_ne (fun _ => ({} : Flow)) s.host.flows x h

@[simp] theorem ringOf_setRing_same (r : Nat) (x : Ring) : ringOf (setRing s r x) r = x :=
  tget_tput_same (fun _ => ({} : Ring)) s.host.rings r x

theorem signalRing_regs (r ctrl : Nat) : (signalRing s r ctrl).regs = s.regs := by simp [signalRing, apply_ite State.regs]

theorem signalRing_out (r ctrl : Nat) : ∃ more, (signalRing s r ctrl).out = s.out ++ more := (only_signalRing s r ctrl).out

/-- The response of an executed request is kept with its flow when its endpoint owns the flow (R519). -/
def keptRsp (s : State) (w : Waiting) (msg : List Byte) : State :=
  if (flow s w.flow).owner == some w.ep then
    setFlow s w.flow { flow s w.flow with stored := ((w.seq, msg) :: (flow s w.flow).stored).take 8 }
  else s

theorem finish_eq (w : Waiting) (st : Nat) (p : List Byte) :
    finish s w st p = deliver (keptRsp s w (rspOf s w st p).2) w (rspOf s w st p).1 (rspOf s w st p).2 := rfl

theorem keptRsp_out (w : Waiting) (m : List Byte) : (keptRsp s w m).out = s.out := by
  simp only [keptRsp, apply_ite State.out, setFlow_out, ite_self]

theorem keptRsp_regs (w : Waiting) (m : List Byte) : (keptRsp s w m).regs = s.regs := by
  simp only [keptRsp, apply_ite State.regs, setFlow_regs, ite_self]

theorem ringOf_keptRsp (w : Waiting) (m : List Byte) (r : Nat) : ringOf (keptRsp s w m) r = ringOf s r := by
  unfold keptRsp
  split <;> rfl

theorem flow_keptRsp {w : Waiting} (m : List Byte) (h : (flow s w.flow).owner = some w.ep) :
    flow (keptRsp s w m) w.flow = { flow s w.flow with stored := ((w.seq, m) :: (flow s w.flow).stored).take 8 } := by
  rw [keptRsp, if_pos (by simp [h])]
  exact flow_setFlow_same _ _ _

variable {s} {w : Waiting} {st : Nat} {p : List Byte}

theorem rspOf_fits (h : p.length ≤ rspLimit s w.ep w.flow) : rspOf s w st p = (st, rspMsg w.opcode w.flow w.seq st p) := by
  rw [rspOf, if_neg (Nat.not_lt.mpr h)]

theorem rspOf_tooLong (h : rspLimit s w.ep w.flow < p.length) : rspOf s w st p = (2, rspMsg w.opcode w.flow w.seq 2 []) := by
  rw [rspOf, if_pos h]

theorem finish_udp {ip : Word} {port : Half} {e : Fin 2} (he : w.ep = .udp ip port e) :
    finish s w st p = emit (keptRsp s w (rspOf s w st p).2) (.response w.ep (rspOf s w st p).2) := by
  rw [finish_eq, deliver]
  split <;> rename_i hw <;> rw [he] at hw
  · cases hw
  · rw [hw] at he
    rw [he]
  · cases hw

theorem out_finish_udp {ip : Word} {port : Half} {e : Fin 2} (he : w.ep = .udp ip port e) :
    (finish s w st p).out = s.out ++ [.response w.ep (rspOf s w st p).2] := by
  rw [finish_udp he, emit_out, keptRsp_out]

theorem rspLimit_udp {ip : Word} {port : Half} {e : Fin 2} (he : w.ep = .udp ip port e) :
    rspLimit s w.ep w.flow = (flow s w.flow).limit := by rw [he]; rfl

theorem length_rspMsg (op fl : Nat) (seq : Word) (st : Nat) (p : List Byte) : (rspMsg op fl seq st p).length = 16 + p.length := by
  simp [rspMsg, msgHeader, length_leBytes]
  omega

end deliver

section ring

variable {s : State} {r : Nat}

/-- A completion entry takes its phase when it is written (R536). -/
theorem patch_cqEntry (tag ix len status : Nat) (trunc b : Bool) (seq : Word) :
    patch (cqEntry tag ix len status trunc seq) 10 [BitVec.ofNat 8 (byteAt (cqEntry tag ix len status trunc seq) 10 + flag b)] =
      leBytes 2 tag ++ leBytes 2 ix ++ leBytes 4 len ++ leBytes 2 status ++ [BitVec.ofNat 8 (2 * flag trunc + flag b), 0] ++
        leBytes 4 seq.toNat := by
  have hb : byteAt (cqEntry tag ix len status trunc seq) 10 = 2 * flag trunc := by
    cases trunc <;> rfl
  rw [hb]
  rfl

theorem cqWrite_shows (e : Nat × List Byte × List Byte) :
    (∃ more, (cqWrite s r e).out = s.out ++ ((if e.2.1.isEmpty then [] else [.hostMem e.1 e.2.1]) ++
      [.hostMem (rd64 s (Reg.HOST_CQ_BASE_LO r) + 16 * fld s (Reg.HOST_CQ_TAIL r) 11 0)
        (patch e.2.2 10 [BitVec.ofNat 8 (byteAt e.2.2 10 + flag (ringOf s r).phase)])] ++ more)) ∧
    ∀ a, a ≠ Reg.HOST_CQ_TAIL r → rd (cqWrite s r e) a = rd s a := by
  unfold cqWrite
  extract_lets tail next x s1 entry s2 s3
  have hregs : s1.regs = s.regs := by simp only [s1, apply_ite State.regs, emit_regs, ite_self]
  have hout : s1.out = s.out ++ (if e.2.1.isEmpty then [] else [.hostMem e.1 e.2.1]) := by
    simp only [s1]
    split
    · exact (List.append_nil _).symm
    · rfl
  have hbase : rd64 s1 (Reg.HOST_CQ_BASE_LO r) = rd64 s (Reg.HOST_CQ_BASE_LO r) := by rw [rd64, rd64, rd_of_regs hregs, rd_of_regs hregs]
  constructor
  · obtain ⟨more, hm⟩ := signalRing_out (setRing s3 r { x with phase := if next == 0 then !x.phase else x.phase }) r (Reg.HOST_RING_CTRL r)
    refine ⟨more, hm.trans ?_⟩
    rw [setRing_out, setF_out, emit_out, hout, hbase]
    simp only [List.append_assoc, tail, x, entry]
  · intro a ha
    rw [rd_of_regs (signalRing_regs _ _ _), rd_of_regs (setRing_regs _ _ _), rd_setF_ne _ _ _ _ ha, rd_of_regs (emit_regs _ _), rd_of_regs hregs]

theorem cqPost_room (e : Nat × List Byte × List Byte) (hb : (ringOf s r).backlog = []) (hf : cqFull s r = false) :
    cqPost s r e = cqWrite s r e := by
  rw [cqPost]
  exact if_pos (by simp [hb, hf])

/-- One fetched entry less is outstanding while others are (R544). -/
theorem ringDone_left (s : State) (r : Fin 8) (h : 1 < fld s (Reg.HOST_RING_STATUS r.val) 31 16) :
    ringDone s r = setF s (Reg.HOST_RING_STATUS r.val) 31 16 (fld s (Reg.HOST_RING_STATUS r.val) 31 16 - 1) := by
  rw [ringDone]
  exact if_neg (by simp; omega)

end ring

theorem finish_ring (s : State) (w : Waiting) (st : Nat) (p : List Byte) {r : Fin 8} (he : w.ep = .ring r) (hp : p.length ≤ 8192)
    (hb : (ringOf s r.val).backlog = []) (hf : cqFull s r.val = false) (hl : 1 < fld s (Reg.HOST_RING_STATUS r.val) 31 16) :
    (∃ more, (finish s w st p).out = s.out ++
        ([.hostMem w.rspAddr ((rspMsg w.opcode w.flow w.seq st p).take (min w.rspCap (16 + p.length)))] : List Out).filter
            (fun _ => w.rspCap ≠ 0) ++
          [.hostMem (rd64 s (Reg.HOST_CQ_BASE_LO r.val) + 16 * fld s (Reg.HOST_CQ_TAIL r.val) 11 0)
            (leBytes 2 w.tag ++ leBytes 2 w.sqIndex ++ leBytes 4 (min w.rspCap (16 + p.length)) ++ leBytes 2 st ++
              [BitVec.ofNat 8 (2 * flag (w.rspCap < 16 + p.length) + flag (ringOf s r.val).phase), 0] ++ leBytes 4 w.seq.toNat)] ++
          more) ∧
      fld (finish s w st p) (Reg.HOST_RING_STATUS r.val) 31 16 = fld s (Reg.HOST_RING_STATUS r.val) 31 16 - 1 := by
  have hfin : finish s w st p = ringDone (cqPost (keptRsp s w (rspOf s w st p).2) r.val (w.rspAddr,
      (rspMsg w.opcode w.flow w.seq st p).take (min w.rspCap (16 + p.length)),
      cqEntry w.tag w.sqIndex (min w.rspCap (16 + p.length)) st (w.rspCap < 16 + p.length) w.seq)) r := by
    have hfit : rspOf s w st p = (st, rspMsg w.opcode w.flow w.seq st p) := rspOf_fits (by rw [he]; exact hp)
    rw [finish_eq, hfit, deliver]
    split <;> rename_i hw <;> rw [he] at hw
    · cases hw
      rw [length_rspMsg]
    · cases hw
    · cases hw
  have hregs := keptRsp_regs s w (rspOf s w st p).2
  have hout := keptRsp_out s w (rspOf s w st p).2
  have hring := ringOf_keptRsp s w (rspOf s w st p).2 r.val
  obtain ⟨k, hk⟩ : ∃ k, keptRsp s w (rspOf s w st p).2 = k := ⟨_, rfl⟩
  rw [hk] at hregs hout hring hfin
  have hfull : cqFull k r.val = false := by
    rw [cqFull, ringLen, fld_of_regs hregs, fld_of_regs hregs, fld_of_regs hregs]
    exact hf
  rw [cqPost_room _ (hring ▸ hb) hfull] at hfin
  obtain ⟨⟨more, hm⟩, hrd⟩ := cqWrite_shows (s := k) (r := r.val) (w.rspAddr,
      (rspMsg w.opcode w.flow w.seq st p).take (min w.rspCap (16 + p.length)),
      cqEntry w.tag w.sqIndex (min w.rspCap (16 + p.length)) st (w.rspCap < 16 + p.length) w.seq)
  obtain ⟨u, hu⟩ : ∃ u, cqWrite k r.val (w.rspAddr,
      (rspMsg w.opcode w.flow w.seq st p).take (min w.rspCap (16 + p.length)),
      cqEntry w.tag w.sqIndex (min w.rspCap (16 + p.length)) st (w.rspCap < 16 + p.length) w.seq) = u := ⟨_, rfl⟩
  rw [hu] at hm hrd hfin
  have hst : fld u (Reg.HOST_RING_STATUS r.val) 31 16 = fld s (Reg.HOST_RING_STATUS r.val) 31 16 := by
    rw [fld, hrd _ (by simp only [Reg.HOST_RING_STATUS, Reg.HOST_CQ_TAIL]; omega), ← fld, fld_of_regs hregs]
  rw [hfin, ringDone_left u r (by rw [hst]; exact hl)]
  constructor
  · refine ⟨more, ?_⟩
    rw [setF_out, hm, hout, hring, patch_cqEntry, rd64, rd_of_regs hregs, rd_of_regs hregs, ← rd64, fld_of_regs hregs]
    by_cases hc : w.rspCap = 0
    · simp [hc]
    · have hne : ((rspMsg w.opcode w.flow w.seq st p).take (min w.rspCap (16 + p.length))).isEmpty = false := by
        rw [List.isEmpty_eq_false_iff, ne_eq, ← List.length_eq_zero_iff, List.length_take, length_rspMsg]
        omega
      simp only [hne]
      simp [hc]
  · rw [fld_setF _ _ _ _ _ (by decide) (by decide), hst, Nat.mod_eq_of_lt]
    have : fld s (Reg.HOST_RING_STATUS r.val) 31 16 < 2 ^ 16 := Nat.mod_lt _ (by decide)
    omega

/-- Settles O57, transport by transport. -/
theorem responsesGoOut : Obligations.ResponsesGoOut := by
  unfold Obligations.ResponsesGoOut
  intro s w st p
  refine ⟨fun ip port e he hp => ⟨?_, ?_⟩, fun ip port e he hp => ?_, fun ip port e he ho hp => ?_,
    fun r he hp hb hf hl => ?_⟩
  · rw [out_finish_udp he, rspOf_fits (by rw [rspLimit_udp he]; exact hp)]
    rfl
  · rw [finish_udp he, emit_regs, keptRsp_regs]
  · rw [out_finish_udp he, rspOf_tooLong (by rw [rspLimit_udp he]; exact hp)]
    simp [rspMsg]
  · rw [finish_udp he, rspOf_fits (by rw [rspLimit_udp he]; exact hp)]
    exact congrArg Flow.stored (flow_keptRsp s (rspMsg w.opcode w.flow w.seq st p) ho)
  · obtain ⟨⟨more, hm⟩, hs⟩ := finish_ring s w st p he hp hb hf hl
    exact ⟨more, hm, hs⟩

end Sys2Proof.Machine

/-! ## Flows and the completion of requests (R517-R521, R541) -/

namespace Sys2Proof.Machine

section message

variable {op fl : Nat} {seq : Word} {p : List Byte}

/-- The parts of a request message (R514). -/
theorem requestMsg_parts (ho : op < 65536) (hf : fl < 65536) (hp : p.length ≤ 8192) :
    field (requestMsg op fl seq p) 2 2 = op ∧ field (requestMsg op fl seq p) 4 2 = fl ∧
      field (requestMsg op fl seq p) 6 2 = p.length ∧ word (field (requestMsg op fl seq p) 8 4) = seq ∧
      field (requestMsg op fl seq p) 14 2 = 0 ∧ (requestMsg op fl seq p).drop 16 = p ∧
      (requestMsg op fl seq p).length = 16 + p.length := by
  refine ⟨?_, ?_, ?_, ?_, rfl, rfl, ?_⟩
  · exact (leVal_leBytes 2 op).trans (Nat.mod_eq_of_lt ho)
  · exact (leVal_leBytes 2 fl).trans (Nat.mod_eq_of_lt hf)
  · exact (leVal_leBytes 2 p.length).trans (Nat.mod_eq_of_lt (by omega))
  · have : field (requestMsg op fl seq p) 8 4 = seq.toNat := (leVal_leBytes 4 seq.toNat).trans (Nat.mod_eq_of_lt seq.isLt)
    rw [this]
    exact BitVec.ofNat_toNat 32 seq
  · simp [requestMsg, msgHeader, length_leBytes]
    omega

theorem msgOk_requestMsg (ho : op < 65536) (hf : fl < 65536) (h4 : p.length % 4 = 0) (hp : p.length ≤ 8192) :
    msgOk (requestMsg op fl seq p) 8192 = true := by
  obtain ⟨-, -, hlen, -, hres, -, htot⟩ := requestMsg_parts (seq := seq) ho hf hp
  have h0 : byteAt (requestMsg op fl seq p) 0 = 0x10 := rfl
  have h1 : byteAt (requestMsg op fl seq p) 1 = 0 := rfl
  simp [msgOk, hlen, hres, htot, h0, h1, h4, hp]

end message

section requests

variable {s : State} {q : Req}

theorem work_accepted (s : State) (q : Req) : SameWork s (accepted s q) := by
  unfold accepted
  cases q.ep <;> exact ⟨rfl, rfl, rfl, rfl⟩

theorem rd_accepted (s : State) (q : Req) {a : Nat} (h : a ≠ Reg.HOST_MSG_CNT) : rd (accepted s q) a = rd s a := by
  unfold accepted
  cases q.ep <;> exact rd_bump_ne _ 1 h

theorem fld_accepted (s : State) (q : Req) {a : Nat} (h : a ≠ Reg.HOST_MSG_CNT) (hi lo : Nat) :
    fld (accepted s q) a hi lo = fld s a hi lo := by rw [fld, rd_accepted s q h, fld]

theorem boot_accepted {recovery : Bool} (h : Requests s q recovery) : (fld (accepted s q) Reg.SEC_STATUS 2 0 == 5) = recovery := by
  rw [fld_accepted s q (by decide), h.boot]

theorem pump_enter (op : Nat) (h : Requests s q) (ho : (∀ l, q.ep ≠ .legacy l) ∨ (op ≠ 1 ∧ op ≠ 2)) :
    pump (enterRequest s op q) = pump (hostOp (accepted s q) (waitingOf s op q) q.payload) := by
  rw [← take_request op h ho, takeRequest, if_neg (by rw [show s.sec.inReset = false from h.awake]; decide)]

/-- ECHO answers its payload (R526). -/
theorem hostOp_echo (h : Requests s q) :
    hostOp (accepted s q) (waitingOf s 3 q) q.payload = finish (accepted s q) (waitingOf s 3 q) 0 q.payload := by
  rw [hostOp, boot_accepted h]
  rfl

theorem pump_work {t : State} (h : NoRequests s) (hw : SameWork s t) : pump t = t :=
  pump_idle (hw.1.trans h.1) (hw.2.2.1.trans h.2)

/-- A message that carries a request is taken in as that request (R514). -/
theorem takeMessage_request {op : Nat} (ho : op < 65536) (h4 : q.payload.length % 4 = 0) (hp : q.payload.length ≤ 8192) :
    takeMessage s q.ep (requestMsg op q.flow.toNat q.seq q.payload) 8192 q.tag.toNat q.sqIndex.toNat q.rspAddr.toNat q.rspCap.toNat =
      enterRequest s op q := by
  obtain ⟨hop, hfl, -, hseq, -, hpay, -⟩ := requestMsg_parts (seq := q.seq) ho q.flow.isLt hp
  rw [takeMessage, msgOk_requestMsg ho q.flow.isLt h4 hp]
  rw [if_neg (by decide), hop, hfl, hseq, hpay]
  simp only [word, BitVec.ofNat_toNat, BitVec.setWidth_eq]

theorem pump_echo (h : Requests s q) (h4 : q.payload.length % 4 = 0) (hp : q.payload.length ≤ 8192)
    (hl : ∀ l, q.ep ≠ .legacy l) :
    pump (takeMessage s q.ep (requestMsg 3 q.flow.toNat q.seq q.payload) 8192 q.tag.toNat q.sqIndex.toNat q.rspAddr.toNat q.rspCap.toNat) =
      finish (accepted s q) (waitingOf s 3 q) 0 q.payload := by
  rw [takeMessage_request (by decide) h4 hp, pump_enter 3 h (.inl hl), hostOp_echo h]
  exact pump_work h.quiet ((work_accepted s q).trans (work_finish _ _ _ _))

theorem pending_finish_accepted (s : State) (q : Req) (w : Waiting) (st : Nat) (p : List Byte) :
    (finish (accepted s q) w st p).pending = s.pending :=
  ((work_accepted s q).trans (work_finish _ w st p)).2.2.2

end requests

section complete

variable {s : State} {w : Waiting}

theorem find_waiting (hw : s.host.waiting = [w]) : (s.host.waiting.find? fun v => v.id == w.id) = some w := by
  simp [hw]

theorem queued_unwait (s : State) (id : Nat) : (unwait s id).host.queued = s.host.queued := rfl

/-- A response that has gone out leaves nothing to go on with. -/
theorem exec_requestComplete (h : Awake s) (hq : NoRequests s) {u : State} {st : Nat} {p : List Byte}
    (ht : tryComplete s w.id = finish u w st p) (huq : u.host.queued = s.host.queued) (hum : u.mbx = s.mbx)
    (hup : u.pending = s.pending) : exec (.requestComplete w.id) s = .next (finish u w st p) := by
  have hf := work_finish u w st p
  refine exec_run (f := awake fun s => requestComplete s w.id) rfl ?_ (hf.2.2.2.trans hup)
  rw [awake_eq h, requestComplete, ht]
  refine pump_idle (hf.1.trans (huq.trans hq.1)) (hf.2.2.1.trans ?_)
  rw [hum]
  exact hq.2

theorem tryComplete_ready (hw : s.host.waiting = [w]) {st : Nat} {p : List Byte} (hr : w.wait = .ready st p) :
    tryComplete s w.id = finish (unwait s w.id) w st p := by
  simp only [tryComplete, find_waiting hw, hr]

theorem tryComplete_result (hw : s.host.waiting = [w]) {reg hi lo ok extra : Nat} (hr : w.wait = .result reg hi lo ok extra)
    (ho : w.opcode ≠ 0x0302) (hu : unapplied s w = false) (hp : opPending s w reg = false) :
    tryComplete s w.id = finish (unwait s w.id) w (if fld s reg hi lo = ok then 0 else 4) (genericG w.land (fld s reg hi lo)) := by
  have hop : (w.opcode == 0x0302) = false := by simp [ho]
  simp only [tryComplete, find_waiting hw, hr, hu, hp, hop, Bool.or_self, Bool.false_eq_true, if_false, replyG, beq_iff_eq]
  split <;> rfl

theorem serviceReply_refused (s : State) (w : Waiting) (op : Nat) {d : SvcDone} (h : d.result ≠ 0) :
    serviceReply s w op d = finish s w 13 (genericG w.land d.result) := by
  unfold serviceReply
  exact if_pos (by simp [h])

theorem tryComplete_service (hw : s.host.waiting = [w]) {op : Nat} {d : SvcDone} (hr : w.wait = .service op) (hd : s.ring.done = [d])
    (ho : d.origin = .host w.id) (hres : d.result ≠ 0) : tryComplete s w.id = finish
      (unwait { s with ring := { s.ring with done := [] } } w.id) w 13 (genericG w.land d.result) := by
  simp only [tryComplete, find_waiting hw, hr, hd, ho, List.find?_cons, beq_self_eq_true]
  have hf : ringMod s (fun r => { r with done := r.done.filter fun d => !(d.origin == .host w.id) }) =
      { s with ring := { s.ring with done := [] } } := by simp [ringMod, hd, ho]
  rw [hf]
  exact serviceReply_refused _ w op hres

end complete

section flows

variable {s : State} {q : Req}

/-- The flow that FLOW_OPEN leaves (R518, R519). -/
structure Opened (s : State) (q : Req) (limit : Nat) (u : State) : Prop where
  owner : (flow u q.flow.toNat).owner = some q.ep
  expected : (flow u q.flow.toNat).expected = q.seq + 1
  limit : (flow u q.flow.toNat).limit = limit
  out : u.out = s.out
  work : SameWork s u

/-- The payload of FLOW_OPEN (R518). -/
theorem openPayload {limit : Nat} (hp : q.payload = leBytes 4 0 ++ leBytes 4 limit) (hhi : limit ≤ 8192) :
    q.payload.length = 8 ∧ field q.payload 0 4 = 0 ∧ field q.payload 4 4 = limit := by
  rw [hp]
  exact ⟨rfl, rfl, (leVal_leBytes 4 limit).trans (Nat.mod_eq_of_lt (by omega))⟩

theorem opFlowOpen_opens {w : Waiting} {ip : Word} {port : Half} {e : Fin 2} (he : q.ep = .udp ip port e) (hwe : w.ep = q.ep)
    (hwf : w.flow = q.flow.toNat) (hws : w.seq = q.seq) {limit : Nat} (hp : q.payload = leBytes 4 0 ++ leBytes 4 limit)
    (hlo : 256 ≤ limit) (hhi : limit ≤ 8192) (ho : (flow s q.flow.toNat).owner = some q.ep) :
    ∃ u, opFlowOpen s w q.payload = finish u w 0 (leBytes 4 (q.seq + 1).toNat) ∧ Opened s q limit u := by
  obtain ⟨hlen, h0, h4⟩ := openPayload hp hhi
  refine ⟨setFlow s q.flow.toNat { flow s q.flow.toNat with expected := q.seq + 1, limit := limit }, ?_, ?_⟩
  · rw [opFlowOpen, hlen, h0, h4, hwe, he, hwf, hws]
    dsimp only
    rw [if_neg (by decide), if_neg (by simp; omega)]
    rfl
  · have hf := flow_setFlow_same s q.flow.toNat { flow s q.flow.toNat with expected := q.seq + 1, limit := limit }
    refine ⟨?_, ?_, ?_, rfl, rfl, rfl, rfl, rfl⟩ <;> rw [hf]
    exact ho

theorem openFlow_opens {w : Waiting} {ip : Word} {port : Half} {e : Fin 2} (he : q.ep = .udp ip port e)
    (hwf : w.flow = q.flow.toNat) {limit : Nat} (hp : q.payload = leBytes 4 0 ++ leBytes 4 limit) (hf : q.flow.toNat < 240)
    (ho : (flow s q.flow.toNat).owner = none) (hlo : 256 ≤ limit) (hhi : limit ≤ 8192) :
    ∃ u v, openFlow s w 1 q = finish u (waitingOf v 1 q) 0 (leBytes 4 (q.seq + 1).toNat) ∧ Opened s q limit u := by
  obtain ⟨hlen, h0, h4⟩ := openPayload hp hhi
  have hown : flowOwner s w.flow = none := by rw [flowOwner, hwf, if_neg (by simp; omega), ho]
  obtain ⟨v, hv⟩ : ∃ v, setFlow (freeFlow s q.flow.toNat) q.flow.toNat
      { owner := some q.ep, expected := q.seq + 1, limit := limit, last := s.raw } = v := ⟨_, rfl⟩
  have hexec : openFlow s w 1 q = execRequest v 1 q := by
    rw [openFlow, hlen, h0, h4, hown, he, hwf, ← hv, he]
    dsimp only
    rw [if_neg (by decide), if_neg (by simp; omega), if_neg (by decide)]
    rfl
  have hflow : (flow v q.flow.toNat).owner = some q.ep := by rw [← hv, flow_setFlow_same]
  have hout : v.out = s.out := by rw [← hv]; rfl
  have hwork : SameWork s v := by rw [← hv]; exact ⟨rfl, rfl, rfl, rfl⟩
  obtain ⟨u, hu, hop⟩ := opFlowOpen_opens (s := bump (hostMod v fun h => { h with nextId := h.nextId + 1 }) Reg.HOST_MSG_CNT)
    (w := waitingOf v 1 q) he rfl rfl rfl hp hlo hhi hflow
  refine ⟨u, v, ?_, hop.owner, hop.expected, hop.limit, hop.out.trans hout,
    hwork.trans (SameWork.trans ⟨rfl, rfl, rfl, rfl⟩ hop.work)⟩
  rw [hexec, execRequest, hostOp, if_neg (by rw [show recoveryOpcodes.contains (waitingOf v 1 q).opcode = true from rfl]; simp)]
  exact hu

theorem enterRequest_open {ip : Word} {port : Half} {e : Fin 2} (he : q.ep = .udp ip port e) (hf : q.flow.toNat < 240)
    (ho : (flow s q.flow.toNat).owner = none) : enterRequest s 1 q = openFlow s (waitingOf s 1 q) 1 q := by
  have hown : flowOwner s q.flow.toNat = none := by rw [flowOwner, if_neg (by simp; omega), ho]
  rw [enterRequest, hown, he]
  dsimp only
  rw [if_neg (by omega), if_neg (by omega), if_neg (by decide), if_neg (by simp), if_pos (by decide)]

theorem completes_flowOpen (h : Awake s) (hn : NoRequests s) {limit : Nat} (hf : q.flow.toNat < 240)
    (ho : (flow s q.flow.toNat).owner = none) (he : ∃ ip port e, q.ep = .udp ip port e)
    (hp : q.payload = leBytes 4 0 ++ leBytes 4 limit) (hlo : 256 ≤ limit) (hhi : limit ≤ 8192) :
    Completes (.flowOpen q) s fun t => (flow t q.flow.toNat).owner = some q.ep ∧ (flow t q.flow.toNat).expected = q.seq + 1 ∧
        (flow t q.flow.toNat).limit = limit ∧
        t.out = s.out ++ [.response q.ep (rspMsg 1 q.flow.toNat q.seq 0 (leBytes 4 (q.seq + 1).toNat))] := by
  obtain ⟨ip, port, e, he⟩ := he
  obtain ⟨u, v, hu, hop⟩ := openFlow_opens (w := waitingOf s 1 q) he rfl hp hf ho hlo hhi
  obtain ⟨w, hw⟩ : ∃ w, waitingOf v 1 q = w := ⟨_, rfl⟩
  have hwe : w.ep = .udp ip port e := by rw [← hw]; exact he
  have hwf : w.flow = q.flow.toNat := by rw [← hw]; rfl
  have hfit : rspOf u w 0 (leBytes 4 (q.seq + 1).toNat) =
      (0, rspMsg 1 q.flow.toNat q.seq 0 (leBytes 4 (q.seq + 1).toNat)) := by
    have hl : rspLimit u w.ep w.flow = limit := by rw [rspLimit_udp hwe, hwf, hop.limit]
    rw [rspOf_fits (by rw [hl, length_leBytes]; omega), ← hw]
    rfl
  rw [hw] at hu
  have hrun : takeRequest s 1 q = finish u w 0 (leBytes 4 (q.seq + 1).toNat) := by
    rw [takeRequest, if_neg (by rw [show s.sec.inReset = false from h]; decide), enterRequest_open he hf ho, hu]
    exact pump_work hn (hop.work.trans (work_finish _ _ _ _))
  have hflow : flow (finish u w 0 (leBytes 4 (q.seq + 1).toNat)) q.flow.toNat = { flow u q.flow.toNat with
      stored := ((w.seq, rspMsg 1 q.flow.toNat q.seq 0 (leBytes 4 (q.seq + 1).toNat)) :: (flow u q.flow.toNat).stored).take 8 } := by
    rw [finish_udp hwe, hfit, ← hwf]
    exact flow_keptRsp u (rspMsg 1 w.flow q.seq 0 (leBytes 4 (q.seq + 1).toNat)) (by rw [hwf, hop.owner, hwe, he])
  refine completes_run (f := fun s => takeRequest s 1 q) rfl hrun ⟨?_, ?_, ?_, ?_⟩
  · exact (congrArg Flow.owner hflow).trans hop.owner
  · exact (congrArg Flow.expected hflow).trans hop.expected
  · exact (congrArg Flow.limit hflow).trans hop.limit
  · have ho := out_finish_udp (s := u) (st := 0) (p := leBytes 4 (q.seq + 1).toNat) hwe
    rw [hfit, hop.out] at ho
    rw [he, ← hwe]
    exact ho

theorem work_freeFlow (s : State) (n : Nat) : SameWork s (freeFlow s n) := ⟨rfl, rfl, rfl, rfl⟩

/-- FLOW_CLOSE answers and frees its flow (R518). -/
theorem exec_flowClose (h : Requests s q) (hl : ∀ l, q.ep ≠ .legacy l) (hp : q.payload = []) :
    exec (.flowClose q) s = .next (freeFlow (finish (accepted s q) (waitingOf s 2 q) 0 []) q.flow.toNat) := by
  have hop : hostOp (accepted s q) (waitingOf s 2 q) q.payload =
      freeFlow (finish (accepted s q) (waitingOf s 2 q) 0 []) q.flow.toNat := by
    rw [hostOp, boot_accepted h, hp]
    rfl
  have hw := ((work_accepted s q).trans (work_finish (accepted s q) (waitingOf s 2 q) 0 [])).trans (work_freeFlow _ q.flow.toNat)
  refine exec_run (f := fun s => takeRequest s 2 q) rfl ?_ hw.2.2.2
  rw [take_request 2 h (.inl hl), hop]
  exact pump_work h.quiet hw

@[simp] theorem flow_freeFlow_same (s : State) (n : Nat) : flow (freeFlow s n) n = {} := flow_setFlow_same s n {}

theorem flow_freeFlow_ne (s : State) {n k : Nat} (h : k ≠ n) : flow (freeFlow s n) k = flow s k := flow_setFlow_ne s {} h

theorem flow_event (s : State) (b e o d k : Nat) : flow (event s b e o d) k = flow s k := by
  rw [flow, (only_event s b e o d).flows, flow]

theorem completes_flowTimeout (h : Awake s) {n : Half} {ip : Word} {port : Half} {e : Fin 2}
    (ho : (flow s n.toNat).owner = some (.udp ip port e))
    (ht : (flow s n.toNat).last + max 1 (min 600 (fld s Reg.HOST_CFG 9 0)) * 1000000000 ≤ s.raw) :
    Completes (.flowTimeout n) s fun t => flow t n.toNat = {} ∧ (∀ k, k ≠ n.toNat → flow t k = flow s k) ∧ t.mem = s.mem := by
  have he : flowTimeout s n.toNat = event (freeFlow s n.toNat) HOST 2 n.toNat := by
    rw [flowTimeout, ho]
    exact if_neg (Nat.not_lt.mpr ht)
  refine completes_quiet_eq rfl h he ⟨?_, fun k hk => ?_, rfl⟩
  · exact (flow_event _ _ _ _ _ _).trans (flow_freeFlow_same _ _)
  · exact (flow_event _ _ _ _ _ _).trans (flow_freeFlow_ne _ hk)

theorem exec_udpEcho {ip : Word} {port : Half} {eth : Fin 2} {n : Half} {seq : Word} {payload : List Byte}
    (h4 : payload.length % 4 = 0) (hp : payload.length ≤ 8192)
    (h : Requests s { ep := .udp ip port eth, flow := n, seq := seq, payload := payload }) :
    exec (.udpCommand ip port eth (requestMsg 3 n.toNat seq payload)) s = .next (finish
        (accepted s { ep := .udp ip port eth, flow := n, seq := seq, payload := payload })
        (waitingOf s 3 { ep := .udp ip port eth, flow := n, seq := seq, payload := payload }) 0 payload) := by
  have he := pump_echo h h4 hp (fun l hl => by cases hl)
  refine exec_run (f := awake fun s => udpCommand s ip port eth (requestMsg 3 n.toNat seq payload)) rfl ?_
    (pending_finish_accepted _ _ _ _ _)
  rw [awake_eq h.awake, udpCommand]
  exact he

theorem work_discardMsg (s : State) : SameWork s (discardMsg s) :=
  SameWork.trans (t := bump s Reg.HOST_MSG_ERR_CNT) ⟨rfl, rfl, rfl, rfl⟩ (work_of_reports (only_event _ _ _ _ _))

theorem flows_discardMsg (s : State) : (discardMsg s).host.flows = s.host.flows := by
  rw [discardMsg, (only_event (bump s Reg.HOST_MSG_ERR_CNT) HOST 1 0 0).flows]
  rfl

theorem completes_udpCommand_malformed (h : Awake s) (hn : NoRequests s) {ip : Word} {port : Half} {eth : Fin 2} {m : List Byte}
    (hm : msgOk m 8192 = false) : Completes (.udpCommand ip port eth m) s fun t => t.host.flows = s.host.flows ∧
      (rd t Reg.HOST_MSG_ERR_CNT).toNat = min ((rd s Reg.HOST_MSG_ERR_CNT).toNat + 1) (2 ^ 32 - 1) := by
  have hd : udpCommand s ip port eth m = discardMsg s := by
    rw [udpCommand, takeMessage, hm]
    exact pump_work hn (work_discardMsg s)
  refine completes_run_eq (f := fun s => udpCommand s ip port eth m) rfl h hd ⟨?_, ?_⟩
  · exact flows_discardMsg s
  · rw [rd_queue, discardMsg, rd_event _ _ _ _ _ (by decide), rd_bump_toNat]

end flows

/-- Settles O58, command by command. -/
theorem flowCommandsComplete : Obligations.FlowCommandsComplete := by
  unfold Obligations.FlowCommandsComplete
  intro s h
  refine ⟨fun w st p hq hw hr => ?_, fun w reg hi lo ok extra hq hw hr ho hu hp => ?_, fun w op d hq hw hr hd ho hres => ?_,
    fun q limit hn _ hf ho he hp hlo hhi => completes_flowOpen h hn hf ho he hp hlo hhi, fun q hr hl hp => exec_flowClose hr hl hp,
    fun n ip port e ho ht => completes_flowTimeout h ho ht, fun ip port eth n seq p h4 hp hr => exec_udpEcho h4 hp hr,
    fun ip port eth m hn hm => completes_udpCommand_malformed h hn hm⟩
  · exact exec_requestComplete h hq (tryComplete_ready hw hr) rfl rfl rfl
  · exact exec_requestComplete h hq (tryComplete_result hw hr ho hu hp) rfl rfl rfl
  · exact exec_requestComplete h hq (tryComplete_service hw hr hd ho hres) rfl rfl rfl

end Sys2Proof.Machine

/-! ## Ring pairs, doorbells and interrupts (R534-R538, R544) -/

namespace Sys2Proof.Machine

section doorbells

variable {s : State} {r : Fin 8} {v : Word}

/-- The row of a register of the ring pairs (R544). -/
def ringRow (off : Nat) (mask : Word) : RegRow := ⟨off, 0x40, 8, 0, 1, .rw, 0, 0, mask⟩

theorem regAt_sqTail : ∀ r : Fin 8, regAt (Reg.HOST_SQ_TAIL r.val) = some (ringRow 0x100C 0xFFF, r.val, 0) := by decide
theorem regAt_cqHead : ∀ r : Fin 8, regAt (Reg.HOST_CQ_HEAD r.val) = some (ringRow 0x1020 0xFFF, r.val, 0) := by decide
theorem regAt_ringCtrl : ∀ r : Fin 8, regAt (Reg.HOST_RING_CTRL r.val) = some (ringRow 0x1028 0xFFFFFF03, r.val, 0) := by decide

theorem place_sqTail : ∀ r : Fin 8, (0x20000000 ≤ Reg.HOST_SQ_TAIL r.val ∧ Reg.HOST_SQ_TAIL r.val < 0x21000000 ∧
    Reg.HOST_SQ_TAIL r.val % 4 = 0) ∧ blockOf (Reg.HOST_SQ_TAIL r.val) = HOST := by decide
theorem place_cqHead : ∀ r : Fin 8, (0x20000000 ≤ Reg.HOST_CQ_HEAD r.val ∧ Reg.HOST_CQ_HEAD r.val < 0x21000000 ∧
    Reg.HOST_CQ_HEAD r.val % 4 = 0) ∧ blockOf (Reg.HOST_CQ_HEAD r.val) = HOST := by decide
theorem place_ringCtrl : ∀ r : Fin 8, (0x20000000 ≤ Reg.HOST_RING_CTRL r.val ∧ Reg.HOST_RING_CTRL r.val < 0x21000000 ∧
    Reg.HOST_RING_CTRL r.val % 4 = 0) ∧ blockOf (Reg.HOST_RING_CTRL r.val) = HOST := by decide

theorem hostWrite_sqTail (h : Reaches s .pcie (Reg.HOST_SQ_TAIL r.val) v) :
    hostWrite s .pcie (Reg.HOST_SQ_TAIL r.val) v = sqDoorbell s r.val v := by
  obtain ⟨hp, hb⟩ := place_sqTail r
  rw [write_reach h (regAt_sqTail r) hp (by rw [hb]; decide), hb]
  rfl

theorem hostWrite_cqHead (h : Reaches s .pcie (Reg.HOST_CQ_HEAD r.val) v) :
    hostWrite s .pcie (Reg.HOST_CQ_HEAD r.val) v = cqDoorbell s r.val v := by
  obtain ⟨hp, hb⟩ := place_cqHead r
  rw [write_reach h (regAt_cqHead r) hp (by rw [hb]; decide), hb]
  rfl

theorem hostWrite_evqHead (h : Reaches s .pcie Reg.HOST_EVQ_HEAD v) : hostWrite s .pcie Reg.HOST_EVQ_HEAD v = evqDoorbell s v :=
  (write_reach h (i := 0) (j := 0) rfl (by decide) (by decide)).trans rfl

theorem hostWrite_ringCtrl (h : Reaches s .pcie (Reg.HOST_RING_CTRL r.val) v) :
    hostWrite s .pcie (Reg.HOST_RING_CTRL r.val) v = ringPairCtrl s r v := by
  obtain ⟨hp, hb⟩ := place_ringCtrl r
  have hr : (⟨r.val % 8, Nat.mod_lt _ (by decide)⟩ : Fin 8) = r := Fin.ext (Nat.mod_eq_of_lt r.isLt)
  rw [write_reach h (regAt_ringCtrl r) hp (by rw [hb]; decide), hb]
  exact congrArg (ringPairCtrl s · v) hr

/-- An index of 12 bits is read back as it was written. -/
theorem wbits_index (v : Word) : wbits (v &&& 0xFFF) 11 0 = (v &&& 0xFFF).toNat := by
  have h : (v &&& 0xFFF).toNat < 2 ^ 12 := by
    rw [BitVec.toNat_and]
    exact Nat.and_lt_two_pow _ (by decide)
  rw [wbits, bits, Nat.pow_zero, Nat.div_one]
  exact Nat.mod_eq_of_lt h

/-- A written tail is compared with the length of its ring (R535). -/
theorem sqDoorbell_eq (s : State) (r : Nat) (v : Word) : sqDoorbell s r v =
    if ringLen s (Reg.HOST_SQ_SIZE r) ≤ (v &&& 0xFFF).toNat then ringError (okBus (wr s (Reg.HOST_SQ_TAIL r) (v &&& 0xFFF))) r 1
    else okBus (wr s (Reg.HOST_SQ_TAIL r) (v &&& 0xFFF)) := by
  have hlen : ringLen (okBus (wr s (Reg.HOST_SQ_TAIL r) (v &&& 0xFFF))) (Reg.HOST_SQ_SIZE r) = ringLen s (Reg.HOST_SQ_SIZE r) := by
    rw [ringLen, fld, rd_okBus, rd_wr_ne _ _ (by simp only [Reg.HOST_SQ_SIZE, Reg.HOST_SQ_TAIL]; omega), ← fld, ringLen]
  have htail : fld (okBus (wr s (Reg.HOST_SQ_TAIL r) (v &&& 0xFFF))) (Reg.HOST_SQ_TAIL r) 11 0 = (v &&& 0xFFF).toNat := by
    rw [fld, rd_okBus, rd_wr_same, wbits_index]
  rw [sqDoorbell, hlen, htail]

theorem fld_low_two {a : Nat} (h0 : fbit s a 0 = false) (h1 : fbit s a 1 = true) : fld s a 1 0 = 2 := by
  simp only [fbit, wbit, bit, fld, wbits, bits, beq_eq_false_iff_ne, beq_iff_eq] at *
  omega

theorem status_ne_errCnt (r : Fin 8) : Reg.HOST_RING_STATUS r.val ≠ Reg.HOST_RING_ERR_CNT := by
  simp only [Reg.HOST_RING_STATUS, Reg.HOST_RING_ERR_CNT]
  omega

theorem plain_ringRegs : ∀ r : Fin 8, reportReg (Reg.HOST_RING_STATUS r.val) = false ∧ reportReg (Reg.HOST_RING_CTRL r.val) = false ∧
    reportReg (Reg.HOST_SQ_HEAD r.val) = false := by decide

/-- A ring that stops shows its error and the cause (R535). -/
theorem ringError_shows (s : State) (r : Fin 8) {cause : Nat} (hc : cause < 16) :
    fld (ringError s r.val cause) (Reg.HOST_RING_STATUS r.val) 1 0 = 2 ∧
      fld (ringError s r.val cause) (Reg.HOST_RING_STATUS r.val) 7 4 = cause ∧
      rd (ringError s r.val cause) (Reg.HOST_SQ_HEAD r.val) = rd s (Reg.HOST_SQ_HEAD r.val) := by
  obtain ⟨hst, -, hhd⟩ := plain_ringRegs r
  obtain ⟨u, hu⟩ : ∃ u, setF (setBit (setBit s (Reg.HOST_RING_STATUS r.val) 0 false) (Reg.HOST_RING_STATUS r.val) 1 true)
      (Reg.HOST_RING_STATUS r.val) 7 4 cause = u := ⟨_, rfl⟩
  have h0 : fbit u (Reg.HOST_RING_STATUS r.val) 0 = false := by
    rw [← hu, fbit_setF_ne _ _ _ _ _ _ (by decide) (by decide) (by decide), fbit_setBit_ne _ _ _ _ _ (by decide) (by decide),
      fbit_setBit _ _ _ _ (by decide)]
  have h1 : fbit u (Reg.HOST_RING_STATUS r.val) 1 = true := by
    rw [← hu, fbit_setF_ne _ _ _ _ _ _ (by decide) (by decide) (by decide), fbit_setBit _ _ _ _ (by decide)]
  have h2 : fld u (Reg.HOST_RING_STATUS r.val) 7 4 = cause := by
    rw [← hu, fld_setF _ _ _ _ _ (by decide) (by decide)]
    exact Nat.mod_eq_of_lt hc
  have h3 : rd u (Reg.HOST_SQ_HEAD r.val) = rd s (Reg.HOST_SQ_HEAD r.val) := by
    have hne : Reg.HOST_SQ_HEAD r.val ≠ Reg.HOST_RING_STATUS r.val := by
      simp only [Reg.HOST_SQ_HEAD, Reg.HOST_RING_STATUS]
      omega
    rw [← hu, rd_setF_ne _ _ _ _ hne, rd_setBit_ne _ _ _ hne, rd_setBit_ne _ _ _ hne]
  rw [ringError, hu]
  have hkeep : rd (event (bump u Reg.HOST_RING_ERR_CNT) HOST 4 r.val cause) (Reg.HOST_RING_STATUS r.val) =
      rd u (Reg.HOST_RING_STATUS r.val) := by
    rw [rd_event _ _ _ _ _ hst, rd_bump_ne _ _ (status_ne_errCnt r)]
  refine ⟨?_, ?_, ?_⟩
  · rw [fld, hkeep]
    exact fld_low_two h0 h1
  · rw [fld, hkeep]
    exact h2
  · rw [rd_event _ _ _ _ _ hhd, rd_bump_ne _ _ (by simp only [Reg.HOST_SQ_HEAD, Reg.HOST_RING_ERR_CNT]; omega), h3]

theorem exec_sqDoorbell (h : Reaches s .pcie (Reg.HOST_SQ_TAIL r.val) v)
    (hv : (v &&& 0xFFF).toNat < ringLen s (Reg.HOST_SQ_SIZE r.val)) :
    exec (.sqDoorbell r v) s = .next (okBus (wr s (Reg.HOST_SQ_TAIL r.val) (v &&& 0xFFF))) := by
  have he : exec (.sqDoorbell r v) s = runQuiet (fun s => hostWrite s .pcie (Reg.HOST_SQ_TAIL r.val) v) s := rfl
  rw [he, runQuiet_eq, hostWrite_sqTail h, sqDoorbell_eq, if_neg (Nat.not_le.mpr hv)]
  rfl

theorem completes_sqDoorbell_error (h : Reaches s .pcie (Reg.HOST_SQ_TAIL r.val) v)
    (hv : ringLen s (Reg.HOST_SQ_SIZE r.val) ≤ (v &&& 0xFFF).toNat) :
    Completes (.sqDoorbell r v) s fun t => fld t (Reg.HOST_RING_STATUS r.val) 1 0 = 2 ∧
      fld t (Reg.HOST_RING_STATUS r.val) 7 4 = 1 := by
  have he : hostWrite s .pcie (Reg.HOST_SQ_TAIL r.val) v = ringError (okBus (wr s (Reg.HOST_SQ_TAIL r.val) (v &&& 0xFFF))) r.val 1 := by
    rw [hostWrite_sqTail h, sqDoorbell_eq, if_pos hv]
  obtain ⟨herr, hcause, -⟩ := ringError_shows (okBus (wr s (Reg.HOST_SQ_TAIL r.val) (v &&& 0xFFF))) r (cause := 1) (by decide)
  exact completes_port_eq (f := fun s => hostWrite s .pcie (Reg.HOST_SQ_TAIL r.val) v) rfl he ⟨herr, hcause⟩

end doorbells

section fetch

variable {s : State} {r : Fin 8} {entry : List Byte}

theorem completes_sqEntryFetch_failed (h : Awake s) (hon : fbit s (Reg.HOST_RING_STATUS r.val) 0 = true)
    (hne : fld s (Reg.HOST_SQ_HEAD r.val) 11 0 ≠ fld s (Reg.HOST_SQ_TAIL r.val) 11 0) (request : List Byte) :
    Completes (.sqEntryFetch r entry request false) s
        fun t => fld t (Reg.HOST_RING_STATUS r.val) 1 0 = 2 ∧ fld t (Reg.HOST_RING_STATUS r.val) 7 4 = 2 ∧
          fld t (Reg.HOST_SQ_HEAD r.val) 11 0 = fld s (Reg.HOST_SQ_HEAD r.val) 11 0 := by
  have he : sqEntryFetch s r entry request false = ringError s r.val 2 := by
    rw [sqEntryFetch, hon]
    dsimp only
    rw [if_neg (by simpa using hne)]
    rfl
  obtain ⟨herr, hcause, hhead⟩ := ringError_shows s r (cause := 2) (by decide)
  refine completes_run_eq (f := fun s => sqEntryFetch s r entry request false) rfl h he ⟨herr, hcause, ?_⟩
  rw [fld_queue, fld, hhead, fld]

theorem exec_sqEntryFetch_echo (h : Awake s) {q : Req} (hon : fbit s (Reg.HOST_RING_STATUS r.val) 0 = true)
    (hne : fld s (Reg.HOST_SQ_HEAD r.val) 11 0 ≠ fld s (Reg.HOST_SQ_TAIL r.val) 11 0) (hg : goodEntry entry)
    (hlen : field entry 8 4 = 16 + q.payload.length) (h4 : q.payload.length % 4 = 0) (hp : q.payload.length ≤ 8192) (hep : q.ep = .ring r)
    (htag : q.tag.toNat = field entry 14 2) (hix : q.sqIndex.toNat = fld s (Reg.HOST_SQ_HEAD r.val) 11 0)
    (haddr : q.rspAddr.toNat = field entry 16 8) (hcap : q.rspCap.toNat = field entry 24 4) (hr : Requests (fetchedEntry s r.val) q) :
    exec (.sqEntryFetch r entry (requestMsg 3 q.flow.toNat q.seq q.payload) true) s = .next (finish
        (accepted (fetchedEntry s r.val) q) (waitingOf (fetchedEntry s r.val) 3 q) 0 q.payload) := by
  obtain ⟨hl1, hl2, hc1, hc2, ha1, ha2, hz1, hz2⟩ := hg
  have hmsg : padTo (field entry 8 4) ((requestMsg 3 q.flow.toNat q.seq q.payload).take (field entry 8 4)) =
      requestMsg 3 q.flow.toNat q.seq q.payload := by
    obtain ⟨-, -, -, -, -, -, htot⟩ := requestMsg_parts (seq := q.seq) (by decide : 3 < 65536) q.flow.isLt hp
    rw [hlen, List.take_of_length_le (Nat.le_of_eq htot), padTo, htot, Nat.sub_self]
    exact List.append_nil _
  have hecho := pump_echo hr h4 hp (fun l hl => by rw [hep] at hl; cases hl)
  have he : sqEntryFetch s r entry (requestMsg 3 q.flow.toNat q.seq q.payload) true =
      pump (takeMessage (fetchedEntry s r.val) q.ep (requestMsg 3 q.flow.toNat q.seq q.payload) 8192 q.tag.toNat q.sqIndex.toNat
        q.rspAddr.toNat q.rspCap.toNat) := by
    rw [sqEntryFetch, hon, htag, hix, haddr, hcap, hep]
    dsimp only
    rw [if_neg (by simpa using hne), if_neg (by decide), if_neg]
    · rw [hmsg]
      rfl
    · simp only [ha1, ha2, hz1, hz2, Bool.or_eq_true, decide_eq_true_eq, bne_self_eq_false, Bool.false_eq_true, or_false]
      omega
  refine exec_run (f := awake fun s => sqEntryFetch s r entry (requestMsg 3 q.flow.toNat q.seq q.payload) true) rfl ?_
    (pending_finish_accepted _ _ _ _ _)
  rw [awake_eq h, he, hecho]

end fetch

section heads

variable {s : State} {r : Fin 8} {v : Word}

theorem work_setRing (s : State) (r : Nat) (x : Ring) : SameWork s (setRing s r x) := ⟨rfl, rfl, rfl, rfl⟩

/-- With nothing waiting for room a head doorbell only restarts the coalescing (R536, R537). -/
theorem cqDoorbell_eq (hb : (ringOf s r.val).backlog = []) : cqDoorbell s r.val v =
    setRing (setRing (okBus (wr s (Reg.HOST_CQ_HEAD r.val) (v &&& 0xFFF))) r.val { ringOf s r.val with count := 0 }) r.val
      { ringOf s r.val with count := 0, stalled := false } := by
  have hr : ringOf (okBus (wr s (Reg.HOST_CQ_HEAD r.val) (v &&& 0xFFF))) r.val = ringOf s r.val := rfl
  rw [cqDoorbell]
  simp only [hr, ringOf_setRing_same, cqDrain, hb]

theorem completes_cqDoorbell (hn : NoRequests s) (h : Reaches s .pcie (Reg.HOST_CQ_HEAD r.val) v) (hb : (ringOf s r.val).backlog = []) :
    Completes (.cqDoorbell r v) s fun t => rd t (Reg.HOST_CQ_HEAD r.val) = v &&& 0xFFF ∧
        ringOf t r.val = { ringOf s r.val with count := 0, stalled := false } ∧ t.bus.err = false := by
  have he := (hostWrite_cqHead h).trans (cqDoorbell_eq (v := v) hb)
  obtain ⟨u, hu⟩ : ∃ u, setRing (okBus (wr s (Reg.HOST_CQ_HEAD r.val) (v &&& 0xFFF))) r.val { ringOf s r.val with count := 0 } = u := ⟨_, rfl⟩
  have hrd : rd u (Reg.HOST_CQ_HEAD r.val) = v &&& 0xFFF := by
    rw [← hu, rd_of_regs (setRing_regs _ _ _), rd_okBus, rd_wr_same]
  have hbus : u.bus.err = false := by rw [← hu]; rfl
  have hw : SameWork s u := by rw [← hu]; exact ⟨rfl, rfl, rfl, rfl⟩
  rw [hu] at he
  refine completes_run (f := fun s => pump (hostWrite s .pcie (Reg.HOST_CQ_HEAD r.val) v)) rfl
    ((congrArg pump he).trans (pump_work hn (hw.trans (work_setRing _ _ _)))) ⟨hrd, ?_, hbus⟩
  exact ringOf_setRing_same u r.val _

theorem completes_evqDoorbell (h : Reaches s .pcie Reg.HOST_EVQ_HEAD v) :
    Completes (.evqDoorbell v) s fun t => rd t Reg.HOST_EVQ_HEAD = v &&& 0xFFF ∧
      ringOf t 8 = { ringOf s 8 with count := 0 } ∧ t.bus.err = false := by
  refine completes_port_eq (f := fun s => hostWrite s .pcie Reg.HOST_EVQ_HEAD v) rfl (hostWrite_evqHead h) ⟨?_, ?_, rfl⟩
  · exact rd_wr_same _ _ _
  · exact ringOf_setRing_same _ 8 _

end heads

section freed

variable {s : State}

theorem mem_of_tget_ne {α : Type} (d : Nat → α) (t : Table α) {k : Nat} (h : tget d t k ≠ d k) : (k, tget d t k) ∈ t := by
  induction t with
  | nil => exact absurd rfl h
  | cons e t ih =>
    obtain ⟨a, x⟩ := e
    by_cases ha : a = k
    · have : tget d ((a, x) :: t) k = x := if_pos (by simp [ha])
      rw [this, ha]
      exact List.mem_cons_self
    · have : tget d ((a, x) :: t) k = tget d t k := if_neg (by simp [ha])
      rw [this] at h ⊢
      exact List.mem_cons_of_mem _ (ih h)

/-- A flow that is freed with others is free, and the others are as they were. -/
theorem flow_freeAll (l : List (Nat × Flow)) (s : State) (n : Nat) : flow (l.foldl (fun s e => freeFlow s e.1) s) n =
    if n ∈ l.map (·.1) then {} else flow s n := by
  induction l generalizing s with
  | nil => rfl
  | cons e l ih =>
    rw [List.foldl_cons, ih, List.map_cons]
    by_cases hn : n ∈ l.map (·.1)
    · rw [if_pos hn, if_pos (List.mem_cons_of_mem _ hn)]
    · rw [if_neg hn]
      by_cases he : n = e.1
      · rw [he, flow_freeFlow_same, if_pos List.mem_cons_self]
      · rw [flow_freeFlow_ne _ he, if_neg (by simp [he, hn])]

/-- No flow is left to the endpoints whose flows are freed (R518). -/
theorem owner_freeFlows (s : State) (p : Endpoint → Bool) (n : Nat) {e : Endpoint} (hp : p e = true) :
    (flow (freeFlows s p) n).owner ≠ some e := by
  intro ho
  rw [freeFlows, flow_freeAll] at ho
  split at ho
  · cases ho
  · next hn =>
    refine hn (List.mem_map.mpr ⟨(n, flow s n), List.mem_filter.mpr ⟨?_, ?_⟩, rfl⟩)
    · exact mem_of_tget_ne (fun _ => ({} : Flow)) s.host.flows (fun hf : flow s n = {} => by rw [hf] at ho; cases ho)
    · simp [ho, hp]

theorem freeFlows_keeps {β : Type} (g : State → β) (h : ∀ s n, g (freeFlow s n) = g s) (s : State) (p : Endpoint → Bool) :
    g (freeFlows s p) = g s :=
  foldl_keeps g (f := fun (s : State) (e : Nat × Flow) => freeFlow s e.1) (fun _ _ => h _ _) _ _

theorem freeFlow_regs (s : State) (n : Nat) : (freeFlow s n).regs = s.regs := rfl

theorem freeFlows_regs (s : State) (p : Endpoint → Bool) : (freeFlows s p).regs = s.regs := freeFlows_keeps State.regs freeFlow_regs s p

end freed

section pairs

variable {s : State} {r : Fin 8} {v : Word}

theorem status_ne_ctrl (r : Fin 8) : Reg.HOST_RING_STATUS r.val ≠ Reg.HOST_RING_CTRL r.val := by
  simp only [Reg.HOST_RING_STATUS, Reg.HOST_RING_CTRL]
  omega

theorem completes_ringPair_enabled (h : Reaches s .pcie (Reg.HOST_RING_CTRL r.val) v) (hv : wbit v 0 = true)
    (hoff : fbit s (Reg.HOST_RING_CTRL r.val) 0 = false) :
    Completes (.ringPairCtrl r v) s fun t => rd t (Reg.HOST_RING_CTRL r.val) = v &&& 0xFFFFFF03 ∧
        fld t (Reg.HOST_RING_STATUS r.val) 1 0 = 1 ∧ fld t (Reg.HOST_RING_STATUS r.val) 7 4 = 0 := by
  have he : ringPairCtrl s r v = setF (setF (okBus (wr s (Reg.HOST_RING_CTRL r.val) (v &&& 0xFFFFFF03)))
      (Reg.HOST_RING_STATUS r.val) 1 0 1) (Reg.HOST_RING_STATUS r.val) 7 4 0 := by
    rw [ringPairCtrl, hoff, hv]
    rfl
  refine completes_port_eq (f := fun s => hostWrite s .pcie (Reg.HOST_RING_CTRL r.val) v) rfl ((hostWrite_ringCtrl h).trans he) ⟨?_, ?_, ?_⟩
  · rw [rd_frame, rd_setF_ne _ _ _ _ (status_ne_ctrl r).symm, rd_setF_ne _ _ _ _ (status_ne_ctrl r).symm, rd_okBus, rd_wr_same]
  · rw [fld_frame, fld_setF_ne _ _ _ _ _ _ _ (by decide) (by decide) (by decide), fld_setF _ _ _ _ _ (by decide) (by decide)]
    rfl
  · rw [fld_frame, fld_setF _ _ _ _ _ (by decide) (by decide)]
    rfl

theorem completes_ringPair_disabled (h : Reaches s .pcie (Reg.HOST_RING_CTRL r.val) v) (hv : wbit v 0 = false)
    (hon : fbit s (Reg.HOST_RING_CTRL r.val) 0 = true) (hnone : fld s (Reg.HOST_RING_STATUS r.val) 31 16 = 0) :
    Completes (.ringPairCtrl r v) s fun t => fbit t (Reg.HOST_RING_STATUS r.val) 0 = false ∧
      ∀ n, (flow t n).owner ≠ some (.ring r) := by
  obtain ⟨u, hu⟩ : ∃ u, setBit (okBus (wr s (Reg.HOST_RING_CTRL r.val) (v &&& 0xFFFFFF03))) (Reg.HOST_RING_STATUS r.val) 0 false = u :=
    ⟨_, rfl⟩
  have hout : fld (okBus (wr s (Reg.HOST_RING_CTRL r.val) (v &&& 0xFFFFFF03))) (Reg.HOST_RING_STATUS r.val) 31 16 = 0 := by
    rw [fld, rd_okBus, rd_wr_ne _ _ (status_ne_ctrl r), ← fld, hnone]
  have he : ringPairCtrl s r v = freeFlows u fun e => e == .ring r := by
    rw [ringPairCtrl, hon, hv, hout, ← hu]
    rfl
  have hst : fbit u (Reg.HOST_RING_STATUS r.val) 0 = false := by rw [← hu, fbit_setBit _ _ _ _ (by decide)]
  refine completes_port_eq (f := fun s => hostWrite s .pcie (Reg.HOST_RING_CTRL r.val) v) rfl ((hostWrite_ringCtrl h).trans he) ⟨?_, ?_⟩
  · rw [fbit_frame, fbit_of_regs (freeFlows_regs _ _), hst]
  · exact fun n => owner_freeFlows u (fun e => e == .ring r) n (beq_self_eq_true _)

theorem completes_msixCoalesce (h : Awake s) {vec : Fin 10} (hv : vec.val < 9) (hc : (ringOf s vec.val).count ≠ 0)
    (hus : fld s (vecCtrl vec.val) 31 16 ≠ 0) (hon : fbit s (vecCtrl vec.val) 1 = true)
    (ht : (ringOf s vec.val).firstRaw + 1000 * fld s (vecCtrl vec.val) 31 16 ≤ s.raw) :
    Completes (.msixCoalesceTimeout vec) s fun t => t.out = s.out ++ [.msix vec.val] ∧
      ringOf t vec.val = { ringOf s vec.val with count := 0 } ∧ t.regs = s.regs := by
  have he : coalesceTimeout s vec.val = setRing (emit s (.msix vec.val)) vec.val { ringOf s vec.val with count := 0 } := by
    rw [coalesceTimeout]
    refine if_neg ?_
    simp only [hon, Bool.or_eq_true, decide_eq_true_eq, beq_iff_eq, Bool.not_true, Bool.false_eq_true, or_false]
    omega
  exact completes_quiet_eq (f := fun s => coalesceTimeout s vec.val) rfl h he ⟨rfl, ringOf_setRing_same _ _ _, rfl⟩

end pairs

section linkReset

variable {s : State}

/-- Whose flows and requests end with the PCIe link (R538): those of ring pairs and legacy queues. -/
def overPcie : Endpoint → Bool
  | .ring _ => true
  | .legacy _ => true
  | .udp _ _ _ => false

/-- The requests over PCIe are dropped with their flows (R538). -/
def pcieDropped (s : State) : State :=
  hostMod (freeFlows s overPcie) fun h => { h with
    waiting := s.host.waiting.filter fun w => !overPcie w.ep
    queued := s.host.queued.filter fun q => !overPcie q.2.ep, rings := [] }

/-- The registers of the ring pairs and of the event ring go to their reset values (R538). -/
def ringsReset (s : State) : State :=
  ((List.range 8).flatMap ringRegs ++ evqRegs).foldl (fun s a => wr s a (resetOf a)) s

theorem pcieLinkReset_eq (s : State) :
    pcieLinkReset s = event (releaseLocks (mbxMod (ringsReset (pcieDropped s)) fun m => { m with queues := [] }) 0x01) HOST 6 := rfl

theorem rd_ringsReset (s : State) {a : Nat} (h : a ∈ (List.range 8).flatMap ringRegs ++ evqRegs) : rd (ringsReset s) a = resetOf a :=
  foldl_wr_mem (f := fun a => a) (v := resetOf) (fun _ _ h => h) _ s h

theorem ringsReset_host (s : State) : (ringsReset s).host = s.host := by
  unfold ringsReset
  exact foldl_keeps State.host (f := fun s a => wr s a (resetOf a)) (fun _ _ => rfl) _ s

theorem mem_ringRegs (r : Fin 8) {i : Nat} (h : i < 12) :
    0x20F01000 + 0x40 * r.val + 4 * i ∈ (List.range 8).flatMap ringRegs ++ evqRegs :=
  List.mem_append_left _ (List.mem_flatMap.mpr ⟨r.val, List.mem_range.mpr r.isLt, List.mem_map.mpr ⟨i, List.mem_range.mpr h, rfl⟩⟩)

theorem ringRegs_zero : ∀ r : Fin 8, resetOf (Reg.HOST_RING_CTRL r.val) = 0 ∧ resetOf (Reg.HOST_RING_STATUS r.val) = 0 := by decide

theorem pcieDropped_owner (s : State) (r : Fin 8) (n : Nat) : (flow (pcieDropped s) n).owner ≠ some (.ring r) :=
  owner_freeFlows s overPcie n rfl

theorem event_flows (s : State) (b e o d : Nat) : (event s b e o d).host.flows = s.host.flows := by rw [(only_event s b e o d).flows]

theorem event_waiting (s : State) (b e o d : Nat) : (event s b e o d).host.waiting = s.host.waiting := by
  rw [(only_event s b e o d).flows]

theorem releaseLocks_queues (s : State) (id : Nat) : (releaseLocks s id).mbx.queues = s.mbx.queues :=
  releaseLocks_keeps (fun s => s.mbx.queues) (fun _ _ => rfl) (fun s b e o d => congrArg Mbx.queues (only_event s b e o d).mbx) s id

theorem releaseLocks_flows (s : State) (id : Nat) : (releaseLocks s id).host.flows = s.host.flows :=
  releaseLocks_keeps (fun s => s.host.flows) (fun _ _ => rfl) (fun s b e o d => by rw [(only_event s b e o d).flows]) s id

theorem releaseLocks_waiting (s : State) (id : Nat) : (releaseLocks s id).host.waiting = s.host.waiting :=
  releaseLocks_keeps (fun s => s.host.waiting) (fun _ _ => rfl) (fun s b e o d => by rw [(only_event s b e o d).flows]) s id

/-- The PCIe link reset leaves no ring pair running, no queue filled, and no flow or request over PCIe (R538). -/
theorem pcieLinkReset_shows (s : State) (r : Fin 8) :
    rd (pcieLinkReset s) (Reg.HOST_RING_CTRL r.val) = 0 ∧ rd (pcieLinkReset s) (Reg.HOST_RING_STATUS r.val) = 0 ∧
      (pcieLinkReset s).mbx.queues = [] ∧ (pcieLinkReset s).host.flows = (pcieDropped s).host.flows ∧
      (pcieLinkReset s).host.waiting = (pcieDropped s).host.waiting := by
  obtain ⟨u, hu⟩ : ∃ u, ringsReset (pcieDropped s) = u := ⟨_, rfl⟩
  have hctrl : rd u (Reg.HOST_RING_CTRL r.val) = 0 := by
    have hm := mem_ringRegs r (i := 10) (by decide)
    rw [show 0x20F01000 + 0x40 * r.val + 4 * 10 = Reg.HOST_RING_CTRL r.val by simp only [Reg.HOST_RING_CTRL]; omega] at hm
    rw [← hu, rd_ringsReset _ hm, (ringRegs_zero r).1]
  have hst : rd u (Reg.HOST_RING_STATUS r.val) = 0 := by
    have hm := mem_ringRegs r (i := 11) (by decide)
    rw [show 0x20F01000 + 0x40 * r.val + 4 * 11 = Reg.HOST_RING_STATUS r.val by simp only [Reg.HOST_RING_STATUS]; omega] at hm
    rw [← hu, rd_ringsReset _ hm, (ringRegs_zero r).2]
  have hhost : u.host = (pcieDropped s).host := by rw [← hu, ringsReset_host]
  obtain ⟨hps, hpc, -⟩ := plain_ringRegs r
  rw [pcieLinkReset_eq, hu]
  obtain ⟨w, hw⟩ : ∃ w, mbxMod u (fun m => { m with queues := [] }) = w := ⟨_, rfl⟩
  have hwr : w.regs = u.regs := by rw [← hw]; rfl
  have hwh : w.host = u.host := by rw [← hw]; rfl
  have hwq : w.mbx.queues = [] := by rw [← hw]; rfl
  rw [hw]
  refine ⟨?_, ?_, ?_, ?_, ?_⟩
  · rw [rd_event _ _ _ _ _ hpc, rd_releaseLocks _ _ hpc, rd_of_regs hwr, hctrl]
  · rw [rd_event _ _ _ _ _ hps, rd_releaseLocks _ _ hps, rd_of_regs hwr, hst]
  · rw [event_mbx, releaseLocks_queues, hwq]
  · rw [event_flows, releaseLocks_flows, hwh, hhost]
  · rw [event_waiting, releaseLocks_waiting, hwh, hhost]

theorem pcieDropped_waiting (s : State) : (pcieDropped s).host.waiting =
    s.host.waiting.filter (fun w => match w.ep with | .udp _ _ _ => true | _ => false) := by
  have hf : (pcieDropped s).host.waiting = s.host.waiting.filter fun w => !overPcie w.ep := rfl
  rw [hf]
  refine List.filter_congr fun w _ => ?_
  cases w.ep <;> rfl

theorem completes_pcieLinkReset (h : Awake s) (r : Fin 8) :
    Completes .pcieLinkReset s fun t => fbit t (Reg.HOST_RING_CTRL r.val) 0 = false ∧
      fbit t (Reg.HOST_RING_STATUS r.val) 0 = false ∧ t.mbx.queues = [] ∧ (∀ n, (flow t n).owner ≠ some (.ring r)) ∧
      t.host.waiting = s.host.waiting.filter (fun w => match w.ep with | .udp _ _ _ => true | _ => false) ∧ t.mem = s.mem := by
  obtain ⟨hctrl, hst, hq, hf, hw⟩ := pcieLinkReset_shows s r
  obtain ⟨u, hu⟩ : ∃ u, pcieLinkReset s = u := ⟨_, rfl⟩
  rw [hu] at hctrl hst hq hf hw
  refine completes_quiet_eq (f := pcieLinkReset) rfl h hu ⟨?_, ?_, hq, fun n => ?_, ?_, rfl⟩
  · rw [fbit_frame, fbit, hctrl]
    rfl
  · rw [fbit_frame, fbit, hst]
    rfl
  · have hn : flow u n = flow (pcieDropped s) n := by rw [flow, hf, flow]
    exact fun ho => pcieDropped_owner s r n ((congrArg Flow.owner hn).symm.trans ho)
  · exact hw.trans (pcieDropped_waiting s)

end linkReset

/-- Settles O59, command by command. -/
theorem ringPairCommandsComplete : Obligations.RingPairCommandsComplete := by
  unfold Obligations.RingPairCommandsComplete
  intro s h r
  exact ⟨fun v hr hv => exec_sqDoorbell hr hv, fun v hr hv => completes_sqDoorbell_error hr hv,
    fun entry request hon hne => completes_sqEntryFetch_failed h hon hne request,
    fun entry q hon hne hg hlen h4 hp hep htag hix haddr hcap hr =>
      exec_sqEntryFetch_echo h hon hne hg hlen h4 hp hep htag hix haddr hcap hr,
    fun v hn hr hb => completes_cqDoorbell hn hr hb, fun v hr => completes_evqDoorbell hr,
    fun v hr hv hoff => completes_ringPair_enabled hr hv hoff, fun v hr hv hon hnone => completes_ringPair_disabled hr hv hon hnone,
    fun vec hv hc hus hon ht => completes_msixCoalesce h hv hc hus hon ht, completes_pcieLinkReset h r⟩

end Sys2Proof.Machine

/-! ## The reading requests (R519, R526, R527) -/

namespace Sys2Proof.Machine

section accepted

variable (s : State) (q : Req)

/-- To accept a request changes the host block and the count of requests only (R519). -/
theorem accepted_eq : ∃ host v, accepted s q = wr { s with host := host } Reg.HOST_MSG_CNT v := by
  unfold accepted
  cases q.ep <;> exact ⟨_, _, rfl⟩

theorem accepted_keeps {β : Type} (g : State → β) (hw : ∀ s v, g (wr s Reg.HOST_MSG_CNT v) = g s)
    (hh : ∀ (s : State) host, g { s with host := host } = g s) : g (accepted s q) = g s := by
  obtain ⟨host, v, he⟩ := accepted_eq s q
  rw [he, hw, hh]

@[simp] theorem accepted_mem : (accepted s q).mem = s.mem := accepted_keeps s q State.mem (fun _ _ => rfl) fun _ _ => rfl
@[simp] theorem accepted_act : (accepted s q).act = s.act := accepted_keeps s q State.act (fun _ _ => rfl) fun _ _ => rfl
@[simp] theorem accepted_pwr : (accepted s q).pwr = s.pwr := accepted_keeps s q State.pwr (fun _ _ => rfl) fun _ _ => rfl
@[simp] theorem accepted_sec : (accepted s q).sec = s.sec := accepted_keeps s q State.sec (fun _ _ => rfl) fun _ _ => rfl
@[simp] theorem accepted_flt : (accepted s q).flt = s.flt := accepted_keeps s q State.flt (fun _ _ => rfl) fun _ _ => rfl
@[simp] theorem accepted_twin : (accepted s q).twin = s.twin := accepted_keeps s q State.twin (fun _ _ => rfl) fun _ _ => rfl
@[simp] theorem accepted_subs : (accepted s q).host.subs = s.host.subs := by unfold accepted; cases q.ep <;> rfl

theorem readMem_accepted (r : Region) (a n : Nat) : readMem (accepted s q) r a n = readMem s r a n := by
  rw [readMem, accepted_mem, readMem]

theorem actv_accepted (a : Nat) : actv (accepted s q) a = actv s a := by rw [actv, accepted_act, actv]

theorem par_accepted (a i : Nat) : par (accepted s q) a i = par s a i := actv_accepted s q _

theorem fbit_accepted {a : Nat} (h : a ≠ Reg.HOST_MSG_CNT) (i : Nat) : fbit (accepted s q) a i = fbit s a i := by
  rw [fbit, rd_accepted s q h, fbit]

theorem coef_accepted (a i : Nat) : coef (accepted s q) a i = coef s a i := by
  have hd : doubleBank (accepted s q) = doubleBank s := by exact fbit_accepted s q (by decide) 9
  have hl : (accepted s q).loop = s.loop := accepted_keeps s q State.loop (fun _ _ => rfl) fun _ _ => rfl
  rw [coef, bankWord, activeBank, hd, hl]
  rfl

theorem spArch_accepted (i : Nat) : spArch (accepted s q) i = spArch s i := by rw [spArch, actF, actv_accepted, spArch, actF]

theorem spArea_accepted (i : Nat) : spArea (accepted s q) i = spArea s i := by
  simp only [spArea, spArch_accepted, actv_accepted]

theorem readable_accepted {port : Port} {a : Nat} (h : Readable s port a) : Readable (accepted s q) port a where
  awake := by rw [Awake, accepted_sec]; exact h.awake
  port := by rw [accepted_pwr]; exact h.port
  block := by rw [accepted_flt]; exact h.block
  power := by
    have := h.power
    unfold blockOff at this ⊢
    rw [accepted_pwr]
    exact this

end accepted

/-- The payload of a read: an address and a length (R526). -/
theorem pairPayload {p : List Byte} {a n : Nat} (hp : p = leBytes 4 a ++ leBytes 4 n) (ha : a < 2 ^ 32) (hn : n < 2 ^ 32) :
    p.length = 8 ∧ field p 0 4 = a ∧ field p 4 4 = n := by
  rw [hp]
  exact ⟨rfl, (leVal_leBytes 4 a).trans (Nat.mod_eq_of_lt ha), (leVal_leBytes 4 n).trans (Nat.mod_eq_of_lt hn)⟩

/-- The payload of a request about one object: its number (R526). -/
theorem wordPayload {p : List Byte} {a : Nat} (hp : p = leBytes 4 a) (ha : a < 2 ^ 32) : p.length = 4 ∧ field p 0 4 = a := by
  rw [hp]
  exact ⟨rfl, (leVal_leBytes 4 a).trans (Nat.mod_eq_of_lt ha)⟩

section reads

variable {s : State} {q : Req}

theorem replies_echo (h : Requests s q) : Replies (.echo q) s q 0x0003 0 q.payload (· = accepted s q) :=
  replies_of rfl h (.inr (by decide)) (hostOp_echo h) (.refl _) rfl

/-- REG_READ of one word that a read reaches (R526, R527). -/
theorem opRegRead_word {t u : State} {w : Waiting} {b : List Byte} {a : Nat} (hb : b = leBytes 4 a ++ leBytes 4 1) (hlo : 0x20000000 ≤ a)
    (hhi : a < 0x21000000) (h4 : a % 4 = 0) (hl : 4 ≤ rspLimit t w.ep w.flow) (hr : readReg t .proto a = u) (he : u.bus.err = false) :
    opRegRead t w b = finish u w 0 (leBytes 4 u.bus.data.toNat) := by
  obtain ⟨hlen, h0, h1⟩ := pairPayload hb (by omega) (by decide)
  rw [opRegRead, hlen, h0, h1]
  rw [if_neg (by decide), if_neg (by simp [h4]), if_neg (by simp; omega), if_neg (by simp; omega)]
  simp only [takeWords, hr, he, Bool.false_eq_true, if_false, List.nil_append]

theorem replies_regRead (h : Requests s q) {a : Nat} (hp : q.payload = leBytes 4 a ++ leBytes 4 1) (hlo : 0x20000000 ≤ a)
    (hhi : a < 0x21000000) (h4 : a % 4 = 0) (hl : 4 ≤ rspLimit (accepted s q) q.ep q.flow.toNat) {t : State} {d : Word}
    (hr : readReg (accepted s q) .proto a = okBus t d) (hw : SameWork (accepted s q) t) {P : State → Prop} (hP : P (okBus t d)) :
    Replies (.regRead q) s q 0x0101 0 (leBytes 4 d.toNat) P := by
  have hop : hostOp (accepted s q) (waitingOf s 0x0101 q) q.payload = opRegRead (accepted s q) (waitingOf s 0x0101 q) q.payload := by
    rw [hostOp, boot_accepted h]
    rfl
  have hword : opRegRead (accepted s q) (waitingOf s 0x0101 q) q.payload = finish (okBus t d) (waitingOf s 0x0101 q) 0 (leBytes 4 d.toNat) :=
    opRegRead_word hp hlo hhi h4 hl hr rfl
  exact replies_of rfl h (.inr (by decide)) (hop.trans hword) (hw.trans ⟨rfl, rfl, rfl, rfl⟩) hP

/-- A read of a register of a plain access type outside MBX shows its view (R10). -/
theorem readReg_view {t : State} {port : Port} {a : Nat} {r : RegRow} {i j : Nat} (h : Readable t port a)
    (ha : 0x20000000 ≤ a ∧ a < 0x21000000 ∧ a % 4 = 0) (hb : blockOf a ≠ MBX) (hr : regAt a = some (r, i, j))
    (hwo : r.acc ≠ .wo) (hw1p : r.acc ≠ .w1p) (hrc : r.acc ≠ .rc) :
    readReg t port a = okBus t (regView t (blockOf a) a r i j) := by
  obtain ⟨hlo, hhi, halign⟩ := ha
  have hreaches : ¬ (a < 0x20000000 || 0x21000000 ≤ a || a % 4 != 0 || t.flt.resetting.contains (blockOf a)) = true := by
    rw [h.block, halign, decide_eq_false (Nat.not_lt.mpr hlo), decide_eq_false (Nat.not_le.mpr hhi)]
    decide
  have hmbx : ¬ (blockOf a == MBX && r.off < 0xF000) = true := by
    rw [beq_eq_false_iff_ne.mpr hb, Bool.false_and]
    decide
  have hrow : readRow t (blockOf a) a r i j = okBus t (regView t (blockOf a) a r i j) := by
    unfold readRow
    split <;> simp_all
  simp only [readReg, if_neg hreaches, h.power, hr, if_neg hmbx, hrow, Bool.false_eq_true, if_false]

theorem replies_boltRead (h : Requests s q) {a n : Nat} (hp : q.payload = leBytes 4 a ++ leBytes 4 n) (hn : 4 ≤ n) (hn2 : n ≤ 8192)
    (hn4 : n % 4 = 0) (ha : a + n ≤ boltEnd) : Replies (.boltRead q) s q 0x0103 0 (readMem s .bolt a n) (· = accepted s q) := by
  have hend : boltEnd = 0x06000000 := rfl
  obtain ⟨hlen, h0, h1⟩ := pairPayload hp (by omega) (by omega)
  have hop : hostOp (accepted s q) (waitingOf s 0x0103 q) q.payload = opBoltRead (accepted s q) (waitingOf s 0x0103 q) q.payload := by
    rw [hostOp, boot_accepted h]
    rfl
  refine replies_of rfl h (.inr (by decide)) (hop.trans ?_) (.refl _) rfl
  rw [opBoltRead, hlen, h0, h1]
  rw [if_neg (by decide), if_neg (by simp; omega), if_neg (by omega), readMem_accepted]

theorem replies_archRead (h : Requests s q) {a n : Nat} (hp : q.payload = leBytes 4 a ++ leBytes 4 n) (hn : 4 ≤ n) (hn2 : n ≤ 8192)
    (hn4 : n % 4 = 0) (hlo : 0x80000000 ≤ a) (ha : a + n ≤ archEnd) (hon : s.pwr.off.contains .mem = false) :
    Replies (.archRead q) s q 0x0105 0 (readMem s .arch a n) (· = accepted s q) := by
  have hend : archEnd = 2 ^ 32 := rfl
  obtain ⟨hlen, h0, h1⟩ := pairPayload hp (by omega) (by omega)
  have hop : hostOp (accepted s q) (waitingOf s 0x0105 q) q.payload = opArchRead (accepted s q) (waitingOf s 0x0105 q) q.payload := by
    rw [hostOp, boot_accepted h]
    rfl
  refine replies_of rfl h (.inr (by decide)) (hop.trans ?_) (.refl _) rfl
  rw [opArchRead, hlen, h0, h1, accepted_pwr, hon]
  rw [if_neg (by decide), if_neg (by simp; omega), if_neg (by simp; omega), readMem_accepted]

theorem replies_axisParamGet (h : Requests s q) {a : Nat} (hp : q.payload = leBytes 4 a) (ha : a < 256) :
    Replies (.axisParamGet q) s q 0x0202 0 ((List.range 16).flatMap fun i => leBytes 4 (par s a i).toNat) (· = accepted s q) := by
  obtain ⟨hlen, h0⟩ := wordPayload hp (by omega)
  have hop : hostOp (accepted s q) (waitingOf s 0x0202 q) q.payload = opParamGet (accepted s q) (waitingOf s 0x0202 q) q.payload := by
    rw [hostOp, boot_accepted h]
    rfl
  refine replies_of rfl h (.inr (by decide)) (hop.trans ?_) (.refl _) rfl
  rw [opParamGet, hlen, h0]
  rw [if_neg (by decide), if_neg (by omega), List.flatMap_def]
  simp only [par_accepted]

theorem replies_axisCoefGet (h : Requests s q) {a : Nat} (hp : q.payload = leBytes 4 a) (ha : a < 256) :
    Replies (.axisCoefGet q) s q 0x0204 0 ((List.range 128).flatMap fun i => leBytes 4 (coef s a i).toNat) (· = accepted s q) := by
  obtain ⟨hlen, h0⟩ := wordPayload hp (by omega)
  have hop : hostOp (accepted s q) (waitingOf s 0x0204 q) q.payload = opCoefGet (accepted s q) (waitingOf s 0x0204 q) q.payload := by
    rw [hostOp, boot_accepted h]
    rfl
  refine replies_of rfl h (.inr (by decide)) (hop.trans ?_) (.refl _) rfl
  rw [opCoefGet, hlen, h0]
  rw [if_neg (by decide), if_neg (by omega), List.flatMap_def]
  simp only [coef_accepted]

theorem replies_segStatus (h : Requests s q) {g : Nat} (hp : q.payload = leBytes 4 g) (hg : g < 64) :
    Replies (.segStatus q) s q 0x0304 0
      (shown (accepted s q) [Reg.PROF_GRP_STATE g, Reg.PROF_GRP_SEG_ID g, Reg.PROF_GRP_RD_PTR g, Reg.PROF_GRP_WR_PTR g] ++
        leBytes 4 (word (queueFree (rd s (Reg.PROF_GRP_QLEN g)).toNat (look (accepted s q) (Reg.PROF_GRP_RD_PTR g)).toNat
          (look (accepted s q) (Reg.PROF_GRP_WR_PTR g)).toNat)).toNat) (· = accepted s q) := by
  obtain ⟨hlen, h0⟩ := wordPayload hp (by omega)
  have hop : hostOp (accepted s q) (waitingOf s 0x0304 q) q.payload = opSegStatus (accepted s q) (waitingOf s 0x0304 q) q.payload := by
    rw [hostOp, boot_accepted h]
    rfl
  have hq : rd (accepted s q) (Reg.PROF_GRP_QLEN g) = rd s (Reg.PROF_GRP_QLEN g) :=
    rd_accepted s q (by simp only [Reg.PROF_GRP_QLEN, Reg.HOST_MSG_CNT]; omega)
  refine replies_of rfl h (.inr (by decide)) (hop.trans ?_) (.refl _) rfl
  rw [opSegStatus, hlen, h0]
  dsimp only
  rw [if_neg (by decide), if_neg (by omega), hq]
  simp [shown]

theorem replies_cmpStatus (h : Requests s q) {k : Nat} (hp : q.payload = leBytes 4 k) (hk : k < 32) :
    Replies (.cmpStatus q) s q 0x0403 0 (shown (accepted s q)
      [Reg.FBC_CMP_STATUS k, Reg.FBC_CMP_LAST_TS k, Reg.FBC_CMP_LAST_ID k, Reg.FBC_CMP_RD_PTR k, Reg.FBC_CMP_WR_PTR k])
      (· = accepted s q) := by
  obtain ⟨hlen, h0⟩ := wordPayload hp (by omega)
  have hop : hostOp (accepted s q) (waitingOf s 0x0403 q) q.payload = opCmpStatus (accepted s q) (waitingOf s 0x0403 q) q.payload := by
    rw [hostOp, boot_accepted h]
    rfl
  refine replies_of rfl h (.inr (by decide)) (hop.trans ?_) (.refl _) rfl
  rw [opCmpStatus, hlen, h0]
  rw [if_neg (by decide), if_neg (by omega), shown, List.flatMap_def]

theorem replies_spoolState (h : Requests s q) {i : Nat} (hp : q.payload = leBytes 4 i) (hi : i < 4) :
    Replies (.spoolState q) s q 0x0602 0 (shown (accepted s q)
      [Reg.ACQ_SP_STATE i, Reg.ACQ_SP_WR_PTR i, Reg.ACQ_SP_TRIG_TS_LO i, Reg.ACQ_SP_TRIG_TS_HI i, Reg.ACQ_SP_LOST_CNT i,
        Reg.ACQ_SP_EVT_DROP_CNT i, Reg.ACQ_SP_HOLDOFF_CNT i]) (· = accepted s q) := by
  obtain ⟨hlen, h0⟩ := wordPayload hp (by omega)
  have hop : hostOp (accepted s q) (waitingOf s 0x0602 q) q.payload = opSpoolState (accepted s q) (waitingOf s 0x0602 q) q.payload := by
    rw [hostOp, boot_accepted h]
    rfl
  refine replies_of rfl h (.inr (by decide)) (hop.trans ?_) (.refl _) rfl
  rw [opSpoolState, hlen, h0]
  rw [if_neg (by decide), if_neg (by omega), shown, List.flatMap_def]

theorem replies_spoolRead (h : Requests s q) {i off n : Nat}
    (hp : q.payload = leBytes 4 i ++ leBytes 4 0xFFFFFFFF ++ leBytes 4 off ++ leBytes 4 n) (hi : i < 4) (hn : 4 ≤ n) (hn2 : n ≤ 8192)
    (hn4 : n % 4 = 0) (hin : off + n ≤ (spArea s i).2) (hoff : off < 2 ^ 32) (hon : spArch s i = true → s.pwr.off.contains .mem = false) :
    Replies (.spoolRead q) s q 0x0603 0
        (readMem s (if spArch s i then .arch else .bolt) ((spArea s i).1 + off) n) (· = accepted s q) := by
  have hlen : q.payload.length = 16 := by rw [hp]; rfl
  have h0 : field q.payload 0 4 = i := by rw [hp]; exact (leVal_leBytes 4 i).trans (Nat.mod_eq_of_lt (by omega))
  have h1 : field q.payload 4 4 = 0xFFFFFFFF := by rw [hp]; exact leVal_leBytes 4 0xFFFFFFFF
  have h2 : field q.payload 8 4 = off := by rw [hp]; exact (leVal_leBytes 4 off).trans (Nat.mod_eq_of_lt hoff)
  have h3 : field q.payload 12 4 = n := by rw [hp]; exact (leVal_leBytes 4 n).trans (Nat.mod_eq_of_lt (by omega))
  have hop : hostOp (accepted s q) (waitingOf s 0x0603 q) q.payload = opSpoolRead (accepted s q) (waitingOf s 0x0603 q) q.payload := by
    rw [hostOp, boot_accepted h]
    rfl
  have hmem : (spArch s i && s.pwr.off.contains .mem) = false := by
    cases ha : spArch s i
    · rfl
    · rw [hon ha]
      rfl
  refine replies_of rfl h (.inr (by decide)) (hop.trans ?_) (.refl _) rfl
  rw [opSpoolRead, hlen, h0, h1, h2, h3]
  simp only [spArch_accepted, spArea_accepted, accepted_pwr, hmem]
  rw [if_neg (by decide), if_neg (by simp; omega), if_neg (by simp), if_neg (by simpa using hin), readMem_accepted]
  rfl

end reads

/-- Settles O51, request by request. -/
theorem readRequestsComplete : Obligations.ReadRequestsComplete := by
  unfold Obligations.ReadRequestsComplete
  intro s q h
  refine ⟨replies_echo h, fun a r i j hp hlo hhi h4 hr hreg hmbx hwo hw1p hrc hl => ?_,
    fun a r i j hp hlo hhi h4 hr hreg hmbx hrc hl => ?_, fun a n hp hn hn2 hn4 ha => replies_boltRead h hp hn hn2 hn4 ha,
    fun a n hp hn hn2 hn4 hlo ha hon => replies_archRead h hp hn hn2 hn4 hlo ha hon, fun a hp ha => replies_axisParamGet h hp ha,
    fun a hp ha => replies_axisCoefGet h hp ha, fun g hp hg => replies_segStatus h hp hg, fun k hp hk => replies_cmpStatus h hp hk,
    fun i hp hi => replies_spoolState h hp hi,
    fun i off n hp hi hn hn2 hn4 hin hoff hon => replies_spoolRead h hp hi hn hn2 hn4 hin hoff hon⟩
  · exact replies_regRead h hp hlo hhi h4 hl (readReg_view (readable_accepted s q hr) ⟨hlo, hhi, h4⟩ hmbx hreg hwo hw1p hrc) (.refl _)
      ⟨rfl, accepted_mem s q⟩
  · refine replies_regRead h hp hlo hhi h4 hl (readReg_rc (readable_accepted s q hr) ⟨hlo, hhi, h4⟩ hmbx hreg hrc) (work_wr _ _ _)
      ⟨?_, fun b hb => ?_⟩
    · rw [rd_okBus, rd_wr_same]
    · rw [rd_okBus, rd_wr_ne _ _ hb]

end Sys2Proof.Machine

/-! ## The status requests (R475, R507, R526, R529, R531) -/

namespace Sys2Proof.Machine

section status

variable {s : State} {q : Req}

theorem mtime_accepted (s : State) (q : Req) : mtime (accepted s q) = mtime s :=
  accepted_keeps s q mtime (fun _ _ => rfl) fun _ _ => rfl

theorem serial_accepted (s : State) (q : Req) : serial (accepted s q) = serial s := by
  rw [serial, rd64, rd_accepted s q (by decide), rd_accepted s q (by decide), serial, rd64]

theorem holders_accepted (s : State) (q : Req) : holders (accepted s q) = holders s := holders_congr (rd_accepted s q (by decide))

theorem replies_updStatus (h : Requests s q) (hp : q.payload = []) :
    Replies (.updStatus q) s q 0x0704 0 (shown (accepted s q) (Reg.SEC_STAGE_STATUS ::
      (List.range 8).map Reg.SEC_STAGED_HASH)) (· = accepted s q) := by
  have hop : hostOp (accepted s q) (waitingOf s 0x0704 q) q.payload = opUpdStatus (accepted s q) (waitingOf s 0x0704 q) q.payload := by
    rw [hostOp, boot_accepted h]
    rfl
  refine replies_of rfl h (.inr (by decide)) (hop.trans ?_) (.refl _) rfl
  rw [opUpdStatus, hp, if_neg (by decide), shown, List.flatMap_cons, List.flatMap_map, List.flatMap_def]

theorem replies_statusGet (h : Requests s q) (hp : q.payload = []) :
    Replies (.statusGet q) s q 0x0801 0
      (shown (accepted s q) [Reg.RING_STATE, Reg.TWIN_STATE, Reg.TIME_STATE] ++ leBytes 8 (secOf (mtime s)) ++
        leBytes 4 (nsOf (mtime s)) ++ leBytes 4 s.cyc.count.toNat ++ shown (accepted s q)
          [Reg.SYS_CYCLE_ACTIVE, Reg.PROF_STATUS, Reg.FPM_STATUS, Reg.SAFE_STATUS, Reg.SEC_STATUS] ++ leBytes 8 (serial s))
      (· = accepted s q) := by
  have hop : hostOp (accepted s q) (waitingOf s 0x0801 q) q.payload = opStatusGet (accepted s q) (waitingOf s 0x0801 q) q.payload := by
    rw [hostOp, boot_accepted h]
    rfl
  have hcyc : (accepted s q).cyc = s.cyc := accepted_keeps s q State.cyc (fun _ _ => rfl) fun _ _ => rfl
  refine replies_of rfl h (.inr (by decide)) (hop.trans ?_) (.refl _) rfl
  rw [opStatusGet, hp, mtime_accepted, serial_accepted, hcyc]
  dsimp only
  rw [if_neg (by decide)]
  simp only [shown, List.flatMap_cons, List.flatMap_nil, List.append_nil, List.append_assoc]

theorem replies_axisStatus (h : Requests s q) {a : Nat} (hp : q.payload = leBytes 4 a ++ leBytes 4 1) (ha : a < 256) :
    Replies (.axisStatus q) s q 0x0802 0
      (shown (accepted s q) [Reg.PROF_AX_STATE a] ++ leBytes 8 (unsg 64 (axis s a).sp2.pos) ++
        leBytes 8 (unsg 64 (axis s a).sp2.vel) ++ leBytes 8 (unsg 64 (input s a).ext) ++
        shown (accepted s q) [Reg.LOOP_AX_FLAGS a]) (· = accepted s q) := by
  obtain ⟨hlen, h0, h1⟩ := pairPayload hp (by omega) (by decide)
  have hop : hostOp (accepted s q) (waitingOf s 0x0802 q) q.payload = opAxisStatus (accepted s q) (waitingOf s 0x0802 q) q.payload := by
    rw [hostOp, boot_accepted h]
    rfl
  have hax : ∀ a, axis (accepted s q) a = axis s a := fun a => accepted_keeps s q (fun s => axis s a) (fun _ _ => rfl) fun _ _ => rfl
  have hin : ∀ a, input (accepted s q) a = input s a := fun a => accepted_keeps s q (fun s => input s a) (fun _ _ => rfl) fun _ _ => rfl
  refine replies_of rfl h (.inr (by decide)) (hop.trans ?_) (.refl _) rfl
  rw [opAxisStatus, hlen, h0, h1]
  dsimp only
  rw [if_neg (by decide), if_neg (by simp; omega)]
  simp [hax, hin, shown]

theorem replies_histRead (h : Requests s q) {k : Nat} (hp : q.payload = leBytes 4 k) (hk : k < 16) :
    Replies (.histRead q) s q 0x0805 0
      (shown (accepted s q) [Reg.FLT_HIST_CNT k] ++ padTo 128 ((history s k).map HistEntry.bytes).flatten) (· = accepted s q) := by
  obtain ⟨hlen, h0⟩ := wordPayload hp (by omega)
  have hop : hostOp (accepted s q) (waitingOf s 0x0805 q) q.payload = opHistRead (accepted s q) (waitingOf s 0x0805 q) q.payload := by
    rw [hostOp, boot_accepted h]
    rfl
  have hh : history (accepted s q) k = history s k := accepted_keeps s q (fun s => history s k) (fun _ _ => rfl) fun _ _ => rfl
  refine replies_of rfl h (.inr (by decide)) (hop.trans ?_) (.refl _) rfl
  rw [opHistRead, hlen, h0]
  rw [if_neg (by decide), if_neg (by omega), hh]
  simp [shown]

/-- A subscription stands in its slot alone (R531). -/
theorem replies_evtSubscribe (h : Requests s q) {mask : Word} {sev slot : Nat}
    (hp : q.payload = leBytes 4 mask.toNat ++ leBytes 4 (sev + 16 * slot + 256)) (hs : sev < 4) (hk : slot < 4)
    (hl : ∀ l, q.ep ≠ .legacy l) : Replies (.evtSubscribe q) s q 0x0803 0 (genericG s.cyc.count 0) fun u =>
        (tget (fun _ => {}) u.host.subs slot : Subscription) =
            { on := true, flow := q.flow.toNat, mask := mask, minSev := sev, seq := 0, lost := 0 } ∧
          ∀ k, k ≠ slot → (tget (fun _ => {}) u.host.subs k : Subscription) = tget (fun _ => {}) s.host.subs k := by
  obtain ⟨hlen, h0, h1⟩ := pairPayload hp mask.isLt (by omega)
  have hop : hostOp (accepted s q) (waitingOf s 0x0803 q) q.payload = opEvtSubscribe (accepted s q) (waitingOf s 0x0803 q) q.payload := by
    rw [hostOp, boot_accepted h]
    rfl
  have hsev : bits (sev + 16 * slot + 256) 1 0 = sev := by simp only [bits]; omega
  have hslot : bits (sev + 16 * slot + 256) 5 4 = slot := by simp only [bits]; omega
  have hz1 : bits (sev + 16 * slot + 256) 3 2 = 0 := by simp only [bits]; omega
  have hz2 : bits (sev + 16 * slot + 256) 7 6 = 0 := by simp only [bits]; omega
  have hon : bit (sev + 16 * slot + 256) 8 = true := by simp only [bit, beq_iff_eq]; omega
  have hmask : word mask.toNat = mask := BitVec.ofNat_toNat 32 mask
  refine replies_of (u := hostMod (accepted s q) fun h => { h with
      subs := tput (fun _ => {}) h.subs slot ({ on := true, flow := q.flow.toNat, mask := mask, minSev := sev } : Subscription) }) rfl h (.inr (by decide)) (hop.trans ?_)
    ⟨rfl, rfl, rfl, rfl⟩ ⟨?_, fun k hne => ?_⟩
  · rw [opEvtSubscribe, hlen, h0, h1, hsev, hslot, hz1, hz2, hon, hmask]
    rw [if_neg (by decide), if_neg (by simp; omega)]
    split
    · next hw => exact absurd hw (hl _)
    · rfl
  · exact tget_tput_same (fun _ => ({} : Subscription)) (accepted s q).host.subs slot
      { on := true, flow := q.flow.toNat, mask := mask, minSev := sev }
  · rw [← accepted_subs s q]
    exact tget_tput_ne (fun _ => ({} : Subscription)) (accepted s q).host.subs
      { on := true, flow := q.flow.toNat, mask := mask, minSev := sev } hne

theorem wmbx_accepted (s : State) (q : Req) : (accepted s q).ring.wmbx = s.ring.wmbx :=
  accepted_keeps s q (fun s => s.ring.wmbx) (fun _ _ => rfl) fun _ _ => rfl

theorem replies_wmbxFetch_none (h : Requests s q) {p : Nat} (hp : q.payload = leBytes 4 p) (h1 : 1 ≤ p) (h2 : p ≤ 126)
    (hw : (tget (fun _ => []) s.ring.wmbx p : List (List Byte)) = []) :
    Replies (.wmbxFetch q) s q 0x0504 0 (leBytes 4 0) (· = accepted s q) := by
  obtain ⟨hlen, h0⟩ := wordPayload hp (by omega)
  have hop : hostOp (accepted s q) (waitingOf s 0x0504 q) q.payload = opWmbxFetch (accepted s q) (waitingOf s 0x0504 q) q.payload := by
    rw [hostOp, boot_accepted h]
    rfl
  refine replies_of rfl h (.inr (by decide)) (hop.trans ?_) (.refl _) rfl
  rw [opWmbxFetch, hlen, h0, wmbx_accepted, hw]
  rw [if_neg (by decide), if_neg (by simp; omega)]

theorem replies_wmbxFetch (h : Requests s q) {p : Nat} {m : List Byte} {rest : List (List Byte)} (hp : q.payload = leBytes 4 p)
    (h1 : 1 ≤ p) (h2 : p ≤ 126) (hw : (tget (fun _ => []) s.ring.wmbx p : List (List Byte)) = m :: rest)
    (hl : 4 + (padMul 4 m).length ≤ rspLimit (accepted s q) q.ep q.flow.toNat) : Replies (.wmbxFetch q) s q 0x0504 0
        (leBytes 4 m.length ++ padMul 4 m) fun u => (tget (fun _ => []) u.ring.wmbx p : List (List Byte)) = rest ∧
          ∀ k, k ≠ p → (tget (fun _ => []) u.ring.wmbx k : List (List Byte)) = tget (fun _ => []) s.ring.wmbx k := by
  obtain ⟨hlen, h0⟩ := wordPayload hp (by omega)
  have hop : hostOp (accepted s q) (waitingOf s 0x0504 q) q.payload = opWmbxFetch (accepted s q) (waitingOf s 0x0504 q) q.payload := by
    rw [hostOp, boot_accepted h]
    rfl
  have hfit : ¬ rspLimit (accepted s q) (waitingOf s 0x0504 q).ep (waitingOf s 0x0504 q).flow <
      (leBytes 4 m.length ++ padMul 4 m).length := by
    rw [List.length_append, length_leBytes]
    exact Nat.not_lt.mpr hl
  refine replies_of (u := ringMod (accepted s q) fun r => { r with wmbx := tput (fun _ => []) r.wmbx p rest }) rfl h (.inr (by decide))
    (hop.trans ?_) ⟨rfl, rfl, rfl, rfl⟩ ⟨?_, fun k hne => ?_⟩
  · rw [opWmbxFetch, hlen, h0, wmbx_accepted, hw]
    dsimp only
    rw [if_neg (by decide), if_neg (by simp; omega), if_neg hfit]
  · exact tget_tput_same (fun _ => ([] : List (List Byte))) (accepted s q).ring.wmbx p rest
  · exact (tget_tput_ne (fun _ => ([] : List (List Byte))) (accepted s q).ring.wmbx rest hne).trans (by rw [wmbx_accepted])

end status

section nonce

variable {s : State} {q : Req}

/-- The words of a new nonce in its registers (R507). -/
def nonceDrawn (s : State) : State :=
  (List.range 8).foldl (fun t i => wr t (Reg.SEC_NONCE i) (word ((freeVal 256 s).toNat / 2 ^ (32 * i)))) (drawn s)

theorem secNonce_eq (s : State) : secNonce s = secDone (secMod (nonceDrawn s) fun x => { x with nonceValid := true }) 4 1 := rfl

theorem nonceDrawn_keeps {β : Type} (g : State → β) (hw : ∀ s a v, g (wr s a v) = g s) (s : State) : g (nonceDrawn s) = g (drawn s) :=
  foldl_keeps g (f := fun t i => wr t (Reg.SEC_NONCE i) (word ((freeVal 256 s).toNat / 2 ^ (32 * i)))) (fun _ _ => hw _ _ _) _ _

theorem rd_nonce (s : State) {i : Nat} (h : i < 8) :
    rd (secNonce s) (Reg.SEC_NONCE i) = word ((freeVal 256 s).toNat / 2 ^ (32 * i)) := by
  have hne : Reg.SEC_NONCE i ≠ Reg.SEC_CTRL_STATUS := by simp only [Reg.SEC_NONCE, Reg.SEC_CTRL_STATUS]; omega
  rw [secNonce_eq, secDone, rd_setF_ne _ _ _ _ hne, rd_setF_ne _ _ _ _ hne, rd_secMod]
  exact foldl_wr_mem (f := Reg.SEC_NONCE) (v := fun i => word ((freeVal 256 s).toNat / 2 ^ (32 * i)))
    (fun i j hij => by simp only [Reg.SEC_NONCE] at hij; omega) (List.range 8) (drawn s) (List.mem_range.mpr h)

theorem nonceBytes_secNonce (s : State) : nonceBytes (secNonce s) =
    (List.range 8).flatMap fun i => leBytes 4 (word ((freeVal 256 s).toNat / 2 ^ (32 * i))).toNat := by
  rw [nonceBytes, List.flatMap_def]
  congr 1
  exact List.map_congr_left fun i hi => by rw [rd_nonce s (List.mem_range.mp hi)]

theorem secNonce_sec (s : State) : (secNonce s).sec = { s.sec with nonceValid := true } := by
  have hd : (nonceDrawn s).sec = s.sec := nonceDrawn_keeps State.sec (fun _ _ _ => rfl) s
  obtain ⟨u, hu⟩ : ∃ u, nonceDrawn s = u := ⟨_, rfl⟩
  rw [hu] at hd
  rw [secNonce_eq, hu, secDone, setF_sec, setF_sec, ← hd]
  rfl

theorem secNonce_free (s : State) : (secNonce s).free = s.free + 1 := by
  have hd : (nonceDrawn s).free = s.free + 1 := nonceDrawn_keeps State.free (fun _ _ _ => rfl) s
  obtain ⟨u, hu⟩ : ∃ u, nonceDrawn s = u := ⟨_, rfl⟩
  rw [hu] at hd
  rw [secNonce_eq, hu, secDone, setF_free, setF_free]
  exact hd

theorem work_secNonce (s : State) : SameWork s (secNonce s) := by
  have hh : (nonceDrawn s).host = s.host := nonceDrawn_keeps State.host (fun _ _ _ => rfl) s
  have hm : (nonceDrawn s).mbx = s.mbx := nonceDrawn_keeps State.mbx (fun _ _ _ => rfl) s
  have hp : (nonceDrawn s).pending = s.pending := nonceDrawn_keeps State.pending (fun _ _ _ => rfl) s
  obtain ⟨u, hu⟩ : ∃ u, nonceDrawn s = u := ⟨_, rfl⟩
  rw [hu] at hh hm hp
  rw [secNonce_eq, hu]
  exact ⟨congrArg HostIf.queued hh, congrArg HostIf.waiting hh, congrArg Mbx.legacyMode hm, hp⟩

theorem replies_nonceGet (h : Requests s q) (hp : q.payload = []) : Replies (.nonceGet q) s q 0x0706 0
      ((List.range 8).flatMap fun i => leBytes 4 (word ((freeVal 256 s).toNat / 2 ^ (32 * i))).toNat) fun u =>
        u.sec = { s.sec with nonceValid := true } ∧ u.free = s.free + 1 := by
  have hop : hostOp (accepted s q) (waitingOf s 0x0706 q) q.payload = opNonceGet (accepted s q) (waitingOf s 0x0706 q) q.payload := by
    rw [hostOp, boot_accepted h]
    rfl
  have hfree : (accepted s q).free = s.free := accepted_keeps s q State.free (fun _ _ => rfl) fun _ _ => rfl
  have hval : freeVal 256 (accepted s q) = freeVal 256 s := by rw [freeVal, hfree, freeVal]
  refine replies_of (u := secNonce (accepted s q)) rfl h (.inr (by decide)) (hop.trans ?_) (work_secNonce _) ⟨?_, ?_⟩
  · rw [opNonceGet, hp, if_neg (by decide)]
    dsimp only
    rw [nonceBytes_secNonce, hval]
  · rw [secNonce_sec, accepted_sec]
  · rw [secNonce_free, hfree]

end nonce

section maintenance

variable {s : State} {q : Req} {act : Nat}

/-- A write of the maintenance request lands while the block FPM is not under a reset (R478). -/
theorem landWrite_maintReq (hr : s.flt.resetting.contains FPM = false) (port : Port) (v : Word) :
    landWrite s port Reg.FPM_MAINT_REQ v = landMaintReq s v := by
  have hreg : regAt Reg.FPM_MAINT_REQ = some (⟨0x200, 0x0, 1, 0x0, 1, .wo, 0x00000000, 0x0, 0xFFFFFFFF⟩, 0, 0) := rfl
  have hb : blockOf Reg.FPM_MAINT_REQ = FPM := by decide
  have hoff : blockOff s FPM = false := rfl
  rw [landWrite, hb, hr, hreg, hoff]
  rfl

/-- MAINT_REQ is a write of FPM_MAINT_REQ and its result (R475). -/
theorem opMaintReq_eq {t : State} {w : Waiting} {b : List Byte} (hb : b = leBytes 4 act) (ha : act < 9)
    (hr : t.flt.resetting.contains FPM = false) : opMaintReq t w b = replyG (okBus (maintReq t act).2) w
      (if fld (okBus (maintReq t act).2) Reg.FPM_MAINT_STATUS 22 20 == 3 then 5 else 0)
      (fld (okBus (maintReq t act).2) Reg.FPM_MAINT_STATUS 22 20) := by
  obtain ⟨hlen, h0⟩ := wordPayload hb (by omega)
  rw [opMaintReq, hlen, h0]
  dsimp only
  rw [if_neg (by decide), if_neg (by simp; omega), landWrite_maintReq hr, landMaintReq_request t ha]

theorem work_setF (s : State) (a hi lo v : Nat) : SameWork s (setF s a hi lo v) := ⟨rfl, rfl, rfl, rfl⟩

theorem work_event (s : State) (b e o d : Nat) : SameWork s (event s b e o d) := work_of_reports (only_event s b e o d)

theorem work_okBus (s : State) (d : Word) : SameWork s (okBus s d) := ⟨rfl, rfl, rfl, rfl⟩

theorem work_maintHeld (s : State) (act : Nat) : SameWork s (maintHeld s act) := by
  rw [maintHeld]
  exact (work_setF _ _ _ _ _).trans ((work_setF _ _ _ _ _).trans (work_setF _ _ _ _ _))

theorem work_maintRefused (s : State) (act : Nat) : SameWork s (maintRefused s act) := by
  rw [maintRefused]
  exact (work_setF _ _ _ _ _).trans ((work_setF _ _ _ _ _).trans (work_event _ _ _ _ _))

theorem opMaintReq_granted {t : State} {w : Waiting} {b : List Byte} (hb : b = leBytes 4 act) (ha : act < 9)
    (hr : t.flt.resetting.contains FPM = false) (hc : ∀ h ∈ holders t, compat act h = true) :
    opMaintReq t w b = finish (okBus (maintHeld t act)) w 0 (genericG w.land 1) := by
  have hres := maintHeld_result t act
  rw [opMaintReq_eq hb ha hr, maintReq_granted ha (List.all_eq_true.mpr hc)]
  dsimp only
  obtain ⟨u, hu⟩ : ∃ u, maintHeld t act = u := ⟨_, rfl⟩
  rw [hu] at hres ⊢
  rw [fld, rd_okBus, ← fld, hres]
  rfl

theorem opMaintReq_refused {t : State} {w : Waiting} {b : List Byte} (hb : b = leBytes 4 act) (ha : act < 9)
    (hr : t.flt.resetting.contains FPM = false) (hc : ∃ h ∈ holders t, compat act h = false) :
    opMaintReq t w b = finish (okBus (maintRefused t act)) w 5 (genericG w.land 3) := by
  obtain ⟨hres, -⟩ := maintRefused_shows t ha
  rw [opMaintReq_eq hb ha hr, maintReq_refused (List.all_eq_false.mpr (by simpa using hc))]
  dsimp only
  obtain ⟨u, hu⟩ : ∃ u, maintRefused t act = u := ⟨_, rfl⟩
  rw [hu] at hres ⊢
  rw [fld, rd_okBus, ← fld, hres]
  rfl

theorem replies_maintReq_granted (h : Requests s q) (hp : q.payload = leBytes 4 act) (ha : act < 9)
    (hr : s.flt.resetting.contains FPM = false) (hc : ∀ h ∈ holders s, compat act h = true) :
    Replies (.maintReq q) s q 0x0701 0 (genericG s.cyc.count 1) fun u =>
        fbit u Reg.FPM_MAINT_STATUS act = true ∧ u.mem = s.mem := by
  have hop : hostOp (accepted s q) (waitingOf s 0x0701 q) q.payload = opMaintReq (accepted s q) (waitingOf s 0x0701 q) q.payload := by
    rw [hostOp, boot_accepted h]
    rfl
  have hg := opMaintReq_granted (t := accepted s q) (w := waitingOf s 0x0701 q) hp ha (by rw [accepted_flt]; exact hr)
    (by rw [holders_accepted]; exact hc)
  have hw := (work_maintHeld (accepted s q) act).trans (work_okBus _ 0)
  have hbit := fbit_maintHeld (accepted s q) ha
  have hmem := (maintHeld_keeps (accepted s q) act).2
  obtain ⟨u, hu⟩ : ∃ u, maintHeld (accepted s q) act = u := ⟨_, rfl⟩
  rw [hu] at hg hw hbit hmem
  exact replies_of (u := okBus u) rfl h (.inr (by decide)) (hop.trans hg) hw ⟨hbit, hmem.trans (accepted_mem s q)⟩

theorem replies_maintReq_refused (h : Requests s q) (hp : q.payload = leBytes 4 act) (ha : act < 9)
    (hr : s.flt.resetting.contains FPM = false) (hc : ∃ h ∈ holders s, compat act h = false) :
    Replies (.maintReq q) s q 0x0701 5 (genericG s.cyc.count 3) fun u => holders u = holders s ∧ u.mem = s.mem := by
  have hop : hostOp (accepted s q) (waitingOf s 0x0701 q) q.payload = opMaintReq (accepted s q) (waitingOf s 0x0701 q) q.payload := by
    rw [hostOp, boot_accepted h]
    rfl
  have hg := opMaintReq_refused (t := accepted s q) (w := waitingOf s 0x0701 q) hp ha (by rw [accepted_flt]; exact hr)
    (by rw [holders_accepted]; exact hc)
  have hw := (work_maintRefused (accepted s q) act).trans (work_okBus _ 0)
  have hold := holders_maintRefused (accepted s q) act
  have hmem : (maintRefused (accepted s q) act).mem = (accepted s q).mem := by rw [maintRefused, event_mem, setF_mem, setF_mem]
  obtain ⟨u, hu⟩ : ∃ u, maintRefused (accepted s q) act = u := ⟨_, rfl⟩
  rw [hu] at hg hw hold hmem
  exact replies_of (u := okBus u) rfl h (.inr (by decide)) (hop.trans hg) hw
    ⟨hold.trans (holders_accepted s q), hmem.trans (accepted_mem s q)⟩

end maintenance

/-- Settles O52, request by request. -/
theorem statusRequestsComplete : Obligations.StatusRequestsComplete := by
  unfold Obligations.StatusRequestsComplete
  intro s q h
  exact ⟨replies_updStatus h, replies_statusGet h, fun a => replies_axisStatus h, fun k => replies_histRead h,
    fun mask sev slot => replies_evtSubscribe h, fun p => replies_wmbxFetch_none h, fun p m rest => replies_wmbxFetch h,
    replies_nonceGet h, fun act => replies_maintReq_granted h, fun act => replies_maintReq_refused h⟩

end Sys2Proof.Machine

/-! ## The requests of update and protection (R485, R500, R507, R508) -/

namespace Sys2Proof.Machine

section answered

variable {s : State} {a : Nat}

/-- Registers that a response over a ring pair may change: the tail of the completion ring and the status of the pair. -/
def answerReg (a : Nat) : Prop := reportReg a = true ∨ ∃ r : Fin 8, a = Reg.HOST_CQ_TAIL r.val ∨ a = Reg.HOST_RING_STATUS r.val

theorem report_of_not_answerReg (h : ¬ answerReg a) : reportReg a = false := by
  simpa using fun hr => h (.inl hr)

theorem rd_cqPost (s : State) (r : Fin 8) (e : Nat × List Byte × List Byte) (h : ¬ answerReg a) :
    rd (cqPost s r.val e) a = rd s a := by
  rw [cqPost]
  split
  · exact (cqWrite_shows e).2 a fun he => h (.inr ⟨r, .inl he⟩)
  · dsimp only
    split
    · exact rd_of_regs (setRing_regs _ _ _) a
    · rw [rd_event _ _ _ _ _ (report_of_not_answerReg h)]
      exact rd_of_regs (setRing_regs _ _ _) a

theorem rd_ringDone (s : State) (r : Fin 8) (h : ¬ answerReg a) : rd (ringDone s r) a = rd s a := by
  have hne : a ≠ Reg.HOST_RING_STATUS r.val := fun he => h (.inr ⟨r, .inr he⟩)
  rw [ringDone]
  split
  · rw [rd_of_regs (freeFlows_regs _ _), rd_setBit_ne _ _ _ hne, rd_setF_ne _ _ _ _ hne]
  · rw [rd_setF_ne _ _ _ _ hne]

theorem queueFill_regs (s : State) (k : Nat) (vs : List Word) : (queueFill s k vs).regs = s.regs := by
  unfold queueFill queueRefill queueIrq
  extract_lets
  split <;> rfl

/-- An answer changes no register but those of the events and of the ring pair that carries it. -/
theorem rd_finish (s : State) (w : Waiting) (st : Nat) (p : List Byte) (h : ¬ answerReg a) : rd (finish s w st p) a = rd s a := by
  have hk := rd_of_regs (keptRsp_regs s w (rspOf s w st p).2) a
  rw [finish_eq, deliver]
  split
  · rw [rd_ringDone _ _ h, rd_cqPost _ _ _ h, hk]
  · exact hk
  · exact (rd_of_regs (queueFill_regs _ _ _) a).trans hk

theorem not_answerReg_secStatus : ¬ answerReg Reg.SEC_STATUS := by
  rintro (h | ⟨r, h | h⟩)
  · exact absurd h (by decide)
  · simp only [Reg.SEC_STATUS, Reg.HOST_CQ_TAIL] at h
    omega
  · simp only [Reg.SEC_STATUS, Reg.HOST_RING_STATUS] at h
    omega

/-- Outside host recovery the head does not boot for a staged slot (R485). -/
theorem recoverBoot_finish (s : State) (w : Waiting) (st : Nat) (p : List Byte) (h : (fld s Reg.SEC_STATUS 2 0 == 5) = false) :
    recoverBoot (finish s w st p) = finish s w st p := by
  have hst : (fld (finish s w st p) Reg.SEC_STATUS 2 0 != 5) = true := by
    rw [fld, rd_finish s w st p not_answerReg_secStatus, ← fld, bne, h]
    rfl
  unfold recoverBoot
  exact if_pos (by rw [hst]; rfl)

end answered

section work

theorem work_secMod (s : State) (f : Sec → Sec) : SameWork s (secMod s f) := ⟨rfl, rfl, rfl, rfl⟩

theorem work_writeMem (s : State) (r : Region) (a : Nat) (bs : List Byte) : SameWork s (writeMem s r a bs) := ⟨rfl, rfl, rfl, rfl⟩

theorem work_maintRel (s : State) (act : Nat) : SameWork s (maintRel s act) := by
  rw [maintRel]
  split
  · exact (work_setF _ _ _ _ _).trans ((work_setF _ _ _ _ _).trans (work_setF _ _ _ _ _))
  · exact .refl s

theorem work_showStage (s : State) (st : Nat) : SameWork s (showStage s st) := work_wr _ _ _

theorem work_dropStaging (s : State) : SameWork s (dropStaging s) := by
  unfold dropStaging
  extract_lets t u
  have ht : SameWork s t := by
    simp only [t]
    split
    · exact work_maintRel s 0
    · exact .refl s
  exact ht.trans ((work_fold (fun s i => wr s (Reg.SEC_STAGED_HASH i) 0) (fun _ _ => work_wr _ _ _) _ _).trans
    ((work_secMod _ _).trans (work_showStage _ _)))

end work

section drop

variable (s : State)

/-- A discarded staging run leaves every register but those of the staging and of the maintenance token (R500). -/
theorem rd_dropStaging {a : Nat} (hst : a ≠ Reg.SEC_STAGE_STATUS) (hh : ∀ i < 8, a ≠ Reg.SEC_STAGED_HASH i)
    (hm : a ≠ Reg.FPM_MAINT_STATUS) : rd (dropStaging s) a = rd s a := by
  unfold dropStaging
  extract_lets t u
  have ht : rd t a = rd s a := by
    simp only [t]
    split
    · exact rd_maintRel_ne s 0 hm
    · rfl
  rw [showStage, rd_wr_ne _ _ hst, rd_secMod]
  exact (foldl_wr_ne (f := Reg.SEC_STAGED_HASH) (v := fun _ => 0) _ t fun i hi => hh i (List.mem_range.mp hi)).trans ht

theorem dropStaging_keeps {β : Type} (g : State → β) (hw : ∀ s a v, g (wr s a v) = g s) (hs : ∀ s f, g (secMod s f) = g s) :
    g (dropStaging s) = g s := by
  unfold dropStaging
  extract_lets t u
  have ht : g t = g s := by
    simp only [t]
    split
    · rw [maintRel, if_pos (by decide)]
      exact (hw _ _ _).trans ((hw _ _ _).trans (hw _ _ _))
    · rfl
  rw [showStage, hw, hs]
  exact (foldl_keeps g (f := fun s i => wr s (Reg.SEC_STAGED_HASH i) 0) (fun _ _ => hw _ _ _) _ t).trans ht

/-- The token of staging is given back with a run that stands; the other holders keep theirs (R475, R500). -/
theorem fbit_dropStaging {i : Nat} (hi : i < 9) : fbit (dropStaging s) Reg.FPM_MAINT_STATUS i =
    (!(i == 0 && fld s Reg.SEC_STAGE_STATUS 1 0 == 1) && fbit s Reg.FPM_MAINT_STATUS i) := by
  unfold dropStaging
  extract_lets t u
  have ht : fbit t Reg.FPM_MAINT_STATUS i = (!(i == 0 && fld s Reg.SEC_STAGE_STATUS 1 0 == 1) && fbit s Reg.FPM_MAINT_STATUS i) := by
    simp only [t]
    split
    · next h => rw [fbit_maintRel s (by decide) hi, h, Bool.and_true, bne]
    · next h => rw [Bool.not_eq_true] at h; rw [h, Bool.and_false]; rfl
  rw [showStage, fbit, rd_wr_ne _ _ (by decide), rd_secMod]
  have hu : rd u Reg.FPM_MAINT_STATUS = rd t Reg.FPM_MAINT_STATUS :=
    foldl_wr_ne (f := Reg.SEC_STAGED_HASH) (v := fun _ => 0) _ t fun i _ => by
      simp only [Reg.SEC_STAGED_HASH, Reg.FPM_MAINT_STATUS]
      omega
  rw [hu]
  exact ht

theorem compat_dropStaging (hc : ∀ h ∈ holders s, h ≠ 0 → compat 0 h = true) (h0 : 0 ∈ holders s → fld s Reg.SEC_STAGE_STATUS 1 0 = 1) :
    ∀ h ∈ holders (dropStaging s), compat 0 h = true := by
  intro h hh
  obtain ⟨hr, hb⟩ := List.mem_filter.mp hh
  have hi : h < 9 := List.mem_range.mp hr
  rw [fbit_dropStaging s hi, Bool.and_eq_true] at hb
  have hs : h ∈ holders s := List.mem_filter.mpr ⟨hr, hb.2⟩
  refine hc h hs fun hz => ?_
  subst hz
  rw [h0 hs] at hb
  exact absurd hb.1 (by decide)

end drop

section manifest

variable {s : State} {m : List Byte}

/-- A staging run is open for a manifest: the token of staging is held and what the checks read is as it was (R500). -/
structure StagingOpen (s t : State) : Prop where
  sec : t.sec = { s.sec with manifest := [], blocks := [] }
  mem : t.mem = s.mem
  token : fbit t Reg.FPM_MAINT_STATUS 0 = true
  status : rd t Reg.SEC_STATUS = rd s Reg.SEC_STATUS
  serial : serial t = serial s
  work : SameWork s t

theorem stagingOpen (hc : ∀ h ∈ holders s, h ≠ 0 → compat 0 h = true) (h0 : 0 ∈ holders s → fld s Reg.SEC_STAGE_STATUS 1 0 = 1) :
    ∃ t, maintReq (dropStaging s) 0 = (true, t) ∧ StagingOpen s t := by
  have hg : maintReq (dropStaging s) 0 = (true, maintHeld (dropStaging s) 0) :=
    maintReq_granted (by decide) (List.all_eq_true.mpr (compat_dropStaging s hc h0))
  refine ⟨_, hg, ?_⟩
  have hsec := (dropStaging_shows s).1
  have hmem : (dropStaging s).mem = s.mem := dropStaging_keeps s State.mem (fun _ _ _ => rfl) fun _ _ => rfl
  have hrd {a : Nat} (h1 : a ≠ Reg.SEC_STAGE_STATUS) (h2 : ∀ i < 8, a ≠ Reg.SEC_STAGED_HASH i) (h3 : a ≠ Reg.FPM_MAINT_STATUS) :
      rd (maintHeld (dropStaging s) 0) a = rd s a := (rd_maintHeld_ne _ _ h3).trans (rd_dropStaging s h1 h2 h3)
  have hhash (a : Nat) (ha : a < 0x20E00020 ∨ 0x20E00040 ≤ a) : ∀ i < 8, a ≠ Reg.SEC_STAGED_HASH i := fun i hi => by
    simp only [Reg.SEC_STAGED_HASH]
    omega
  have hwork := work_dropStaging s
  obtain ⟨d, hd⟩ : ∃ d, dropStaging s = d := ⟨_, rfl⟩
  rw [hd] at hsec hmem hwork hrd
  rw [hd]
  refine ⟨?_, ?_, fbit_maintHeld d (by decide), hrd (by decide) (hhash _ (by decide)) (by decide), ?_, hwork.trans (work_maintHeld d 0)⟩
  · rw [maintHeld_keeps_of State.sec (fun _ _ _ _ _ => rfl) (fun _ _ _ _ => rfl), hsec]
  · rw [(maintHeld_keeps d 0).2, hmem]
  · rw [Machine.serial, rd64, hrd (by decide) (hhash _ (by decide)) (by decide), hrd (by decide) (hhash _ (by decide)) (by decide)]
    rfl

theorem StagingOpen.form {t : State} (h : StagingOpen s t) : manifestForm t m = manifestForm s m := by
  unfold manifestForm
  rw [h.serial]

theorem StagingOpen.signed {t : State} (h : StagingOpen s t) : manifestSigned t m = manifestSigned s m := by
  simp only [manifestSigned, keyOf, keysInForce, h.sec]

theorem StagingOpen.epoch {t : State} (h : StagingOpen s t) : epochLow t m = epochLow s m := by simp only [epochLow, h.sec]

theorem StagingOpen.size {t : State} (h : StagingOpen s t) : slotSize t = slotSize s := by simp only [slotSize, h.sec]

theorem StagingOpen.slot {t : State} (h : StagingOpen s t) : stageSlot t = stageSlot s := by rw [stageSlot, fld, h.status, stageSlot, fld]

/-- What a taken manifest leaves (R500). -/
structure ManifestTaken (s : State) (m : List Byte) (u : State) : Prop where
  sec : u.sec = { s.sec with manifest := m, blocks := [] }
  stage : fld u Reg.SEC_STAGE_STATUS 1 0 = 1
  token : fbit u Reg.FPM_MAINT_STATUS 0 = true
  stored : readMem u .nvm (0x10000 + 0x10000 * stageSlot s) m.length = m
  work : SameWork s u

theorem showStage_running (s : State) : fld (showStage s 1) Reg.SEC_STAGE_STATUS 1 0 = 1 := by
  rw [showStage, fld, rd_wr_same, if_pos (by decide)]
  simp only [wbits, bits, word, BitVec.toNat_ofNat]
  omega

theorem stored_taken {t : State} (hopen : StagingOpen s t) (mem : Mem) : ManifestTaken s m
    (showStage (secMod (writeMem { t with mem := mem } .nvm (0x10000 + 0x10000 * stageSlot t) m)
      fun x => { x with manifest := m, blocks := [] }) 1) := by
  have hread := readMem_writeMem { t with mem := mem } .nvm (0x10000 + 0x10000 * stageSlot t) (bs := m) rfl
  rw [hopen.slot] at hread ⊢
  have hw : SameWork t { t with mem := mem } := ⟨rfl, rfl, rfl, rfl⟩
  have hrd (a : Nat) : rd (writeMem { t with mem := mem } .nvm (0x10000 + 0x10000 * stageSlot s) m) a = rd t a := rfl
  have hsec : (writeMem { t with mem := mem } .nvm (0x10000 + 0x10000 * stageSlot s) m).sec = t.sec := rfl
  have hwork := hopen.work.trans (hw.trans (work_writeMem _ .nvm (0x10000 + 0x10000 * stageSlot s) m))
  obtain ⟨v, hv⟩ : ∃ v, writeMem { t with mem := mem } .nvm (0x10000 + 0x10000 * stageSlot s) m = v := ⟨_, rfl⟩
  rw [hv] at hread hrd hsec hwork ⊢
  refine ⟨?_, showStage_running _, ?_, hread, hwork.trans ((work_secMod _ _).trans (work_showStage _ _))⟩
  · have hm : (secMod v fun x => { x with manifest := m, blocks := [] }).sec = { v.sec with manifest := m, blocks := [] } := rfl
    rw [showStage, wr_sec, hm, hsec, hopen.sec]
  · rw [showStage, fbit, rd_wr_ne _ _ (by decide), rd_secMod, hrd]
    exact hopen.token

/-- UPD_MANIFEST takes a manifest that passes its checks (R500). -/
theorem updManifest_taken (hf : manifestForm s m = true) (hs : manifestSigned s m = true) (he : epochLow s m = false)
    (hp : ((partsOf m).any fun p => (if p.cls == 5 then 0x300000 else slotSize s) <
      (if p.cls == 5 then 0 else p.offset) + p.length) = false)
    (hc : ∀ h ∈ holders s, h ≠ 0 → compat 0 h = true) (h0 : 0 ∈ holders s → fld s Reg.SEC_STAGE_STATUS 1 0 = 1) :
    ∃ u, updManifest s m = (0, u) ∧ ManifestTaken s m u := by
  obtain ⟨t, hreq, hopen⟩ := stagingOpen hc h0
  rw [← hopen.size] at hp
  refine ⟨_, ?_, stored_taken hopen (if (partsOf m).any fun p => p.cls == 5 then
    ((t.mem.erase .nvm (slotAt t (stageSlot t)) (slotSize t)).erase .nvm (0x10000 + 0x10000 * stageSlot t) 0x10000).erase .nvm
      (areaAt (stageArea t)) 0x300000
    else (t.mem.erase .nvm (slotAt t (stageSlot t)) (slotSize t)).erase .nvm (0x10000 + 0x10000 * stageSlot t) 0x10000)⟩
  rw [updManifest, hreq]
  dsimp only
  rw [if_neg (by decide), hopen.form, hf, if_neg (by decide), hopen.signed, hs, if_neg (by decide), hopen.epoch, he,
    if_neg (by decide), hp, if_neg (by decide)]

/-- A manifest without the form ends the staging run (R500). -/
theorem updManifest_refused (hf : manifestForm s m = false) (hc : ∀ h ∈ holders s, h ≠ 0 → compat 0 h = true)
    (h0 : 0 ∈ holders s → fld s Reg.SEC_STAGE_STATUS 1 0 = 1) : ∃ u, updManifest s m = (3, u) ∧ rd u Reg.SEC_STAGE_STATUS = 3 ∧
      u.sec = { s.sec with manifest := [], blocks := [] } ∧ u.mem = s.mem ∧ SameWork s u := by
  obtain ⟨t, hreq, hopen⟩ := stagingOpen hc h0
  refine ⟨event (maintRel (showStage t 3) 0) SEC 6, ?_, ?_, ?_, ?_, ?_⟩
  · rw [updManifest, hreq]
    dsimp only
    rw [if_neg (by decide), hopen.form, hf]
    rfl
  · rw [rd_event _ _ _ _ _ (by decide), rd_maintRel_ne _ _ (by decide), showStage, rd_wr_same, if_neg (by decide)]
    rfl
  · rw [event_sec, maintRel, if_pos (by decide), setF_sec, setF_sec, setBit_sec, showStage, wr_sec, hopen.sec]
  · rw [event_mem, maintRel_mem, showStage, wr_mem, hopen.mem]
  · exact hopen.work.trans ((work_showStage _ _).trans ((work_maintRel _ _).trans (work_event _ _ _ _ _)))

end manifest

theorem leVal_lt (bs : List Byte) : leVal bs < 256 ^ bs.length := by
  induction bs with
  | nil => exact Nat.one_pos
  | cons b bs ih =>
    have hb : b.toNat < 256 := b.isLt
    rw [leVal, List.length_cons, Nat.pow_succ]
    omega

theorem field_lt (bs : List Byte) (o n : Nat) : field bs o n < 256 ^ n :=
  Nat.lt_of_lt_of_le (leVal_lt _) (Nat.pow_le_pow_right (by decide) (List.length_take_le _ _))

section blocks

variable {s : State} {index offset : Nat} {hash block : List Byte}

/-- The state in which a block of a staging run has been stored (R500). -/
def blockStored (s : State) (index offset : Nat) (block : List Byte) : State :=
  showStage (secMod (writeMem s .nvm
    (partAddr s (stageSlot s) (stageArea s) (partAt s.sec.manifest index) + offset) block)
      fun x => { x with blocks := (index, offset) :: x.blocks }) 1

theorem blockStored_sec (s : State) (index offset : Nat) (block : List Byte) :
    (blockStored s index offset block).sec = { s.sec with blocks := (index, offset) :: s.sec.blocks } := by
  rw [blockStored, showStage, wr_sec]
  rfl

theorem blocksMissing_blockStored (s : State) (index offset : Nat) (block : List Byte) :
    blocksMissing (blockStored s index offset block) = blocksMissing s - 1 := by
  rw [blocksMissing, blockStored_sec, blocksMissing, List.length_cons, Nat.sub_add_eq]

theorem updBlock_stored (hst : fld s Reg.SEC_STAGE_STATUS 1 0 = 1) (hi : index < (partsOf s.sec.manifest).length)
    (h4 : offset % 4096 = 0) (ho : offset < (partAt s.sec.manifest index).length) (hl : block.length = 4096)
    (hh : digestOf (Config.sha256 block) = hash) (hn : s.sec.blocks.contains (index, offset) = false) (hm : 2 ≤ blocksMissing s)
    (hw : (partAt s.sec.manifest index).cls = 4 → s.sec.blocks = [] ∧ 2 ≤ blocksOf (partAt s.sec.manifest index)) :
    updBlock s index offset hash block = (0, blockStored s index offset block) := by
  have hmiss := blocksMissing_blockStored s index offset block
  have hsec := blockStored_sec s index offset block
  have hdone : (((blockStored s index offset block).sec.blocks.filter fun b => b.1 == index).length ==
      blocksOf (partAt s.sec.manifest index) && (partAt s.sec.manifest index).cls == 4) = false := by
    rw [hsec]
    by_cases hc : (partAt s.sec.manifest index).cls = 4
    · obtain ⟨hb, h2⟩ := hw hc
      have hlen : (((index, offset) :: s.sec.blocks).filter fun b => b.1 == index).length = 1 := by simp [hb]
      dsimp only
      rw [hlen, Bool.and_eq_false_iff]
      exact .inl (by simp; omega)
    · rw [Bool.and_eq_false_iff]
      exact .inr (by simpa using hc)
  rw [updBlock]
  dsimp only
  rw [if_neg (by rw [hst]; decide), if_neg (Nat.not_le.mpr hi), if_neg (by simp [h4, hl]; omega), if_neg (by simp [hh]), hn,
    if_neg (by decide)]
  rw [← blockStored]
  obtain ⟨u, hu⟩ : ∃ u, blockStored s index offset block = u := ⟨_, rfl⟩
  rw [hu] at hmiss hdone ⊢
  rw [hdone]
  simp only [Bool.false_eq_true, if_false]
  rw [if_pos (by rw [hmiss, bne_iff_ne]; omega)]

theorem readMem_blockStored (hl : block.length = 4096) : readMem (blockStored s index offset block) .nvm
    (partAddr s (stageSlot s) (stageArea s) (partAt s.sec.manifest index) + offset) 4096 = block :=
  readMem_writeMem s .nvm (partAddr s (stageSlot s) (stageArea s) (partAt s.sec.manifest index) + offset) hl

theorem work_blockStored (s : State) (index offset : Nat) (block : List Byte) : SameWork s (blockStored s index offset block) := by
  rw [blockStored]
  exact (work_writeMem _ _ _ _).trans ((work_secMod _ _).trans (work_showStage _ _))

end blocks

section recovery

variable {s : State} {q : Req} {recovery : Bool}

/-- The next request of an owned flow is executed with the flow advanced (R519). -/
theorem enterRequest_owned (op : Nat) (hf : q.flow.toNat < 240) (ho : (flow s q.flow.toNat).owner = some q.ep)
    (he : (flow s q.flow.toNat).expected = q.seq) (hw : s.host.waiting = []) (hq : s.host.queued = []) (hl : ∀ l, q.ep ≠ .legacy l) :
    enterRequest s op q = hostOp (accepted s q) (waitingOf s op q) q.payload := by
  have hown : flowOwner s q.flow.toNat = some q.ep := by rw [flowOwner, if_neg (by simp; omega), ho]
  have hrun := runOrHold_free (s := setFlow s q.flow.toNat { flow s q.flow.toNat with last := s.raw, expected := q.seq + 1 }) op q hw hq
  have hseq : sequenced s (waitingOf s op q) op q =
      runOrHold (setFlow s q.flow.toNat { flow s q.flow.toNat with last := s.raw, expected := q.seq + 1 }) op q := by
    rw [sequenced, show (waitingOf s op q).flow = q.flow.toNat from rfl, he]
    dsimp only
    rw [if_pos (by simp)]
  rw [enterRequest, hown]
  rw [if_neg (by omega), if_neg (by omega)]
  cases hep : q.ep with
  | legacy l => exact absurd hep (hl l)
  | ring r =>
    rw [if_neg (by simp), if_pos (by simp), hseq, hrun, execRequest, accepted, hep]
    rfl
  | udp a b c =>
    rw [if_neg (by simp), if_pos (by simp), hseq, hrun, execRequest, accepted, hep]
    rfl

/-- The next request of a legacy queue is executed (R543). -/
theorem enterRequest_legacy (op : Nat) {l : Fin 8} (hep : q.ep = .legacy l) (hf : q.flow.toNat = 240 + l.val)
    (hw : s.host.waiting = []) (hq : s.host.queued = []) (ho : op ≠ 1 ∧ op ≠ 2) :
    enterRequest s op q = hostOp (accepted s q) (waitingOf s op q) q.payload := by
  have hl : (⟨(q.flow.toNat - 240) % 8, Nat.mod_lt _ (by decide)⟩ : Fin 8) = l := Fin.ext (by dsimp only; omega)
  rw [enterRequest]
  rw [if_neg (by omega), if_pos (by omega), hl, hep, if_neg (by simp [ho.1, ho.2]), runOrHold_free op q hw hq, execRequest, accepted, hep]
  rfl

theorem enterRequest_next (op : Nat) (h : Requests s q recovery) (ho : op ≠ 1 ∧ op ≠ 2) :
    enterRequest s op q = hostOp (accepted s q) (waitingOf s op q) q.payload := by
  have hf := h.flow
  split at hf
  · next l hep => exact enterRequest_legacy op hep hf h.alone h.quiet.1 ho
  · next hl =>
    obtain ⟨hn, hown, hexp⟩ := hf
    exact enterRequest_owned op hn hown hexp h.alone h.quiet.1 fun l hep => hl l hep

/-- A request whose meaning answers it at once, in host recovery or not. -/
theorem replies_booted {i : Instr} {u : State} {op st : Nat} {p : List Byte} {P : State → Prop}
    (e : exec i s = run (fun s => takeRequest s op q) s) (h : Requests s q recovery) (ho : op ≠ 1 ∧ op ≠ 2)
    (k : hostOp (accepted s q) (waitingOf s op q) q.payload = finish u (waitingOf s op q) st p) (hw : SameWork (accepted s q) u)
    (hP : P u) : Replies i s q op st p P := by
  have hall := (work_accepted s q).trans (hw.trans (work_finish u (waitingOf s op q) st p))
  refine ⟨u, exec_run e ?_ hall.2.2.2, hP⟩
  rw [takeRequest, if_neg (by rw [show s.sec.inReset = false from h.awake]; decide), enterRequest_next op h ho, k]
  exact pump_work h.quiet hall

/-- In host recovery ECHO is answered (log entry 104). -/
theorem replies_echo_recovery (h : Requests s q true) : Replies (.echo q) s q 0x0003 0 q.payload (· = accepted s q) := by
  have hop : hostOp (accepted s q) (waitingOf s 0x0003 q) q.payload = finish (accepted s q) (waitingOf s 0x0003 q) 0 q.payload := by
    rw [hostOp, boot_accepted h]
    rfl
  exact replies_booted rfl h (by decide) hop (.refl _) rfl

/-- In host recovery an opcode that would change the head gets STATE (log entry 104). -/
theorem hostOp_recovery (h : Requests s q true) {op : Nat} (ho : recoveryOpcodes.contains op = false) :
    hostOp (accepted s q) (waitingOf s op q) q.payload = finish (accepted s q) (waitingOf s op q) 10 [] := by
  rw [hostOp, boot_accepted h, show (waitingOf s op q).opcode = op from rfl, ho]
  rfl

theorem replies_axisCmd_recovery (h : Requests s q true) : Replies (.axisCmd q) s q 0x0301 10 [] (· = accepted s q) :=
  replies_booted rfl h (by decide) (hostOp_recovery h rfl) (.refl _) rfl

theorem replies_updActivate_recovery (h : Requests s q true) : Replies (.updActivate q) s q 0x0705 10 [] (· = accepted s q) :=
  replies_booted rfl h (by decide) (hostOp_recovery h rfl) (.refl _) rfl

end recovery

section update

variable {s : State} {q : Req} {recovery : Bool}

theorem stage_accepted (s : State) (q : Req) : fld (accepted s q) Reg.SEC_STAGE_STATUS 1 0 = fld s Reg.SEC_STAGE_STATUS 1 0 :=
  fld_accepted s q (by decide) 1 0

theorem stageSlot_accepted (s : State) (q : Req) : stageSlot (accepted s q) = stageSlot s := by
  rw [stageSlot, fld_accepted s q (by decide), stageSlot]

theorem stageArea_accepted (s : State) (q : Req) : stageArea (accepted s q) = stageArea s := by
  rw [stageArea, fld_accepted s q (by decide), stageArea]

theorem form_accepted (s : State) (q : Req) (m : List Byte) : manifestForm (accepted s q) m = manifestForm s m := by
  unfold manifestForm
  rw [serial_accepted]

theorem keyOf_accepted (s : State) (q : Req) (i role : Nat) : keyOf (accepted s q) i role = keyOf s i role := by
  rw [keyOf, keysInForce, accepted_sec, keyOf, keysInForce]

theorem signed_accepted (s : State) (q : Req) (m : List Byte) : manifestSigned (accepted s q) m = manifestSigned s m := by
  simp only [manifestSigned, keyOf_accepted, accepted_sec]

theorem hostOp_updManifest (h : Requests s q recovery) :
    hostOp (accepted s q) (waitingOf s 0x0702 q) q.payload = opUpdManifest (accepted s q) (waitingOf s 0x0702 q) q.payload := by
  rw [hostOp, boot_accepted h]
  cases recovery <;> rfl

/-- UPD_MANIFEST is answered with what it leaves, in host recovery too (R485, R500). -/
theorem replies_updManifest (h : Requests s q recovery) (hf : manifestForm s q.payload = true) (hs : manifestSigned s q.payload = true)
    (he : epochLow s q.payload = false) (hp : ((partsOf q.payload).any fun p => (if p.cls == 5 then 0x300000 else slotSize s) <
      (if p.cls == 5 then 0 else p.offset) + p.length) = false) (hc : ∀ h ∈ holders s, h ≠ 0 → compat 0 h = true)
    (h0 : 0 ∈ holders s → fld s Reg.SEC_STAGE_STATUS 1 0 = 1) :
    Replies (.updManifest q) s q 0x0702 0 (genericG s.cyc.count 0) (ManifestTaken (accepted s q) q.payload) := by
  obtain ⟨u, hu, htaken⟩ := updManifest_taken (s := accepted s q) (m := q.payload) ((form_accepted s q _).trans hf)
    ((signed_accepted s q _).trans hs) (by rw [epochLow, accepted_sec]; exact he) (by rw [slotSize, accepted_sec]; exact hp)
    (by rw [holders_accepted]; exact hc) (by rw [holders_accepted, stage_accepted]; exact h0)
  refine replies_booted rfl h (by decide) ((hostOp_updManifest h).trans ?_) htaken.work htaken
  rw [opUpdManifest, hu]
  rfl

theorem Replies.mono {i : Instr} {op st : Nat} {p : List Byte} {P R : State → Prop} (h : Replies i s q op st p P)
    (hPR : ∀ u, P u → R u) : Replies i s q op st p R := by
  obtain ⟨u, hu, hP⟩ := h
  exact ⟨u, hu, hPR u hP⟩

theorem replies_updManifest_refused (h : Requests s q) (hf : manifestForm s q.payload = false)
    (hc : ∀ h ∈ holders s, h ≠ 0 → compat 0 h = true) (h0 : 0 ∈ holders s → fld s Reg.SEC_STAGE_STATUS 1 0 = 1) :
    Replies (.updManifest q) s q 0x0702 3 [] fun u =>
      rd u Reg.SEC_STAGE_STATUS = 3 ∧ u.sec = { s.sec with manifest := [], blocks := [] } ∧ u.mem = s.mem := by
  obtain ⟨u, hu, hst, hsec, hmem, hw⟩ := updManifest_refused (s := accepted s q) (m := q.payload) ((form_accepted s q _).trans hf)
    (by rw [holders_accepted]; exact hc) (by rw [holders_accepted, stage_accepted]; exact h0)
  rw [accepted_sec] at hsec
  refine replies_of rfl h (.inr (by decide)) ((hostOp_updManifest h).trans ?_) hw ⟨hst, hsec, hmem.trans (accepted_mem s q)⟩
  rw [opUpdManifest, hu]
  rfl

theorem blocksMissing_accepted (s : State) (q : Req) : blocksMissing (accepted s q) = blocksMissing s := by
  rw [blocksMissing, accepted_sec, blocksMissing]

theorem partAddr_accepted (s : State) (q : Req) (slot area : Nat) (p : Part) : partAddr (accepted s q) slot area p = partAddr s slot area p := by
  rw [partAddr, slotAt, accepted_sec, partAddr, slotAt]

/-- The payload of UPD_BLOCK (R500). -/
theorem blockPayload {p hash block : List Byte} {index offset : Nat} (hp : p = leBytes 4 index ++ leBytes 4 offset ++ hash ++ block)
    (hi : index < 2 ^ 32) (ho : offset < 2 ^ 32) (hh : hash.length = 32) (hb : block.length = 4096) :
    p.length = 4136 ∧ field p 0 4 = index ∧ field p 4 4 = offset ∧ slice p 8 32 = hash ∧ p.drop 40 = block := by
  have h40 : (leBytes 4 index ++ leBytes 4 offset ++ hash).length = 40 := by simp [length_leBytes, hh]
  subst hp
  refine ⟨?_, (leVal_leBytes 4 index).trans (Nat.mod_eq_of_lt hi), (leVal_leBytes 4 offset).trans (Nat.mod_eq_of_lt ho), ?_, ?_⟩
  · rw [List.length_append, h40, hb]
  · have h8 : (leBytes 4 index ++ leBytes 4 offset ++ hash ++ block).drop 8 = hash ++ block := rfl
    rw [slice, h8, ← hh, List.take_left]
  · rw [← h40, List.drop_left]

theorem replies_updBlock (h : Requests s q) {index offset : Nat} {hash block : List Byte}
    (hp : q.payload = leBytes 4 index ++ leBytes 4 offset ++ hash ++ block) (hhl : hash.length = 32) (hl : block.length = 4096)
    (hst : fld s Reg.SEC_STAGE_STATUS 1 0 = 1) (hi : index < (partsOf s.sec.manifest).length) (h4 : offset % 4096 = 0)
    (ho : offset < (partAt s.sec.manifest index).length) (hh : digestOf (Config.sha256 block) = hash)
    (hn : s.sec.blocks.contains (index, offset) = false) (hm : 2 ≤ blocksMissing s)
    (hw : (partAt s.sec.manifest index).cls = 4 → s.sec.blocks = [] ∧ 2 ≤ blocksOf (partAt s.sec.manifest index)) :
    Replies (.updBlock q) s q 0x0703 0 (genericG s.cyc.count (blocksMissing s - 1)) fun u =>
        u.sec = { s.sec with blocks := (index, offset) :: s.sec.blocks } ∧ readMem u .nvm
          (partAddr s (stageSlot s) (stageArea s) (partAt s.sec.manifest index) + offset) 4096 = block := by
  have hindex : index < 2 ^ 32 := by
    have : field s.sec.manifest 6 2 < 2 ^ 16 := field_lt s.sec.manifest 6 2
    simp only [partsOf, List.length_map, List.length_range] at hi
    omega
  have hoffset : offset < 2 ^ 32 := Nat.lt_trans ho (field_lt _ 12 4)
  obtain ⟨hlen, h0, h1, h2, h3⟩ := blockPayload hp hindex hoffset hhl hl
  have hop : hostOp (accepted s q) (waitingOf s 0x0703 q) q.payload = opUpdBlock (accepted s q) (waitingOf s 0x0703 q) q.payload := by
    rw [hostOp, boot_accepted h]
    rfl
  have hb := updBlock_stored (s := accepted s q) (index := index) (offset := offset) (hash := hash) (block := block)
    ((stage_accepted s q).trans hst) (by rw [accepted_sec]; exact hi) h4 (by rw [accepted_sec]; exact ho) hl hh
    (by rw [accepted_sec]; exact hn) (by rw [blocksMissing_accepted]; exact hm) (by rw [accepted_sec]; exact hw)
  have hsec := blockStored_sec (accepted s q) index offset block
  have hread := readMem_blockStored (s := accepted s q) (index := index) (offset := offset) hl
  have hmiss := blocksMissing_blockStored (accepted s q) index offset block
  have hwork := work_blockStored (accepted s q) index offset block
  have hboot : (fld (blockStored (accepted s q) index offset block) Reg.SEC_STATUS 2 0 == 5) = false := by
    have hrd : rd (blockStored (accepted s q) index offset block) Reg.SEC_STATUS = rd (accepted s q) Reg.SEC_STATUS := by
      rw [blockStored, showStage, rd_wr_ne _ _ (by decide), rd_secMod]
      rfl
    rw [fld, hrd, ← fld, boot_accepted h]
  rw [accepted_sec] at hsec hread
  rw [partAddr_accepted, stageSlot_accepted, stageArea_accepted] at hread
  rw [blocksMissing_accepted] at hmiss
  obtain ⟨u, hu⟩ : ∃ u, blockStored (accepted s q) index offset block = u := ⟨_, rfl⟩
  rw [hu] at hb hsec hread hmiss hwork hboot
  refine replies_of rfl h (.inr (by decide)) (hop.trans ?_) hwork ⟨hsec, hread⟩
  rw [opUpdBlock, hlen, if_neg (by decide), h0, h1, h2, h3, hb, replyOf]
  dsimp only
  rw [hmiss]
  exact recoverBoot_finish _ _ _ _ hboot

end update

section protection

variable {s : State} {q : Req}

theorem nonceBytes_accepted (s : State) (q : Req) : nonceBytes (accepted s q) = nonceBytes s := by
  rw [nonceBytes, nonceBytes]
  congr 1
  refine List.map_congr_left fun i hi => ?_
  have hlt := List.mem_range.mp hi
  rw [rd_accepted s q (by simp only [Reg.SEC_NONCE, Reg.HOST_MSG_CNT]; omega)]

theorem raw_accepted (s : State) (q : Req) : (accepted s q).raw = s.raw := accepted_keeps s q State.raw (fun _ _ => rfl) fun _ _ => rfl

theorem protNow_accepted (s : State) (q : Req) : protNow (accepted s q) = protNow s := by
  rw [protNow, accepted_sec, raw_accepted, protNow]

theorem work_showProt (s : State) (st kind : Nat) : SameWork s (showProt s st kind) := work_wr _ _ _

/-- A standing protection request: what it keeps and how it shows (R507). -/
theorem protRequest_stands {b : List Byte} {key : BitVec 512} (hk1 : 1 ≤ field b 0 4) (hk2 : field b 0 4 ≤ 3) (he1 : 60 ≤ field b 44 4)
    (he2 : field b 44 4 ≤ 3600) (hser : field b 4 8 = serial s) (hv : s.sec.nonceValid = true) (hn : slice b 12 32 = nonceBytes s)
    (hkey : keyOf s (field b 80 4) 1 = some key) (hsig : Config.ecdsaOk key (Config.sha256 (b.take 80)) (slice b 84 64) = true) :
    ∃ u, protRequest s b = (0, u) ∧ u.sec = { s.sec with
        prot := some { kind := field b 0 4, object := BitVec.ofNat 256 (beVal (slice b 48 32)), digest := Config.sha256 b, raw := s.raw,
                       expiry := field b 44 4 }, nonceValid := false } ∧
      rd u Reg.SEC_PROT_STATUS = word (1 + field b 0 4 * 16) ∧ SameWork s u := by
  refine ⟨event (showProt (secMod s fun x => { x with
        prot := some { kind := field b 0 4, object := BitVec.ofNat 256 (beVal (slice b 48 32)), digest := Config.sha256 b, raw := s.raw,
                       expiry := field b 44 4 }, nonceValid := false }) 1 (field b 0 4)) SEC 13 (field b 0 4), ?_, ?_, ?_, ?_⟩
  · rw [protRequest]
    dsimp only
    rw [if_neg (by simp [hser]; omega), if_neg (by simp [hv, hn]), hkey]
    dsimp only
    rw [hsig]
    rfl
  · rw [event_sec, showProt, wr_sec]
    rfl
  · rw [rd_event _ _ _ _ _ (by decide), showProt, rd_wr_same, Nat.mod_eq_of_lt (by omega)]
  · exact (work_secMod _ _).trans ((work_showProt _ _ _).trans (work_event _ _ _ _ _))

theorem replies_protRequest (h : Requests s q) {key : BitVec 512} (hl : q.payload.length = 148) (hk1 : 1 ≤ field q.payload 0 4)
    (hk2 : field q.payload 0 4 ≤ 3) (he1 : 60 ≤ field q.payload 44 4) (he2 : field q.payload 44 4 ≤ 3600)
    (hser : field q.payload 4 8 = serial s) (hv : s.sec.nonceValid = true) (hn : slice q.payload 12 32 = nonceBytes s)
    (hkey : keyOf s (field q.payload 80 4) 1 = some key)
    (hsig : Config.ecdsaOk key (Config.sha256 (q.payload.take 80)) (slice q.payload 84 64) = true) :
    Replies (.protRequest q) s q 0x0707 0 (genericG s.cyc.count 0) fun u => u.sec.nonceValid = false ∧
        u.sec.prot = some { kind := field q.payload 0 4, object := BitVec.ofNat 256 (beVal (slice q.payload 48 32))
                            digest := Config.sha256 q.payload, raw := s.raw, expiry := field q.payload 44 4 } ∧
        rd u Reg.SEC_PROT_STATUS = word (1 + field q.payload 0 4 * 16) := by
  obtain ⟨u, hu, hsec, hst, hw⟩ := protRequest_stands (s := accepted s q) hk1 hk2 he1 he2 (hser.trans (serial_accepted s q).symm)
    (by rw [accepted_sec]; exact hv) (hn.trans (nonceBytes_accepted s q).symm) ((keyOf_accepted s q _ _).trans hkey) hsig
  have hop : hostOp (accepted s q) (waitingOf s 0x0707 q) q.payload = opProtRequest (accepted s q) (waitingOf s 0x0707 q) q.payload := by
    rw [hostOp, boot_accepted h]
    rfl
  rw [raw_accepted] at hsec
  refine replies_of rfl h (.inr (by decide)) (hop.trans ?_) hw ⟨congrArg Sec.nonceValid hsec, congrArg Sec.prot hsec, hst⟩
  rw [opProtRequest, hl, if_neg (by decide), hu]
  rfl

theorem hostOp_protConfirm (h : Requests s q) :
    hostOp (accepted s q) (waitingOf s 0x0708 q) q.payload = opProtConfirm (accepted s q) (waitingOf s 0x0708 q) q.payload := by
  rw [hostOp, boot_accepted h]
  rfl

theorem work_protApply (s : State) (p : ProtReq) : SameWork s (protApply s p) :=
  (work_secMod _ _).trans ((work_showProt _ _ _).trans (work_event _ _ _ _ _))

theorem protApply_shows (s : State) (p : ProtReq) :
    (protApply s p).sec = { s.sec with prot := none, agreed := some (p.kind, p.object) } ∧
      rd (protApply s p) Reg.SEC_PROT_STATUS = word (2 + p.kind % 4 * 16) := by
  rw [protApply, event_sec, rd_event _ _ _ _ _ (by decide), showProt, wr_sec, rd_wr_same]
  exact ⟨rfl, rfl⟩

theorem replies_protConfirm (h : Requests s q) {p : ProtReq} {key : BitVec 512} (hl : q.payload.length = 68) (hp : protNow s = some p)
    (hkey : keyOf s (field q.payload 0 4) 2 = some key) (hsig : Config.ecdsaOk key p.digest (slice q.payload 4 64) = true) :
    Replies (.protConfirm q) s q 0x0708 0 (genericG s.cyc.count 0)
        fun u => u.sec = { s.sec with prot := none, agreed := some (p.kind, p.object) } ∧
          rd u Reg.SEC_PROT_STATUS = word (2 + p.kind % 4 * 16) := by
  obtain ⟨hsec, hst⟩ := protApply_shows (accepted s q) p
  rw [accepted_sec] at hsec
  refine replies_of rfl h (.inr (by decide)) ((hostOp_protConfirm h).trans ?_) (work_protApply (accepted s q) p) ⟨hsec, hst⟩
  have hc : protConfirm (accepted s q) q.payload = (0, protApply (accepted s q) p) := by
    simp only [protConfirm, protNow_accepted, hp, keyOf_accepted, hkey, hsig, if_true]
  rw [opProtConfirm, hl, if_neg (by decide), hc]
  rfl

theorem replies_protConfirm_none (h : Requests s q) (hl : q.payload.length = 68) (hp : protNow s = none) :
    Replies (.protConfirm q) s q 0x0708 10 [] (· = accepted s q) := by
  refine replies_of rfl h (.inr (by decide)) ((hostOp_protConfirm h).trans ?_) (.refl _) rfl
  have hc : protConfirm (accepted s q) q.payload = (10, accepted s q) := by
    simp only [protConfirm, protNow_accepted, hp]
  rw [opProtConfirm, hl, if_neg (by decide), hc]
  rfl

theorem keysStored_accepted (s : State) (q : Req) : keysStored (accepted s q) = keysStored s := by
  simp only [keysStored, readMem_accepted, accepted_sec]

/-- An agreed key area goes to the first place where none is stored (R508). -/
theorem protObject_stored {b : List Byte} {x : BitVec 256} (hk : field b 0 4 = 3) (ha : s.sec.agreed = some (3, x))
    (hh : Config.sha256 (b.drop 4) = x) (hs : keysStored s = none) : protObject s b = (0, writeMem
      (secMod s fun x => { x with agreed := none }) .nvm 0x4000 ((Config.withSeq (b.drop 4) 1).take 0x4000)) := by
  have hne : (([] : List Byte) == readMem s .nvm 0x4000 0x4000) = false := by
    rw [readMem, show 0x4000 = 0x3FFF + 1 from rfl, Mem.reads]
    rfl
  rw [protObject, hk, ha, hs]
  dsimp only
  rw [hne, if_neg (by decide), if_neg (by decide), if_neg (by simp [hh])]
  rfl

theorem replies_protObject (h : Requests s q) {x : BitVec 256} (hl : 8 ≤ q.payload.length) (hk : field q.payload 0 4 = 3)
    (ha : s.sec.agreed = some (3, x)) (hh : Config.sha256 (q.payload.drop 4) = x) (hs : keysStored s = none)
    (hlen : 0x4000 ≤ (Config.withSeq (q.payload.drop 4) 1).length) :
    Replies (.protObject q) s q 0x0709 0 (genericG s.cyc.count 0) fun u => u.sec = { s.sec with agreed := none } ∧
        readMem u .nvm 0x4000 0x4000 = (Config.withSeq (q.payload.drop 4) 1).take 0x4000 := by
  have hop : hostOp (accepted s q) (waitingOf s 0x0709 q) q.payload = opProtObject (accepted s q) (waitingOf s 0x0709 q) q.payload := by
    rw [hostOp, boot_accepted h]
    rfl
  have hp := protObject_stored (s := accepted s q) (b := q.payload) hk (by rw [accepted_sec]; exact ha) hh
    ((keysStored_accepted s q).trans hs)
  have hread := readMem_writeMem (secMod (accepted s q) fun x => { x with agreed := none }) .nvm 0x4000
    (bs := (Config.withSeq (q.payload.drop 4) 1).take 0x4000) (List.length_take_of_le hlen)
  have hsec : (writeMem (secMod (accepted s q) fun x => { x with agreed := none }) .nvm 0x4000
      ((Config.withSeq (q.payload.drop 4) 1).take 0x4000)).sec = { (accepted s q).sec with agreed := none } := rfl
  have hw := (work_secMod (accepted s q) fun x => { x with agreed := none }).trans
    (work_writeMem _ .nvm 0x4000 ((Config.withSeq (q.payload.drop 4) 1).take 0x4000))
  obtain ⟨u, hu⟩ : ∃ u, writeMem (secMod (accepted s q) fun x => { x with agreed := none }) .nvm 0x4000
      ((Config.withSeq (q.payload.drop 4) 1).take 0x4000) = u := ⟨_, rfl⟩
  rw [hu] at hp hread hsec hw
  rw [accepted_sec] at hsec
  refine replies_of rfl h (.inr (by decide)) (hop.trans ?_) hw ⟨hsec, hread⟩
  rw [opProtObject, if_neg (Nat.not_lt.mpr hl), hp]
  rfl

end protection

/-- Settles O55, request by request. -/
theorem updateRequestsComplete : Obligations.UpdateRequestsComplete := by
  unfold Obligations.UpdateRequestsComplete
  refine fun s q => ⟨fun h => ⟨replies_echo_recovery h, replies_axisCmd_recovery h, replies_updActivate_recovery h,
    fun hf hs he hp hn => ?_⟩, fun h => ⟨fun hf hs he hp hc h0 => ?_, replies_updManifest_refused h,
      fun _ _ _ _ => replies_updBlock h, fun _ => replies_protRequest h, fun _ _ => replies_protConfirm h, replies_protConfirm_none h,
      fun _ => replies_protObject h⟩⟩
  · refine (replies_updManifest h hf hs he hp (by simp [hn]) (by simp [hn])).mono fun u hu => ⟨?_, hu.stage⟩
    rw [hu.sec, accepted_sec]
  · refine (replies_updManifest h hf hs he hp hc h0).mono fun u hu => ⟨?_, hu.stage, hu.token, ?_⟩
    · rw [hu.sec, accepted_sec]
    · have hstored := hu.stored
      rw [stageSlot_accepted] at hstored
      exact hstored

end Sys2Proof.Machine

/-! ## The writing requests (R526-R528) -/

namespace Sys2Proof.Machine

section landing

variable {s t : State}

/-- The words that a register write of a request carries (R526). -/
theorem wordsOf_flatten (xs : List Nat) : wordsOf xs.length (xs.map (leBytes 4)).flatten = xs.map word := by
  induction xs with
  | nil => rfl
  | cons x xs ih =>
    have h0 : field (leBytes 4 x ++ (xs.map (leBytes 4)).flatten) 0 4 = x % 2 ^ 32 := leVal_leBytes 4 x
    have hw : word (x % 2 ^ 32) = word x := BitVec.eq_of_toNat_eq (by simp [word])
    rw [wordsOf, List.length_cons, List.range_succ_eq_map, List.map_cons, List.map_map, List.map_cons, List.flatten_cons, List.map_cons,
      ← ih, Nat.mul_zero, h0, hw]
    congr 1

theorem length_flatten_leBytes (xs : List Nat) : (xs.map (leBytes 4)).flatten.length = 4 * xs.length := by
  induction xs with
  | nil => rfl
  | cons x xs ih =>
    rw [List.map_cons, List.flatten_cons, List.length_append, length_leBytes, ih, List.length_cons]
    omega

theorem words_regW (a : Nat) (xs : List Nat) : (regW a xs).words = xs.map word := by
  rw [← wordsOf_flatten, JWrite.words]
  congr 1
  rw [regW, length_flatten_leBytes]
  omega

/-- A word that lands goes on with the next (R527). -/
theorem putWords_landed {a : Nat} {v : Word} {vs : List Word} {n : Nat} (h : landWrite s .proto a v = okBus t) :
    putWords s a (v :: vs) n = putWords (okBus t) (a + 4) vs (n + 1) := by
  rw [putWords, h]
  rfl

theorem putAll_reg {a : Nat} {xs : List Nat} {ws : List JWrite} {n k : Nat} (ha : a < 2 ^ 32)
    (h : putWords s a (xs.map word) n = (t, k, 0)) : putAll s (regW a xs :: ws) n = putAll t ws k := by
  have ht : (regW a xs).target.toNat = a := by
    rw [regW, word, BitVec.toNat_ofNat]
    exact Nat.mod_eq_of_lt ha
  rw [putAll, words_regW, ht, h]
  rfl

/-- One word to a register that takes it. -/
theorem putAll_reg_one {a x : Nat} {ws : List JWrite} {n : Nat} (ha : a < 2 ^ 32) (h : landWrite s .proto a (word x) = okBus t) :
    putAll s (regW a [x] :: ws) n = putAll (okBus t) ws (n + 1) :=
  putAll_reg ha (putWords_landed h)

/-- On a head that works alone no page is copied again (R381). -/
theorem dirty_solo (h : twinSt s = 0) (a n : Nat) : dirty s a n = s := by
  unfold dirty
  exact if_pos (by rw [h]; rfl)

theorem putAll_bolt {a : Nat} {b : List Byte} {ws : List JWrite} {n : Nat} (ha : a < 2 ^ 32) (h : twinSt s = 0) :
    putAll s (boltW a b :: ws) n = putAll (writeMem s .bolt a b) ws n := by
  have ht : (boltW a b).target.toNat = a := by
    rw [boltW, word, BitVec.toNat_ofNat]
    exact Nat.mod_eq_of_lt ha
  rw [putAll, ht, dirty_solo h]
  rfl

end landing

section issued

variable {t u : State} {w : Waiting}

/-- A request that waits is the only one that does. -/
def awaited (t : State) (w : Waiting) : State := hostMod t fun h => { h with waiting := h.waiting ++ [w] }

theorem find_awaited (h : t.host.waiting = []) : ((awaited t w).host.waiting.find? fun v => v.id == w.id) = some w := by
  have hw : (awaited t w).host.waiting = t.host.waiting ++ [w] := rfl
  simp [hw, h]

/-- When it completes at once nothing waits again. -/
theorem unwait_awaited (h : t.host.waiting = []) : unwait (awaited t w) w.id = t := by
  have hh : (unwait (awaited t w) w.id).host = { t.host with waiting := (t.host.waiting ++ [w]).filter fun v => v.id != w.id } := rfl
  have he : { t.host with waiting := (t.host.waiting ++ [w]).filter fun v => v.id != w.id } = t.host := by
    rw [show (t.host.waiting ++ [w]).filter (fun v => v.id != w.id) = [] by simp [h], ← h]
  have : unwait (awaited t w) w.id = { t with host := (unwait (awaited t w) w.id).host } := rfl
  rw [this, hh, he]

theorem finish_wait (s : State) (w : Waiting) (wait : WaitFor) (res st : Nat) (p : List Byte) :
    finish s { w with wait := wait, res := res } st p = finish s w st p := rfl

theorem await_stamped {d res : Nat} (hw : t.host.waiting = []) (hh : t.twin.held = []) :
    await t w (.stamped d) res = finish t w 0 (genericG w.land d) := by
  have hun : unstamped (awaited t { w with wait := .stamped d, res := res }) { w with wait := .stamped d, res := res } = false := by
    rw [unstamped, show (awaited t { w with wait := .stamped d, res := res }).twin = t.twin from rfl, hh]
    rfl
  rw [await, ← awaited, tryComplete]
  rw [show w.id = ({ w with wait := .stamped d, res := res } : Waiting).id from rfl, find_awaited hw]
  dsimp only
  rw [hun, if_neg (by decide), unwait_awaited hw]
  rfl

theorem await_result {reg hi lo ok res : Nat} (hw : t.host.waiting = []) (hh : t.twin.held = []) (he : t.twin.entries = [])
    (ho : w.opcode ≠ 0x0302) (hres : reg ≠ Reg.LOOP_BASTE_STATUS ∧ 32 ≤ res ∧ res < 36) (hok : fld t reg hi lo = ok) :
    await t w (.result reg hi lo ok 0) res = finish t w 0 (genericG w.land ok) := by
  obtain ⟨hreg, hlo, hhi⟩ := hres
  have htwin : (awaited t { w with wait := .result reg hi lo ok 0, res := res }).twin = t.twin := rfl
  have hun : unapplied (awaited t { w with wait := .result reg hi lo ok 0, res := res })
      { w with wait := .result reg hi lo ok 0, res := res } = false := by
    rw [unapplied, unstamped, htwin, hh, he]
    rfl
  have hop : opPending (awaited t { w with wait := .result reg hi lo ok 0, res := res })
      { w with wait := .result reg hi lo ok 0, res := res } reg = false := by
    rw [opPending, if_neg (by simpa using hreg), if_pos (by simp [hlo, hhi])]
  have hfld : fld (awaited t { w with wait := .result reg hi lo ok 0, res := res }) reg hi lo = ok := hok
  rw [await, ← awaited, tryComplete]
  rw [show w.id = ({ w with wait := .result reg hi lo ok 0, res := res } : Waiting).id from rfl, find_awaited hw]
  dsimp only
  rw [hun, hop, hfld, if_neg (by decide), unwait_awaited hw, show (w.opcode == 0x0302) = false by simpa using ho, beq_self_eq_true]
  rfl

theorem issue_landed {ws : List JWrite} {wait : WaitFor} {res n : Nat} (hs : t.twin.pair = false) (hp : putAll t ws 0 = (u, n, 0)) :
    issue t w ws wait res = await u w wait res := by
  have hst : stamps t = false := by rw [stamps, hs]; rfl
  rw [issue, hp, hst]
  rfl

end issued

section reach

variable {s t : State} {q : Req} {blk a : Nat} {v : Word}

/-- A head that works alone and takes writes to a block. -/
structure TakesWrites (t : State) (blk : Nat) : Prop where
  awake : Awake t
  solo : Solo t
  on : BlockOn t blk

theorem TakesWrites.stored (h : TakesWrites t blk) (a : Nat) (v d : Word) : TakesWrites (okBus (wr t a v) d) blk :=
  ⟨h.awake, h.solo, h.on⟩

theorem takesWrites_accepted (h : Requests s q) (hd : Direct s) (hb : BlockOn s blk) : TakesWrites (accepted s q) blk where
  awake := by rw [Awake, accepted_sec]; exact h.awake
  solo := by rw [Solo, accepted_twin]; exact hd.solo
  on := by
    obtain ⟨hr, hp⟩ := hb
    unfold blockOff at hp
    unfold BlockOn blockOff
    rw [accepted_flt, accepted_pwr]
    exact ⟨hr, hp⟩

/-- Such a head's own writes reach a register that nothing holds back. -/
theorem TakesWrites.reaches (h : TakesWrites t (blockOf a)) (hl : blockOf a ≠ LOOP) {r : RegRow} {i j : Nat} (hr : regAt a = some (r, i, j))
    (hf : (holdFlags (blockOf a) r i v).all (fun f => !fbit t f.1 f.2) = true) : Reaches t .proto a v where
  awake := h.awake
  direct := fun hp => absurd hp (by rw [show t.twin.pair = false from h.solo]; decide)
  port := fun hp => by cases hp
  block := h.on.1
  power := h.on.2
  free := fun r' i' j' hr' => by
    rw [hr] at hr'
    cases hr'
    exact hf
  swap := fun r' i' j' _ => by
    rw [beq_eq_false_iff_ne.mpr hl]
    rfl

theorem landWrite_taken (h : TakesWrites t (blockOf a)) (ha : 0x20000000 ≤ a ∧ a < 0x21000000 ∧ a % 4 = 0)
    (hl : blockOf a ≠ LOOP ∧ blockOf a ≠ SAFE) {r : RegRow} {i j : Nat} (hr : regAt a = some (r, i, j))
    (hf : (holdFlags (blockOf a) r i v).all (fun f => !fbit t f.1 f.2) = true) :
    landWrite t .proto a v = landReg t .proto (blockOf a) a r i j v :=
  landWrite_reach (h.reaches hl.1 hr hf) hr ha hl.2

theorem storeRow_full (s : State) (a : Nat) {r : RegRow} (v : Word) (hacc : r.acc = .rw) (hm : r.mask = 0xFFFFFFFF) :
    storeRow s a r v = wr s a v := by
  have hall : (0xFFFFFFFF : Word) = BitVec.allOnes 32 := rfl
  rw [storeRow, hacc, hm]
  dsimp only
  rw [hall, BitVec.not_allOnes, BitVec.and_zero, BitVec.zero_or, BitVec.and_allOnes]

end reach

section prof

variable {t : State} {g p : Nat} {v : Word}

/-- The row of a register of the motion groups, and of the guards (R196). -/
def groupRow (off : Nat) (reset : Word) : RegRow := ⟨off, 0x40, 64, 0, 1, .rw, reset, 0, 0xFFFFFFFF⟩
def guardRow (off : Nat) (mask : Word) : RegRow := ⟨off, 0x10, 32, 0, 1, .rw, 0, 0, mask⟩

theorem regAt_qbase : ∀ g < 64, regAt (Reg.PROF_GRP_QBASE g) = some (groupRow 0x30014 0, g, 0) := by decide
theorem regAt_qlen : ∀ g < 64, regAt (Reg.PROF_GRP_QLEN g) = some (groupRow 0x30018 0, g, 0) := by decide
theorem regAt_wrPtr : ∀ g < 64, regAt (Reg.PROF_GRP_WR_PTR g) = some (groupRow 0x3001C 0, g, 0) := by decide
theorem regAt_rate : ∀ g < 64, regAt (Reg.PROF_GRP_RATE g) = some (groupRow 0x30024 0x00A44000, g, 0) := by decide
theorem regAt_guardCfg : ∀ p < 32, regAt (Reg.PROF_GRD_CFG p) = some (guardRow 0x40000 0x7FFFF, p, 0) := by decide
theorem regAt_guardLo : ∀ p < 32, regAt (Reg.PROF_GRD_OFS_LO p) = some (guardRow 0x40004 0xFFFFFFFF, p, 0) := by decide
theorem regAt_guardHi : ∀ p < 32, regAt (Reg.PROF_GRD_OFS_HI p) = some (guardRow 0x40008 0xFFFFFFFF, p, 0) := by decide
theorem regAt_guardClear : ∀ p < 32, regAt (Reg.PROF_GRD_CLEAR p) = some (guardRow 0x4000C 0xFFFFFFFF, p, 0) := by decide

theorem holdFlags_prof (r : RegRow) (i : Nat) (v : Word) : holdFlags PROF r i v =
    if 0xF000 ≤ r.off && r.off < 0xF0C0 then []
    else if r.off == 0x10 || (0x100 ≤ r.off && r.off ≤ 0x13C) then [(Reg.PROF_BASTE_STATUS, 0)]
    else if r.off == 0x40 || r.off == 0x50 then [(Reg.PROF_CMD_STATUS, 0)] else [] := rfl

theorem landWrite_prof {a : Nat} {r : RegRow} {i : Nat} (h : TakesWrites t PROF) (hlo : 0x20300000 ≤ a) (hhi : a < 0x20400000) (h4 : a % 4 = 0)
    (hr : regAt a = some (r, i, 0)) (hoff : 0x30000 ≤ r.off) : landWrite t .proto a v = landProf t a r i v := by
  have hb : blockOf a = PROF := by simp only [blockOf, PROF]; omega
  have hf : holdFlags (blockOf a) r i v = [] := by
    rw [hb, holdFlags_prof, if_neg (by simp; omega), if_neg (by simp; omega), if_neg (by simp; omega)]
  rw [landWrite_taken (by rw [hb]; exact h) ⟨by omega, by omega, h4⟩ (by rw [hb]; decide) hr (by rw [hf]; rfl), hb]
  exact if_neg (by simp; omega)

theorem landWrite_qbase (h : TakesWrites t PROF) (hg : g < 64) (hs : (group t g).state = 0) (hp : inPart t 0 v.toNat 1 = true) :
    landWrite t .proto (Reg.PROF_GRP_QBASE g) v = okBus (wr t (Reg.PROF_GRP_QBASE g) v) := by
  rw [landWrite_prof h (by simp only [Reg.PROF_GRP_QBASE]; omega) (by simp only [Reg.PROF_GRP_QBASE]; omega)
    (by simp only [Reg.PROF_GRP_QBASE]; omega) (regAt_qbase g hg) (by decide)]
  have hl : landProf t (Reg.PROF_GRP_QBASE g) (groupRow 0x30014 0) g v = if (group t g).state != 0 || !inPart t 0 v.toNat 1 then slverr t
      else okBus (storeRow t (Reg.PROF_GRP_QBASE g) (groupRow 0x30014 0) v) := rfl
  rw [hl, hs, hp, if_neg (by decide), storeRow_full _ _ _ rfl rfl]

theorem landWrite_qlen (h : TakesWrites t PROF) (hg : g < 64) (hs : (group t g).state = 0) :
    landWrite t .proto (Reg.PROF_GRP_QLEN g) v = okBus (wr t (Reg.PROF_GRP_QLEN g) v) := by
  rw [landWrite_prof h (by simp only [Reg.PROF_GRP_QLEN]; omega) (by simp only [Reg.PROF_GRP_QLEN]; omega)
    (by simp only [Reg.PROF_GRP_QLEN]; omega) (regAt_qlen g hg) (by decide)]
  have hl : landProf t (Reg.PROF_GRP_QLEN g) (groupRow 0x30018 0) g v = if (group t g).state != 0 then slverr t
      else okBus (storeRow t (Reg.PROF_GRP_QLEN g) (groupRow 0x30018 0) v) := rfl
  rw [hl, hs, if_neg (by decide), storeRow_full _ _ _ rfl rfl]

/-- The other registers of a group store what is written (R196). -/
theorem landProf_group (t : State) (a : Nat) {off : Nat} {reset : Word} (hlo : 0x3001C ≤ off) (hhi : off < 0x40000) (g : Nat) (v : Word) :
    landProf t a (groupRow off reset) g v = okBus (wr t a v) := by
  have hs := storeRow_full t a (r := groupRow off reset) v rfl rfl
  unfold landProf
  split
  · next h => exact absurd h (by simp only [groupRow]; omega)
  · next h => exact absurd h (by simp only [groupRow]; omega)
  · next h => exact absurd h (by simp only [groupRow]; omega)
  · next h => exact absurd h (by simp only [groupRow]; omega)
  · have ho : ¬ 0x40000 ≤ (groupRow off reset).off := Nat.not_le.mpr hhi
    dsimp only
    rw [decide_eq_false ho, Bool.false_and, Bool.false_and, if_neg (by decide), hs]

theorem landWrite_wrPtr (h : TakesWrites t PROF) (hg : g < 64) :
    landWrite t .proto (Reg.PROF_GRP_WR_PTR g) v = okBus (wr t (Reg.PROF_GRP_WR_PTR g) v) := by
  rw [landWrite_prof h (by simp only [Reg.PROF_GRP_WR_PTR]; omega) (by simp only [Reg.PROF_GRP_WR_PTR]; omega)
    (by simp only [Reg.PROF_GRP_WR_PTR]; omega) (regAt_wrPtr g hg) (by decide), landProf_group _ _ (by decide) (by decide)]

theorem landWrite_rate (h : TakesWrites t PROF) (hg : g < 64) :
    landWrite t .proto (Reg.PROF_GRP_RATE g) v = okBus (wr t (Reg.PROF_GRP_RATE g) v) := by
  rw [landWrite_prof h (by simp only [Reg.PROF_GRP_RATE]; omega) (by simp only [Reg.PROF_GRP_RATE]; omega)
    (by simp only [Reg.PROF_GRP_RATE]; omega) (regAt_rate g hg) (by decide), landProf_group _ _ (by decide) (by decide)]

/-- A guard stands while it is on between enabled axes (R189): its registers are held. -/
def guardHeld (t : State) (p : Nat) : Bool := guardOn t p && (enabled t (guardAxes t p).1 || enabled t (guardAxes t p).2)

theorem landProf_guard (t : State) (a : Nat) {off : Nat} {mask : Word} (hlo : 0x40000 ≤ off) (hg : guardHeld t p = false) (v : Word) :
    landProf t a (guardRow off mask) p v = okBus (storeRow t a (guardRow off mask) v) := by
  unfold landProf
  split
  · next h => exact absurd h (by simp only [guardRow]; omega)
  · next h => exact absurd h (by simp only [guardRow]; omega)
  · next h => exact absurd h (by simp only [guardRow]; omega)
  · next h => exact absurd h (by simp only [guardRow]; omega)
  · dsimp only
    rw [guardHeld] at hg
    rw [Bool.and_assoc, hg, Bool.and_false, if_neg (by decide)]

theorem landWrite_guard {a off : Nat} (h : TakesWrites t PROF) (hlo : 0x20340000 ≤ a) (hhi : a < 0x20350000) (h4 : a % 4 = 0) (hoff : 0x40000 ≤ off)
    (hr : regAt a = some (guardRow off 0xFFFFFFFF, p, 0)) (hg : guardHeld t p = false) : landWrite t .proto a v = okBus (wr t a v) := by
  have ho : 0x30000 ≤ (guardRow off 0xFFFFFFFF).off := by simp only [guardRow]; omega
  rw [landWrite_prof h (by omega) (by omega) h4 hr ho, landProf_guard t a hoff hg, storeRow_full _ _ _ rfl rfl]

theorem guardHeld_wr {a : Nat} {d : Word} (h : a ≠ Reg.PROF_GRD_CFG p) : guardHeld (okBus (wr t a v) d) p = guardHeld t p := by
  have hr : rd (okBus (wr t a v) d) (Reg.PROF_GRD_CFG p) = rd t (Reg.PROF_GRD_CFG p) := by rw [rd_okBus, rd_wr_ne _ _ h.symm]
  simp only [guardHeld, guardOn, guardAxes, fbit, fld, hr]
  rfl

end prof

section writes

variable {s : State} {q : Req}

theorem jop_goes {t : State} {w : Waiting} {len args : Bool} (go : State) (hl : len = true) (ha : args = true) (hs : twinSt t = 0) :
    jop t w len args go = go := by
  rw [jop, hl, ha, mayJournal, hs]
  rfl

theorem twinSt_accepted (s : State) (q : Req) : twinSt (accepted s q) = twinSt s := fld_accepted s q (by decide) _ _

/-- Writes that land on a head that works alone answer at once (R520). -/
theorem issue_answers {t u : State} {w : Waiting} {ws : List JWrite} {n d : Nat} (hs : t.twin.pair = false)
    (hp : putAll t ws 0 = (u, n, 0)) (hw : SameWork t u) (hwait : t.host.waiting = []) (hh : u.twin.held = []) :
    issue t w ws (.stamped d) = finish u w 0 (genericG w.land d) := by
  rw [issue_landed hs hp]
  exact await_stamped (hw.2.1.trans hwait) hh

theorem waiting_accepted (h : Requests s q) : (accepted s q).host.waiting = [] := (work_accepted s q).2.1.trans h.alone

theorem held_accepted (hd : Direct s) : (accepted s q).twin.held = [] := by rw [accepted_twin]; exact hd.held

theorem pair_accepted (hd : Direct s) : (accepted s q).twin.pair = false := by rw [accepted_twin]; exact hd.solo

theorem work_stored (t : State) (a : Nat) (v d : Word) : SameWork t (okBus (wr t a v) d) := ⟨rfl, rfl, rfl, rfl⟩

theorem prof_accepted (s : State) (q : Req) : (accepted s q).prof = s.prof := accepted_keeps s q State.prof (fun _ _ => rfl) fun _ _ => rfl

theorem part_accepted (s : State) (q : Req) : (accepted s q).part = s.part := accepted_keeps s q State.part (fun _ _ => rfl) fun _ _ => rfl

theorem replies_groupQueueSet (h : Requests s q) (hd : Direct s) (hb : BlockOn s PROF) {g base len : Nat}
    (hp : q.payload = leBytes 4 g ++ leBytes 4 base ++ leBytes 4 len) (hg : g < 64) (hba : base % 8 = 0)
    (hpart : inPart s 0 base 1 = true) (hl8 : len % 8 = 0) (hl1 : 1024 ≤ len) (hl2 : len ≤ 0x3000000) (hst : (group s g).state = 0) :
    Replies (.groupQueueSet q) s q 0x0205 0 (genericG s.cyc.count 0) fun u => (rd u (Reg.PROF_GRP_QBASE g)).toNat = base ∧
        (rd u (Reg.PROF_GRP_QLEN g)).toNat = len ∧ u.prof = s.prof ∧ u.mem = s.mem := by
  have hbase : base < 2 ^ 32 := by
    have hend : boltEnd = 0x06000000 := rfl
    simp only [inPart, Bool.and_eq_true, decide_eq_true_eq] at hpart
    omega
  have hlen : q.payload.length = 12 := by rw [hp]; rfl
  have h0 : field q.payload 0 4 = g := by rw [hp]; exact (leVal_leBytes 4 g).trans (Nat.mod_eq_of_lt (by omega))
  have h1 : field q.payload 4 4 = base := by rw [hp]; exact (leVal_leBytes 4 base).trans (Nat.mod_eq_of_lt hbase)
  have h2 : field q.payload 8 4 = len := by rw [hp]; exact (leVal_leBytes 4 len).trans (Nat.mod_eq_of_lt (by omega))
  have hwb : (word base).toNat = base := by rw [word, BitVec.toNat_ofNat]; exact Nat.mod_eq_of_lt hbase
  have hwl : (word len).toNat = len := by rw [word, BitVec.toNat_ofNat]; exact Nat.mod_eq_of_lt (by omega)
  have hop : hostOp (accepted s q) (waitingOf s 0x0205 q) q.payload = opQueueSet (accepted s q) (waitingOf s 0x0205 q) q.payload := by
    rw [hostOp, boot_accepted h]
    rfl
  have hgr : (group (accepted s q) g).state = 0 := by rw [group, prof_accepted]; exact hst
  have hin : inPart (accepted s q) 0 base 1 = true := by rw [inPart, part_accepted]; exact hpart
  have ht := takesWrites_accepted h hd hb
  have hland1 := landWrite_qbase (v := word base) ht hg hgr (by rw [hwb]; exact hin)
  have hland2 := landWrite_qlen (v := word len) (ht.stored (Reg.PROF_GRP_QBASE g) (word base) 0) hg hgr
  have hput : putAll (accepted s q) [regW (Reg.PROF_GRP_QBASE g) [base, len]] 0 =
      (okBus (wr (okBus (wr (accepted s q) (Reg.PROF_GRP_QBASE g) (word base))) (Reg.PROF_GRP_QLEN g) (word len)), 2, 0) := by
    have hnext : Reg.PROF_GRP_QBASE g + 4 = Reg.PROF_GRP_QLEN g := by simp only [Reg.PROF_GRP_QBASE, Reg.PROF_GRP_QLEN]; omega
    refine putAll_reg (by simp only [Reg.PROF_GRP_QBASE]; omega) ?_
    rw [List.map_cons, putWords_landed hland1, hnext, List.map_cons, putWords_landed hland2]
    rfl
  refine replies_of (u := okBus (wr (okBus (wr (accepted s q) (Reg.PROF_GRP_QBASE g) (word base))) (Reg.PROF_GRP_QLEN g) (word len))) rfl h
    (.inr (by decide)) (hop.trans ?_) ((work_stored _ _ _ _).trans (work_stored _ _ _ _)) ⟨?_, ?_, prof_accepted s q, accepted_mem s q⟩
  · rw [opQueueSet, hlen, h0, h1, h2]
    refine (jop_goes _ rfl (by simp [hg, hba, hin, hl8, hl1, hl2]) ((twinSt_accepted s q).trans hd.state)).trans ?_
    rw [hgr, if_neg (by decide)]
    exact issue_answers (pair_accepted hd) hput ((work_stored _ _ _ _).trans (work_stored _ _ _ _)) (waiting_accepted h) (held_accepted hd)
  · have hne : Reg.PROF_GRP_QBASE g ≠ Reg.PROF_GRP_QLEN g := by simp only [Reg.PROF_GRP_QBASE, Reg.PROF_GRP_QLEN]; omega
    rw [rd_okBus, rd_wr_ne _ _ hne, rd_okBus, rd_wr_same, hwb]
  · rw [rd_okBus, rd_wr_same, hwl]

theorem replies_groupRate (h : Requests s q) (hd : Direct s) (hb : BlockOn s PROF) {g : Nat} {v : Word}
    (hp : q.payload = leBytes 4 g ++ leBytes 4 v.toNat) (hg : g < 64) :
    Replies (.groupRate q) s q 0x0303 0 (genericG s.cyc.count 0) fun u => rd u (Reg.PROF_GRP_RATE g) = v ∧
        ∀ a, a ≠ Reg.PROF_GRP_RATE g → rd u a = rd (accepted s q) a := by
  obtain ⟨hlen, h0, h1⟩ := pairPayload hp (by omega) v.isLt
  have hv : word v.toNat = v := BitVec.ofNat_toNat 32 v
  have hop : hostOp (accepted s q) (waitingOf s 0x0303 q) q.payload = opGroupRate (accepted s q) (waitingOf s 0x0303 q) q.payload := by
    rw [hostOp, boot_accepted h]
    rfl
  have hland := landWrite_rate (v := word v.toNat) (takesWrites_accepted h hd hb) hg
  rw [hv] at hland
  have hput : putAll (accepted s q) [regW (Reg.PROF_GRP_RATE g) [v.toNat]] 0 = (okBus (wr (accepted s q) (Reg.PROF_GRP_RATE g) v), 1, 0) :=
    putAll_reg_one (by simp only [Reg.PROF_GRP_RATE]; omega) (by rw [hv]; exact hland)
  have hnats : natsAt q.payload 4 1 = [v.toNat] := by rw [← h1]; rfl
  refine replies_of (u := okBus (wr (accepted s q) (Reg.PROF_GRP_RATE g) v)) rfl h (.inr (by decide)) (hop.trans ?_) (work_stored _ _ _ _)
    ⟨?_, fun a ha => ?_⟩
  · rw [opGroupRate, hlen, h0, hnats]
    refine (jop_goes _ rfl (by simpa using hg) ((twinSt_accepted s q).trans hd.state)).trans ?_
    exact issue_answers (pair_accepted hd) hput (work_stored _ _ _ _) (waiting_accepted h) (held_accepted hd)
  · rw [rd_okBus, rd_wr_same]
  · rw [rd_okBus, rd_wr_ne _ _ ha]

/-- A guard that stands keeps its registers (R189). -/
theorem guardHeld_accepted (s : State) (q : Req) {p : Nat} (hp : p < 32) : guardHeld (accepted s q) p = guardHeld s p := by
  have hr : rd (accepted s q) (Reg.PROF_GRD_CFG p) = rd s (Reg.PROF_GRD_CFG p) :=
    rd_accepted s q (by simp only [Reg.PROF_GRD_CFG, Reg.HOST_MSG_CNT]; omega)
  simp only [guardHeld, guardOn, guardAxes, fbit, fld, hr, enabled, axis, prof_accepted]

theorem hostOp_guardSet (h : Requests s q) :
    hostOp (accepted s q) (waitingOf s 0x0206 q) q.payload = opGuardSet (accepted s q) (waitingOf s 0x0206 q) q.payload := by
  rw [hostOp, boot_accepted h]
  rfl

/-- The state in which the three words of a guard's offset and clearance have landed (R189). -/
def guardWords (t : State) (p : Nat) (lo hi clear : Word) : State :=
  okBus (wr (okBus (wr (okBus (wr t (Reg.PROF_GRD_OFS_LO p) lo)) (Reg.PROF_GRD_OFS_HI p) hi)) (Reg.PROF_GRD_CLEAR p) clear)

/-- The state in which the four words of a guard have landed (R189). -/
def guardStored (t : State) (p : Nat) (cfg lo hi clear : Word) : State :=
  okBus (wr (guardWords t p lo hi clear) (Reg.PROF_GRD_CFG p)
    ((rd (guardWords t p lo hi clear) (Reg.PROF_GRD_CFG p) &&& ~~~0x7FFFF) ||| (cfg &&& 0x7FFFF)))

theorem putAll_guard {t : State} {p : Nat} (h : TakesWrites t PROF) (hp : p < 32) (hg : guardHeld t p = false) (cfg lo hi clear : Word) :
    putAll t [regW (Reg.PROF_GRD_CFG p + 4) [lo.toNat, hi.toNat, clear.toNat], regW (Reg.PROF_GRD_CFG p) [cfg.toNat]] 0 =
      (guardStored t p cfg lo hi clear, 4, 0) := by
  have hword (x : Word) : word x.toNat = x := BitVec.ofNat_toNat 32 x
  have hlo : Reg.PROF_GRD_CFG p + 4 = Reg.PROF_GRD_OFS_LO p := by simp only [Reg.PROF_GRD_CFG, Reg.PROF_GRD_OFS_LO]; omega
  have hhi : Reg.PROF_GRD_OFS_LO p + 4 = Reg.PROF_GRD_OFS_HI p := by simp only [Reg.PROF_GRD_OFS_LO, Reg.PROF_GRD_OFS_HI]; omega
  have hcl : Reg.PROF_GRD_OFS_HI p + 4 = Reg.PROF_GRD_CLEAR p := by simp only [Reg.PROF_GRD_OFS_HI, Reg.PROF_GRD_CLEAR]; omega
  have hne1 : Reg.PROF_GRD_OFS_LO p ≠ Reg.PROF_GRD_CFG p := by simp only [Reg.PROF_GRD_CFG, Reg.PROF_GRD_OFS_LO]; omega
  have hne2 : Reg.PROF_GRD_OFS_HI p ≠ Reg.PROF_GRD_CFG p := by simp only [Reg.PROF_GRD_CFG, Reg.PROF_GRD_OFS_HI]; omega
  have hne3 : Reg.PROF_GRD_CLEAR p ≠ Reg.PROF_GRD_CFG p := by simp only [Reg.PROF_GRD_CFG, Reg.PROF_GRD_CLEAR]; omega
  have hland1 := landWrite_guard (v := lo) h (by simp only [Reg.PROF_GRD_OFS_LO]; omega) (by simp only [Reg.PROF_GRD_OFS_LO]; omega)
    (by simp only [Reg.PROF_GRD_OFS_LO]; omega) (by decide) (regAt_guardLo p hp) hg
  have hg1 := (guardHeld_wr (t := t) (v := lo) (d := 0) hne1).trans hg
  have h1 := h.stored (Reg.PROF_GRD_OFS_LO p) lo 0
  obtain ⟨t1, ht1⟩ : ∃ t1, okBus (wr t (Reg.PROF_GRD_OFS_LO p) lo) = t1 := ⟨_, rfl⟩
  have hland2 := landWrite_guard (t := okBus (wr t (Reg.PROF_GRD_OFS_LO p) lo)) (v := hi) h1 (by simp only [Reg.PROF_GRD_OFS_HI]; omega)
    (by simp only [Reg.PROF_GRD_OFS_HI]; omega) (by simp only [Reg.PROF_GRD_OFS_HI]; omega) (by decide) (regAt_guardHi p hp) hg1
  rw [ht1] at hland2 hg1 h1
  have hg2 := (guardHeld_wr (t := t1) (v := hi) (d := 0) hne2).trans hg1
  have h2 := h1.stored (Reg.PROF_GRD_OFS_HI p) hi 0
  obtain ⟨t2, ht2⟩ : ∃ t2, okBus (wr t1 (Reg.PROF_GRD_OFS_HI p) hi) = t2 := ⟨_, rfl⟩
  rw [ht2] at hg2 h2
  have hland3 := landWrite_guard (t := t2) (v := clear) h2 (by simp only [Reg.PROF_GRD_CLEAR]; omega)
    (by simp only [Reg.PROF_GRD_CLEAR]; omega) (by simp only [Reg.PROF_GRD_CLEAR]; omega) (by decide) (regAt_guardClear p hp) hg2
  have hg3 := (guardHeld_wr (t := t2) (v := clear) (d := 0) hne3).trans hg2
  have h3 := h2.stored (Reg.PROF_GRD_CLEAR p) clear 0
  obtain ⟨t3, ht3⟩ : ∃ t3, okBus (wr t2 (Reg.PROF_GRD_CLEAR p) clear) = t3 := ⟨_, rfl⟩
  rw [ht3] at hg3 h3
  have hland4 : landWrite t3 .proto (Reg.PROF_GRD_CFG p) cfg = okBus (wr t3 (Reg.PROF_GRD_CFG p)
      ((rd t3 (Reg.PROF_GRD_CFG p) &&& ~~~0x7FFFF) ||| (cfg &&& 0x7FFFF))) := by
    rw [landWrite_prof h3 (by simp only [Reg.PROF_GRD_CFG]; omega) (by simp only [Reg.PROF_GRD_CFG]; omega)
      (by simp only [Reg.PROF_GRD_CFG]; omega) (regAt_guardCfg p hp) (by decide), landProf_guard t3 _ (by decide) hg3]
    rfl
  have hstored : guardStored t p cfg lo hi clear = okBus (wr t3 (Reg.PROF_GRD_CFG p)
      ((rd t3 (Reg.PROF_GRD_CFG p) &&& ~~~0x7FFFF) ||| (cfg &&& 0x7FFFF))) := by
    rw [guardStored, guardWords, ht1, ht2, ht3]
  have hput : putWords t (Reg.PROF_GRD_CFG p + 4) ([lo.toNat, hi.toNat, clear.toNat].map word) 0 = (t3, 3, 0) := by
    rw [List.map_cons, List.map_cons, List.map_cons, hword, hword, hword, hlo, putWords_landed hland1, ht1, hhi, putWords_landed hland2, ht2,
      hcl, putWords_landed hland3, ht3]
    rfl
  rw [putAll_reg (by simp only [Reg.PROF_GRD_CFG]; omega) hput,
    putAll_reg_one (by simp only [Reg.PROF_GRD_CFG]; omega) (by rw [hword]; exact hland4), hstored]
  rfl

theorem guardWords_shows (t : State) (p : Nat) (lo hi clear : Word) :
    rd (guardWords t p lo hi clear) (Reg.PROF_GRD_OFS_LO p) = lo ∧ rd (guardWords t p lo hi clear) (Reg.PROF_GRD_OFS_HI p) = hi ∧
      rd (guardWords t p lo hi clear) (Reg.PROF_GRD_CLEAR p) = clear ∧ (guardWords t p lo hi clear).prof = t.prof ∧
      (guardWords t p lo hi clear).twin = t.twin ∧ SameWork t (guardWords t p lo hi clear) := by
  refine ⟨?_, ?_, ?_, ?_, ?_, ?_⟩
  · rw [guardWords, rd_okBus, rd_wr_ne _ _ (by simp only [Reg.PROF_GRD_CLEAR, Reg.PROF_GRD_OFS_LO]; omega), rd_okBus,
      rd_wr_ne _ _ (by simp only [Reg.PROF_GRD_OFS_HI, Reg.PROF_GRD_OFS_LO]; omega), rd_okBus, rd_wr_same]
  · rw [guardWords, rd_okBus, rd_wr_ne _ _ (by simp only [Reg.PROF_GRD_CLEAR, Reg.PROF_GRD_OFS_HI]; omega), rd_okBus, rd_wr_same]
  · rw [guardWords, rd_okBus, rd_wr_same]
  · rw [guardWords, okBus_prof, wr_prof, okBus_prof, wr_prof, okBus_prof, wr_prof]
  · rw [guardWords, okBus_twin, wr_twin, okBus_twin, wr_twin, okBus_twin, wr_twin]
  · rw [guardWords]
    exact (work_stored _ _ _ _).trans ((work_stored _ _ _ _).trans (work_stored _ _ _ _))

theorem guardStored_shows (t : State) (p : Nat) (cfg lo hi clear : Word) :
    rd (guardStored t p cfg lo hi clear) (Reg.PROF_GRD_CFG p) &&& 0x7FFFF = cfg &&& 0x7FFFF ∧
      rd (guardStored t p cfg lo hi clear) (Reg.PROF_GRD_OFS_LO p) = lo ∧ rd (guardStored t p cfg lo hi clear) (Reg.PROF_GRD_OFS_HI p) = hi ∧
      rd (guardStored t p cfg lo hi clear) (Reg.PROF_GRD_CLEAR p) = clear ∧ (guardStored t p cfg lo hi clear).prof = t.prof ∧
      (guardStored t p cfg lo hi clear).twin = t.twin ∧ SameWork t (guardStored t p cfg lo hi clear) := by
  obtain ⟨hlo, hhi, hclear, hprof, htwin, hwork⟩ := guardWords_shows t p lo hi clear
  unfold guardStored
  obtain ⟨u, hu⟩ : ∃ u, guardWords t p lo hi clear = u := ⟨_, rfl⟩
  rw [hu] at hlo hhi hclear hprof htwin hwork ⊢
  refine ⟨?_, ?_, ?_, ?_, hprof, htwin, hwork.trans (work_stored _ _ _ _)⟩
  · have hmask (x y m : Word) : ((x &&& ~~~m) ||| (y &&& m)) &&& m = y &&& m := by
      ext i
      simp only [BitVec.getElem_and, BitVec.getElem_or, BitVec.getElem_not]
      cases x[i] <;> cases y[i] <;> cases m[i] <;> rfl
    rw [rd_okBus, rd_wr_same, hmask]
  · rw [rd_okBus, rd_wr_ne _ _ (by simp only [Reg.PROF_GRD_CFG, Reg.PROF_GRD_OFS_LO]; omega), hlo]
  · rw [rd_okBus, rd_wr_ne _ _ (by simp only [Reg.PROF_GRD_CFG, Reg.PROF_GRD_OFS_HI]; omega), hhi]
  · rw [rd_okBus, rd_wr_ne _ _ (by simp only [Reg.PROF_GRD_CFG, Reg.PROF_GRD_CLEAR]; omega), hclear]

theorem replies_guardSet (h : Requests s q) (hd : Direct s) (hb : BlockOn s PROF) {p : Nat} {cfg lo hi clear : Word}
    (hp : q.payload = leBytes 4 p ++ leBytes 4 cfg.toNat ++ leBytes 4 lo.toNat ++ leBytes 4 hi.toNat ++ leBytes 4 clear.toNat)
    (hlt : p < 32) (hz1 : wbits cfg 31 25 = 0) (hz2 : wbits cfg 23 19 = 0) (hg : guardHeld s p = false) :
    Replies (.guardSet q) s q 0x0206 0 (genericG s.cyc.count 0) fun u => rd u (Reg.PROF_GRD_CFG p) &&& 0x7FFFF = cfg &&& 0x7FFFF ∧
        rd u (Reg.PROF_GRD_OFS_LO p) = lo ∧ rd u (Reg.PROF_GRD_OFS_HI p) = hi ∧ rd u (Reg.PROF_GRD_CLEAR p) = clear ∧
        u.prof = s.prof := by
  have hlen : q.payload.length = 20 := by rw [hp]; rfl
  have h0 : field q.payload 0 4 = p := by rw [hp]; exact (leVal_leBytes 4 p).trans (Nat.mod_eq_of_lt (by omega))
  have h1 : field q.payload 4 4 = cfg.toNat := by rw [hp]; exact (leVal_leBytes 4 cfg.toNat).trans (Nat.mod_eq_of_lt cfg.isLt)
  have h2 : field q.payload 8 4 = lo.toNat := by rw [hp]; exact (leVal_leBytes 4 lo.toNat).trans (Nat.mod_eq_of_lt lo.isLt)
  have h3 : field q.payload 12 4 = hi.toNat := by rw [hp]; exact (leVal_leBytes 4 hi.toNat).trans (Nat.mod_eq_of_lt hi.isLt)
  have h4 : field q.payload 16 4 = clear.toNat := by rw [hp]; exact (leVal_leBytes 4 clear.toNat).trans (Nat.mod_eq_of_lt clear.isLt)
  have hnats : natsAt q.payload 8 3 = [lo.toNat, hi.toNat, clear.toNat] := by rw [← h2, ← h3, ← h4]; rfl
  have hheld := (guardHeld_accepted s q hlt).trans hg
  have hput := putAll_guard (takesWrites_accepted h hd hb) hlt hheld cfg lo hi clear
  obtain ⟨hs1, hs2, hs3, hs4, hs5, htwin, hwork⟩ := guardStored_shows (accepted s q) p cfg lo hi clear
  obtain ⟨u, hu⟩ : ∃ u, guardStored (accepted s q) p cfg lo hi clear = u := ⟨_, rfl⟩
  rw [hu] at hput hs1 hs2 hs3 hs4 hs5 hwork htwin
  refine replies_of (u := u) rfl h (.inr (by decide)) ((hostOp_guardSet h).trans ?_) hwork
    ⟨hs1, hs2, hs3, hs4, hs5.trans (prof_accepted s q)⟩
  rw [guardHeld] at hheld
  rw [opGuardSet, hlen, h0, h1, hnats]
  refine (jop_goes _ rfl ?_ ((twinSt_accepted s q).trans hd.state)).trans ?_
  · have hb1 : bits cfg.toNat 31 25 = 0 := hz1
    have hb2 : bits cfg.toNat 23 19 = 0 := hz2
    simp [hlt, hb1, hb2]
  · rw [hheld, if_neg (by decide)]
    exact issue_answers (pair_accepted hd) hput hwork (waiting_accepted h) (by rw [htwin]; exact held_accepted hd)

theorem replies_guardSet_refused (h : Requests s q) (hd : Direct s) {p : Nat} (hlen : q.payload.length = 20) (h0 : field q.payload 0 4 = p)
    (hlt : p < 32) (hz1 : bits (field q.payload 4 4) 31 25 = 0) (hz2 : bits (field q.payload 4 4) 23 19 = 0) (hg : guardHeld s p = true) :
    Replies (.guardSet q) s q 0x0206 10 [] (· = accepted s q) := by
  have hheld := (guardHeld_accepted s q hlt).trans hg
  rw [guardHeld] at hheld
  refine replies_of rfl h (.inr (by decide)) ((hostOp_guardSet h).trans ?_) (.refl _) rfl
  rw [opGuardSet, hlen, h0]
  refine (jop_goes _ rfl (by simp [hlt, hz1, hz2]) ((twinSt_accepted s q).trans hd.state)).trans ?_
  rw [hheld, if_pos rfl]

theorem replies_boltWrite (h : Requests s q) (hd : Direct s) {a : Nat} {d : List Byte} (hp : q.payload = leBytes 4 a ++ d) (hl : 4 ≤ d.length)
    (ha : a + d.length ≤ boltEnd) (hpart : (boltParts s a d.length).contains 5 = false) :
    Replies (.boltWrite q) s q 0x0104 0 (genericG s.cyc.count 0) fun u => readMem u .bolt a d.length = d ∧
        u.regs = (accepted s q).regs ∧ ∀ r x, r ≠ .bolt ∨ x < a ∨ a + d.length ≤ x → u.mem.read r x = s.mem.read r x := by
  have hend : boltEnd = 0x06000000 := rfl
  have hlen : q.payload.length - 4 = d.length := by rw [hp, List.length_append, length_leBytes]; omega
  have h8 : ¬ q.payload.length < 8 := by rw [hp, List.length_append, length_leBytes]; omega
  have h0 : field q.payload 0 4 = a := by rw [hp]; exact (leVal_leBytes 4 a).trans (Nat.mod_eq_of_lt (by omega))
  have hdrop : q.payload.drop 4 = d := by rw [hp]; rfl
  have hop : hostOp (accepted s q) (waitingOf s 0x0104 q) q.payload = opBoltWrite (accepted s q) (waitingOf s 0x0104 q) q.payload := by
    rw [hostOp, boot_accepted h]
    rfl
  have hparts : boltParts (accepted s q) a d.length = boltParts s a d.length := by rw [boltParts, part_accepted, boltParts]
  refine replies_of (u := writeMem (accepted s q) .bolt a d) rfl h (.inr (by decide)) (hop.trans ?_) (work_writeMem _ _ _ _)
    ⟨readMem_writeMem (accepted s q) .bolt a rfl, rfl, fun r x hx => ?_⟩
  · rw [opBoltWrite, hlen, h0, hdrop]
    rw [if_neg h8, hparts, hpart, if_neg (by simp; omega), pair_accepted hd, dirty_solo ((twinSt_accepted s q).trans hd.state)]
    rfl
  · rw [writeMem, ← accepted_mem s q]
    exact read_writes_out _ _ _ _ _ _ hx

/-- No flag that holds a register back stands in the count of requests. -/
theorem holdFlags_ne {blk : Nat} {r : RegRow} {i : Nat} {v : Word} {f : Nat × Nat} (hf : f ∈ holdFlags blk r i v) :
    f.1 ≠ Reg.HOST_MSG_CNT := by
  have hcmp : Reg.FBC_CMP_STATUS i ≠ Reg.HOST_MSG_CNT := by simp only [Reg.FBC_CMP_STATUS, Reg.HOST_MSG_CNT]; omega
  have hall : (holdFlags blk r i v).all (fun f => f.1 != Reg.HOST_MSG_CNT) = true := by
    unfold holdFlags
    dsimp only
    split
    · rfl
    · split <;> simp [apply_ite (fun l : List (Nat × Nat) => l.all fun f => f.1 != Reg.HOST_MSG_CNT), hcmp]
  simpa using List.all_eq_true.mp hall f hf

theorem reaches_accepted (hd : Direct s) {a : Nat} {v : Word} (h : Reaches s .proto a v) : Reaches (accepted s q) .proto a v where
  awake := by rw [Awake, accepted_sec]; exact h.awake
  direct := fun hp => absurd hp (by rw [pair_accepted hd]; decide)
  port := fun hp => by cases hp
  block := by rw [accepted_flt]; exact h.block
  power := by
    have := h.power
    unfold blockOff at this ⊢
    rw [accepted_pwr]
    exact this
  free := fun r i j hr => by
    have hf := h.free r i j hr
    rw [List.all_eq_true] at hf ⊢
    exact fun f hm => by rw [fbit_accepted s q (holdFlags_ne hm)]; exact hf f hm
  swap := fun r i j hr => by
    have hl : (accepted s q).loop = s.loop := accepted_keeps s q State.loop (fun _ _ => rfl) fun _ _ => rfl
    rw [hl]
    exact h.swap r i j hr

theorem work_storeRow (t : State) (a : Nat) (r : RegRow) (v : Word) : SameWork t (storeRow t a r v) := by
  unfold storeRow
  split
  · exact work_wr _ _ _
  · exact work_wr _ _ _
  · exact work_wr _ _ _
  · exact .refl t

theorem replies_regWrite (h : Requests s q) (hd : Direct s) {a : Nat} {v : Word} {r : RegRow} {i j : Nat}
    (hp : q.payload = leBytes 4 a ++ leBytes 4 v.toNat) (hlo : 0x20000000 ≤ a) (hhi : a < 0x21000000) (h4 : a % 4 = 0)
    (hsafe : blockOf a ≠ SAFE) (hr : Reaches s .proto a v) (hreg : regAt a = some (r, i, j)) (hst : storesOnly (blockOf a) r.off = true) :
    Replies (.regWrite q) s q 0x0102 0 (genericG s.cyc.count 1) (· = okBus (storeRow (accepted s q) a r v)) := by
  obtain ⟨hlen, h0, h1⟩ := pairPayload hp (by omega) v.isLt
  have hop : hostOp (accepted s q) (waitingOf s 0x0102 q) q.payload = opRegWrite (accepted s q) (waitingOf s 0x0102 q) q.payload := by
    rw [hostOp, boot_accepted h]
    rfl
  have hword : wordsOf ((8 - 4) / 4) (q.payload.drop 4) = [v] := by
    have hdrop : q.payload.drop 4 = ([v.toNat].map (leBytes 4)).flatten := by rw [hp]; rfl
    rw [hdrop]
    exact (wordsOf_flatten [v.toNat]).trans (by rw [List.map_cons, word, BitVec.ofNat_toNat, BitVec.setWidth_eq]; rfl)
  have hland : landWrite (accepted s q) .proto a v = okBus (storeRow (accepted s q) a r v) := by
    rw [landWrite_reach (reaches_accepted hd hr) hreg ⟨hlo, hhi, h4⟩ hsafe, landReg_storesOnly _ _ _ _ _ _ hst]
  refine replies_of rfl h (.inr (by decide)) (hop.trans ?_) ((work_storeRow (accepted s q) a r v).trans (work_okBus _ 0)) rfl
  rw [opRegWrite, hlen, h0]
  dsimp only
  rw [if_neg (by decide), if_neg (by simp [h4]), if_neg, pair_accepted hd, hword, putWords_landed hland]
  · rfl
  · simp [hsafe]
    omega

/-- What stands first is no record of a segment queue (R192). -/
def segBad (b : List Byte) : Bool :=
  b.length < 32 || (byteAt b 0 != 1 && byteAt b 0 != 2) ||
    field b 16 2 != (if byteAt b 0 == 1 then 32 + byteAt b 2 * (byteAt b 1 + 1) * 8 else 32) || b.length < field b 16 2 || 5 < byteAt b 1

theorem segRecords_succ (n : Nat) (x : Byte) (b : List Byte) : segRecords (n + 1) (x :: b) =
    if segBad (x :: b) then none
    else (segRecords n ((x :: b).drop (field (x :: b) 16 2))).map fun l => (x :: b).take (field (x :: b) 16 2) :: l := rfl

/-- A single record is the whole of what follows (R192). -/
theorem segRecords_nil {n : Nat} {b : List Byte} (h : segRecords n b = some []) : b = [] := by
  cases b with
  | nil => rfl
  | cons x b =>
    cases n with
    | zero => simp [segRecords] at h
    | succ n =>
      rw [segRecords_succ] at h
      split at h
      · exact absurd h (by simp)
      · simp at h

theorem segRecords_length {n : Nat} {b : List Byte} (h : segRecords n b = some [b]) : 32 ≤ b.length := by
  cases b with
  | nil => cases n <;> simp [segRecords] at h
  | cons x b =>
    cases n with
    | zero => simp [segRecords] at h
    | succ n =>
      rw [segRecords_succ] at h
      split at h
      · exact absurd h (by simp)
      · next hbad =>
        simp only [segBad, Bool.or_eq_true, decide_eq_true_eq, not_or, Nat.not_lt] at hbad
        exact hbad.1.1.1.1

theorem segRecords_one {n m : Nat} {b : List Byte} (h : segRecords n b = some [b]) : segRecords (m + 1) b = some [b] := by
  cases b with
  | nil => cases n <;> simp [segRecords] at h
  | cons x b =>
    cases n with
    | zero => simp [segRecords] at h
    | succ n =>
      rw [segRecords_succ] at h ⊢
      split at h
      · exact absurd h (by simp)
      · next hbad =>
        rw [if_neg hbad]
        obtain ⟨l, hl, hrec⟩ := Option.map_eq_some_iff.mp h
        have hl' : l = [] := (List.cons.inj hrec).2
        rw [hl'] at hl hrec
        rw [segRecords_nil hl, segRecords, Option.map_some, hrec]

/-- With no write on its way a pointer is ahead of nothing (R364). -/
theorem ahead_direct {t : State} (hh : t.twin.held = []) (he : t.twin.entries = []) (a : Nat) : ahead t a = (rd t a).toNat := by
  rw [ahead, hh, he]
  rfl

theorem layRecords_one {qlen wp : Nat} {b : List Byte} (h : wp + b.length < qlen) :
    layRecords qlen [b] wp 0 [] = ([(wp, b)], wp + b.length, b.length) := by
  have hwrap : ¬ qlen < wp + b.length := by omega
  have hend : (wp + b.length == qlen) = false := by simp; omega
  simp [layRecords, hwrap, hend]

theorem entries_accepted (hd : Direct s) : (accepted s q).twin.entries = [] := by rw [accepted_twin]; exact hd.entries

theorem replies_segAppend (h : Requests s q) (hd : Direct s) (hb : BlockOn s PROF) {g : Nat} {b : List Byte} {wp base len rp : Nat}
    (hp : q.payload = leBytes 4 g ++ b) (hg : g < 64) (hseg : segRecords b.length b = some [b])
    (hwp : (rd s (Reg.PROF_GRP_WR_PTR g)).toNat = wp) (hbase : (rd s (Reg.PROF_GRP_QBASE g)).toNat = base)
    (hlen : (rd s (Reg.PROF_GRP_QLEN g)).toNat = len) (hrp : (rd s (Reg.PROF_GRP_RD_PTR g)).toNat = rp) (hfit : wp + b.length < len)
    (hfree : b.length + 8 ≤ queueFree len rp wp) (hend : base + len ≤ boltEnd) :
    Replies (.segAppend q) s q 0x0302 0 (genericG s.cyc.count (queueFree len rp wp - b.length)) fun u =>
      readMem u .bolt (base + wp) b.length = b ∧ (rd u (Reg.PROF_GRP_WR_PTR g)).toNat = wp + b.length ∧ u.prof = s.prof := by
  have hbolt : boltEnd = 0x06000000 := rfl
  have h32 := segRecords_length hseg
  have hplen : q.payload.length = b.length + 3 + 1 := by rw [hp, List.length_append, length_leBytes]; omega
  have h0 : field q.payload 0 4 = g := by rw [hp]; exact (leVal_leBytes 4 g).trans (Nat.mod_eq_of_lt (by omega))
  have hdrop : q.payload.drop 4 = b := by rw [hp]; rfl
  have hop : hostOp (accepted s q) (waitingOf s 0x0302 q) q.payload = opSegAppend (accepted s q) (waitingOf s 0x0302 q) q.payload := by
    rw [hostOp, boot_accepted h]
    rfl
  have hwp' : ahead (accepted s q) (Reg.PROF_GRP_WR_PTR g) = wp := by
    rw [ahead_direct (held_accepted hd) (entries_accepted hd), rd_accepted s q (by simp only [Reg.PROF_GRP_WR_PTR, Reg.HOST_MSG_CNT]; omega), hwp]
  have hbase' : (rd (accepted s q) (Reg.PROF_GRP_QBASE g)).toNat = base := by
    rw [rd_accepted s q (by simp only [Reg.PROF_GRP_QBASE, Reg.HOST_MSG_CNT]; omega), hbase]
  have hlen' : (rd (accepted s q) (Reg.PROF_GRP_QLEN g)).toNat = len := by
    rw [rd_accepted s q (by simp only [Reg.PROF_GRP_QLEN, Reg.HOST_MSG_CNT]; omega), hlen]
  have hrp' : (rd (accepted s q) (Reg.PROF_GRP_RD_PTR g)).toNat = rp := by
    rw [rd_accepted s q (by simp only [Reg.PROF_GRP_RD_PTR, Reg.HOST_MSG_CNT]; omega), hrp]
  have hnext : (word (wp + b.length)).toNat = wp + b.length := by rw [word, BitVec.toNat_ofNat]; exact Nat.mod_eq_of_lt (by omega)
  have htw := takesWrites_accepted h hd hb
  have hread := readMem_writeMem (accepted s q) .bolt (base + wp) (bs := b) rfl
  have hwork := work_writeMem (accepted s q) .bolt (base + wp) b
  have htw' : TakesWrites (writeMem (accepted s q) .bolt (base + wp) b) PROF := ⟨htw.awake, htw.solo, htw.on⟩
  have hprof : (writeMem (accepted s q) .bolt (base + wp) b).prof = s.prof := prof_accepted s q
  have hheld : (writeMem (accepted s q) .bolt (base + wp) b).twin.held = [] := held_accepted hd
  have hput := putAll_bolt (s := accepted s q) (a := base + wp) (b := b) (ws := [regW (Reg.PROF_GRP_WR_PTR g) [wp + b.length]]) (n := 0)
    (by omega) ((twinSt_accepted s q).trans hd.state)
  obtain ⟨u, hu⟩ : ∃ u, writeMem (accepted s q) .bolt (base + wp) b = u := ⟨_, rfl⟩
  rw [hu] at hread hwork htw' hprof hheld hput
  have hland := landWrite_wrPtr (v := word (wp + b.length)) htw' hg
  rw [putAll_reg_one (by simp only [Reg.PROF_GRP_WR_PTR]; omega) hland] at hput
  refine replies_of (u := okBus (wr u (Reg.PROF_GRP_WR_PTR g) (word (wp + b.length)))) rfl h (.inr (by decide)) (hop.trans ?_)
    (hwork.trans (work_stored _ _ _ _)) ⟨hread, ?_, hprof⟩
  · have hstart : bit g 8 = false := by simp only [bit, beq_eq_false_iff_ne]; omega
    rw [opSegAppend, hdrop, hplen, h0, Nat.mod_eq_of_lt hg, hstart, hwp', hbase', hlen', hrp', segRecords_one hseg]
    dsimp only
    rw [layRecords_one hfit]
    refine (jop_goes _ (by simp; omega) (by simp [flag]) ((twinSt_accepted s q).trans hd.state)).trans ?_
    rw [if_neg (by simp; omega), if_neg (by decide)]
    exact issue_answers (pair_accepted hd) hput (hwork.trans (work_stored _ _ _ _)) (waiting_accepted h) hheld
  · rw [rd_okBus, rd_wr_same, hnext]

theorem fbc_accepted (s : State) (q : Req) : (accepted s q).fbc = s.fbc := accepted_keeps s q State.fbc (fun _ _ => rfl) fun _ _ => rfl

/-- The row of the write pointer of a compare queue (R332). -/
def cmpPtrRow : RegRow := ⟨0x1020, 0x40, 32, 0, 1, .rw, 0, 0, 0xFFFFFFFF⟩

theorem regAt_cmpWrPtr : ∀ k < 32, regAt (Reg.FBC_CMP_WR_PTR k) = some (cmpPtrRow, k, 0) := by decide

/-- A write pointer is held back while its channel is being armed (R327). -/
theorem landWrite_cmpWrPtr {t : State} {k : Nat} {v : Word} (h : TakesWrites t FBC) (hk : k < 32)
    (hf : fbit t (Reg.FBC_CMP_STATUS k) 1 = false) :
    landWrite t .proto (Reg.FBC_CMP_WR_PTR k) v = okBus (wr t (Reg.FBC_CMP_WR_PTR k) v) := by
  have hb : blockOf (Reg.FBC_CMP_WR_PTR k) = FBC := by simp only [blockOf, FBC, Reg.FBC_CMP_WR_PTR]; omega
  have hflags : holdFlags (blockOf (Reg.FBC_CMP_WR_PTR k)) cmpPtrRow k v = [(Reg.FBC_CMP_STATUS k, 1)] := by
    rw [hb]
    rfl
  rw [landWrite_taken (by rw [hb]; exact h) (by simp only [Reg.FBC_CMP_WR_PTR]; omega) (by rw [hb]; decide) (regAt_cmpWrPtr k hk)
    (by rw [hflags]; simp [hf]), hb]
  exact congrArg (okBus ·) (storeRow_full t _ v rfl rfl)

theorem replies_cmpAppend (h : Requests s q) (hd : Direct s) (hb : BlockOn s FBC) {k : Nat} {b : List Byte} {wp base len rp : Nat}
    (hp : q.payload = leBytes 4 k ++ b) (hk : k < 32) (hl : b.length = 16) (hf : fbit s (Reg.FBC_CMP_STATUS k) 1 = false)
    (hwp : (rd s (Reg.FBC_CMP_WR_PTR k)).toNat = wp) (hbase : (rd s (Reg.FBC_CMP_QBASE k)).toNat = base)
    (hlen : (rd s (Reg.FBC_CMP_QLEN k)).toNat = len) (hrp : (rd s (Reg.FBC_CMP_RD_PTR k)).toNat = rp) (hfit : wp + 16 < len)
    (hfree : 32 ≤ queueFree len rp wp) (hend : base + len ≤ boltEnd) :
    Replies (.cmpAppend q) s q 0x0401 0 (genericG s.cyc.count (queueFree len rp wp - 16)) fun u =>
        readMem u .bolt (base + wp) 16 = b ∧ (rd u (Reg.FBC_CMP_WR_PTR k)).toNat = wp + 16 ∧ u.fbc = s.fbc := by
  have hbolt : boltEnd = 0x06000000 := rfl
  have hplen : q.payload.length = 20 := by rw [hp, List.length_append, length_leBytes, hl]
  have h0 : field q.payload 0 4 = k := by rw [hp]; exact (leVal_leBytes 4 k).trans (Nat.mod_eq_of_lt (by omega))
  have hentry : (List.range ((20 - 4) / 16)).map (fun i => slice q.payload (4 + 16 * i) 16) = [b] := by
    have hs : slice q.payload 4 16 = b := by
      rw [hp, slice, show (leBytes 4 k ++ b).drop 4 = b from rfl]
      exact List.take_of_length_le (Nat.le_of_eq hl)
    exact congrArg (fun x => [x]) hs
  have hop : hostOp (accepted s q) (waitingOf s 0x0401 q) q.payload = opCmpAppend (accepted s q) (waitingOf s 0x0401 q) q.payload := by
    rw [hostOp, boot_accepted h]
    rfl
  have hwp' : ahead (accepted s q) (Reg.FBC_CMP_WR_PTR k) = wp := by
    rw [ahead_direct (held_accepted hd) (entries_accepted hd), rd_accepted s q (by simp only [Reg.FBC_CMP_WR_PTR, Reg.HOST_MSG_CNT]; omega), hwp]
  have hbase' : (rd (accepted s q) (Reg.FBC_CMP_QBASE k)).toNat = base := by
    rw [rd_accepted s q (by simp only [Reg.FBC_CMP_QBASE, Reg.HOST_MSG_CNT]; omega), hbase]
  have hlen' : (rd (accepted s q) (Reg.FBC_CMP_QLEN k)).toNat = len := by
    rw [rd_accepted s q (by simp only [Reg.FBC_CMP_QLEN, Reg.HOST_MSG_CNT]; omega), hlen]
  have hrp' : (rd (accepted s q) (Reg.FBC_CMP_RD_PTR k)).toNat = rp := by
    rw [rd_accepted s q (by simp only [Reg.FBC_CMP_RD_PTR, Reg.HOST_MSG_CNT]; omega), hrp]
  have hnext : (word (wp + 16)).toNat = wp + 16 := by rw [word, BitVec.toNat_ofNat]; exact Nat.mod_eq_of_lt (by omega)
  have htw := takesWrites_accepted h hd hb
  have hread := readMem_writeMem (accepted s q) .bolt (base + wp) hl
  have hwork := work_writeMem (accepted s q) .bolt (base + wp) b
  have htw' : TakesWrites (writeMem (accepted s q) .bolt (base + wp) b) FBC := ⟨htw.awake, htw.solo, htw.on⟩
  have hfbc : (writeMem (accepted s q) .bolt (base + wp) b).fbc = s.fbc := fbc_accepted s q
  have hheld : (writeMem (accepted s q) .bolt (base + wp) b).twin.held = [] := held_accepted hd
  have hflag : fbit (writeMem (accepted s q) .bolt (base + wp) b) (Reg.FBC_CMP_STATUS k) 1 = false :=
    (fbit_accepted s q (by simp only [Reg.FBC_CMP_STATUS, Reg.HOST_MSG_CNT]; omega) 1).trans hf
  have hput := putAll_bolt (s := accepted s q) (a := base + wp) (b := b) (ws := [regW (Reg.FBC_CMP_WR_PTR k) [wp + 16]]) (n := 0)
    (by omega) ((twinSt_accepted s q).trans hd.state)
  obtain ⟨u, hu⟩ : ∃ u, writeMem (accepted s q) .bolt (base + wp) b = u := ⟨_, rfl⟩
  rw [hu] at hread hwork htw' hfbc hheld hflag hput
  have hland := landWrite_cmpWrPtr (v := word (wp + 16)) htw' hk hflag
  rw [putAll_reg_one (by simp only [Reg.FBC_CMP_WR_PTR]; omega) hland] at hput
  refine replies_of (u := okBus (wr u (Reg.FBC_CMP_WR_PTR k) (word (wp + 16)))) rfl h (.inr (by decide)) (hop.trans ?_)
    (hwork.trans (work_stored _ _ _ _)) ⟨hread, ?_, hfbc⟩
  · rw [opCmpAppend, hplen, h0, hwp', hbase', hlen', hrp']
    dsimp only
    rw [hentry, layRecords_one (by rw [hl]; exact hfit), hl]
    refine (jop_goes _ rfl (by simpa using hk) ((twinSt_accepted s q).trans hd.state)).trans ?_
    rw [if_neg (by simp; omega)]
    exact issue_answers (pair_accepted hd) hput (hwork.trans (work_stored _ _ _ _)) (waiting_accepted h) hheld
  · rw [rd_okBus, rd_wr_same, hnext]

theorem replies_cmpArm (h : Requests s q) (hd : Direct s) (hb : BlockOn s FBC) {k : Nat} (hp : q.payload = leBytes 4 k ++ leBytes 4 1)
    (hk : k < 32) (hf : fbit s (Reg.FBC_CMP_STATUS k) 1 = false) (hcell : cellOff s FBC (16 + k) = false) :
    Replies (.cmpArm q) s q 0x0402 0 (genericG s.cyc.count 0) fun u =>
        fbit u (Reg.FBC_CMP_STATUS k) 1 = true ∧ u.fbc = s.fbc := by
  obtain ⟨hlen, h0, h1⟩ := pairPayload hp (by omega) (by decide)
  have hop : hostOp (accepted s q) (waitingOf s 0x0402 q) q.payload = opCmpArm (accepted s q) (waitingOf s 0x0402 q) q.payload := by
    rw [hostOp, boot_accepted h]
    rfl
  have hnats : natsAt q.payload 4 1 = [1] := congrArg (fun x => [x]) h1
  have hreg : ∀ k < 32, regAt (Reg.FBC_CMP_CTRL k) =
      some (⟨0x1028, 0x40, 32, 0x0, 1, .w1p, 0x00000000, 0x0, 0x00000003⟩, k, 0) := by decide
  have hblk : blockOf (Reg.FBC_CMP_CTRL k) = FBC := by simp only [blockOf, FBC, Reg.FBC_CMP_CTRL]; omega
  have hflag : fbit (accepted s q) (Reg.FBC_CMP_STATUS k) 1 = false :=
    (fbit_accepted s q (by simp only [Reg.FBC_CMP_STATUS, Reg.HOST_MSG_CNT]; omega) 1).trans hf
  have hreach : Reaches (accepted s q) .proto (Reg.FBC_CMP_CTRL (⟨k, hk⟩ : Fin 32).val) 1 := by
    refine TakesWrites.reaches (by rw [hblk]; exact takesWrites_accepted h hd hb) (by rw [hblk]; decide) (hreg k hk) ?_
    have hflags : holdFlags FBC ⟨0x1028, 0x40, 32, 0x0, 1, .w1p, 0x00000000, 0x0, 0x00000003⟩ k 1 = [(Reg.FBC_CMP_STATUS k, 1)] := rfl
    rw [hblk, hflags]
    simp [hflag]
  have hland : landWrite (accepted s q) .proto (Reg.FBC_CMP_CTRL k) (word 1) =
      okBus (setBit (accepted s q) (Reg.FBC_CMP_STATUS k) 1 true) := by
    have hc : cellOff (accepted s q) FBC (16 + (⟨k, hk⟩ : Fin 32).val) = false := by rw [cellOff, accepted_flt]; exact hcell
    have := (hostWrite_reach hreach).symm.trans (hostWrite_cmpCtrl hreach)
    rw [hc, if_neg (by decide), landCmpCtrl_arm] at this
    exact this
  have hput : putAll (accepted s q) [regW (Reg.FBC_CMP_CTRL k) [1]] 0 =
      (okBus (setBit (accepted s q) (Reg.FBC_CMP_STATUS k) 1 true), 1, 0) :=
    putAll_reg_one (by simp only [Reg.FBC_CMP_CTRL]; omega) hland
  have hwork : SameWork (accepted s q) (okBus (setBit (accepted s q) (Reg.FBC_CMP_STATUS k) 1 true)) := ⟨rfl, rfl, rfl, rfl⟩
  have hset : fbit (okBus (setBit (accepted s q) (Reg.FBC_CMP_STATUS k) 1 true)) (Reg.FBC_CMP_STATUS k) 1 = true := by
    rw [fbit, rd_okBus]
    exact fbit_setBit _ _ _ _ (by decide)
  have hfbc : (okBus (setBit (accepted s q) (Reg.FBC_CMP_STATUS k) 1 true)).fbc = s.fbc := by
    rw [okBus_fbc, setBit_fbc]
    exact fbc_accepted s q
  have hheld : (okBus (setBit (accepted s q) (Reg.FBC_CMP_STATUS k) 1 true)).twin.held = [] := by
    rw [okBus_twin, setBit_twin]
    exact held_accepted hd
  obtain ⟨u, hu⟩ : ∃ u, okBus (setBit (accepted s q) (Reg.FBC_CMP_STATUS k) 1 true) = u := ⟨_, rfl⟩
  rw [hu] at hput hwork hset hfbc hheld
  refine replies_of (u := u) rfl h (.inr (by decide)) (hop.trans ?_) hwork ⟨hset, hfbc⟩
  rw [opCmpArm, hlen, h0, h1, hnats]
  refine (jop_goes _ rfl (by simpa using hk) ((twinSt_accepted s q).trans hd.state)).trans ?_
  exact issue_answers (pair_accepted hd) hput hwork (waiting_accepted h) hheld

theorem spool_accepted (s : State) (q : Req) (i : Nat) : spool (accepted s q) i = spool s i :=
  accepted_keeps s q (fun s => spool s i) (fun _ _ => rfl) fun _ _ => rfl

theorem replies_spoolCtrl (h : Requests s q) (hd : Direct s) (hb : BlockOn s ACQ) {i : Nat} (hp : q.payload = leBytes 4 i ++ leBytes 4 1)
    (hi : i < 4) (hgrp : grpMember s i = false) (hbusy : spBusy s i = false) (hcell : cellOff s ACQ i = false) :
    Replies (.spoolCtrl q) s q 0x0601 0 (genericG s.cyc.count 1) fun u => spool u i = { spool s i with arm := true } ∧
        ∀ j, j ≠ i → spool u j = spool s j := by
  obtain ⟨hlen, h0, h1⟩ := pairPayload hp (by omega) (by decide)
  have hop : hostOp (accepted s q) (waitingOf s 0x0601 q) q.payload = opSpoolCtrl (accepted s q) (waitingOf s 0x0601 q) q.payload := by
    rw [hostOp, boot_accepted h]
    rfl
  have hnats : natsAt q.payload 4 1 = [1] := congrArg (fun x => [x]) h1
  have hreg : ∀ i < 4, regAt (Reg.ACQ_SP_CTRL i) =
      some (⟨0x180, 0x100, 4, 0x0, 1, .w1p, 0x00000000, 0x0, 0x0000001F⟩, i, 0) := by decide
  have hblk : blockOf (Reg.ACQ_SP_CTRL i) = ACQ := by simp only [blockOf, ACQ, Reg.ACQ_SP_CTRL]; omega
  have hreach : Reaches (accepted s q) .proto (Reg.ACQ_SP_CTRL (⟨i, hi⟩ : Fin 4).val) 1 :=
    TakesWrites.reaches (by rw [hblk]; exact takesWrites_accepted h hd hb) (by rw [hblk]; decide) (hreg i hi) (by rw [hblk]; rfl)
  have hsingle : grpMember (accepted s q) i = false := by rw [grpMember, actF, actv_accepted]; exact hgrp
  have hst : spSt (accepted s q) i = spSt s i := fld_accepted s q (by simp only [Reg.ACQ_SP_STATE, Reg.HOST_MSG_CNT]; omega) 2 0
  have hidle : spBusy (accepted s q) i = false := by rw [spBusy, spTakes, hst]; exact hbusy
  have hc : cellOff (accepted s q) ACQ i = false := by rw [cellOff, accepted_flt]; exact hcell
  have hland : landWrite (accepted s q) .proto (Reg.ACQ_SP_CTRL i) (word 1) =
      okBus (ctrlRes (setSpool (accepted s q) i { spool (accepted s q) i with arm := true }) i 1) :=
    (hostWrite_reach hreach).symm.trans ((hostWrite_spoolCtrl hreach).trans
      ((landSpoolCtrl_arm _ _).trans (congrArg (okBus ·) (spoolArm_single hsingle hidle hc))))
  have hput := putAll_reg_one (ws := []) (n := 0) (by simp only [Reg.ACQ_SP_CTRL]; omega) hland
  have hwork : SameWork (accepted s q) (okBus (ctrlRes (setSpool (accepted s q) i { spool (accepted s q) i with arm := true }) i 1)) :=
    ⟨rfl, rfl, rfl, rfl⟩
  have hres : fld (okBus (ctrlRes (setSpool (accepted s q) i { spool (accepted s q) i with arm := true }) i 1)) (Reg.ACQ_SP_STATE i) 19 16 = 1 := by
    rw [fld_okBus, fld_ctrlRes _ _ (by decide)]
  have hspool : spool (okBus (ctrlRes (setSpool (accepted s q) i { spool (accepted s q) i with arm := true }) i 1)) i =
      { spool s i with arm := true } := by
    rw [spool_okBus, spool_ctrlRes, spool_setSpool_same, spool_accepted]
  have hothers : ∀ j, j ≠ i → spool (okBus (ctrlRes (setSpool (accepted s q) i { spool (accepted s q) i with arm := true }) i 1)) j =
      spool s j := fun j hj => by rw [spool_okBus, spool_ctrlRes, spool_setSpool_ne _ _ hj, spool_accepted]
  have htwin : (okBus (ctrlRes (setSpool (accepted s q) i { spool (accepted s q) i with arm := true }) i 1)).twin = s.twin :=
    accepted_twin s q
  obtain ⟨u, hu⟩ : ∃ u, okBus (ctrlRes (setSpool (accepted s q) i { spool (accepted s q) i with arm := true }) i 1) = u := ⟨_, rfl⟩
  rw [hu] at hput hwork hres hspool hothers htwin
  refine replies_of (u := u) rfl h (.inr (by decide)) (hop.trans ?_) hwork ⟨hspool, hothers⟩
  rw [opSpoolCtrl, hlen, h0, h1, hnats]
  refine (jop_goes _ rfl (by simpa using hi) ((twinSt_accepted s q).trans hd.state)).trans ?_
  rw [issue_landed (pair_accepted hd) hput]
  exact await_result (hwork.2.1.trans (waiting_accepted h)) (by rw [htwin]; exact hd.held) (by rw [htwin]; exact hd.entries) (show (0x0601 : Nat) ≠ 0x0302 by decide)
    ⟨by simp only [Reg.ACQ_SP_STATE, Reg.LOOP_BASTE_STATUS]; omega, by omega, by omega⟩ hres

end writes

/-- Settles O53, request by request. -/
theorem writeRequestsComplete : Obligations.WriteRequestsComplete := by
  unfold Obligations.WriteRequestsComplete
  intro s q h hd
  exact ⟨fun _ _ _ _ _ => replies_regWrite h hd, fun _ _ => replies_boltWrite h hd, fun hb _ _ _ => replies_groupQueueSet h hd hb,
    fun hb _ _ _ _ _ => replies_guardSet h hd hb, fun _ _ => replies_guardSet_refused h hd, fun hb _ _ => replies_groupRate h hd hb,
    fun hb _ _ _ _ _ _ => replies_segAppend h hd hb, fun hb _ _ _ _ _ _ _ hp hk hl hf => replies_cmpAppend h hd hb hp hk hl hf,
    fun hb _ => replies_cmpArm h hd hb, fun hb _ => replies_spoolCtrl h hd hb⟩

end Sys2Proof.Machine

/-! ## The roles of the twin (R356, R364, R372) -/

namespace Sys2Proof.Machine

section roles

variable {s t u : State}

/-! ### What a change of the ring state and a twin frame leave -/

/-- A view of the state that entering a ring state leaves (R93). -/
structure RingBlind {α : Type} (g : State → α) : Prop where
  wr (s : State) (a : Nat) (v : Word) : g (wr s a v) = g s
  time (s : State) (x : Timekeeping) : g { s with time := x } = g s
  pwr (s : State) (x : Power) : g { s with pwr := x } = g s
  idle (s : State) (st : Nat) : g (firstIdle s st) = g s
  event (s : State) (b e o d : Nat) : g (event s b e o d) = g s

namespace RingBlind

variable {α : Type} {g : State → α}

theorem syncRate (h : RingBlind g) (s : State) : g (syncRate s) = g s := by
  unfold Machine.syncRate
  split
  · rfl
  · extract_lets r
    split
    · rfl
    · exact (h.wr _ _ _).trans ((h.time _ _).trans (h.time _ _))

theorem setTimeSt (h : RingBlind g) (s : State) (st : Nat) (armed : Bool) : g (setTimeSt s st armed) = g s :=
  (h.wr _ _ _).trans (h.wr _ _ _)

theorem takeRate (h : RingBlind g) (s : State) (v : Word) : g (takeRate s v) = g s := by
  have hend (s : State) : g (endHoldover s) = g s := by
    unfold endHoldover
    split
    · split <;> exact (h.event _ _ _ _ _).trans (h.setTimeSt _ _ _)
    · rfl
  have hclamp : g (noteClamp s v) = g s := by
    unfold noteClamp
    split
    · rfl
    · exact h.event _ _ _ _ _
  exact (h.syncRate _).trans ((hend _).trans ((h.time _ _).trans ((h.wr _ _ _).trans hclamp)))

theorem enterRing (h : RingBlind g) (s : State) (st : Nat) : g (enterRing s st) = g s := by
  have hrelease (s : State) : g (releaseRate s) = g s := by
    unfold releaseRate
    split
    · rfl
    · exact (h.takeRate _ _).trans (h.time _ _)
  have hsource (s : State) (old : Nat) : g (sourceFrom s old st) = g s := by
    unfold sourceFrom
    split
    · exact h.wr _ _ _
    · split
      · exact (h.syncRate _).trans ((hrelease _).trans (h.wr _ _ _))
      · exact h.syncRate _
  have hidle (s : State) : g (idleFrom s st) = g s := by
    unfold idleFrom
    split
    · exact h.idle _ _
    · rfl
  have halive (s : State) : g (aliveFrom s st) = g s := by
    unfold aliveFrom
    split
    · exact h.pwr _ _
    · rfl
  exact (hsource _ _).trans ((hidle _).trans ((halive _).trans (h.wr _ _ _)))

end RingBlind

theorem firstIdle_twin (s : State) (st : Nat) : (firstIdle s st).twin = s.twin := by unfold firstIdle; split <;> rfl

theorem ringBlind_twin : RingBlind fun s => s.twin :=
  ⟨fun _ _ _ => rfl, fun _ _ => rfl, fun _ _ => rfl, firstIdle_twin, event_twin⟩

/-- What a twin frame changes: what is given out, the frames that wait, and the sequence number (R353). -/
theorem sendTwin_frame (s : State) (ft : Nat) (b : List Byte) : ∃ o d q,
    sendTwin s ft b = { s with out := o, twin := { s.twin with delayed := d, seq := q } } := by
  unfold sendTwin
  split
  · exact ⟨s.out, s.twin.delayed, s.twin.seq, rfl⟩
  · split
    · exact ⟨s.out, _, s.twin.seq, rfl⟩
    · exact ⟨_, s.twin.delayed, _, rfl⟩

@[simp] theorem rd_sendTwin (s : State) (ft : Nat) (b : List Byte) (a : Nat) : rd (sendTwin s ft b) a = rd s a := by
  obtain ⟨o, d, q, e⟩ := sendTwin_frame s ft b
  rw [e]
  rfl

@[simp] theorem sendTwin_act (s : State) (ft : Nat) (b : List Byte) : (sendTwin s ft b).act = s.act := by
  obtain ⟨o, d, q, e⟩ := sendTwin_frame s ft b
  rw [e]

@[simp] theorem sendTwin_cyc (s : State) (ft : Nat) (b : List Byte) : (sendTwin s ft b).cyc = s.cyc := by
  obtain ⟨o, d, q, e⟩ := sendTwin_frame s ft b
  rw [e]

@[simp] theorem sendTwin_entries (s : State) (ft : Nat) (b : List Byte) : (sendTwin s ft b).twin.entries = s.twin.entries := by
  obtain ⟨o, d, q, e⟩ := sendTwin_frame s ft b
  rw [e]

/-- HELLO changes what a twin frame changes, and the time of the last HELLO. -/
theorem sendHello_frame (s : State) : ∃ o d q,
    sendHello s = { s with out := o, twin := { s.twin with helloRaw := some s.raw, delayed := d, seq := q } } := by
  obtain ⟨o, d, q, e⟩ := sendTwin_frame (twinMod s fun t => { t with helloRaw := some s.raw }) 0x20
    (leBytes 4 s.twin.cfgSetHash.toNat ++ leBytes 4 s.twin.manifestHash.toNat ++ leBytes 4 s.ring.cfgHash.toNat ++ zeros 4)
  exact ⟨o, d, q, e⟩

@[simp] theorem rd_sendHello (s : State) (a : Nat) : rd (sendHello s) a = rd s a := rd_sendTwin _ _ _ _

@[simp] theorem showFbc_twin (s : State) : (showFbc s).twin = s.twin := by
  obtain ⟨d, o, w, e⟩ := showFbc_frame s
  rw [e]
  rfl

@[simp] theorem showFbc_cyc (s : State) : (showFbc s).cyc = s.cyc := by
  obtain ⟨d, o, w, e⟩ := showFbc_frame s
  rw [e]
  rfl

/-! ### Entering a twin state (R356, R390) -/

theorem rd_setTwin (s : State) (st c : Nat) {a : Nat} (ht : a ≠ Reg.TWIN_STATE) (hj : a ≠ Reg.TWIN_JSEQ) (hf : a ≠ Reg.FBC_STATUS) :
    rd (setTwin s st c) a = rd s a := by
  unfold setTwin
  extract_lets old u v w x y z
  have hv : rd v a = rd s a := (rd_setF_ne _ _ _ _ ht).trans (rd_setF_ne _ _ _ _ ht)
  have hw : rd w a = rd v a := by
    unfold w
    split
    · exact rd_wr_ne _ _ hj
    · rfl
  have hy : rd y a = rd w a := (rd_setBit_ne _ _ _ ht).trans (rd_setBit_ne _ _ _ ht)
  have hz : rd z a = rd y a := by
    unfold z
    split
    · rfl
    · exact rd_sendHello _ _
  rw [rd_showFbc_ne _ hf, hz, hy, hw, hv]

/-- What TWIN_STATE reads after entering a twin state: its state, its cause, that it holds the journal, and that it may take over. -/
theorem rd_setTwin_state (s : State) (st c : Nat) : ∃ b, rd (setTwin s st c) Reg.TWIN_STATE =
    rd (setBit (setBit (setF (setF s Reg.TWIN_STATE 2 0 st) Reg.TWIN_STATE 11 8 c) Reg.TWIN_STATE 5
      (st == 1 || (st == 5 && !(st == 5 && s.twin.formerStandby)))) Reg.TWIN_STATE 6 b) Reg.TWIN_STATE := by
  refine ⟨st == 3 || (st == 4 && actF s Reg.TWIN_CFG 4 4 == 1 && c != 4), ?_⟩
  unfold setTwin
  extract_lets old u v w x y z
  have hw : rd w Reg.TWIN_STATE = rd u Reg.TWIN_STATE := by
    unfold w
    split
    · exact rd_wr_ne _ _ (by decide)
    · rfl
  have htwin : w.twin.formerStandby = (st == 5 && s.twin.formerStandby) := by
    unfold w
    split <;> rfl
  have hact : x.act = s.act := by
    unfold x w
    split <;> rfl
  have hz : rd z Reg.TWIN_STATE = rd y Reg.TWIN_STATE := by
    unfold z
    split
    · rfl
    · exact rd_sendHello _ _
  have hx : rd x Reg.TWIN_STATE = rd (setBit u Reg.TWIN_STATE 5 (st == 1 || (st == 5 && !w.twin.formerStandby))) Reg.TWIN_STATE := by
    rw [rd_setBit, rd_setBit, if_pos rfl, if_pos rfl, hw]
  have hmay : actF x Reg.TWIN_CFG 4 4 = actF s Reg.TWIN_CFG 4 4 := by rw [actF, actv, hact, actF, actv]
  rw [rd_showFbc_ne _ (by decide), hz]
  change rd (setBit x Reg.TWIN_STATE 6 (st == 3 || (st == 4 && actF x Reg.TWIN_CFG 4 4 == 1 && c != 4))) Reg.TWIN_STATE = _
  rw [rd_setBit, if_pos rfl, hx, htwin, hmay, rd_setBit, if_pos rfl, rd_setBit, if_pos rfl, rd_setBit, if_pos rfl]

theorem twinSt_setTwin (s : State) (st c : Nat) : twinSt (setTwin s st c) = st % 8 := by
  obtain ⟨b, e⟩ := rd_setTwin_state s st c
  rw [twinSt, fld, e]
  exact (fld_setBit_ne _ _ _ _ _ _ (by decide) (by decide)).trans ((fld_setBit_ne _ _ _ _ _ _ (by decide) (by decide)).trans
    ((fld_setF_ne _ _ _ _ _ _ _ (by decide) (by decide) (by decide)).trans (fld_setF _ _ _ _ _ (by decide) (by decide))))

theorem cause_setTwin (s : State) (st c : Nat) : fld (setTwin s st c) Reg.TWIN_STATE 11 8 = c % 16 := by
  obtain ⟨b, e⟩ := rd_setTwin_state s st c
  rw [fld, e]
  exact (fld_setBit_ne _ _ _ _ _ _ (by decide) (by decide)).trans ((fld_setBit_ne _ _ _ _ _ _ (by decide) (by decide)).trans
    (fld_setF _ _ _ _ _ (by decide) (by decide)))

/-- What entering a twin state changes of the twin record: who stands by, when it was active, what the other head holds, and what a frame
changes. -/
theorem setTwin_twin (s : State) (st c : Nat) : ∃ ar ah hr d q, (setTwin s st c).twin =
    { s.twin with formerStandby := st == 5 && s.twin.formerStandby, activeRaw := ar, ackHi := ah, helloRaw := hr, delayed := d, seq := q } := by
  unfold setTwin
  extract_lets old u v w x y z
  have hy : y.twin = v.twin := by
    unfold y x w
    split <;> rfl
  have hz : ∃ hr d q, z.twin = { v.twin with helloRaw := hr, delayed := d, seq := q } := by
    unfold z
    split
    · exact ⟨v.twin.helloRaw, v.twin.delayed, v.twin.seq, by rw [hy]⟩
    · obtain ⟨o, d, q, e⟩ := sendHello_frame y
      exact ⟨_, d, q, by rw [e, hy]⟩
  obtain ⟨hr, d, q, e⟩ := hz
  exact ⟨_, _, hr, d, q, by rw [showFbc_twin, e]; rfl⟩

@[simp] theorem setTwin_cyc (s : State) (st c : Nat) : (setTwin s st c).cyc = s.cyc := by
  unfold setTwin
  extract_lets old u v w x y z
  have hy : y.cyc = s.cyc := by
    unfold y x w
    split <;> rfl
  have hz : z.cyc = y.cyc := by
    unfold z
    split
    · rfl
    · obtain ⟨o, d, q, e⟩ := sendHello_frame y
      rw [e]
  rw [showFbc_cyc, hz, hy]

/-! ### Takeover and split service (R372, R373, R376) -/

theorem ringSt_leadFromFar (s : State) : ringSt (leadFromFar s) = if s.cyc.nextIdle then 5 else 6 := by
  unfold leadFromFar
  extract_lets u x v
  have hv : v.cyc = s.cyc := rfl
  rw [ringSt_enterRing, hv]
  split <;> rfl

theorem leadFromFar_twin (s : State) : (leadFromFar s).twin = s.twin := by
  unfold leadFromFar
  exact ringBlind_twin.enterRing _ _

theorem twinSt_leadFromFar (s : State) : twinSt (leadFromFar s) = twinSt s := by
  unfold leadFromFar
  extract_lets u x v
  have hv : rd v Reg.TWIN_STATE = rd s Reg.TWIN_STATE := rd_setTimeSt s 3 false (by decide)
  rw [twinSt, fld, rd_enterRing _ _ ⟨by decide, by decide, by decide, by decide⟩, rd_setF_ne _ _ _ _ (by decide)]
  exact congrArg (wbits · 2 0) hv

theorem enterSplit_shows (s : State) : twinSt (enterSplit s) = 5 ∧ (enterSplit s).twin.formerStandby = true ∧
    ringSt (enterSplit s) = if s.cyc.nextIdle then 5 else 6 := by
  unfold enterSplit
  extract_lets u
  obtain ⟨ar, ah, hr, d, q, e⟩ := setTwin_twin (bump u Reg.TWIN_SPLIT_CNT) 5 0
  refine ⟨?_, ?_, ?_⟩
  · rw [twinSt, fld_event _ _ _ _ _ _ _ (by decide)]
    exact (twinSt_leadFromFar _).trans (twinSt_setTwin _ _ _)
  · rw [event_twin, leadFromFar_twin, e]
    rfl
  · rw [ringSt, fld_event _ _ _ _ _ _ _ (by decide)]
    exact (ringSt_leadFromFar _).trans (by rw [setTwin_cyc]; rfl)

theorem takeover_shows (s : State) : twinSt (takeover s) = 1 ∧ (takeover s).twin.takenOver = true ∧
    (ringSt (takeover s) = 5 ∨ ringSt (takeover s) = 6) := by
  unfold takeover
  extract_lets was u v w x
  have hstate : twinSt u = 1 := (twinSt_leadFromFar _).trans (twinSt_setTwin _ _ _)
  have hring : ringSt u = 5 ∨ ringSt u = 6 := by
    have h := ringSt_leadFromFar (setTwin s 1 0)
    split at h
    · exact .inl h
    · exact .inr h
  clear_value u
  have hv {a : Nat} (hc : a ≠ Reg.TWIN_TAKEOVER_CNT) (hy : a ≠ Reg.TWIN_TAKEOVER_CYCLE) : rd v a = rd u a :=
    (rd_wr_ne _ _ hy).trans (rd_bump_ne _ _ hc)
  have hx {a : Nat} (hc : a ≠ Reg.TWIN_TAKEOVER_CNT) (hy : a ≠ Reg.TWIN_TAKEOVER_CYCLE) (hr : reportReg a = false) : rd x a = rd u a :=
    (rd_event _ _ _ _ _ hr).trans (hv hc hy)
  have htaken : x.twin.takenOver = true := congrArg (·.takenOver) (event_twin w _ _ _ _)
  clear_value x
  have hresult {y : State} (ht : y.twin = x.twin) (hy : ∀ a, reportReg a = false → rd y a = rd x a) :
      twinSt y = 1 ∧ y.twin.takenOver = true ∧ (ringSt y = 5 ∨ ringSt y = 6) := by
    rw [twinSt, fld, hy _ (by decide), hx (by decide) (by decide) (by decide), ht, ringSt, fld, hy _ (by decide),
      hx (by decide) (by decide) (by decide)]
    exact ⟨hstate, htaken, hring⟩
  split
  · exact hresult (event_twin _ _ _ _ _) fun _ ha => rd_event _ _ _ _ _ ha
  · exact hresult rfl fun _ _ => rfl

/-- The split and the takeover that a head decides from the decision time on. -/
theorem completes_split {arrived : Bool} (h : Awake s) (ht : decisionTime s ≤ mtime s) (hd : decision s arrived = 1) :
    Completes (.takeoverDecision arrived) s fun t => twinSt t = 5 ∧ t.twin.formerStandby = true ∧
      ringSt t = if s.cyc.nextIdle then 5 else 6 := by
  have e : takeoverDecided s arrived = enterSplit s := by rw [takeoverDecided, if_neg (Nat.not_lt.mpr ht), hd]; rfl
  refine completes_run_eq rfl h e ?_
  have hu := enterSplit_shows s
  generalize enterSplit s = t at hu
  exact hu

theorem completes_takeover {arrived : Bool} (h : Awake s) (ht : decisionTime s ≤ mtime s) (hd : decision s arrived = 2) :
    Completes (.takeoverDecision arrived) s fun t => twinSt t = 1 ∧ t.twin.takenOver = true ∧ (ringSt t = 5 ∨ ringSt t = 6) := by
  obtain ⟨u, e⟩ : ∃ u, takeoverDecided s arrived = takeover u := by
    rw [takeoverDecided, if_neg (Nat.not_lt.mpr ht), hd]
    exact ⟨_, rfl⟩
  refine completes_run_eq rfl h e ?_
  have hu := takeover_shows u
  generalize takeover u = t at hu
  exact hu

/-! ### Stamping (R364, R366, R367) -/

/-- The bytes of an entry do not grow with its number and cycle (R365). -/
theorem length_stamped (e : JEntry) (q m : Word) : ({ e with seq := q, cycle := m } : JEntry).bytes.length = e.bytes.length := by
  simp only [JEntry.bytes, List.length_append, length_leBytes]

/-- An entry that fits the room left takes no further cycle (R367). -/
theorem moreCycles_one {cap room : Nat} {e : JEntry} (h : e.bytes.length ≤ room) : moreCycles cap room [e] = 0 := by
  simp [moreCycles, h]

/-- A state with an entry at the end of the journal under the next number. -/
def entryStamped (s : State) (e : JEntry) : State := (stampOne s e).1

theorem entryStamped_entries (s : State) (e : JEntry) :
    (entryStamped s e).twin.entries = s.twin.entries ++ [{ e with seq := rd s Reg.TWIN_JSEQ + 1 }] := rfl

theorem rd_entryStamped_jseq (s : State) (e : JEntry) : rd (entryStamped s e) Reg.TWIN_JSEQ = rd s Reg.TWIN_JSEQ + 1 := by
  unfold entryStamped stampOne showJournal
  exact (rd_wr_ne _ _ (by decide)).trans (rd_wr_same s Reg.TWIN_JSEQ _)

theorem rd_entryStamped_ne (s : State) (e : JEntry) {a : Nat} (hj : a ≠ Reg.TWIN_JSEQ) (hl : a ≠ Reg.TWIN_JOURNAL_LEVEL) :
    rd (entryStamped s e) a = rd s a := by
  unfold entryStamped stampOne showJournal
  exact (rd_wr_ne _ _ hl).trans (rd_wr_ne s _ hj)

/-- One entry that fits is stamped, and its JOURNAL frame goes out (R366). -/
theorem stampFit_one {e : JEntry} (h : e.bytes.length ≤ s.twin.room) :
    ∃ b, stampFit s [e] = (sendTwin (entryStamped s e) 0x24 b, []) := by
  refine ⟨({ e with seq := rd s Reg.TWIN_JSEQ + 1 } : JEntry).bytes ++ [], ?_⟩
  unfold stampFit
  simp only [List.foldl_cons, List.foldl_nil, List.isEmpty_nil, Bool.true_and, decide_eq_true h, if_true]
  rfl

/-- What stamping leaves: the entry at the end of the journal, no write held, and no register but the two of the journal changed. -/
structure StampedAs (s t : State) (e : JEntry) : Prop where
  entries : t.twin.entries = s.twin.entries ++ [{ e with seq := rd s Reg.TWIN_JSEQ + 1 }]
  held : t.twin.held = []
  number : rd t Reg.TWIN_JSEQ = rd s Reg.TWIN_JSEQ + 1
  others : ∀ a, a ≠ Reg.TWIN_JSEQ → a ≠ Reg.TWIN_JOURNAL_LEVEL → rd t a = rd s a
  mem : t.mem = s.mem
  act : t.act = s.act
  bus : t.bus = s.bus
  host : t.host = s.host
  mbx : t.mbx = s.mbx

theorem stampedAs_sent {e : JEntry} {b : List Byte} :
    StampedAs s (twinMod (sendTwin (entryStamped s e) 0x24 b) fun t => { t with held := [] }) e := by
  obtain ⟨o, d, q, hsent⟩ := sendTwin_frame (entryStamped s e) 0x24 b
  rw [hsent]
  exact ⟨entryStamped_entries s e, rfl, rd_entryStamped_jseq s e, fun _ => rd_entryStamped_ne s e, rfl, rfl, rfl, rfl, rfl⟩

/-- The last held write is stamped at once where its one entry fits. -/
theorem stampHeld_one {h : Held} {e : JEntry} (hh : s.twin.held = [h]) (hs : swapHolds s = false) (hr : h.req = none)
    (hes : (if h.rest.isEmpty then (h.writes.map (splitWrite s)).flatten.map fun e => { e with
        cycle := s.cyc.count + word (moreCycles (jourMax s) s.twin.room (h.writes.map (splitWrite s)).flatten) + word (jourLead s) }
      else h.rest) = [e])
    (hfit : (h.writes.map (splitWrite s)).flatten.foldl (fun n e => n + e.bytes.length) 0 ≤ s.twin.room)
    (hroom : e.bytes.length ≤ s.twin.room) : StampedAs s (stampHeld 1 s) e := by
  obtain ⟨b, hb⟩ := stampFit_one hroom
  have hfront : stampFront s h = (sendTwin (entryStamped s e) 0x24 b, { h with writes := [], rest := [] }) := by
    unfold stampFront
    dsimp only
    rw [hes, hb, hr]
    rfl
  unfold stampHeld
  rw [hh]
  dsimp only
  rw [hs, decide_eq_true hfit, hfront]
  simp only [Bool.not_true, Bool.and_false, Bool.false_and, Bool.false_eq_true, if_false, List.isEmpty_nil, if_true]
  exact stampedAs_sent

/-- Writes of one entry that fits this cycle are stamped with the cycle after the journal's lead (R364). -/
theorem stampWrites_one {w : JWrite} {e : JEntry} (hh : s.twin.held = []) (hs : swapHolds s = false) (he : splitWrite s w = [e])
    (hroom : e.bytes.length ≤ s.twin.room) :
    StampedAs s (stampWrites s [w] none) { e with cycle := s.cyc.count + word (jourLead s) } := by
  unfold stampWrites
  extract_lets u
  have hheld : u.twin.held = [{ writes := [w], req := none }] := by
    change s.twin.held ++ [_] = _
    rw [hh]
    rfl
  have hsplit : ([w].map (splitWrite u)).flatten = [e] := by
    change splitWrite s w ++ [] = [e]
    rw [he]
    rfl
  have hone : StampedAs u (stampHeld 1 u) { e with cycle := s.cyc.count + word (jourLead s) } := by
    have hcycle : u.cyc.count + word (moreCycles (jourMax u) u.twin.room [e]) + word (jourLead u) = s.cyc.count + word (jourLead s) := by
      have hnone : moreCycles (jourMax u) u.twin.room [e] = 0 := moreCycles_one hroom
      rw [hnone]
      exact congrArg (· + word (jourLead s)) (BitVec.add_zero _)
    refine stampHeld_one hheld hs rfl ?_ ?_ ?_
    · rw [if_pos (by rfl), hsplit, List.map_cons, List.map_nil, hcycle]
    · rw [hsplit]
      exact (Nat.zero_add _).le.trans hroom
    · exact (length_stamped e e.seq _).le.trans hroom
  rw [hheld]
  exact ⟨hone.entries, hone.held, hone.number, hone.others, hone.mem, hone.act, hone.bus, hone.host, hone.mbx⟩

theorem completes_journalStamp {kind source : Byte} {target : Word} {data : List Byte} {e : JEntry} (h : Awake s)
    (hst : stamps s = true) (hh : s.twin.held = []) (hs : swapHolds s = false)
    (he : splitWrite s { kind := kind.toNat, source := source.toNat, target := target, data := data } = [e])
    (hroom : e.bytes.length ≤ s.twin.room) : Completes (.journalStamp kind source target data) s fun t =>
      t.twin.entries = s.twin.entries ++ [{ e with seq := rd s Reg.TWIN_JSEQ + 1, cycle := s.cyc.count + word (jourLead s) }] ∧
        rd t Reg.TWIN_JSEQ = rd s Reg.TWIN_JSEQ + 1 ∧ t.twin.held = [] := by
  have hone := stampWrites_one hh hs he hroom
  exact completes_quiet_eq rfl h (if_pos hst) ⟨hone.entries, hone.number, hone.held⟩

theorem completes_journalStampContinue {x : Held} {e : JEntry} (h : Awake s) (hh : s.twin.held = [x]) (hw : x.writes = [])
    (hr : x.rest = [e]) (hq : x.req = none) (hs : swapHolds s = false) (hroom : e.bytes.length ≤ s.twin.room) :
    Completes .journalStampContinue s fun t =>
      t.twin.entries = s.twin.entries ++ [{ e with seq := rd s Reg.TWIN_JSEQ + 1 }] ∧ t.twin.held = [] := by
  have hone : StampedAs s (stampHeld s.twin.held.length s) e := by
    rw [hh]
    refine stampHeld_one hh hs hq ?_ ?_ hroom
    · rw [hr]
      rfl
    · rw [hw]
      exact Nat.zero_le _
  exact completes_quiet_eq rfl h rfl ⟨hone.entries, hone.held⟩

/-! ### The twin link (R356, R378, R381) -/

/-- What the end of a resynchronization changes of the twin record. -/
theorem resyncEnd_twin (s : State) (ok : Bool) : ∃ p n k f h, (resyncEnd s ok).twin =
    { s.twin with pages := p, snapshot := n, kept := k, frozen := f, holding := h } := by
  unfold resyncEnd
  split
  · exact ⟨_, _, _, _, _, rfl⟩
  · extract_lets u v w a
    have hw : w.twin = v.twin := event_twin _ _ _ _ _
    have hv : v.twin = { s.twin with pages := [], snapshot := [], kept := [], frozen := [], holding := false } := by
      unfold v maintRel
      split <;> rfl
    refine ⟨_, _, _, _, _, Eq.trans ?_ (hw.trans hv)⟩
    unfold twinEnd
    split <;> rfl

/-- UNFIT is entered with its cause, which is 7 only in place of 1 (R384). -/
theorem unfit_shows (s : State) {c : Nat} (h1 : c ≠ 1) : twinSt (unfit s c) = 4 ∧ fld (unfit s c) Reg.TWIN_STATE 11 8 = c % 16 ∧
    (unfit s c).twin.formed = s.twin.formed := by
  unfold unfit
  extract_lets hour cause u
  have hcause : cause = c := if_neg (by simp [h1])
  have hformed : u.twin.formed = s.twin.formed := by
    obtain ⟨p, n, k, f, x, e⟩ := resyncEnd_twin s false
    exact congrArg (·.formed) e
  rw [hcause]
  clear_value u
  obtain ⟨ar, ah, hr, d, q, e⟩ := setTwin_twin (twinMod u fun t => { t with resyncs := hour, matched := 0 }) 4 c
  refine ⟨?_, ?_, ?_⟩
  · rw [twinSt, fld_event _ _ _ _ _ _ _ (by decide)]
    exact twinSt_setTwin _ _ _
  · rw [fld_event _ _ _ _ _ _ _ (by decide)]
    exact cause_setTwin _ _ _
  · rw [event_twin, e]
    exact hformed

/-- What a lost twin link leaves before the state follows it: the pair is not formed, and the link shows no lock and no valid frames. -/
def linkDown (s : State) (lock : Bool) : State :=
  setBit (twinMod (if lock then setBit s Reg.TWIN_STATE 3 false else s) fun t => { t with formed := false }) Reg.TWIN_STATE 4 false

theorem twinSt_linkDown (s : State) (lock : Bool) : twinSt (linkDown s lock) = twinSt s := by
  unfold linkDown
  refine (fld_setBit_ne _ _ _ _ _ _ (by decide) (by decide)).trans ?_
  cases lock
  · rfl
  · exact fld_setBit_ne s _ _ _ _ _ (by decide) (by decide)

/-- A pair's link that is lost, or has been silent for three cycles, acts by the twin state. -/
theorem twinLinkLost_acts {lock : Bool} (hp : s.twin.pair = true) (hl : lock = true ∨ 3 ≤ s.twin.silent) :
    ¬ (!s.twin.pair || (!lock && s.twin.silent < 3)) = true := by
  rw [hp]
  rcases hl with rfl | hl
  · exact Bool.false_ne_true
  · simp [Nat.not_lt.mpr hl]

theorem completes_linkLost_standby {lock : Bool} (h : Awake s) (hp : s.twin.pair = true) (hl : lock = true ∨ 3 ≤ s.twin.silent)
    (hst : twinSt s = 3) : Completes (.twinLinkLost lock) s fun t =>
      twinSt t = 4 ∧ fld t Reg.TWIN_STATE 11 8 = 3 ∧ t.twin.formed = false := by
  have e : twinLinkLost s lock = unfit (event (linkDown s lock) TWIN 3) 3 := by
    rw [twinLinkLost, if_neg (twinLinkLost_acts hp hl)]
    extract_lets u v
    have hd : twinSt v = 3 := (twinSt_linkDown s lock).trans hst
    rw [hd]
    rfl
  refine completes_quiet_eq rfl h e ?_
  have hu := unfit_shows (event (linkDown s lock) TWIN 3) (c := 3) (by decide)
  rw [event_twin] at hu
  generalize unfit (event (linkDown s lock) TWIN 3) 3 = t at hu
  exact hu

theorem completes_linkLost_split {lock : Bool} (h : Awake s) (hp : s.twin.pair = true) (hl : lock = true ∨ 3 ≤ s.twin.silent)
    (hst : twinSt s = 5) : Completes (.twinLinkLost lock) s fun t => twinSt t = 1 ∧ fbit t Reg.FPM_STATUS 0 = true := by
  have e : twinLinkLost s lock = event (regionStop (setTwin (linkDown s lock) 1 0)) TWIN 10 := by
    rw [twinLinkLost, if_neg (twinLinkLost_acts hp hl)]
    extract_lets u v
    have hd : twinSt v = 5 := (twinSt_linkDown s lock).trans hst
    rw [hd]
    rfl
  refine completes_quiet_eq rfl h e ?_
  have hstate := twinSt_setTwin (linkDown s lock) 1 0
  generalize setTwin (linkDown s lock) 1 0 = u at hstate
  have hstop : twinSt (regionStop u) = 1 := (congrArg (wbits · 2 0) ((only_regionStop u).regs _ (by decide))).trans hstate
  have hstopped := stopped_regionStop u
  generalize regionStop u = t at hstop hstopped
  exact ⟨(fld_event _ _ _ _ _ _ _ (by decide)).trans hstop, (only_event t _ _ _ _).stop hstopped⟩

theorem completes_linkGained (h : Awake s) (hp : s.twin.pair = true) :
    Completes .twinLinkLockGained s fun t => fbit t Reg.TWIN_STATE 3 = true ∧ t.mem = s.mem := by
  refine completes_quiet (f := twinLockGained) rfl h ⟨?_, rfl⟩
  have hshows : fbit (twinLockGained s) Reg.TWIN_STATE 3 = true := by
    rw [twinLockGained, if_neg (by rw [hp]; decide)]
    extract_lets u v
    have hv : fbit v Reg.TWIN_STATE 3 = true := by
      have hu : fbit u Reg.TWIN_STATE 3 = true := fbit_setBit _ _ _ _ (by decide)
      unfold v
      split
      · exact (fbit_setF_ne u _ _ _ _ _ (by decide) (by decide) (by decide)).trans hu
      · exact hu
    rw [fbit, rd_sendHello]
    exact hv
  exact hshows

/-! ### The commit of the twin's baste, and a field input that differs (R388, R390) -/

theorem hostWrite_twinCommit {port : Port} {v : Word} (hr : Reaches s port Reg.TWIN_BASTE_COMMIT v) :
    hostWrite s port Reg.TWIN_BASTE_COMMIT v = landTwinCommit s v :=
  (write_reach hr (i := 0) (j := 0) rfl (by decide) (by decide)).trans rfl

theorem exec_twinCommit {port : Port} {v : Word} (hr : Reaches s port Reg.TWIN_BASTE_COMMIT v) (hv : wbit v 0 = true) :
    exec (.twinCommit port v) s = .next (okBus (setBit s Reg.TWIN_BASTE_STATUS 0 true)) :=
  exec_port (f := fun s => hostWrite s port Reg.TWIN_BASTE_COMMIT v) rfl ((hostWrite_twinCommit hr).trans (if_pos hv)) rfl rfl rfl

theorem exec_fieldDiscrepancy {i : Fin 32} (h : Awake s) (hd : tget (fun _ => 0) s.twin.diffSince i.val ≠ 0)
    (ht : tget (fun _ => 0) s.twin.diffSince i.val + 10000000 ≤ s.raw + 1) (hm : (motionInputBits s).contains i.val = true) :
    exec (.fieldInputDiscrepancy i) s = .next (event s FIO 5 i.val) := by
  have e : fieldDiscrepancy s i.val = event s FIO 5 i.val := by
    unfold fieldDiscrepancy
    extract_lets since
    refine if_pos ?_
    rw [hm, Bool.and_true, Bool.and_eq_true, bne_iff_ne, decide_eq_true_eq]
    exact ⟨hd, by omega⟩
  exact exec_quiet rfl h e (only_event s _ _ _ _).pending (only_event s _ _ _ _).mem (only_event s _ _ _ _).raw

end roles

/-- Settles O33, command by command. -/
theorem twinRolesComplete : Obligations.TwinRolesComplete := by
  unfold Obligations.TwinRolesComplete
  intro s h
  exact ⟨fun _ _ _ _ _ hst hh hs he hroom => completes_journalStamp h hst hh hs he hroom,
    fun _ _ hh hw hr hq hs hroom => completes_journalStampContinue h hh hw hr hq hs hroom,
    fun _ ht hd => completes_split h ht hd, fun _ ht hd => completes_takeover h ht hd,
    fun _ hp hl hst => completes_linkLost_standby h hp hl hst, fun _ hp hl hst => completes_linkLost_split h hp hl hst,
    completes_linkGained h, fun _ _ hr hv => exec_twinCommit hr hv, fun _ hd ht hm => exec_fieldDiscrepancy h hd ht hm⟩

end Sys2Proof.Machine

/-! ## Stamping host writes (R364) -/

namespace Sys2Proof.Machine

section stamping

variable {s : State} {port : Port} {a : Nat} {v : Word} {e : JEntry}

/-- A write that sets no pending flag as it lands sets none as it is stamped. -/
theorem markPending_none (h : ∀ r i j, regAt a = some (r, i, j) → markFlag (blockOf a) r i v = none) : markPending s a v = s := by
  unfold markPending
  split
  · rfl
  · next r i j hr =>
    rw [h r i j hr]

/-- A write on the head that holds the journal of a pair, from a port that is neither firmware nor the debug port nor the island, is
stamped (R364). -/
theorem hostWrite_stamps (h : Awake s) (hfw : ∀ f, port ≠ .fw f) (hdebug : port ≠ .debug) (hisland : port ≠ .island)
    (hst : stamps s = true) (hr : refusesWrites s = false) (hj : journaled s a = true) : hostWrite s port a v = stampReg s port a v := by
  have hpair : s.twin.pair = true := by
    rw [stamps, Bool.and_eq_true] at hst
    exact hst.1
  have hreset : ¬ s.sec.inReset = true := by rw [h]; decide
  have hgoes : (if s.twin.pair && journaled s a then
      if refusesWrites s then slverr s else if stamps s then stampReg s port a v else landWrite s port a v
      else landWrite s port a v) = stampReg s port a v := by
    rw [hpair, hj, hr, hst]
    rfl
  unfold hostWrite
  rw [if_neg hreset]
  cases port with
  | fw f => exact absurd rfl (hfw f)
  | debug => exact absurd rfl hdebug
  | island => exact absurd rfl hisland
  | _ => exact hgoes

/-- A stamped write that its block would accept answers well and stands in the journal. -/
theorem stampReg_accepted (hb : (landWrite s port a v).bus.err = false) (hen : enableRefused s a v = none)
    (hm : ∀ r i j, regAt a = some (r, i, j) → markFlag (blockOf a) r i v = none) :
    stampReg s port a v = okBus (stampWrites s [{ kind := 1, target := word a, data := leBytes 4 v.toNat }] none) := by
  unfold stampReg
  extract_lets t
  rw [if_neg (by rw [hb]; decide), hen, markPending_none hm]

end stamping

/-- Settles O11: the write is stamped as one entry, and nothing that waits in the host block goes on. -/
theorem hostWritesOfAPairAreStamped : Obligations.HostWritesOfAPairAreStamped := by
  unfold Obligations.HostWritesOfAPairAreStamped
  intro s port a v e h hq hfw hdebug hisland hst hr hj hb hen hh hm hs he hroom
  have htarget : word a.toNat = a := by rw [word, BitVec.ofNat_toNat, BitVec.setWidth_eq]
  have hone := stampWrites_one hh hs he hroom
  have hw : hostWrite s port a.toNat v =
      okBus (stampWrites s [{ kind := 1, target := a, data := leBytes 4 v.toNat }] none) := by
    rw [hostWrite_stamps h hfw hdebug hisland hst hr hj, stampReg_accepted hb hen hm, htarget]
  generalize stampWrites s [{ kind := 1, target := a, data := leBytes 4 v.toNat }] none = u at hone hw
  refine completes_registerWrite hw ⟨?_, ?_⟩ ⟨hone.entries, hone.held, hone.number, rfl, hone.mem, hone.act, hone.others⟩
  · rw [okBus_host, hone.host]
    exact hq.1
  · rw [okBus_mbx, hone.mbx]
    exact hq.2

end Sys2Proof.Machine

/-! ## The actions of TWIN_CTRL (R379-R386, R390) -/

namespace Sys2Proof.Machine

section actions

variable {s t u : State} {port : Port}

/-! ### The layer of TWIN_CTRL (R390) -/

theorem hostWrite_twinCtrl {v : Word} (hr : Reaches s port Reg.TWIN_CTRL v) : hostWrite s port Reg.TWIN_CTRL v = landTwinCtrl s v :=
  (write_reach hr (i := 0) (j := 0) rfl (by decide) (by decide)).trans rfl

theorem rd_twinAction_ne (s : State) (a : Nat) {b : Nat} (h : b ≠ Reg.TWIN_CTRL_STATUS) : rd (twinAction s a) b = rd s b :=
  (rd_setBit_ne _ _ _ h).trans (rd_setF_ne _ _ _ _ h)

theorem acting_twinAction (s : State) {a : Nat} (h : a < 8) : Acting (twinAction s a) a :=
  ⟨fbit_setBit _ _ _ _ (by decide), (fld_setBit_ne _ _ _ _ _ _ (by decide) (by decide)).trans
    ((fld_setF _ _ _ _ _ (by decide) (by decide)).trans (Nat.mod_eq_of_lt h))⟩

/-- An action in progress stays in progress where its register is left. -/
theorem Acting.of_rd {a : Nat} (h : Acting s a) (hr : rd t Reg.TWIN_CTRL_STATUS = rd s Reg.TWIN_CTRL_STATUS) : Acting t a := by
  rw [Acting, fbit, fld, hr]
  exact h

theorem twinSt_of_rd (h : rd t Reg.TWIN_STATE = rd s Reg.TWIN_STATE) : twinSt t = twinSt s := congrArg (wbits · 2 0) h

theorem holders_of_rd (h : rd t Reg.FPM_MAINT_STATUS = rd s Reg.FPM_MAINT_STATUS) : holders t = holders s := by
  unfold holders fbit
  rw [h]

theorem rd_twinEnd_ne (s : State) (a r : Nat) {b : Nat} (h : b ≠ Reg.TWIN_CTRL_STATUS) : rd (twinEnd s a r) b = rd s b := by
  unfold twinEnd
  split
  · exact (rd_setBit_ne _ _ _ h).trans (rd_setF_ne _ _ _ _ h)
  · rfl

@[simp] theorem twinEnd_twin (s : State) (a r : Nat) : (twinEnd s a r).twin = s.twin := by unfold twinEnd; split <;> rfl

@[simp] theorem maintHeld_twin (s : State) (act : Nat) : (maintHeld s act).twin = s.twin :=
  maintHeld_keeps_of (fun s => s.twin) (fun _ _ _ _ _ => rfl) (fun _ _ _ _ => rfl) s act

@[simp] theorem maintRel_twin (s : State) (act : Nat) : (maintRel s act).twin = s.twin := by
  unfold maintRel
  split
  · rw [setF_twin, setF_twin, setBit_twin]
  · rfl

/-! ### Resynchronization (R380, R381, R384) -/

/-- A resynchronization that begins on a head that is not active. -/
structure Resyncs (s t : State) : Prop where
  state : twinSt t = 2
  phase : rd t Reg.TWIN_RESYNC_STATUS = 1
  since : t.twin.resyncRaw = s.raw
  resyncs : t.twin.resyncs = s.twin.resyncs
  ctrl : rd t Reg.TWIN_CTRL_STATUS = rd s Reg.TWIN_CTRL_STATUS

theorem resyncs_begin (h : twinSt s ≠ 1) : Resyncs s (resyncBegin s) := by
  unfold resyncBegin
  extract_lets u v ps
  have hrd {a : Nat} (ha : a ≠ Reg.TWIN_RESYNC_STATUS) : rd v a = rd s a := rd_wr_ne u _ ha
  have hst : twinSt v = twinSt s := twinSt_of_rd (hrd (by decide))
  have hphase : rd v Reg.TWIN_RESYNC_STATUS = 1 := rd_wr_same u _ _
  have hsince : v.twin.resyncRaw = s.raw := rfl
  have hcount : v.twin.resyncs = s.twin.resyncs := rfl
  have hctrl : rd v Reg.TWIN_CTRL_STATUS = rd s Reg.TWIN_CTRL_STATUS := hrd (by decide)
  rw [if_neg (by rw [hst]; exact mt beq_iff_eq.mp h)]
  clear_value v
  split
  · next h2 =>
    exact ⟨beq_iff_eq.mp h2, hphase, hsince, hcount, hctrl⟩
  · obtain ⟨ar, ah, hr, d, q, e⟩ := setTwin_twin v 2 0
    exact ⟨twinSt_setTwin v 2 0, (rd_setTwin v 2 0 (by decide) (by decide) (by decide)).trans hphase, by rw [e]; exact hsince,
      by rw [e]; exact hcount, (rd_setTwin v 2 0 (by decide) (by decide) (by decide)).trans hctrl⟩

/-- A resynchronization by command on a standby that is not in step, whose pair is formed and which no holder of the token refuses. -/
theorem resyncCmd_begins {action : Nat} (ha : action < 8) (hst : twinSt s = 4) (hf : s.twin.formed = true)
    (hm : (holders s).all (compat 3) = true) : twinSt (resyncCmd s action) = 2 ∧ rd (resyncCmd s action) Reg.TWIN_RESYNC_STATUS = 1 ∧
      (resyncCmd s action).twin.resyncs = s.twin.resyncs ∧ Acting (resyncCmd s action) action := by
  unfold resyncCmd
  extract_lets u other may m
  have hu : twinSt u = 4 := (twinSt_of_rd (rd_twinAction_ne s action (by decide))).trans hst
  have hmay : may = true := by
    unfold may
    rw [hu]
    rfl
  have hgrant : m = (true, maintHeld u 3) :=
    maintReq_granted (by decide) (by rw [holders_of_rd (rd_twinAction_ne s action (by decide))]; exact hm)
  have hformed : u.twin.formed = true := hf
  have hcount : u.twin.resyncs = s.twin.resyncs := rfl
  have hacting : Acting u action := acting_twinAction s ha
  clear_value u
  rw [if_neg (by rw [hmay]; decide), if_neg (by rw [hformed]; decide), hgrant, if_pos rfl]
  have hb := resyncs_begin (s := maintHeld u 3) (by rw [twinSt_of_rd (rd_maintHeld_ne u 3 (by decide)), hu]; decide)
  generalize resyncBegin (maintHeld u 3) = t at hb
  exact ⟨hb.state, hb.phase, hb.resyncs.trans ((congrArg (·.resyncs) (maintHeld_twin u 3)).trans hcount),
    hacting.of_rd (hb.ctrl.trans (rd_maintHeld_ne u 3 (by decide)))⟩

/-- A write of TWIN_CTRL while no action is in progress. -/
theorem landTwinCtrl_idle {v : Word} (h : fbit s Reg.TWIN_CTRL_STATUS 0 = false) : landTwinCtrl s v =
    if wbit v 3 then releaseCmd (okBus s) else if wbit v 2 then rejoinCmd (okBus s)
    else if wbit v 1 then swapCmd (okBus s) else if wbit v 0 then resyncCmd (okBus s) 1 else okBus s := by
  unfold landTwinCtrl
  extract_lets u
  exact if_neg (by rw [show fbit u Reg.TWIN_CTRL_STATUS 0 = false from h]; decide)

theorem completes_resync (hr : Reaches s port Reg.TWIN_CTRL 1) (hi : fbit s Reg.TWIN_CTRL_STATUS 0 = false) (hst : twinSt s = 4)
    (hf : s.twin.formed = true) (hm : (holders s).all (compat 3) = true) :
    Completes (.resync port) s fun t => twinSt t = 2 ∧ rd t Reg.TWIN_RESYNC_STATUS = 1 ∧ Acting t 1 := by
  have hb := resyncCmd_begins (s := okBus s) (action := 1) (by decide) hst hf hm
  refine completes_port_eq (f := fun s => hostWrite s port Reg.TWIN_CTRL 1) rfl
    ((hostWrite_twinCtrl hr).trans ((landTwinCtrl_idle hi).trans rfl)) ?_
  generalize resyncCmd (okBus s) 1 = t at hb
  obtain ⟨hstate, hphase, -, hacting⟩ := hb
  exact ⟨hstate, hphase, hacting⟩

theorem completes_release (hr : Reaches s port Reg.TWIN_CTRL 8) (hi : fbit s Reg.TWIN_CTRL_STATUS 0 = false) (hst : twinSt s = 4)
    (hc : fld s Reg.TWIN_STATE 11 8 = 7) (hf : s.twin.formed = true) (hm : (holders s).all (compat 3) = true) :
    Completes (.release port) s fun t => twinSt t = 2 ∧ t.twin.resyncs = [] ∧ Acting t 4 := by
  have hb := resyncCmd_begins (s := setCause (twinMod (okBus s) fun t => { t with resyncs := [] }) 0) (action := 4) (by decide)
    ((fld_setF_ne _ _ _ _ _ _ _ (by decide) (by decide) (by decide)).trans hst) hf
    ((congrArg (List.all · (compat 3)) (holders_of_rd (rd_setF_ne _ _ _ _ (by decide)))).trans hm)
  have hland : landTwinCtrl s 8 = resyncCmd (setCause (twinMod (okBus s) fun t => { t with resyncs := [] }) 0) 4 := by
    refine (landTwinCtrl_idle hi).trans ?_
    have hcause : fld (twinMod (okBus s) fun t => { t with resyncs := [] }) Reg.TWIN_STATE 11 8 = 7 := hc
    rw [if_pos (by decide), releaseCmd, hcause, if_pos (by decide)]
  refine completes_port_eq (f := fun s => hostWrite s port Reg.TWIN_CTRL 8) rfl ((hostWrite_twinCtrl hr).trans hland) ?_
  generalize resyncCmd (setCause (twinMod (okBus s) fun t => { t with resyncs := [] }) 0) 4 = t at hb
  obtain ⟨hstate, -, hcount, hacting⟩ := hb
  exact ⟨hstate, hcount, hacting⟩

theorem completes_autoResync (h : Awake s) (hst : twinSt s = 2) (hf : s.twin.formed = true)
    (hp : fld s Reg.TWIN_RESYNC_STATUS 2 0 = 0) (hr : ∀ r, s.twin.retryRaw = some r → r + 1000000000 ≤ s.raw)
    (hm : (holders s).all (compat 3) = true) : Completes .autoResync s fun t =>
      rd t Reg.TWIN_RESYNC_STATUS = 1 ∧ twinSt t = 2 ∧ t.twin.resyncRaw = s.raw := by
  have hgranted := maintReq_granted (s := s) (act := 3) (by decide) hm
  have hraw : (maintHeld s 3).raw = s.raw := maintHeld_keeps_of (fun s => s.raw) setF_raw setBit_raw s 3
  have hstate : twinSt (maintHeld s 3) = 2 := (twinSt_of_rd (rd_maintHeld_ne s 3 (by decide))).trans hst
  obtain ⟨w, hw⟩ : ∃ w, maintHeld s 3 = w := ⟨_, rfl⟩
  rw [hw] at hgranted hraw hstate
  have hshows : ∃ u, autoResync s = resyncBegin u ∧ twinSt u = 2 ∧ u.raw = s.raw := by
    unfold autoResync
    extract_lets cause linked fromUnfit idle m u
    have hidle : idle = true := by
      unfold idle
      rw [hp]
      cases hx : s.twin.retryRaw with
      | none => rfl
      | some r => rw [Option.all_some, decide_eq_true (hr r hx)]; rfl
    have hgrant : m = (true, w) := hgranted
    have hunit : (fromUnfit || twinSt s == 2 || (twinSt s == 1 && fld s Reg.TWIN_STATE 18 16 == 2)) = true := by
      rw [hst]
      simp
    rw [if_neg (by rw [hidle, hf, hunit]; decide), hgrant, Bool.not_true, if_neg Bool.false_ne_true]
    refine ⟨u, rfl, ?_⟩
    unfold u
    rw [hgrant]
    split
    · exact ⟨hstate, hraw⟩
    · exact ⟨hstate, hraw⟩
  obtain ⟨u, e, hu, hraw⟩ := hshows
  have hb := resyncs_begin (s := u) (by rw [hu]; decide)
  refine completes_quiet_eq rfl h e ?_
  generalize resyncBegin u = t at hb
  exact ⟨hb.phase, hb.state, hb.since.trans hraw⟩

/-! ### Swap and rejoin (R379, R386) -/

theorem rejoinReady_congr (hs : rd t Reg.TWIN_STATE = rd s Reg.TWIN_STATE) (ht : t.twin.matched = s.twin.matched) (hr : t.ring = s.ring)
    (hraw : t.raw = s.raw) : rejoinReady t = rejoinReady s := by
  rw [rejoinReady, rejoinReady, twinSt_of_rd hs, fld, fld, fbit, hs, ht, hr, hraw]
  rfl

/-- The conditions of a rejoin say that the head is in split service and holds the journal. -/
theorem rejoinReady_split (h : rejoinReady s = true) : twinSt s = 5 ∧ fbit s Reg.TWIN_STATE 5 = true := by
  simp only [rejoinReady, Bool.and_eq_true, beq_iff_eq] at h
  obtain ⟨⟨⟨⟨⟨⟨hst, -⟩, hj⟩, -⟩, -⟩, -⟩, -⟩ := h
  exact ⟨hst, hj⟩

theorem completes_swap (hr : Reaches s port Reg.TWIN_CTRL 2) (hi : fbit s Reg.TWIN_CTRL_STATUS 0 = false) (hst : twinSt s = 1)
    (ho : fld s Reg.TWIN_STATE 18 16 = 3) (hn : 1024 ≤ s.twin.matched) (hm : (holders s).all (compat 2) = true) :
    Completes (.swap port) s fun t => t.twin.action = 1 ∧ t.twin.actionCycle = s.cyc.count + 16 ∧ Acting t 2 := by
  have hshows : ∃ w, swapCmd (okBus s) = twinMod w (fun t => { t with action := 1, actionCycle := s.cyc.count + 16, acked := false }) ∧
      Acting w 2 := by
    unfold swapCmd
    extract_lets u m
    have hu : twinSt u = 1 := (twinSt_of_rd (rd_twinAction_ne (okBus s) 2 (by decide))).trans hst
    have hother : fld u Reg.TWIN_STATE 18 16 = 3 := (congrArg (wbits · 18 16) (rd_twinAction_ne (okBus s) 2 (by decide))).trans ho
    have hmatched : u.twin.matched = s.twin.matched := rfl
    have hgrant : m = (true, maintHeld u 2) :=
      maintReq_granted (by decide) (by rw [holders_of_rd (rd_twinAction_ne (okBus s) 2 (by decide))]; exact hm)
    have hacting : Acting u 2 := acting_twinAction (okBus s) (by decide)
    have hcycle : u.cyc = s.cyc := rfl
    clear_value u
    refine ⟨maintHeld u 2, ?_, hacting.of_rd (rd_maintHeld_ne u 2 (by decide))⟩
    rw [if_neg (by rw [hu, hother]; decide), hmatched, if_neg (Nat.not_lt.mpr hn), hgrant, if_pos rfl, hcycle]
  obtain ⟨w, e, hacting⟩ := hshows
  exact completes_port_eq (f := fun s => hostWrite s port Reg.TWIN_CTRL 2) rfl
    ((hostWrite_twinCtrl hr).trans ((landTwinCtrl_idle hi).trans e)) ⟨rfl, rfl, hacting⟩

theorem completes_rejoin (hr : Reaches s port Reg.TWIN_CTRL 4) (hi : fbit s Reg.TWIN_CTRL_STATUS 0 = false)
    (hready : rejoinReady s = true) : Completes (.rejoin port) s fun t =>
      t.twin.action = 2 ∧ t.twin.actionCycle = s.cyc.count + 16 ∧ Acting t 3 := by
  have hrd : rd (twinAction (okBus s) 3) Reg.TWIN_STATE = rd s Reg.TWIN_STATE := rd_twinAction_ne (okBus s) 3 (by decide)
  obtain ⟨hst, hj⟩ := rejoinReady_split hready
  have hsplit : twinSt (twinAction (okBus s) 3) = 5 := (twinSt_of_rd hrd).trans hst
  have hjournal : fbit (twinAction (okBus s) 3) Reg.TWIN_STATE 5 = true := by rw [fbit, hrd]; exact hj
  have hstill : rejoinReady (twinAction (okBus s) 3) = true := (rejoinReady_congr hrd rfl rfl rfl).trans hready
  have hacting : Acting (twinAction (okBus s) 3) 3 := acting_twinAction (okBus s) (by decide)
  have hcycle : (twinAction (okBus s) 3).cyc = s.cyc := rfl
  have hcmd : rejoinCmd (okBus s) = rejoinStart (twinAction (okBus s) 3) := by
    rw [rejoinCmd, if_neg (by rw [hsplit, hjournal]; decide), if_pos hstill]
  refine completes_port_eq (f := fun s => hostWrite s port Reg.TWIN_CTRL 4) rfl
    ((hostWrite_twinCtrl hr).trans ((landTwinCtrl_idle hi).trans hcmd)) ?_
  generalize twinAction (okBus s) 3 = u at hacting hcycle
  exact ⟨rfl, congrArg (·.count + 16) hcycle, hacting⟩

theorem exec_autoRejoin {r : Nat} (h : Awake s) (hr : s.twin.rejoinRaw = some r) (ht : r + 100000000 ≤ s.raw)
    (hauto : actF s Reg.TWIN_CFG 6 6 = 1) (ha : s.twin.action = 0) (hready : rejoinReady s = true) : exec .autoRejoin s = .next { s with
        twin := { s.twin with action := 2, actionCycle := s.cyc.count + 16, acked := false, rejoinRaw := none } } := by
  have e : autoRejoin s = rejoinStart s := by
    unfold autoRejoin
    rw [hr]
    dsimp only
    rw [if_pos]
    rw [hauto, ha, hready, decide_eq_true (by omega)]
    rfl
  exact exec_quiet rfl h e rfl rfl rfl

/-- Where an announced swap or rejoin is not acknowledged in time it is cancelled. -/
theorem completes_actionAckTimeout (h : Awake s) (ha : s.twin.action = 1 ∨ s.twin.action = 2) (hn : s.twin.acked = false)
    (ht : (s.twin.actionCycle - s.cyc.count).toNat ≤ 8) : Completes .actionAckTimeout s fun t =>
      t.twin = { s.twin with action := 0, acked := false } ∧ t.mem = s.mem := by
  have hdue : ((s.twin.action == 1 || s.twin.action == 2) && !s.twin.acked && (s.twin.actionCycle - s.cyc.count).toNat ≤ 8) = true := by
    rw [hn, decide_eq_true ht]
    rcases ha with ha | ha <;> rw [ha] <;> rfl
  refine completes_quiet_eq rfl h (if_pos hdue) ⟨?_, rfl⟩
  have hcancel : (cancelAction s).twin = { s.twin with action := 0, acked := false } := by
    unfold cancelAction
    extract_lets a u
    split
    · rw [twinEnd_twin, event_twin, maintRel_twin]
      rfl
    · split
      · rw [twinEnd_twin]
        rfl
      · rfl
  exact hcancel

/-! ### The phases of a resynchronization (R381) -/

/-- What the end of a running resynchronization leaves: no phase shown, its token given up, and the twin state as before. -/
theorem resyncEnd_shows (s : State) (ok : Bool) (h : fld s Reg.TWIN_RESYNC_STATUS 2 0 ≠ 0) :
    rd (resyncEnd s ok) Reg.TWIN_RESYNC_STATUS = 0 ∧ fbit (resyncEnd s ok) Reg.FPM_MAINT_STATUS 3 = false ∧
      rd (resyncEnd s ok) Reg.TWIN_STATE = rd s Reg.TWIN_STATE := by
  unfold resyncEnd
  rw [if_neg (by simpa using h)]
  extract_lets u v w a
  have hu {b : Nat} (hb : b ≠ Reg.TWIN_RESYNC_TIME) : rd u b = rd (wr s Reg.TWIN_RESYNC_STATUS 0) b := rd_wr_ne _ _ hb
  have hv {b : Nat} (hb : b ≠ Reg.FPM_MAINT_STATUS) : rd v b = rd u b := rd_maintRel_ne _ 3 hb
  have hfree : fbit v Reg.FPM_MAINT_STATUS 3 = false := fbit_maintRel _ (by decide) (by decide)
  refine ⟨?_, ?_, ?_⟩
  · rw [rd_twinEnd_ne _ _ _ (by decide), rd_event _ _ _ _ _ (by decide), hv (by decide), hu (by decide), rd_wr_same]
  · rw [fbit, rd_twinEnd_ne _ _ _ (by decide), rd_event _ _ _ _ _ (by decide)]
    exact hfree
  · rw [rd_twinEnd_ne _ _ _ (by decide), rd_event _ _ _ _ _ (by decide), hv (by decide), hu (by decide), rd_wr_ne _ _ (by decide)]

/-- What UNFIT leaves of a running resynchronization. -/
theorem unfit_ends (s : State) (c : Nat) (h : fld s Reg.TWIN_RESYNC_STATUS 2 0 ≠ 0) :
    twinSt (unfit s c) = 4 ∧ rd (unfit s c) Reg.TWIN_RESYNC_STATUS = 0 ∧ fbit (unfit s c) Reg.FPM_MAINT_STATUS 3 = false := by
  unfold unfit
  extract_lets hour cause u
  obtain ⟨hphase, hfree, -⟩ := resyncEnd_shows s false h
  have hu : rd u Reg.TWIN_RESYNC_STATUS = 0 ∧ fbit u Reg.FPM_MAINT_STATUS 3 = false := ⟨hphase, hfree⟩
  clear_value u
  obtain ⟨hphase, hfree⟩ := hu
  refine ⟨?_, ?_, ?_⟩
  · rw [twinSt, fld_event _ _ _ _ _ _ _ (by decide)]
    exact twinSt_setTwin _ _ _
  · rw [rd_event _ _ _ _ _ (by decide), rd_setTwin _ _ _ (by decide) (by decide) (by decide)]
    exact hphase
  · rw [fbit_event _ _ _ _ _ _ (by decide), fbit, rd_setTwin _ _ _ (by decide) (by decide) (by decide)]
    exact hfree

theorem completes_resyncTimeout (h : Awake s) (hp : fld s Reg.TWIN_RESYNC_STATUS 2 0 ≠ 0) (ht : s.twin.resyncRaw + 2000000000 ≤ s.raw)
    (hst : twinSt s = 2) : Completes .resyncTimeout s fun t =>
      twinSt t = 4 ∧ rd t Reg.TWIN_RESYNC_STATUS = 0 ∧ fbit t Reg.FPM_MAINT_STATUS 3 = false := by
  have e : resyncTimeout s = unfit s 5 := by
    refine (if_pos ?_).trans (if_pos (beq_iff_eq.mpr hst))
    rw [Bool.and_eq_true, bne_iff_ne, decide_eq_true_eq]
    exact ⟨hp, by omega⟩
  have hu := unfit_ends s 5 hp
  refine completes_quiet_eq rfl h e ?_
  generalize unfit s 5 = t at hu
  exact hu

theorem completes_phase_copied (h : Awake s) (hp : fld s Reg.TWIN_RESYNC_STATUS 2 0 = 1) (hn : s.twin.pages = []) :
    Completes .resyncPhaseDone s fun t => fld t Reg.TWIN_RESYNC_STATUS 2 0 = 2 ∧ t.twin = s.twin := by
  have e : resyncPhase s = setF s Reg.TWIN_RESYNC_STATUS 2 0 2 := by
    unfold resyncPhase
    rw [hp]
    dsimp only
    rw [hn]
    rfl
  exact completes_run_eq rfl h e ⟨fld_setF _ _ _ _ _ (by decide) (by decide), rfl⟩

theorem completes_phase_dirty (h : Awake s) (hp : fld s Reg.TWIN_RESYNC_STATUS 2 0 = 2) (hn : s.twin.pages.length ≤ 1024)
    (hst : twinSt s = 1) : Completes .resyncPhaseDone s fun t => fld t Reg.TWIN_RESYNC_STATUS 2 0 = 3 ∧
      t.twin = { s.twin with action := 3, actionCycle := s.cyc.count + 16, acked := false } := by
  have e : resyncPhase s = setF (twinMod s fun t => { t with action := 3, actionCycle := s.cyc.count + 16, acked := false })
      Reg.TWIN_RESYNC_STATUS 2 0 3 := by
    unfold resyncPhase
    rw [hp]
    dsimp only
    rw [if_neg (Nat.not_lt.mpr hn), hst]
    rfl
  exact completes_run_eq rfl h e ⟨fld_setF _ _ _ _ _ (by decide) (by decide), rfl⟩

theorem completes_phase_compared (h : Awake s) (hp : fld s Reg.TWIN_RESYNC_STATUS 2 0 = 5) (hn : 32 ≤ s.twin.matched)
    (hst : twinSt s = 2) : Completes .resyncPhaseDone s fun t =>
      twinSt t = 3 ∧ rd t Reg.TWIN_RESYNC_STATUS = 0 ∧ fbit t Reg.FPM_MAINT_STATUS 3 = false := by
  obtain ⟨hphase, hfree, hstate⟩ := resyncEnd_shows s true (by rw [hp]; decide)
  have hend : twinSt (resyncEnd s true) = 2 := (twinSt_of_rd hstate).trans hst
  have e : resyncPhase s = setTwin (resyncEnd s true) 3 0 := by
    unfold resyncPhase
    rw [hp]
    dsimp only
    rw [if_neg (Nat.not_lt.mpr hn)]
    generalize resyncEnd s true = u at hend
    rw [hend]
    exact if_pos rfl
  have hstep := twinSt_setTwin (resyncEnd s true) 3 0
  have hidle := (rd_setTwin (resyncEnd s true) 3 0 (by decide) (by decide) (by decide)).trans hphase
  have hgiven : fbit (setTwin (resyncEnd s true) 3 0) Reg.FPM_MAINT_STATUS 3 = false :=
    (congrArg (wbit · 3) (rd_setTwin (resyncEnd s true) 3 0 (by decide) (by decide) (by decide))).trans hfree
  refine completes_run_eq rfl h e ?_
  generalize setTwin (resyncEnd s true) 3 0 = t at hstep hidle hgiven
  exact ⟨hstep, hidle, hgiven⟩

end actions

/-- Settles O34, action by action. -/
theorem twinActionsComplete : Obligations.TwinActionsComplete := by
  unfold Obligations.TwinActionsComplete
  intro s h
  exact ⟨fun _ hr hi hst _ hf hm => completes_resync hr hi hst hf hm, fun _ hr hi hst ho hn hm => completes_swap hr hi hst ho hn hm,
    fun _ hr hi hready => completes_rejoin hr hi hready, fun _ hr hi hst hc hf hm => completes_release hr hi hst hc hf hm,
    fun hst hf hp hr hm => completes_autoResync h hst hf hp hr hm,
    fun _ hr ht hauto ha hready => exec_autoRejoin h hr ht hauto ha hready, completes_phase_copied h, completes_phase_dirty h,
    completes_phase_compared h, completes_resyncTimeout h, completes_actionAckTimeout h⟩

end Sys2Proof.Machine

/-! ## The frames of the twin link (R353-R381) -/

namespace Sys2Proof.Machine

section frames

variable {s t u : State} {f : List Byte} {ok : Bool}

/-! ### Frames that go out (R353) -/

/-- A frame other than RETURN goes out where the head may send, or waits for the returning shuttle. -/
theorem sendTwin_goes {ft : Nat} {b : List Byte} (h : TwinSends s) (hft : ft ≠ 0x23) : FrameGoes s (sendTwin s ft b) ft b := by
  obtain ⟨hpair, hlock, htx⟩ := h
  rw [sendTwin, if_neg (by rw [hpair, hlock, htx]; decide), bne_iff_ne.mpr hft, Bool.true_and]
  unfold FrameGoes
  split
  · exact ⟨rfl, rfl, rfl⟩
  · exact ⟨⟨_, rfl⟩, rfl, rfl⟩

/-- A frame goes in the same way from states that differ in the twin's other records only. -/
theorem FrameGoes.of_delays {ft : Nat} {b : List Byte} (h : FrameGoes u t ft b) (hd : delaysReturn u (58 + b.length) = delaysReturn s (58 + b.length))
    (ho : u.out = s.out) (hw : u.twin.delayed = s.twin.delayed) (hq : u.twin.seq = s.twin.seq) : FrameGoes s t ft b := by
  unfold FrameGoes at h ⊢
  rw [hd, ho, hw, hq] at h
  exact h

theorem completes_helloSend (h : Awake s) (hf : s.twin.formed = false) (hs : TwinSends s)
    (hr : ∀ r, s.twin.helloRaw = some r → r + 1000000 ≤ s.raw) : Completes .helloSend s fun t =>
      FrameGoes s t 0x20 (leBytes 4 s.twin.cfgSetHash.toNat ++ leBytes 4 s.twin.manifestHash.toNat ++ leBytes 4 s.ring.cfgHash.toNat ++
        zeros 4) ∧ t.twin.helloRaw = some s.raw ∧ (∀ a, rd t a = rd s a) := by
  have hdue : (s.twin.formed || s.twin.helloRaw.any fun r => s.raw < r + 1000000) = false := by
    rw [hf, Bool.false_or]
    cases hx : s.twin.helloRaw with
    | none => rfl
    | some r =>
      rw [Option.any_some, decide_eq_false (Nat.not_lt.mpr (hr r hx))]
  have e : helloTimer s = sendHello s := if_neg (by rw [hdue]; decide)
  have hgoes : FrameGoes s (sendHello s) 0x20 (leBytes 4 s.twin.cfgSetHash.toNat ++ leBytes 4 s.twin.manifestHash.toNat ++
      leBytes 4 s.ring.cfgHash.toNat ++ zeros 4) :=
    (sendTwin_goes (s := twinMod s fun t => { t with helloRaw := some s.raw }) hs (by decide)).of_delays rfl rfl rfl rfl
  have hraw : (sendHello s).twin.helloRaw = some s.raw := by
    obtain ⟨o, d, q, e⟩ := sendHello_frame s
    rw [e]
  have hrd := rd_sendHello s
  refine completes_quiet_eq rfl h e ?_
  generalize sendHello s = t at hgoes hraw hrd
  exact ⟨hgoes, hraw, hrd⟩

theorem completes_cycleA_send (h : Awake s) (hs : TwinSends s) (hj : fbit s Reg.TWIN_STATE 5 = true) (hf : s.twin.frozen = [])
    (hp : s.twin.pages = []) (hn : s.twin.snapshot = []) : Completes .twinCycleSend s fun t =>
      (∃ body, body.take 8 = leBytes 8 (rd64 s Reg.TWIN_DIGEST_LO) ∧ FrameGoes s t 0x21 body) ∧
        t.twin.kind3Lost = [] ∧ (∀ a, rd t a = rd s a) := by
  obtain ⟨rest, hsend⟩ : ∃ rest, sendCycleA s =
      sendTwin (twinMod s fun t => { t with kind3Lost := [] }) 0x21 (leBytes 8 (rd64 s Reg.TWIN_DIGEST_LO) ++ rest) := by
    unfold sendCycleA
    extract_lets t evs body
    refine ⟨body.drop 8, congrArg (sendTwin _ _) ?_⟩
    simp only [body, List.append_assoc]
    rw [List.drop_left' (length_leBytes _ _)]
  have hgoes : FrameGoes s (sendCycleA s) 0x21 (leBytes 8 (rd64 s Reg.TWIN_DIGEST_LO) ++ rest) := by
    rw [hsend]
    exact (sendTwin_goes (s := twinMod s fun t => { t with kind3Lost := [] }) hs (by decide)).of_delays rfl rfl rfl rfl
  have htwin : (sendCycleA s).twin.kind3Lost = [] ∧ sendPage (sendCycleA s) = sendCycleA s := by
    obtain ⟨o, d, q, e⟩ := sendTwin_frame (twinMod s fun t => { t with kind3Lost := [] }) 0x21
      (leBytes 8 (rd64 s Reg.TWIN_DIGEST_LO) ++ rest)
    rw [hsend, e]
    refine ⟨rfl, ?_⟩
    unfold sendPage
    dsimp only [twinMod]
    rw [hf, hp, hn]
  have hrd (a : Nat) : rd (sendCycleA s) a = rd s a := by
    rw [hsend]
    exact rd_sendTwin _ _ _ _
  have e : twinCycleSend s = sendCycleA s := by
    rw [twinCycleSend, if_neg (by rw [hs.1]; decide), if_pos hj, htwin.2]
  refine completes_quiet_eq rfl h e ?_
  generalize sendCycleA s = t at hgoes htwin hrd
  exact ⟨⟨_, List.take_left' (length_leBytes _ _), hgoes⟩, htwin.1, hrd⟩

theorem completes_cycleS_send (h : Awake s) (hs : TwinSends s) (hj : fbit s Reg.TWIN_STATE 5 = false) (hst : 2 ≤ twinSt s) :
    Completes .twinCycleSend s fun t => (∃ body, body.length = 24 ∧ FrameGoes s t 0x22 body) ∧ (∀ a, rd t a = rd s a) := by
  obtain ⟨body, hlen, hsend⟩ : ∃ body, body.length = 24 ∧ sendCycleS s = sendTwin s 0x22 body := by
    unfold sendCycleS
    extract_lets t d
    refine ⟨_, ?_, rfl⟩
    simp only [List.length_append, length_leBytes, List.length_cons, List.length_nil]
  have hgoes : FrameGoes s (sendCycleS s) 0x22 body := by
    rw [hsend]
    exact sendTwin_goes hs (by decide)
  have hrd (a : Nat) : rd (sendCycleS s) a = rd s a := by
    rw [hsend]
    exact rd_sendTwin _ _ _ _
  have e : twinCycleSend s = sendCycleS s := by
    rw [twinCycleSend, if_neg (by rw [hs.1]; decide), if_neg (by rw [hj]; decide), if_pos hst]
  refine completes_quiet_eq rfl h e ?_
  generalize sendCycleS s = t at hgoes hrd
  exact ⟨⟨body, hlen, hgoes⟩, hrd⟩

/-! ### Frames that arrive (R354, R390) -/

/-- A head that has heard its twin: what TWIN_STATE shows of the twin. -/
def heardTwin (s : State) (f : List Byte) : State :=
  setF (setBit (twinMod s fun t => { t with silent := 0 }) Reg.TWIN_STATE 4 true) Reg.TWIN_STATE 18 16 (byteAt f 2 % 8)

/-- A frame of the twin is taken by its meaning. -/
theorem twinRecv_hears (h : TwinHears s f ok) (take : State → List Byte → State) : twinRecv s f ok take = take (heardTwin s f) (twinBody f) := by
  obtain ⟨hpair, hok⟩ := h
  rw [twinRecv, twinHeard, if_neg (by rw [hpair]; decide), if_neg (by rw [hok]; decide)]
  rfl

theorem rd_heardTwin_ne (s : State) (f : List Byte) {a : Nat} (h : a ≠ Reg.TWIN_STATE) : rd (heardTwin s f) a = rd s a :=
  (rd_setF_ne _ _ _ _ h).trans (rd_setBit_ne _ _ _ h)

theorem fld_heardTwin (s : State) (f : List Byte) {hi lo : Nat} (h : hi < 4 ∨ 4 < lo ∧ hi < 16) :
    fld (heardTwin s f) Reg.TWIN_STATE hi lo = fld s Reg.TWIN_STATE hi lo :=
  (fld_setF_ne _ _ _ _ _ _ _ (by decide) (by decide) (by omega)).trans (fld_setBit_ne _ _ _ _ _ _ (by decide) (by omega))

theorem fbit_heardTwin (s : State) (f : List Byte) {i : Nat} (h : i ≠ 4) (hi : i < 16) :
    fbit (heardTwin s f) Reg.TWIN_STATE i = fbit s Reg.TWIN_STATE i :=
  (fbit_setF_ne _ _ _ _ _ _ (by decide) (by decide) (by omega)).trans (fbit_setBit_ne _ _ _ _ _ (by decide) h)

theorem fbit_heardTwin_valid (s : State) (f : List Byte) : fbit (heardTwin s f) Reg.TWIN_STATE 4 = true :=
  (fbit_setF_ne _ _ _ _ _ _ (by decide) (by decide) (by decide)).trans (fbit_setBit _ _ _ _ (by decide))

theorem twinSt_heardTwin (s : State) (f : List Byte) : twinSt (heardTwin s f) = twinSt s := fld_heardTwin s f (by decide)

theorem ringSt_heardTwin (s : State) (f : List Byte) : ringSt (heardTwin s f) = ringSt s :=
  congrArg (wbits · 2 0) (rd_heardTwin_ne s f (by decide))

theorem mirrors_congr (hs : twinSt t = twinSt s) (hf : t.twin.formerStandby = s.twin.formerStandby) : mirrors t = mirrors s := by
  rw [mirrors, mirrors, hs, hf]

theorem mirrors_heardTwin (s : State) (f : List Byte) : mirrors (heardTwin s f) = mirrors s := mirrors_congr (twinSt_heardTwin s f) rfl

theorem stamps_heardTwin (s : State) (f : List Byte) : stamps (heardTwin s f) = stamps s := by
  rw [stamps, stamps, fbit_heardTwin s f (by decide) (by decide)]
  rfl

theorem leads_heardTwin (s : State) (f : List Byte) : leads (heardTwin s f) = leads s := by rw [leads, leads, ringSt_heardTwin]

theorem heardTwin_twin (s : State) (f : List Byte) : (heardTwin s f).twin = { s.twin with silent := 0 } := rfl

/-! ### HELLO (R356) -/

/-- What HELLO with the same hashes leaves: a formed pair of which valid frames arrive, the same manifest, and the memories as before. -/
theorem takeHello_same {b : List Byte} (hcfg : field b 0 4 = s.twin.cfgSetHash.toNat) (hman : field b 4 4 = s.twin.manifestHash.toNat)
    (hring : field b 8 4 = s.ring.cfgHash.toNat) (hvalid : fbit s Reg.TWIN_STATE 4 = true) :
    (takeHello s b).twin.formed = true ∧ fbit (takeHello s b) Reg.TWIN_STATE 4 = true ∧ (takeHello s b).mem = s.mem ∧
      (takeHello s b).twin.manifestHash = s.twin.manifestHash := by
  unfold takeHello
  extract_lets same v w x
  have hsame : same = true := by
    unfold same
    rw [hcfg, hman, hring]
    simp only [beq_self_eq_true, Bool.and_true]
  have hx : x.twin.formed = true ∧ fbit x Reg.TWIN_STATE 4 = true ∧ x.mem = s.mem ∧ x.twin.manifestHash = s.twin.manifestHash := by
    unfold x
    split
    · exact ⟨rfl, (fbit_setF_ne w _ _ _ _ _ (by decide) (by decide) (by decide)).trans hvalid, rfl, rfl⟩
    · exact ⟨rfl, hvalid, rfl, rfl⟩
  rw [if_neg (by rw [hsame]; decide)]
  clear_value x
  split
  · obtain ⟨ar, ah, hr, d, q, e⟩ := setTwin_twin x 2 0
    obtain ⟨m, hm⟩ := rd_setTwin_state x 2 0
    obtain ⟨hformed, hbit, hmem, hman⟩ := hx
    refine ⟨by rw [e]; exact hformed, ?_, (setTwin_mem x 2 0).trans hmem, by rw [e]; exact hman⟩
    rw [fbit, hm]
    exact (fbit_setBit_ne _ _ _ _ _ (by decide) (by decide)).trans ((fbit_setBit_ne _ _ _ _ _ (by decide) (by decide)).trans
      ((fbit_setF_ne _ _ _ _ _ _ (by decide) (by decide) (by decide)).trans
        ((fbit_setF_ne _ _ _ _ _ _ (by decide) (by decide) (by decide)).trans hbit)))
  · exact hx

theorem completes_hello_same (h : Awake s) (hh : TwinHears s f ok) (hcfg : field (twinBody f) 0 4 = s.twin.cfgSetHash.toNat)
    (hman : field (twinBody f) 4 4 = s.twin.manifestHash.toNat) (hring : field (twinBody f) 8 4 = s.ring.cfgHash.toNat) :
    Completes (.hello f ok) s fun t => t.twin.formed = true ∧ fbit t Reg.TWIN_STATE 4 = true ∧ t.mem = s.mem := by
  obtain ⟨hformed, hvalid, hmem, hmanifest⟩ := takeHello_same (s := heardTwin s f) (b := twinBody f) hcfg hman hring (fbit_heardTwin_valid s f)
  have e : (fun s => twinRecv s f ok fun s b => helloManifest (takeHello s b) b) s = takeHello (heardTwin s f) (twinBody f) := by
    refine (twinRecv_hears hh _).trans (if_neg ?_)
    rw [hmanifest, heardTwin_twin, hman]
    simp
  refine completes_run_eq (f := fun s => twinRecv s f ok fun s b => helloManifest (takeHello s b) b) rfl h e ?_
  generalize takeHello (heardTwin s f) (twinBody f) = t at hformed hvalid hmem
  exact ⟨hformed, hvalid, hmem⟩

theorem completes_hello_differs (h : Awake s) (hh : TwinHears s f ok) (hcfg : field (twinBody f) 0 4 ≠ s.twin.cfgSetHash.toNat)
    (hl : leads s = true) (ht : onTrial s = false) : Completes (.hello f ok) s fun t =>
      t.twin.formed = false ∧ fld t Reg.TWIN_STATE 11 8 = 4 := by
  have hlead : leads (heardTwin s f) = true := (leads_heardTwin s f).trans hl
  have htrial : onTrial (heardTwin s f) = false := (congrArg (wbit · 6) (rd_heardTwin_ne s f (by decide))).trans ht
  have hdiffers : field (twinBody f) 0 4 ≠ (heardTwin s f).twin.cfgSetHash.toNat := hcfg
  obtain ⟨w, htake, hw, hformed⟩ : ∃ w, takeHello (heardTwin s f) (twinBody f) = setCause w 4 ∧ onTrial w = false ∧ w.twin.formed = false := by
    generalize heardTwin s f = u at hlead htrial hdiffers
    unfold takeHello
    extract_lets same v w x
    have hsame : same = false := by
      unfold same
      rw [beq_eq_false_iff_ne.mpr hdiffers]
      rfl
    have hv : leads v = true := by
      have hr : ringSt v = ringSt u := fld_event _ _ _ _ _ _ _ (by decide)
      rw [leads, hr]
      exact hlead
    refine ⟨v, ?_, (fbit_event _ _ _ _ _ _ (by decide)).trans htrial, congrArg (·.formed) (event_twin _ _ _ _ _)⟩
    rw [if_pos (by rw [hsame]; decide), if_pos hv]
  have e : (fun s => twinRecv s f ok fun s b => helloManifest (takeHello s b) b) s = setCause w 4 := by
    refine (twinRecv_hears hh _).trans ?_
    rw [htake]
    have hkept : onTrial (setCause w 4) = false := (congrArg (wbit · 6) (rd_setF_ne w _ _ _ (by decide))).trans hw
    exact if_neg (by rw [hkept, Bool.false_and]; exact Bool.false_ne_true)
  have hshown : (setCause w 4).twin.formed = false ∧ fld (setCause w 4) Reg.TWIN_STATE 11 8 = 4 :=
    ⟨(congrArg (·.formed) (setF_twin w _ _ _ _)).trans hformed, fld_setF _ _ _ _ _ (by decide) (by decide)⟩
  refine completes_run_eq (f := fun s => twinRecv s f ok fun s b => helloManifest (takeHello s b) b) rfl h e ?_
  generalize setCause w 4 = t at hshown
  exact hshown

/-! ### CYCLE_A and CYCLE_S (R361, R370) -/

/-- What a CYCLE_A delivers, with what decides whether its shuttle is built at once. -/
def delivered (s : State) : Option (List Byte) × Word × Bool × Bool :=
  (s.twin.cycleA, s.twin.fieldIn, s.twin.motionDue, s.ring.launched)

theorem delivered_of (ht : t.twin = s.twin) (hr : t.ring = s.ring) : delivered t = delivered s := by
  rw [delivered, ht, hr]
  rfl

theorem delivered_event (s : State) (b e o d : Nat) : delivered (event s b e o d) = delivered s :=
  delivered_of (event_twin _ _ _ _ _) (event_ring _ _ _ _ _)

theorem delivered_setF (s : State) (a hi lo v : Nat) : delivered (setF s a hi lo v) = delivered s :=
  delivered_of (setF_twin _ _ _ _ _) (setF_ring _ _ _ _ _)

theorem delivered_setBit (s : State) (a i : Nat) (b : Bool) : delivered (setBit s a i b) = delivered s :=
  delivered_of (setBit_twin _ _ _ _) (setBit_ring _ _ _ _)

theorem delivered_maintReq (s : State) (act : Nat) : delivered (maintReq s act).2 = delivered s := by
  unfold maintReq
  extract_lets hs u
  have hu : delivered u = delivered s := delivered_setF _ _ _ _ _
  split
  · exact (delivered_setF _ _ _ _ _).trans ((delivered_setBit _ _ _ _).trans hu)
  · exact (delivered_event _ _ _ _ _).trans ((delivered_setF _ _ _ _ _).trans hu)

theorem delivered_setTwin (s : State) (st c : Nat) : delivered (setTwin s st c) = delivered s := by
  have hring : (setTwin s st c).ring = s.ring := by
    unfold setTwin
    extract_lets old u v w x y z
    have hy : y.ring = s.ring := by
      unfold y x w
      split <;> rfl
    have hz : z.ring = y.ring := by
      unfold z
      split
      · rfl
      · obtain ⟨o, d, q, e⟩ := sendHello_frame y
        rw [e]
    rw [showFbc_ring, hz, hy]
  obtain ⟨ar, ah, hr, d, q, e⟩ := setTwin_twin s st c
  rw [delivered, hring, e]
  rfl

theorem delivered_resyncEnd (s : State) (ok : Bool) : delivered (resyncEnd s ok) = delivered s := by
  have hring : (resyncEnd s ok).ring = s.ring := by
    unfold resyncEnd
    split
    · rfl
    · extract_lets u v w a
      have hend : (twinEnd w a (if ok then 1 else 5)).ring = w.ring := by
        unfold twinEnd
        split <;> rfl
      have hv : v.ring = s.ring := by
        unfold v maintRel
        split
        · rw [setF_ring, setF_ring, setBit_ring]
          rfl
        · rfl
      rw [hend]
      exact (event_ring _ _ _ _ _).trans hv
  obtain ⟨p, n, k, f, h, e⟩ := resyncEnd_twin s ok
  rw [delivered, hring, e]
  rfl

theorem delivered_unfit (s : State) (c : Nat) : delivered (unfit s c) = delivered s := by
  unfold unfit
  extract_lets hour cause u
  exact (delivered_event _ _ _ _ _).trans ((delivered_setTwin _ _ _).trans ((show delivered (twinMod u fun t =>
    { t with resyncs := hour, matched := 0 }) = delivered u from rfl).trans (delivered_resyncEnd s false)))

theorem delivered_compareDigest (s : State) (n : Word) (theirs : Nat) : delivered (compareDigest s n theirs) = delivered s := by
  unfold compareDigest
  split
  · rfl
  · extract_lets u v
    have hv : delivered v = delivered s := delivered_event _ _ _ _ _
    split
    · rfl
    · split
      · split
        · exact (delivered_unfit _ _).trans hv
        · exact hv
      · exact (delivered_unfit _ _).trans hv
      · split
        · exact hv
        · exact hv
      · exact hv

theorem delivered_takeEnc (s : State) (c : Nat) (e : List Byte) : delivered (takeEnc s c e) = delivered s := rfl

theorem delivered_keepFrame (s : State) (b : List Byte) : delivered (keepFrame s b) = delivered s := by
  unfold keepFrame
  extract_lets p
  split <;> rfl

theorem delivered_keepEntries (s : State) (es : List JEntry) : delivered (keepEntries s es) = delivered s := rfl

theorem delivered_actionGrant (s : State) (action : Nat) (a : Bool) : delivered (actionGrant s action a).2 = delivered s := by
  unfold actionGrant
  split
  · split
    · exact delivered_maintReq _ _
    · rfl
  · split
    · exact delivered_maintReq _ _
    · rfl
  · rfl
  · rfl
  · rfl

/-- What a CYCLE_A delivers to a head that mirrors its twin. -/
theorem delivered_takeCycleA {b : List Byte} {a : Bool} (h : mirrors s = true) :
    delivered (takeCycleA s b a) = (some b, word (field b 72 4), s.twin.motionDue, s.ring.launched) := by
  unfold takeCycleA
  rw [if_neg (by rw [h]; decide)]
  extract_lets nEvt evs u v w x act cyc g k y z
  have hu : delivered u = (some b, word (field b 72 4), s.twin.motionDue, s.ring.launched) := rfl
  have hv : delivered v = delivered u := by
    unfold v
    refine foldl_keeps delivered (fun s c => ?_) _ _
    split
    · rfl
    · exact delivered_takeEnc _ _ _
  have hw : delivered w = delivered v := by
    unfold w
    refine foldl_keeps delivered (fun s e => ?_) _ _
    rfl
  have hx : delivered x = delivered w := (delivered_keepEntries _ _).trans (delivered_keepFrame _ _)
  have hy : delivered y = delivered x := by
    unfold y
    split
    · split <;> rfl
    · split
      · rfl
      · have hg : delivered g.2 = delivered x := delivered_actionGrant _ _ _
        split
        · split
          · exact (delivered_setF _ _ _ _ _).trans hg
          · exact hg
        · exact hg
  have hz : delivered z = delivered y := delivered_event _ _ _ _ _
  rw [← hu, ← hv, ← hw, ← hx, ← hy]
  clear_value y
  split
  · rfl
  · split
    · rw [← hz]
      split
      · exact delivered_setF _ _ _ _ _
      · exact delivered_unfit _ _
    · rfl

theorem completes_cycleA (h : Awake s) (hh : TwinHears s f ok) (hm : mirrors s = true) (hc : field f 4 4 = s.cyc.count.toNat)
    (hd : s.twin.motionDue = false) (hl : s.ring.launched = true) : Completes (.cycleA f ok) s fun t =>
      t.twin.cycleA = some (twinBody f) ∧ t.twin.fieldIn = word (field (twinBody f) 72 4) := by
  have hmirrors : mirrors (heardTwin s f) = true := (mirrors_heardTwin s f).trans hm
  have hcycle : field f 4 4 = (heardTwin s f).cyc.count.toNat := hc
  have hlast : ((heardTwin s f).twin.motionDue, (heardTwin s f).ring.launched) = (false, true) := Prod.ext hd hl
  obtain ⟨w, n, e, hw⟩ : ∃ w n, cycleAFrame s f ok = compareDigest w n (field (twinBody f) 0 8) ∧
      delivered w = (some (twinBody f), word (field (twinBody f) 72 4), false, true) := by
    unfold cycleAFrame
    rw [twinRecv_hears hh]
    generalize heardTwin s f = u at hmirrors hcycle hlast
    dsimp only
    obtain ⟨hmotion, hlaunched⟩ := Prod.mk.inj hlast
    rw [if_neg (by rw [hcycle, hmirrors]; simp)]
    have ha := delivered_takeCycleA (b := twinBody f) (a := u.sec.actCycle == some (word (field (twinBody f) 144 4))) hmirrors
    rw [hmotion, hlaunched] at ha
    generalize takeCycleA u (twinBody f) (u.sec.actCycle == some (word (field (twinBody f) 144 4))) = w at ha
    obtain ⟨-, hfin⟩ := Prod.mk.inj ha
    obtain ⟨-, hfin⟩ := Prod.mk.inj hfin
    obtain ⟨hidle, hbuilt⟩ := Prod.mk.inj hfin
    refine ⟨w, w.cyc.count, ?_, ha⟩
    rw [motionNow, if_neg (by rw [hidle]; decide), standbyBuild, if_pos (by rw [hbuilt, Bool.or_true])]
  have ht := (delivered_compareDigest w n (field (twinBody f) 0 8)).trans hw
  refine completes_run_eq (f := fun s => cycleAFrame s f ok) rfl h e ?_
  generalize compareDigest w n (field (twinBody f) 0 8) = t at ht
  obtain ⟨hframe, hrest⟩ := Prod.mk.inj ht
  exact ⟨hframe, (Prod.mk.inj hrest).1⟩

theorem completes_cycleS (h : Awake s) (hh : TwinHears s f ok) (hst : stamps s = true) : Completes (.cycleS f ok) s fun t =>
      t.twin.ackHi = field (twinBody f) 8 4 ∧ t.twin.gotFirst = true ∧ t.mem = s.mem := by
  have hstamps : stamps (heardTwin s f) = true := (stamps_heardTwin s f).trans hst
  obtain ⟨w, e, hw⟩ : ∃ w, (fun s => twinRecv s f ok fun s b => takeCycleS s b (word (field f 4 4))) s = w ∧
      w.twin.ackHi = field (twinBody f) 8 4 ∧ w.twin.gotFirst = true := by
    refine ⟨_, twinRecv_hears hh _, ?_⟩
    generalize heardTwin s f = u at hstamps
    unfold takeCycleS
    rw [if_neg (by rw [hstamps]; decide)]
    exact ⟨rfl, rfl⟩
  obtain ⟨hack, hfirst⟩ := hw
  exact completes_quiet_eq (f := fun s => twinRecv s f ok fun s b => takeCycleS s b (word (field f 4 4))) rfl h e ⟨hack, hfirst, rfl⟩

/-! ### JOURNAL and SYNC (R366, R381) -/

theorem completes_journal {e : JEntry} (h : Awake s) (hh : TwinHears s f ok) (hm : mirrors s = true)
    (he : parseEntries (twinBody f).length (twinBody f) = [e]) : Completes (.journal f ok) s fun t => t.twin.entries =
        if s.twin.entries.any (fun x => x.seq == e.seq) then s.twin.entries else s.twin.entries ++ [e] := by
  have hmirrors : mirrors (heardTwin s f) = true := (mirrors_heardTwin s f).trans hm
  have hentries : (heardTwin s f).twin.entries = s.twin.entries := rfl
  have hr : twinRecv s f ok takeJournal = keepEntries (heardTwin s f) [e] := by
    rw [twinRecv_hears hh, takeJournal, if_pos hmirrors, he]
  have hkept : (keepEntries (heardTwin s f) [e]).twin.entries =
      if s.twin.entries.any (fun x => x.seq == e.seq) then s.twin.entries else s.twin.entries ++ [e] := by
    rw [← hentries]
    generalize heardTwin s f = u
    rfl
  refine completes_quiet_eq (f := fun s => twinRecv s f ok takeJournal) rfl h hr ?_
  generalize keepEntries (heardTwin s f) [e] = t at hkept
  exact hkept

theorem completes_sync (h : Awake s) (hh : TwinHears s f ok) (hst : twinSt s = 2) (ha : field (twinBody f) 0 4 ≠ 0xFFFFFFFF) :
    Completes (.sync f ok) s fun t =>
      readMem t .bolt (field (twinBody f) 0 4) ((twinBody f).length - 4) = (twinBody f).drop 4 ∧
        ∀ r x, r ≠ .bolt ∨ x < field (twinBody f) 0 4 ∨ field (twinBody f) 0 4 + ((twinBody f).length - 4) ≤ x →
          t.mem.read r x = s.mem.read r x := by
  have hstate : twinSt (heardTwin s f) = 2 := (twinSt_heardTwin s f).trans hst
  have hmem : (heardTwin s f).mem = s.mem := rfl
  have hr : twinRecv s f ok takeSync = writeMem (heardTwin s f) .bolt (field (twinBody f) 0 4) ((twinBody f).drop 4) := by
    rw [twinRecv_hears hh, takeSync, if_neg (by rw [hstate]; decide), if_neg (by simpa using ha)]
  refine completes_run_eq (f := fun s => twinRecv s f ok takeSync) rfl h hr ?_
  generalize heardTwin s f = u at hmem
  have hlen : ((twinBody f).drop 4).length = (twinBody f).length - 4 := List.length_drop
  refine ⟨readMem_writeMem u .bolt _ hlen, fun r x hx => ?_⟩
  rw [← hmem]
  exact read_writes_out _ _ _ _ _ _ (by rw [hlen]; exact hx)

/-! ### RETURN (R360, R376) -/

theorem svcOffset_congr (hr : ringSt t = ringSt s) (h : t.ring = s.ring) : svcOffset t = svcOffset s := by
  rw [svcOffset, svcOffset, carried, carried, fullLayout, fullLayout, hr, h]

/-- Outside a resynchronization a standby keeps no frames (R381). -/
theorem keepFrame_idle {b : List Byte} (h : twinSt s ≠ 2) : keepFrame s b = s := by
  unfold keepFrame
  extract_lets p
  rw [beq_eq_false_iff_ne.mpr h, Bool.false_and, Bool.false_and, if_neg Bool.false_ne_true]

/-- Taking the twin's SSI results changes what is kept of the encoders only. -/
theorem takeSsi_keeps {α : Type} (g : State → α) (hg : ∀ s c x, g (setEncoder s c x) = g s) (s : State) (b : List Byte) :
    g (takeSsi s b) = g s := by
  unfold takeSsi
  refine foldl_keeps g (fun s c => ?_) _ _
  split
  · rfl
  · exact hg _ _ _

theorem rd_takeSsi (s : State) (b : List Byte) (a : Nat) : rd (takeSsi s b) a = rd s a :=
  takeSsi_keeps (fun s => rd s a) (fun _ _ _ => rfl) s b

theorem twinSt_takeSsi (s : State) (b : List Byte) : twinSt (takeSsi s b) = twinSt s := congrArg (wbits · 2 0) (rd_takeSsi s b _)

theorem ringSt_takeSsi (s : State) (b : List Byte) : ringSt (takeSsi s b) = ringSt s := congrArg (wbits · 2 0) (rd_takeSsi s b _)

theorem twin_takeSsi (s : State) (b : List Byte) : (takeSsi s b).twin = s.twin := takeSsi_keeps (fun s => s.twin) setEncoder_twin s b

theorem ring_takeSsi (s : State) (b : List Byte) : (takeSsi s b).ring = s.ring := takeSsi_keeps (fun s => s.ring) setEncoder_ring s b

/-- The active enters split service on its twin's RETURN, of which it keeps the payload, markers and trailer (R376). -/
theorem takeReturn_splits {b : List Byte} (hst : twinSt s = 1) (ho : s.twin.ownRet = none) :
    twinSt (takeReturn s b) = 5 ∧ (takeReturn s b).twin.twinRet = some (b.take (svcOffset s + 1052)) := by
  unfold takeReturn
  extract_lets n u v w
  have hu : twinSt u = 1 := by
    unfold u
    rw [twinSt_takeSsi, keepFrame_idle (by rw [hst]; decide), hst]
  have hown : u.twin.ownRet = none := by
    unfold u
    rw [twin_takeSsi, keepFrame_idle (by rw [hst]; decide), ho]
  clear_value u
  have hv : v = event (setTwin (bump u Reg.TWIN_SPLIT_CNT) 5 0) TWIN 8 := if_pos (beq_iff_eq.mpr hu)
  have hsplit : twinSt v = 5 := by
    rw [hv, twinSt, fld_event _ _ _ _ _ _ _ (by decide)]
    exact twinSt_setTwin _ _ _
  have hnone : v.twin.ownRet = none := by
    obtain ⟨ar, ah, hr, d, q, e⟩ := setTwin_twin (bump u Reg.TWIN_SPLIT_CNT) 5 0
    rw [hv, event_twin, e]
    exact hown
  clear_value v
  rw [if_pos (beq_iff_eq.mpr hsplit)]
  have hwaits : splitTry (twinMod v fun t => { t with twinRet := some (b.take n) }) =
      twinMod v fun t => { t with twinRet := some (b.take n) } := by
    refine (if_pos rfl).trans ?_
    unfold splitFinish
    rw [show (twinMod v fun t => { t with twinRet := some (b.take n) }).twin.ownRet = none from hnone]
  rw [hwaits]
  exact ⟨hsplit, rfl⟩

theorem completes_return_splits (h : Awake s) (hh : TwinHears s f true) (hc : field f 4 4 = s.cyc.count.toNat) (hst : twinSt s = 1)
    (ho : s.twin.ownRet = none) : Completes (.return_ f) s fun t =>
      twinSt t = 5 ∧ t.twin.twinRet = some ((twinBody f).take (svcOffset s + 1052)) := by
  have hcycle : field f 4 4 = (heardTwin s f).cyc.count.toNat := hc
  have hstate : twinSt (heardTwin s f) = 1 := (twinSt_heardTwin s f).trans hst
  have hown : (heardTwin s f).twin.ownRet = none := ho
  have hoffset : svcOffset (heardTwin s f) = svcOffset s := svcOffset_congr (ringSt_heardTwin s f) rfl
  have e : (fun s => twinRecv s f true fun s b => if field f 4 4 == s.cyc.count.toNat then takeReturn s b else s) s =
      takeReturn (heardTwin s f) (twinBody f) := (twinRecv_hears hh _).trans (if_pos (beq_iff_eq.mpr hcycle))
  have ht := takeReturn_splits (b := twinBody f) hstate hown
  rw [hoffset] at ht
  refine completes_run_eq (f := fun s => twinRecv s f true fun s b => if field f 4 4 == s.cyc.count.toNat then takeReturn s b else s)
    rfl h e ?_
  generalize takeReturn (heardTwin s f) (twinBody f) = t at ht
  exact ht

/-- A standby in step completes its cycle with its twin's RETURN (R360). -/
theorem takeReturn_completes {b : List Byte} (hst : twinSt s = 3) (hring : ringSt s = 3) (hr : s.ring.returned = false) :
    (takeReturn s b).ring.returned = true := by
  unfold takeReturn
  extract_lets n u v w
  have hkeep : keepFrame s b = s := keepFrame_idle (by rw [hst]; decide)
  have hu : twinSt u = 3 := by
    unfold u
    rw [twinSt_takeSsi, hkeep, hst]
  have hfollows : ringSt u = 3 := by
    unfold u
    rw [ringSt_takeSsi, hkeep, hring]
  have hopen : u.ring.returned = false := by
    unfold u
    rw [ring_takeSsi, hkeep, hr]
  have hv : v = u := if_neg (by rw [hu]; decide)
  rw [hv]
  clear_value u
  have hmirrors : mirrors u = true := by rw [mirrors, hu]; rfl
  rw [if_neg (by rw [hu]; decide), if_neg (by rw [hmirrors, hfollows, hopen]; decide)]
  rfl

theorem completes_return_step (h : Awake s) (hh : TwinHears s f true) (hc : field f 4 4 = s.cyc.count.toNat) (hst : twinSt s = 3)
    (hring : ringSt s = 3) (hr : s.ring.returned = false) : Completes (.return_ f) s fun t => t.ring.returned = true := by
  have hcycle : field f 4 4 = (heardTwin s f).cyc.count.toNat := hc
  have e : (fun s => twinRecv s f true fun s b => if field f 4 4 == s.cyc.count.toNat then takeReturn s b else s) s =
      takeReturn (heardTwin s f) (twinBody f) := (twinRecv_hears hh _).trans (if_pos (beq_iff_eq.mpr hcycle))
  have ht : (takeReturn (heardTwin s f) (twinBody f)).ring.returned = true :=
    takeReturn_completes ((twinSt_heardTwin s f).trans hst) ((ringSt_heardTwin s f).trans hring) hr
  refine completes_run_eq (f := fun s => twinRecv s f true fun s b => if field f 4 4 == s.cyc.count.toNat then takeReturn s b else s)
    rfl h e ?_
  generalize takeReturn (heardTwin s f) (twinBody f) = t at ht
  exact ht

end frames

/-- Settles O32, frame by frame. -/
theorem twinFramesComplete : Obligations.TwinFramesComplete := by
  unfold Obligations.TwinFramesComplete
  intro s h
  exact ⟨completes_helloSend h, fun _ _ hh hcfg hman hring => completes_hello_same h hh hcfg hman hring,
    fun _ _ hh hcfg hl ht => completes_hello_differs h hh hcfg hl ht, completes_cycleA_send h, completes_cycleS_send h,
    fun _ _ hh hm hc hd hl => completes_cycleA h hh hm hc hd hl, fun _ _ hh hst => completes_cycleS h hh hst,
    fun _ hh hc hst ho => completes_return_splits h hh hc hst ho, fun _ hh hc hst hring hr => completes_return_step h hh hc hst hring hr,
    fun _ _ _ hh hm he => completes_journal h hh hm he, fun _ _ hh hst ha => completes_sync h hh hst ha⟩

end Sys2Proof.Machine

/-! ## Applying a configuration set (R491, R492) -/

namespace Sys2Proof.Machine

section configuration

variable {s t u : State}

/-! ### What the boot after an accepted set leaves of the set (R93, R484, R492) -/

/-- A step leaves what shows which set is in force. -/
structure KeepsSet (s t : State) : Prop where
  status : rd t Reg.SEC_STATUS = rd s Reg.SEC_STATUS
  hash : rd t Reg.SEC_CFG_SET_HASH = rd s Reg.SEC_CFG_SET_HASH
  applied : t.sec.applied = s.sec.applied
  twin : t.twin.cfgSetHash = s.twin.cfgSetHash

namespace KeepsSet

theorem refl (s : State) : KeepsSet s s := ⟨rfl, rfl, rfl, rfl⟩

theorem trans (h : KeepsSet s t) (k : KeepsSet t u) : KeepsSet s u :=
  ⟨k.status.trans h.status, k.hash.trans h.hash, k.applied.trans h.applied, k.twin.trans h.twin⟩

theorem of_regs (hr : t.regs = s.regs) (hs : t.sec = s.sec) (ht : t.twin = s.twin) : KeepsSet s t :=
  ⟨rd_of_regs hr _, rd_of_regs hr _, by rw [hs], by rw [ht]⟩

theorem wr (s : State) {a : Nat} (v : Word) (h : Reg.SEC_STATUS ≠ a) (k : Reg.SEC_CFG_SET_HASH ≠ a) : KeepsSet s (wr s a v) :=
  ⟨rd_wr_ne _ _ h, rd_wr_ne _ _ k, rfl, rfl⟩

theorem setF (s : State) {a : Nat} (hi lo v : Nat) (h : Reg.SEC_STATUS ≠ a) (k : Reg.SEC_CFG_SET_HASH ≠ a) :
    KeepsSet s (setF s a hi lo v) := KeepsSet.wr s _ h k

theorem setBit (s : State) {a : Nat} (i : Nat) (b : Bool) (h : Reg.SEC_STATUS ≠ a) (k : Reg.SEC_CFG_SET_HASH ≠ a) :
    KeepsSet s (setBit s a i b) := KeepsSet.setF s _ _ _ h k

theorem ringMod (s : State) (f : RingState → RingState) : KeepsSet s (ringMod s f) := of_regs rfl rfl rfl

theorem driveTxdis (s : State) : KeepsSet s (driveTxdis s) := by
  obtain ⟨x, o, e⟩ := driveTxdis_frame s
  rw [e]
  exact of_regs rfl rfl rfl

theorem otherDown (s : State) : KeepsSet s (otherDown s) := by
  unfold Machine.otherDown
  split
  · exact setBit _ _ _ (by decide) (by decide)
  · exact refl _

theorem foldl {α : Type} {f : State → α → State} (h : ∀ s a, KeepsSet s (f s a)) (l : List α) (s : State) : KeepsSet s (l.foldl f s) := by
  induction l generalizing s with
  | nil => exact refl s
  | cons a l ih => exact (h s a).trans (ih _)

theorem showFbc (s : State) : KeepsSet s (showFbc s) := by
  obtain ⟨d, o, w, e⟩ := showFbc_frame s
  rw [e]
  exact (of_regs rfl rfl rfl : KeepsSet s { s with fbc := { s.fbc with drives := d }, out := s.out ++ o }).trans
    (wr _ _ (by decide) (by decide))

theorem coldStart (s : State) : KeepsSet s (coldStart s) := by
  unfold Machine.coldStart
  extract_lets named a b u v
  have hu : KeepsSet s u := ringMod _ _
  have hv : KeepsSet u v := (setF (a := Reg.RING_LINK_STATUS) u _ _ _ (by decide) (by decide)).trans
    (setBit (a := Reg.RING_LINK_STATUS) _ _ _ (by decide) (by decide))
  exact hu.trans (hv.trans ((otherDown v).trans ((driveTxdis _).trans (wr _ _ (by decide) (by decide)))))

theorem svcEnd (s : State) (i r : Nat) (d : List Byte) : KeepsSet s (svcEnd s i r d) := by
  unfold Machine.svcEnd
  split
  · exact refl s
  · next q _ =>
    extract_lets u
    have hu : KeepsSet s u := ringMod _ _
    split
    · split
      · exact hu
      · extract_lets ms
        split
        · exact hu.trans (wr _ _ (by decide) (by decide))
        · exact hu.trans (ringMod _ _)
    · exact hu
    · exact hu.trans (ringMod _ _)

theorem svcStop (s : State) : KeepsSet s (svcStop s) := by
  unfold Machine.svcStop
  extract_lets host u lost
  refine KeepsSet.trans (t := u) (foldl (fun s i => ?_) _ _) (ringMod _ _)
  split
  · exact refl s
  · split
    · exact ringMod _ _
    · exact svcEnd _ _ _ _

theorem ringBlind_applied : RingBlind fun s => s.sec.applied :=
  ⟨fun _ _ _ => rfl, fun _ _ => rfl, fun _ _ => rfl, fun s st => by unfold firstIdle; split <;> rfl,
    fun s b e o d => by rw [event_sec]⟩

theorem enterRing (s : State) (st : Nat) : KeepsSet s (enterRing s st) :=
  ⟨(rd_enterRing s st ⟨by decide, by decide, by decide, by decide⟩).trans (rd_setF_ne _ _ _ _ (by decide)),
    (rd_enterRing s st ⟨by decide, by decide, by decide, by decide⟩).trans (rd_setF_ne _ _ _ _ (by decide)),
    ringBlind_applied.enterRing s st, congrArg (·.cfgSetHash) (ringBlind_twin.enterRing s st)⟩

theorem enterListen (s : State) : KeepsSet s (enterListen s) := by
  unfold Machine.enterListen
  extract_lets u v
  have hu : KeepsSet s u := by
    unfold u
    split
    · exact wr _ _ (by decide) (by decide)
    · exact refl s
  exact hu.trans ((svcStop u).trans ((ringMod _ _).trans (enterRing _ _)))

theorem nameLine (s : State) (p : Bool) : KeepsSet s (nameLine s p) := by
  unfold Machine.nameLine
  split
  · exact refl s
  · exact (ringMod _ _).trans ((otherDown _).trans (driveTxdis _))

theorem lineUp (s : State) (p : Bool) : KeepsSet s (lineUp s p) :=
  (setF (a := Reg.RING_LINK_STATUS) s _ _ _ (by decide) (by decide)).trans
    ((setBit (a := Reg.RING_LINK_STATUS) _ _ _ (by decide) (by decide)).trans (ringMod _ _))

theorem linkLock (s : State) (p : Bool) : KeepsSet s (linkLock s p) := by
  unfold Machine.linkLock
  split
  · exact setBit _ _ _ (by decide) (by decide)
  · split
    · exact refl s
    · extract_lets t
      have ht : KeepsSet s t := (setBit s _ _ (by decide) (by decide)).trans ((nameLine _ _).trans (lineUp _ _))
      split
      · exact ht.trans (enterListen t)
      · exact ht

end KeepsSet

/-- The head in which a set is in force under its hash and the line is configured (R93, R492). -/
def setInForce (s : State) (hash : Word) : State :=
  coldStart (showFbc { s with twin := { s.twin with cfgSetHash := hash }, sec := { s.sec with applied := true } })

theorem keepsSet_setInForce (s : State) (hash : Word) :
    KeepsSet { s with twin := { s.twin with cfgSetHash := hash }, sec := { s.sec with applied := true } } (setInForce s hash) :=
  (KeepsSet.showFbc _).trans (KeepsSet.coldStart _)

/-- An accepted set is put in force in a head that shows it running, after which a line with a lock is listened to. -/
theorem setAccepted_eq (s : State) (set : List Byte) : ∃ u, setAccepted s set =
    (if fbit (setInForce u (word (crc32c set))) Reg.RING_LINK_STATUS (lockBit (setInForce u (word (crc32c set))).ring.lineB) then
      linkLock (setInForce u (word (crc32c set))) (setInForce u (word (crc32c set))).ring.lineB
    else setInForce u (word (crc32c set))) ∧
      fld u Reg.SEC_STATUS 2 0 = 3 ∧ rd u Reg.SEC_CFG_SET_HASH = word (crc32c set) := by
  unfold setAccepted
  extract_lets axes u v w quiet power x hash y twin sec z
  refine ⟨y, rfl, ?_, rd_wr_same _ _ _⟩
  rw [fld, rd_wr_ne _ _ (by decide)]
  exact fld_setF _ _ _ _ _ (by decide) (by decide)

/-- What shows the set in force where it has been left. -/
theorem KeepsSet.inForce {hash : Word} (h : KeepsSet (setInForce u hash) t) (hs : fld u Reg.SEC_STATUS 2 0 = 3)
    (hh : rd u Reg.SEC_CFG_SET_HASH = hash) : fld t Reg.SEC_STATUS 2 0 = 3 ∧ t.sec.applied = true ∧
      rd t Reg.SEC_CFG_SET_HASH = hash ∧ t.twin.cfgSetHash = hash := by
  obtain ⟨hstatus, hhash, happ, htwin⟩ := (keepsSet_setInForce u hash).trans h
  exact ⟨(congrArg (wbits · 2 0) hstatus).trans hs, happ, hhash.trans hh, htwin⟩

/-- The set in force after it is accepted (R492). -/
theorem setAccepted_shows (s : State) (set : List Byte) : fld (setAccepted s set) Reg.SEC_STATUS 2 0 = 3 ∧
    (setAccepted s set).sec.applied = true ∧ rd (setAccepted s set) Reg.SEC_CFG_SET_HASH = word (crc32c set) ∧
      (setAccepted s set).twin.cfgSetHash = word (crc32c set) := by
  obtain ⟨u, e, hstatus, hhash⟩ := setAccepted_eq s set
  refine KeepsSet.inForce (u := u) ?_ hstatus hhash
  rw [e]
  split
  · exact KeepsSet.linkLock _ _
  · exact KeepsSet.refl _

/-! ### A set that is refused (R492) -/

/-- Taking the torque off the safe axes writes no register. -/
theorem stoAll_keeps {α : Type} (g : State → α) (h : ∀ s a x, g (setSafeAxis s a x) = g s) (l : List Nat) (s : State) :
    g (l.foldl (fun s a => setSafeAxis s a { safeAxis s a with sto := true }) s) = g s := foldl_keeps g (fun _ _ => h _ _ _) l s

theorem rd_hostDefaults (s : State) {a : Nat} (h : blockOf a ≠ HOST) : rd (hostDefaults s) a = rd s a := by
  have hne {b : Nat} (hb : blockOf b = HOST) : a ≠ b := fun e => h (e ▸ hb)
  unfold hostDefaults
  extract_lets n ip u mac v
  exact (rd_setF_ne _ _ _ _ (hne rfl)).trans ((rd_setF_ne _ _ _ _ (hne rfl)).trans ((rd_wr_ne _ _ (hne rfl)).trans
    ((rd_wr_ne _ _ (hne rfl)).trans ((rd_wr_ne _ _ (hne rfl)).trans (rd_wr_ne _ _ (hne rfl))))))

/-- What a refused set shows where the head is not on trial: the record refused, the state, and the island stopped; the memories are as
before. -/
theorem refuseSet_shows (s : State) (type inst : Nat) (h : onTrial s = false) :
    fld (refuseSet s type inst) Reg.SEC_STATUS 2 0 = 4 ∧
      rd (refuseSet s type inst) Reg.SEC_CFG_REFUSED = word (type % 65536 + inst % 65536 * 65536) ∧
        islandSt (refuseSet s type inst) = 0 ∧ (refuseSet s type inst).mem = s.mem := by
  unfold refuseSet
  extract_lets u v w
  have hv {a : Nat} (ha : reportReg a = false) : rd v a = rd u a := rd_event _ _ _ _ _ ha
  have htrial : onTrial v = false := by
    rw [onTrial, fbit, hv (by decide), rd_wr_ne _ _ (by decide)]
    exact h
  have hrefused : rd v Reg.SEC_CFG_REFUSED = word (type % 65536 + inst % 65536 * 65536) := (hv (by decide)).trans (rd_wr_same _ _ _)
  have hmem : v.mem = s.mem := event_mem _ _ _ _ _
  clear_value v
  rw [if_neg (by rw [htrial]; decide)]
  have hstatus : fld w Reg.SEC_STATUS 2 0 = 4 := by
    rw [fld, rd_setF_ne _ _ _ _ (by decide)]
    exact fld_setF _ _ _ _ _ (by decide) (by decide)
  have hisland : fld w Reg.SAFE_STATUS 1 0 = 0 := fld_setF _ _ _ _ _ (by decide) (by decide)
  have hshown : rd w Reg.SEC_CFG_REFUSED = rd v Reg.SEC_CFG_REFUSED :=
    (rd_setF_ne _ _ _ _ (by decide)).trans (rd_setF_ne _ _ _ _ (by decide))
  have hkept : w.mem = v.mem := rfl
  clear_value w
  have hrd {a : Nat} (ha : blockOf a ≠ HOST) :
      rd (hostDefaults ((safeAxes w).foldl (fun s a => setSafeAxis s a { safeAxis s a with sto := true }) w)) a = rd w a :=
    (rd_hostDefaults _ ha).trans (stoAll_keeps (fun s => rd s a) (fun _ _ _ => rfl) _ _)
  refine ⟨(congrArg (wbits · 2 0) (hrd (by decide))).trans hstatus, (hrd (by decide)).trans (hshown.trans hrefused),
    (congrArg (wbits · 1 0) (hrd (by decide))).trans hisland, ?_⟩
  rw [hostDefaults_mem, stoAll_keeps (fun s => s.mem) (fun _ _ _ => rfl), hkept, hmem]

/-! ### The three ends of an application (R492) -/

section ends

variable {rs : List CfgRecord}

theorem configurationApply_invalid (hst : fld s Reg.SEC_STATUS 2 0 = 2) (ht : onTrial s = false)
    (hc : cfgSet (areaBytes s (fld s Reg.SEC_STATUS 5 5)) = none) : configurationApply s = refuseSet s 0xFFFF 0 := by
  unfold configurationApply
  rw [if_neg (by rw [hst]; decide), ht]
  dsimp only [Bool.false_and]
  simp only [Bool.false_and, Bool.false_eq_true, if_false, hc]

theorem configurationApply_unreadable {r : CfgRecord} (hst : fld s Reg.SEC_STATUS 2 0 = 2) (ht : onTrial s = false)
    (hc : cfgSet (areaBytes s (fld s Reg.SEC_STATUS 5 5)) = some rs) (hr : unreadable rs = some r) :
    configurationApply s = refuseSet s r.type r.inst := by
  unfold configurationApply
  rw [if_neg (by rw [hst]; decide), ht]
  simp only [Bool.false_and, Bool.false_eq_true, if_false, hc, hr]

theorem configurationApply_accepted (hst : fld s Reg.SEC_STATUS 2 0 = 2) (ht : onTrial s = false)
    (hc : cfgSet (areaBytes s (fld s Reg.SEC_STATUS 5 5)) = some rs) (hr : unreadable rs = none) (hm : miscounted rs = none)
    (ha : applyAll (areaBytes s (fld s Reg.SEC_STATUS 5 5)) (rs.any fun r => r.type == 5) s (inOrder rs) = .ok u) :
    configurationApply s = setAccepted (defaultCoefs u rs) (areaBytes s (fld s Reg.SEC_STATUS 5 5)) := by
  unfold configurationApply
  rw [if_neg (by rw [hst]; decide), ht]
  simp only [Bool.false_and, Bool.false_eq_true, if_false, hc, hr, hm, ha]

end ends

end configuration

/-- Settles O47, by the three ends of an application. -/
theorem configurationApplyCompletes : Obligations.ConfigurationApplyCompletes := by
  unfold Obligations.ConfigurationApplyCompletes
  intro s h hst ht
  refine ⟨fun hc => ?_, fun rs r hc hr => ?_, fun rs u hc hr hm ha => ?_⟩
  · have hshown := refuseSet_shows s 0xFFFF 0 ht
    refine completes_run_eq (f := configurationApply) rfl h (configurationApply_invalid hst ht hc) ?_
    generalize refuseSet s 0xFFFF 0 = t at hshown
    exact hshown
  · obtain ⟨hstatus, hrefused, -⟩ := refuseSet_shows s r.type r.inst ht
    refine completes_run_eq (f := configurationApply) rfl h (configurationApply_unreadable hst ht hc hr) ?_
    generalize refuseSet s r.type r.inst = t at hstatus hrefused
    exact ⟨hstatus, hrefused⟩
  · have hshown := setAccepted_shows (defaultCoefs u rs) (areaBytes s (fld s Reg.SEC_STATUS 5 5))
    refine completes_run_eq (f := configurationApply) rfl h (configurationApply_accepted hst ht hc hr hm ha) ?_
    generalize setAccepted (defaultCoefs u rs) (areaBytes s (fld s Reg.SEC_STATUS 5 5)) = t at hshown
    exact hshown

end Sys2Proof.Machine
